-- ==== Sys2Proof/Word.lean ====
section
/-!
DEFINITION. Sys2Proof/Word.lean: the word type of the register file and the keyed tables in which the
state holds everything sparse (registers, memory bytes, per-unit records).
-/

namespace Sys2Proof

/-- A register word of BAR0 (R301). -/
abbrev Word := BitVec 64

/-- One byte. -/
abbrev Byte := BitVec 8

/-- A sparse table: key and value pairs, keys rising by a rank, no entry equal to the default. -/
abbrev SMap (κ α : Type) := List (κ × α)

namespace SMap

variable {κ α : Type} [DecidableEq κ]

/-- The value at a key: the entry, or the default of that key. -/
def get (d : κ → α) : SMap κ α → κ → α
  | [], k => d k
  | (k', x) :: r, k => if k = k' then x else get d r k

/-- The table without the key's entries. -/
def del : SMap κ α → κ → SMap κ α
  | [], _ => []
  | (k', x) :: r, k => if k = k' then del r k else (k', x) :: del r k

/-- Insertion before the first key of a higher rank. -/
def ins (rank : κ → Nat) (k : κ) (x : α) : SMap κ α → SMap κ α
  | [] => [(k, x)]
  | (k', y) :: r => if rank k < rank k' then (k, x) :: (k', y) :: r else (k', y) :: ins rank k x r

/-- The table with one value changed; writing the default removes the entry. -/
def put [DecidableEq α] (rank : κ → Nat) (d : κ → α) (m : SMap κ α) (k : κ) (x : α) : SMap κ α :=
  if x = d k then m.del k else ins rank k x (m.del k)

/-- The canonical form: ranks strictly rising, no default listed. -/
def wf (rank : κ → Nat) (d : κ → α) (m : SMap κ α) : Prop :=
  m.Pairwise (fun a b => rank a.1 < rank b.1) ∧ ∀ e ∈ m, e.2 ≠ d e.1

end SMap

/-- A table over numbers with one default. -/
abbrev Tab (α : Type) := SMap Nat α

/-- The value at an index. -/
def Tab.at {α : Type} (d : α) (m : Tab α) (k : Nat) : α := SMap.get (fun _ => d) m k

/-- The table with one index changed. -/
def Tab.upd {α : Type} [DecidableEq α] (d : α) (m : Tab α) (k : Nat) (x : α) : Tab α :=
  SMap.put id (fun _ => d) m k x

/-- The canonical form of a table over numbers. -/
def Tab.wf {α : Type} (d : α) (m : Tab α) : Prop := SMap.wf id (fun _ => d) m

end Sys2Proof
end

