-- ==== Sys2Proof/Syntax.lean ====
section
/-!
DEFINITION. Sys2Proof/Syntax.lean: the commands of the block, one constructor of `Instr` per row of
`spec/opcode_table.json`, and the operand types they carry.
-/

namespace Sys2Proof

/-- The two always-on halves of the device (R343). -/
inductive Half where
  | east
  | west
deriving DecidableEq, Repr

/-- A block that scans at an update strobe: a strobe group of R305, or one part of a group that spans
clock domains and acts as a group of its own (R307). -/
inductive Group where
  /-- Cluster C*c*: sequencer, vector engine, counter sets, sample ring. -/
  | cluster (c : Fin 32)
  /-- Codec *e*. -/
  | codec (e : Fin 40)
  /-- Landing Unit LU*u*. -/
  | lu (u : Fin 4)
  /-- Solver unit SU*s*. -/
  | su (s : Fin 2)
  /-- Mover MV*m*. -/
  | mover (m : Fin 4)
  /-- Fabric port F*p*. -/
  | port (p : Fin 24)
  /-- Collective engine CE*n*. -/
  | ce (n : Fin 4)
  /-- Channel *ch* of the Ferry Engine. -/
  | channel (ch : Fin 64)
  /-- The part of the Ferry Engine's group in the domain of outer port X*x*. -/
  | ferryPort (x : Fin 2)
  /-- The part of the Ferry Engine's group in the Ferry Engine's own domain. -/
  | ferryEngine
  /-- The slice registers of binding *b* in translation unit *x*: XLT_ROOT[x][b]. -/
  | sliceXlt (b : Fin 8) (x : Fin 35)
  /-- The slice registers of binding *b* in the horn engine: FAB_VOTE[b] and FAB_VOTEROOT[b]. -/
  | sliceHorn (b : Fin 8)
  /-- The part of the Device group in a clock domain. -/
  | device (d : Fin 100)
deriving DecidableEq, Repr

/-- Who makes an access to BAR0 (R303). -/
inductive Requester where
  /-- The host over the control link. -/
  | host
  /-- A host core. -/
  | core (k : Fin 32)
  /-- A mover. -/
  | mover (m : Fin 4)
deriving DecidableEq, Repr

/-- A block with a WBUSY bit of its own (R310). -/
inductive PwBlock where
  | slv (s : Fin 2)
  | mem (v : Fin 16)
  | cdc (e : Fin 40)
  | xlt (x : Fin 35)
  | xltAll
  | mov (m : Fin 4)
  | horn
  | fry
  | chan (ch : Fin 64)
  | bnd
  | sec
  | jnl
  | hci
  | smp (c : Fin 32)
  | tel
  | clk
deriving DecidableEq, Repr

/-- Where a packet stands in the detour of R258. -/
inductive Detour where
  /-- It has not detoured. -/
  | fresh
  /-- It has taken the sideways hop and takes the blocked one next: dimension and direction (toward +), the
  sideways dimension, and the channel it was on in the blocked dimension. -/
  | across (dim : Fin 3) (plus : Bool) (side : Fin 3) (ch : Bool)
  /-- It takes the hop back in the sideways dimension next: that dimension, the blocked one, and its channel there. -/
  | back (side : Fin 3) (dim : Fin 3) (ch : Bool)
  /-- It has just taken the hop back: the blocked dimension, and its channel there. -/
  | after (dim : Fin 3) (ch : Bool)
  /-- It has detoured. -/
  | used
deriving DecidableEq, Repr

/-- A fabric packet: the header fields of R252, the payload, and what travels with it outside the header:
the physical destination it was resolved to (R251), its virtual channel (R257), its detour (R258), the port
it arrived at, none where it starts here, and whether its PCRC holds. -/
structure Packet where
  cls : BitVec 2
  typ : BitVec 6
  dst : BitVec 15
  src : BitVec 15
  bid : BitVec 16
  fmt : BitVec 4
  lu : Fin 4
  part : BitVec 2
  step : BitVec 48
  entry : BitVec 16
  index : BitVec 32
  opid : BitVec 16
  hops : BitVec 8
  raw : Bool
  pois : Bool
  payload : List Byte
  phys : BitVec 15
  vc : Bool
  det : Detour
  port : Option (Fin 24)
  pcrcOk : Bool
deriving DecidableEq, Repr

/-- What a flit on a link carries (R248, R249). -/
inductive FlitKind where
  /-- Part of a packet. -/
  | data
  /-- Nothing. -/
  | idle
  /-- An acknowledgement of the flits up to its sequence number. -/
  | ack
  /-- Flits of a class and virtual channel have left the peer's receive buffer: their credits return. -/
  | credit (cls : BitVec 2) (vc : Bool) (n : Nat)
  /-- The peer's horn engine acknowledges the message of its sequence number, or reports that its PCRC failed (R260). -/
  | hornAck
  | hornNak
deriving DecidableEq, Repr

/-- A flit on a link: its kind, its sequence number and whether its CRC and FEC hold (R248). -/
structure Flit where
  kind : FlitKind
  seq : BitVec 16
  crcOk : Bool
deriving DecidableEq, Repr

/-- What happens to a port's echo (R262): its millisecond has passed, the peer's echo flit arrives, or the peer's reply
arrives, with the round trip and the peer's turnaround in ns. -/
inductive Echo where
  | due
  | ask
  | reply (trip turn : BitVec 32)
deriving DecidableEq, Repr

/-- A frame as it arrives at an outer port (R275, R276, R279): the 64-byte header, the payload, and what the
port reads from the packet around them. -/
structure Frame where
  hdr : BitVec 512
  payload : List Byte
  port : Fin 2
  src : BitVec 128
  sport : BitVec 16
  dst : BitVec 128
  dport : BitVec 16
  /-- It has an extension header. -/
  ext : Bool
  sumOk : Bool
  fcsOk : Bool
  /-- Its 802.1Q tags (R274). -/
  tags : Nat
  /-- Its datagram is shorter than the 64 bytes of a header, so that `hdr` and `payload` are not there (R276). -/
  short : Bool
deriving DecidableEq, Repr

/-- What a binding takes from its job beside the image (R24, R25, R194, R331, R335): the crossing interval, the close
limit (0 for its default), the site's index, the pass policy's window, trigger and hold, the checkpoint interval *K*, and
KSTORE (0 for its default). -/
structure JobParams where
  h : Nat
  l : Nat
  site : Fin 16
  win : Nat
  raise : Nat
  hold : Nat
  ckpt : Nat
  kstore : Nat
deriving DecidableEq, Repr

/-- What firmware captures a checkpoint generation with (R331, R334): the mover, its staging region and the area of the
generation, the buddy and its staging region, and the piece records. -/
structure Capture where
  mover : Fin 4
  staging : BitVec 48
  area : BitVec 48
  buddy : BitVec 15
  buddyStaging : BitVec 48
  pieces : List (BitVec 256)
deriving DecidableEq, Repr

/-- The transports of the SPDM responder (R356). -/
inductive SpdmTransport where
  | doe
  | i3c
deriving DecidableEq, Repr

/-- The straps as they stand at the rise of PWR_OK, true for high (R370). -/
structure Straps where
  leadSel : Bool
  bootSrc : Bool
  recovery : Bool
deriving DecidableEq, Repr

/-- What the telemetry controller reads in a loop period (R413, R414): the die sensors in °C, each vault's
layers, each rail group's voltage in mV and current in units of 0.1 A, none where a regulator does not answer. -/
structure Readings where
  temps : List (BitVec 8)
  layers : List (List (BitVec 8))
  rails : List (Option (Nat × Nat))
deriving DecidableEq, Repr

/-- The reference clocks (R434). -/
inductive RefClk where
  | fab (i : Fin 6)
  | xp
  | pcie
  | sys
  | aone
  | aonw
deriving DecidableEq, Repr

/-- The commands of `spec/opcode_table.json`, one constructor per row, with the operands the
environment supplies. -/
inductive Instr where
  /-- `TURNAROUND` (R18). The lead Landing Unit receives the step decision, flips or keeps the version pointer, and raises the update strobe for every block of the binding. -/
  | turnaround (b : Fin 8)
  /-- `STROBE_SCAN` (R307). A strobe group sees the strobe through its synchroniser and applies pending RW writes, then due image records, in ascending offset. -/
  | strobeScan (g : Group)
  /-- `STROBE_ACKNOWLEDGED` (R18). Once all owned blocks acknowledge the strobe, the step counter advances and crossing opening is evaluated. -/
  | strobeAcknowledged (b : Fin 8)
  /-- `ROOT_ROUND_START` (R163). After the strobe of a turnaround ending a step that is a multiple of CAD, a solver unit begins a root round over its table. -/
  | rootRoundStart (s : Fin 2)
  /-- `NOP` (R76). Schedule word that does nothing. -/
  | nop (c : Fin 32) (w : BitVec 128)
  /-- `TLOAD` (R81). Schedule word loading a panel from a tensor, and MXFP4 scales, into operand buffers. -/
  | tload (c : Fin 32) (w : BitVec 128)
  /-- `TSTORE` (R81). Schedule word converting accumulator tiles and writing them through a descriptor, opening an overflow decision unless NOCHK. -/
  | tstore (c : Fin 32) (w : BitVec 128)
  /-- `TEMIT` (R81). Schedule word converting accumulator tiles and placing them on the slipway. -/
  | temit (c : Fin 32) (w : BitVec 128)
  /-- `TEMIT_SLIP_RELEASE` (R91). A TEMIT waiting for slipway granules proceeds once enough granules are free. -/
  | temitSlipRelease (c : Fin 32)
  /-- `DLOAD` (R82). Schedule word loading a 64-byte descriptor into a slot and checking it. -/
  | dload (c : Fin 32) (w : BitVec 128)
  /-- `MMA` (R78). Schedule word multiplying and accumulating panels into the selected arrays' tiles. -/
  | mma (c : Fin 32) (w : BitVec 128)
  /-- `MMAT` (R111). Schedule word multiplying with one or both operands read transposed. -/
  | mmat (c : Fin 32) (w : BitVec 128)
  /-- `STAT` (R117). Schedule word accumulating one curvature-factor tile from sampled rows with stochastic rounding. -/
  | stat (c : Fin 32) (w : BitVec 128)
  /-- `TSIG` (R82). Schedule word adding COUNT to a token. -/
  | tsig (c : Fin 32) (w : BitVec 128)
  /-- `TWAIT` (R82). Schedule word waiting until a token's count reaches COUNT. -/
  | twait (c : Fin 32) (w : BitVec 128)
  /-- `TWAIT_RELEASE` (R83). A waiting TWAIT completes when signals bring its token to COUNT, consuming COUNT unless NOCON. -/
  | twaitRelease (c : Fin 32)
  /-- `BRF` (R82). Schedule word branching always, on a loop counter, on a token count, or on the predicted step decision. -/
  | brf (c : Fin 32) (w : BitVec 128)
  /-- `SEG` (R82). Schedule word recording segment, phase and dead marks as it retires, optionally raising the segment event. -/
  | seg (c : Fin 32) (w : BitVec 128)
  /-- `LSET` (R82). Schedule word setting a loop counter. -/
  | lset (c : Fin 32) (w : BitVec 128)
  /-- `END` (R82). Schedule word stopping the sequencer in IDLE once non-speculative. -/
  | endWord (c : Fin 32) (w : BitVec 128)
  /-- `OVERFLOW_DECISION` (R184). The output stage finishes converting a store or emit's tiles and resolves its overflow decision. -/
  | overflowDecision (c : Fin 32)
  /-- `WATCH_COMPARE` (R192). When the recomputation completes, the output stage forms the disagreement, restores the narrow accumulators and resolves the watch decision. -/
  | watchCompare (c : Fin 32)
  /-- `ARY_START` (R108). ARY_CMD.START starts the sequencer at the applied schedule base. -/
  | aryStart (c : Fin 32)
  /-- `ARY_STOP` (R89). ARY_CMD.STOP requests a drain of the sequencer. -/
  | aryStop (c : Fin 32)
  /-- `SEQUENCER_DRAINED` (R89). After outstanding overflow and watch decisions resolve, the draining sequencer stops at a word boundary in STOPPED. -/
  | sequencerDrained (c : Fin 32)
  /-- `ARY_RESUME` (R108). ARY_CMD.RESUME continues the sequencer from STOPPED or FAULT_STOP. -/
  | aryResume (c : Fin 32)
  /-- `TOKSIG_INC` (R83). A write of INC to ARY_TOKSIG adds 1 to a token. -/
  | toksigInc (c : Fin 32) (t : Fin 64)
  /-- `ADD` (R65). Vector addition. -/
  | add (c : Fin 32) (w : BitVec 64)
  /-- `SUB` (R65). Vector subtraction. -/
  | sub (c : Fin 32) (w : BitVec 64)
  /-- `MUL` (R65). Vector multiplication. -/
  | mul (c : Fin 32) (w : BitVec 64)
  /-- `FMA` (R65). Vector fused multiply-add. -/
  | fma (c : Fin 32) (w : BitVec 64)
  /-- `DIV` (R66). Vector division. -/
  | div (c : Fin 32) (w : BitVec 64)
  /-- `SQRT` (R66). Vector square root. -/
  | sqrt (c : Fin 32) (w : BitVec 64)
  /-- `RCP` (R66). Vector reciprocal. -/
  | rcp (c : Fin 32) (w : BitVec 64)
  /-- `RSQ` (R66). Vector reciprocal square root. -/
  | rsq (c : Fin 32) (w : BitVec 64)
  /-- `MAX` (R68). Vector maximum. -/
  | max (c : Fin 32) (w : BitVec 64)
  /-- `MIN` (R68). Vector minimum. -/
  | min (c : Fin 32) (w : BitVec 64)
  /-- `NEG` (R95). Vector negation. -/
  | neg (c : Fin 32) (w : BitVec 64)
  /-- `ABS` (R95). Vector absolute value. -/
  | abs (c : Fin 32) (w : BitVec 64)
  /-- `EXP` (R67). Vector exponential in binary32. -/
  | exp (c : Fin 32) (w : BitVec 64)
  /-- `LOG` (R67). Vector logarithm in binary32. -/
  | log (c : Fin 32) (w : BitVec 64)
  /-- `TANH` (R67). Vector hyperbolic tangent in binary32. -/
  | tanh (c : Fin 32) (w : BitVec 64)
  /-- `SIGM` (R67). Vector sigmoid in binary32. -/
  | sigm (c : Fin 32) (w : BitVec 64)
  /-- `ERF` (R67). Vector error function in binary32. -/
  | erf (c : Fin 32) (w : BitVec 64)
  /-- `CMP` (R69). Vector comparison writing a mask register. -/
  | cmp (c : Fin 32) (w : BitVec 64)
  /-- `SEL` (R95). Vector lane select by mask. -/
  | sel (c : Fin 32) (w : BitVec 64)
  /-- `CVT` (R56). Vector conversion to a named format. -/
  | cvt (c : Fin 32) (w : BitVec 64)
  /-- `QNT` (R62). Tensor quantisation to MXFP4, X4 or X2 with optional residuals. -/
  | qnt (c : Fin 32) (w : BitVec 64)
  /-- `CVTI` (R64). Vector conversion to signed 32-bit integer. -/
  | cvti (c : Fin 32) (w : BitVec 64)
  /-- `ICVT` (R64). Vector conversion from signed 32-bit integer. -/
  | icvt (c : Fin 32) (w : BitVec 64)
  /-- `RSUM` (R104). Vector pairwise-tree sum reduction. -/
  | rsum (c : Fin 32) (w : BitVec 64)
  /-- `RMAX` (R104). Vector maximum reduction. -/
  | rmax (c : Fin 32) (w : BitVec 64)
  /-- `RMIN` (R104). Vector minimum reduction. -/
  | rmin (c : Fin 32) (w : BitVec 64)
  /-- `PERM` (R106). Vector lane permutation with FILL for out-of-range indices. -/
  | perm (c : Fin 32) (w : BitVec 64)
  /-- `SMAX` (R107). Vector row softmax with mask. -/
  | smax (c : Fin 32) (w : BitVec 64)
  /-- `MOV` (R95). Vector copy. -/
  | mov (c : Fin 32) (w : BitVec 64)
  /-- `VLD` (R95). Vector load of elements of a tensor into lanes. -/
  | vld (c : Fin 32) (w : BitVec 64)
  /-- `VST` (R95). Vector store of lanes into tensor elements. -/
  | vst (c : Fin 32) (w : BitVec 64)
  /-- `SLPOP` (R92). Vector pop of four rows of the slipway head entry into a register. -/
  | slpop (c : Fin 32) (w : BitVec 64)
  /-- `SLPOP_WAIT_END` (R92). A SLPOP or SLTAG waiting on an empty slipway proceeds when an entry joins. -/
  | slpopWaitEnd (c : Fin 32)
  /-- `SLTAG` (R92). Vector read of the slipway head entry's tag and array. -/
  | sltag (c : Fin 32) (w : BitVec 64)
  /-- `SETVL` (R97). Vector instruction setting the vector length. -/
  | setvl (c : Fin 32) (w : BitVec 64)
  /-- `SETF` (R97). Vector instruction setting FILL from lane 0. -/
  | setf (c : Fin 32) (w : BitVec 64)
  /-- `DLD` (R97). Vector instruction loading and checking a descriptor slot. -/
  | dld (c : Fin 32) (w : BitVec 64)
  /-- `VSIG` (R97). Vector instruction signalling a token. -/
  | vsig (c : Fin 32) (w : BitVec 64)
  /-- `VWAIT` (R97). Vector instruction waiting on a token. -/
  | vwait (c : Fin 32) (w : BitVec 64)
  /-- `VWAIT_RELEASE` (R83). A waiting VWAIT completes when its token reaches COUNT. -/
  | vwaitRelease (c : Fin 32)
  /-- `VBR` (R97). Vector branch on a condition. -/
  | vbr (c : Fin 32) (w : BitVec 64)
  /-- `VLSET` (R97). Vector instruction setting a loop counter. -/
  | vlset (c : Fin 32) (w : BitVec 64)
  /-- `VEND` (R97). Vector instruction stopping the engine in IDLE. -/
  | vend (c : Fin 32) (w : BitVec 64)
  /-- `VEC_START` (R109). VEC_CMD.START starts the vector engine at the applied program base. -/
  | vecStart (c : Fin 32)
  /-- `VEC_STOP` (R109). VEC_CMD.STOP stops the vector engine after the current chunk. -/
  | vecStop (c : Fin 32)
  /-- `VEC_RESUME` (R109). VEC_CMD.RESUME continues the vector engine from STOPPED or FAULT_STOP. -/
  | vecResume (c : Fin 32)
  /-- `TILE_LAND` (R143). The lanes land an arrived tile, writing masters, moments and working copy into slot 1−v. -/
  | tileLand (u : Fin 4)
  /-- `PHASE_B_START` (R145). Once all of an OPT 2 entry's phase A writes are acknowledged, the Landing Unit starts its lent cluster on the phase B schedule. -/
  | phaseBStart (u : Fin 4) (entry : Nat)
  /-- `PHASE_C_START` (R145). When the lent cluster reaches END, the lanes run phase C with grafted step sizes. -/
  | phaseCStart (u : Fin 4) (entry : Nat)
  /-- `HOLD_COPY` (R148). After the turnaround completes, a HOLD entry is copied from slot v to slot 1−v. -/
  | holdCopy (u : Fin 4) (entry : Nat)
  /-- `OUTER_UPDATE` (R149). After an OUTER entry's own landing, the outer Nesterov update is applied and the pending mooring written. -/
  | outerUpdate (u : Fin 4) (entry : Nat)
  /-- `LU_VOTE` (R157). Once all entries are landed and writes acknowledged with no cause, a Landing Unit casts its commit vote. -/
  | luVote (u : Fin 4)
  /-- `LND_ABORT` (R158). LND_CMD.ABORT raises cause FORCED before the unit has voted. -/
  | lndAbort (u : Fin 4)
  /-- `LU_DRAINED` (R155). A drained Landing Unit enters DRAINED once its writes are acknowledged and reports drained. -/
  | luDrained (u : Fin 4)
  /-- `FACTOR_BLOCK_READ` (R124). A solver reads a factor block between even SEQ readings, waiting or re-reading as needed. -/
  | factorBlockRead (s : Fin 2)
  /-- `FACTORISATION_DONE` (R165). A factorisation of a block up to 512 wide completes and makes the block ready. -/
  | factorisationDone (s : Fin 2)
  /-- `NEWTON_ITERATE_DONE` (R167). A coupled Newton iterate completes and the block becomes ready or not by its residual. -/
  | newtonIterateDone (s : Fin 2)
  /-- `CYCLE_BUDGET_EXPIRY` (R172). A solver work's cycle budget runs out and its outcome is fixed for the next turnaround. -/
  | cycleBudgetExpiry (s : Fin 2)
  /-- `SLV_JQ_TAIL` (R182). A posted write of the job-ring tail makes new least-squares descriptors available. -/
  | slvJqTail (s : Fin 2) (val : BitVec 64)
  /-- `LOAD_JOB` (R176). A LOAD job checks a structure, fingerprints it and sets LOADED. -/
  | loadJob (s : Fin 2)
  /-- `SOLVE_JOB` (R178). A SOLVE job starts, sets up its preconditioner and requests its first evaluation. -/
  | solveJob (s : Fin 2)
  /-- `CHANGE_LIST_COMPLETE` (R179). When the change list's SEQ equals EVSEQ, the unit applies it and measures rho for the outer iterate. -/
  | changeListComplete (s : Fin 2)
  /-- `INNER_SOLVE_END` (R178). An inner CGLS or LSQR solve meets ITOL or ITMAX and the next outer iterate is written and evaluated. -/
  | innerSolveEnd (s : Fin 2)
  /-- `SLV_STOP` (R174). SLV_CMD.STOP requests a drain of the solver unit. -/
  | slvStop (s : Fin 2)
  /-- `SLV_RESUME` (R174). SLV_CMD.RESUME continues the solver from STOPPED or FAULT_STOP. -/
  | slvResume (s : Fin 2)
  /-- `ABORTJOB` (R182). SLV_CMD.ABORTJOB ends the running least-squares job with ABORTED. -/
  | abortjob (s : Fin 2)
  /-- `ABORTRND` (R182). SLV_CMD.ABORTRND ends the root round in progress with ABORTED. -/
  | abortrnd (s : Fin 2)
  /-- `PASS_POLICY` (R194). After each turnaround firmware reads the count areas and raises or lowers pass floors. -/
  | passPolicy (b : Fin 8)
  /-- `SKIP_RUN_RESPONSE` (R195). After a turnaround firmware responds to the value of LND_SKIPRUN. -/
  | skipRunResponse (b : Fin 8)
  /-- `SECTOR_READ` (R203). A vault controller reads a sector and returns it as stored, corrected or poisoned. -/
  | sectorRead (addr : BitVec 40) (upset : List (Nat × BitVec 8))
  /-- `SECTOR_WRITE` (R202). A vault writes a whole sector, or merges a partial write, setting POISON as the rule gives. -/
  | sectorWrite (addr : BitVec 40) (off : Nat) (data : List (BitVec 8)) (poison : Bool)
  /-- `MEM_INJ` (R219). A posted write of MEM_INJ arms an error injection or sets INJBAD. -/
  | memInj (v : Fin 16) (val : BitVec 64)
  /-- `SCRUB_PASS` (R204). Each scrub interval the vault reads every sector of its column and rewrites uncorrectable ones as poisoned. -/
  | scrubPass (v : Fin 16)
  /-- `REFRESH_RATE_CHANGE` (R200). A layer temperature reading moves a vault between normal and double refresh. -/
  | refreshRateChange (v : Fin 16) (temps : List (BitVec 8))
  /-- `DRAM_OVERTEMP` (R428). A layer at 95 °C sets OVERTEMP and the telemetry controller holds the power ceiling at 100 MHz. -/
  | dramOvertemp (v : Fin 16)
  /-- `DTSTEP_LOAD` (R216). A write of MEM_CDC_DTSTEP starts loading a decode table into the other bank. -/
  | dtstepLoad (e : Fin 40) (val : BitVec 64)
  /-- `TABLE_LOAD_DONE` (R216). A decode-table load completes and the bank becomes LOADED, or switches late with DTLATE. -/
  | tableLoadDone (e : Fin 40)
  /-- `BANK_RETIRE` (R216). A retiring bank becomes empty once no queued block or read in flight names its TID. -/
  | bankRetire (e : Fin 40)
  /-- `XLT_INV` (R226). A posted write of XLT_INV starts an invalidation of cached entries of one binding. -/
  | xltInv (x : Fin 35) (val : BitVec 64)
  /-- `XLT_INVALL` (R226). A posted write of XLT_INVALL starts the invalidation at all translation units. -/
  | xltInvall (val : BitVec 64)
  /-- `INVALIDATION_DONE` (R226). An invalidation completes once covered entries are dropped and their accesses acknowledged, clearing WBUSY. -/
  | invalidationDone (x : Option (Fin 35))
  /-- `FLOG_READ` (R238). A posted write of XLT_FLOG_READ frees fault-log slots. -/
  | flogRead (val : BitVec 64)
  /-- `MOV_TAIL` (R229). A posted write of MOV_TAIL posts descriptors or is refused with BADTAIL. -/
  | movTail (m : Fin 4) (val : BitVec 64)
  /-- `DESCRIPTOR_FETCH` (R229). A mover fetches the next ring descriptor and starts it when fencing and flight limits allow. -/
  | descriptorFetch (m : Fin 4)
  /-- `COPY` (R230). Mover operation copying a local source to a local destination. -/
  | copy (m : Fin 4) (idx : Nat) (n : Nat)
  /-- `FILL` (R230). Mover operation writing PATTERN to the destination. -/
  | fill (m : Fin 4) (idx : Nat) (n : Nat)
  /-- `PUT` (R230). Mover operation writing a local source to a peer's destination. -/
  | put (m : Fin 4) (idx : Nat) (n : Nat) (acked : List Nat) (remote : Nat)
  /-- `GET` (R230). Mover operation reading a peer's source into the local destination. -/
  | get (m : Fin 4) (idx : Nat) (n : Nat) (remote : Nat)
  /-- `FETCH` (R272). Mover operation fetching a working copy's step-difference and expanding it onto the local copy. -/
  | fetch (m : Fin 4) (idx : Nat) (n : Nat) (remote : Nat)
  /-- `DESCRIPTOR_COMPLETE` (R232). A descriptor leaves flight and the mover writes its STATUS and signals its token. -/
  | descriptorComplete (m : Fin 4) (idx : Nat)
  /-- `MOVER_FAULT_STOP` (R234). After in-flight descriptors finish, a faulted mover enters FAULT_STOP. -/
  | moverFaultStop (m : Fin 4)
  /-- `MOV_STOP` (R243). MOV_CMD.STOP drains the mover, stopping each descriptor at an element boundary. -/
  | movStop (m : Fin 4)
  /-- `MOV_RESUME` (R234). MOV_CMD.RESUME restarts held descriptors from their progress. -/
  | movResume (m : Fin 4)
  /-- `MOV_ABORT` (R234). MOV_CMD.ABORT ends every held descriptor ABORTED and returns the mover to IDLE. -/
  | movAbort (m : Fin 4)
  /-- `LINK_DOWN` (R249). A fabric port loses alignment, exhausts replays or hears nothing for 4 µs, re-sends unacknowledged flits and retrains. -/
  | linkDown (p : Fin 24)
  /-- `LINK_TRAINED` (R249). Training ends and the port returns to UP or stays DOWN with PEERMIS. -/
  | linkTrained (p : Fin 24) (peer : BitVec 15)
  /-- `FLIT_RECEIVED` (R248). A flit arrives, is checked and acknowledged in sequence or not acknowledged. -/
  | flitReceived (p : Fin 24) (f : Flit)
  /-- `FLIT_REPLAY` (R248). The sender replays from an unacknowledged flit. -/
  | flitReplay (p : Fin 24)
  /-- `IDLE_FLIT` (R249). A port with nothing to send transmits an idle flit every microsecond. -/
  | idleFlit (p : Fin 24)
  /-- `PACKET_FORWARD` (R256). A router chooses the next hop of a passing packet by dimension order and class port choice. -/
  | packetForward (pkt : Packet)
  /-- `DEVICE_VOTE` (R263). The on-die AND of the binding's votes completes and reaches the horn engine. -/
  | deviceVote (b : Fin 8)
  /-- `VOTE` (R263). A VOTE message is combined into the parent's vote, held, or discarded. -/
  | vote (pkt : Packet)
  /-- `DECISION` (R264). A DECISION message is delivered to the lead Landing Unit, forwarded to children and kept. -/
  | decision (pkt : Packet)
  /-- `DQUERY` (R265). A DQUERY is answered with DECISION by a device that holds the decision. -/
  | dquery (pkt : Packet)
  /-- `VOTE_RETRY` (R265). After RETRY without a decision a device repeats its VOTE and sends a DQUERY. -/
  | voteRetry (b : Fin 8)
  /-- `PING` (R262). A PING is answered with a PONG. -/
  | ping (pkt : Packet)
  /-- `PONG` (R262). A PONG arrives and its round trip is recorded. -/
  | pong (pkt : Packet) (rtt : BitVec 32)
  /-- `FLAG` (R253). A firmware FLAG message is delivered to the receive ring. -/
  | flag (pkt : Packet)
  /-- `HEARTBEAT` (R326). A HEARTBEAT from a neighbour is delivered to firmware. -/
  | heartbeat (pkt : Packet)
  /-- `LEAD` (R327). A LEAD message of warden office or claim is answered or granted. -/
  | lead (pkt : Packet)
  /-- `KEY` (R361). A KEY horn message carries a wrapped key, epoch and crossing to crossing devices. -/
  | key (pkt : Packet)
  /-- `FAILDECL` (R329). A FAILDECL marks the position down, makes the root decide skip if undecided, or starts a takeover. -/
  | faildecl (pkt : Packet)
  /-- `FAB_HORN_TX` (R259). A posted write of FAB_HORN_TX sends or rejects a firmware horn message. -/
  | fabHornTx (val : BitVec 64) (refill : Nat)
  /-- `HORN_RXREAD` (R273). A posted write of FAB_HORN_RXREAD frees receive-ring slots for class 0 delivery. -/
  | hornRxread (val : BitVec 64)
  /-- `FAB_REMAP` (R251). A posted write of a remap entry changes the physical coordinate of a logical one at once. -/
  | fabRemap (l : Fin 32768) (val : BitVec 64)
  /-- `FAB_PDOWN` (R251). A posted write of FAB_PDOWN marks positions down at once. -/
  | fabPdown (i : Fin 512) (val : BitVec 64)
  /-- `ECHO_FLIT` (R262). Each millisecond a port exchanges echo flits with its peer and records the round trip. -/
  | echoFlit (p : Fin 24) (e : Echo)
  /-- `RS_LAND` (R268). When its start token reaches 1, a collective engine reduce-scatters a staged tensor to the owners as CONTRIB packets. -/
  | rsLand (n : Fin 4) (idx : Nat)
  /-- `RS_MEM` (R270). When its start token reaches 1, a collective engine sends a local statistics sum to the keeper as STATCONTRIB packets. -/
  | rsMem (n : Fin 4) (idx : Nat)
  /-- `CONTRIB` (R268). A gradient contribution is widened and summed into its landing-buffer slot and presented when complete. -/
  | contrib (n : Fin 4) (pkt : Packet)
  /-- `STATCONTRIB` (R270). A statistics contribution is summed into SUMBUF and a complete tile is decayed into its factor block. -/
  | statcontrib (n : Fin 4) (pkt : Packet)
  /-- `FETCHREQ` (R272). An owner's mover serves a fetch request with a coded or raw block. -/
  | fetchreq (m : Fin 4) (pkt : Packet)
  /-- `FETCHDATA` (R272). A fetched block is expanded against the local working copy, or re-requested raw if stale. -/
  | fetchdata (m : Fin 4) (pkt : Packet)
  /-- `PUT_PACKET` (R253). A mover PUT packet is written at the peer. -/
  | putPacket (m : Fin 4) (pkt : Packet)
  /-- `GETREQ` (R253). A peer mover serves a GET request by reading and returning data. -/
  | getreq (m : Fin 4) (pkt : Packet)
  /-- `GETDATA` (R253). Returned GET data is written to the local destination. -/
  | getdata (m : Fin 4) (pkt : Packet)
  /-- `CROSS` (R291). A CROSS packet is written into a peer area at the owner, or dropped by the owner checks, or completes the area. -/
  | cross (pkt : Packet)
  /-- `BUDDY` (R332). A BUDDY packet's stored block is written unchanged into the buddy's staging region. -/
  | buddy (m : Fin 4) (pkt : Packet)
  /-- `AUDIT` (R341). An AUDIT packet makes the owner report a SELF failure. -/
  | audit (pkt : Packet)
  /-- `CE_STOP` (R271). FAB_CE_CMD.STOP drains a collective engine. -/
  | ceStop (n : Fin 4)
  /-- `CE_RESUME` (R271). FAB_CE_CMD.RESUME continues a collective engine. -/
  | ceResume (n : Fin 4)
  /-- `FRAME_GROUP_SEND` (R278). In its turn a channel sends one frame group or up to 64 re-sent frames, signing each frame. -/
  | frameGroupSend (ch : Fin 64) (since : BitVec 64)
  /-- `DATA` (R285). An arriving DATA frame is accepted, verified and placed in its group. -/
  | data (ch : Fin 64) (fr : Frame)
  /-- `PARITY` (R285). An arriving PARITY frame is verified and placed in its group. -/
  | parity (ch : Fin 64) (fr : Frame)
  /-- `ACK` (R287). An ACK frees the sender's retention log below CUMGROUP, completes or drops the stream. -/
  | ack (ch : Fin 64) (fr : Frame)
  /-- `NACK` (R287). A NACK makes the sender re-send the named frames, fresh frames or RAW segments. -/
  | nack (ch : Fin 64) (fr : Frame)
  /-- `ECHO` (R295). An ECHO frame is answered with ECHOREPLY. -/
  | echo (ch : Fin 64) (fr : Frame)
  /-- `ECHOREPLY` (R295). An ECHOREPLY gives an RTT that moves the channel between MEASURE, RUN and REMEASURE. -/
  | echoreply (ch : Fin 64) (fr : Frame) (rtt : BitVec 32)
  /-- `HOLD` (R295). A HOLD frame moves the channel to HELD. -/
  | hold (ch : Fin 64) (fr : Frame)
  /-- `RESUME` (R295). A RESUME frame returns the channel to the state it left. -/
  | resume (ch : Fin 64) (fr : Frame)
  /-- `DONE` (R286). A DONE frame announces the stream's end and makes incomplete groups overdue. -/
  | done (ch : Fin 64) (fr : Frame)
  /-- `JOIN` (R297). A JOIN is answered with JOINACK and the donor starts the JOIN stream. -/
  | join (ch : Fin 64) (fr : Frame)
  /-- `JOINACK` (R297). A JOINACK tells the joiner the mooring crossing. -/
  | joinack (ch : Fin 64) (fr : Frame)
  /-- `JOINDONE` (R297). A JOINDONE moves the joining channel to MEASURE. -/
  | joindone (ch : Fin 64) (fr : Frame)
  /-- `JOINRESTART` (R297). A JOINRESTART restarts the JOIN stream at a new mooring crossing. -/
  | joinrestart (ch : Fin 64) (fr : Frame)
  /-- `GROUP_OVERDUE` (R286). When NAKT passes without frames, or later frames arrive, an incomplete group is overdue and a NACK is sent. -/
  | groupOverdue (ch : Fin 64) (stream : BitVec 32) (group : BitVec 32)
  /-- `NACK_REPEAT` (R286). A still-incomplete group's NACK is sent again after SRTT+NAKT. -/
  | nackRepeat (ch : Fin 64) (stream : BitVec 32) (group : BitVec 32)
  /-- `ACK_TIMER` (R287). The receiver sends an ACK after 1 ms or 64 groups of CUMGROUP advance. -/
  | ackTimer (ch : Fin 64)
  /-- `PEERDEAD_EXPIRY` (R295). No verified frame for PEERDEAD moves the channel to LOST. -/
  | peerdeadExpiry (ch : Fin 64)
  /-- `ECHO_INTERVAL` (R295). The echo timer sends an ECHO at the rate of the channel state. -/
  | echoInterval (ch : Fin 64)
  /-- `JOIN_REPEAT` (R297). A JOINING channel repeats JOIN every 100 ms. -/
  | joinRepeat (ch : Fin 64)
  /-- `IVWAIT_RELEASE` (R284). A journal acknowledgement of an IV reservation lets a waiting channel sign again. -/
  | ivwaitRelease (ch : Fin 64)
  /-- `FRY_CH_KEY` (R293). A posted write of FRY_CH_KEY installs a new berth and epoch from a given crossing. -/
  | fryChKey (ch : Fin 64) (val : BitVec 64)
  /-- `CH_STOP` (R295). FRY_CH_CMD.STOP stops a channel at the next frame boundary. -/
  | chStop (ch : Fin 64)
  /-- `CH_RESUME` (R295). FRY_CH_CMD.RESUME moves a stopped or faulted channel to REMEASURE. -/
  | chResume (ch : Fin 64)
  /-- `CH_JOIN` (R297). FRY_CH_CMD.JOIN moves a disabled channel to JOINING. -/
  | chJoin (ch : Fin 64)
  /-- `TXTAIL` (R296). A posted write of FRY_CH_TXTAIL posts send descriptors. -/
  | txtail (ch : Fin 64) (val : BitVec 64)
  /-- `RXTAIL` (R296). A posted write of FRY_CH_RXTAIL posts receive descriptors. -/
  | rxtail (ch : Fin 64) (val : BitVec 64)
  /-- `STREAM_START` (R296). A channel starts the next posted outbound stream after the previous one. -/
  | streamStart (ch : Fin 64)
  /-- `GMAC_SELF_TEST` (R366). Once a second a streaming GMAC engine runs its known-answer test and may fall back. -/
  | gmacSelfTest (x : Fin 2) (ok : Bool)
  /-- `REGISTER_WRITE` (R306). A write to a register without its own row is taken as pending, posted or logged. -/
  | registerWrite (req : Requester) (addr : BitVec 26) (size : Nat) (val : BitVec 64)
  /-- `RC_READ` (R8). A read of an RC register returns and clears its bits. -/
  | rcRead (req : Requester) (addr : BitVec 26) (size : Nat)
  /-- `BLOG_READ` (R303). A read of a BND_BLOG slot sets its read mark. -/
  | blogRead (req : Requester) (slot : Fin 16)
  /-- `APPLY` (R308). BND_CMD.APPLY raises the strobe for unowned and device groups. -/
  | apply
  /-- `FORCETURN` (R23). BND_CMD.FORCETURN forces the turnaround of a binding not in a step. -/
  | forceturn (b : Fin 8)
  /-- `BND_END` (R323). BND_CMD.END drains and frees a binding. -/
  | bndEnd (b : Fin 8)
  /-- `IMAGE_LOAD` (R317). BND_IMG_CTRL.GO starts the loader on an image. -/
  | imageLoad (val : BitVec 64)
  /-- `IMAGE_CHECK_DONE` (R319). The loader finishes checking an image and rejects it, applies a full image, or arms a partial one. -/
  | imageCheckDone (params : JobParams)
  /-- `REBIND_REQUEST` (R321). BND_RB_REQ.GO starts a re-binding. -/
  | rebindRequest (val : BitVec 64)
  /-- `REBIND_DRAIN_DONE` (R321). The moving units have drained and their state is saved, then the partial image is loaded. -/
  | rebindDrainDone
  /-- `REBIND_TIMEOUT` (R322). A re-binding phase overruns 1 ms (RBLATE) or 10 ms (FAILED). -/
  | rebindTimeout (final : Bool)
  /-- `HEARTBEAT_SEND` (R326). Every HBINT firmware sends HEARTBEAT to each neighbour. -/
  | heartbeatSend
  /-- `HBDEAD_EXPIRY` (R326). No heartbeat for HBDEAD makes the device report the neighbour suspect. -/
  | hbdeadExpiry (dir : Fin 6)
  /-- `LEAD_ROUND` (R327). Every LEADINT the warden sends LEAD and keeps or loses office by the answers. -/
  | leadRound
  /-- `WARDEN_CLAIM` (R327). After 3·LEADINT without LEAD plus its rank delay, a candidate claims the next term. -/
  | wardenClaim
  /-- `CONFIRM_EXPIRY` (R328). No PONG within CONFIRM makes the warden declare the suspect failed. -/
  | confirmExpiry (phys : BitVec 15)
  /-- `FSTOPMAX_EXPIRY` (R325). A unit left in FAULT_STOP for FSTOPMAX is a SELF failure. -/
  | fstopmaxExpiry
  /-- `PREPARE` (R337). A PREPARE is answered with the device's newest complete generation. -/
  | prepare (term : Nat) (log relief : BitVec 15)
  /-- `GO` (R338). A GO makes the device remap, restore or fetch generation R, and rewind. -/
  | go (term gen : Nat) (log relief : BitVec 15) (dead : List (BitVec 16 × BitVec 16))
  /-- `RUN` (R338). A RUN from the warden lets the rewound binding step again. -/
  | run (term : Nat)
  /-- `CHECKPOINT_GENERATION` (R331). After a captured commit turnaround the movers copy pieces to the device's and buddy's areas. -/
  | checkpointGeneration (b : Fin 8) (cap : Capture)
  /-- `GENERATION_COMPLETE` (R333). A device's area and its buddy's are written and it reports completion to the warden. -/
  | generationComplete (b : Fin 8)
  /-- `GENDONE` (R333). A GENDONE makes the device journal the manifest header. -/
  | gendone (b : Fin 8) (gen : Nat)
  /-- `CHECKPOINT_STORE` (R335). Every KSTORE steps firmware sends a generation area to storage as a stream. -/
  | checkpointStore (b : Fin 8)
  /-- `REPLICA_AUDIT` (R341). After a layer's fetch tokens firmware checks sampled working-copy blocks against their digests. -/
  | replicaAudit (b : Fin 8) (va : BitVec 48) (owner : BitVec 15) (again : Bool)
  /-- `LEASE_RENEWAL` (R343). Every 1 ms the leading half renews its lease and the follower acknowledges. -/
  | leaseRenewal (acked : Bool)
  /-- `LEASE_CLAIM` (R343). Missed renewals or acknowledgements make a half claim, release or pull FAULT_N. -/
  | leaseClaim (half : Half)
  /-- `YIELD` (R343). The leader yields to the follower by handshake. -/
  | yield
  /-- `BOOT_VERIFY` (R351). A half's ROM verifies a firmware image in six steps. -/
  | bootVerify (half : Half)
  /-- `FOLLOWER_OUTCOME` (R353). The follower's outcome and digest are compared with the leader's, halting on disagreement. -/
  | followerOutcome (outcome : Nat) (digest : BitVec 384)
  /-- `ARB_CMD` (R354). A write of SEC_ARB_CMD journals, burns and mirrors the anti-rollback target. -/
  | arbCmd (val : BitVec 64)
  /-- `CLAIM` (R358). SEC_OWN_CMD CLAIM stores an owner record and outputs a signed transport key. -/
  | claim (val : BitVec 64)
  /-- `SETKEK` (R358). SEC_OWN_CMD SETKEK unwraps and keeps the owner KEK. -/
  | setkek (val : BitVec 64)
  /-- `RELEASE` (R359). SEC_OWN_CMD RELEASE verifies the release record and erases ownership. -/
  | release (val : BitVec 64)
  /-- `BERTH_LOAD` (R361). SEC_BERTH_CMD LOAD unwraps a blob into a berth. -/
  | berthLoad (val : BitVec 64)
  /-- `BERTH_CLEAR` (R362). SEC_BERTH_CMD CLEAR empties a berth unless held. -/
  | berthClear (val : BitVec 64)
  /-- `SEC_CQ_TAIL` (R364). A posted write of SEC_CQ_TAIL posts CMAC requests. -/
  | secCqTail (val : BitVec 64)
  /-- `GEN` (R364). A CMAC GEN request writes a tag. -/
  | gen
  /-- `VERIFY` (R364). A CMAC VERIFY request reports MATCH or MISMATCH. -/
  | verify
  /-- `GET_VERSION` (R356). SPDM GET_VERSION request. -/
  | getVersion (t : SpdmTransport) (req : List (BitVec 8))
  /-- `GET_CAPABILITIES` (R356). SPDM GET_CAPABILITIES request. -/
  | getCapabilities (t : SpdmTransport) (req : List (BitVec 8))
  /-- `NEGOTIATE_ALGORITHMS` (R356). SPDM NEGOTIATE_ALGORITHMS request. -/
  | negotiateAlgorithms (t : SpdmTransport) (req : List (BitVec 8))
  /-- `GET_DIGESTS` (R356). SPDM GET_DIGESTS request. -/
  | getDigests (t : SpdmTransport) (req : List (BitVec 8))
  /-- `GET_CERTIFICATE` (R356). SPDM GET_CERTIFICATE request. -/
  | getCertificate (t : SpdmTransport) (req : List (BitVec 8))
  /-- `CHALLENGE` (R356). SPDM CHALLENGE answered with dual signatures. -/
  | challenge (t : SpdmTransport) (req : List (BitVec 8))
  /-- `GET_MEASUREMENTS` (R357). SPDM GET_MEASUREMENTS answered with signed measurement blocks. -/
  | getMeasurements (t : SpdmTransport) (req : List (BitVec 8))
  /-- `LNQ_GET_SLHCERT` (R356). Vendor-defined request returning the SLH-DSA certificate chain. -/
  | lnqGetSlhcert (t : SpdmTransport) (req : List (BitVec 8))
  /-- `DEBUG_CHALLENGE` (R363). A signed answer to the debug nonce opens debug after clearing berths and keys. -/
  | debugChallenge (sig : List (BitVec 8))
  /-- `RNG_READ` (R367). A read of SEC_RNG returns 64 fresh random bits. -/
  | rngRead
  /-- `PWR_OK_RISE` (R370). PWR_OK rises: straps are latched, fuses read and bring-up starts. -/
  | pwrOkRise (straps : Straps)
  /-- `PWR_OK_FALL` (R369). PWR_OK falls and the whole device resets. -/
  | pwrOkFall
  /-- `PERST_N` (R391). PERST_N resets the PCI Express block, configuration space and host queues. -/
  | perstN
  /-- `FUNCTION_LEVEL_RESET` (R391). A Function Level Reset resets the link state, MSI-X table and host queues. -/
  | functionLevelReset
  /-- `JOURNAL_REPLAY` (R384). After the host cores are released the journal engine replays the live region. -/
  | journalReplay
  /-- `PILOT_DECLARE` (R374). Firmware declares pilot service with the reduced set of blocks. -/
  | pilotDeclare
  /-- `FULL_SERVICE_DECLARE` (R376). Firmware ends pilot bindings, switches the memory map, sets cluster clocks and raises READY. -/
  | fullServiceDeclare
  /-- `BRINGUP_LIMIT` (R377). A bring-up limit passes and the device becomes STUCK. -/
  | bringupLimit (cause : Nat)
  /-- `JNL_HLW` (R373). A posted write of JNL_HLW with GO submits a host-loaded image for verification. -/
  | jnlHlw (val : BitVec 64)
  /-- `JNL_APPEND` (R383). A posted write of JNL_APPEND queues a record for the journal. -/
  | jnlAppend (val : BitVec 64)
  /-- `RECORD_ACKNOWLEDGED` (R383). A record is programmed and read back and JNL_ACKSEQ advances. -/
  | recordAcknowledged (ok : Bool)
  /-- `COMPACT` (R385). JNL_CMD.COMPACT, or the live region passing 75 %, starts compaction. -/
  | compact
  /-- `COMPACTION_DONE` (R385). The COMMIT record of a compaction is programmed and the new region becomes live. -/
  | compactionDone (ok : Bool)
  /-- `ERASE` (R380). JNL_FW_CMD ERASE erases a firmware slot. -/
  | erase (val : BitVec 64)
  /-- `PROGRAM` (R380). JNL_FW_CMD PROGRAM writes a firmware slot from plain memory. -/
  | program (val : BitVec 64)
  /-- `FW_CMD_DONE` (R380). An ERASE or PROGRAM completes and sets FWDONE. -/
  | fwCmdDone
  /-- `SQ_DOORBELL` (R392). A submission tail doorbell write posts commands or sets BADDB. -/
  | sqDoorbell (q : Fin 17) (val : BitVec 32)
  /-- `CQ_DOORBELL` (R392). A completion head doorbell write frees completion slots. -/
  | cqDoorbell (q : Fin 17) (val : BitVec 32)
  /-- `QCTRL_WRITE` (R402). A posted write of HCI_QCTRL enables or disables a queue. -/
  | qctrlWrite (q : Fin 17) (val : BitVec 64)
  /-- `COMMAND_FETCH` (R393). The device fetches and accepts a command from a queue in round robin. -/
  | commandFetch (q : Fin 17) (entry : Option (List (BitVec 8)))
  /-- `HOST_NOP` (R397). Host command that does nothing. -/
  | hostNop (q : Fin 17)
  /-- `HOSTCOPY` (R397). Host command copying between host memory and device memory. -/
  | hostcopy (q : Fin 17)
  /-- `FWMSG` (R397). Host command passing a message to job-control firmware. -/
  | fwmsg (q : Fin 17) (answer : BitVec 48)
  /-- `HOST_LOAD` (R397). Host command loading an image for a binding. -/
  | hostLoad (q : Fin 17)
  /-- `HOST_REBIND` (R397). Host command starting a re-binding. -/
  | hostRebind (q : Fin 17)
  /-- `HOST_START` (R397). Host command making an IDLE binding STEPPING. -/
  | hostStart (q : Fin 17) (join : Option (BitVec 32))
  /-- `HOST_STOP` (R397). Host command draining a binding at a given turnaround. -/
  | hostStop (q : Fin 17)
  /-- `HOST_FORCETURN` (R397). Host command forcing a turnaround. -/
  | hostForceturn (q : Fin 17)
  /-- `HOST_APPLY` (R397). Host command raising APPLY. -/
  | hostApply (q : Fin 17)
  /-- `HOST_END` (R397). Host command ending a binding. -/
  | hostEnd (q : Fin 17)
  /-- `REWIND` (R338). Host command rewinding a binding to a generation area's manifest. -/
  | rewind (q : Fin 17)
  /-- `DRAIN` (R397). Host command ending every binding and returning the device to READY. -/
  | drain (q : Fin 17)
  /-- `COMPLETION_TIMEOUT` (R390). A device read of host memory without completion for 50 ms fails with DMA_ERROR. -/
  | completionTimeout (q : Fin 17)
  /-- `FWMSG_TIMEOUT` (R397). An unanswered FWMSG ends FAILED after 2^30 cycles. -/
  | fwmsgTimeout (q : Fin 17)
  /-- `REWIND_TIMEOUT` (R397). A REWIND not ended within 10 s completes FAILED. -/
  | rewindTimeout (q : Fin 17)
  /-- `CNT_CLEAR` (R407). CNT_CMD.CLEAR sets every programmable counter of a set to 0. -/
  | cntClear (set : Fin 132)
  /-- `SMP_READ` (R412). A posted write of SMP_READ frees sample-ring slots. -/
  | smpRead (c : Fin 32) (val : BitVec 64)
  /-- `TELEMETRY_LOOP` (R415). Every 1 ms the controller reads sensors and rails and recomputes the power and thermal caps. -/
  | telemetryLoop (r : Readings)
  /-- `DROOP` (R417). A voltage droop halves the quadrant's cluster clocks for 256 cycles. -/
  | droop (q : Fin 4)
  /-- `DROOP_STRETCH_END` (R417). A droop stretch ends after 256 cycles. -/
  | droopStretchEnd (q : Fin 4)
  /-- `AVS_TIMEOUT` (R416). An AVSBus command unacknowledged within 1 ms sets AVSERR. -/
  | avsTimeout
  /-- `READ_TEMPERATURE_1` (R419). PMBus target command returning the hottest die sensor. -/
  | readTemperature1
  /-- `READ_TEMPERATURE_2` (R419). PMBus target command returning the hottest DRAM layer. -/
  | readTemperature2
  /-- `READ_PIN` (R419). PMBus target command returning package power. -/
  | readPin
  /-- `STATUS_WORD` (R419). PMBus target command returning status. -/
  | statusWord
  /-- `PMBUS_INVALID_COMMAND` (R419). Any other PMBus command is answered with the invalid-command response. -/
  | pmbusInvalidCommand
  /-- `PLDM_REQUEST` (R419). A PLDM request over MCTP on I3C returns sensor values. -/
  | pldmRequest (sensor : Nat)
  /-- `CLK_CLFREQ` (R437). A posted write of CLK_CLFREQ changes a cluster's configured frequency. -/
  | clkClfreq (c : Fin 32) (val : BitVec 64)
  /-- `CLK_GATE` (R438). A posted write of CLK_GATELO or CLK_GATEHI gates or ungates domains. -/
  | clkGate (hi : Bool) (val : BitVec 64)
  /-- `REFCLK_LOSS` (R435). A reference clock is lost and its ports, link or device respond. -/
  | refclkLoss (r : RefClk)
  /-- `REFCLK_RETURN` (R435). A lost fabric, outer or PCIe reference returns and its ports retrain. -/
  | refclkReturn (r : RefClk)
  /-- `THERMTRIP` (R429). A trip comparator stops clocks and asserts THERMTRIP_N and FAULT_N. -/
  | thermtrip (half : Half)
  /-- `OUTER_PORT_LINK_DOWN` (R274). An outer Ethernet port loses its link, sets FRY_PERR.LINKDOWN and goes DOWN. -/
  | outerPortLinkDown (x : Fin 2)
  /-- `OUTER_PORT_TRAINED` (R274). An outer port ends auto-negotiation and link training and its FRY_PSTATUS.STATE returns to UP. -/
  | outerPortTrained (x : Fin 2)
  /-- `REGION_ERASE_DONE` (R385). The background erase of a killed journal region ends, IDLEOK becomes 1, and a compaction that was due may begin. -/
  | regionEraseDone
  /-- `AVSBUS_ACKNOWLEDGE` (R416). The VDD_CORE regulator acknowledges an AVSBus target, and 50 µs later the controller raises the cluster clocks that waited for it. -/
  | avsbusAcknowledge
  /-- `POSTED_WRITE_TAKES_EFFECT` (R310). A posted write finishes taking effect in its block and the block's WBUSY returns to 0. -/
  | postedWriteTakesEffect (blk : PwBlock)
  /-- `DEVICE_READ_COMPLETION` (R390). The host returns the completion to a device read of host memory, delivering command bytes or HOSTCOPY data, or a poisoned TLP that ends the command with DMA_ERROR. -/
  | deviceReadCompletion (q : Fin 17) (data : List (BitVec 8)) (poison : Bool)
  /-- `RNG_HEALTH_TEST_FAILURE` (R367). The random source fails a health test: RNGOK falls to 0, SEC_ERR.RNGFAIL is set, and SEC_RNG reads 0. -/
  | rngHealthTestFailure
  /-- `COUNTER_WRAP` (R404). A counter that counts cycles passes its width, wraps, and sets its CNT_OVF bit. -/
  | counterWrap (set : Fin 132)
  /-- `PLL_LOSS_OF_LOCK` (R443). A PLL loses lock: CLK_ERR.UNLOCK is set and its CLK_LOCK bit clears. -/
  | pllLossOfLock (i : Fin 37)
deriving DecidableEq, Repr

end Sys2Proof
end

