-- ==== Sys2Proof/Decode.lean ====
section
/-!
DEFINITION. Sys2Proof/Decode.lean: the command a word of the opcode table spells.
-/

namespace Sys2Proof

/-- The command that a word spells by the table's bits. `spec/opcode_table.json` gives bits to no row,
so no word spells a command. -/
def decodeTableWord (_nbits _w : Nat) : Option Instr := none

end Sys2Proof
end

