-- ==== Sys2Proof/Machine/RegMap.lean ====
section
/-!
DEFINITION. Sys2Proof/Machine/RegMap.lean: the register map of BAR0, written from the register and
field tables of the chapters (R11): for each register its address, access class (R8), reset value
(R9) and implemented bits (R10), and for each field its place.
-/

namespace Sys2Proof

/-- The access classes of R8. -/
inductive Access where
  | rw
  | ro
  | rc
  | ws
  | pw
deriving DecidableEq, Repr

/-- The registers of BAR0, by name. An arrayed register carries its index, or two, in its key. -/
inductive RegName where
  -- R108
  | ARY_SCHED_BASE
  | ARY_DTAB_BASE
  | ARY_CMD
  | ARY_STATUS
  | ARY_PC
  | ARY_ERR
  | ARY_ERRADDR
  | ARY_FLAGS
  | ARY_SPEC
  | ARY_LONGEXP
  | ARY_TOKEN
  | ARY_TOKSIG
  | ARY_PASSFLOOR
  -- R109
  | VEC_PROG_BASE
  | VEC_DTAB_BASE
  | VEC_CMD
  | VEC_STATUS
  | VEC_PC
  | VEC_ERR
  | VEC_ERRADDR
  | VEC_FLAGS
  | VEC_EVT
  | VEC_FILL
  | VEC_LOOPIDX
  -- R158
  | LND_LTAB_BASE
  | LND_LTAB_COUNT
  | LND_CMD
  | LND_STATUS
  | LND_ERR
  | LND_FLAGS
  | LND_LRSCALE
  | LND_LENT
  | LND_ERRENT
  | LND_ERRIDX
  | LND_SKIPCNT
  | LND_SKIPRUN
  | LND_LATECNT
  | LND_DIFFREJ
  | LND_WIDECNT
  | LND_STEP
  | LND_XDROPCNT
  -- R182
  | SLV_JQ_BASE
  | SLV_JQ_CTRL
  | SLV_JQ_TAIL
  | SLV_JQ_HEAD
  | SLV_CMD
  | SLV_STATUS
  | SLV_ERR
  | SLV_EVT
  | SLV_FLAGS
  | SLV_RTAB_BASE
  | SLV_RTAB_COUNT
  | SLV_CADENCE
  | SLV_LENT
  | SLV_CURJOB
  | SLV_ABANDONCNT
  | SLV_STALECNT
  | SLV_ACCEPTCNT
  | SLV_WARMREJCNT
  | SLV_REREADCNT
  | SLV_FAILCNT
  -- R219
  | MEM_STATUS
  | MEM_ERR
  | MEM_CECNT
  | MEM_UECNT
  | MEM_ERRADDR
  | MEM_ERRINFO
  | MEM_SCRUB
  | MEM_TEMP
  | MEM_INJ
  -- R220
  | MEM_CDC_CRTBASE
  | MEM_CDC_CRTCOUNT
  | MEM_CDC_DTADDR
  | MEM_CDC_DTSTEP
  | MEM_CDC_STATUS
  | MEM_CDC_ERR
  | MEM_CDC_BWIN
  | MEM_CDC_STALECNT
  | MEM_CDC_STALLCNT
  | MEM_CDC_RAWCNT
  -- R245
  | XLT_ROOT
  | XLT_INV
  | XLT_STATUS
  | XLT_ERR
  | XLT_WALKCNT
  | XLT_INVALL
  | XLT_GSTATUS
  | XLT_FLOG_BASE
  | XLT_FLOG_SIZE
  | XLT_FLOG_HEAD
  | XLT_FLOG_READ
  | XLT_FLOG_LOST
  -- R246
  | MOV_RING_BASE
  | MOV_RING_CTRL
  | MOV_TAIL
  | MOV_HEAD
  | MOV_CMD
  | MOV_STATUS
  | MOV_ERR
  | MOV_ERRDESC
  | MOV_DONECNT
  -- R273
  | FAB_PCFG
  | FAB_PSTATUS
  | FAB_PERR
  | FAB_ARB
  | FAB_ECHO
  | FAB_HORNRES
  | FAB_REPLAYCNT
  | FAB_DROPCNT
  | FAB_COORD
  | FAB_DIMS
  | FAB_HORN_CTRL
  | FAB_HORN_STATUS
  | FAB_HORN_ERR
  | FAB_HORN_TX
  | FAB_HORN_RXHEAD
  | FAB_HORN_RXREAD
  | FAB_VOTE
  | FAB_VOTESTAT
  | FAB_SRCDROPCNT
  | FAB_VOTEROOT
  | FAB_PDOWN
  | FAB_REMAP
  | FAB_CE_OPBASE
  | FAB_CE_OPCOUNT
  | FAB_CE_CMD
  | FAB_CE_STATUS
  | FAB_CE_ERR
  | FAB_CE_FLAGS
  | FAB_CE_ERRADDR
  | FAB_CE_LATECNT
  -- R298
  | FRY_PCFG
  | FRY_PSTATUS
  | FRY_PERR
  | FRY_MAC
  | FRY_GWMAC
  | FRY_IPLO
  | FRY_IPHI
  | FRY_DROPCNT
  | FRY_CTRL
  | FRY_STATUS
  | FRY_ERR
  | FRY_CTD_BASE
  | FRY_XMAP_BASE
  | FRY_XMAP_COUNT
  | FRY_PEERS
  | FRY_XPARAM
  | FRY_TIMERS
  | FRY_CH_CFG
  | FRY_CH_PEERLO
  | FRY_CH_PEERHI
  | FRY_CH_RATE
  | FRY_CH_KEY
  | FRY_CH_CMD
  | FRY_CH_STATUS
  | FRY_CH_ERR
  | FRY_CH_RTT
  | FRY_CH_TXRING
  | FRY_CH_TXTAIL
  | FRY_CH_RXRING
  | FRY_CH_RXTAIL
  | FRY_CH_CTR
  | FRY_CH_NACKCNT
  | FRY_CH_RESENDCNT
  | FRY_CH_REPAIRCNT
  | FRY_CH_ICVFAIL
  | FRY_CH_LATECNT
  | FRY_CH_STALECNT
  | FRY_CH_DUPCNT
  -- R324
  | BND_STATUS
  | BND_CMD
  | BND_ERR
  | BND_IMG_ADDR
  | BND_IMG_CTRL
  | BND_IMG_STATUS
  | BND_RB_REQ
  | BND_RB_STATUS
  | BND_BLOGHEAD
  | BND_BLOGLOST
  | BND_BLOG
  | BND_STATE
  | BND_JOB
  | BND_STEP
  | BND_COMMIT
  | BND_CROSS
  | BND_CLMASK
  | BND_UNITS
  | BND_CHMASK
  | BND_ARMED
  -- R367
  | SEC_STATUS
  | SEC_ERR
  | SEC_BOOT
  | SEC_ARB
  | SEC_ARB_CMD
  | SEC_OWN_CMD
  | SEC_BERTH_CMD
  | SEC_CQ_BASE
  | SEC_CQ_TAIL
  | SEC_CQ_HEAD
  | SEC_GMAC_STATUS
  | SEC_RNG
  | SEC_BERTH_META
  -- R387
  | JNL_STATUS
  | JNL_ERR
  | JNL_BRINGUP
  | JNL_SEQ
  | JNL_ACKSEQ
  | JNL_CGEN
  | JNL_APPEND
  | JNL_CMD
  | JNL_HLW
  | JNL_FW_SRC
  | JNL_FW_CMD
  -- R401
  | GLB_ID
  | GLB_SERIAL
  | GLB_STATE
  | GLB_EVT
  | GLB_FLEVEL
  -- R402
  | HCI_STATUS
  | HCI_ERR
  | HCI_FWDB_SQ
  | HCI_FWDB_CQ
  | HCI_SQ_BASE
  | HCI_CQ_BASE
  | HCI_QCTRL
  | HCI_QSTAT
  -- R407
  | CNT_CYCLE
  | CNT_OVF
  | CNT_CMD
  | CNT_SEL
  | CNT_VAL
  -- R412
  | SMP_CTRL
  | SMP_BASE
  | SMP_HEAD
  | SMP_READ
  | SMP_LOST
  | SMP_ERR
  -- R420
  | TEL_STATUS
  | TEL_ERR
  | TEL_PCAP
  | TEL_THERM
  | TEL_FCAP
  | TEL_POWER
  | TEL_VCORE
  | TEL_ALERT
  | TEL_ALERTEN
  | TEL_DROOPCNT
  | TEL_THROTCNT
  | TEL_TEMP
  | TEL_RAIL
  -- R443
  | CLK_STATUS
  | CLK_ERR
  | CLK_GATELO
  | CLK_GATEHI
  | CLK_REF
  | CLK_LOCK
  | CLK_CLFREQ
  | CLK_CLSTAT
  | CLK_VF
deriving DecidableEq, Repr

/-- One register: where it lies, how often it is repeated (stride and count, twice), its access
class, its reset value and its implemented bits. -/
structure RegInfo where
  base  : Nat
  s1    : Nat
  n1    : Nat
  s2    : Nat
  n2    : Nat
  acc   : Access
  reset : Nat
  mask  : Nat
deriving DecidableEq, Repr

/-- The register tables. -/
def RegName.info : RegName → RegInfo
  | .ARY_SCHED_BASE => ⟨0x00400000, 0x10000, 32, 0x0, 1, .rw, 0x0, 0xFFFFFFFFFFFF⟩
  | .ARY_DTAB_BASE => ⟨0x00400008, 0x10000, 32, 0x0, 1, .rw, 0x0, 0xFFFFFFFFFFFF⟩
  | .ARY_CMD => ⟨0x00400010, 0x10000, 32, 0x0, 1, .ws, 0x0, 0x7⟩
  | .ARY_STATUS => ⟨0x00400018, 0x10000, 32, 0x0, 1, .ro, 0x800000, 0x7FFFFFFFF01FF⟩
  | .ARY_PC => ⟨0x00400020, 0x10000, 32, 0x0, 1, .ro, 0x0, 0xFFFFFFFFFFFF⟩
  | .ARY_ERR => ⟨0x00400028, 0x10000, 32, 0x0, 1, .rc, 0x0, 0xF⟩
  | .ARY_ERRADDR => ⟨0x00400030, 0x10000, 32, 0x0, 1, .ro, 0x0, 0xFFFFFFFFFFFF⟩
  | .ARY_FLAGS => ⟨0x00400038, 0x10000, 32, 0x0, 1, .rc, 0x0, 0xF⟩
  | .ARY_SPEC => ⟨0x00400040, 0x10000, 32, 0x0, 1, .rw, 0x4, 0x7⟩
  | .ARY_LONGEXP => ⟨0x00400048, 0x10000, 32, 0x0, 1, .ro, 0xE, 0x1F⟩
  | .ARY_TOKEN => ⟨0x00400200, 0x10000, 32, 0x8, 64, .ro, 0x0, 0xFFFF⟩
  | .ARY_TOKSIG => ⟨0x00400600, 0x10000, 32, 0x8, 64, .ws, 0x0, 0x1⟩
  | .ARY_PASSFLOOR => ⟨0x00400A00, 0x10000, 32, 0x8, 8, .rw, 0x0, 0xFFFFFFFFFFFFFFFF⟩
  | .VEC_PROG_BASE => ⟨0x00600000, 0x10000, 32, 0x0, 1, .rw, 0x0, 0xFFFFFFFFFFFF⟩
  | .VEC_DTAB_BASE => ⟨0x00600008, 0x10000, 32, 0x0, 1, .rw, 0x0, 0xFFFFFFFFFFFF⟩
  | .VEC_CMD => ⟨0x00600010, 0x10000, 32, 0x0, 1, .ws, 0x0, 0x7⟩
  | .VEC_STATUS => ⟨0x00600018, 0x10000, 32, 0x0, 1, .ro, 0x1000000, 0x1FF0007⟩
  | .VEC_PC => ⟨0x00600020, 0x10000, 32, 0x0, 1, .ro, 0x0, 0xFFFFFFFFFFFF⟩
  | .VEC_ERR => ⟨0x00600028, 0x10000, 32, 0x0, 1, .rc, 0x0, 0xB⟩
  | .VEC_ERRADDR => ⟨0x00600030, 0x10000, 32, 0x0, 1, .ro, 0x0, 0xFFFFFFFFFFFF⟩
  | .VEC_FLAGS => ⟨0x00600038, 0x10000, 32, 0x0, 1, .rc, 0x0, 0xF⟩
  | .VEC_EVT => ⟨0x00600040, 0x10000, 32, 0x0, 1, .rc, 0x0, 0x3⟩
  | .VEC_FILL => ⟨0x00600048, 0x10000, 32, 0x0, 1, .ro, 0x0, 0xFFFFFFFFFFFFFFFF⟩
  | .VEC_LOOPIDX => ⟨0x00600050, 0x10000, 32, 0x8, 6, .ro, 0x0, 0xFFFFFF⟩
  | .LND_LTAB_BASE => ⟨0x00800000, 0x10000, 4, 0x0, 1, .rw, 0x0, 0xFFFFFFFFFF80⟩
  | .LND_LTAB_COUNT => ⟨0x00800008, 0x10000, 4, 0x0, 1, .rw, 0x0, 0xFFFF⟩
  | .LND_CMD => ⟨0x00800010, 0x10000, 4, 0x0, 1, .ws, 0x0, 0x1⟩
  | .LND_STATUS => ⟨0x00800018, 0x10000, 4, 0x0, 1, .ro, 0x0, 0x7FF⟩
  | .LND_ERR => ⟨0x00800020, 0x10000, 4, 0x0, 1, .rc, 0x0, 0x3FF⟩
  | .LND_FLAGS => ⟨0x00800028, 0x10000, 4, 0x0, 1, .rc, 0x0, 0xF⟩
  | .LND_LRSCALE => ⟨0x00800030, 0x10000, 4, 0x0, 1, .rw, 0x3F800000, 0xFFFFFFFF⟩
  | .LND_LENT => ⟨0x00800038, 0x10000, 4, 0x0, 1, .ro, 0x0, 0x3F⟩
  | .LND_ERRENT => ⟨0x00800040, 0x10000, 4, 0x0, 1, .ro, 0x0, 0x1FFFF⟩
  | .LND_ERRIDX => ⟨0x00800048, 0x10000, 4, 0x0, 1, .ro, 0xFFFFFFFF, 0xFFFFFFFF⟩
  | .LND_SKIPCNT => ⟨0x00800050, 0x10000, 4, 0x0, 1, .ro, 0x0, 0xFFFFFFFF⟩
  | .LND_SKIPRUN => ⟨0x00800058, 0x10000, 4, 0x0, 1, .ro, 0x0, 0xFFFF⟩
  | .LND_LATECNT => ⟨0x00800060, 0x10000, 4, 0x0, 1, .ro, 0x0, 0xFFFFFFFF⟩
  | .LND_DIFFREJ => ⟨0x00800068, 0x10000, 4, 0x0, 1, .ro, 0x0, 0xFFFFFFFFFFFF⟩
  | .LND_WIDECNT => ⟨0x00800070, 0x10000, 4, 0x0, 1, .ro, 0x0, 0xFFFF⟩
  | .LND_STEP => ⟨0x00800078, 0x10000, 4, 0x0, 1, .ro, 0x0, 0xFFFFFFFFFFFF⟩
  | .LND_XDROPCNT => ⟨0x00800080, 0x10000, 4, 0x0, 1, .ro, 0x0, 0xFFFFFFFF⟩
  | .SLV_JQ_BASE => ⟨0x00A00000, 0x10000, 2, 0x0, 1, .rw, 0x0, 0xFFFFFFFFFF80⟩
  | .SLV_JQ_CTRL => ⟨0x00A00008, 0x10000, 2, 0x0, 1, .rw, 0x0, 0xFF⟩
  | .SLV_JQ_TAIL => ⟨0x00A00010, 0x10000, 2, 0x0, 1, .pw, 0x0, 0xFF⟩
  | .SLV_JQ_HEAD => ⟨0x00A00018, 0x10000, 2, 0x0, 1, .ro, 0x0, 0xFF⟩
  | .SLV_CMD => ⟨0x00A00020, 0x10000, 2, 0x0, 1, .ws, 0x0, 0xF⟩
  | .SLV_STATUS => ⟨0x00A00028, 0x10000, 2, 0x0, 1, .ro, 0x0, 0xFFFFFFFF007F⟩
  | .SLV_ERR => ⟨0x00A00030, 0x10000, 2, 0x0, 1, .rc, 0x0, 0x7F⟩
  | .SLV_EVT => ⟨0x00A00038, 0x10000, 2, 0x0, 1, .rc, 0x0, 0x7F⟩
  | .SLV_FLAGS => ⟨0x00A00040, 0x10000, 2, 0x0, 1, .rc, 0x0, 0xF⟩
  | .SLV_RTAB_BASE => ⟨0x00A00048, 0x10000, 2, 0x0, 1, .rw, 0x0, 0xFFFFFFFFFF80⟩
  | .SLV_RTAB_COUNT => ⟨0x00A00050, 0x10000, 2, 0x0, 1, .rw, 0x0, 0xFFFF⟩
  | .SLV_CADENCE => ⟨0x00A00058, 0x10000, 2, 0x0, 1, .rw, 0x640064, 0xFFFFFFFFFFFFFFFF⟩
  | .SLV_LENT => ⟨0x00A00060, 0x10000, 2, 0x0, 1, .ro, 0x0, 0xFFFFFFFF⟩
  | .SLV_CURJOB => ⟨0x00A00068, 0x10000, 2, 0x0, 1, .ro, 0x0, 0xFFFFFFFFFFFF⟩
  | .SLV_ABANDONCNT => ⟨0x00A00070, 0x10000, 2, 0x0, 1, .ro, 0x0, 0xFFFFFFFF⟩
  | .SLV_STALECNT => ⟨0x00A00078, 0x10000, 2, 0x0, 1, .ro, 0x0, 0xFFFFFFFF⟩
  | .SLV_ACCEPTCNT => ⟨0x00A00080, 0x10000, 2, 0x0, 1, .ro, 0x0, 0xFFFFFFFF⟩
  | .SLV_WARMREJCNT => ⟨0x00A00088, 0x10000, 2, 0x0, 1, .ro, 0x0, 0xFFFFFFFF⟩
  | .SLV_REREADCNT => ⟨0x00A00090, 0x10000, 2, 0x0, 1, .ro, 0x0, 0xFFFFFFFF⟩
  | .SLV_FAILCNT => ⟨0x00A00098, 0x10000, 2, 0x0, 1, .ro, 0x0, 0xFFFFFFFF⟩
  | .MEM_STATUS => ⟨0x00C00000, 0x10000, 16, 0x0, 1, .ro, 0x0, 0xFF1F⟩
  | .MEM_ERR => ⟨0x00C00008, 0x10000, 16, 0x0, 1, .rc, 0x0, 0x7F⟩
  | .MEM_CECNT => ⟨0x00C00010, 0x10000, 16, 0x0, 1, .ro, 0x0, 0xFFFFFFFF⟩
  | .MEM_UECNT => ⟨0x00C00018, 0x10000, 16, 0x0, 1, .ro, 0x0, 0xFFFFFFFF⟩
  | .MEM_ERRADDR => ⟨0x00C00020, 0x10000, 16, 0x0, 1, .ro, 0x0, 0xFFFFFFFFFF⟩
  | .MEM_ERRINFO => ⟨0x00C00028, 0x10000, 16, 0x0, 1, .ro, 0x0, 0x1077F⟩
  | .MEM_SCRUB => ⟨0x00C00030, 0x10000, 16, 0x0, 1, .rw, 0x3E800000018, 0xFFFF0000FFFF⟩
  | .MEM_TEMP => ⟨0x00C00038, 0x10000, 16, 0x0, 1, .ro, 0x0, 0x7FF⟩
  | .MEM_INJ => ⟨0x00C00040, 0x10000, 16, 0x0, 1, .pw, 0x0, 0x80FF7FFFFFFFFFC0⟩
  | .MEM_CDC_CRTBASE => ⟨0x00D00000, 0x100, 40, 0x0, 1, .rw, 0x0, 0xFFFFFFFFFFE0⟩
  | .MEM_CDC_CRTCOUNT => ⟨0x00D00008, 0x100, 40, 0x0, 1, .rw, 0x0, 0x7FF⟩
  | .MEM_CDC_DTADDR => ⟨0x00D00010, 0x100, 40, 0x0, 1, .pw, 0x0, 0xFFFFFFFFFFFC0⟩
  | .MEM_CDC_DTSTEP => ⟨0x00D00018, 0x100, 40, 0x0, 1, .pw, 0x0, 0xFFFFFFFFFFFF⟩
  | .MEM_CDC_STATUS => ⟨0x00D00020, 0x100, 40, 0x0, 1, .ro, 0x0, 0xFFFFFFFFFFFF3FFF⟩
  | .MEM_CDC_ERR => ⟨0x00D00028, 0x100, 40, 0x0, 1, .rc, 0x0, 0x7F⟩
  | .MEM_CDC_BWIN => ⟨0x00D00030, 0x100, 40, 0x0, 1, .rw, 0x0, 0x7FF⟩
  | .MEM_CDC_STALECNT => ⟨0x00D00038, 0x100, 40, 0x0, 1, .ro, 0x0, 0xFFFFFFFF⟩
  | .MEM_CDC_STALLCNT => ⟨0x00D00040, 0x100, 40, 0x0, 1, .ro, 0x0, 0xFFFFFFFFFFFF⟩
  | .MEM_CDC_RAWCNT => ⟨0x00D00048, 0x100, 40, 0x0, 1, .ro, 0x0, 0xFFFFFFFF⟩
  | .XLT_ROOT => ⟨0x00E00000, 0x1000, 35, 0x8, 8, .rw, 0x0, 0xFFFFFFF001⟩
  | .XLT_INV => ⟨0x00E00040, 0x1000, 35, 0x0, 1, .pw, 0x0, 0xFFFFFFFFFFFF0000⟩
  | .XLT_STATUS => ⟨0x00E00048, 0x1000, 35, 0x0, 1, .ro, 0x0, 0xFFF1⟩
  | .XLT_ERR => ⟨0x00E00050, 0x1000, 35, 0x0, 1, .rc, 0x0, 0x3⟩
  | .XLT_WALKCNT => ⟨0x00E00058, 0x1000, 35, 0x0, 1, .ro, 0x0, 0xFFFFFFFFFFFF⟩
  | .XLT_INVALL => ⟨0x00E80000, 0x0, 1, 0x0, 1, .pw, 0x0, 0xFFFFFFFFFFFF0000⟩
  | .XLT_GSTATUS => ⟨0x00E80008, 0x0, 1, 0x0, 1, .ro, 0x0, 0x3⟩
  | .XLT_FLOG_BASE => ⟨0x00E80010, 0x0, 1, 0x0, 1, .rw, 0x0, 0xFFFFFFFFE0⟩
  | .XLT_FLOG_SIZE => ⟨0x00E80018, 0x0, 1, 0x0, 1, .rw, 0x0, 0x1FFF⟩
  | .XLT_FLOG_HEAD => ⟨0x00E80020, 0x0, 1, 0x0, 1, .ro, 0x0, 0x1FFF⟩
  | .XLT_FLOG_READ => ⟨0x00E80028, 0x0, 1, 0x0, 1, .pw, 0x0, 0x1FFF⟩
  | .XLT_FLOG_LOST => ⟨0x00E80030, 0x0, 1, 0x0, 1, .ro, 0x0, 0xFFFFFFFF⟩
  | .MOV_RING_BASE => ⟨0x00F00000, 0x10000, 4, 0x0, 1, .rw, 0x0, 0xFFFFFFFFFFC0⟩
  | .MOV_RING_CTRL => ⟨0x00F00008, 0x10000, 4, 0x0, 1, .rw, 0x0, 0x3F⟩
  | .MOV_TAIL => ⟨0x00F00010, 0x10000, 4, 0x0, 1, .pw, 0x0, 0xFFFF⟩
  | .MOV_HEAD => ⟨0x00F00018, 0x10000, 4, 0x0, 1, .ro, 0x0, 0xFFFF⟩
  | .MOV_CMD => ⟨0x00F00020, 0x10000, 4, 0x0, 1, .ws, 0x0, 0x7⟩
  | .MOV_STATUS => ⟨0x00F00028, 0x10000, 4, 0x0, 1, .ro, 0x0, 0x3FFFFFF⟩
  | .MOV_ERR => ⟨0x00F00030, 0x10000, 4, 0x0, 1, .rc, 0x0, 0x7F⟩
  | .MOV_ERRDESC => ⟨0x00F00038, 0x10000, 4, 0x0, 1, .ro, 0x0, 0xFFFFFFFFFFFF⟩
  | .MOV_DONECNT => ⟨0x00F00040, 0x10000, 4, 0x0, 1, .ro, 0x0, 0xFFFFFFFFFFFF⟩
  | .FAB_PCFG => ⟨0x01000000, 0x10000, 24, 0x0, 1, .rw, 0x0, 0x1F⟩
  | .FAB_PSTATUS => ⟨0x01000008, 0x10000, 24, 0x0, 1, .ro, 0x0, 0x7FFF0003⟩
  | .FAB_PERR => ⟨0x01000010, 0x10000, 24, 0x0, 1, .rc, 0x0, 0x7F⟩
  | .FAB_ARB => ⟨0x01000018, 0x10000, 24, 0x0, 1, .rw, 0x10408, 0xFFFFFF⟩
  | .FAB_ECHO => ⟨0x01000020, 0x10000, 24, 0x0, 1, .ro, 0x0, 0xFFFFFFFFFFFFFFFF⟩
  | .FAB_HORNRES => ⟨0x01000028, 0x10000, 24, 0x0, 1, .ro, 0x0, 0xFFFFFFFF⟩
  | .FAB_REPLAYCNT => ⟨0x01000030, 0x10000, 24, 0x0, 1, .ro, 0x0, 0xFFFFFFFF⟩
  | .FAB_DROPCNT => ⟨0x01000038, 0x10000, 24, 0x0, 1, .ro, 0x0, 0xFFFFFFFF⟩
  | .FAB_COORD => ⟨0x01180000, 0x0, 1, 0x0, 1, .rw, 0x0, 0x37FFFFFFF⟩
  | .FAB_DIMS => ⟨0x01180008, 0x0, 1, 0x0, 1, .rw, 0x0, 0xFFFFFF⟩
  | .FAB_HORN_CTRL => ⟨0x01180010, 0x0, 1, 0x0, 1, .rw, 0x40, 0x1FFFF⟩
  | .FAB_HORN_STATUS => ⟨0x01180018, 0x0, 1, 0x0, 1, .ro, 0x0, 0xFFFFFFFF000001FF⟩
  | .FAB_HORN_ERR => ⟨0x01180020, 0x0, 1, 0x0, 1, .rc, 0x0, 0x1FF⟩
  | .FAB_HORN_TX => ⟨0x01180028, 0x0, 1, 0x0, 1, .pw, 0x0, 0x3F7FFF01FF3FC0⟩
  | .FAB_HORN_RXHEAD => ⟨0x01180030, 0x0, 1, 0x0, 1, .ro, 0x0, 0x7F⟩
  | .FAB_HORN_RXREAD => ⟨0x01180038, 0x0, 1, 0x0, 1, .pw, 0x0, 0x7F⟩
  | .FAB_VOTE => ⟨0x01180040, 0x8, 8, 0x0, 1, .rw, 0x0, 0xFFFF000FFFFFFFFF⟩
  | .FAB_VOTESTAT => ⟨0x01180080, 0x8, 8, 0x0, 1, .ro, 0x0, 0x3FFFFFFFFFFFF⟩
  | .FAB_SRCDROPCNT => ⟨0x011800C0, 0x0, 1, 0x0, 1, .ro, 0x0, 0xFFFFFFFF⟩
  | .FAB_VOTEROOT => ⟨0x01180100, 0x8, 8, 0x0, 1, .rw, 0x0, 0x7FFF⟩
  | .FAB_PDOWN => ⟨0x01190000, 0x8, 512, 0x0, 1, .pw, 0x0, 0xFFFFFFFFFFFFFFFF⟩
  | .FAB_REMAP => ⟨0x011A0000, 0x8, 32768, 0x0, 1, .pw, 0x0, 0xFFFF⟩
  | .FAB_CE_OPBASE => ⟨0x01200000, 0x10000, 4, 0x0, 1, .rw, 0x0, 0xFFFFFFFFFFC0⟩
  | .FAB_CE_OPCOUNT => ⟨0x01200008, 0x10000, 4, 0x0, 1, .rw, 0x0, 0xFFFF⟩
  | .FAB_CE_CMD => ⟨0x01200010, 0x10000, 4, 0x0, 1, .ws, 0x0, 0x3⟩
  | .FAB_CE_STATUS => ⟨0x01200018, 0x10000, 4, 0x0, 1, .ro, 0x0, 0x1FFF0007⟩
  | .FAB_CE_ERR => ⟨0x01200020, 0x10000, 4, 0x0, 1, .rc, 0x0, 0xF⟩
  | .FAB_CE_FLAGS => ⟨0x01200028, 0x10000, 4, 0x0, 1, .rc, 0x0, 0xF⟩
  | .FAB_CE_ERRADDR => ⟨0x01200030, 0x10000, 4, 0x0, 1, .ro, 0x0, 0xFFFFFFFFFFFF⟩
  | .FAB_CE_LATECNT => ⟨0x01200038, 0x10000, 4, 0x0, 1, .ro, 0x0, 0xFFFFFFFF⟩
  | .FRY_PCFG => ⟨0x01400000, 0x1000, 2, 0x0, 1, .rw, 0x0, 0x3FFFFFFF⟩
  | .FRY_PSTATUS => ⟨0x01400008, 0x1000, 2, 0x0, 1, .ro, 0x0, 0x7⟩
  | .FRY_PERR => ⟨0x01400010, 0x1000, 2, 0x0, 1, .rc, 0x0, 0xF⟩
  | .FRY_MAC => ⟨0x01400018, 0x1000, 2, 0x0, 1, .rw, 0x0, 0xFFFFFFFFFFFF⟩
  | .FRY_GWMAC => ⟨0x01400020, 0x1000, 2, 0x0, 1, .rw, 0x0, 0xFFFFFFFFFFFF⟩
  | .FRY_IPLO => ⟨0x01400028, 0x1000, 2, 0x0, 1, .rw, 0x0, 0xFFFFFFFFFFFFFFFF⟩
  | .FRY_IPHI => ⟨0x01400030, 0x1000, 2, 0x0, 1, .rw, 0x0, 0xFFFFFFFFFFFFFFFF⟩
  | .FRY_DROPCNT => ⟨0x01400038, 0x1000, 2, 0x0, 1, .ro, 0x0, 0xFFFFFFFF⟩
  | .FRY_CTRL => ⟨0x01408000, 0x0, 1, 0x0, 1, .rw, 0xB8960000, 0xFFFF0001⟩
  | .FRY_STATUS => ⟨0x01408008, 0x0, 1, 0x0, 1, .ro, 0x0, 0xFF0F⟩
  | .FRY_ERR => ⟨0x01408010, 0x0, 1, 0x0, 1, .rc, 0x0, 0xF⟩
  | .FRY_CTD_BASE => ⟨0x01408018, 0x0, 1, 0x0, 1, .rw, 0x0, 0xFFFFFFFFFF80⟩
  | .FRY_XMAP_BASE => ⟨0x01408020, 0x0, 1, 0x0, 1, .rw, 0x0, 0xFFFFFFFFFFE0⟩
  | .FRY_XMAP_COUNT => ⟨0x01408028, 0x0, 1, 0x0, 1, .rw, 0x0, 0xFFFFF⟩
  | .FRY_PEERS => ⟨0x01408030, 0x0, 1, 0x0, 1, .rw, 0x0, 0xFFFF⟩
  | .FRY_XPARAM => ⟨0x01408038, 0x0, 1, 0x0, 1, .rw, 0x12, 0x3F⟩
  | .FRY_TIMERS => ⟨0x01408040, 0x0, 1, 0x0, 1, .rw, 0x727000090002, 0xFFFFFFFFFFFF⟩
  | .FRY_CH_CFG => ⟨0x01410000, 0x400, 64, 0x0, 1, .rw, 0x230000, 0xFFFFFFFF0FFFF07F⟩
  | .FRY_CH_PEERLO => ⟨0x01410008, 0x400, 64, 0x0, 1, .rw, 0x0, 0xFFFFFFFFFFFFFFFF⟩
  | .FRY_CH_PEERHI => ⟨0x01410010, 0x400, 64, 0x0, 1, .rw, 0x0, 0xFFFFFFFFFFFFFFFF⟩
  | .FRY_CH_RATE => ⟨0x01410018, 0x400, 64, 0x0, 1, .rw, 0x0, 0xFFFFF⟩
  | .FRY_CH_KEY => ⟨0x01410020, 0x400, 64, 0x0, 1, .pw, 0x0, 0xFFFFFFFFFFFF003F⟩
  | .FRY_CH_CMD => ⟨0x01410028, 0x400, 64, 0x0, 1, .ws, 0x0, 0x7⟩
  | .FRY_CH_STATUS => ⟨0x01410030, 0x400, 64, 0x0, 1, .ro, 0x0, 0xFFFFFFFFFFFF003F⟩
  | .FRY_CH_ERR => ⟨0x01410038, 0x400, 64, 0x0, 1, .rc, 0x0, 0xFF⟩
  | .FRY_CH_RTT => ⟨0x01410040, 0x400, 64, 0x0, 1, .ro, 0x0, 0xFFFFFFFFFFFFFFFF⟩
  | .FRY_CH_TXRING => ⟨0x01410048, 0x400, 64, 0x0, 1, .rw, 0x0, 0xFFFFFFFFFFFC0⟩
  | .FRY_CH_TXTAIL => ⟨0x01410050, 0x400, 64, 0x0, 1, .pw, 0x0, 0xFFFF⟩
  | .FRY_CH_RXRING => ⟨0x01410058, 0x400, 64, 0x0, 1, .rw, 0x0, 0xFFFFFFFFFFFC0⟩
  | .FRY_CH_RXTAIL => ⟨0x01410060, 0x400, 64, 0x0, 1, .pw, 0x0, 0xFFFF⟩
  | .FRY_CH_CTR => ⟨0x01410068, 0x400, 64, 0x0, 1, .ro, 0x0, 0xFFFFFFFFFFFFFFFF⟩
  | .FRY_CH_NACKCNT => ⟨0x01410070, 0x400, 64, 0x0, 1, .ro, 0x0, 0xFFFFFFFF⟩
  | .FRY_CH_RESENDCNT => ⟨0x01410078, 0x400, 64, 0x0, 1, .ro, 0x0, 0xFFFFFFFF⟩
  | .FRY_CH_REPAIRCNT => ⟨0x01410080, 0x400, 64, 0x0, 1, .ro, 0x0, 0xFFFFFFFF⟩
  | .FRY_CH_ICVFAIL => ⟨0x01410088, 0x400, 64, 0x0, 1, .ro, 0x0, 0xFFFFFFFF⟩
  | .FRY_CH_LATECNT => ⟨0x01410090, 0x400, 64, 0x0, 1, .ro, 0x0, 0xFFFFFFFF⟩
  | .FRY_CH_STALECNT => ⟨0x01410098, 0x400, 64, 0x0, 1, .ro, 0x0, 0xFFFFFFFF⟩
  | .FRY_CH_DUPCNT => ⟨0x014100A0, 0x400, 64, 0x0, 1, .ro, 0x0, 0xFFFFFFFF⟩
  | .BND_STATUS => ⟨0x00200000, 0x0, 1, 0x0, 1, .ro, 0x0, 0x3FF⟩
  | .BND_CMD => ⟨0x00200008, 0x0, 1, 0x0, 1, .ws, 0x0, 0x77⟩
  | .BND_ERR => ⟨0x00200010, 0x0, 1, 0x0, 1, .rc, 0x0, 0xF⟩
  | .BND_IMG_ADDR => ⟨0x00200018, 0x0, 1, 0x0, 1, .pw, 0x0, 0xFFFFFFF000⟩
  | .BND_IMG_CTRL => ⟨0x00200020, 0x0, 1, 0x0, 1, .pw, 0x0, 0xF⟩
  | .BND_IMG_STATUS => ⟨0x00200028, 0x0, 1, 0x0, 1, .ro, 0x0, 0xFFFFFFFFFF07⟩
  | .BND_RB_REQ => ⟨0x00200030, 0x0, 1, 0x0, 1, .pw, 0x0, 0xFFFFFFF1FF⟩
  | .BND_RB_STATUS => ⟨0x00200038, 0x0, 1, 0x0, 1, .ro, 0x0, 0xFFFFFFFFFF07⟩
  | .BND_BLOGHEAD => ⟨0x00200040, 0x0, 1, 0x0, 1, .ro, 0x0, 0xF⟩
  | .BND_BLOGLOST => ⟨0x00200048, 0x0, 1, 0x0, 1, .ro, 0x0, 0xFFFFFFFF⟩
  | .BND_BLOG => ⟨0x00200100, 0x8, 16, 0x0, 1, .ro, 0x0, 0xFFFF0FFF03FFFFFF⟩
  | .BND_STATE => ⟨0x00201000, 0x100, 8, 0x0, 1, .ro, 0x0, 0x3F⟩
  | .BND_JOB => ⟨0x00201008, 0x100, 8, 0x0, 1, .ro, 0x0, 0xFFFFFFFF⟩
  | .BND_STEP => ⟨0x00201010, 0x100, 8, 0x0, 1, .ro, 0x0, 0xFFFFFFFFFFFF⟩
  | .BND_COMMIT => ⟨0x00201018, 0x100, 8, 0x0, 1, .ro, 0x0, 0xFFFFFFFFFFFF⟩
  | .BND_CROSS => ⟨0x00201020, 0x100, 8, 0x0, 1, .ro, 0x0, 0xFFFFFFFF⟩
  | .BND_CLMASK => ⟨0x00201028, 0x100, 8, 0x0, 1, .ro, 0x0, 0xFFFFFFFF⟩
  | .BND_UNITS => ⟨0x00201030, 0x100, 8, 0x0, 1, .ro, 0x0, 0xFFFFFFFFFFFFFF⟩
  | .BND_CHMASK => ⟨0x00201038, 0x100, 8, 0x0, 1, .ro, 0x0, 0xFFFFFFFFFFFFFFFF⟩
  | .BND_ARMED => ⟨0x00201040, 0x100, 8, 0x0, 1, .ro, 0x0, 0xFFFFFFFFFFFF00FF⟩
  | .SEC_STATUS => ⟨0x01800000, 0x0, 1, 0x0, 1, .ro, 0x0, 0x3F⟩
  | .SEC_ERR => ⟨0x01800008, 0x0, 1, 0x0, 1, .rc, 0x0, 0xFF⟩
  | .SEC_BOOT => ⟨0x01800010, 0x0, 1, 0x0, 1, .ro, 0x0, 0x1FF771F⟩
  | .SEC_ARB => ⟨0x01800018, 0x0, 1, 0x0, 1, .ro, 0x0, 0xFFFFF⟩
  | .SEC_ARB_CMD => ⟨0x01800020, 0x0, 1, 0x0, 1, .pw, 0x0, 0xFF⟩
  | .SEC_OWN_CMD => ⟨0x01800028, 0x0, 1, 0x0, 1, .pw, 0x0, 0xFFFFFFFFFFFFFFFF⟩
  | .SEC_BERTH_CMD => ⟨0x01800030, 0x0, 1, 0x0, 1, .pw, 0x0, 0xFFFFFFFFFFFF⟩
  | .SEC_CQ_BASE => ⟨0x01800038, 0x0, 1, 0x0, 1, .rw, 0x0, 0xFFFFFFFFE0⟩
  | .SEC_CQ_TAIL => ⟨0x01800040, 0x0, 1, 0x0, 1, .pw, 0x0, 0x1F⟩
  | .SEC_CQ_HEAD => ⟨0x01800048, 0x0, 1, 0x0, 1, .ro, 0x0, 0x1F⟩
  | .SEC_GMAC_STATUS => ⟨0x01800050, 0x0, 1, 0x0, 1, .ro, 0x0, 0xF⟩
  | .SEC_RNG => ⟨0x01800058, 0x0, 1, 0x0, 1, .ro, 0x0, 0xFFFFFFFFFFFFFFFF⟩
  | .SEC_BERTH_META => ⟨0x01800100, 0x8, 64, 0x0, 1, .ro, 0x0, 0xFFFFFFFF00003F3F⟩
  | .JNL_STATUS => ⟨0x01A00000, 0x0, 1, 0x0, 1, .ro, 0x0, 0xFFFFFF3F⟩
  | .JNL_ERR => ⟨0x01A00008, 0x0, 1, 0x0, 1, .rc, 0x0, 0x7F⟩
  | .JNL_BRINGUP => ⟨0x01A00010, 0x0, 1, 0x0, 1, .ro, 0x0, 0xFFFFFFFF0F0F⟩
  | .JNL_SEQ => ⟨0x01A00018, 0x0, 1, 0x0, 1, .ro, 0x0, 0xFFFFFFFFFFFFFFFF⟩
  | .JNL_ACKSEQ => ⟨0x01A00020, 0x0, 1, 0x0, 1, .ro, 0x0, 0xFFFFFFFFFFFFFFFF⟩
  | .JNL_CGEN => ⟨0x01A00028, 0x0, 1, 0x0, 1, .ro, 0x0, 0xFFFFFFFF⟩
  | .JNL_APPEND => ⟨0x01A00030, 0x0, 1, 0x0, 1, .pw, 0x0, 0x1FFFFFFFFE0⟩
  | .JNL_CMD => ⟨0x01A00038, 0x0, 1, 0x0, 1, .ws, 0x0, 0x1⟩
  | .JNL_HLW => ⟨0x01A00040, 0x0, 1, 0x0, 1, .pw, 0x0, 0x8000000003FFFFFF⟩
  | .JNL_FW_SRC => ⟨0x01A00048, 0x0, 1, 0x0, 1, .pw, 0x0, 0xFFFFFFFFC0⟩
  | .JNL_FW_CMD => ⟨0x01A00050, 0x0, 1, 0x0, 1, .pw, 0x0, 0x3FFFFFF00000007⟩
  | .GLB_ID => ⟨0x00000000, 0x0, 1, 0x0, 1, .ro, 0xA0096, 0x1FFFFF⟩
  | .GLB_SERIAL => ⟨0x00000008, 0x0, 1, 0x0, 1, .ro, 0x0, 0xFFFFFFFFFFFFFFFF⟩
  | .GLB_STATE => ⟨0x00000010, 0x0, 1, 0x0, 1, .ro, 0x0, 0xF3F⟩
  | .GLB_EVT => ⟨0x00000018, 0x0, 1, 0x0, 1, .rc, 0x0, 0xF⟩
  | .GLB_FLEVEL => ⟨0x00000020, 0x0, 1, 0x0, 1, .ro, 0x0, 0xFFFFFF⟩
  | .HCI_STATUS => ⟨0x00100000, 0x0, 1, 0x0, 1, .ro, 0x0, 0x1FFFF0001⟩
  | .HCI_ERR => ⟨0x00100008, 0x0, 1, 0x0, 1, .rc, 0x0, 0xF⟩
  | .HCI_FWDB_SQ => ⟨0x00100020, 0x0, 1, 0x0, 1, .pw, 0x0, 0xFF⟩
  | .HCI_FWDB_CQ => ⟨0x00100028, 0x0, 1, 0x0, 1, .pw, 0x0, 0xFF⟩
  | .HCI_SQ_BASE => ⟨0x00100100, 0x20, 17, 0x0, 1, .pw, 0x0, 0xFFFFFFFFFFFFF000⟩
  | .HCI_CQ_BASE => ⟨0x00100108, 0x20, 17, 0x0, 1, .pw, 0x0, 0xFFFFFFFFFFFFF000⟩
  | .HCI_QCTRL => ⟨0x00100110, 0x20, 17, 0x0, 1, .pw, 0x0, 0xF03⟩
  | .HCI_QSTAT => ⟨0x00100118, 0x20, 17, 0x0, 1, .ro, 0x0, 0x3FFFFFF⟩
  | .CNT_CYCLE => ⟨0x00000000, 0x0, 132, 0x0, 1, .ro, 0x0, 0xFFFFFFFFFFFFFFFF⟩
  | .CNT_OVF => ⟨0x00000008, 0x0, 132, 0x0, 1, .rc, 0x0, 0x1FF⟩
  | .CNT_CMD => ⟨0x00000010, 0x0, 132, 0x0, 1, .ws, 0x0, 0x1⟩
  | .CNT_SEL => ⟨0x00000100, 0x0, 132, 0x8, 8, .rw, 0x0, 0xFFFFFFF⟩
  | .CNT_VAL => ⟨0x00000200, 0x0, 132, 0x8, 8, .ro, 0x0, 0xFFFFFFFFFFFF⟩
  | .SMP_CTRL => ⟨0x00408800, 0x10000, 32, 0x0, 1, .rw, 0x0, 0xFFFFFF1F⟩
  | .SMP_BASE => ⟨0x00408808, 0x10000, 32, 0x0, 1, .rw, 0x0, 0xFFFFFFFFE0⟩
  | .SMP_HEAD => ⟨0x00408810, 0x10000, 32, 0x0, 1, .ro, 0x0, 0x10FFF⟩
  | .SMP_READ => ⟨0x00408818, 0x10000, 32, 0x0, 1, .pw, 0x0, 0xFFF⟩
  | .SMP_LOST => ⟨0x00408820, 0x10000, 32, 0x0, 1, .ro, 0x0, 0xFFFFFFFF⟩
  | .SMP_ERR => ⟨0x00408828, 0x10000, 32, 0x0, 1, .rc, 0x0, 0x1⟩
  | .TEL_STATUS => ⟨0x01C00000, 0x0, 1, 0x0, 1, .ro, 0x0, 0x3⟩
  | .TEL_ERR => ⟨0x01C00008, 0x0, 1, 0x0, 1, .rc, 0x0, 0x1⟩
  | .TEL_PCAP => ⟨0x01C00010, 0x0, 1, 0x0, 1, .pw, 0x4B0, 0x7FF⟩
  | .TEL_THERM => ⟨0x01C00018, 0x0, 1, 0x0, 1, .pw, 0x285A1E64, 0xFFFFFFFF⟩
  | .TEL_FCAP => ⟨0x01C00020, 0x0, 1, 0x0, 1, .ro, 0x384038403840384, 0x3FF03FF03FF03FF⟩
  | .TEL_POWER => ⟨0x01C00028, 0x0, 1, 0x0, 1, .ro, 0x0, 0xFFFF⟩
  | .TEL_VCORE => ⟨0x01C00030, 0x0, 1, 0x0, 1, .ro, 0x2BC, 0x7FF⟩
  | .TEL_ALERT => ⟨0x01C00038, 0x0, 1, 0x0, 1, .rc, 0x0, 0x1F⟩
  | .TEL_ALERTEN => ⟨0x01C00040, 0x0, 1, 0x0, 1, .pw, 0x0, 0x1F⟩
  | .TEL_DROOPCNT => ⟨0x01C00048, 0x0, 1, 0x0, 1, .ro, 0x0, 0xFFFFFFFF⟩
  | .TEL_THROTCNT => ⟨0x01C00050, 0x0, 1, 0x0, 1, .ro, 0x0, 0xFFFFFFFF⟩
  | .TEL_TEMP => ⟨0x01C00100, 0x8, 128, 0x0, 1, .ro, 0x0, 0xFF⟩
  | .TEL_RAIL => ⟨0x01C00500, 0x8, 11, 0x0, 1, .ro, 0x0, 0xFFFFFFFFFFFF⟩
  | .CLK_STATUS => ⟨0x01E00000, 0x0, 1, 0x0, 1, .ro, 0x0, 0x3⟩
  | .CLK_ERR => ⟨0x01E00008, 0x0, 1, 0x0, 1, .rc, 0x0, 0x1F⟩
  | .CLK_GATELO => ⟨0x01E00010, 0x0, 1, 0x0, 1, .pw, 0x0, 0xFFFFFFFFFFFFFFFF⟩
  | .CLK_GATEHI => ⟨0x01E00018, 0x0, 1, 0x0, 1, .pw, 0x0, 0xFFFFFFFFF⟩
  | .CLK_REF => ⟨0x01E00020, 0x0, 1, 0x0, 1, .ro, 0x0, 0x7FF⟩
  | .CLK_LOCK => ⟨0x01E00028, 0x0, 1, 0x0, 1, .ro, 0x0, 0x1FFFFFFFFF⟩
  | .CLK_CLFREQ => ⟨0x01E00100, 0x8, 32, 0x0, 1, .pw, 0x352, 0x3FF⟩
  | .CLK_CLSTAT => ⟨0x01E00200, 0x8, 32, 0x0, 1, .ro, 0x0, 0xF03FF⟩
  | .CLK_VF => ⟨0x01E00300, 0x8, 33, 0x0, 1, .ro, 0x0, 0x3FF03FF⟩

/-- Register names, part 1. -/
def RegName.part1 : List RegName :=
  [.ARY_SCHED_BASE, .ARY_DTAB_BASE, .ARY_CMD, .ARY_STATUS, .ARY_PC, .ARY_ERR, .ARY_ERRADDR, .ARY_FLAGS, .ARY_SPEC, .ARY_LONGEXP, .ARY_TOKEN, .ARY_TOKSIG, .ARY_PASSFLOOR, .VEC_PROG_BASE, .VEC_DTAB_BASE, .VEC_CMD, .VEC_STATUS, .VEC_PC, .VEC_ERR, .VEC_ERRADDR]

/-- Register names, part 2. -/
def RegName.part2 : List RegName :=
  [.VEC_FLAGS, .VEC_EVT, .VEC_FILL, .VEC_LOOPIDX, .LND_LTAB_BASE, .LND_LTAB_COUNT, .LND_CMD, .LND_STATUS, .LND_ERR, .LND_FLAGS, .LND_LRSCALE, .LND_LENT, .LND_ERRENT, .LND_ERRIDX, .LND_SKIPCNT, .LND_SKIPRUN, .LND_LATECNT, .LND_DIFFREJ, .LND_WIDECNT, .LND_STEP]

/-- Register names, part 3. -/
def RegName.part3 : List RegName :=
  [.LND_XDROPCNT, .SLV_JQ_BASE, .SLV_JQ_CTRL, .SLV_JQ_TAIL, .SLV_JQ_HEAD, .SLV_CMD, .SLV_STATUS, .SLV_ERR, .SLV_EVT, .SLV_FLAGS, .SLV_RTAB_BASE, .SLV_RTAB_COUNT, .SLV_CADENCE, .SLV_LENT, .SLV_CURJOB, .SLV_ABANDONCNT, .SLV_STALECNT, .SLV_ACCEPTCNT, .SLV_WARMREJCNT, .SLV_REREADCNT]

/-- Register names, part 4. -/
def RegName.part4 : List RegName :=
  [.SLV_FAILCNT, .MEM_STATUS, .MEM_ERR, .MEM_CECNT, .MEM_UECNT, .MEM_ERRADDR, .MEM_ERRINFO, .MEM_SCRUB, .MEM_TEMP, .MEM_INJ, .MEM_CDC_CRTBASE, .MEM_CDC_CRTCOUNT, .MEM_CDC_DTADDR, .MEM_CDC_DTSTEP, .MEM_CDC_STATUS, .MEM_CDC_ERR, .MEM_CDC_BWIN, .MEM_CDC_STALECNT, .MEM_CDC_STALLCNT, .MEM_CDC_RAWCNT]

/-- Register names, part 5. -/
def RegName.part5 : List RegName :=
  [.XLT_ROOT, .XLT_INV, .XLT_STATUS, .XLT_ERR, .XLT_WALKCNT, .XLT_INVALL, .XLT_GSTATUS, .XLT_FLOG_BASE, .XLT_FLOG_SIZE, .XLT_FLOG_HEAD, .XLT_FLOG_READ, .XLT_FLOG_LOST, .MOV_RING_BASE, .MOV_RING_CTRL, .MOV_TAIL, .MOV_HEAD, .MOV_CMD, .MOV_STATUS, .MOV_ERR, .MOV_ERRDESC]

/-- Register names, part 6. -/
def RegName.part6 : List RegName :=
  [.MOV_DONECNT, .FAB_PCFG, .FAB_PSTATUS, .FAB_PERR, .FAB_ARB, .FAB_ECHO, .FAB_HORNRES, .FAB_REPLAYCNT, .FAB_DROPCNT, .FAB_COORD, .FAB_DIMS, .FAB_HORN_CTRL, .FAB_HORN_STATUS, .FAB_HORN_ERR, .FAB_HORN_TX, .FAB_HORN_RXHEAD, .FAB_HORN_RXREAD, .FAB_VOTE, .FAB_VOTESTAT, .FAB_SRCDROPCNT]

/-- Register names, part 7. -/
def RegName.part7 : List RegName :=
  [.FAB_VOTEROOT, .FAB_PDOWN, .FAB_REMAP, .FAB_CE_OPBASE, .FAB_CE_OPCOUNT, .FAB_CE_CMD, .FAB_CE_STATUS, .FAB_CE_ERR, .FAB_CE_FLAGS, .FAB_CE_ERRADDR, .FAB_CE_LATECNT, .FRY_PCFG, .FRY_PSTATUS, .FRY_PERR, .FRY_MAC, .FRY_GWMAC, .FRY_IPLO, .FRY_IPHI, .FRY_DROPCNT, .FRY_CTRL]

/-- Register names, part 8. -/
def RegName.part8 : List RegName :=
  [.FRY_STATUS, .FRY_ERR, .FRY_CTD_BASE, .FRY_XMAP_BASE, .FRY_XMAP_COUNT, .FRY_PEERS, .FRY_XPARAM, .FRY_TIMERS, .FRY_CH_CFG, .FRY_CH_PEERLO, .FRY_CH_PEERHI, .FRY_CH_RATE, .FRY_CH_KEY, .FRY_CH_CMD, .FRY_CH_STATUS, .FRY_CH_ERR, .FRY_CH_RTT, .FRY_CH_TXRING, .FRY_CH_TXTAIL, .FRY_CH_RXRING]

/-- Register names, part 9. -/
def RegName.part9 : List RegName :=
  [.FRY_CH_RXTAIL, .FRY_CH_CTR, .FRY_CH_NACKCNT, .FRY_CH_RESENDCNT, .FRY_CH_REPAIRCNT, .FRY_CH_ICVFAIL, .FRY_CH_LATECNT, .FRY_CH_STALECNT, .FRY_CH_DUPCNT, .BND_STATUS, .BND_CMD, .BND_ERR, .BND_IMG_ADDR, .BND_IMG_CTRL, .BND_IMG_STATUS, .BND_RB_REQ, .BND_RB_STATUS, .BND_BLOGHEAD, .BND_BLOGLOST, .BND_BLOG]

/-- Register names, part 10. -/
def RegName.part10 : List RegName :=
  [.BND_STATE, .BND_JOB, .BND_STEP, .BND_COMMIT, .BND_CROSS, .BND_CLMASK, .BND_UNITS, .BND_CHMASK, .BND_ARMED, .SEC_STATUS, .SEC_ERR, .SEC_BOOT, .SEC_ARB, .SEC_ARB_CMD, .SEC_OWN_CMD, .SEC_BERTH_CMD, .SEC_CQ_BASE, .SEC_CQ_TAIL, .SEC_CQ_HEAD, .SEC_GMAC_STATUS]

/-- Register names, part 11. -/
def RegName.part11 : List RegName :=
  [.SEC_RNG, .SEC_BERTH_META, .JNL_STATUS, .JNL_ERR, .JNL_BRINGUP, .JNL_SEQ, .JNL_ACKSEQ, .JNL_CGEN, .JNL_APPEND, .JNL_CMD, .JNL_HLW, .JNL_FW_SRC, .JNL_FW_CMD, .GLB_ID, .GLB_SERIAL, .GLB_STATE, .GLB_EVT, .GLB_FLEVEL, .HCI_STATUS, .HCI_ERR]

/-- Register names, part 12. -/
def RegName.part12 : List RegName :=
  [.HCI_FWDB_SQ, .HCI_FWDB_CQ, .HCI_SQ_BASE, .HCI_CQ_BASE, .HCI_QCTRL, .HCI_QSTAT, .CNT_CYCLE, .CNT_OVF, .CNT_CMD, .CNT_SEL, .CNT_VAL, .SMP_CTRL, .SMP_BASE, .SMP_HEAD, .SMP_READ, .SMP_LOST, .SMP_ERR, .TEL_STATUS, .TEL_ERR, .TEL_PCAP]

/-- Register names, part 13. -/
def RegName.part13 : List RegName :=
  [.TEL_THERM, .TEL_FCAP, .TEL_POWER, .TEL_VCORE, .TEL_ALERT, .TEL_ALERTEN, .TEL_DROOPCNT, .TEL_THROTCNT, .TEL_TEMP, .TEL_RAIL, .CLK_STATUS, .CLK_ERR, .CLK_GATELO, .CLK_GATEHI, .CLK_REF, .CLK_LOCK, .CLK_CLFREQ, .CLK_CLSTAT, .CLK_VF]

/-- Every register name. -/
def RegName.all : List RegName :=
  List.flatten [RegName.part1, RegName.part2, RegName.part3, RegName.part4, RegName.part5, RegName.part6, RegName.part7, RegName.part8, RegName.part9, RegName.part10, RegName.part11, RegName.part12, RegName.part13]

/-- The key of a register: its name and its indices. -/
structure RegKey where
  name : RegName
  i    : Nat
  j    : Nat
deriving DecidableEq, Repr

/-- The order in which the register file lists its entries. -/
def RegKey.rank (k : RegKey) : Nat := Nat.pair k.name.ctorIdx (Nat.pair k.i k.j)

/-- A bit field of a register. -/
structure Field where
  lo : Nat
  w  : Nat
deriving DecidableEq, Repr

namespace Fld

/-- ARY_SCHED_BASE.BASE (R108). -/
abbrev ARY_SCHED_BASE_BASE : Field := ⟨0, 48⟩
/-- ARY_DTAB_BASE.BASE (R108). -/
abbrev ARY_DTAB_BASE_BASE : Field := ⟨0, 48⟩
/-- ARY_CMD.START (R108). -/
abbrev ARY_CMD_START : Field := ⟨0, 1⟩
/-- ARY_CMD.STOP (R108). -/
abbrev ARY_CMD_STOP : Field := ⟨1, 1⟩
/-- ARY_CMD.RESUME (R108). -/
abbrev ARY_CMD_RESUME : Field := ⟨2, 1⟩
/-- ARY_STATUS.STATE (R108). -/
abbrev ARY_STATUS_STATE : Field := ⟨0, 3⟩
/-- ARY_STATUS.DEPTH (R108). -/
abbrev ARY_STATUS_DEPTH : Field := ⟨3, 3⟩
/-- ARY_STATUS.PEND (R108). -/
abbrev ARY_STATUS_PEND : Field := ⟨6, 3⟩
/-- ARY_STATUS.SLIPFREE (R108). -/
abbrev ARY_STATUS_SLIPFREE : Field := ⟨16, 8⟩
/-- ARY_STATUS.SLIPTILES (R108). -/
abbrev ARY_STATUS_SLIPTILES : Field := ⟨24, 8⟩
/-- ARY_STATUS.LASTSEG (R108). -/
abbrev ARY_STATUS_LASTSEG : Field := ⟨32, 16⟩
/-- ARY_STATUS.PHASE (R108). -/
abbrev ARY_STATUS_PHASE : Field := ⟨48, 3⟩
/-- ARY_PC.PC (R108). -/
abbrev ARY_PC_PC : Field := ⟨0, 48⟩
/-- ARY_ERR.ILLEGAL (R108). -/
abbrev ARY_ERR_ILLEGAL : Field := ⟨0, 1⟩
/-- ARY_ERR.FAULT (R108). -/
abbrev ARY_ERR_FAULT : Field := ⟨1, 1⟩
/-- ARY_ERR.TOKOVF (R108). -/
abbrev ARY_ERR_TOKOVF : Field := ⟨2, 1⟩
/-- ARY_ERR.CMDIGN (R108). -/
abbrev ARY_ERR_CMDIGN : Field := ⟨3, 1⟩
/-- ARY_ERRADDR.ADDR (R108). -/
abbrev ARY_ERRADDR_ADDR : Field := ⟨0, 48⟩
/-- ARY_FLAGS.OVF (R108). -/
abbrev ARY_FLAGS_OVF : Field := ⟨0, 1⟩
/-- ARY_FLAGS.INV (R108). -/
abbrev ARY_FLAGS_INV : Field := ⟨1, 1⟩
/-- ARY_FLAGS.DZ (R108). -/
abbrev ARY_FLAGS_DZ : Field := ⟨2, 1⟩
/-- ARY_FLAGS.XQ (R108). -/
abbrev ARY_FLAGS_XQ : Field := ⟨3, 1⟩
/-- ARY_SPEC.MAXDEPTH (R108). -/
abbrev ARY_SPEC_MAXDEPTH : Field := ⟨0, 3⟩
/-- ARY_LONGEXP.T (R108). -/
abbrev ARY_LONGEXP_T : Field := ⟨0, 5⟩
/-- ARY_TOKEN.COUNT (R108). -/
abbrev ARY_TOKEN_COUNT : Field := ⟨0, 16⟩
/-- ARY_TOKSIG.INC (R108). -/
abbrev ARY_TOKSIG_INC : Field := ⟨0, 1⟩
/-- ARY_PASSFLOOR.FLOOR (R108). -/
abbrev ARY_PASSFLOOR_FLOOR : Field := ⟨0, 64⟩
/-- VEC_PROG_BASE.BASE (R109). -/
abbrev VEC_PROG_BASE_BASE : Field := ⟨0, 48⟩
/-- VEC_DTAB_BASE.BASE (R109). -/
abbrev VEC_DTAB_BASE_BASE : Field := ⟨0, 48⟩
/-- VEC_CMD.START (R109). -/
abbrev VEC_CMD_START : Field := ⟨0, 1⟩
/-- VEC_CMD.STOP (R109). -/
abbrev VEC_CMD_STOP : Field := ⟨1, 1⟩
/-- VEC_CMD.RESUME (R109). -/
abbrev VEC_CMD_RESUME : Field := ⟨2, 1⟩
/-- VEC_STATUS.STATE (R109). -/
abbrev VEC_STATUS_STATE : Field := ⟨0, 3⟩
/-- VEC_STATUS.VL (R109). -/
abbrev VEC_STATUS_VL : Field := ⟨16, 9⟩
/-- VEC_PC.PC (R109). -/
abbrev VEC_PC_PC : Field := ⟨0, 48⟩
/-- VEC_ERR.ILLEGAL (R109). -/
abbrev VEC_ERR_ILLEGAL : Field := ⟨0, 1⟩
/-- VEC_ERR.FAULT (R109). -/
abbrev VEC_ERR_FAULT : Field := ⟨1, 1⟩
/-- VEC_ERR.CMDIGN (R109). -/
abbrev VEC_ERR_CMDIGN : Field := ⟨3, 1⟩
/-- VEC_ERRADDR.ADDR (R109). -/
abbrev VEC_ERRADDR_ADDR : Field := ⟨0, 48⟩
/-- VEC_FLAGS.OVF (R109). -/
abbrev VEC_FLAGS_OVF : Field := ⟨0, 1⟩
/-- VEC_FLAGS.INV (R109). -/
abbrev VEC_FLAGS_INV : Field := ⟨1, 1⟩
/-- VEC_FLAGS.DZ (R109). -/
abbrev VEC_FLAGS_DZ : Field := ⟨2, 1⟩
/-- VEC_FLAGS.XQ (R109). -/
abbrev VEC_FLAGS_XQ : Field := ⟨3, 1⟩
/-- VEC_EVT.PERM_RANGE (R109). -/
abbrev VEC_EVT_PERM_RANGE : Field := ⟨0, 1⟩
/-- VEC_EVT.SMX_EMPTY (R109). -/
abbrev VEC_EVT_SMX_EMPTY : Field := ⟨1, 1⟩
/-- VEC_FILL.FILL (R109). -/
abbrev VEC_FILL_FILL : Field := ⟨0, 64⟩
/-- VEC_LOOPIDX.INDEX (R109). -/
abbrev VEC_LOOPIDX_INDEX : Field := ⟨0, 24⟩
/-- LND_LTAB_BASE.BASE (R158). -/
abbrev LND_LTAB_BASE_BASE : Field := ⟨0, 48⟩
/-- LND_LTAB_COUNT.COUNT (R158). -/
abbrev LND_LTAB_COUNT_COUNT : Field := ⟨0, 16⟩
/-- LND_CMD.ABORT (R158). -/
abbrev LND_CMD_ABORT : Field := ⟨0, 1⟩
/-- LND_STATUS.STATE (R158). -/
abbrev LND_STATUS_STATE : Field := ⟨0, 3⟩
/-- LND_STATUS.VPTR (R158). -/
abbrev LND_STATUS_VPTR : Field := ⟨3, 1⟩
/-- LND_STATUS.MPTR (R158). -/
abbrev LND_STATUS_MPTR : Field := ⟨4, 1⟩
/-- LND_STATUS.LEAD (R158). -/
abbrev LND_STATUS_LEAD : Field := ⟨5, 1⟩
/-- LND_STATUS.VOTED (R158). -/
abbrev LND_STATUS_VOTED : Field := ⟨6, 1⟩
/-- LND_STATUS.VOTE (R158). -/
abbrev LND_STATUS_VOTE : Field := ⟨7, 1⟩
/-- LND_STATUS.WIDE (R158). -/
abbrev LND_STATUS_WIDE : Field := ⟨8, 1⟩
/-- LND_STATUS.OUTERDUE (R158). -/
abbrev LND_STATUS_OUTERDUE : Field := ⟨9, 1⟩
/-- LND_STATUS.PENDMOOR (R158). -/
abbrev LND_STATUS_PENDMOOR : Field := ⟨10, 1⟩
/-- LND_ERR.CAUSES (R158). -/
abbrev LND_ERR_CAUSES : Field := ⟨0, 9⟩
/-- LND_ERR.CMDIGN (R158). -/
abbrev LND_ERR_CMDIGN : Field := ⟨9, 1⟩
/-- LND_FLAGS.OVF (R158). -/
abbrev LND_FLAGS_OVF : Field := ⟨0, 1⟩
/-- LND_FLAGS.INV (R158). -/
abbrev LND_FLAGS_INV : Field := ⟨1, 1⟩
/-- LND_FLAGS.DZ (R158). -/
abbrev LND_FLAGS_DZ : Field := ⟨2, 1⟩
/-- LND_FLAGS.XQ (R158). -/
abbrev LND_FLAGS_XQ : Field := ⟨3, 1⟩
/-- LND_LRSCALE.SCALE (R158). -/
abbrev LND_LRSCALE_SCALE : Field := ⟨0, 32⟩
/-- LND_LENT.CLUSTER (R158). -/
abbrev LND_LENT_CLUSTER : Field := ⟨0, 5⟩
/-- LND_LENT.VALID (R158). -/
abbrev LND_LENT_VALID : Field := ⟨5, 1⟩
/-- LND_ERRENT.ENTRY (R158). -/
abbrev LND_ERRENT_ENTRY : Field := ⟨0, 16⟩
/-- LND_ERRENT.VALID (R158). -/
abbrev LND_ERRENT_VALID : Field := ⟨16, 1⟩
/-- LND_ERRIDX.INDEX (R158). -/
abbrev LND_ERRIDX_INDEX : Field := ⟨0, 32⟩
/-- LND_SKIPCNT.COUNT (R158). -/
abbrev LND_SKIPCNT_COUNT : Field := ⟨0, 32⟩
/-- LND_SKIPRUN.COUNT (R158). -/
abbrev LND_SKIPRUN_COUNT : Field := ⟨0, 16⟩
/-- LND_LATECNT.COUNT (R158). -/
abbrev LND_LATECNT_COUNT : Field := ⟨0, 32⟩
/-- LND_DIFFREJ.COUNT (R158). -/
abbrev LND_DIFFREJ_COUNT : Field := ⟨0, 48⟩
/-- LND_WIDECNT.COUNT (R158). -/
abbrev LND_WIDECNT_COUNT : Field := ⟨0, 16⟩
/-- LND_STEP.STEP (R158). -/
abbrev LND_STEP_STEP : Field := ⟨0, 48⟩
/-- LND_XDROPCNT.COUNT (R158). -/
abbrev LND_XDROPCNT_COUNT : Field := ⟨0, 32⟩
/-- SLV_JQ_BASE.BASE (R182). -/
abbrev SLV_JQ_BASE_BASE : Field := ⟨0, 48⟩
/-- SLV_JQ_CTRL.SIZE (R182). -/
abbrev SLV_JQ_CTRL_SIZE : Field := ⟨0, 8⟩
/-- SLV_JQ_TAIL.TAIL (R182). -/
abbrev SLV_JQ_TAIL_TAIL : Field := ⟨0, 8⟩
/-- SLV_JQ_HEAD.HEAD (R182). -/
abbrev SLV_JQ_HEAD_HEAD : Field := ⟨0, 8⟩
/-- SLV_CMD.STOP (R182). -/
abbrev SLV_CMD_STOP : Field := ⟨0, 1⟩
/-- SLV_CMD.RESUME (R182). -/
abbrev SLV_CMD_RESUME : Field := ⟨1, 1⟩
/-- SLV_CMD.ABORTJOB (R182). -/
abbrev SLV_CMD_ABORTJOB : Field := ⟨2, 1⟩
/-- SLV_CMD.ABORTRND (R182). -/
abbrev SLV_CMD_ABORTRND : Field := ⟨3, 1⟩
/-- SLV_STATUS.STATE (R182). -/
abbrev SLV_STATUS_STATE : Field := ⟨0, 4⟩
/-- SLV_STATUS.WBUSY (R182). -/
abbrev SLV_STATUS_WBUSY : Field := ⟨4, 1⟩
/-- SLV_STATUS.ROUND (R182). -/
abbrev SLV_STATUS_ROUND : Field := ⟨5, 1⟩
/-- SLV_STATUS.JOB (R182). -/
abbrev SLV_STATUS_JOB : Field := ⟨6, 1⟩
/-- SLV_STATUS.ROUNDNO (R182). -/
abbrev SLV_STATUS_ROUNDNO : Field := ⟨16, 32⟩
/-- SLV_ERR.ILLEGAL (R182). -/
abbrev SLV_ERR_ILLEGAL : Field := ⟨0, 1⟩
/-- SLV_ERR.TABLE (R182). -/
abbrev SLV_ERR_TABLE : Field := ⟨1, 1⟩
/-- SLV_ERR.FAULT (R182). -/
abbrev SLV_ERR_FAULT : Field := ⟨2, 1⟩
/-- SLV_ERR.LENTERR (R182). -/
abbrev SLV_ERR_LENTERR : Field := ⟨3, 1⟩
/-- SLV_ERR.CLRANGE (R182). -/
abbrev SLV_ERR_CLRANGE : Field := ⟨4, 1⟩
/-- SLV_ERR.WLOST (R182). -/
abbrev SLV_ERR_WLOST : Field := ⟨5, 1⟩
/-- SLV_ERR.CMDIGN (R182). -/
abbrev SLV_ERR_CMDIGN : Field := ⟨6, 1⟩
/-- SLV_EVT.WARM_REJECT (R182). -/
abbrev SLV_EVT_WARM_REJECT : Field := ⟨0, 1⟩
/-- SLV_EVT.REREAD (R182). -/
abbrev SLV_EVT_REREAD : Field := ⟨1, 1⟩
/-- SLV_EVT.DL_ACCEPT (R182). -/
abbrev SLV_EVT_DL_ACCEPT : Field := ⟨2, 1⟩
/-- SLV_EVT.DL_STALE (R182). -/
abbrev SLV_EVT_DL_STALE : Field := ⟨3, 1⟩
/-- SLV_EVT.DL_ABANDON (R182). -/
abbrev SLV_EVT_DL_ABANDON : Field := ⟨4, 1⟩
/-- SLV_EVT.JOBDONE (R182). -/
abbrev SLV_EVT_JOBDONE : Field := ⟨5, 1⟩
/-- SLV_EVT.ROUNDDONE (R182). -/
abbrev SLV_EVT_ROUNDDONE : Field := ⟨6, 1⟩
/-- SLV_FLAGS.OVF (R182). -/
abbrev SLV_FLAGS_OVF : Field := ⟨0, 1⟩
/-- SLV_FLAGS.INV (R182). -/
abbrev SLV_FLAGS_INV : Field := ⟨1, 1⟩
/-- SLV_FLAGS.DZ (R182). -/
abbrev SLV_FLAGS_DZ : Field := ⟨2, 1⟩
/-- SLV_FLAGS.XQ (R182). -/
abbrev SLV_FLAGS_XQ : Field := ⟨3, 1⟩
/-- SLV_RTAB_BASE.BASE (R182). -/
abbrev SLV_RTAB_BASE_BASE : Field := ⟨0, 48⟩
/-- SLV_RTAB_COUNT.COUNT (R182). -/
abbrev SLV_RTAB_COUNT_COUNT : Field := ⟨0, 16⟩
/-- SLV_CADENCE.CAD (R182). -/
abbrev SLV_CADENCE_CAD : Field := ⟨0, 16⟩
/-- SLV_CADENCE.DLSTEPS (R182). -/
abbrev SLV_CADENCE_DLSTEPS : Field := ⟨16, 16⟩
/-- SLV_CADENCE.CYCBUD (R182). -/
abbrev SLV_CADENCE_CYCBUD : Field := ⟨32, 32⟩
/-- SLV_LENT.MASK (R182). -/
abbrev SLV_LENT_MASK : Field := ⟨0, 32⟩
/-- SLV_CURJOB.ADDR (R182). -/
abbrev SLV_CURJOB_ADDR : Field := ⟨0, 48⟩
/-- SLV_ABANDONCNT.COUNT (R182). -/
abbrev SLV_ABANDONCNT_COUNT : Field := ⟨0, 32⟩
/-- SLV_STALECNT.COUNT (R182). -/
abbrev SLV_STALECNT_COUNT : Field := ⟨0, 32⟩
/-- SLV_ACCEPTCNT.COUNT (R182). -/
abbrev SLV_ACCEPTCNT_COUNT : Field := ⟨0, 32⟩
/-- SLV_WARMREJCNT.COUNT (R182). -/
abbrev SLV_WARMREJCNT_COUNT : Field := ⟨0, 32⟩
/-- SLV_REREADCNT.COUNT (R182). -/
abbrev SLV_REREADCNT_COUNT : Field := ⟨0, 32⟩
/-- SLV_FAILCNT.COUNT (R182). -/
abbrev SLV_FAILCNT_COUNT : Field := ⟨0, 32⟩
/-- MEM_STATUS.STATE (R219). -/
abbrev MEM_STATUS_STATE : Field := ⟨0, 2⟩
/-- MEM_STATUS.HOTREF (R219). -/
abbrev MEM_STATUS_HOTREF : Field := ⟨2, 1⟩
/-- MEM_STATUS.REPAIRED (R219). -/
abbrev MEM_STATUS_REPAIRED : Field := ⟨3, 1⟩
/-- MEM_STATUS.WBUSY (R219). -/
abbrev MEM_STATUS_WBUSY : Field := ⟨4, 1⟩
/-- MEM_STATUS.SPARES (R219). -/
abbrev MEM_STATUS_SPARES : Field := ⟨8, 8⟩
/-- MEM_ERR.UE (R219). -/
abbrev MEM_ERR_UE : Field := ⟨0, 1⟩
/-- MEM_ERR.CEHIGH (R219). -/
abbrev MEM_ERR_CEHIGH : Field := ⟨1, 1⟩
/-- MEM_ERR.HOT (R219). -/
abbrev MEM_ERR_HOT : Field := ⟨2, 1⟩
/-- MEM_ERR.OVERTEMP (R219). -/
abbrev MEM_ERR_OVERTEMP : Field := ⟨3, 1⟩
/-- MEM_ERR.WLOST (R219). -/
abbrev MEM_ERR_WLOST : Field := ⟨4, 1⟩
/-- MEM_ERR.INJDONE (R219). -/
abbrev MEM_ERR_INJDONE : Field := ⟨5, 1⟩
/-- MEM_ERR.INJBAD (R219). -/
abbrev MEM_ERR_INJBAD : Field := ⟨6, 1⟩
/-- MEM_CECNT.COUNT (R219). -/
abbrev MEM_CECNT_COUNT : Field := ⟨0, 32⟩
/-- MEM_UECNT.COUNT (R219). -/
abbrev MEM_UECNT_COUNT : Field := ⟨0, 32⟩
/-- MEM_ERRADDR.ADDR (R219). -/
abbrev MEM_ERRADDR_ADDR : Field := ⟨0, 40⟩
/-- MEM_ERRINFO.SYM (R219). -/
abbrev MEM_ERRINFO_SYM : Field := ⟨0, 7⟩
/-- MEM_ERRINFO.LAYER (R219). -/
abbrev MEM_ERRINFO_LAYER : Field := ⟨8, 3⟩
/-- MEM_ERRINFO.SRC (R219). -/
abbrev MEM_ERRINFO_SRC : Field := ⟨16, 1⟩
/-- MEM_SCRUB.HOURS (R219). -/
abbrev MEM_SCRUB_HOURS : Field := ⟨0, 16⟩
/-- MEM_SCRUB.CETHR (R219). -/
abbrev MEM_SCRUB_CETHR : Field := ⟨32, 16⟩
/-- MEM_TEMP.DEGC (R219). -/
abbrev MEM_TEMP_DEGC : Field := ⟨0, 8⟩
/-- MEM_TEMP.LAYER (R219). -/
abbrev MEM_TEMP_LAYER : Field := ⟨8, 3⟩
/-- MEM_INJ.SECTOR (R219). -/
abbrev MEM_INJ_SECTOR : Field := ⟨6, 34⟩
/-- MEM_INJ.SYMA (R219). -/
abbrev MEM_INJ_SYMA : Field := ⟨40, 7⟩
/-- MEM_INJ.SYMB (R219). -/
abbrev MEM_INJ_SYMB : Field := ⟨48, 7⟩
/-- MEM_INJ.TWO (R219). -/
abbrev MEM_INJ_TWO : Field := ⟨55, 1⟩
/-- MEM_INJ.ARM (R219). -/
abbrev MEM_INJ_ARM : Field := ⟨63, 1⟩
/-- MEM_CDC_CRTBASE.BASE (R220). -/
abbrev MEM_CDC_CRTBASE_BASE : Field := ⟨0, 48⟩
/-- MEM_CDC_CRTCOUNT.COUNT (R220). -/
abbrev MEM_CDC_CRTCOUNT_COUNT : Field := ⟨0, 11⟩
/-- MEM_CDC_DTADDR.ADDR (R220). -/
abbrev MEM_CDC_DTADDR_ADDR : Field := ⟨0, 48⟩
/-- MEM_CDC_DTADDR.TID (R220). -/
abbrev MEM_CDC_DTADDR_TID : Field := ⟨48, 4⟩
/-- MEM_CDC_DTSTEP.STEP (R220). -/
abbrev MEM_CDC_DTSTEP_STEP : Field := ⟨0, 48⟩
/-- MEM_CDC_STATUS.CURTID (R220). -/
abbrev MEM_CDC_STATUS_CURTID : Field := ⟨0, 4⟩
/-- MEM_CDC_STATUS.CURVALID (R220). -/
abbrev MEM_CDC_STATUS_CURVALID : Field := ⟨4, 1⟩
/-- MEM_CDC_STATUS.CURBANK (R220). -/
abbrev MEM_CDC_STATUS_CURBANK : Field := ⟨5, 1⟩
/-- MEM_CDC_STATUS.OTHTID (R220). -/
abbrev MEM_CDC_STATUS_OTHTID : Field := ⟨6, 4⟩
/-- MEM_CDC_STATUS.OTHSTATE (R220). -/
abbrev MEM_CDC_STATUS_OTHSTATE : Field := ⟨10, 3⟩
/-- MEM_CDC_STATUS.WBUSY (R220). -/
abbrev MEM_CDC_STATUS_WBUSY : Field := ⟨13, 1⟩
/-- MEM_CDC_STATUS.SWSTEP (R220). -/
abbrev MEM_CDC_STATUS_SWSTEP : Field := ⟨16, 48⟩
/-- MEM_CDC_ERR.DTBAD (R220). -/
abbrev MEM_CDC_ERR_DTBAD : Field := ⟨0, 1⟩
/-- MEM_CDC_ERR.DTLATE (R220). -/
abbrev MEM_CDC_ERR_DTLATE : Field := ⟨1, 1⟩
/-- MEM_CDC_ERR.DECODE_STALE (R220). -/
abbrev MEM_CDC_ERR_DECODE_STALE : Field := ⟨2, 1⟩
/-- MEM_CDC_ERR.DECODE_BAD (R220). -/
abbrev MEM_CDC_ERR_DECODE_BAD : Field := ⟨3, 1⟩
/-- MEM_CDC_ERR.BASEVER (R220). -/
abbrev MEM_CDC_ERR_BASEVER : Field := ⟨4, 1⟩
/-- MEM_CDC_ERR.WLOST (R220). -/
abbrev MEM_CDC_ERR_WLOST : Field := ⟨5, 1⟩
/-- MEM_CDC_ERR.PARTIAL (R220). -/
abbrev MEM_CDC_ERR_PARTIAL : Field := ⟨6, 1⟩
/-- MEM_CDC_BWIN.BWLINES (R220). -/
abbrev MEM_CDC_BWIN_BWLINES : Field := ⟨0, 11⟩
/-- MEM_CDC_STALECNT.COUNT (R220). -/
abbrev MEM_CDC_STALECNT_COUNT : Field := ⟨0, 32⟩
/-- MEM_CDC_STALLCNT.COUNT (R220). -/
abbrev MEM_CDC_STALLCNT_COUNT : Field := ⟨0, 48⟩
/-- MEM_CDC_RAWCNT.COUNT (R220). -/
abbrev MEM_CDC_RAWCNT_COUNT : Field := ⟨0, 32⟩
/-- XLT_ROOT.PA (R245). -/
abbrev XLT_ROOT_PA : Field := ⟨12, 28⟩
/-- XLT_ROOT.VALID (R245). -/
abbrev XLT_ROOT_VALID : Field := ⟨0, 1⟩
/-- XLT_INV.VA (R245). -/
abbrev XLT_INV_VA : Field := ⟨16, 32⟩
/-- XLT_INV.BIND (R245). -/
abbrev XLT_INV_BIND : Field := ⟨48, 3⟩
/-- XLT_INV.ALLB (R245). -/
abbrev XLT_INV_ALLB : Field := ⟨51, 1⟩
/-- XLT_INV.SIZE (R245). -/
abbrev XLT_INV_SIZE : Field := ⟨52, 12⟩
/-- XLT_STATUS.WBUSY (R245). -/
abbrev XLT_STATUS_WBUSY : Field := ⟨0, 1⟩
/-- XLT_STATUS.CACHED (R245). -/
abbrev XLT_STATUS_CACHED : Field := ⟨4, 12⟩
/-- XLT_ERR.WLOST (R245). -/
abbrev XLT_ERR_WLOST : Field := ⟨0, 1⟩
/-- XLT_ERR.FAULT (R245). -/
abbrev XLT_ERR_FAULT : Field := ⟨1, 1⟩
/-- XLT_WALKCNT.COUNT (R245). -/
abbrev XLT_WALKCNT_COUNT : Field := ⟨0, 48⟩
/-- XLT_INVALL.VA (R245). -/
abbrev XLT_INVALL_VA : Field := ⟨16, 32⟩
/-- XLT_INVALL.BIND (R245). -/
abbrev XLT_INVALL_BIND : Field := ⟨48, 3⟩
/-- XLT_INVALL.ALLB (R245). -/
abbrev XLT_INVALL_ALLB : Field := ⟨51, 1⟩
/-- XLT_INVALL.SIZE (R245). -/
abbrev XLT_INVALL_SIZE : Field := ⟨52, 12⟩
/-- XLT_GSTATUS.WBUSY (R245). -/
abbrev XLT_GSTATUS_WBUSY : Field := ⟨0, 1⟩
/-- XLT_GSTATUS.WLOST (R245). -/
abbrev XLT_GSTATUS_WLOST : Field := ⟨1, 1⟩
/-- XLT_FLOG_BASE.BASE (R245). -/
abbrev XLT_FLOG_BASE_BASE : Field := ⟨5, 35⟩
/-- XLT_FLOG_SIZE.SIZE (R245). -/
abbrev XLT_FLOG_SIZE_SIZE : Field := ⟨0, 13⟩
/-- XLT_FLOG_HEAD.HEAD (R245). -/
abbrev XLT_FLOG_HEAD_HEAD : Field := ⟨0, 13⟩
/-- XLT_FLOG_READ.READ (R245). -/
abbrev XLT_FLOG_READ_READ : Field := ⟨0, 13⟩
/-- XLT_FLOG_LOST.COUNT (R245). -/
abbrev XLT_FLOG_LOST_COUNT : Field := ⟨0, 32⟩
/-- MOV_RING_BASE.BASE (R246). -/
abbrev MOV_RING_BASE_BASE : Field := ⟨0, 48⟩
/-- MOV_RING_CTRL.LOG2 (R246). -/
abbrev MOV_RING_CTRL_LOG2 : Field := ⟨0, 5⟩
/-- MOV_RING_CTRL.EN (R246). -/
abbrev MOV_RING_CTRL_EN : Field := ⟨5, 1⟩
/-- MOV_TAIL.TAIL (R246). -/
abbrev MOV_TAIL_TAIL : Field := ⟨0, 16⟩
/-- MOV_HEAD.HEAD (R246). -/
abbrev MOV_HEAD_HEAD : Field := ⟨0, 16⟩
/-- MOV_CMD.STOP (R246). -/
abbrev MOV_CMD_STOP : Field := ⟨0, 1⟩
/-- MOV_CMD.RESUME (R246). -/
abbrev MOV_CMD_RESUME : Field := ⟨1, 1⟩
/-- MOV_CMD.ABORT (R246). -/
abbrev MOV_CMD_ABORT : Field := ⟨2, 1⟩
/-- MOV_STATUS.STATE (R246). -/
abbrev MOV_STATUS_STATE : Field := ⟨0, 3⟩
/-- MOV_STATUS.WBUSY (R246). -/
abbrev MOV_STATUS_WBUSY : Field := ⟨3, 1⟩
/-- MOV_STATUS.INFLIGHT (R246). -/
abbrev MOV_STATUS_INFLIGHT : Field := ⟨4, 11⟩
/-- MOV_STATUS.HELD (R246). -/
abbrev MOV_STATUS_HELD : Field := ⟨15, 11⟩
/-- MOV_ERR.ILLEGAL (R246). -/
abbrev MOV_ERR_ILLEGAL : Field := ⟨0, 1⟩
/-- MOV_ERR.FAULT (R246). -/
abbrev MOV_ERR_FAULT : Field := ⟨1, 1⟩
/-- MOV_ERR.REMOTE (R246). -/
abbrev MOV_ERR_REMOTE : Field := ⟨2, 1⟩
/-- MOV_ERR.WLOST (R246). -/
abbrev MOV_ERR_WLOST : Field := ⟨3, 1⟩
/-- MOV_ERR.CMDIGN (R246). -/
abbrev MOV_ERR_CMDIGN : Field := ⟨4, 1⟩
/-- MOV_ERR.PFWD (R246). -/
abbrev MOV_ERR_PFWD : Field := ⟨5, 1⟩
/-- MOV_ERR.BADTAIL (R246). -/
abbrev MOV_ERR_BADTAIL : Field := ⟨6, 1⟩
/-- MOV_ERRDESC.ADDR (R246). -/
abbrev MOV_ERRDESC_ADDR : Field := ⟨0, 48⟩
/-- MOV_DONECNT.COUNT (R246). -/
abbrev MOV_DONECNT_COUNT : Field := ⟨0, 48⟩
/-- FAB_PCFG.DIR (R273). -/
abbrev FAB_PCFG_DIR : Field := ⟨0, 3⟩
/-- FAB_PCFG.HORNP (R273). -/
abbrev FAB_PCFG_HORNP : Field := ⟨3, 1⟩
/-- FAB_PCFG.EN (R273). -/
abbrev FAB_PCFG_EN : Field := ⟨4, 1⟩
/-- FAB_PSTATUS.STATE (R273). -/
abbrev FAB_PSTATUS_STATE : Field := ⟨0, 2⟩
/-- FAB_PSTATUS.PEER (R273). -/
abbrev FAB_PSTATUS_PEER : Field := ⟨16, 15⟩
/-- FAB_PERR.LINKDOWN (R273). -/
abbrev FAB_PERR_LINKDOWN : Field := ⟨0, 1⟩
/-- FAB_PERR.PEERMIS (R273). -/
abbrev FAB_PERR_PEERMIS : Field := ⟨1, 1⟩
/-- FAB_PERR.REPLAYMAX (R273). -/
abbrev FAB_PERR_REPLAYMAX : Field := ⟨2, 1⟩
/-- FAB_PERR.CRCFAIL (R273). -/
abbrev FAB_PERR_CRCFAIL : Field := ⟨3, 1⟩
/-- FAB_PERR.DROPDOWN (R273). -/
abbrev FAB_PERR_DROPDOWN : Field := ⟨4, 1⟩
/-- FAB_PERR.DROPNR (R273). -/
abbrev FAB_PERR_DROPNR : Field := ⟨5, 1⟩
/-- FAB_PERR.BADTYPE (R273). -/
abbrev FAB_PERR_BADTYPE : Field := ⟨6, 1⟩
/-- FAB_ARB.W1 (R273). -/
abbrev FAB_ARB_W1 : Field := ⟨0, 8⟩
/-- FAB_ARB.W2 (R273). -/
abbrev FAB_ARB_W2 : Field := ⟨8, 8⟩
/-- FAB_ARB.W3 (R273). -/
abbrev FAB_ARB_W3 : Field := ⟨16, 8⟩
/-- FAB_ECHO.RTT (R273). -/
abbrev FAB_ECHO_RTT : Field := ⟨0, 32⟩
/-- FAB_ECHO.RTTMAX (R273). -/
abbrev FAB_ECHO_RTTMAX : Field := ⟨32, 32⟩
/-- FAB_HORNRES.QMAX (R273). -/
abbrev FAB_HORNRES_QMAX : Field := ⟨0, 32⟩
/-- FAB_REPLAYCNT.COUNT (R273). -/
abbrev FAB_REPLAYCNT_COUNT : Field := ⟨0, 32⟩
/-- FAB_DROPCNT.COUNT (R273). -/
abbrev FAB_DROPCNT_COUNT : Field := ⟨0, 32⟩
/-- FAB_COORD.LOG (R273). -/
abbrev FAB_COORD_LOG : Field := ⟨0, 15⟩
/-- FAB_COORD.LVALID (R273). -/
abbrev FAB_COORD_LVALID : Field := ⟨15, 1⟩
/-- FAB_COORD.PHYS (R273). -/
abbrev FAB_COORD_PHYS : Field := ⟨16, 15⟩
/-- FAB_COORD.ARR (R273). -/
abbrev FAB_COORD_ARR : Field := ⟨32, 2⟩
/-- FAB_DIMS.DX (R273). -/
abbrev FAB_DIMS_DX : Field := ⟨0, 9⟩
/-- FAB_DIMS.DY (R273). -/
abbrev FAB_DIMS_DY : Field := ⟨9, 9⟩
/-- FAB_DIMS.DZ (R273). -/
abbrev FAB_DIMS_DZ : Field := ⟨18, 6⟩
/-- FAB_HORN_CTRL.RETRY (R273). -/
abbrev FAB_HORN_CTRL_RETRY : Field := ⟨0, 16⟩
/-- FAB_HORN_CTRL.EN (R273). -/
abbrev FAB_HORN_CTRL_EN : Field := ⟨16, 1⟩
/-- FAB_HORN_STATUS.WBUSY (R273). -/
abbrev FAB_HORN_STATUS_WBUSY : Field := ⟨0, 1⟩
/-- FAB_HORN_STATUS.TXPEND (R273). -/
abbrev FAB_HORN_STATUS_TXPEND : Field := ⟨1, 8⟩
/-- FAB_HORN_STATUS.PINGRTT (R273). -/
abbrev FAB_HORN_STATUS_PINGRTT : Field := ⟨32, 32⟩
/-- FAB_HORN_ERR.HORN_OVER (R273). -/
abbrev FAB_HORN_ERR_HORN_OVER : Field := ⟨0, 1⟩
/-- FAB_HORN_ERR.HORN_LEN (R273). -/
abbrev FAB_HORN_ERR_HORN_LEN : Field := ⟨1, 1⟩
/-- FAB_HORN_ERR.HORN_TYPE (R273). -/
abbrev FAB_HORN_ERR_HORN_TYPE : Field := ⟨2, 1⟩
/-- FAB_HORN_ERR.WLOST (R273). -/
abbrev FAB_HORN_ERR_WLOST : Field := ⟨3, 1⟩
/-- FAB_HORN_ERR.STALEVOTE (R273). -/
abbrev FAB_HORN_ERR_STALEVOTE : Field := ⟨4, 1⟩
/-- FAB_HORN_ERR.DUPDEC (R273). -/
abbrev FAB_HORN_ERR_DUPDEC : Field := ⟨5, 1⟩
/-- FAB_HORN_ERR.VCOUNT (R273). -/
abbrev FAB_HORN_ERR_VCOUNT : Field := ⟨6, 1⟩
/-- FAB_HORN_ERR.SRCDROP (R273). -/
abbrev FAB_HORN_ERR_SRCDROP : Field := ⟨7, 1⟩
/-- FAB_HORN_ERR.EXTRAVOTE (R273). -/
abbrev FAB_HORN_ERR_EXTRAVOTE : Field := ⟨8, 1⟩
/-- FAB_HORN_TX.SLOT (R273). -/
abbrev FAB_HORN_TX_SLOT : Field := ⟨6, 8⟩
/-- FAB_HORN_TX.LEN (R273). -/
abbrev FAB_HORN_TX_LEN : Field := ⟨16, 9⟩
/-- FAB_HORN_TX.DST (R273). -/
abbrev FAB_HORN_TX_DST : Field := ⟨32, 15⟩
/-- FAB_HORN_TX.TYPE (R273). -/
abbrev FAB_HORN_TX_TYPE : Field := ⟨48, 6⟩
/-- FAB_HORN_RXHEAD.HEAD (R273). -/
abbrev FAB_HORN_RXHEAD_HEAD : Field := ⟨0, 7⟩
/-- FAB_HORN_RXREAD.READ (R273). -/
abbrev FAB_HORN_RXREAD_READ : Field := ⟨0, 7⟩
/-- FAB_VOTE.BID (R273). -/
abbrev FAB_VOTE_BID : Field := ⟨0, 16⟩
/-- FAB_VOTE.PARENT (R273). -/
abbrev FAB_VOTE_PARENT : Field := ⟨16, 15⟩
/-- FAB_VOTE.ROOT (R273). -/
abbrev FAB_VOTE_ROOT : Field := ⟨31, 1⟩
/-- FAB_VOTE.NCHILD (R273). -/
abbrev FAB_VOTE_NCHILD : Field := ⟨32, 4⟩
/-- FAB_VOTE.BNDDEV (R273). -/
abbrev FAB_VOTE_BNDDEV : Field := ⟨48, 16⟩
/-- FAB_VOTESTAT.STEP (R273). -/
abbrev FAB_VOTESTAT_STEP : Field := ⟨0, 48⟩
/-- FAB_VOTESTAT.DEC (R273). -/
abbrev FAB_VOTESTAT_DEC : Field := ⟨48, 1⟩
/-- FAB_VOTESTAT.WAIT (R273). -/
abbrev FAB_VOTESTAT_WAIT : Field := ⟨49, 1⟩
/-- FAB_SRCDROPCNT.COUNT (R273). -/
abbrev FAB_SRCDROPCNT_COUNT : Field := ⟨0, 32⟩
/-- FAB_VOTEROOT.ROOTC (R273). -/
abbrev FAB_VOTEROOT_ROOTC : Field := ⟨0, 15⟩
/-- FAB_PDOWN.DOWN (R273). -/
abbrev FAB_PDOWN_DOWN : Field := ⟨0, 64⟩
/-- FAB_REMAP.PHYS (R273). -/
abbrev FAB_REMAP_PHYS : Field := ⟨0, 15⟩
/-- FAB_REMAP.VALID (R273). -/
abbrev FAB_REMAP_VALID : Field := ⟨15, 1⟩
/-- FAB_CE_OPBASE.BASE (R273). -/
abbrev FAB_CE_OPBASE_BASE : Field := ⟨0, 48⟩
/-- FAB_CE_OPCOUNT.COUNT (R273). -/
abbrev FAB_CE_OPCOUNT_COUNT : Field := ⟨0, 16⟩
/-- FAB_CE_CMD.STOP (R273). -/
abbrev FAB_CE_CMD_STOP : Field := ⟨0, 1⟩
/-- FAB_CE_CMD.RESUME (R273). -/
abbrev FAB_CE_CMD_RESUME : Field := ⟨1, 1⟩
/-- FAB_CE_STATUS.STATE (R273). -/
abbrev FAB_CE_STATUS_STATE : Field := ⟨0, 3⟩
/-- FAB_CE_STATUS.INFLIGHT (R273). -/
abbrev FAB_CE_STATUS_INFLIGHT : Field := ⟨16, 13⟩
/-- FAB_CE_ERR.ILLEGAL (R273). -/
abbrev FAB_CE_ERR_ILLEGAL : Field := ⟨0, 1⟩
/-- FAB_CE_ERR.FAULT (R273). -/
abbrev FAB_CE_ERR_FAULT : Field := ⟨1, 1⟩
/-- FAB_CE_ERR.POISON (R273). -/
abbrev FAB_CE_ERR_POISON : Field := ⟨2, 1⟩
/-- FAB_CE_ERR.CMDIGN (R273). -/
abbrev FAB_CE_ERR_CMDIGN : Field := ⟨3, 1⟩
/-- FAB_CE_FLAGS.OVF (R273). -/
abbrev FAB_CE_FLAGS_OVF : Field := ⟨0, 1⟩
/-- FAB_CE_FLAGS.INV (R273). -/
abbrev FAB_CE_FLAGS_INV : Field := ⟨1, 1⟩
/-- FAB_CE_FLAGS.DZ (R273). -/
abbrev FAB_CE_FLAGS_DZ : Field := ⟨2, 1⟩
/-- FAB_CE_FLAGS.XQ (R273). -/
abbrev FAB_CE_FLAGS_XQ : Field := ⟨3, 1⟩
/-- FAB_CE_ERRADDR.ADDR (R273). -/
abbrev FAB_CE_ERRADDR_ADDR : Field := ⟨0, 48⟩
/-- FAB_CE_LATECNT.COUNT (R273). -/
abbrev FAB_CE_LATECNT_COUNT : Field := ⟨0, 32⟩
/-- FRY_PCFG.EN (R298). -/
abbrev FRY_PCFG_EN : Field := ⟨0, 1⟩
/-- FRY_PCFG.MEDIA (R298). -/
abbrev FRY_PCFG_MEDIA : Field := ⟨1, 1⟩
/-- FRY_PCFG.VLAN (R298). -/
abbrev FRY_PCFG_VLAN : Field := ⟨2, 1⟩
/-- FRY_PCFG.VID (R298). -/
abbrev FRY_PCFG_VID : Field := ⟨3, 12⟩
/-- FRY_PCFG.PCP (R298). -/
abbrev FRY_PCFG_PCP : Field := ⟨15, 3⟩
/-- FRY_PCFG.DSCP (R298). -/
abbrev FRY_PCFG_DSCP : Field := ⟨18, 6⟩
/-- FRY_PCFG.CDSCP (R298). -/
abbrev FRY_PCFG_CDSCP : Field := ⟨24, 6⟩
/-- FRY_PSTATUS.STATE (R298). -/
abbrev FRY_PSTATUS_STATE : Field := ⟨0, 2⟩
/-- FRY_PSTATUS.GMACFB (R298). -/
abbrev FRY_PSTATUS_GMACFB : Field := ⟨2, 1⟩
/-- FRY_PERR.LINKDOWN (R298). -/
abbrev FRY_PERR_LINKDOWN : Field := ⟨0, 1⟩
/-- FRY_PERR.FCSERR (R298). -/
abbrev FRY_PERR_FCSERR : Field := ⟨1, 1⟩
/-- FRY_PERR.OVERSIZE (R298). -/
abbrev FRY_PERR_OVERSIZE : Field := ⟨2, 1⟩
/-- FRY_PERR.NOCHAN (R298). -/
abbrev FRY_PERR_NOCHAN : Field := ⟨3, 1⟩
/-- FRY_MAC.MAC (R298). -/
abbrev FRY_MAC_MAC : Field := ⟨0, 48⟩
/-- FRY_GWMAC.MAC (R298). -/
abbrev FRY_GWMAC_MAC : Field := ⟨0, 48⟩
/-- FRY_IPLO.ADDR (R298). -/
abbrev FRY_IPLO_ADDR : Field := ⟨0, 64⟩
/-- FRY_IPHI.ADDR (R298). -/
abbrev FRY_IPHI_ADDR : Field := ⟨0, 64⟩
/-- FRY_DROPCNT.COUNT (R298). -/
abbrev FRY_DROPCNT_COUNT : Field := ⟨0, 32⟩
/-- FRY_CTRL.EN (R298). -/
abbrev FRY_CTRL_EN : Field := ⟨0, 1⟩
/-- FRY_CTRL.UDPPORT (R298). -/
abbrev FRY_CTRL_UDPPORT : Field := ⟨16, 16⟩
/-- FRY_STATUS.STATE (R298). -/
abbrev FRY_STATUS_STATE : Field := ⟨0, 3⟩
/-- FRY_STATUS.WBUSY (R298). -/
abbrev FRY_STATUS_WBUSY : Field := ⟨3, 1⟩
/-- FRY_STATUS.JOINED (R298). -/
abbrev FRY_STATUS_JOINED : Field := ⟨8, 8⟩
/-- FRY_ERR.GMACFB (R298). -/
abbrev FRY_ERR_GMACFB : Field := ⟨0, 1⟩
/-- FRY_ERR.FAULT (R298). -/
abbrev FRY_ERR_FAULT : Field := ⟨1, 1⟩
/-- FRY_ERR.WLOST (R298). -/
abbrev FRY_ERR_WLOST : Field := ⟨2, 1⟩
/-- FRY_ERR.IVJNL (R298). -/
abbrev FRY_ERR_IVJNL : Field := ⟨3, 1⟩
/-- FRY_CTD_BASE.BASE (R298). -/
abbrev FRY_CTD_BASE_BASE : Field := ⟨0, 48⟩
/-- FRY_XMAP_BASE.BASE (R298). -/
abbrev FRY_XMAP_BASE_BASE : Field := ⟨0, 48⟩
/-- FRY_XMAP_COUNT.COUNT (R298). -/
abbrev FRY_XMAP_COUNT_COUNT : Field := ⟨0, 20⟩
/-- FRY_PEERS.MASK (R298). -/
abbrev FRY_PEERS_MASK : Field := ⟨0, 16⟩
/-- FRY_XPARAM.S (R298). -/
abbrev FRY_XPARAM_S : Field := ⟨0, 3⟩
/-- FRY_XPARAM.AHEAD (R298). -/
abbrev FRY_XPARAM_AHEAD : Field := ⟨3, 3⟩
/-- FRY_TIMERS.NAKT (R298). -/
abbrev FRY_TIMERS_NAKT : Field := ⟨0, 16⟩
/-- FRY_TIMERS.ECHOINT (R298). -/
abbrev FRY_TIMERS_ECHOINT : Field := ⟨16, 16⟩
/-- FRY_TIMERS.PEERDEAD (R298). -/
abbrev FRY_TIMERS_PEERDEAD : Field := ⟨32, 16⟩
/-- FRY_CH_CFG.EN (R298). -/
abbrev FRY_CH_CFG_EN : Field := ⟨0, 1⟩
/-- FRY_CH_CFG.KIND (R298). -/
abbrev FRY_CH_CFG_KIND : Field := ⟨1, 2⟩
/-- FRY_CH_CFG.PORT (R298). -/
abbrev FRY_CH_CFG_PORT : Field := ⟨3, 1⟩
/-- FRY_CH_CFG.BIND (R298). -/
abbrev FRY_CH_CFG_BIND : Field := ⟨4, 3⟩
/-- FRY_CH_CFG.K (R298). -/
abbrev FRY_CH_CFG_K : Field := ⟨12, 6⟩
/-- FRY_CH_CFG.M (R298). -/
abbrev FRY_CH_CFG_M : Field := ⟨18, 6⟩
/-- FRY_CH_CFG.PSITE (R298). -/
abbrev FRY_CH_CFG_PSITE : Field := ⟨24, 4⟩
/-- FRY_CH_CFG.CHAN (R298). -/
abbrev FRY_CH_CFG_CHAN : Field := ⟨32, 16⟩
/-- FRY_CH_CFG.PPORT (R298). -/
abbrev FRY_CH_CFG_PPORT : Field := ⟨48, 16⟩
/-- FRY_CH_PEERLO.ADDR (R298). -/
abbrev FRY_CH_PEERLO_ADDR : Field := ⟨0, 64⟩
/-- FRY_CH_PEERHI.ADDR (R298). -/
abbrev FRY_CH_PEERHI_ADDR : Field := ⟨0, 64⟩
/-- FRY_CH_RATE.MBPS (R298). -/
abbrev FRY_CH_RATE_MBPS : Field := ⟨0, 20⟩
/-- FRY_CH_KEY.BERTH (R298). -/
abbrev FRY_CH_KEY_BERTH : Field := ⟨0, 6⟩
/-- FRY_CH_KEY.EPOCH (R298). -/
abbrev FRY_CH_KEY_EPOCH : Field := ⟨16, 16⟩
/-- FRY_CH_KEY.FROM (R298). -/
abbrev FRY_CH_KEY_FROM : Field := ⟨32, 32⟩
/-- FRY_CH_CMD.STOP (R298). -/
abbrev FRY_CH_CMD_STOP : Field := ⟨0, 1⟩
/-- FRY_CH_CMD.RESUME (R298). -/
abbrev FRY_CH_CMD_RESUME : Field := ⟨1, 1⟩
/-- FRY_CH_CMD.JOIN (R298). -/
abbrev FRY_CH_CMD_JOIN : Field := ⟨2, 1⟩
/-- FRY_CH_STATUS.STATE (R298). -/
abbrev FRY_CH_STATUS_STATE : Field := ⟨0, 4⟩
/-- FRY_CH_STATUS.WBUSY (R298). -/
abbrev FRY_CH_STATUS_WBUSY : Field := ⟨4, 1⟩
/-- FRY_CH_STATUS.OLDEP (R298). -/
abbrev FRY_CH_STATUS_OLDEP : Field := ⟨5, 1⟩
/-- FRY_CH_STATUS.EPOCH (R298). -/
abbrev FRY_CH_STATUS_EPOCH : Field := ⟨16, 16⟩
/-- FRY_CH_STATUS.STREAM (R298). -/
abbrev FRY_CH_STATUS_STREAM : Field := ⟨32, 32⟩
/-- FRY_CH_ERR.IVWAIT (R298). -/
abbrev FRY_CH_ERR_IVWAIT : Field := ⟨0, 1⟩
/-- FRY_CH_ERR.CTREND (R298). -/
abbrev FRY_CH_ERR_CTREND : Field := ⟨1, 1⟩
/-- FRY_CH_ERR.WINSTALL (R298). -/
abbrev FRY_CH_ERR_WINSTALL : Field := ⟨2, 1⟩
/-- FRY_CH_ERR.DECODE_STALE (R298). -/
abbrev FRY_CH_ERR_DECODE_STALE : Field := ⟨3, 1⟩
/-- FRY_CH_ERR.FAULT (R298). -/
abbrev FRY_CH_ERR_FAULT : Field := ⟨4, 1⟩
/-- FRY_CH_ERR.WLOST (R298). -/
abbrev FRY_CH_ERR_WLOST : Field := ⟨5, 1⟩
/-- FRY_CH_ERR.CMDIGN (R298). -/
abbrev FRY_CH_ERR_CMDIGN : Field := ⟨6, 1⟩
/-- FRY_CH_ERR.BADTAIL (R298). -/
abbrev FRY_CH_ERR_BADTAIL : Field := ⟨7, 1⟩
/-- FRY_CH_RTT.SRTT (R298). -/
abbrev FRY_CH_RTT_SRTT : Field := ⟨0, 32⟩
/-- FRY_CH_RTT.LAST (R298). -/
abbrev FRY_CH_RTT_LAST : Field := ⟨32, 32⟩
/-- FRY_CH_TXRING.BASE (R298). -/
abbrev FRY_CH_TXRING_BASE : Field := ⟨0, 48⟩
/-- FRY_CH_TXRING.LOG2 (R298). -/
abbrev FRY_CH_TXRING_LOG2 : Field := ⟨48, 4⟩
/-- FRY_CH_TXTAIL.TAIL (R298). -/
abbrev FRY_CH_TXTAIL_TAIL : Field := ⟨0, 16⟩
/-- FRY_CH_RXRING.BASE (R298). -/
abbrev FRY_CH_RXRING_BASE : Field := ⟨0, 48⟩
/-- FRY_CH_RXRING.LOG2 (R298). -/
abbrev FRY_CH_RXRING_LOG2 : Field := ⟨48, 4⟩
/-- FRY_CH_RXTAIL.TAIL (R298). -/
abbrev FRY_CH_RXTAIL_TAIL : Field := ⟨0, 16⟩
/-- FRY_CH_CTR.CTR (R298). -/
abbrev FRY_CH_CTR_CTR : Field := ⟨0, 64⟩
/-- FRY_CH_NACKCNT.COUNT (R298). -/
abbrev FRY_CH_NACKCNT_COUNT : Field := ⟨0, 32⟩
/-- FRY_CH_RESENDCNT.COUNT (R298). -/
abbrev FRY_CH_RESENDCNT_COUNT : Field := ⟨0, 32⟩
/-- FRY_CH_REPAIRCNT.COUNT (R298). -/
abbrev FRY_CH_REPAIRCNT_COUNT : Field := ⟨0, 32⟩
/-- FRY_CH_ICVFAIL.COUNT (R298). -/
abbrev FRY_CH_ICVFAIL_COUNT : Field := ⟨0, 32⟩
/-- FRY_CH_LATECNT.COUNT (R298). -/
abbrev FRY_CH_LATECNT_COUNT : Field := ⟨0, 32⟩
/-- FRY_CH_STALECNT.COUNT (R298). -/
abbrev FRY_CH_STALECNT_COUNT : Field := ⟨0, 32⟩
/-- FRY_CH_DUPCNT.COUNT (R298). -/
abbrev FRY_CH_DUPCNT_COUNT : Field := ⟨0, 32⟩
/-- BND_STATUS.NBIND (R324). -/
abbrev BND_STATUS_NBIND : Field := ⟨0, 4⟩
/-- BND_STATUS.NSTEP (R324). -/
abbrev BND_STATUS_NSTEP : Field := ⟨4, 3⟩
/-- BND_STATUS.LOADBUSY (R324). -/
abbrev BND_STATUS_LOADBUSY : Field := ⟨7, 1⟩
/-- BND_STATUS.RBBUSY (R324). -/
abbrev BND_STATUS_RBBUSY : Field := ⟨8, 1⟩
/-- BND_STATUS.WBUSY (R324). -/
abbrev BND_STATUS_WBUSY : Field := ⟨9, 1⟩
/-- BND_CMD.APPLY (R324). -/
abbrev BND_CMD_APPLY : Field := ⟨0, 1⟩
/-- BND_CMD.FORCETURN (R324). -/
abbrev BND_CMD_FORCETURN : Field := ⟨1, 1⟩
/-- BND_CMD.END (R324). -/
abbrev BND_CMD_END : Field := ⟨2, 1⟩
/-- BND_CMD.BIND (R324). -/
abbrev BND_CMD_BIND : Field := ⟨4, 3⟩
/-- BND_ERR.WLOST (R324). -/
abbrev BND_ERR_WLOST : Field := ⟨0, 1⟩
/-- BND_ERR.CMDIGN (R324). -/
abbrev BND_ERR_CMDIGN : Field := ⟨1, 1⟩
/-- BND_ERR.IMGLATE (R324). -/
abbrev BND_ERR_IMGLATE : Field := ⟨2, 1⟩
/-- BND_ERR.RBLATE (R324). -/
abbrev BND_ERR_RBLATE : Field := ⟨3, 1⟩
/-- BND_IMG_ADDR.ADDR (R324). -/
abbrev BND_IMG_ADDR_ADDR : Field := ⟨12, 28⟩
/-- BND_IMG_CTRL.GO (R324). -/
abbrev BND_IMG_CTRL_GO : Field := ⟨0, 1⟩
/-- BND_IMG_CTRL.BIND (R324). -/
abbrev BND_IMG_CTRL_BIND : Field := ⟨1, 3⟩
/-- BND_IMG_STATUS.STATE (R324). -/
abbrev BND_IMG_STATUS_STATE : Field := ⟨0, 3⟩
/-- BND_IMG_STATUS.CODE (R324). -/
abbrev BND_IMG_STATUS_CODE : Field := ⟨8, 8⟩
/-- BND_IMG_STATUS.PROGRESS (R324). -/
abbrev BND_IMG_STATUS_PROGRESS : Field := ⟨16, 32⟩
/-- BND_RB_REQ.FROM (R324). -/
abbrev BND_RB_REQ_FROM : Field := ⟨0, 3⟩
/-- BND_RB_REQ.FROMNONE (R324). -/
abbrev BND_RB_REQ_FROMNONE : Field := ⟨3, 1⟩
/-- BND_RB_REQ.TO (R324). -/
abbrev BND_RB_REQ_TO : Field := ⟨4, 3⟩
/-- BND_RB_REQ.NOW (R324). -/
abbrev BND_RB_REQ_NOW : Field := ⟨7, 1⟩
/-- BND_RB_REQ.GO (R324). -/
abbrev BND_RB_REQ_GO : Field := ⟨8, 1⟩
/-- BND_RB_REQ.SAVE (R324). -/
abbrev BND_RB_REQ_SAVE : Field := ⟨12, 28⟩
/-- BND_RB_STATUS.PHASE (R324). -/
abbrev BND_RB_STATUS_PHASE : Field := ⟨0, 3⟩
/-- BND_RB_STATUS.CODE (R324). -/
abbrev BND_RB_STATUS_CODE : Field := ⟨8, 8⟩
/-- BND_RB_STATUS.ELAPSED (R324). -/
abbrev BND_RB_STATUS_ELAPSED : Field := ⟨16, 32⟩
/-- BND_BLOGHEAD.HEAD (R324). -/
abbrev BND_BLOGHEAD_HEAD : Field := ⟨0, 4⟩
/-- BND_BLOGLOST.COUNT (R324). -/
abbrev BND_BLOGLOST_COUNT : Field := ⟨0, 32⟩
/-- BND_BLOG.OFFSET (R324). -/
abbrev BND_BLOG_OFFSET : Field := ⟨0, 26⟩
/-- BND_BLOG.REQ (R324). -/
abbrev BND_BLOG_REQ : Field := ⟨32, 8⟩
/-- BND_BLOG.KIND (R324). -/
abbrev BND_BLOG_KIND : Field := ⟨40, 4⟩
/-- BND_BLOG.SEQ (R324). -/
abbrev BND_BLOG_SEQ : Field := ⟨48, 16⟩
/-- BND_STATE.STATE (R324). -/
abbrev BND_STATE_STATE : Field := ⟨0, 3⟩
/-- BND_STATE.LEAD (R324). -/
abbrev BND_STATE_LEAD : Field := ⟨3, 2⟩
/-- BND_STATE.LEADVALID (R324). -/
abbrev BND_STATE_LEADVALID : Field := ⟨5, 1⟩
/-- BND_JOB.BID (R324). -/
abbrev BND_JOB_BID : Field := ⟨0, 16⟩
/-- BND_JOB.FLEVEL (R324). -/
abbrev BND_JOB_FLEVEL : Field := ⟨16, 16⟩
/-- BND_STEP.STEP (R324). -/
abbrev BND_STEP_STEP : Field := ⟨0, 48⟩
/-- BND_COMMIT.COMMIT (R324). -/
abbrev BND_COMMIT_COMMIT : Field := ⟨0, 48⟩
/-- BND_CROSS.CROSS (R324). -/
abbrev BND_CROSS_CROSS : Field := ⟨0, 32⟩
/-- BND_CLMASK.CLUSTERS (R324). -/
abbrev BND_CLMASK_CLUSTERS : Field := ⟨0, 32⟩
/-- BND_UNITS.UNITS (R324). -/
abbrev BND_UNITS_UNITS : Field := ⟨0, 32⟩
/-- BND_UNITS.FPORT (R324). -/
abbrev BND_UNITS_FPORT : Field := ⟨32, 24⟩
/-- BND_CHMASK.CHANNELS (R324). -/
abbrev BND_CHMASK_CHANNELS : Field := ⟨0, 64⟩
/-- BND_ARMED.COUNT (R324). -/
abbrev BND_ARMED_COUNT : Field := ⟨0, 8⟩
/-- BND_ARMED.APPLYSTEP (R324). -/
abbrev BND_ARMED_APPLYSTEP : Field := ⟨16, 48⟩
/-- SEC_STATUS.WBUSY (R367). -/
abbrev SEC_STATUS_WBUSY : Field := ⟨0, 1⟩
/-- SEC_STATUS.OWNED (R367). -/
abbrev SEC_STATUS_OWNED : Field := ⟨1, 1⟩
/-- SEC_STATUS.KEK (R367). -/
abbrev SEC_STATUS_KEK : Field := ⟨2, 1⟩
/-- SEC_STATUS.REQSIG (R367). -/
abbrev SEC_STATUS_REQSIG : Field := ⟨3, 1⟩
/-- SEC_STATUS.DEBUG (R367). -/
abbrev SEC_STATUS_DEBUG : Field := ⟨4, 1⟩
/-- SEC_STATUS.RNGOK (R367). -/
abbrev SEC_STATUS_RNGOK : Field := ⟨5, 1⟩
/-- SEC_ERR.WLOST (R367). -/
abbrev SEC_ERR_WLOST : Field := ⟨0, 1⟩
/-- SEC_ERR.ARBREF (R367). -/
abbrev SEC_ERR_ARBREF : Field := ⟨1, 1⟩
/-- SEC_ERR.ARBMIR (R367). -/
abbrev SEC_ERR_ARBMIR : Field := ⟨2, 1⟩
/-- SEC_ERR.UNWRAP (R367). -/
abbrev SEC_ERR_UNWRAP : Field := ⟨3, 1⟩
/-- SEC_ERR.BUSY (R367). -/
abbrev SEC_ERR_BUSY : Field := ⟨4, 1⟩
/-- SEC_ERR.BERTHUSE (R367). -/
abbrev SEC_ERR_BERTHUSE : Field := ⟨5, 1⟩
/-- SEC_ERR.OWNREF (R367). -/
abbrev SEC_ERR_OWNREF : Field := ⟨6, 1⟩
/-- SEC_ERR.RNGFAIL (R367). -/
abbrev SEC_ERR_RNGFAIL : Field := ⟨7, 1⟩
/-- SEC_BOOT.SLOT (R367). -/
abbrev SEC_BOOT_SLOT : Field := ⟨0, 2⟩
/-- SEC_BOOT.OUTCOME (R367). -/
abbrev SEC_BOOT_OUTCOME : Field := ⟨2, 3⟩
/-- SEC_BOOT.AOUT (R367). -/
abbrev SEC_BOOT_AOUT : Field := ⟨8, 3⟩
/-- SEC_BOOT.BOUT (R367). -/
abbrev SEC_BOOT_BOUT : Field := ⟨12, 3⟩
/-- SEC_BOOT.SVN (R367). -/
abbrev SEC_BOOT_SVN : Field := ⟨16, 8⟩
/-- SEC_BOOT.LEADE (R367). -/
abbrev SEC_BOOT_LEADE : Field := ⟨24, 1⟩
/-- SEC_ARB.ARB (R367). -/
abbrev SEC_ARB_ARB : Field := ⟨0, 8⟩
/-- SEC_ARB.MIRROR (R367). -/
abbrev SEC_ARB_MIRROR : Field := ⟨8, 8⟩
/-- SEC_ARB.LIFE (R367). -/
abbrev SEC_ARB_LIFE : Field := ⟨16, 4⟩
/-- SEC_ARB_CMD.TARGET (R367). -/
abbrev SEC_ARB_CMD_TARGET : Field := ⟨0, 8⟩
/-- SEC_OWN_CMD.OP (R367). -/
abbrev SEC_OWN_CMD_OP : Field := ⟨0, 2⟩
/-- SEC_OWN_CMD.ADDR (R367). -/
abbrev SEC_OWN_CMD_ADDR : Field := ⟨2, 40⟩
/-- SEC_OWN_CMD.OUT (R367). -/
abbrev SEC_OWN_CMD_OUT : Field := ⟨42, 22⟩
/-- SEC_BERTH_CMD.OP (R367). -/
abbrev SEC_BERTH_CMD_OP : Field := ⟨0, 2⟩
/-- SEC_BERTH_CMD.BERTH (R367). -/
abbrev SEC_BERTH_CMD_BERTH : Field := ⟨2, 6⟩
/-- SEC_BERTH_CMD.ADDR (R367). -/
abbrev SEC_BERTH_CMD_ADDR : Field := ⟨8, 40⟩
/-- SEC_CQ_BASE.BASE (R367). -/
abbrev SEC_CQ_BASE_BASE : Field := ⟨5, 35⟩
/-- SEC_CQ_TAIL.TAIL (R367). -/
abbrev SEC_CQ_TAIL_TAIL : Field := ⟨0, 5⟩
/-- SEC_CQ_HEAD.HEAD (R367). -/
abbrev SEC_CQ_HEAD_HEAD : Field := ⟨0, 5⟩
/-- SEC_GMAC_STATUS.FAILED (R367). -/
abbrev SEC_GMAC_STATUS_FAILED : Field := ⟨0, 2⟩
/-- SEC_GMAC_STATUS.TESTED (R367). -/
abbrev SEC_GMAC_STATUS_TESTED : Field := ⟨2, 2⟩
/-- SEC_RNG.VALUE (R367). -/
abbrev SEC_RNG_VALUE : Field := ⟨0, 64⟩
/-- SEC_BERTH_META.STATE (R367). -/
abbrev SEC_BERTH_META_STATE : Field := ⟨0, 2⟩
/-- SEC_BERTH_META.USE (R367). -/
abbrev SEC_BERTH_META_USE : Field := ⟨2, 4⟩
/-- SEC_BERTH_META.HOLDERS (R367). -/
abbrev SEC_BERTH_META_HOLDERS : Field := ⟨8, 6⟩
/-- SEC_BERTH_META.KSN (R367). -/
abbrev SEC_BERTH_META_KSN : Field := ⟨32, 32⟩
/-- JNL_STATUS.STATE (R387). -/
abbrev JNL_STATUS_STATE : Field := ⟨0, 3⟩
/-- JNL_STATUS.LIVEREG (R387). -/
abbrev JNL_STATUS_LIVEREG : Field := ⟨3, 1⟩
/-- JNL_STATUS.WBUSY (R387). -/
abbrev JNL_STATUS_WBUSY : Field := ⟨4, 1⟩
/-- JNL_STATUS.IDLEOK (R387). -/
abbrev JNL_STATUS_IDLEOK : Field := ⟨5, 1⟩
/-- JNL_STATUS.FILL (R387). -/
abbrev JNL_STATUS_FILL : Field := ⟨8, 24⟩
/-- JNL_ERR.WLOST (R387). -/
abbrev JNL_ERR_WLOST : Field := ⟨0, 1⟩
/-- JNL_ERR.CRCSKIP (R387). -/
abbrev JNL_ERR_CRCSKIP : Field := ⟨1, 1⟩
/-- JNL_ERR.PROGRETRY (R387). -/
abbrev JNL_ERR_PROGRETRY : Field := ⟨2, 1⟩
/-- JNL_ERR.FLASH (R387). -/
abbrev JNL_ERR_FLASH : Field := ⟨3, 1⟩
/-- JNL_ERR.FULL (R387). -/
abbrev JNL_ERR_FULL : Field := ⟨4, 1⟩
/-- JNL_ERR.FWREF (R387). -/
abbrev JNL_ERR_FWREF : Field := ⟨5, 1⟩
/-- JNL_ERR.FWDONE (R387). -/
abbrev JNL_ERR_FWDONE : Field := ⟨6, 1⟩
/-- JNL_BRINGUP.STAGE (R387). -/
abbrev JNL_BRINGUP_STAGE : Field := ⟨0, 4⟩
/-- JNL_BRINGUP.CAUSE (R387). -/
abbrev JNL_BRINGUP_CAUSE : Field := ⟨8, 4⟩
/-- JNL_BRINGUP.ELAPSED (R387). -/
abbrev JNL_BRINGUP_ELAPSED : Field := ⟨16, 32⟩
/-- JNL_SEQ.SEQ (R387). -/
abbrev JNL_SEQ_SEQ : Field := ⟨0, 64⟩
/-- JNL_ACKSEQ.SEQ (R387). -/
abbrev JNL_ACKSEQ_SEQ : Field := ⟨0, 64⟩
/-- JNL_CGEN.CGEN (R387). -/
abbrev JNL_CGEN_CGEN : Field := ⟨0, 32⟩
/-- JNL_APPEND.ADDR (R387). -/
abbrev JNL_APPEND_ADDR : Field := ⟨5, 35⟩
/-- JNL_APPEND.IRQ (R387). -/
abbrev JNL_APPEND_IRQ : Field := ⟨40, 1⟩
/-- JNL_CMD.COMPACT (R387). -/
abbrev JNL_CMD_COMPACT : Field := ⟨0, 1⟩
/-- JNL_HLW.LEN (R387). -/
abbrev JNL_HLW_LEN : Field := ⟨0, 26⟩
/-- JNL_HLW.GO (R387). -/
abbrev JNL_HLW_GO : Field := ⟨63, 1⟩
/-- JNL_FW_SRC.ADDR (R387). -/
abbrev JNL_FW_SRC_ADDR : Field := ⟨6, 34⟩
/-- JNL_FW_CMD.OP (R387). -/
abbrev JNL_FW_CMD_OP : Field := ⟨0, 2⟩
/-- JNL_FW_CMD.SLOT (R387). -/
abbrev JNL_FW_CMD_SLOT : Field := ⟨2, 1⟩
/-- JNL_FW_CMD.LEN (R387). -/
abbrev JNL_FW_CMD_LEN : Field := ⟨32, 26⟩
/-- GLB_ID.DEVID (R401). -/
abbrev GLB_ID_DEVID : Field := ⟨0, 16⟩
/-- GLB_ID.REV (R401). -/
abbrev GLB_ID_REV : Field := ⟨16, 4⟩
/-- GLB_ID.VARIANT (R401). -/
abbrev GLB_ID_VARIANT : Field := ⟨20, 1⟩
/-- GLB_SERIAL.SERIAL (R401). -/
abbrev GLB_SERIAL_SERIAL : Field := ⟨0, 64⟩
/-- GLB_STATE.STATE (R401). -/
abbrev GLB_STATE_STATE : Field := ⟨0, 4⟩
/-- GLB_STATE.LEADE (R401). -/
abbrev GLB_STATE_LEADE : Field := ⟨4, 1⟩
/-- GLB_STATE.FAULTN (R401). -/
abbrev GLB_STATE_FAULTN : Field := ⟨5, 1⟩
/-- GLB_STATE.CAUSE (R401). -/
abbrev GLB_STATE_CAUSE : Field := ⟨8, 4⟩
/-- GLB_EVT.STATE (R401). -/
abbrev GLB_EVT_STATE : Field := ⟨0, 1⟩
/-- GLB_EVT.ERROR (R401). -/
abbrev GLB_EVT_ERROR : Field := ⟨1, 1⟩
/-- GLB_EVT.BIND (R401). -/
abbrev GLB_EVT_BIND : Field := ⟨2, 1⟩
/-- GLB_EVT.TEL (R401). -/
abbrev GLB_EVT_TEL : Field := ⟨3, 1⟩
/-- GLB_FLEVEL.FLEVEL (R401). -/
abbrev GLB_FLEVEL_FLEVEL : Field := ⟨0, 16⟩
/-- GLB_FLEVEL.SVN (R401). -/
abbrev GLB_FLEVEL_SVN : Field := ⟨16, 8⟩
/-- HCI_STATUS.WBUSY (R402). -/
abbrev HCI_STATUS_WBUSY : Field := ⟨0, 1⟩
/-- HCI_STATUS.QEN (R402). -/
abbrev HCI_STATUS_QEN : Field := ⟨16, 17⟩
/-- HCI_ERR.WLOST (R402). -/
abbrev HCI_ERR_WLOST : Field := ⟨0, 1⟩
/-- HCI_ERR.BADDB (R402). -/
abbrev HCI_ERR_BADDB : Field := ⟨1, 1⟩
/-- HCI_ERR.DMAERR (R402). -/
abbrev HCI_ERR_DMAERR : Field := ⟨2, 1⟩
/-- HCI_ERR.QCFG (R402). -/
abbrev HCI_ERR_QCFG : Field := ⟨3, 1⟩
/-- HCI_FWDB_SQ.INDEX (R402). -/
abbrev HCI_FWDB_SQ_INDEX : Field := ⟨0, 8⟩
/-- HCI_FWDB_CQ.INDEX (R402). -/
abbrev HCI_FWDB_CQ_INDEX : Field := ⟨0, 8⟩
/-- HCI_SQ_BASE.ADDR (R402). -/
abbrev HCI_SQ_BASE_ADDR : Field := ⟨12, 52⟩
/-- HCI_CQ_BASE.ADDR (R402). -/
abbrev HCI_CQ_BASE_ADDR : Field := ⟨12, 52⟩
/-- HCI_QCTRL.EN (R402). -/
abbrev HCI_QCTRL_EN : Field := ⟨0, 1⟩
/-- HCI_QCTRL.IRQEN (R402). -/
abbrev HCI_QCTRL_IRQEN : Field := ⟨1, 1⟩
/-- HCI_QCTRL.VEC (R402). -/
abbrev HCI_QCTRL_VEC : Field := ⟨8, 4⟩
/-- HCI_QSTAT.SQHEAD (R402). -/
abbrev HCI_QSTAT_SQHEAD : Field := ⟨0, 8⟩
/-- HCI_QSTAT.SQTAIL (R402). -/
abbrev HCI_QSTAT_SQTAIL : Field := ⟨8, 8⟩
/-- HCI_QSTAT.CQTAIL (R402). -/
abbrev HCI_QSTAT_CQTAIL : Field := ⟨16, 8⟩
/-- HCI_QSTAT.STATE (R402). -/
abbrev HCI_QSTAT_STATE : Field := ⟨24, 2⟩
/-- CNT_CYCLE.CYCLES (R407). -/
abbrev CNT_CYCLE_CYCLES : Field := ⟨0, 64⟩
/-- CNT_OVF.CYC (R407). -/
abbrev CNT_OVF_CYC : Field := ⟨0, 1⟩
/-- CNT_OVF.PROG (R407). -/
abbrev CNT_OVF_PROG : Field := ⟨1, 8⟩
/-- CNT_CMD.CLEAR (R407). -/
abbrev CNT_CMD_CLEAR : Field := ⟨0, 1⟩
/-- CNT_SEL.EVENT (R407). -/
abbrev CNT_SEL_EVENT : Field := ⟨0, 8⟩
/-- CNT_SEL.EN (R407). -/
abbrev CNT_SEL_EN : Field := ⟨8, 1⟩
/-- CNT_SEL.LTAGEN (R407). -/
abbrev CNT_SEL_LTAGEN : Field := ⟨9, 1⟩
/-- CNT_SEL.LTAG (R407). -/
abbrev CNT_SEL_LTAG : Field := ⟨10, 8⟩
/-- CNT_SEL.CLSEN (R407). -/
abbrev CNT_SEL_CLSEN : Field := ⟨18, 1⟩
/-- CNT_SEL.CLS (R407). -/
abbrev CNT_SEL_CLS : Field := ⟨19, 2⟩
/-- CNT_SEL.CHANEN (R407). -/
abbrev CNT_SEL_CHANEN : Field := ⟨21, 1⟩
/-- CNT_SEL.CHAN (R407). -/
abbrev CNT_SEL_CHAN : Field := ⟨22, 6⟩
/-- CNT_VAL.COUNT (R407). -/
abbrev CNT_VAL_COUNT : Field := ⟨0, 48⟩
/-- SMP_CTRL.EN (R412). -/
abbrev SMP_CTRL_EN : Field := ⟨0, 1⟩
/-- SMP_CTRL.CLASS (R412). -/
abbrev SMP_CTRL_CLASS : Field := ⟨1, 4⟩
/-- SMP_CTRL.N (R412). -/
abbrev SMP_CTRL_N : Field := ⟨8, 24⟩
/-- SMP_BASE.BASE (R412). -/
abbrev SMP_BASE_BASE : Field := ⟨5, 35⟩
/-- SMP_HEAD.HEAD (R412). -/
abbrev SMP_HEAD_HEAD : Field := ⟨0, 12⟩
/-- SMP_HEAD.WBUSY (R412). -/
abbrev SMP_HEAD_WBUSY : Field := ⟨16, 1⟩
/-- SMP_READ.READ (R412). -/
abbrev SMP_READ_READ : Field := ⟨0, 12⟩
/-- SMP_LOST.COUNT (R412). -/
abbrev SMP_LOST_COUNT : Field := ⟨0, 32⟩
/-- SMP_ERR.WLOST (R412). -/
abbrev SMP_ERR_WLOST : Field := ⟨0, 1⟩
/-- TEL_STATUS.WBUSY (R420). -/
abbrev TEL_STATUS_WBUSY : Field := ⟨0, 1⟩
/-- TEL_STATUS.LOOP (R420). -/
abbrev TEL_STATUS_LOOP : Field := ⟨1, 1⟩
/-- TEL_ERR.WLOST (R420). -/
abbrev TEL_ERR_WLOST : Field := ⟨0, 1⟩
/-- TEL_PCAP.PCAP (R420). -/
abbrev TEL_PCAP_PCAP : Field := ⟨0, 11⟩
/-- TEL_THERM.TDIE (R420). -/
abbrev TEL_THERM_TDIE : Field := ⟨0, 8⟩
/-- TEL_THERM.PHYST (R420). -/
abbrev TEL_THERM_PHYST : Field := ⟨8, 8⟩
/-- TEL_THERM.TDRAM (R420). -/
abbrev TEL_THERM_TDRAM : Field := ⟨16, 8⟩
/-- TEL_THERM.DROOPTH (R420). -/
abbrev TEL_THERM_DROOPTH : Field := ⟨24, 8⟩
/-- TEL_FCAP.CAP0 (R420). -/
abbrev TEL_FCAP_CAP0 : Field := ⟨0, 10⟩
/-- TEL_FCAP.CAP1 (R420). -/
abbrev TEL_FCAP_CAP1 : Field := ⟨16, 10⟩
/-- TEL_FCAP.CAP2 (R420). -/
abbrev TEL_FCAP_CAP2 : Field := ⟨32, 10⟩
/-- TEL_FCAP.CAP3 (R420). -/
abbrev TEL_FCAP_CAP3 : Field := ⟨48, 10⟩
/-- TEL_POWER.PKG (R420). -/
abbrev TEL_POWER_PKG : Field := ⟨0, 16⟩
/-- TEL_VCORE.MV (R420). -/
abbrev TEL_VCORE_MV : Field := ⟨0, 11⟩
/-- TEL_ALERT.PCAPACT (R420). -/
abbrev TEL_ALERT_PCAPACT : Field := ⟨0, 1⟩
/-- TEL_ALERT.TDIEHIT (R420). -/
abbrev TEL_ALERT_TDIEHIT : Field := ⟨1, 1⟩
/-- TEL_ALERT.TDRAMHIT (R420). -/
abbrev TEL_ALERT_TDRAMHIT : Field := ⟨2, 1⟩
/-- TEL_ALERT.PMBERR (R420). -/
abbrev TEL_ALERT_PMBERR : Field := ⟨3, 1⟩
/-- TEL_ALERT.AVSERR (R420). -/
abbrev TEL_ALERT_AVSERR : Field := ⟨4, 1⟩
/-- TEL_ALERTEN.EN (R420). -/
abbrev TEL_ALERTEN_EN : Field := ⟨0, 5⟩
/-- TEL_DROOPCNT.COUNT (R420). -/
abbrev TEL_DROOPCNT_COUNT : Field := ⟨0, 32⟩
/-- TEL_THROTCNT.COUNT (R420). -/
abbrev TEL_THROTCNT_COUNT : Field := ⟨0, 32⟩
/-- TEL_TEMP.DEGC (R420). -/
abbrev TEL_TEMP_DEGC : Field := ⟨0, 8⟩
/-- TEL_RAIL.MV (R420). -/
abbrev TEL_RAIL_MV : Field := ⟨0, 16⟩
/-- TEL_RAIL.DA (R420). -/
abbrev TEL_RAIL_DA : Field := ⟨16, 32⟩
/-- CLK_STATUS.WBUSY (R443). -/
abbrev CLK_STATUS_WBUSY : Field := ⟨0, 1⟩
/-- CLK_STATUS.PILOT (R443). -/
abbrev CLK_STATUS_PILOT : Field := ⟨1, 1⟩
/-- CLK_ERR.WLOST (R443). -/
abbrev CLK_ERR_WLOST : Field := ⟨0, 1⟩
/-- CLK_ERR.GATEBUSY (R443). -/
abbrev CLK_ERR_GATEBUSY : Field := ⟨1, 1⟩
/-- CLK_ERR.GATEREF (R443). -/
abbrev CLK_ERR_GATEREF : Field := ⟨2, 1⟩
/-- CLK_ERR.REFLOSS (R443). -/
abbrev CLK_ERR_REFLOSS : Field := ⟨3, 1⟩
/-- CLK_ERR.UNLOCK (R443). -/
abbrev CLK_ERR_UNLOCK : Field := ⟨4, 1⟩
/-- CLK_GATELO.GATE (R443). -/
abbrev CLK_GATELO_GATE : Field := ⟨0, 64⟩
/-- CLK_GATEHI.GATE (R443). -/
abbrev CLK_GATEHI_GATE : Field := ⟨0, 36⟩
/-- CLK_REF.FAB (R443). -/
abbrev CLK_REF_FAB : Field := ⟨0, 6⟩
/-- CLK_REF.XP (R443). -/
abbrev CLK_REF_XP : Field := ⟨6, 1⟩
/-- CLK_REF.SYS (R443). -/
abbrev CLK_REF_SYS : Field := ⟨7, 1⟩
/-- CLK_REF.PCIE (R443). -/
abbrev CLK_REF_PCIE : Field := ⟨8, 1⟩
/-- CLK_REF.AONE (R443). -/
abbrev CLK_REF_AONE : Field := ⟨9, 1⟩
/-- CLK_REF.AONW (R443). -/
abbrev CLK_REF_AONW : Field := ⟨10, 1⟩
/-- CLK_LOCK.CLUSTER (R443). -/
abbrev CLK_LOCK_CLUSTER : Field := ⟨0, 32⟩
/-- CLK_LOCK.HOST (R443). -/
abbrev CLK_LOCK_HOST : Field := ⟨32, 4⟩
/-- CLK_LOCK.SYS (R443). -/
abbrev CLK_LOCK_SYS : Field := ⟨36, 1⟩
/-- CLK_CLFREQ.MHZ (R443). -/
abbrev CLK_CLFREQ_MHZ : Field := ⟨0, 10⟩
/-- CLK_CLSTAT.EFF (R443). -/
abbrev CLK_CLSTAT_EFF : Field := ⟨0, 10⟩
/-- CLK_CLSTAT.CAPPED (R443). -/
abbrev CLK_CLSTAT_CAPPED : Field := ⟨16, 1⟩
/-- CLK_CLSTAT.STRETCH (R443). -/
abbrev CLK_CLSTAT_STRETCH : Field := ⟨17, 1⟩
/-- CLK_CLSTAT.GATED (R443). -/
abbrev CLK_CLSTAT_GATED : Field := ⟨18, 1⟩
/-- CLK_CLSTAT.VWAIT (R443). -/
abbrev CLK_CLSTAT_VWAIT : Field := ⟨19, 1⟩
/-- CLK_VF.MHZ (R443). -/
abbrev CLK_VF_MHZ : Field := ⟨0, 10⟩
/-- CLK_VF.MV (R443). -/
abbrev CLK_VF_MV : Field := ⟨16, 10⟩

end Fld

end Sys2Proof
end

