-- ==== Sys2Proof/Machine/Bits.lean ====
section
/-!
DEFINITION. Sys2Proof/Machine/Bits.lean: bit fields of words, little-endian byte order (R41), sign
extension and saturating counters.
-/

namespace Sys2Proof.Machine

/-- The low `w` bits set, moved up by `lo`. -/
def fieldMask (f : Field) : Word := BitVec.ofNat 64 ((2 ^ f.w - 1) * 2 ^ f.lo)

/-- The value of a field. -/
def getF (f : Field) (v : Word) : Nat := v.toNat / 2 ^ f.lo % 2 ^ f.w

/-- A word with one field replaced (the value cut to the field's width). -/
def putF (f : Field) (v : Word) (x : Nat) : Word :=
  (v &&& ~~~ fieldMask f) ||| BitVec.ofNat 64 (x % 2 ^ f.w * 2 ^ f.lo)

/-- A one-bit field read as a flag. -/
def flagF (f : Field) (v : Word) : Bool := getF f v == 1

/-- Bits `hi` down to `lo` of a number. -/
def bits (hi lo : Nat) (x : Nat) : Nat := x / 2 ^ lo % 2 ^ (hi + 1 - lo)

/-- A number with the bits `hi` down to `lo` replaced. -/
def putBits (hi lo x v : Nat) : Nat := x - bits hi lo x * 2 ^ lo + v % 2 ^ (hi + 1 - lo) * 2 ^ lo

/-- One bit of a number. -/
def bit (i : Nat) (x : Nat) : Bool := x.testBit i

/-- A number from bytes, the first byte least significant (R41). -/
def leNat : List Byte → Nat
  | [] => 0
  | b :: r => b.toNat + 256 * leNat r

/-- The `n` bytes of a number, the least significant first (R41). -/
def leBytes : Nat → Nat → List Byte
  | 0, _ => []
  | n + 1, x => BitVec.ofNat 8 x :: leBytes n (x / 256)

/-- Two's complement value of a field of `w` bits. -/
def signedOf (w x : Nat) : Int :=
  if x % 2 ^ w < 2 ^ (w - 1) then (x % 2 ^ w : Nat) else (x % 2 ^ w : Nat) - (2 ^ w : Nat)

/-- Two's complement code of a value in `w` bits. -/
def codeOf (w : Nat) (x : Int) : Nat := (x % (2 ^ w : Nat)).toNat

/-- A count that stops at its largest value. -/
def satAdd (w x n : Nat) : Nat := min (x + n) (2 ^ w - 1)

/-- Cut a list into pieces of `n` (the last may be shorter); `fuel` bounds the pieces. -/
def chunks {α : Type} (n : Nat) : Nat → List α → List (List α)
  | 0, _ => []
  | _ + 1, [] => []
  | fuel + 1, l => l.take n :: chunks n fuel (l.drop n)

/-- The number of one bits below bit `n`. -/
def popcount : Nat → Nat → Nat
  | 0, _ => 0
  | n + 1, x => (if x.testBit n then 1 else 0) + popcount n x

/-- The least index below `n` that satisfies a test, counting up from `i`. -/
def firstFrom (p : Nat → Bool) : Nat → Nat → Option Nat
  | 0, _ => none
  | n + 1, i => if p i then some i else firstFrom p n (i + 1)

end Sys2Proof.Machine
end

