-- ==== Sys2Proof/Machine/Coding.lean ====
section
/-!
DEFINITION. Sys2Proof/Machine/Coding.lean: the sector code (R201), the two block codes (R209, R210), and
the erasure arithmetic they share with the Ferry Engine.
-/

namespace Sys2Proof.Machine

/-- Multiplication by x in the field of R201. -/
def gfX (a : Nat) : Nat := if a < 128 then 2 * a else (2 * a) ^^^ 0x11D

/-- Product in the field, over the low `n` bits of the first factor. -/
def gfMulN : Nat → Nat → Nat → Nat
  | 0, _, _ => 0
  | n + 1, a, b => (if a % 2 = 1 then b else 0) ^^^ gfMulN n (a / 2) (gfX b)

/-- Product in the field with 256 elements. -/
def gfMul (a b : Nat) : Nat := gfMulN 8 a b

/-- A power of α. -/
def gfAlpha : Nat → Nat
  | 0 => 1
  | n + 1 => gfX (gfAlpha n)

/-- Inverse: the 254th power. -/
def gfInv (a : Nat) : Nat :=
  let a2 := gfMul a a
  let a4 := gfMul a2 a2
  let a8 := gfMul a4 a4
  let a16 := gfMul a8 a8
  let a32 := gfMul a16 a16
  let a64 := gfMul a32 a32
  let a128 := gfMul a64 a64
  gfMul a128 (gfMul a64 (gfMul a32 (gfMul a16 (gfMul a8 (gfMul a4 a2)))))

/-- Syndrome `j` of an error pattern: symbol `i` of the codeword is the coefficient of x^(71 - i). -/
def syndrome (e : List (Nat × Byte)) (j : Nat) : Nat :=
  e.foldl (fun a p => a ^^^ gfMul p.2.toNat (gfAlpha ((71 - p.1) * j % 255))) 0

/-- What the decoder finds in a sector (R203). -/
inductive CodeRes where
  | intact
  | one (sym : Nat) (x : Byte)
  | bad
deriving DecidableEq, Repr

/-- The decoder of R201: no error, one symbol's error, or more. -/
def rsDecode (e : List (Nat × Byte)) : CodeRes :=
  if e.isEmpty then .intact else
  let s0 := syndrome e 0
  let s1 := syndrome e 1
  let s2 := syndrome e 2
  let s3 := syndrome e 3
  if s0 = 0 && s1 = 0 && s2 = 0 && s3 = 0 then .intact
  else match firstFrom (fun i => s0 != 0 && gfMul s0 (gfAlpha (71 - i)) == s1
      && gfMul s0 (gfAlpha ((71 - i) * 2 % 255)) == s2
      && gfMul s0 (gfAlpha ((71 - i) * 3 % 255)) == s3) 72 0 with
    | some i => .one i (BitVec.ofNat 8 s0)
    | none => .bad

/-- An error pattern with one symbol changed further; a symbol whose changes cancel leaves it. -/
def errAdd : List (Nat × Byte) → Nat → Byte → List (Nat × Byte)
  | [], i, x => if x = 0 then [] else [(i, x)]
  | (k, y) :: r, i, x =>
    if i = k then (if y ^^^ x = 0 then r else (k, y ^^^ x) :: r)
    else if i < k then (if x = 0 then (k, y) :: r else (i, x) :: (k, y) :: r)
    else (k, y) :: errAdd r i x

/-- The change a pattern makes to a symbol. -/
def errAt (e : List (Nat × Byte)) (i : Nat) : Byte :=
  match e.find? (fun p => p.1 == i) with
  | some p => p.2
  | none => 0

/-- A bit stream: its bits as a number, the first bit least significant, and its length. -/
structure Stream where
  val : Nat
  len : Nat
deriving DecidableEq, Repr

/-- The stream with a field of `n` bits added. -/
def Stream.push (s : Stream) (n x : Nat) : Stream := ⟨s.val + x % 2 ^ n * 2 ^ s.len, s.len + n⟩

/-- The `n` bits at a position. -/
def Stream.at (s : Stream) (pos n : Nat) : Nat := s.val / 2 ^ pos % 2 ^ n

/-- The bits a number needs. -/
def bitLen (x : Nat) : Nat := if x = 0 then 0 else Nat.log2 x + 1

/-- The fixed code of a list of words, in groups of 16 (R209). -/
def fixedCode (words : List Nat) : Stream :=
  (chunks 16 words.length words).foldl (fun s g =>
    let b := g.foldl (fun m w => max m (bitLen w)) 0
    g.foldl (fun t w => t.push b w) (s.push 6 b)) ⟨0, 0⟩

/-- `n` words of `b` bits from a position. -/
def takeWords (s : Stream) (b : Nat) : Nat → Nat → List Nat
  | 0, _ => []
  | n + 1, pos => s.at pos b :: takeWords s b n (pos + b)

/-- Groups of the fixed code from a position: the words, or none where a width or the stream's end
breaks the code (R213). -/
def fixedDecode (s : Stream) (width : Nat) : Nat → Nat → Option (List Nat)
  | 0, _ => some []
  | n + 1, pos =>
    let b := s.at pos 6
    if pos + 6 > s.len || b > width || pos + 6 + 16 * b > s.len then none
    else (fixedDecode s width n (pos + 6 + 16 * b)).map (takeWords s b 16 (pos + 6) ++ ·)

/-- The code length of a byte value in a decode table (R210). -/
def tabLen (t : BitVec 1024) (i : Nat) : Nat := t.toNat / 2 ^ (4 * i) % 16

/-- The values of one length, in increasing order. -/
def tabVals (t : BitVec 1024) (l : Nat) : List Nat := (List.range 256).filter fun i => tabLen t i == l

/-- The canonical codes of lengths from `l` on: value, length and code; `c` is the next code. -/
def tabCodesFrom (t : BitVec 1024) : Nat → Nat → Nat → List (Nat × Nat × Nat)
  | 0, _, _ => []
  | n + 1, l, c =>
    let v := tabVals t l
    v.zipIdx.map (fun p => (p.1, l, c + p.2)) ++ tabCodesFrom t n (l + 1) (2 * (c + v.length))

/-- The codes of a table (R210). -/
def tabCodes (t : BitVec 1024) : List (Nat × Nat × Nat) := tabCodesFrom t 15 1 0

/-- Whether a table may be loaded (R210). -/
def tabValid (t : BitVec 1024) : Bool :=
  let ls := ((List.range 256).map (tabLen t)).filter (· != 0)
  decide (2 ≤ ls.length) && decide ((ls.map fun l => 2 ^ (15 - l)).sum ≤ 2 ^ 15)

/-- The `n` bits of a code, the most significant first, added to a stream. -/
def pushMsb (s : Stream) (c : Nat) : Nat → Stream
  | 0 => s
  | n + 1 => pushMsb (s.push 1 (c / 2 ^ n % 2)) c n

/-- The table code of bytes; none where a byte has no code. -/
def tableCode (t : BitVec 1024) (bytes : List Byte) : Option Stream :=
  let codes := tabCodes t
  bytes.foldlM (fun s b =>
    (codes.find? fun p => p.1 == b.toNat).map fun p => pushMsb s p.2.2 p.2.1) (⟨0, 0⟩ : Stream)

/-- One coded value from a position: the value and the position after it. -/
def oneCode (codes : List (Nat × Nat × Nat)) (s : Stream) : Nat → Nat → Nat → Nat → Option (Nat × Nat)
  | 0, _, _, _ => none
  | n + 1, pos, l, c =>
    if pos ≥ s.len then none else
    let c' := 2 * c + s.at pos 1
    match codes.find? (fun p => p.2.1 == l + 1 && p.2.2 == c') with
    | some p => some (p.1, pos + 1)
    | none => oneCode codes s n (pos + 1) (l + 1) c'

/-- `n` bytes of a table-coded stream from a position. -/
def tableDecode (codes : List (Nat × Nat × Nat)) (s : Stream) : Nat → Nat → Option (List Byte)
  | 0, _ => some []
  | n + 1, pos =>
    match oneCode codes s 15 pos 0 0 with
    | none => none
    | some (v, pos') => (tableDecode codes s n pos').map (BitVec.ofNat 8 v :: ·)

/-- Bytes taken as words of `w` bytes. -/
def toWords (w : Nat) (l : List Byte) : List Nat := (chunks w l.length l).map leNat

/-- Words as bytes. -/
def ofWords (w : Nat) (l : List Nat) : List Byte := l.flatMap (leBytes w)

/-- Byte-wise exclusive or. -/
def xorBytes (a b : List Byte) : List Byte := List.zipWith (· ^^^ ·) a b

/-- Table of CRC-32C by polynomial 0x1EDC6F41, reflected: one byte's eight steps. -/
def crcByte : Nat → Nat → Nat
  | 0, c => c
  | n + 1, c => crcByte n (if c % 2 = 1 then (c / 2) ^^^ 0x82F63B78 else c / 2)

/-- CRC-32C of bytes. -/
def crc32c (l : List Byte) : Nat :=
  (l.foldl (fun c b => crcByte 8 (c ^^^ b.toNat)) 0xFFFFFFFF) ^^^ 0xFFFFFFFF

end Sys2Proof.Machine
end

