-- ==== Sys2Proof/Config.lean ====
section
/-!
DEFINITION. Sys2Proof/Config.lean: what the spec leaves to the device: free values, what
is fused or secret in a device, and outcomes whose operations the spec does not fix. None has a body, so no proof
can see a value of one.
-/

namespace Sys2Proof

/-- Error, in units in the last place, of a vector-engine function of R67 on an operand (log 4). -/
opaque Config.elemErr : Nat → Nat → Nat

/-- The seed of a shift register of R49, by the number of the binding creation and the register; a zero
stands for some non-zero seed (log 3). -/
opaque Config.lfsrSeed : Nat → Nat → BitVec 32

/-- A free value of the spec, by a count of draws (log 2). -/
opaque Config.freeValue : Nat → BitVec 64

/-- A sum of binary64 numbers by RNE, whose order of additions the spec does not fix (R164, R166; log 17). -/
opaque Config.sum64 : List (BitVec 64) → BitVec 64
/-- The 2-norm of a list of binary64 numbers, likewise (R166, R178; log 17). -/
opaque Config.norm2 : List (BitVec 64) → BitVec 64
/-- Whether every pivot of the Cholesky factorisation of a matrix of a width is positive (R165; log 17). -/
opaque Config.pivotsPositive : Nat → List (BitVec 64) → Bool
/-- Of the implicit QL iteration on a matrix: its sweeps, the eigenvalues Λ and the eigenvectors Q (R165; log 17). -/
opaque Config.qlSweeps : Nat → List (BitVec 64) → Nat
opaque Config.eigenvalues : Nat → List (BitVec 64) → List (BitVec 64)
opaque Config.eigenvectors : Nat → List (BitVec 64) → List (BitVec 64)
/-- The entries of Q diag(g) Qᵀ in rows (R165; log 17). -/
opaque Config.spectral : Nat → List (BitVec 64) → List (BitVec 64) → List (BitVec 64)
/-- X^p * A as the lent clusters form it in 3-pass mode, by the count of draws, the width and p (R166, R168; log 17). -/
opaque Config.warmProduct : Nat → Nat → Nat → List (BitVec 32) → List (BitVec 64) → List (BitVec 32)
/-- Where WORK of a block of a width holds its matrices, 0 and 1 the two copies of X, 2 and 3 those of M, and the partial
sums of squares of an iterate, as byte offsets (R166; log 17). -/
opaque Config.workMatrix : Nat → Nat → Nat
opaque Config.workSums : Nat → List Nat
/-- Where WORK of a least-squares job of *m* rows and *n* unknowns holds 0 the structure's fingerprint, 1 the last inner
iterate and 2 the preconditioner, as byte offsets (R177, R180; log 17). -/
opaque Config.jobWork : Nat → Nat → Nat → Nat
/-- The gradient Jᵀ r of a matrix in compressed rows, and the preconditioner that a descriptor asks for (R178, R180; log
17). -/
opaque Config.gradient : Nat → List Nat → List Nat → List (BitVec 64) → List (BitVec 64) → List (BitVec 64)
opaque Config.precondition : BitVec 1024 → List Nat → List Nat → List (BitVec 64) → List (BitVec 64)
/-- The inner solve: its iterations and its iterate, from the descriptor, the matrix, and the residual, the preconditioner
and the starting point one after another (R178; log 17). -/
opaque Config.innerIters : BitVec 1024 → List Nat → List Nat → List (BitVec 64) → List (BitVec 64) → Nat
opaque Config.innerStep : BitVec 1024 → List Nat → List Nat → List (BitVec 64) → List (BitVec 64) → List (BitVec 64)

/-- What a solver unit's local store holds at an offset after its own work, by the number of the work (R159, R221; log
87). -/
opaque Config.localStore : Nat → Nat → BitVec 8

/-- Flits that a receive buffer of a class and virtual channel holds beyond the first (R248; log 76). -/
opaque Config.flitCredits : Nat → Bool → Nat

/-- The key derived from DSK under which the owner KEK is journalled (R349, R358; log 5). -/
opaque Config.kekKey : BitVec 256

/-- Signatures with the identity keys (R355, R356; log 5). -/
opaque Config.rsaSign : List Byte → List Byte
opaque Config.slhSign : List Byte → List Byte

/-- The transport key pair of a number: modulus, public exponent and private exponent (R358; log 5). -/
opaque Config.transportModulus : Nat → BitVec 3072
opaque Config.transportPublic : Nat → BitVec 32
opaque Config.transportPrivate : Nat → BitVec 3072

/-- The two certificate chains and the digest of the boot ROM (R355, R357). -/
opaque Config.rsaChain : List Byte
opaque Config.slhChain : List Byte
opaque Config.romDigest : BitVec 384

/-- The fuses burnt at manufacture (R349, R401, R443): the digests of Lenique's keys, the life-cycle state, the
serial number and the voltages of the voltage-frequency table. -/
opaque Config.lrsa : BitVec 384
opaque Config.lslh : BitVec 384
opaque Config.life : BitVec 4
opaque Config.serial : BitVec 64
/-- Lenique's JEP106 identity (R442; log 66). -/
opaque Config.jep106 : BitVec 11
/-- Lenique's identifier assigned by the PCI-SIG (R388; log 66). -/
opaque Config.pciVendor : BitVec 16
/-- The ordering variant fitted: 0 KT96A-256-C, 1 KT96A-256-B (R5, R401; log 66). -/
opaque Config.variant : BitVec 1
opaque Config.vf : Nat → BitVec 10

/-- The number of a persistent setting (R382; log 52): 0 PILOTPORTS, 1 FRY_PCFG, 2 the clusters' frequency, 3 the warden
candidates; and the numbers that a setting's body spells. -/
opaque Config.settingKey : Nat → BitVec 32
opaque Config.settingNat : List Byte → Nat → Nat

end Sys2Proof
end

