-- ==== Sys2Proof/Machine/State.lean ====
section
/-!
DEFINITION. Sys2Proof/Machine/State.lean: the state of the block, its reset value, and the reasons a
step may stop.
-/

namespace Sys2Proof.Machine

/-- Why a step stops. -/
inductive Fault where
  /-- Raised by SECTOR_READ and SECTOR_WRITE at an address to which the mapping in force gives no
  sector (R197, R198). Safe: the machine stops where the spec gives no storage. -/
  | noSuchAddress
deriving DecidableEq, Repr

/-- Why a step is refused. -/
inductive Refusal where
  /-- A row without a meaning. Safe: nothing is claimed of it. -/
  | notModelled (mnemonic : String)
deriving DecidableEq, Repr

/-! ### Clusters (R73, R85 to R93, R183 to R193) -/

/-- A cell: its binary32 accumulator and its tile overflow indicator (R183). -/
structure Cell where
  val : BitVec 32
  ovf : Bool
deriving DecidableEq, Repr

/-- A cell at +0. -/
def Cell.zero : Cell := ⟨0, false⟩

/-- What the decision shadow of an open decision restores: accumulators, loop counters, long or short
modes and watch selection counts as they stood when it opened (R87, R190). -/
structure Shadow where
  acc   : Tab Cell
  long  : Tab Bool
  stat  : Tab Bool
  loops : Tab (BitVec 32)
  wsel  : Tab Nat
deriving DecidableEq, Repr

/-- A converted tile held in an output stage, on its way to the slipway or to memory. -/
structure Tile where
  /-- The array, 0 to 7. -/
  array : Nat
  /-- Address of the store or emit. -/
  addr  : BitVec 48
  /-- The word. -/
  word  : BitVec 128
  /-- The 4,096 output codes. -/
  codes : List Nat
  /-- Flags of its conversion, set as it leaves (R71). -/
  flags : Nat
  /-- Some cell's tile overflow indicator was set when the tile was converted (R184). -/
  ovf   : Bool
  /-- Saturation marker (R187). -/
  sat   : Bool
  /-- The place among the arrays of AMASK, counted from 0 (R81). -/
  place : Nat
  /-- It is the word's last. -/
  last  : Bool
  /-- The destination descriptor, for a TSTORE. -/
  desc  : BitVec 512
deriving DecidableEq, Repr

/-- What the sample ring records of a word or instruction as it retires (R410, R411). -/
structure Retire where
  addr  : BitVec 48
  /-- Sample class; 0 for none. -/
  cls   : Nat
  vec   : Bool
  spec  : Bool
  /-- It was restarted after a fault (R240). -/
  fault : Bool
  daddr : Nat
  /-- Its layer tag, where it has one (R407). -/
  ltag  : Option Nat
deriving DecidableEq, Repr

/-- What a region holds back until it resolves (R86), in program order. -/
inductive Held where
  | tile (t : Tile)
  | signal (tok : Nat) (count : Nat)
  /-- The non-finite vote of a fallback word (R188). -/
  | vote (ltag : Nat)
  | retire (r : Retire)
deriving DecidableEq, Repr

/-- The three kinds of decision (R85). -/
inductive DecKind where
  /-- An overflow decision of retry `r` of its word (R185). -/
  | overflow (r : Nat)
  /-- A watch decision: the wide accumulators by cell key, or none when abandoned (R191). -/
  | watch (wide : Option (Tab Cell))
  /-- A step decision, for the step it refers to (R82), and its outcome once the turnaround has
  executed: commit or skip. -/
  | step (number : Nat) (res : Option Bool)
deriving DecidableEq, Repr

/-- A word that has issued. -/
structure Issued where
  addr : BitVec 48
  word : BitVec 128
deriving DecidableEq, Repr

/-- An open decision. -/
structure Dec where
  kind   : DecKind
  addr   : BitVec 48
  word   : BitVec 128
  /-- Length of the issue log just after the word issued. -/
  logLen : Nat
  shadow : Shadow
  /-- Accumulating words issued since it opened and before the next decision. -/
  depth  : Nat
  /-- The selected word is to be watched. -/
  watch  : Bool
  /-- The words of its retry range, the first first (R90). -/
  range  : List Issued
  held   : List Held
deriving DecidableEq, Repr

/-- One entry of the slipway (R91). -/
structure SlipEntry where
  array : Nat
  tag   : BitVec 16
  fmt   : Nat
  sat   : Bool
  codes : List Nat
  pops  : Nat
deriving DecidableEq, Repr

/-- The counts of one layer tag (R193). -/
structure WatchRec where
  watched  : Nat
  disagree : Nat
  inconc   : Nat
  retry    : Nat
  fallback : Nat
deriving DecidableEq, Repr

/-- All counts 0. -/
def WatchRec.zero : WatchRec := ⟨0, 0, 0, 0, 0⟩

/-- The header of a count area (R193). -/
structure WatchHdr where
  step    : Nat
  ltag    : Nat
  delta   : Nat
  addr    : Nat
  nfvotes : Nat
deriving DecidableEq, Repr

/-- A cluster: sequencer, arrays, slipway and vector engine. Its registers hold the states, the program
addresses, the tokens and the flags. -/
structure Cluster where
  /-- Number of the binding creation that made this state, for the seeds of R49. -/
  epoch  : Nat
  /-- Descriptor slots D00 to D63; none is an invalid slot (R445). -/
  slots  : Tab (Option (BitVec 512))
  loops  : Tab (BitVec 32)
  /-- Operand buffers: byte `b` of array `a` at `262144 * a + b`. -/
  buf    : Tab Byte
  /-- Accumulators: cell (i, j) of array `a` at `4096 * a + 64 * i + j`. -/
  acc    : Tab Cell
  /-- Issue shadows: the accumulators as the last accumulating word started (R87). -/
  ishadow : Tab Cell
  /-- Long rounding mode in force, by array (R80). -/
  long   : Tab Bool
  /-- The array holds a STAT accumulator: a STAT word was the last accumulating word that named it (R118). -/
  stat   : Tab Bool
  /-- Shift registers of the cells, by cell; 0 where no draw has been made (R49). -/
  lfsr   : Tab (BitVec 32)
  /-- Address of the schedule's first word, and of the next word to issue. -/
  start  : BitVec 48
  ipc    : BitVec 48
  /-- Words issued since START, the last first. -/
  log    : List Issued
  decs   : List Dec
  /-- What is no longer speculative and has yet to leave, in program order: its first element waits for
  slipway granules or for a faulted store's resumption. -/
  out    : List Held
  slip   : List SlipEntry
  /-- Watch selection counts, by layer tag (R190). -/
  wsel   : Tab Nat
  counts : Tab WatchRec
  hdr    : WatchHdr
  /-- Non-finite vote for the step in progress, and one carried to the next (R188). -/
  nfvote : Bool
  nfnext : Bool
  /-- The watch event has been raised in this step (R192). -/
  watched : Bool
  /-- The word that a token wait holds (R82). -/
  twait  : Option (BitVec 128)
  /-- The word about to issue is restarted after a fault (R240, R411). -/
  again  : Bool
  /-- A drain is requested (R89). -/
  drain  : Bool
  /-- While lent: the unit it is lent to has started it and it has not ended (R147, R160). -/
  lentRun : Bool
  /-- The last retired SEG had DEAD = 1 (R89). -/
  dead   : Bool
  /-- Sampled words since the last sample (R410). -/
  sampled : Nat
  /-- Registers W00 to W63: lane `l` of register `r` at `256 * r + l`. -/
  vregs  : Tab (BitVec 32)
  /-- Masks M0 to M7: bit of lane `l` of mask `m` at `256 * m + l`. -/
  masks  : Tab Bool
  vloops : Tab (BitVec 32)
  vslots : Tab (Option (BitVec 512))
  /-- Shift registers of the lanes. -/
  vlfsr  : Tab (BitVec 32)
  /-- Address of the next vector instruction. -/
  vpc    : BitVec 48
  /-- The vector instruction that a wait or a fault stopped, and the chunk it resumes at. -/
  vwait  : Option (BitVec 64)
  vchunk : Nat
  /-- Outputs of the row of an SMAX that a fault stopped inside it (R105, R107). -/
  vrow   : List Nat
  /-- The vector instruction about to run is restarted after a fault (R240, R411). -/
  vagain : Bool
deriving DecidableEq, Repr

/-- A cluster as a binding's creation leaves it (R84, R93, R445). -/
def Cluster.init (epoch : Nat) : Cluster :=
  { epoch, slots := [], loops := [], buf := [], acc := [], ishadow := [], long := [], stat := [], lfsr := [], start := 0, ipc := 0, log := [],
    decs := [], out := [], slip := [], wsel := [], counts := [], hdr := ⟨0, 0, 0, 0, 0⟩, nfvote := false,
    nfnext := false, watched := false, twait := none, again := false, drain := false, lentRun := false, dead := false,
    sampled := 0, vregs := [], masks := [], vloops := [], vslots := [], vlfsr := [], vpc := 0,
    vwait := none, vchunk := 0, vrow := [], vagain := false }

/-! ### Codecs (R205 to R218) -/

/-- A bank of a codec: its TID and its table. -/
structure Bank where
  tid   : Nat
  table : BitVec 1024
deriving DecidableEq, Repr

/-- A codec: its two banks, the table it is loading, and its base blocks, the last used first (R214).
Which bank is current, and the states, stand in MEM_CDC_STATUS. -/
structure Codec where
  bank0 : Option Bank
  bank1 : Option Bank
  bases : List (Nat × Nat × List Byte)
  /-- Address and TID of the table last asked for. -/
  src     : Nat
  stid    : Nat
  /-- A load waits for the retiring bank to empty. -/
  waiting : Bool
  /-- The switch is late: it is due at the first turnaround after the load completes (R216). -/
  late : Bool
deriving DecidableEq, Repr

/-- A codec at creation (R218). -/
def Codec.init : Codec := ⟨none, none, [], 0, 0, false, false⟩

/-! ### Translation units and movers (R225, R229 to R234) -/

/-- A cached page-table entry: binding, level, the address bits that index it, and the entry. -/
structure XEnt where
  bnd : Nat
  lvl : Nat
  tag : Nat
  pte : BitVec 64
deriving DecidableEq, Repr

/-- A descriptor that a mover holds. -/
structure Flight where
  /-- Ring index. -/
  idx   : Nat
  desc  : BitVec 512
  /-- Progress: the lowest linear index not yet complete. -/
  prog  : Nat
  /-- The next linear index to issue. -/
  sent  : Nat
  /-- Elements complete at or above the progress. -/
  done  : List Nat
  /-- 0 waiting to start, 1 in flight, 2 faulted, 3 stopped, 4 illegal with its STATUS not written. -/
  st    : Nat
  /-- Poisoned data was forwarded. -/
  pfwd  : Bool
deriving DecidableEq, Repr

/-- A mover: the descriptors it holds, in ring order. -/
structure Mover where
  flights : List Flight
  /-- A fault has stopped the fetching (R234). -/
  stopped : Bool
deriving DecidableEq, Repr

/-- A mover at creation. -/
def Mover.init : Mover := ⟨[], false⟩

/-! ### The fabric (R247 to R272) -/

/-- A flit that waits to leave by a port: its packet as routing met it here and as it leaves, and which of the packet's
flits it is (R255). -/
structure EgressFlit where
  came : Packet
  pkt  : Packet
  part : Nat
deriving DecidableEq, Repr

/-- A flit sent and not yet acknowledged: its sequence number and how often it has been replayed (R248, R249). -/
structure SentFlit where
  seq  : BitVec 16
  flit : EgressFlit
  replays : Nat
deriving DecidableEq, Repr

/-- The link layer of a fabric port (R248, R249). -/
structure Port where
  /-- Sequence number expected next. -/
  rx      : BitVec 16
  /-- Sequence number of the next flit to send. -/
  tx      : BitVec 16
  /-- The replay buffer: at most 64 KiB, 256 flits. -/
  unacked : List SentFlit
  /-- Flits that wait to leave, in the order in which they came (R255). -/
  queue   : List EgressFlit
  /-- Flits sent against credits that have not returned, by twice the class plus the virtual channel (R248). -/
  used    : Tab Nat
  /-- The class whose turn it is in the round robin, and the flits left of its turn (R255). -/
  turn    : Nat × Nat
  /-- The ingress whose horn message was served last; 24 is the device itself (R260). -/
  served  : Nat
  /-- Tokens of the bucket (R259). -/
  tokens  : Nat
  /-- Horn messages kept until the next device's horn engine acknowledges them (R260). -/
  copies  : List SentFlit
deriving DecidableEq, Repr

/-- A port that has carried nothing. -/
def Port.init : Port :=
  { rx := 0, tx := 0, unacked := [], queue := [], used := [], turn := (3, 0), served := 24, tokens := 0, copies := [] }

/-- A child's VOTE, counted or held (R263). -/
structure ChildVote where
  src  : Nat
  step : Nat
  v    : Bool
  ndev : Nat
deriving DecidableEq, Repr

/-- A decision kept (R264). -/
structure Decided where
  step : Nat
  dec  : Bool
  ndev : Nat
deriving DecidableEq, Repr

/-- The horn engine's state for one binding (R263 to R265). -/
structure Vote where
  /-- The device vote for the step in progress. -/
  own  : Option Bool
  kids : List ChildVote
  /-- The VOTE sent for the step in progress: its value and its count. -/
  sent : Option (Bool × Nat)
  /-- The decisions of the last 4 steps, the last first. -/
  decs : List Decided
deriving DecidableEq, Repr

/-- A binding's vote before its first step. -/
def Vote.init : Vote := ⟨none, [], none, []⟩

/-- An operation that a collective engine has in flight (R266). -/
structure CeOp where
  /-- Record index and record. -/
  idx  : Nat
  rcd  : BitVec 512
  step : Nat
  /-- Tiles of the staged tensor sent. -/
  sent : Nat
deriving DecidableEq, Repr

/-- A tile being summed: in a landing-buffer slot, or in SUMBUF, where `data` is unused (R268, R270). -/
structure Sum where
  /-- It is summed in SUMBUF. -/
  mem   : Bool
  step  : Nat
  opid  : Nat
  entry : Nat
  tile  : Nat
  /-- Contributions received, by quarter of the tile. -/
  got   : List Nat
  /-- Contributions that held data, by quarter. -/
  added : List Nat
  data  : List (BitVec 32)
  poison : Bool
deriving DecidableEq, Repr

/-- A factor block whose decay is under way: its header's address, the step, and the tiles applied (R122). -/
structure Decay where
  hdr  : Nat
  step : Nat
  tiles : List Nat
deriving DecidableEq, Repr

/-- A collective engine. -/
structure Ce where
  /-- Records started, with the step (R266). -/
  started : List (Nat × Nat)
  ops     : List CeOp
  sums    : List Sum
  /-- Contributions that wait for a landing-buffer slot or for their step, in the order they came. -/
  held    : List Packet
  decays  : List Decay
  /-- Operations whose summing a fault has stopped, by kind and OPID (R240). -/
  stopped : List (Nat × Nat)
  /-- A drain is requested (R271). -/
  drain   : Bool
deriving DecidableEq, Repr

/-- A collective engine at creation. -/
def Ce.init : Ce := ⟨[], [], [], [], [], [], false⟩

/-! ### Landing Units (R128 to R158) -/

/-- A tile in the landing buffer (R135), and whether it came poisoned (R269). -/
structure LandTile where
  step  : Nat
  entry : Nat
  tile  : Nat
  data  : List (BitVec 32)
  poison : Bool
deriving DecidableEq, Repr

/-- What a Landing Unit knows of one entry in the step in progress. -/
structure LuEntry where
  /-- Tiles received (R136). -/
  got    : List Nat
  /-- The constants of R138 have been formed. -/
  begun  : Bool
  s      : Int
  etaS   : BitVec 32
  ob1    : BitVec 32
  ob2    : BitVec 32
  c1     : BitVec 32
  c2     : BitVec 32
  wide   : Bool
  /-- RDTAB and NOROOT as read at the first landing (R146). -/
  rdtab  : Nat
  noroot : Bool
  /-- The largest update so far, binary32 (R139). -/
  umax   : BitVec 32
  /-- Tiles landed; for OPT 2, through phase A. -/
  landed : List Nat
  /-- The entry's own landing or hold is complete, its header written. -/
  done   : Bool
  /-- The outer update of the step is complete (R149). -/
  outer  : Bool
deriving DecidableEq, Repr

/-- An entry before its first landing in a step. -/
def LuEntry.init : LuEntry :=
  { got := [], begun := false, s := 0, etaS := 0, ob1 := 0, ob2 := 0, c1 := 0, c2 := 0, wide := false,
    rdtab := 0, noroot := false, umax := 0, landed := [], done := false, outer := false }

/-- A Landing Unit. Its vote, state and pointers stand in its registers. -/
structure Lu where
  /-- The landing buffer, in arrival order: at most 512 tiles (R128). -/
  buf     : List LandTile
  entries : Tab LuEntry
  /-- A cause has arisen in the step in progress (R154). -/
  caused  : Bool
  /-- The entry in hand. -/
  inHand  : Option Nat
  /-- The entry whose phase B the lent cluster runs (R145). -/
  phaseB  : Option Nat
  /-- A drain is requested (R155). -/
  drain   : Bool
  /-- STATE to which a unit that leads a turnaround returns (R158). -/
  back    : Nat
  /-- LR scale applied at the turnaround that began the step, and the commit counter there (R138). -/
  scale   : BitVec 32
  commits : Nat
deriving DecidableEq, Repr

/-- A Landing Unit of no binding. -/
def Lu.init : Lu :=
  { buf := [], entries := [], caused := false, inHand := none, phaseB := none, drain := false, back := 1,
    scale := 0x3F800000, commits := 0 }

/-! ### Solver units (R159 to R182) -/

/-- A block of the round in progress (R163, R167, R170). -/
structure SuBlock where
  /-- The outcome, once fixed. -/
  outcome : Option Nat
  ready   : Bool
  /-- Fingerprint of the root it would publish (R168). -/
  fprint  : BitVec 64
  /-- It has been published in the round. -/
  pub     : Bool
deriving DecidableEq, Repr

/-- A block not yet reached. -/
def SuBlock.init : SuBlock := ⟨none, false, 0, false⟩

/-- A solver unit's own copy of a factor block (R124): its header and its tiles, by rows of binary32 codes. -/
structure FacCopy where
  hdr   : BitVec 512
  tiles : List (List Nat)
deriving DecidableEq, Repr

/-- A root round (R163). -/
structure Round where
  number   : Nat
  deadline : Nat
  /-- Index of the entry in work or to be worked on next. -/
  cur      : Nat
  /-- 0 the block is to be read, 1 a factorisation, 2 Newton iterations. -/
  stage    : Nat
  /-- Newton iterations completed of the block in work (R167). -/
  iters    : Nat
  /-- The block in work may start warm (R168). -/
  warm     : Bool
  /-- The start of the iteration stands in WORK (R166). -/
  formed   : Bool
  /-- While the block is read: what the first reading of SEQ copied (R124). -/
  reading  : Option FacCopy
  /-- The copy that the work rests on. -/
  copy     : Option FacCopy
  blocks   : Tab SuBlock
deriving DecidableEq, Repr

/-- Where a job stands: a LOAD to be done, a SOLVE to be set up, an evaluation to be requested, one awaited, or an inner
solve in progress (R176, R178). -/
inductive JobPhase where
  | load
  | setup
  | request
  | waiting
  | inner
deriving DecidableEq, Repr

/-- A least-squares job (R177, R178). -/
structure Job where
  addr    : Nat
  desc    : BitVec 1024
  k       : Nat
  g0      : BitVec 64
  rho     : BitVec 64
  ready   : Bool
  phase   : JobPhase
  /-- Its start took over what WORK holds (R180). -/
  warm    : Bool
  /-- The outcome that a spent budget fixed (R172). -/
  fixed   : Option Nat
deriving DecidableEq, Repr

/-- A job that has ended and has a half to publish at the next turnaround (R181). -/
structure Published where
  stat : Nat
  rho  : BitVec 64
deriving DecidableEq, Repr

/-- A solver unit. -/
structure Su where
  round  : Option Round
  /-- Rounds that have fallen due while the unit was busy (R161): number and deadline. -/
  due    : List (Nat × Nat)
  job    : Option Job
  publish : List Published
  /-- Evaluations requested since the binding was created (R181). -/
  evseq  : Nat
  /-- What the local store holds of the unit's own work: 0 none, else the free contents of this number (R221). -/
  works  : Nat
  /-- A mover has written the local store during the work in progress (R221). -/
  spoilt : Bool
deriving DecidableEq, Repr

/-- A solver unit of no binding. -/
def Su.init : Su := { round := none, due := [], job := none, publish := [], evseq := 0, works := 0, spoilt := false }

/-! ### The journal and the flash (R379 to R386) -/

/-- A record that waits to be programmed (R381, R383). -/
structure JReq where
  typ  : Nat
  key  : Nat
  del  : Bool
  body : List Byte
  /-- The journal event is asked for. -/
  irq  : Bool
deriving DecidableEq, Repr

/-- A firmware-slot command in progress (R380). -/
structure FwCmd where
  slot : Nat
  /-- None for an ERASE; else the source address and the bytes to program. -/
  prog : Option (Nat × Nat)
deriving DecidableEq, Repr

/-- The journal engine. -/
structure Jnl where
  /-- Records handed over and not yet programmed, in order of arrival. -/
  queue  : List JReq
  /-- Offset of the next append in the live region. -/
  off    : Nat
  /-- Failed read-backs in the live region. -/
  fails  : Nat
  /-- SNAPSEQ of a compaction in progress (R385). -/
  snap   : Option Nat
  /-- Records programmed while it runs, into the old region. -/
  since  : Nat
  fw     : Option FwCmd
  /-- Firmware slots that have been erased since they were last programmed. -/
  blank  : List Nat
  /-- Highest reserved counter block by CHAN and EPOCH (R284). -/
  ivres  : List ((Nat × Nat) × Nat)
deriving DecidableEq, Repr

/-- A journal engine before replay. -/
def Jnl.init : Jnl :=
  { queue := [], off := 0, fails := 0, snap := none, since := 0, fw := none, blank := [], ivres := [] }

/-! ### The Ferry Engine (R274 to R299) -/

/-- A key that a channel holds: berth, epoch, the crossing from which it applies, the first posted stream
under it, and the next counter value (R283, R293, R294). -/
structure FKey where
  berth : Nat
  epoch : Nat
  from' : Nat
  since : Nat
  ctr   : Nat
deriving DecidableEq, Repr

/-- A place in a stream's source: the next segment, or the next byte of a store stream, the bytes formed
and not yet framed, and the tables that the stream has carried. -/
structure Cursor where
  seg  : Nat
  left : List Byte
  tids : List Nat
deriving DecidableEq, Repr

/-- What a channel's outbound stream carries: a crossing (R288), a JOIN transfer (R297), or plain bytes. -/
inductive Source where
  | segs
  | join
  | bytes
deriving DecidableEq, Repr

/-- An entry of the retention log: a frame's header with its ICV, the place its group begins at, and the RAW
segments of the group where it is a further group (R287, R291). -/
structure Kept where
  hdr   : BitVec 512
  start : Cursor
  raws  : List Nat
deriving DecidableEq, Repr

/-- What a frame says of itself apart from its key: type, LASTG, stream, group, index, *k*, *m*, DLEN, SEQ (R279). -/
structure FrameDesc where
  typ    : Nat
  lastg  : Bool
  fresh  : Bool
  stream : Nat
  group  : Nat
  idx    : Nat
  k      : Nat
  m      : Nat
  dlen   : Nat
  seq    : BitVec 32
deriving DecidableEq, Repr

/-- A frame of a group in hand that has not been signed yet, its payload, and what the retention log will keep of it
(R284, R287). -/
structure Unsent where
  desc    : FrameDesc
  payload : List Byte
  start   : Cursor
  raws    : List Nat
deriving DecidableEq, Repr

/-- An outbound stream (R296): its ring index and descriptor, its place among the streams posted, the next
group, the place in its source, whether its last group has been sent, RAW segments asked for, and the
retention log. -/
structure TxStream where
  idx   : Option Nat
  desc  : BitVec 512
  src   : Source
  num   : Nat
  order : Nat
  /-- The channel's *k* and *m* when it began. -/
  k     : Nat
  m     : Nat
  group : Nat
  cur   : Cursor
  ended : Bool
  frames : Nat
  bytes : Nat
  raws  : List Nat
  /-- Frames of the group in hand still to be signed and sent. -/
  rest  : List Unsent
  kept  : List Kept
deriving DecidableEq, Repr

/-- A frame asked for again: stream, group, index, and whether it is to be signed afresh (R287, R294). -/
structure Ask where
  stream : Nat
  group  : Nat
  idx    : Nat
  fresh  : Bool
deriving DecidableEq, Repr

/-- A group being received (R285): *k*, *m*, the last data frame's length, the SEQ of its first frame, and
the frames held with their payloads; complete groups hold their data. -/
structure RxGroup where
  k    : Nat
  m    : Nat
  dlen : Nat
  seq0 : BitVec 32
  got  : List (Nat × List Byte)
deriving DecidableEq, Repr

/-- A record that waits for its table: segment, TID and body (R291). -/
structure WaitRec where
  seg  : Nat
  tid  : Nat
  body : List Byte
  /-- It has been asked for raw. -/
  asked : Bool
deriving DecidableEq, Repr

/-- An inbound stream. -/
structure RxStream where
  num    : Nat
  groups : Tab RxGroup
  /-- Every group below it is complete. -/
  cum    : Nat
  /-- CUMGROUP of the last ACK. -/
  acked  : Nat
  /-- The stream's last group, once known. -/
  last   : Option Nat
  /-- Its DONE has arrived. -/
  doneRx : Bool
  /-- Bytes delivered in order and not yet taken as records. -/
  buf    : List Byte
  tables : List (Nat × BitVec 1024)
  waits  : List WaitRec
  /-- Segments delivered, and how often each has come in a JOIN transfer. -/
  segs   : List Nat
  /-- Entries complete: owner, Landing Unit, entry. -/
  ents   : List (Nat × Nat × Nat)
  /-- Groups for which a NACK has been sent. -/
  nacked : List Nat
  /-- Groups of which a frame failed under a retired epoch (R294). -/
  stale  : List Nat
  /-- Receive descriptor: ring index, and bytes landed. -/
  idx    : Nat
  desc   : BitVec 512
  landed : Nat
  full   : Bool
  /-- EPOCH of the frame that opened it (R294). -/
  epoch  : Nat
  /-- First SEQ that the group at `cum` can have, by the group before it (R287). -/
  next   : Option (BitVec 32)
deriving DecidableEq, Repr

/-- A control frame that waits for its counter reservation (R284). -/
structure Ctl where
  typ    : Nat
  stream : Nat
  group  : Nat
  body   : List Byte
deriving DecidableEq, Repr

/-- A channel of the Ferry Engine. -/
structure Chan where
  new    : Option FKey
  old    : Option FKey
  /-- State that HOLD left (R295). -/
  left   : Nat
  /-- Number of the last ECHO, and its value on entering REMEASURE. -/
  echo   : Nat
  mark   : Nat
  /-- Consecutive replies: echo number and RTT, the last first. -/
  replies : List (Nat × Nat)
  /-- Heads of the two rings, and streams posted so far. -/
  txhead : Nat
  rxhead : Nat
  posted : Nat
  started : Nat
  /-- SEQ of the next new frame. -/
  seq    : BitVec 32
  tx     : List TxStream
  asks   : List Ask
  rx     : List RxStream
  /-- Streams received whole, streams dropped, and streams held (R291). -/
  used   : List Nat
  dropped : List Nat
  held   : List Nat
  ctl    : List Ctl
  /-- The last reason for waiting is a missing reservation. -/
  ivwait : Bool
  /-- A counter has run out (R284). -/
  spent  : Bool
  /-- JOINACK's mooring crossing, and a JOINDONE that came before its stream was whole (R297). -/
  joinM  : Option Nat
  joinDone : Bool
  /-- Donor: the mooring crossing of the JOIN stream being sent. -/
  donor  : Option Nat
  /-- Crossing streams sent to their end, and the STATE that their descriptors took (R31). -/
  ended  : List (Nat × Nat)
  /-- The pacing bucket, in thousandths of a bit, and whether the channel had its port's last turn (R278). -/
  level  : Nat
  turned : Bool
deriving DecidableEq, Repr

/-- A channel at creation. -/
def Chan.init : Chan :=
  { new := none, old := none, left := 0, echo := 0, mark := 0, replies := [], txhead := 0, rxhead := 0, posted := 0,
    started := 0, seq := 0, tx := [], asks := [], rx := [], used := [], dropped := [], held := [], ctl := [],
    ivwait := false, spent := false, joinM := none, joinDone := false, donor := none, ended := [], level := 0, turned := false }

/-- A frame as it leaves an outer port (R275). -/
structure Sent where
  port  : Nat
  gw    : Nat
  mac   : Nat
  vlan  : Option (Nat × Nat)
  src   : BitVec 128
  dst   : BitVec 128
  sport : Nat
  dport : Nat
  hops  : Nat
  flow  : Nat
  dscp  : Nat
  /-- The UDP checksum. -/
  sum   : Nat
  hdr   : BitVec 512
  payload : List Byte
deriving DecidableEq, Repr

/-! ### Bindings (R12, R313 to R321) -/

/-- An accepted partial image: its step, its RESOURCES, its records and parameters, the save areas it takes
over, and whether it belongs to the re-binding in progress (R313 to R319, R321). -/
structure Image where
  applyStep : Nat
  resources : Option (BitVec 512)
  records   : List (Nat × Word)
  params    : Option (BitVec 512 × Tab Word × Tab (BitVec 48))
  restores  : List (Nat × Nat)
  bid       : Nat
  flevel    : Nat
  rb        : Bool
deriving DecidableEq, Repr

/-- A load in progress (R317): the image's address, the binding, whether it is a re-binding's, and the queue
whose command asked for it. -/
structure Load where
  addr : Nat
  bind : Nat
  rb   : Bool
  host : Option Nat
deriving DecidableEq, Repr

/-- A re-binding in progress (R321): the giving binding, none for the unbound pool; the receiving one; the
save area; whether its drain begins only at FROM's next turnaround; what moves, as bits of RESOURCES; and the
queue whose command asked for it. -/
structure Rebind where
  from' : Option Nat
  to'   : Nat
  save  : Nat
  img   : Nat
  later : Bool
  units : BitVec 512
  host  : Option Nat
deriving DecidableEq, Repr

/-- A unit's state in a save area, by the area's address and the unit's first bit of RESOURCES (R321; log 36):
its registers that differ from their reset values, and what it holds beside them. -/
structure Saved where
  addr  : Nat
  unit  : Nat
  regs  : List (RegKey × Word)
  cl    : Option Cluster
  codec : Option Codec
  mov   : Option Mover
  ce    : Option Ce
  su    : Option Su
  chans : List (Nat × Chan)
deriving DecidableEq, Repr

/-- What job-control firmware keeps of one layer tag for the pass policy (R194): the floor, the commit
counter when it was raised, and the clusters' counts of DISAGREE and FALLBACK after each of the last WIN
turnarounds, the last first. -/
structure TagPolicy where
  floor  : Nat
  raised : Nat
  hist   : List (Tab (Nat × Nat))
  /-- The counts at the turnaround before the run of skips (R195). -/
  base   : Tab (Nat × Nat)
deriving DecidableEq, Repr

/-- A tag before the first turnaround. -/
def TagPolicy.init : TagPolicy := ⟨0, 0, [], []⟩

/-- What firmware keeps of a binding for R194 and R195. -/
structure Policy where
  win   : Nat
  raise : Nat
  hold  : Nat
  tags  : Tab TagPolicy
  /-- LND_LRSCALE of the binding's Landing Units before it was halved. -/
  saved : List (Nat × Word)
  /-- Consecutive commits since. -/
  commits : Nat
deriving DecidableEq, Repr

/-- The defaults of R194. -/
def Policy.init : Policy := ⟨64, 2, 10000, [], [], 0⟩

/-- The checkpoint generation being written (R331, R333): its number, how far it has come (1 captured, 2 complete
and reported), and its manifest's header. -/
structure GenRun where
  gen  : Nat
  stage : Nat
  hdr  : BitVec 512
deriving DecidableEq, Repr

/-- A binding's own state beside its slice of registers. -/
structure Binding where
  step   : Nat
  commit : Nat
  cross  : Nat
  /-- The step decision received and not yet executed: commit or skip (R17). -/
  decision : Option Bool
  /-- A turnaround is in progress: the decision it executes, none for a forced one (R18, R23). -/
  turning : Option (Option Bool)
  /-- Strobe groups that have yet to acknowledge. -/
  await  : List Group
  /-- Partial images armed, in the order armed. -/
  armed  : List Image
  /-- Images taken at the turnaround in progress (R319). -/
  taken  : List Image
  /-- Crossing interval H and close limit L (R24, R25). -/
  h      : Nat
  l      : Nat
  /-- The site's index in the job. -/
  site   : Nat
  /-- The device has contributed its vote for the step in progress (R157, R188). -/
  voted  : Bool
  /-- The crossings that are open, in ascending order (R24, R25). -/
  xopen  : List Nat
  /-- The crossings that have closed and whose outer updates have not committed, in the order of their closes: the first
  lands in the step in progress (R26, R27). -/
  outer  : List Nat
  /-- The crossing of the current mooring half (R297). -/
  moored : Nat
  pol    : Policy
  params : BitVec 512
  watch  : Tab Word
  areas  : Tab (BitVec 48)
  /-- The step of a STOP command (R397); none where no STOP waits. -/
  stop   : Option Nat
  /-- STOP left the units STOPPED, and START resumes them. -/
  halted : Bool
  /-- The chain of accepted image digests (R357). -/
  chain  : BitVec 384
  /-- Newest complete checkpoint generation, and the one being written (R333). -/
  gen    : Option Nat
  genRun : Option GenRun
  /-- A store stream of a generation is being sent, and the deferrals counted (R335). -/
  store  : Option Nat
  defers : Nat
  /-- Replica audits that failed (R341). -/
  audits : Nat
  /-- A rewind has begun or is the last thing done, and the generation (R337). -/
  rewound : Option Nat
  /-- The checkpoint interval *K*, and KSTORE (R331, R335). -/
  ckpt   : Nat
  kstore : Nat
deriving DecidableEq, Repr

/-- A binding at creation (R319). -/
def Binding.init : Binding :=
  { step := 0, commit := 0, cross := 0, decision := none, turning := none, await := [], armed := [],
    taken := [], h := 0, l := 0, site := 0, voted := false, xopen := [], outer := [], moored := 0, pol := Policy.init, params := 0, watch := [], areas := [],
    stop := none, halted := false, chain := 0, gen := none, genRun := none, store := none, defers := 0, audits := 0,
    rewound := none, ckpt := 0, kstore := 0 }

/-! ### The host interface (R392 to R399) -/

/-- A command taken from a queue (R393, R395): its 64 bytes, the first word of its completion where its
outcome is settled, whether it has begun, and whether its completion is to be written (R391). -/
structure HCmd where
  raw   : BitVec 512
  /-- Its turn among the commands of its binding. -/
  turn  : Nat
  begun : Bool
  /-- It was accepted before full service was declared (R399). -/
  pilot : Bool
deriving DecidableEq, Repr

/-- A queue: what its registers do not show. -/
structure HQueue where
  /-- Completion head, and the PHASE of the next completion. -/
  cqHead : Nat
  phase  : Bool
  cmd    : Option HCmd
  /-- Fetches of all queues up to this queue's last one (R393). -/
  last   : Nat
  /-- The queue was disabled or reset while its command ran: no completion is written (R391), or it is and
  the queue then reads DISABLED (R399). -/
  lost   : Bool
  ending : Bool
deriving DecidableEq, Repr

/-- A queue that is disabled. -/
def HQueue.init : HQueue := ⟨0, true, none, 0, false, false⟩

/-! ### Boot, power and the two halves (R343, R344, R349 to R353, R369 to R378) -/

/-- What a half's ROM has found: the slot tried (0 A, 1 B, 2 host), the outcome of R351 and the image's
digest. -/
structure RomOut where
  slot    : Nat
  outcome : Nat
  digest  : BitVec 384
deriving DecidableEq, Repr

/-- One always-on half. -/
structure HalfState where
  /-- Its clock runs. -/
  runs : Bool
  /-- It pulls FAULT_N low. -/
  fault : Bool
  /-- Outcomes of its ROM, the last first. -/
  rom : List RomOut
deriving DecidableEq, Repr

/-- Power, boot and leadership. -/
structure Boot where
  /-- PWR_OK is high. -/
  on      : Bool
  leadSel : Bool
  bootSrc : Bool
  recover : Bool
  east    : HalfState
  west    : HalfState
  /-- The half that leads, if any. -/
  leader  : Option Half
  /-- Renewals that the follower has missed, and acknowledgements that the leader has missed. -/
  missed  : Nat
  unacked : Nat
  /-- Header of the running image, its outcome and digest. -/
  image   : BitVec 1024
  slot    : Nat
  digest  : BitVec 384
  /-- The halves disagree (R353). -/
  halfDis : Bool
  /-- A trip of R429. -/
  tripped : Bool
  /-- Bytes of the host load window (R373). -/
  window  : Tab Byte
  /-- The window has been submitted. -/
  given   : Option Nat
  /-- The fuses: burnt bits of ARB (R349). -/
  arb     : Nat
deriving DecidableEq, Repr

/-- A half before PWR_OK rises. -/
def HalfState.init : HalfState := ⟨true, false, []⟩

/-- The device before PWR_OK rises. -/
def Boot.init : Boot :=
  { on := false, leadSel := false, bootSrc := false, recover := false, east := HalfState.init, west := HalfState.init,
    leader := none, missed := 0, unacked := 0, image := 0, slot := 0, digest := 0, halfDis := false, tripped := false,
    window := [], given := none, arb := 0 }

/-- The level of an output: driven low, driven high, or released to high impedance (R439). -/
inductive Level where
  | low
  | high
  | z
deriving DecidableEq, Repr

/-- The outputs of R439. Bit *p* of `txdis` and `lpmode` is 1 where the output is released or high. -/
structure Pins where
  ready  : Level
  leader : Level
  alertN : Level
  faultN : Level
  thermN : Level
  txdis  : BitVec 26
  lpmode : BitVec 26
deriving DecidableEq, Repr

/-- The outputs while PWR_OK is low (R439). -/
def Pins.off : Pins := ⟨.z, .z, .z, .z, .z, BitVec.allOnes 26, BitVec.allOnes 26⟩

/-! ### The security island (R348 to R367) -/

/-- The SPDM responder (R356): how far the negotiation has come, and the transcripts. -/
structure Spdm where
  /-- 0 nothing, 1 version, 2 capabilities, 3 algorithms. -/
  phase : Nat
  /-- Messages of the negotiation (VCA). -/
  vca   : List Byte
  /-- Messages of GET_DIGESTS and GET_CERTIFICATE since. -/
  certs : List Byte
  /-- Unsigned GET_MEASUREMENTS since the last signed response. -/
  meas  : List Byte
deriving DecidableEq, Repr

/-- The security island. -/
structure Sec where
  /-- The owner record (R358). -/
  owner  : Option (List Byte)
  kek    : Option (BitVec 256)
  /-- Number of the transport key pair, while its private key is held. -/
  tkey   : Option Nat
  /-- Transport key pairs generated so far. -/
  tcount : Nat
  /-- Values read from SEC_RNG since reset, the last first. -/
  nonces : List Word
  /-- The nonce of an open debug challenge (R363). -/
  dbg    : Option (List Byte)
  spdm   : Spdm
deriving DecidableEq, Repr

/-- The island after reset. -/
def Sec.init : Sec := ⟨none, none, none, 0, [], none, ⟨0, [], [], []⟩⟩

/-! ### The telemetry controller (R413 to R418, R428) -/

/-- The capping loop and what it has read. -/
structure Tel where
  /-- The ceilings *g* and *h*[*q*], in MHz. -/
  g      : Nat
  h      : List Nat
  /-- *g* is held at 100 MHz until every layer is cool (R428), and has been asked to be. -/
  hold   : Bool
  /-- Readings that each rail group's regulator has missed in a row. -/
  missed : List Nat
  /-- The hottest DRAM layer and the hottest die sensor of the last loop period, in °C. -/
  layer  : Int
  die    : Int
  /-- Target of an AVSBus command that awaits its acknowledgement, in mV (R416). -/
  raise  : Option Nat
  /-- Cluster whose frequency a posted write is changing (R437). -/
  write  : Option Nat
  /-- The clusters' frequencies in force before a droop halves them, in MHz (R437). -/
  freq   : Tab Nat
deriving DecidableEq, Repr

/-- The controller after reset (R415). -/
def Tel.init : Tel := ⟨900, [900, 900, 900, 900], false, [], 0, 0, none, none, []⟩

/-! ### Job-control firmware and the warden (R325 to R345) -/


/-- Firmware's state. -/
structure Fw where
  /-- Highest term answered or granted (R327). -/
  term    : Nat
  /-- This device holds office. -/
  office  : Bool
  /-- It has claimed the term; positions that have granted it. -/
  claim   : Option (List Nat)
  round   : Nat
  answers : List Nat
  /-- Rounds in a row without a majority. -/
  lean    : Nat
  /-- No LEAD has been heard for 3 × LEADINT. -/
  quiet   : Bool
  /-- Position of the warden, as last heard. -/
  warden  : Nat
  /-- Positions suspected and awaiting CONFIRM (R328). -/
  suspect : List Nat
  /-- Declarations made in the term. -/
  decl    : Nat
  /-- A SELF event has been found: the device votes no more (R326). -/
  self    : Bool
  /-- It has been named in a FAILDECL (R329). -/
  named   : Bool
  /-- The takeovers that the warden conducts (R337): failed logical coordinates with their relief positions. -/
  take    : List (Nat × Nat)
  /-- The (CHAN, EPOCH) pairs of the failed device whose place this one takes (R339). -/
  dead    : List (Nat × Nat)
  /-- Persistent settings, by number (R382). -/
  settings : List (Nat × List Byte)
  /-- Manifest headers and scale histories that replay left for firmware (R384), by type and key. -/
  records : List ((Nat × Nat) × List Byte)
deriving DecidableEq, Repr

/-- Firmware at reset. -/
def Fw.init : Fw :=
  { term := 0, office := false, claim := none, round := 0, answers := [], lean := 0, quiet := true, warden := 0, suspect := [],
    decl := 0, self := false, named := false, take := [], dead := [], settings := [], records := [] }

/-! ### Outputs -/

/-- Events raised to firmware on the host cores, and what the device sends to the outside. -/
inductive Out where
  /-- The fault event of a translation unit (R237). -/
  | faultEvent (unit : Nat)
  /-- The cluster error event (R77, R98). -/
  | clusterError (c : Nat)
  /-- The cluster segment event (R82). -/
  | segment (c : Nat) (seg : Nat)
  /-- The cluster watch event (R192). -/
  | watchEvent (c : Nat)
  /-- A block was reported stale and asked for again (R217). -/
  | refetch (codec : Nat) (va : Nat)
  /-- A mover's completion event or error event. -/
  | moverDone (m : Nat) (idx : Nat)
  | moverError (m : Nat) (idx : Nat)
  /-- The error event of a Landing Unit (R156) and the solver event (R182). -/
  | luError (u : Nat)
  | solver (s : Nat)
  /-- An MSI-X vector (R400). -/
  | msix (v : Nat)
  /-- A packet leaves by a port, on the virtual channel it names (R256, R257). -/
  | send (port : Nat) (pkt : Packet)
  /-- A packet that this device sends to itself arrives without entering the fabric. -/
  | deliver (pkt : Packet)
  /-- An idle flit leaves a port (R249). -/
  | idle (port : Nat)
  /-- A port acknowledges flits up to a sequence number (R248). -/
  | ackFlit (port : Nat) (seq : BitVec 16)
  /-- Flits of a class and virtual channel have left a port's receive buffer (R248). -/
  | credit (port : Nat) (cls : BitVec 2) (vc : Bool) (n : Nat)
  /-- The horn engine acknowledges a message to the hop before, or reports that its PCRC failed (R260). -/
  | hornReport (port : Nat) (pkt : Packet) (ok : Bool)
  /-- An echo flit leaves a port, and the reply to a peer's, with the own turnaround in ns (R262). -/
  | echo (port : Nat)
  | echoReply (port : Nat) (turn : BitVec 32)
  /-- The error event of a collective engine (R267). -/
  | ceError (n : Nat)
  /-- A horn message reaches firmware's receive ring (R258). -/
  | hornMessage (slot : Nat)
  /-- A vault returns a sector: its address, data, metadata and whether it is poisoned (R203). -/
  | sector (addr : Nat) (data : List Byte) (mta : Nat) (poison : Bool)
  /-- A frame leaves an outer port (R275). -/
  | frame (f : Sent)
  /-- The journal event (R387). -/
  | journal (seq : Nat)
  /-- Firmware reports a numerical failure of a binding, and requests its rewind (R195). -/
  | numericalFailure (b : Nat)
  | rewindWanted (b : Nat)
  /-- Firmware finds an event that is a failure of the device (R325): 1 a horn region lost, 2 a permission fault,
  3 a halt, 4 FAULT_N or a refused journal, 5 a failed re-binding, 7 an audit, 8 a unit left in FAULT_STOP, 9 a
  poisoned slot or mooring, 10 an illegal descriptor or record, 11 a segment without a map record; 6 tells the host
  that no relief device remains (R336). -/
  | failure (why : Nat)
  /-- A channel has completed a JOIN (R297). -/
  | joined (ch : Nat)
  /-- The device writes host memory: a completion of R396, or data of a HOSTCOPY (R397). -/
  | hostWrite (addr : Nat) (data : List Byte)
  /-- The device reads host memory (R394, R397). -/
  | hostRead (q : Nat) (addr : Nat) (len : Nat)
  /-- A message of the host reaches job-control firmware (R397). -/
  | fwMessage (q : Nat) (msg : List Byte)
  /-- A completion of queue 16 is signalled to firmware (R392). -/
  | fwCompletion (slot : Nat)
  /-- An access to BAR0 is answered: the value of a read, or none for a bus error (R302). -/
  | answer (req : Requester) (v : Option Word)
  /-- An SPDM response (R356). -/
  | spdm (t : SpdmTransport) (msg : List Byte)
  /-- A reply on PMBus, none for the invalid-command response, and a PLDM reading (R419). -/
  | pmbus (v : Option Nat)
  | pldm (sensor : Nat) (v : Int)
  /-- An AVSBus command: VDD_CORE's target in mV (R416, R433). -/
  | avs (mv : Nat)
  /-- AER errors (R390): 0 Completer Abort, 1 Poisoned TLP Received, 2 Completion Timeout. -/
  | aer (kind : Nat)
  /-- Firmware's horn message to a position or, with none, to every device of the site (R326 to R337). -/
  | firmware (typ : Nat) (dst : Option Nat) (body : List Byte)
  /-- Firmware GETs a block from its owner (R341), or a generation area from a position (R338). -/
  | getBlock (owner : Nat) (va : Nat)
  | getArea (from' : Nat) (gen : Nat)
  /-- A handshake between the halves over the on-die link (R343, R353). -/
  | handshake (h : Half) (what : Nat)
deriving DecidableEq, Repr

/-! ### The state -/

/-- The state of the block. -/
structure State where
  /-- Registers of BAR0, as last applied, accepted or set. -/
  reg  : SMap RegKey Word
  /-- Pending values of RW registers that differ from what is applied (R306). -/
  pend : SMap RegKey (Option Word)
  /-- The stacked DRAM, by physical byte address. -/
  mem  : Tab Byte
  /-- Metadata word of each sector, by sector number (R202). -/
  mmeta : Tab (BitVec 32)
  /-- Symbols of a sector's stored codeword that have changed since it was written, by sector number:
  the symbol and what it was XORed with (R201). -/
  err  : Tab (List (Nat × Byte))
  /-- Sectors written in pilot service, by sector number: full service leaves their bytes undefined (R198). -/
  pilotSecs : Tab Bool
  cl   : Tab Cluster
  codec : Tab Codec
  xlt  : Tab (List XEnt)
  /-- An invalidation by XLT_INVALL is in progress (R226). -/
  invAll : Bool
  mov  : Tab Mover
  bnd  : Tab Binding
  lu   : Tab Lu
  su   : Tab Su
  port : Tab Port
  vote : Tab Vote
  ce   : Tab Ce
  /-- Bytes that movers have written into the solver units' local stores since the units' last work there, by offset in
  their aperture (R159, R221). -/
  store : Tab (Option Byte)
  /-- Horn messages that wait for a slot of the receive ring (R259, R273). -/
  hornWait : List Packet
  chan : Tab Chan
  /-- Keys in the berths (R361). -/
  keys : Tab (BitVec 256)
  jnl  : Jnl
  /-- The flash; erased bytes read 0xFF (R379). -/
  flash : Tab Byte
  /-- Groups that have yet to scan at the strobe of an APPLY (R308). -/
  await : List Group
  load : Option Load
  rb   : Option Rebind
  /-- Units' states in save areas (R321). -/
  saves : List Saved
  hq   : Tab HQueue
  /-- Fetches so far (R393). -/
  turns : Nat
  boot : Boot
  pins : Pins
  sec  : Sec
  tel  : Tel
  fw   : Fw
  /-- Digests that came with fetched blocks and the bytes that each covers, by binding and block address (R152,
  R272). -/
  digests : List ((Nat × Nat) × (Nat × Nat))
  /-- Number of fault records so far (R237) and of logged accesses (R324). -/
  fseq : Nat
  lseq : Nat
  /-- Read marks of the bus log's slots; true is unread (R303). -/
  unread : Tab Bool
  /-- Bindings created so far. -/
  epochs : Nat
  /-- Free values used so far: the model's own counter (log 2). -/
  draws : Nat
  /-- What the device has put out, the last first. -/
  out  : List Out
  /-- Commands waiting, first in first out: the model's own queue. -/
  pending : List Instr
deriving DecidableEq, Repr

/-- The block before PWR_OK rises. -/
def State.reset : State :=
  { reg := [], pend := [], mem := [], mmeta := [], err := [], pilotSecs := [], cl := [], codec := [], xlt := [], invAll := false, mov := [],
    bnd := [], lu := [], su := [], port := [], vote := [], ce := [], store := [], hornWait := [], chan := [], keys := [], jnl := Jnl.init, flash := [], await := [], load := none, rb := none, saves := [], hq := [], turns := 0,
    boot := Boot.init, pins := Pins.off, sec := Sec.init, tel := Tel.init, fw := Fw.init, digests := [], fseq := 0, lseq := 0, unread := [], epochs := 0, draws := 0, out := [], pending := [] }

end Sys2Proof.Machine
end

