-- ==== Sys2Proof/Machine/Ops.lean ====
section
/-!
DEFINITION. Sys2Proof/Machine/Ops.lean: the primitive effects on the state and the programs made of
them. Every meaning is a program, so what holds of each effect holds of every step (no effect touches
the queue).
-/

namespace Sys2Proof.Machine

/-- The value of a register that nothing has changed: its reset value (R9). GLB_ID.VARIANT reports the variant
that is fitted, a fuse (R5, R401; log 66). -/
def regDefault (k : RegKey) : Word :=
  let r := BitVec.ofNat 64 k.name.info.reset
  if k.name = .GLB_ID then r ||| Config.variant.zeroExtend 64 <<< 20 else r

/-- The implemented bits of a register (R10). -/
def regMask (n : RegName) : Word := BitVec.ofNat 64 n.info.mask

/-- The value of a register: last applied, accepted or set. -/
def State.rd (s : State) (n : RegName) (i : Nat := 0) (j : Nat := 0) : Word :=
  SMap.get regDefault s.reg ⟨n, i, j⟩

/-- A field of a register. -/
def State.rdF (s : State) (n : RegName) (f : Field) (i : Nat := 0) (j : Nat := 0) : Nat :=
  getF f (s.rd n i j)

/-- The stack's size in bytes (R197). -/
def stackSize : Nat := 0x4000000000

/-- One byte of the stack; what nothing has written reads as 0 (DESIGN CHOICE, log 6). -/
def State.byte (s : State) (a : Nat) : Byte := Tab.at 0 s.mem a

/-- The canonical form of the stack's contents: addresses strictly rising and in the stack, no byte listed that an
unlisted address reads as. -/
def Memory.wf (m : List Host.Cell) : Bool :=
  decide (m.Pairwise fun a b => a.1 < b.1) && m.all fun e => e.2 != 0 && decide (e.1 < stackSize)

/-- The primitive effects. -/
inductive Eff where
  /-- A register takes a value in its implemented bits; GLB_ID never changes (R401). -/
  | setReg (k : RegKey) (v : Word)
  /-- A pending value, or none (R306). -/
  | setPend (k : RegKey) (v : Option Word)
  /-- One byte of the stack; an address outside it has no effect. -/
  | memByte (a : Nat) (b : Byte)
  /-- The stack's contents are lost (R376). -/
  | clearMem
  | setMeta (sec : Nat) (v : BitVec 32)
  | setErr (sec : Nat) (v : List (Nat × Byte))
  /-- A sector is written in pilot service, or no longer counts as such (R198). -/
  | setPilot (sec : Nat) (v : Bool)
  | setCl (c : Nat) (v : Cluster)
  | setCodec (e : Nat) (v : Codec)
  | setXlt (x : Nat) (v : List XEnt)
  | setInvAll (v : Bool)
  | setMov (m : Nat) (v : Mover)
  | setBnd (b : Nat) (v : Binding)
  | setLu (u : Nat) (v : Lu)
  | setSu (u : Nat) (v : Su)
  | setPort (p : Nat) (v : Port)
  | setVote (b : Nat) (v : Vote)
  | setCe (n : Nat) (v : Ce)
  | storeByte (a : Nat) (v : Byte)
  /-- A solver unit's work takes its local store (R221). -/
  | clearStore (u : Nat)
  | setHornWait (v : List Packet)
  | setChan (c : Nat) (v : Chan)
  | setKey (b : Nat) (v : BitVec 256)
  | setJnl (v : Jnl)
  | flashByte (a : Nat) (v : Byte)
  | setAwait (v : List Group)
  | setLoad (v : Option Load)
  | setRb (v : Option Rebind)
  | setSaves (v : List Saved)
  | setHq (q : Nat) (v : HQueue)
  | setTurns (v : Nat)
  | setBoot (v : Boot)
  | setPins (v : Pins)
  | setSec (v : Sec)
  | setTel (v : Tel)
  | setFw (v : Fw)
  /-- PWR_OK falls: all state is lost except the fuses and the flash (R369). The owner record lies in the
  flash's identity region (R358, R379). -/
  | powerLost
  | setDigests (v : List ((Nat × Nat) × (Nat × Nat)))
  | setFseq (v : Nat)
  | setLseq (v : Nat)
  | setUnread (i : Nat) (v : Bool)
  | setEpochs (v : Nat)
  | setDraws (v : Nat)
  | emit (o : Out)

/-- The defaults of the tables. -/
def clDefault : Cluster := Cluster.init 0

/-- What an effect does. -/
def Eff.apply (e : Eff) (s : State) : State :=
  match e with
  | .setReg k v =>
    if k.name = .GLB_ID then s
    else { s with reg := SMap.put RegKey.rank regDefault s.reg k (v &&& regMask k.name) }
  | .setPend k v => { s with pend := SMap.put RegKey.rank (fun _ => none) s.pend k v }
  | .memByte a b => if a < stackSize then { s with mem := Tab.upd 0 s.mem a b } else s
  | .clearMem => { s with mem := [], mmeta := [], err := [], pilotSecs := [] }
  | .setMeta x v => { s with mmeta := Tab.upd 0 s.mmeta x v }
  | .setErr x v => { s with err := Tab.upd [] s.err x v }
  | .setPilot x v => { s with pilotSecs := Tab.upd false s.pilotSecs x v }
  | .setCl c v => { s with cl := Tab.upd clDefault s.cl c v }
  | .setCodec x v => { s with codec := Tab.upd Codec.init s.codec x v }
  | .setXlt x v => { s with xlt := Tab.upd [] s.xlt x v }
  | .setInvAll v => { s with invAll := v }
  | .setMov m v => { s with mov := Tab.upd Mover.init s.mov m v }
  | .setBnd b v => { s with bnd := Tab.upd Binding.init s.bnd b v }
  | .setLu u v => { s with lu := Tab.upd Lu.init s.lu u v }
  | .setSu u v => { s with su := Tab.upd Su.init s.su u v }
  | .setPort p v => { s with port := Tab.upd Port.init s.port p v }
  | .setVote b v => { s with vote := Tab.upd Vote.init s.vote b v }
  | .setCe n v => { s with ce := Tab.upd Ce.init s.ce n v }
  | .storeByte a v => { s with store := Tab.upd none s.store a (some v) }
  | .clearStore u => { s with store := s.store.filter fun p => p.1 / 2 ^ 24 != u }
  | .setHornWait v => { s with hornWait := v }
  | .setChan c v => { s with chan := Tab.upd Chan.init s.chan c v }
  | .setKey b v => { s with keys := Tab.upd 0 s.keys b v }
  | .setJnl v => { s with jnl := v }
  | .flashByte a v => if a < 0x8000000 then { s with flash := Tab.upd 0xFF s.flash a v } else s
  | .setAwait v => { s with await := v }
  | .setLoad v => { s with load := v }
  | .setRb v => { s with rb := v }
  | .setSaves v => { s with saves := v }
  | .setHq q v => { s with hq := Tab.upd HQueue.init s.hq q v }
  | .setTurns v => { s with turns := v }
  | .setBoot v => { s with boot := v }
  | .setPins v => { s with pins := v }
  | .setSec v => { s with sec := v }
  | .setTel v => { s with tel := v }
  | .setFw v => { s with fw := v }
  | .powerLost => { State.reset with
      flash := s.flash, sec := { Sec.init with owner := s.sec.owner, tcount := s.sec.tcount }
      boot := { Boot.init with arb := s.boot.arb }
      epochs := s.epochs, draws := s.draws, out := s.out, pending := s.pending }
  | .setDigests v => { s with digests := v }
  | .setFseq v => { s with fseq := v }
  | .setLseq v => { s with lseq := v }
  | .setUnread i v => { s with unread := Tab.upd false s.unread i v }
  | .setEpochs v => { s with epochs := v }
  | .setDraws v => { s with draws := v }
  | .emit o => { s with out := o :: s.out }

/-- A program over the state with a result. -/
inductive Prog (α : Type) : Type where
  | ret (a : α)
  | eff (e : Eff) (k : Prog α)
  | get (k : State → Prog α)

namespace Prog

variable {α β ε : Type}

/-- Run a program. -/
def run : Prog α → State → α × State
  | .ret a, s => (a, s)
  | .eff e k, s => k.run (e.apply s)
  | .get k, s => (k s).run s

/-- One program after another. -/
def bind (p : Prog α) (f : α → Prog β) : Prog β :=
  match p with
  | .ret a => f a
  | .eff e k => .eff e (k.bind f)
  | .get k => .get fun s => (k s).bind f

/-- Two programs in order, the first for its effect. -/
def seq (p : Prog Unit) (q : Prog β) : Prog β := p.bind fun _ => q

/-- Every effect a program can have satisfies a predicate. -/
def All (P : Eff → Prop) : Prog α → Prop
  | .ret _ => True
  | .eff e k => P e ∧ k.All P
  | .get k => ∀ s, (k s).All P

/-- Nothing. -/
def skip : Prog Unit := .ret ()

/-- One effect. -/
def one (e : Eff) : Prog Unit := .eff e (.ret ())

/-- What the state says. -/
def ask (f : State → α) : Prog α := .get fun s => .ret (f s)

/-- Programs in order. -/
def all : List (Prog Unit) → Prog Unit
  | [] => skip
  | p :: r => p.seq (all r)

/-- A program for each element, in order. -/
def each (l : List α) (f : α → Prog Unit) : Prog Unit :=
  match l with
  | [] => skip
  | a :: r => (f a).seq (each r f)

/-- The results of a program for each element. -/
def mapM (l : List α) (f : α → Prog β) : Prog (List β) :=
  match l with
  | [] => .ret []
  | a :: r => (f a).bind fun b => (mapM r f).bind fun bs => .ret (b :: bs)

/-- A program where a condition holds. -/
def when (c : Bool) (p : Prog Unit) : Prog Unit := if c then p else skip

/-- A program for each element until one stops with an error. -/
def mapE (l : List α) (f : α → Prog (Except ε β)) : Prog (Except ε (List β)) :=
  match l with
  | [] => .ret (.ok [])
  | a :: r => (f a).bind fun x =>
    match x with
    | .error e => .ret (.error e)
    | .ok b => (mapE r f).bind fun y =>
      match y with
      | .error e => .ret (.error e)
      | .ok bs => .ret (.ok (b :: bs))

/-- Continue with a result, or stop with the error. -/
def bindE (p : Prog (Except ε α)) (f : α → Prog (Except ε β)) : Prog (Except ε β) :=
  p.bind fun x =>
    match x with
    | .error e => .ret (.error e)
    | .ok a => f a

end Prog

/-- The result of a meaning: the next state. -/
def Prog.next (p : Prog Unit) (s : State) : Host.Outcome State Fault Refusal := .next (p.run s).2

/-- A register set. -/
def wr (n : RegName) (v : Word) (i : Nat := 0) (j : Nat := 0) : Prog Unit := .one (.setReg ⟨n, i, j⟩ v)

/-- A field of a register set. -/
def wrF (n : RegName) (f : Field) (x : Nat) (i : Nat := 0) (j : Nat := 0) : Prog Unit :=
  .get fun s => wr n (putF f (s.rd n i j) x) i j

/-- A one-bit field set to 1. -/
def setF (n : RegName) (f : Field) (i : Nat := 0) (j : Nat := 0) : Prog Unit := wrF n f 1 i j

/-- A count that saturates in its field. -/
def bumpF (n : RegName) (f : Field) (by' : Nat := 1) (i : Nat := 0) (j : Nat := 0) : Prog Unit :=
  .get fun s => wrF n f (satAdd f.w (s.rdF n f i j) by') i j

/-- Sticky flags added to a flag register (R71). -/
def addFlags (n : RegName) (x : Nat) (i : Nat := 0) : Prog Unit :=
  .get fun s => wr n (s.rd n i ||| BitVec.ofNat 64 x) i

/-- Bytes written to the stack at a physical address. -/
def wrBytes (a : Nat) : List Byte → Prog Unit
  | [] => .skip
  | b :: r => .eff (.memByte a b) (wrBytes (a + 1) r)

/-- Bytes of the stack at a physical address. -/
def State.bytes (s : State) (a n : Nat) : List Byte := (List.range n).map fun i => s.byte (a + i)

/-- A little-endian number at a physical address. -/
def State.le (s : State) (a n : Nat) : Nat := leNat (s.bytes a n)

/-- A cluster. -/
def State.cluster (s : State) (c : Nat) : Cluster := Tab.at clDefault s.cl c

/-- A codec. -/
def State.cdc (s : State) (e : Nat) : Codec := Tab.at Codec.init s.codec e

/-- A translation unit's cached entries. -/
def State.cache (s : State) (x : Nat) : List XEnt := Tab.at [] s.xlt x

/-- A mover. -/
def State.mover (s : State) (m : Nat) : Mover := Tab.at Mover.init s.mov m

/-- A binding. -/
def State.binding (s : State) (b : Nat) : Binding := Tab.at Binding.init s.bnd b

/-- A Landing Unit. -/
def State.landing (s : State) (u : Nat) : Lu := Tab.at Lu.init s.lu u

/-- A solver unit. -/
def State.solver (s : State) (u : Nat) : Su := Tab.at Su.init s.su u

/-- A fabric port's link layer. -/
def State.link (s : State) (p : Nat) : Port := Tab.at Port.init s.port p

/-- A binding's vote state. -/
def State.votes (s : State) (b : Nat) : Vote := Tab.at Vote.init s.vote b

/-- A collective engine. -/
def State.engine (s : State) (n : Nat) : Ce := Tab.at Ce.init s.ce n

/-- A channel of the Ferry Engine. -/
def State.ch (s : State) (c : Nat) : Chan := Tab.at Chan.init s.chan c

/-- A change to a channel. -/
def modCh (c : Nat) (f : Chan → Chan) : Prog Unit := .get fun s => .one (.setChan c (f (s.ch c)))

/-- A change to the journal engine. -/
def modJnl (f : Jnl → Jnl) : Prog Unit := .get fun s => .one (.setJnl (f s.jnl))

/-- A queue of the host interface. -/
def State.hqueue (s : State) (q : Nat) : HQueue := Tab.at HQueue.init s.hq q

/-- A change to a queue. -/
def modHq (q : Nat) (f : HQueue → HQueue) : Prog Unit := .get fun s => .one (.setHq q (f (s.hqueue q)))

/-- A change to power, boot and leadership. -/
def modBoot (f : Boot → Boot) : Prog Unit := .get fun s => .one (.setBoot (f s.boot))

/-- A change to the security island. -/
def modSec (f : Sec → Sec) : Prog Unit := .get fun s => .one (.setSec (f s.sec))

/-- A change to the telemetry controller. -/
def modTel (f : Tel → Tel) : Prog Unit := .get fun s => .one (.setTel (f s.tel))

/-- A change to firmware's state. -/
def modFw (f : Fw → Fw) : Prog Unit := .get fun s => .one (.setFw (f s.fw))

/-- A change to a port's link layer. -/
def modPort (p : Nat) (f : Port → Port) : Prog Unit := .get fun s => .one (.setPort p (f (s.link p)))

/-- A change to a binding's vote state. -/
def modVote (b : Nat) (f : Vote → Vote) : Prog Unit := .get fun s => .one (.setVote b (f (s.votes b)))

/-- A change to a collective engine. -/
def modCe (n : Nat) (f : Ce → Ce) : Prog Unit := .get fun s => .one (.setCe n (f (s.engine n)))

/-- A change to a Landing Unit. -/
def modLu (u : Nat) (f : Lu → Lu) : Prog Unit := .get fun s => .one (.setLu u (f (s.landing u)))

/-- A change to a solver unit. -/
def modSu (u : Nat) (f : Su → Su) : Prog Unit := .get fun s => .one (.setSu u (f (s.solver u)))

/-- A change to a cluster. -/
def modCl (c : Nat) (f : Cluster → Cluster) : Prog Unit := .get fun s => .one (.setCl c (f (s.cluster c)))

/-- A change to a codec. -/
def modCodec (e : Nat) (f : Codec → Codec) : Prog Unit := .get fun s => .one (.setCodec e (f (s.cdc e)))

/-- A change to a mover. -/
def modMov (m : Nat) (f : Mover → Mover) : Prog Unit := .get fun s => .one (.setMov m (f (s.mover m)))

/-- A change to a binding. -/
def modBnd (b : Nat) (f : Binding → Binding) : Prog Unit := .get fun s => .one (.setBnd b (f (s.binding b)))

/-- A free value of the spec (log 2): the next of the model's own count. -/
def freeVal : Prog (BitVec 64) :=
  .get fun s => .eff (.setDraws (s.draws + 1)) (.ret (Config.freeValue s.draws))

/-- Free bytes, eight for each count. -/
def freeBytes : Nat → Prog (List Byte)
  | 0 => .ret []
  | n + 1 => freeVal.bind fun v => (freeBytes n).bind fun l => .ret (leBytes 8 v.toNat ++ l)

/-- A bit of GLB_EVT set, and its MSI-X vector raised (R400): 0 STATE, 1 ERROR, 2 BIND, 3 TEL. -/
def glbEvent (b : Nat) : Prog Unit :=
  .get fun s => (wr .GLB_EVT (s.rd .GLB_EVT ||| BitVec.ofNat 64 (2 ^ b))).seq (.one (.emit (.msix (16 + b))))

/-- An error event of a unit: an output and GLB_EVT.ERROR (R400). -/
def errEvent (o : Out) : Prog Unit := (Prog.one (.emit o)).seq (glbEvent 1)

/-- Firmware finds a failure of the device in itself (R325, R326): it reports it to the warden and votes no
more in any binding; the code of CAUSE is 1. -/
def selfFailure (why : Nat) : Prog Unit := .get fun s => Prog.all [
  .one (.emit (.failure why)),
  Prog.when (!s.fw.self) ((modFw fun f => { f with self := true }).seq
    (.one (.emit (.firmware 6 (some s.fw.warden) [1]))))]

/-- A clock domain is gated (R438). -/
def State.gated (s : State) (d : Nat) : Bool :=
  if d < 64 then (s.rd .CLK_GATELO).toNat.testBit d else (s.rd .CLK_GATEHI).toNat.testBit (d - 64)

/-- A clock domain does not run: it is gated, its reference is absent, or a trip has stopped it (R429, R435,
R438). -/
def State.stopped (s : State) (d : Nat) : Bool :=
  let ref := (s.rd .CLK_REF).toNat
  s.gated d || (55 ≤ d && d < 79 && ref.testBit ((d - 55) / 4)) || ((d == 79 || d == 80) && ref.testBit 6) ||
  (decide (2 ≤ d) && s.boot.tripped)

/-! ### Counter sets (R403 to R408) -/

/-- The counter set of a cluster. -/
def setCluster (c : Nat) : Nat := c
/-- The counter set of a vector engine. -/
def setVec (c : Nat) : Nat := 32 + c
/-- The counter set of a Landing Unit. -/
def setLu (u : Nat) : Nat := 64 + u
/-- The counter set of a solver unit. -/
def setSu (u : Nat) : Nat := 68 + u
/-- The counter set of a vault. -/
def setVault (v : Nat) : Nat := 70 + v
/-- The counter set of a mover. -/
def setMover (m : Nat) : Nat := 86 + m
/-- The counter set of a fabric port. -/
def setPort (p : Nat) : Nat := 90 + p
/-- The counter set of a collective engine. -/
def setCe (n : Nat) : Nat := 114 + n
/-- The counter sets of the outer ports and the Ferry Engine. -/
def setFerry (i : Nat) : Nat := 118 + i

/-- The tag, class and channel that an occurrence has, for the filters of CNT_SEL (R407). -/
structure Tags where
  ltag : Option Nat := none
  cls  : Option Nat := none
  chan : Option Nat := none

/-- Whether a selection counts an occurrence (R405, R407); a filter is ignored where the set has none. -/
def selCounts (set ev : Nat) (t : Tags) (sel : Word) : Bool :=
  flagF Fld.CNT_SEL_EN sel && getF Fld.CNT_SEL_EVENT sel == ev &&
  (decide (64 ≤ set) || !flagF Fld.CNT_SEL_LTAGEN sel || t.ltag == some (getF Fld.CNT_SEL_LTAG sel)) &&
  (decide (set < 90) || decide (114 ≤ set) || !flagF Fld.CNT_SEL_CLSEN sel || t.cls == some (getF Fld.CNT_SEL_CLS sel)) &&
  (set != 120 || !flagF Fld.CNT_SEL_CHANEN sel || t.chan == some (getF Fld.CNT_SEL_CHAN sel))

/-- An occurrence counted in every counter of the set that selects it (R405). -/
def count (set ev : Nat) (n : Nat := 1) (t : Tags := {}) : Prog Unit :=
  Prog.each (List.range 8) fun i => .get fun s =>
    if selCounts set ev t (s.rd .CNT_SEL set i) then
      let v := (s.rd .CNT_VAL set i).toNat + n
      (wr .CNT_VAL (BitVec.ofNat 64 (v % 2 ^ 48)) set i).seq
        (Prog.when (decide (2 ^ 48 ≤ v)) (wr .CNT_OVF (s.rd .CNT_OVF set ||| BitVec.ofNat 64 (2 ^ (i + 1))) set))
    else .skip

/-- Whether a resource bit of a binding is set in its BND_UNITS register (R324). -/
def State.hasUnit (s : State) (b i : Nat) : Bool := (s.rd .BND_UNITS b).toNat.testBit i

/-- The binding that owns a cluster, if any (R318). -/
def State.ownerCl (s : State) (c : Nat) : Option Nat :=
  firstFrom (fun b => (s.rd .BND_CLMASK b).toNat.testBit c) 8 0

/-- The binding that owns the resource of a bit of BND_UNITS: Landing Units at 0 to 3, solver units at
4 and 5, collective engines at 6 to 9, movers at 10 to 13, outer ports at 14 and 15, the Ferry Engine at
16, fabric ports from 32 on (R314). -/
def State.ownerUnit (s : State) (i : Nat) : Option Nat := firstFrom (fun b => s.hasUnit b i) 8 0

/-- The binding that owns a channel. -/
def State.ownerCh (s : State) (ch : Nat) : Option Nat :=
  firstFrom (fun b => (s.rd .BND_CHMASK b).toNat.testBit ch) 8 0

end Sys2Proof.Machine
end

