-- ==== Sys2Proof/Machine/Mem.lean ====
section
/-!
DEFINITION. Sys2Proof/Machine/Mem.lean: sectors (R201 to R203), translation (R221 to R225), faults
(R236 to R238), compressed blocks (R206 to R213), and virtual reads and writes of a unit.
-/

namespace Sys2Proof.Machine

/-! ### Sectors -/

/-- Whether the mapping of full service is in force (R198); the vaults' states tell. -/
def State.fullMap (s : State) : Bool := s.rdF .MEM_STATUS Fld.MEM_STATUS_STATE 0 == 3

/-- The end of the stack under the mapping in force (R197, R198). -/
def State.stackEnd (s : State) : Nat := if s.fullMap then 0x4000000000 else 0x1000000000

/-- The vault of an address (R197, R198). -/
def State.vaultOf (s : State) (a : Nat) : Nat :=
  if s.fullMap then bits 14 11 a ^^^ bits 24 21 a else bits 12 11 a ^^^ bits 22 21 a

/-- The layer of an address (R197, R198). -/
def State.layerOf (s : State) (a : Nat) : Nat := if s.fullMap then bits 37 35 a else bits 35 33 a

/-- The error pattern of a sector. -/
def State.errOf (s : State) (sec : Nat) : List (Nat × Byte) := Tab.at [] s.err sec

/-- The metadata word of a sector as last written. -/
def State.metaOf (s : State) (sec : Nat) : BitVec 32 := Tab.at 0 s.mmeta sec

/-- The data bytes of a sector as stored, changed symbols and all. -/
def State.storedData (s : State) (sec : Nat) (e : List (Nat × Byte)) : List Byte :=
  (List.range 64).map fun i => s.byte (64 * sec + i) ^^^ errAt e i

/-- The metadata word of a sector as stored. -/
def State.storedMeta (s : State) (sec : Nat) (e : List (Nat × Byte)) : Nat :=
  leNat ((List.range 4).map fun i => BitVec.ofNat 8 ((s.metaOf sec).toNat / 256 ^ i) ^^^ errAt e (64 + i))

/-- A sector as a reader gets it. -/
structure SecRead where
  data   : List Byte
  mta    : Nat
  poison : Bool
deriving DecidableEq, Repr

/-- A vault reads a sector and disposes of it (R203); `scrub` says who met it (R219). -/
def secRead (sec : Nat) (scrub : Bool := false) : Prog SecRead :=
  .get fun s => (count (setVault (s.vaultOf (64 * sec))) 0x50).bind fun _ => .get fun s =>
  let e := s.errOf sec
  let v := s.vaultOf (64 * sec)
  match rsDecode e with
  | .intact =>
    let m := s.storedMeta sec e
    .ret ⟨s.storedData sec e, m, m.testBit 31⟩
  | .one i x =>
    let e' := errAdd e i x
    let m := s.storedMeta sec e'
    Prog.bind (bumpF .MEM_CECNT Fld.MEM_CECNT_COUNT 1 v) fun _ =>
    Prog.bind (wrF .MEM_ERRINFO Fld.MEM_ERRINFO_SYM i v) fun _ =>
    Prog.bind (.one (.setErr sec e')) fun _ =>
    .ret ⟨s.storedData sec e', m, m.testBit 31⟩
  | .bad =>
    Prog.bind (bumpF .MEM_UECNT Fld.MEM_UECNT_COUNT 1 v) fun _ =>
    Prog.bind (wrF .MEM_ERRADDR Fld.MEM_ERRADDR_ADDR (64 * sec) v) fun _ =>
    Prog.bind (wrF .MEM_ERRINFO Fld.MEM_ERRINFO_LAYER (s.layerOf (64 * sec)) v) fun _ =>
    Prog.bind (wrF .MEM_ERRINFO Fld.MEM_ERRINFO_SRC (if scrub then 1 else 0) v) fun _ =>
    Prog.bind (setF .MEM_ERR Fld.MEM_ERR_UE v) fun _ =>
    .ret ⟨s.storedData sec e, s.storedMeta sec e, true⟩

/-- The pattern an armed injection leaves in a sector on its next write, and the vault's answer (R219). -/
def inject (sec : Nat) : Prog Unit := .get fun s =>
  let v := s.vaultOf (64 * sec)
  let f := s.rd .MEM_INJ v
  if flagF Fld.MEM_INJ_ARM f && getF Fld.MEM_INJ_SECTOR f == sec then
    let e := errAdd [] (getF Fld.MEM_INJ_SYMA f) 0xFF
    let e := if flagF Fld.MEM_INJ_TWO f then errAdd e (getF Fld.MEM_INJ_SYMB f) 0xFF else e
    Prog.all [.one (.setErr sec e), wrF .MEM_INJ Fld.MEM_INJ_ARM 0 v, setF .MEM_ERR Fld.MEM_ERR_INJDONE v]
  else .one (.setErr sec [])

/-- A whole sector stored with its metadata (R202); one written in pilot service is noted as such (R198). -/
def secStore (sec : Nat) (data : List Byte) (mta : Nat) : Prog Unit := .get fun s =>
  Prog.all [Prog.when (!s.fullMap) (.one (.setPilot sec true)), count (setVault (s.vaultOf (64 * sec))) 0x51, wrBytes (64 * sec) data, .one (.setMeta sec (BitVec.ofNat 32 mta)), inject sec]

/-- The metadata word of a tag and a poison mark (R202). -/
def metaWord (tag : Nat) (poison : Bool) : Nat := tag % 2 ^ 31 + (if poison then 2 ^ 31 else 0)

/-- A vault writes bytes of a sector: whole, or merged into the sector as read (R202). -/
def secWrite (sec off : Nat) (data : List Byte) (poison : Bool) (tag : Nat := 0) : Prog Unit :=
  if off = 0 && data.length = 64 then secStore sec data (metaWord tag poison)
  else Prog.bind (secRead sec) fun r =>
    secStore sec (r.data.take off ++ data ++ r.data.drop (off + data.length))
      (metaWord r.mta (r.poison || poison))

/-! ### Physical access -/

/-- The parts of `n` bytes at `a` that lie in one piece of `size` bytes each: address and length. -/
def pieces (size : Nat) : Nat → Nat → Nat → List (Nat × Nat)
  | 0, _, _ => []
  | fuel + 1, a, n =>
    if n = 0 then [] else
    let k := min n (size - a % size)
    (a, k) :: pieces size fuel (a + k) (n - k)

/-- The pieces of an access, with enough fuel for each to hold one byte at least. -/
def piecesOf (size a n : Nat) : List (Nat × Nat) := pieces size (n / size + 2) a n

/-- Bytes read physically, each with the poison of its sector. -/
def physRead (a n : Nat) : Prog (List (Byte × Bool)) :=
  (Prog.mapM (piecesOf 64 a n) fun p =>
    (secRead (p.1 / 64)).bind fun r =>
      .ret (((r.data.drop (p.1 % 64)).take p.2).map fun b => (b, r.poison))).bind fun l => .ret l.flatten

/-- Bytes written physically, sector by sector; a sector that receives a poisoned byte is poisoned. -/
def physWrite (a : Nat) (d : List (Byte × Bool)) : Prog Unit :=
  Prog.each (piecesOf 64 a d.length) fun p =>
    let part := (d.drop (p.1 - a)).take p.2
    secWrite (p.1 / 64) (p.1 % 64) (part.map (·.1)) (part.any (·.2))

/-- Good bytes written physically. -/
def physPut (a : Nat) (d : List Byte) : Prog Unit := physWrite a (d.map fun b => (b, false))

/-! ### Units and faults -/

/-- Who makes an access: its translation unit (R228), its UNIT code (R237), its codec (R205), its binding
and whether it is a mover (R221). -/
structure Unit' where
  xu    : Nat
  uid   : Nat
  codec : Option Nat
  bnd   : Nat
  mover : Bool
deriving DecidableEq, Repr

/-- The kinds of access that permissions are checked against (R224). -/
inductive Acc where
  | read
  | write
  | exec
  | rmw
  /-- The loader places bytes of an image: it needs the address and no permission (R313; log 60). -/
  | place
deriving DecidableEq, Repr

/-- A fault met by an access (R236, R237). -/
structure Flt where
  kind   : Nat
  reason : Nat
  write  : Bool
  exec   : Bool
  walk   : Bool
  va     : Nat
  pa     : Nat
deriving DecidableEq, Repr

/-- A fault of an access kind. -/
def mkFlt (kind reason : Nat) (acc : Acc) (walk : Bool) (va pa : Nat) : Flt :=
  ⟨kind, reason, decide (acc = .write) || decide (acc = .rmw), decide (acc = .exec), walk, va, pa⟩

/-- The fault record of a unit (R237). -/
def faultRecord (u : Unit') (f : Flt) (step seq : Nat) : List Byte :=
  leBytes 32 (f.kind + f.reason * 2 ^ 4 + (if f.write then 2 ^ 12 else 0) + (if f.exec then 2 ^ 13 else 0)
    + (if f.walk then 2 ^ 14 else 0) + u.uid * 2 ^ 16 + u.bnd * 2 ^ 24 + f.va % 2 ^ 48 * 2 ^ 32
    + f.pa % 2 ^ 40 * 2 ^ 80 + step % 2 ^ 48 * 2 ^ 128 + seq * 2 ^ 192)

/-- The translation unit writes the record into the fault log and raises the fault event; a full or
disabled log drops the record (R238). Firmware takes a permission fault as a failure of the device (R325). -/
def logFault (u : Unit') (f : Flt) : Prog Unit := .get fun s =>
  let size := s.rdF .XLT_FLOG_SIZE Fld.XLT_FLOG_SIZE_SIZE
  let head := s.rdF .XLT_FLOG_HEAD Fld.XLT_FLOG_HEAD_HEAD
  let base := (s.rd .XLT_FLOG_BASE).toNat
  let room := decide (size ≠ 0) && decide ((head + 1) % size ≠ s.rdF .XLT_FLOG_READ Fld.XLT_FLOG_READ_READ)
  let rec' := faultRecord u f (s.binding u.bnd).step (s.fseq + 1)
  (if room then Prog.all [physPut (base + 32 * head) rec', .one (.setFseq (s.fseq + 1)),
      wrF .XLT_FLOG_HEAD Fld.XLT_FLOG_HEAD_HEAD ((head + 1) % size), setF .XLT_ERR Fld.XLT_ERR_FAULT u.xu]
    else bumpF .XLT_FLOG_LOST Fld.XLT_FLOG_LOST_COUNT).seq
    ((errEvent (.faultEvent u.uid)).seq (Prog.when (f.kind == 2) (selfFailure 2)))

/-! ### Translation -/

/-- Where a translated access goes. -/
inductive Dest where
  | stack
  | regs (off : Nat)
  | store (off : Nat)
deriving DecidableEq, Repr

/-- A translated address. -/
structure Tr where
  pa   : Nat
  dest : Dest
  cmp  : Bool
  cri  : Nat
deriving DecidableEq, Repr

/-- The lowest address bit that indexes a level (R222). -/
def lvlShift (lvl : Nat) : Nat :=
  match lvl with
  | 1 => 39
  | 2 => 30
  | 3 => 21
  | _ => 16

/-- The bytes of a table of a level (R222). -/
def tableSize (lvl : Nat) : Nat := if lvl = 4 then 256 else 4096

/-- The table index of an address at a level (R222). -/
def lvlIndex (lvl va : Nat) : Nat := va / 2 ^ lvlShift lvl % (if lvl = 4 then 32 else 512)

/-- PTE fields of R223. -/
def pteBit (i : Nat) (p : BitVec 64) : Bool := p.getLsbD i
/-- The physical address of an entry. -/
def ptePA (p : BitVec 64) : Nat := bits 39 12 p.toNat * 4096
/-- The compression region index of an entry. -/
def pteCRI (p : BitVec 64) : Nat := bits 61 52 p.toNat

/-- Whether a valid entry keeps the rules of R223. -/
def pteOk (lvl : Nat) (p : BitVec 64) : Bool :=
  let x := p.toNat
  let leaf := pteBit 1 p
  bits 11 7 x == 0 && bits 51 40 x == 0 && bits 63 62 x == 0 &&
  (if leaf then lvl != 1 && (pteBit 5 p || pteCRI p == 0) && ptePA p % 2 ^ lvlShift lvl == 0
   else lvl != 4 && bits 6 2 x == 0 && pteCRI p == 0)

/-- The entries a translation unit can cache (R228). -/
def cacheCap (x : Nat) : Nat := if x = 32 then 8192 else if x = 33 then 4096 else if x = 34 then 1024 else 2048

/-- A cached entry of a binding at a level for an address. -/
def cacheFind (l : List XEnt) (b lvl va : Nat) : Option (BitVec 64) :=
  (l.find? fun e => e.bnd == b && e.lvl == lvl && e.tag == va / 2 ^ lvlShift lvl).map (·.pte)

/-- The count of cached entries shown (R245). -/
def showCached (x n : Nat) : Prog Unit := wrF .XLT_STATUS Fld.XLT_STATUS_CACHED (min n 4095) x

/-- An entry with V = 1 enters the cache (R225); beyond the unit's entries the oldest leaves
(DESIGN CHOICE, log 7). -/
def cacheAdd (x b lvl va : Nat) (p : BitVec 64) : Prog Unit := .get fun s =>
  let l := (⟨b, lvl, va / 2 ^ lvlShift lvl, p⟩ :: s.cache x).take (cacheCap x)
  Prog.all [.one (.setXlt x l), showCached x l.length]

/-- The checks at a leaf (R221, R223, R224, R236). -/
def leafCheck (s : State) (u : Unit') (acc : Acc) (va lvl : Nat) (p : BitVec 64) : Except Flt Tr :=
  let base := ptePA p
  let pa := base + va % 2 ^ lvlShift lvl
  let r := pteBit 2 p
  let w := pteBit 3 p
  let allowed := match acc with
    | .read => r
    | .write => w
    | .exec => pteBit 4 p
    | .rmw => r && w
    | .place => true
  if pteBit 6 p then .error (mkFlt 4 0x30 acc false va pa)
  else if !allowed then .error (mkFlt 2 0x10 acc false va pa)
  else if base + 2 ^ lvlShift lvl ≤ s.stackEnd then .ok ⟨pa, .stack, pteBit 5 p, pteCRI p⟩
  else if 0xF000000000 ≤ pa && pa < 0xF004000000 then
    if u.mover then .ok ⟨pa, .regs (pa - 0xF000000000), false, 0⟩ else .error (mkFlt 2 0x13 acc false va pa)
  else if 0xF100000000 ≤ pa && pa < 0xF102000000 then
    if u.mover then .ok ⟨pa, .store (pa - 0xF100000000), false, 0⟩ else .error (mkFlt 2 0x13 acc false va pa)
  else .error (mkFlt 2 0x12 acc false va pa)

/-- The walk from a level's table down (R222 to R225); `rd` says that an entry has been read from
memory. -/
def walk (u : Unit') (acc : Acc) (va : Nat) : Nat → Nat → Nat → Bool → Prog (Except Flt Tr × Bool)
  | 0, _, _, rd => .ret (.error (mkFlt 2 0x11 acc true va 0), rd)
  | fuel + 1, lvl, table, rd => .get fun s =>
    let go (p : BitVec 64) (rd : Bool) : Prog (Except Flt Tr × Bool) :=
      if pteBit 1 p then .get fun s => .ret (leafCheck s u acc va lvl p, rd)
      else walk u acc va fuel (lvl + 1) (ptePA p) rd
    match cacheFind (s.cache u.xu) u.bnd lvl va with
    | some p => go p rd
    | none =>
      if table + tableSize lvl > s.stackEnd then .ret (.error (mkFlt 2 0x12 acc true va table), rd)
      else
        let a := table + 8 * lvlIndex lvl va
        (physRead a 8).bind fun d =>
        let p := BitVec.ofNat 64 (leNat (d.map (·.1)))
        if d.any (·.2) then .ret (.error (mkFlt 3 0x20 acc true va a), true)
        else if !pteBit 0 p then .ret (.error (mkFlt 1 lvl acc true va 0), true)
        else if !pteOk lvl p then .ret (.error (mkFlt 2 0x11 acc true va 0), true)
        else (cacheAdd u.xu u.bnd lvl va p).seq (go p true)

/-- A virtual address translated for a unit (R222 to R225). A root that is not valid faults every access, whatever
the unit has cached (R245). -/
def translate (u : Unit') (acc : Acc) (va : Nat) : Prog (Except Flt Tr) := .get fun s =>
  let c := s.cache u.xu
  let root := s.rd .XLT_ROOT u.xu u.bnd
  if !flagF Fld.XLT_ROOT_VALID root then .ret (.error (mkFlt 1 1 acc true va 0)) else
  let leaf := [4, 3, 2].findSome? fun lvl =>
    match cacheFind c u.bnd lvl va with
    | some p => if pteBit 1 p then some (lvl, p) else none
    | none => none
  match leaf with
  | some (lvl, p) => .ret (leafCheck s u acc va lvl p)
  | none =>
    (walk u acc va 4 1 (bits 39 12 root.toNat * 4096) false).bind fun r =>
      (Prog.when r.2 (bumpF .XLT_WALKCNT Fld.XLT_WALKCNT_COUNT 1 u.xu)).seq
        ((Prog.when (r.2 && decide (u.xu < 32)) (count (setCluster u.xu) 0x1D)).seq (.ret r.1))

/-! ### Compressed blocks -/

/-- A region table entry (R206). -/
structure Region where
  start  : Nat
  blocks : Nat
  base   : Nat
  bver   : Nat
  word   : Nat
  tcode  : Bool
  valid  : Bool
deriving DecidableEq, Repr

/-- The entry that 32 bytes hold. -/
def regionOf (l : List Byte) : Region :=
  let x := leNat l
  ⟨bits 47 0 x, bits 79 48 x, bits 127 80 x, bits 143 128 x, bits 145 144 x, x.testBit 146, x.testBit 147⟩

/-- Whether an entry may serve a block at an address (R206). -/
def Region.covers (r : Region) (x va : Nat) : Bool :=
  r.valid && r.word != 3 && decide (r.start % 2048 = 0) && decide (r.blocks ≠ 0) && decide (x / 2 ^ 148 = 0) &&
  decide (r.start ≤ va) && decide (va < r.start + 2048 * r.blocks)

/-- The base version that the region's blocks carry: 0 where it has no base (R208). -/
def Region.ver (r : Region) : Nat := if r.base = 0 then 0 else r.bver

/-- Bytes of a word of the difference stream (R206). -/
def Region.wbytes (r : Region) : Nat := 2 ^ r.word

/-- A plain read of a unit's virtual bytes, sector by sector; a compressed page is `onCmp`. -/
def plainRead (u : Unit') (va n : Nat) (onCmp : Nat → Nat → Flt) : Prog (Except Flt (List (Byte × Bool))) :=
  (Prog.mapE (piecesOf 2048 va n) fun p =>
    (translate u .read p.1).bindE fun t =>
      if t.cmp || decide (t.dest ≠ .stack) then .ret (.error (onCmp p.1 t.pa))
      else (physRead t.pa p.2).bind fun d => .ret (.ok d)).bindE fun l => .ret (.ok l.flatten)

/-- The region entry that a page's index names (R206). -/
def fetchRegion (u : Unit') (e cri va pa : Nat) (acc : Acc) : Prog (Except Flt Region) := .get fun s =>
  let bad := mkFlt 2 0x14 acc false va pa
  let count := min (s.rdF .MEM_CDC_CRTCOUNT Fld.MEM_CDC_CRTCOUNT_COUNT e) 1024
  if cri ≥ count then .ret (.error bad) else
  (plainRead u ((s.rd .MEM_CDC_CRTBASE e).toNat + 32 * cri) 32 fun v a => mkFlt 2 0x14 acc false v a).bindE fun d =>
  if d.any (·.2) then .ret (.error (mkFlt 3 0x20 acc false va pa)) else
  let r := regionOf (d.map (·.1))
  if r.covers (leNat (d.map (·.1))) va then .ret (.ok r) else .ret (.error bad)

/-- The base blocks a codec can keep (R214): a cluster's, 1 for each 32 lines of the window of each of its eight
arrays, taken together (DESIGN CHOICE, log 86). -/
def baseCap (s : State) (e : Nat) : Nat :=
  if e < 32 then 8 * (min (s.rdF .MEM_CDC_BWIN Fld.MEM_CDC_BWIN_BWLINES e) 1024 / 32) else 32

/-- The base block of a region's block, from the codec's window or cache, or from memory (R207, R214). -/
def baseBlock (u : Unit') (e : Nat) (r : Region) (va : Nat) : Prog (Except Flt (List (Byte × Bool))) := .get fun s =>
  if r.base = 0 then .ret (.ok (List.replicate 2048 (0, false))) else
  let a := r.base + 2048 * ((va - r.start) / 2048)
  let cap := baseCap s e
  match (s.cdc e).bases.find? (fun p => p.1 == a && p.2.1 == r.bver) with
  | some p =>
    (modCodec e fun c => { c with bases := p :: c.bases.filter (· != p) }).seq
      (.ret (.ok (p.2.2.map fun b => (b, false))))
  | none =>
    (plainRead u a 2048 fun v pa => mkFlt 2 0x15 .read false v pa).bindE fun d =>
    (Prog.when (!d.any (·.2)) (modCodec e fun c =>
      { c with bases := ((a, r.bver, d.map (·.1)) :: c.bases).take cap })).seq (.ret (.ok d))

/-- What an expander makes of a block (R213). -/
inductive Expanded where
  | data (l : List Byte)
  | poisoned
  | stale
deriving DecidableEq, Repr

/-- The bank that holds a table, current or retiring (R216). -/
def State.bankFor (s : State) (e tid : Nat) : Option Bank :=
  let st := s.rd .MEM_CDC_STATUS e
  let cur := getF Fld.MEM_CDC_STATUS_CURBANK st
  let c := s.cdc e
  let curB := if cur = 0 then c.bank0 else c.bank1
  let othB := if cur = 0 then c.bank1 else c.bank0
  match curB with
  | some b =>
    if flagF Fld.MEM_CDC_STATUS_CURVALID st && b.tid == tid then some b
    else if getF Fld.MEM_CDC_STATUS_OTHSTATE st == 3 then othB.filter (·.tid == tid) else none
  | none => if getF Fld.MEM_CDC_STATUS_OTHSTATE st == 3 then othB.filter (·.tid == tid) else none

/-- A coded stream decoded with a region's base, or none where it does not decode (R209, R213). -/
def decodeStream (bank : Option Bank) (width : Nat) (data : List Byte) : Option (List Byte) :=
  let st : Stream := ⟨leNat data, 8 * data.length⟩
  match bank with
  | none => (fixedDecode st (8 * width) (2048 / width / 16) 0).map (ofWords width)
  | some b => tableDecode (tabCodes b.table) st 2048 0

/-- An expander reads a block of a compressed page (R208, R213). -/
def expandBlock (u : Unit') (e : Nat) (r : Region) (va pa : Nat) : Prog (Except Flt Expanded) :=
  (secRead (pa / 64)).bind fun s0 =>
  let tag := s0.mta
  let nsec := bits 5 0 tag
  let tid := bits 9 6 tag
  let raw := tag.testBit 10
  let badTag := nsec == 0 || (29 ≤ nsec && nsec ≤ 31) || nsec > 32 || (nsec == 32 && !raw) || (nsec < 32 && raw)
  let n := if s0.poison || badTag then 1 else nsec
  (Prog.mapM ((List.range n).drop 1) fun i => secRead (pa / 64 + i)).bind fun rest =>
  let secs := s0 :: rest
  .get fun s =>
  if secs.any (·.poison) then .ret (.ok .poisoned)
  else if badTag then (setF .MEM_CDC_ERR Fld.MEM_CDC_ERR_DECODE_BAD e).seq (.ret (.ok .poisoned))
  else
    let data := secs.flatMap (·.data)
    if raw then .ret (.ok (.data data))
    else if bits 26 11 tag != r.ver then (setF .MEM_CDC_ERR Fld.MEM_CDC_ERR_BASEVER e).seq (.ret (.ok .poisoned))
    else
      let bank := s.bankFor e tid
      if tid != 15 && bank.isNone then
        Prog.bind (Prog.all [setF .MEM_CDC_ERR Fld.MEM_CDC_ERR_DECODE_STALE e,
          bumpF .MEM_CDC_STALECNT Fld.MEM_CDC_STALECNT_COUNT 1 e, .one (.emit (.refetch e va))]) fun _ => .ret (.ok .stale)
      else match decodeStream (if tid = 15 then none else bank) r.wbytes data with
        | none => (setF .MEM_CDC_ERR Fld.MEM_CDC_ERR_DECODE_BAD e).seq (.ret (.ok .poisoned))
        | some d => (baseBlock u e r va).bindE fun b =>
          if b.any (·.2) then .ret (.ok .poisoned) else .ret (.ok (.data (xorBytes d (b.map (·.1)))))

/-- A block coded for writing (R211): the coded bytes in whole sectors and the tag. A byte that the
table gives no code writes the block raw (DESIGN CHOICE, log 8). -/
def codeBlock (r : Region) (cur : Option Bank) (b base : List Byte) : List Byte × Nat :=
  let d := xorBytes b base
  let coded := match (if r.tcode then cur else none) with
    | some k => (tableCode k.table d).map fun c => (c, k.tid)
    | none => some (fixedCode (toWords r.wbytes d), 15)
  let rawRes := (b, 32 + 2 ^ 10)
  match coded with
  | none => rawRes
  | some (c, tid) =>
    let n := (c.len + 511) / 512
    if n > 28 then rawRes else (leBytes (64 * n) c.val, n + tid * 2 ^ 6 + r.ver * 2 ^ 11)

/-- A codec's current table (R216). -/
def State.curBank (s : State) (e : Nat) : Option Bank :=
  let st := s.rd .MEM_CDC_STATUS e
  if flagF Fld.MEM_CDC_STATUS_CURVALID st then
    (if getF Fld.MEM_CDC_STATUS_CURBANK st = 0 then (s.cdc e).bank0 else (s.cdc e).bank1) else none

/-- A compressor writes a whole block (R211). -/
def compressBlock (u : Unit') (e : Nat) (r : Region) (va pa : Nat) (b : List (Byte × Bool)) : Prog (Except Flt Unit) :=
  (baseBlock u e r va).bindE fun base => .get fun s =>
  let (out, tag) := codeBlock r (s.curBank e) (b.map (·.1)) (base.map (·.1))
  let poison := b.any (·.2) || base.any (·.2)
  Prog.bind (Prog.when (tag.testBit 10) (bumpF .MEM_CDC_RAWCNT Fld.MEM_CDC_RAWCNT_COUNT 1 e)) fun _ =>
  Prog.bind (Prog.each (List.range (out.length / 64)) fun i =>
    secWrite (pa / 64 + i) 0 ((out.drop (64 * i)).take 64) poison (if i = 0 then tag else 0)) fun _ => .ret (.ok ())

/-! ### Virtual access of a unit -/

/-- Whether an access waits for a block to be sent again (R217): no fault. -/
def Flt.isWait (f : Flt) : Bool := f.kind == 0

/-- A unit reads bytes: each with its poison (R203); a stale block makes the access wait (R217). -/
def vread (u : Unit') (va n : Nat) (acc : Acc := .read) : Prog (Except Flt (List (Byte × Bool))) :=
  (Prog.mapE (piecesOf 2048 va n) fun p =>
    (translate u acc p.1).bindE fun t =>
      match t.dest with
      | .stack =>
        if t.cmp then
          match u.codec with
          | none => .ret (.error (mkFlt 2 0x14 acc false p.1 t.pa))
          | some e =>
            let off := p.1 % 2048
            (fetchRegion u e t.cri (p.1 - off) (t.pa - off) acc).bindE fun r =>
            (expandBlock u e r (p.1 - off) (t.pa - off)).bindE fun x =>
              match x with
              | .data l => .ret (.ok (((l.drop off).take p.2).map fun b => (b, false)))
              | .poisoned => .ret (.ok (List.replicate p.2 (0, true)))
              | .stale => .ret (.error (mkFlt 0 0 acc false p.1 t.pa))
        else (physRead t.pa p.2).bind fun d => .ret (.ok d)
      | _ => .ret (.error (mkFlt 2 0x13 acc false p.1 t.pa))).bindE fun l => .ret (.ok l.flatten)

/-- A unit writes bytes, each with its poison; compressed pages take whole blocks only (R212). -/
def vwrite (u : Unit') (va : Nat) (d : List (Byte × Bool)) : Prog (Except Flt Unit) :=
  (Prog.mapE (piecesOf 2048 va d.length) fun p =>
    let part := (d.drop (p.1 - va)).take p.2
    (translate u .write p.1).bindE fun t =>
      match t.dest with
      | .stack =>
        if t.cmp then
          match u.codec with
          | none => .ret (.error (mkFlt 2 0x16 .write false p.1 t.pa))
          | some e =>
            if p.1 % 2048 != 0 || p.2 != 2048 then
              (setF .MEM_CDC_ERR Fld.MEM_CDC_ERR_PARTIAL e).seq (.ret (.error (mkFlt 2 0x16 .write false p.1 t.pa)))
            else (fetchRegion u e t.cri p.1 t.pa .write).bindE fun r => compressBlock u e r p.1 t.pa part
        else (physWrite t.pa part).seq (.ret (.ok ()))
      | _ => .ret (.error (mkFlt 2 0x13 .write false p.1 t.pa))).bindE fun _ => .ret (.ok ())

/-- The fault of a poisoned read, with the byte's address and its physical address (R236, R237). -/
def poisonAt (u : Unit') (acc : Acc) (va : Nat) : Prog Flt :=
  (translate u acc va).bind fun r =>
    match r with
    | .ok t => .ret (mkFlt 3 0x20 acc false va t.pa)
    | .error _ => .ret (mkFlt 3 0x20 acc false va 0)

/-- A unit reads good bytes; poison is a fault of kind poisoned (R236). -/
def vget (u : Unit') (va n : Nat) (acc : Acc := .read) : Prog (Except Flt (List Byte)) :=
  (vread u va n acc).bindE fun d =>
  match d.findIdx? (·.2) with
  | some i => (poisonAt u acc (va + i)).bind fun f => .ret (.error f)
  | none => .ret (.ok (d.map (·.1)))

/-- A unit writes good bytes. -/
def vput (u : Unit') (va : Nat) (d : List Byte) : Prog (Except Flt Unit) := vwrite u va (d.map fun b => (b, false))

/-! ### Gathered writes (R212) -/

/-- A piece of a write: its address, the place in the data of its first byte, and its bytes. -/
structure WPiece where
  va   : Nat
  off  : Nat
  data : List Byte
deriving DecidableEq, Repr

/-- Data laid over stretches of memory in order, cut at blocks of 2 KiB. -/
def cutRuns : List (Nat × Nat) → List Byte → Nat → List WPiece
  | [], _, _ => []
  | (a, n) :: r, d, off =>
    ((piecesOf 2048 a n).map fun p => ⟨p.1, off + (p.1 - a), (d.drop (p.1 - a)).take p.2⟩) ++ cutRuns r (d.drop n) (off + n)

/-- A block's bytes as some pieces leave them, later ones over earlier ones; none where one is left unwritten. -/
def coverBlock (l : List WPiece) : Option (List Byte) :=
  (List.range 2048).mapM fun i =>
    (l.reverse.find? fun p => decide (p.va % 2048 ≤ i) && decide (i < p.va % 2048 + p.data.length)).map fun p =>
      p.data.getD (i - p.va % 2048) 0

/-- The writing unit gathers each block (R212): pieces that together cover a whole block become one piece, at the
place of the first of them. -/
def gatherBlocks (l : List WPiece) : List WPiece :=
  l.filterMap fun p =>
    let mates := l.filter fun q => q.va / 2048 == p.va / 2048
    if p.data.length = 2048 ∧ mates.length = 1 then some p
    else if (mates.map fun q => q.data.length).foldl (· + ·) 0 < 2048 then some p
    else match coverBlock mates with
      | some d => if mates.head? = some p then some ⟨p.va / 2048 * 2048, p.off, d⟩ else none
      | none => some p

/-- Pieces written in order: the first that meets a fault, with its fault. -/
def scatterP (u : Unit') : List WPiece → Prog (Option (Flt × WPiece))
  | [] => .ret none
  | p :: r => (vput u p.va p.data).bind fun x =>
    match x with
    | .error f => .ret (some (f, p))
    | .ok _ => scatterP u r

/-- Data written over stretches of memory in order, each block gathered (R212). -/
def scatter (u : Unit') (runs : List (Nat × Nat)) (d : List Byte) : Prog (Except Flt Unit) :=
  (scatterP u (gatherBlocks (cutRuns runs d 0))).bind fun r =>
    match r with
    | some (f, _) => .ret (.error f)
    | none => .ret (.ok ())

/-- What a program would answer, with none of its effects. -/
def Prog.dry {α : Type} (p : Prog α) : Prog α := .get fun s => .ret (p.run s).1

end Sys2Proof.Machine
end

