-- ==== Sys2Proof/Machine/Lent.lean ====
section
/-!
DEFINITION. Sys2Proof/Machine/Lent.lean: the units that act for a binding, the causes of a Landing Unit
(R153, R154), the outcomes of a solver unit's block (R170, R172), and the units that clusters are lent to (R147, R160).
-/

namespace Sys2Proof.Machine

/-! ### Units (R228, R237) -/

/-- The sequencer and arrays of a cluster. -/
def seqUnit (s : State) (c : Nat) : Unit' := ⟨c, c, some c, (s.ownerCl c).getD 0, false⟩
/-- The vector engine of a cluster. -/
def vecUnit (s : State) (c : Nat) : Unit' := ⟨c, 0x20 + c, some c, (s.ownerCl c).getD 0, false⟩
/-- A Landing Unit. -/
def luUnit (s : State) (u : Nat) : Unit' := ⟨33, 0x40 + u, some (32 + u), (s.ownerUnit u).getD 0, false⟩
/-- A solver unit. -/
def suUnit (s : State) (u : Nat) : Unit' := ⟨33, 0x44 + u, none, (s.ownerUnit (4 + u)).getD 0, false⟩
/-- A mover. -/
def movUnit (s : State) (m : Nat) : Unit' := ⟨32, 0x48 + m, some (36 + m), (s.ownerUnit (10 + m)).getD 0, true⟩
/-- A collective engine. -/
def ceUnit (s : State) (n : Nat) : Unit' := ⟨32, 0x4C + n, none, (s.ownerUnit (6 + n)).getD 0, false⟩
/-- The Ferry Engine, for a binding. -/
def ferryUnit (b : Nat) : Unit' := ⟨34, 0x50, none, b, false⟩
/-- A peer access served by a mover, for a binding. -/
def peerUnit (m b : Nat) : Unit' := ⟨32, 0x58 + m, some (36 + m), b, false⟩

/-! ### Landing Units -/

/-- The bits of R153. -/
inductive Cause where
  | nonfin
  | absurd
  | dup
  | table
  | fault
  | poison
  | lenterr
  | interrupt
  | forced
deriving DecidableEq, Repr

/-- The LND_ERR bit of a cause (R153). -/
def Cause.bit : Cause → Nat
  | .nonfin => 0
  | .absurd => 1
  | .dup => 2
  | .table => 3
  | .fault => 4
  | .poison => 5
  | .lenterr => 6
  | .interrupt => 7
  | .forced => 8

/-- LND_ERRIDX where the cause concerns no element (R154). -/
def noElement : Nat := 0xFFFFFFFF

/-- A Landing Unit casts its skip vote (R154). -/
def voteSkip (u : Nat) : Prog Unit := .get fun s =>
  if s.rdF .LND_STATUS Fld.LND_STATUS_VOTED u == 1 then .skip
  else Prog.all [setF .LND_STATUS Fld.LND_STATUS_VOTED u, wrF .LND_STATUS Fld.LND_STATUS_VOTE 0 u,
    wrF .LND_STATUS Fld.LND_STATUS_STATE 4 u, bumpF .LND_SKIPCNT Fld.LND_SKIPCNT_COUNT 1 u]

/-- A cause for skip in a Landing Unit (R154): the first of a step is recorded and votes. -/
def luCause (u : Nat) (cause : Cause) (entry idx : Nat) : Prog Unit := .get fun s =>
  (wr .LND_ERR (s.rd .LND_ERR u ||| BitVec.ofNat 64 (2 ^ cause.bit)) u).seq
    (if (s.landing u).caused then .skip
     else Prog.all [modLu u fun k => { k with caused := true }, wrF .LND_ERRENT Fld.LND_ERRENT_ENTRY entry u,
       setF .LND_ERRENT Fld.LND_ERRENT_VALID u, wr .LND_ERRIDX (BitVec.ofNat 64 idx) u, voteSkip u])

/-- A fault or poisoned read of a Landing Unit as a cause (R153, R155); it is recorded like any fault. -/
def luFault (u : Nat) (f : Flt) (entry idx : Nat) : Prog Unit := .get fun s =>
  (logFault (luUnit s u) f).seq (luCause u (if f.kind = 3 then .poison else .fault) entry idx)

/-! ### Solver units -/

/-- An entry of the root table changed by its unit (R162); a fault is reported (R174). -/
def suEntryMod (u i : Nat) (f : Nat → Nat) : Prog Unit := .get fun s =>
  let un := suUnit s u
  let a := (s.rdF .SLV_RTAB_BASE Fld.SLV_RTAB_BASE_BASE u) / 128 * 128 + 128 * i
  ((vget un a 128).bindE fun d => vput un a (leBytes 128 (f (leNat d)))).bind fun r =>
    match r with
    | .ok _ => .skip
    | .error e => (setF .SLV_ERR Fld.SLV_ERR_FAULT u).seq (logFault un e)

/-- The counter and the event of an outcome (R170, R172). -/
def suCount (u code : Nat) : Prog Unit :=
  if code = 4 then (bumpF .SLV_ACCEPTCNT Fld.SLV_ACCEPTCNT_COUNT 1 u).seq (setF .SLV_EVT Fld.SLV_EVT_DL_ACCEPT u)
  else if code = 5 then (bumpF .SLV_STALECNT Fld.SLV_STALECNT_COUNT 1 u).seq (setF .SLV_EVT Fld.SLV_EVT_DL_STALE u)
  else if code = 6 then (bumpF .SLV_ABANDONCNT Fld.SLV_ABANDONCNT_COUNT 1 u).seq (setF .SLV_EVT Fld.SLV_EVT_DL_ABANDON u)
  else if code = 7 then bumpF .SLV_FAILCNT Fld.SLV_FAILCNT_COUNT 1 u
  else if code = 0 then bumpF .SLV_STALECNT Fld.SLV_STALECNT_COUNT 1 u
  else .skip

/-- STATE of a unit that its work in hand gives (R182). -/
def Su.shown (k : Su) : Nat :=
  match k.job, k.round with
  | some j, _ => if j.phase = .waiting then 5 else 4
  | none, some r => if r.stage = 1 then 2 else if r.stage = 2 then 3 else 1
  | none, none => 1

/-- A unit that is neither stopped nor unbound shows its work in hand (R182). -/
def suFree (u : Nat) : Prog Unit := .get fun s =>
  let st := s.rdF .SLV_STATUS Fld.SLV_STATUS_STATE u
  Prog.when (decide (1 ≤ st) && decide (st ≤ 5)) (wrF .SLV_STATUS Fld.SLV_STATUS_STATE (s.solver u).shown u)

/-- The outcome of the block in work is fixed: it is recorded in its entry and counted, and the next
entry follows (R163, R170). -/
def suOutcome (u code : Nat) : Prog Unit := .get fun s =>
  match (s.solver u).round with
  | none => .skip
  | some r => Prog.all [
      suEntryMod u r.cur fun x => putBits 591 576 (putBits 563 560 (putBits 559 528 x r.number) code) r.iters,
      suCount u code,
      modSu u fun k => { k with round := k.round.map fun r =>
        { r with
          blocks := Tab.upd SuBlock.init r.blocks r.cur { Tab.at SuBlock.init r.blocks r.cur with outcome := some code }
          cur := r.cur + 1
          stage := 0
          iters := 0
          warm := false
          formed := false
          reading := none
          copy := none } },
      suFree u]

/-! ### Lent clusters -/

/-- The Landing Unit that a cluster is lent to (R147). -/
def State.lentLu (s : State) (c : Nat) : Option Nat :=
  firstFrom (fun u => s.rdF .LND_LENT Fld.LND_LENT_VALID u == 1 && s.rdF .LND_LENT Fld.LND_LENT_CLUSTER u == c) 4 0

/-- The solver unit that a cluster is lent to (R160). -/
def State.lentSu (s : State) (c : Nat) : Option Nat :=
  firstFrom (fun u => (s.rd .SLV_LENT u).toNat.testBit c) 2 0

end Sys2Proof.Machine
end

