-- ==== Sys2Proof/Machine/Posted.lean ====
section
/-!
DEFINITION. Sys2Proof/Machine/Posted.lean: posted writes (R310).
-/

namespace Sys2Proof.Machine

/-- A register bit of a block. -/
structure RBit where
  reg : RegName
  fld : Field
  idx : Nat
deriving DecidableEq, Repr

/-- The WBUSY bit of a block (R310). -/
def busyBit : PwBlock → RBit
  | .slv s => ⟨.SLV_STATUS, Fld.SLV_STATUS_WBUSY, s⟩
  | .mem v => ⟨.MEM_STATUS, Fld.MEM_STATUS_WBUSY, v⟩
  | .cdc e => ⟨.MEM_CDC_STATUS, Fld.MEM_CDC_STATUS_WBUSY, e⟩
  | .xlt x => ⟨.XLT_STATUS, Fld.XLT_STATUS_WBUSY, x⟩
  | .xltAll => ⟨.XLT_GSTATUS, Fld.XLT_GSTATUS_WBUSY, 0⟩
  | .mov m => ⟨.MOV_STATUS, Fld.MOV_STATUS_WBUSY, m⟩
  | .horn => ⟨.FAB_HORN_STATUS, Fld.FAB_HORN_STATUS_WBUSY, 0⟩
  | .fry => ⟨.FRY_STATUS, Fld.FRY_STATUS_WBUSY, 0⟩
  | .chan c => ⟨.FRY_CH_STATUS, Fld.FRY_CH_STATUS_WBUSY, c⟩
  | .bnd => ⟨.BND_STATUS, Fld.BND_STATUS_WBUSY, 0⟩
  | .sec => ⟨.SEC_STATUS, Fld.SEC_STATUS_WBUSY, 0⟩
  | .jnl => ⟨.JNL_STATUS, Fld.JNL_STATUS_WBUSY, 0⟩
  | .hci => ⟨.HCI_STATUS, Fld.HCI_STATUS_WBUSY, 0⟩
  | .smp c => ⟨.SMP_HEAD, Fld.SMP_HEAD_WBUSY, c⟩
  | .tel => ⟨.TEL_STATUS, Fld.TEL_STATUS_WBUSY, 0⟩
  | .clk => ⟨.CLK_STATUS, Fld.CLK_STATUS_WBUSY, 0⟩

/-- The WLOST bit of a block (R310). -/
def lostBit : PwBlock → RBit
  | .slv s => ⟨.SLV_ERR, Fld.SLV_ERR_WLOST, s⟩
  | .mem v => ⟨.MEM_ERR, Fld.MEM_ERR_WLOST, v⟩
  | .cdc e => ⟨.MEM_CDC_ERR, Fld.MEM_CDC_ERR_WLOST, e⟩
  | .xlt x => ⟨.XLT_ERR, Fld.XLT_ERR_WLOST, x⟩
  | .xltAll => ⟨.XLT_GSTATUS, Fld.XLT_GSTATUS_WLOST, 0⟩
  | .mov m => ⟨.MOV_ERR, Fld.MOV_ERR_WLOST, m⟩
  | .horn => ⟨.FAB_HORN_ERR, Fld.FAB_HORN_ERR_WLOST, 0⟩
  | .fry => ⟨.FRY_ERR, Fld.FRY_ERR_WLOST, 0⟩
  | .chan c => ⟨.FRY_CH_ERR, Fld.FRY_CH_ERR_WLOST, c⟩
  | .bnd => ⟨.BND_ERR, Fld.BND_ERR_WLOST, 0⟩
  | .sec => ⟨.SEC_ERR, Fld.SEC_ERR_WLOST, 0⟩
  | .jnl => ⟨.JNL_ERR, Fld.JNL_ERR_WLOST, 0⟩
  | .hci => ⟨.HCI_ERR, Fld.HCI_ERR_WLOST, 0⟩
  | .smp c => ⟨.SMP_ERR, Fld.SMP_ERR_WLOST, c⟩
  | .tel => ⟨.TEL_ERR, Fld.TEL_ERR_WLOST, 0⟩
  | .clk => ⟨.CLK_ERR, Fld.CLK_ERR_WLOST, 0⟩

/-- The counter set in which a dropped write of a block counts, where one is named (R403, R408). -/
def lostSet : PwBlock → Option Nat
  | .slv s => some (setSu s)
  | .mem v => some (setVault v)
  | .cdc e => some (if (e : Nat) < 32 then setCluster e else if (e : Nat) < 36 then setLu (e - 32) else setMover (e - 36))
  | .xlt x => if (x : Nat) < 32 then some (setCluster x) else none
  | .mov m => some (setMover m)
  | .horn => some (setPort 0)
  | .fry => some (setFerry 2)
  | .chan _ => some (setFerry 2)
  | .smp c => some (setCluster c)
  | _ => none

/-- Whether a posted write of a block is in progress. -/
def State.wbusy (s : State) (b : PwBlock) : Bool := s.rdF (busyBit b).reg (busyBit b).fld (busyBit b).idx == 1

/-- WBUSY set or cleared. -/
def setBusy (b : PwBlock) (on : Bool) : Prog Unit := wrF (busyBit b).reg (busyBit b).fld (if on then 1 else 0) (busyBit b).idx

/-- A posted write dropped (R310). -/
def dropWrite (b : PwBlock) : Prog Unit :=
  (setF (lostBit b).reg (lostBit b).fld (lostBit b).idx).seq
    (match lostSet b with
      | some n => count n 0x03
      | none => .skip)

/-- A posted write: dropped while another is in progress, otherwise accepted; WBUSY is 1 until it has taken
effect (R310). -/
def posted (b : PwBlock) (accept : Prog Unit) : Prog Unit := .get fun s =>
  if s.wbusy b then dropWrite b else (setBusy b true).seq accept

/-- POSTED_WRITE_TAKES_EFFECT: WBUSY returns to 0 (R310). An invalidation takes effect at INVALIDATION_DONE
and not here (R226); a frequency, once no voltage raise holds it back (R437). -/
def execPostedWriteTakesEffect (blk : PwBlock) (s : State) : Host.Outcome State Fault Refusal :=
  (match blk with
    | .xlt _ => Prog.skip
    | .xltAll => Prog.get fun s => if s.invAll then .skip else setBusy .xltAll false
    | .clk => Prog.get fun s =>
      if s.tel.write.any fun c => s.rdF .CLK_CLSTAT Fld.CLK_CLSTAT_VWAIT c == 1 then .skip
      else (setBusy .clk false).seq (modTel fun t => { t with write := none })
    | b => setBusy b false).next s

end Sys2Proof.Machine
end

