-- ==== Sys2Proof/Machine/JnlBase.lean ====
section
/-!
DEFINITION. Sys2Proof/Machine/JnlBase.lean: the stages of the bring-up and the persistent settings that it takes (R372 to
R376, R382), records handed to the journal engine (R382, R383) and counter reservations (R284).
-/

namespace Sys2Proof.Machine

/-- JNL_STATUS.STATE. -/
def State.jnlState (s : State) : Nat := s.rdF .JNL_STATUS Fld.JNL_STATUS_STATE

/-- STAGE changes; ELAPSED is held at the change, and the time is free (R387; log 2). -/
def setStage (x : Nat) : Prog Unit := freeVal.bind fun v =>
  (wrF .JNL_BRINGUP Fld.JNL_BRINGUP_STAGE x).seq (wrF .JNL_BRINGUP Fld.JNL_BRINGUP_ELAPSED v.toNat)

/-- JNL_BRINGUP.STAGE. -/
def State.stage (s : State) : Nat := s.rdF .JNL_BRINGUP Fld.JNL_BRINGUP_STAGE

/-- The body of a persistent setting, if the journal holds one (R382). -/
def State.setting (s : State) (i : Nat) : Option (List Byte) :=
  (s.fw.settings.find? fun e => e.1 == (Config.settingKey i).toNat).map (·.2)

/-- The four pilot ports: those of PILOTPORTS, else F00 to F03 (R374). -/
def State.pilotPorts (s : State) : List Nat :=
  match s.setting 0 with
  | none => [0, 1, 2, 3]
  | some d => (List.range 4).map fun i => Config.settingNat d i % 24

/-- The positions of the warden candidates, up to 8, in order (R327). -/
def State.wardens (s : State) : List Nat :=
  match s.setting 3 with
  | none => []
  | some d => (List.range (min 8 (Config.settingNat d 0))).map fun i => Config.settingNat d (i + 1)

/-- The work of R376 begins in pilot service: STAGE is FULLPREP, and the outer ports come up as FRY_PCFG stands in the
persistent settings. -/
def beginFull : Prog Unit := .get fun s => Prog.when (s.stage == 4) <| Prog.all [
  setStage 5,
  Prog.each (List.range 2) fun x => match s.setting 1 with
    | none => .skip
    | some d => Prog.all [
        wr .FRY_PCFG (BitVec.ofNat 64 (Config.settingNat d x) &&& regMask .FRY_PCFG) x,
        Prog.get fun t => Prog.when (t.rdF .FRY_PCFG Fld.FRY_PCFG_EN x == 1 && !t.stopped (79 + x))
          (wrF .FRY_PSTATUS Fld.FRY_PSTATUS_STATE 1 x)]]

/-- A record is handed to the journal engine; a journal that refuses acknowledges no new record (R383, R386). -/
def jnlHand (r : JReq) : Prog Unit := .get fun s =>
  (modJnl fun j => { j with queue := j.queue ++ [r] }).seq
    (Prog.when (r.typ == 4 && s.jnlState == 4) (setF .FRY_ERR Fld.FRY_ERR_IVJNL))

/-- The key of an IVRES record (R382). -/
def ivKey (chan epoch : Nat) : Nat := chan + epoch * 2 ^ 16

/-- The reservation record of a counter block is handed over (R284). -/
def reserveBlock (chan epoch b : Nat) : Prog Unit := jnlHand ⟨4, ivKey chan epoch, false, leBytes 8 b, false⟩

/-- The highest reserved block of a pair. -/
def State.reservedBlock (s : State) (chan epoch : Nat) : Option Nat :=
  (s.jnl.ivres.find? fun e => e.1 == (chan, epoch)).map (·.2)

/-- Whether the journal holds a reservation record for a block (R284). -/
def State.hasBlock (s : State) (chan epoch b : Nat) : Bool :=
  match s.reservedBlock chan epoch with
  | some h => decide (b ≤ h)
  | none => false

/-- A reservation is on record; the highest block of a pair is kept. -/
def noteBlock (l : List ((Nat × Nat) × Nat)) (p : Nat × Nat) (b : Nat) : List ((Nat × Nat) × Nat) :=
  match l.find? fun e => e.1 == p with
  | some e => if b ≤ e.2 then l else l.map fun x => if x.1 == p then (p, b) else x
  | none => l ++ [(p, b)]

end Sys2Proof.Machine
end

