-- ==== Sys2Proof/Machine/Fabric.lean ====
section
/-!
DEFINITION. Sys2Proof/Machine/Fabric.lean: coordinates and routing (R250 to R258), the link layer (R247 to
R249), and the sending and the checks of packets (R252 to R254).
-/

namespace Sys2Proof.Machine

/-! ### Coordinates (R250, R251) -/

/-- Whether the arrangement is the two-dimensional one. -/
def State.flat (s : State) : Bool := s.rdF .FAB_COORD Fld.FAB_COORD_ARR == 2

/-- The number of dimensions of the arrangement. -/
def State.ndim (s : State) : Nat := if s.flat then 2 else 3

/-- The size of a dimension; one that is not set counts as 1. -/
def State.dimSize (s : State) (d : Nat) : Nat :=
  max 1 (s.rdF .FAB_DIMS (match d with
    | 0 => Fld.FAB_DIMS_DX
    | 1 => Fld.FAB_DIMS_DY
    | _ => Fld.FAB_DIMS_DZ))

/-- A coordinate's place in a dimension. -/
def State.coord (s : State) (p d : Nat) : Nat :=
  if s.flat then (if d = 0 then bits 7 0 p else bits 14 8 p)
  else match d with
    | 0 => bits 4 0 p
    | 1 => bits 9 5 p
    | _ => bits 14 10 p

/-- A coordinate with its place in one dimension replaced. -/
def State.setCoord (s : State) (p d x : Nat) : Nat :=
  if s.flat then (if d = 0 then putBits 7 0 p x else putBits 14 8 p x)
  else match d with
    | 0 => putBits 4 0 p x
    | 1 => putBits 9 5 p x
    | _ => putBits 14 10 p x

/-- The device's own physical and logical coordinates. -/
def State.ownPhys (s : State) : Nat := s.rdF .FAB_COORD Fld.FAB_COORD_PHYS
/-- The device's own logical coordinate. -/
def State.ownLog (s : State) : Nat := s.rdF .FAB_COORD Fld.FAB_COORD_LOG

/-- Whether a physical position is marked down. -/
def State.isDown (s : State) (p : Nat) : Bool := (s.rd .FAB_PDOWN (p / 64)).toNat.testBit (p % 64)

/-- The position one hop away in a dimension. -/
def State.neighbour (s : State) (p d : Nat) (plus : Bool) : Nat :=
  let n := s.dimSize d
  s.setCoord p d ((s.coord p d + (if plus then 1 else n - 1)) % n)

/-- The ports of a direction's bundle. -/
def State.bundle (s : State) (d : Nat) (plus : Bool) : List Nat :=
  (List.range 24).filter fun p => s.rdF .FAB_PCFG Fld.FAB_PCFG_EN p == 1 &&
    s.rdF .FAB_PCFG Fld.FAB_PCFG_DIR p == 2 * d + (if plus then 0 else 1)

/-- Whether a port carries flits: UP, or at a quarter in pilot service (R247, R273). -/
def State.portUp (s : State) (p : Nat) : Bool := decide (2 ≤ s.rdF .FAB_PSTATUS Fld.FAB_PSTATUS_STATE p)

/-- The bundle's UP ports. -/
def State.upPorts (s : State) (d : Nat) (plus : Bool) : List Nat := (s.bundle d plus).filter s.portUp

/-- The bundle's designated horn port, or its lowest port where none is designated. -/
def State.hornPort (s : State) (d : Nat) (plus : Bool) : Nat :=
  let b := s.bundle d plus
  ((b.find? fun p => s.rdF .FAB_PCFG Fld.FAB_PCFG_HORNP p == 1) <|> b.head?).getD 0

/-! ### Routing (R256 to R258) -/

/-- A hop: dimension and direction. -/
structure Hop where
  dim  : Nat
  plus : Bool
deriving DecidableEq, Repr

/-- The next hop of dimension order, the shorter way round, ties toward + (R256). -/
def State.nextHop (s : State) (own dst : Nat) : Option Hop :=
  (List.range s.ndim).findSome? fun d =>
    let n := s.dimSize d
    let f := (s.coord dst d + n - s.coord own d % n) % n
    if f = 0 then none else some ⟨d, decide (f ≤ n - f)⟩

/-- The dimension after another in the cycle of a detour (R258). -/
def State.sideOf (s : State) (d : Nat) : Nat := (d + 1) % s.ndim

/-- Whether a hop is blocked: no UP port, or the next position is down (R258). -/
def State.blocked (s : State) (own : Nat) (h : Hop) : Bool :=
  (s.upPorts h.dim h.plus).isEmpty || s.isDown (s.neighbour own h.dim h.plus)

/-- What routing makes of a packet. -/
inductive Route where
  /-- It leaves by a hop with this detour state; the flag says that the detour begins here. -/
  | go (h : Hop) (det : Detour) (begins : Bool)
  /-- Its destination position is down, met at this hop. -/
  | dropDown (h : Hop)
  /-- A second blocked hop. -/
  | dropNr (h : Hop)
  /-- It is at its destination. -/
  | here
deriving DecidableEq, Repr

/-- A dimension number as an operand of a detour. -/
def dim3 (d : Nat) : Fin 3 := ⟨d % 3, Nat.mod_lt _ (by decide)⟩

/-- Whether a hop from a position crosses the wrap-around link of its dimension (R257). -/
def State.wraps (s : State) (own : Nat) (h : Hop) : Bool :=
  if h.plus then s.coord own h.dim + 1 == s.dimSize h.dim else s.coord own h.dim == 0

/-- Whether a packet came on channel 1 in a dimension (R257). -/
def State.onOne (s : State) (p : Packet) (d : Nat) : Bool :=
  match p.port with
  | some q => s.rdF .FAB_PCFG Fld.FAB_PCFG_DIR q / 2 == d && p.vc
  | none => false

/-- The route of a packet at a position (R256, R258). -/
def State.route (s : State) (own : Nat) (p : Packet) : Route :=
  let dst := p.phys.toNat
  let try' (h : Hop) (det : Detour) : Route :=
    let next := s.neighbour own h.dim h.plus
    if s.isDown next && next == dst then .dropDown h
    else if s.blocked own h then .dropNr h
    else .go h det false
  match p.det with
  | .across d plus side ch => try' ⟨d, plus⟩ (.back side d (ch || s.wraps own ⟨d, plus⟩))
  | .back side d ch => try' ⟨side, false⟩ (.after d ch)
  | det =>
    match s.nextHop own dst with
    | none => .here
    | some h =>
      let next := s.neighbour own h.dim h.plus
      if s.isDown next && next == dst then .dropDown h
      else if !s.blocked own h then .go h (if det == .fresh then .fresh else .used) false
      else if det != .fresh then .dropNr h
      else
        let side := s.sideOf h.dim
        if s.blocked own ⟨side, true⟩ then .dropNr ⟨side, true⟩
        else .go ⟨side, true⟩ (.across (dim3 h.dim) h.plus (dim3 side) (s.onOne p h.dim)) true

/-- The virtual channel of a packet on a hop (R257): channel 1 on a detour, and from a dimension's wrap-around link on
until it turns into the next dimension; a detour is no turn. -/
def State.channelOf (s : State) (own : Nat) (p : Packet) (h : Hop) (det : Detour) : Bool :=
  s.wraps own h ||
  match p.det, det with
  | .fresh, .across .. => true
  | .across .., _ => true
  | .back .., _ => true
  | .after d ch, _ => d.val == h.dim && ch
  | _, _ => s.onOne p h.dim

/-! ### Sending -/

/-- The flits of a packet (R252). -/
def flitsOf (p : Packet) : Nat := (32 + p.payload.length + 255) / 256

/-- The link tag's class of a packet (R248). -/
def clsTag (p : Packet) : Tags := { cls := some p.cls.toNat }

/-- The longest horn queue residence so far: time, which the model leaves free (R262, log 21). -/
def hornResidence (q : Nat) : Prog Unit := freeVal.bind fun v => .get fun s =>
  wrF .FAB_HORNRES Fld.FAB_HORNRES_QMAX (max (s.rdF .FAB_HORNRES Fld.FAB_HORNRES_QMAX q) (v.toNat % 2 ^ 32)) q

/-- Flits of a packet have left the receive buffer that they came into: their credits go back (R248). -/
def creditBack (p : Packet) (n : Nat) : Prog Unit :=
  match p.port with
  | some q => .one (.emit (.credit q p.cls p.vc n))
  | none => .skip

/-- Where a flit came in: its port, or 24 for the device itself (R260). -/
def EgressFlit.ingress (f : EgressFlit) : Nat :=
  match f.came.port with
  | some q => q
  | none => 24

/-- The key of a class and virtual channel. -/
def creditKey (p : Packet) : Nat := 2 * p.cls.toNat + p.vc.toNat

/-- Credits in use of a class, on both channels. -/
def Port.usedOf (k : Port) (cls : Nat) : Nat := Tab.at 0 k.used (2 * cls) + Tab.at 0 k.used (2 * cls + 1)

/-- Whether a flit has a credit (R248). -/
def Port.credit (k : Port) (p : Packet) : Bool :=
  decide (Tab.at 0 k.used (creditKey p) < Config.flitCredits p.cls.toNat p.vc + 1)

/-- The first flit of a class that has a credit. -/
def Port.headOf (k : Port) (cls : Nat) : Option EgressFlit :=
  k.queue.find? fun f => f.pkt.cls.toNat == cls && k.credit f.pkt

/-- The horn message that is served next: one from each ingress in turn (R260). -/
def Port.hornHead (k : Port) : Option EgressFlit :=
  (List.range 25).findSome? fun i => k.queue.find? fun f =>
    f.pkt.cls == 0 && f.ingress == (k.served + 1 + i) % 25 && k.credit f.pkt

/-- The weight of a class; 0 counts as 1 (R255). -/
def State.weight (s : State) (q cls : Nat) : Nat := max 1 (s.rdF .FAB_ARB (match cls with
  | 1 => Fld.FAB_ARB_W1
  | 2 => Fld.FAB_ARB_W2
  | _ => Fld.FAB_ARB_W3) q)

/-- The flit that leaves next, and whose turn it then is: a horn message before all, then the classes in weighted round
robin, each giving up its turn where it has nothing to send or no credit (R255). -/
def Port.pick (k : Port) (w : Nat → Nat) : Option (EgressFlit × (Nat × Nat)) :=
  match k.hornHead with
  | some f => some (f, k.turn)
  | none =>
    match (if k.turn.2 = 0 then none else k.headOf k.turn.1) with
    | some f => some (f, (k.turn.1, k.turn.2 - 1))
    | none => (List.range 3).findSome? fun i =>
      let c := (k.turn.1 + i) % 3 + 1
      (k.headOf c).map fun f => (f, (c, w c - 1))

/-- The link layer after a flit has left: it is kept until it is acknowledged, uses a credit, and a horn message is kept
by the horn engine too and draws its length in tokens where it starts here (R248, R259, R260). -/
def Port.sent (k : Port) (f : EgressFlit) (turn : Nat × Nat) : Port :=
  let horn := f.pkt.cls == 0
  { k with
    tx := k.tx + 1
    unacked := k.unacked ++ [⟨k.tx, f, 0⟩]
    queue := k.queue.erase f
    used := Tab.upd 0 k.used (creditKey f.pkt) (Tab.at 0 k.used (creditKey f.pkt) + 1)
    turn := turn
    served := if horn then f.ingress else k.served
    tokens := if horn && f.came.port.isNone then k.tokens - (32 + f.pkt.payload.length) else k.tokens
    copies := if horn then k.copies ++ [⟨k.tx, f, 0⟩] else k.copies }

/-- A flit leaves a port (R248, R255). -/
def sendFlit (q : Nat) (f : EgressFlit) (turn : Nat × Nat) : Prog Unit := Prog.all [
  modPort q fun k => k.sent f turn,
  count (setPort q) 0x70 1 (clsTag f.pkt),
  creditBack f.came 1,
  Prog.when (decide (f.part = 0)) (.one (.emit (.send q f.pkt))),
  Prog.when (f.pkt.cls == 0) ((count (setPort 0) 0x75).seq (hornResidence q))]

/-- The flits that may leave a port do, in the order of the arbitration: while the link is up, the replay buffer has room
and there are credits (R248, R255). -/
def pump (q : Nat) : Nat → Prog Unit
  | 0 => .skip
  | n + 1 => .get fun s =>
    if !s.portUp q || decide (256 ≤ (s.link q).unacked.length) then .skip
    else match (s.link q).pick (s.weight q) with
      | none => .skip
      | some (f, t) => (sendFlit q f t).seq (pump q n)

/-- Types that firmware may send: FLAG, HEARTBEAT, LEAD, KEY, FAILDECL and PING (R259). -/
def fwType (t : Nat) : Bool := t == 4 || (decide (6 ≤ t) && decide (t ≤ 0x0A))

/-- Firmware's messages that wait in the ports' queues (R273). -/
def State.txPend (s : State) : Nat := ((List.range 24).map fun q => ((s.link q).queue.filter fun f =>
  f.pkt.cls == 0 && f.came.port.isNone && fwType f.pkt.typ.toNat).length).sum

/-- Everything that may leave a port leaves it, and what waits of firmware's messages is shown. -/
def pumpPort (q : Nat) : Prog Unit := .get fun s => (pump q (s.link q).queue.length).seq
  (Prog.get fun s => wrF .FAB_HORN_STATUS Fld.FAB_HORN_STATUS_TXPEND (min s.txPend 255))

/-- Flits join a port's queue, and what may leave leaves. -/
def pushFlits (q : Nat) (l : List EgressFlit) : Prog Unit :=
  (modPort q fun k => { k with queue := k.queue ++ l }).seq (pumpPort q)

/-- A packet sent by a port. -/
def pushPacket (q : Nat) (came p : Packet) : Prog Unit :=
  pushFlits q ((List.range (flitsOf p)).map fun i => ⟨came, p, i⟩)

/-- The port of a bundle that class 0 uses: the designated one, or the lowest that is UP (R256). -/
def State.hornOut (s : State) (h : Hop) : Nat :=
  let up := s.upPorts h.dim h.plus
  let hp := s.hornPort h.dim h.plus
  if up.contains hp then hp else up.headD hp

/-- The UP ports of a bundle with the most free credits for a class (R256). -/
def State.roomiest (s : State) (cls : Nat) (h : Hop) : List Nat :=
  let up := s.upPorts h.dim h.plus
  up.filter fun q => up.all fun r => decide ((s.link q).usedOf cls ≤ (s.link r).usedOf cls)

/-- The port of a bundle that a packet uses (R256); among those with equally many free credits the choice is left free
(log 76). -/
def choosePort (p : Packet) (h : Hop) : Prog Nat := .get fun s =>
  if p.cls = 0 then .ret (s.hornOut h)
  else match s.roomiest p.cls.toNat h with
    | [q] => .ret q
    | l => freeVal.bind fun v => .ret (l.getD (v.toNat % max 1 l.length) 0)

/-- A packet dropped at a hop and counted at its bundle's port (R258). -/
def dropAt (h : Hop) (f : Field) : Prog Unit := .get fun s =>
  let q := s.hornPort h.dim h.plus
  (setF .FAB_PERR f q).seq (bumpF .FAB_DROPCNT Fld.FAB_DROPCNT_COUNT 1 q)

/-- A packet routed from this device; `local'` says that it starts here. -/
def routePacket (p : Packet) (local' : Bool) : Prog Unit := .get fun s =>
  match s.route s.ownPhys p with
  | .here => if local' then .one (.emit (.deliver p)) else .skip
  | .dropDown h => (dropAt h Fld.FAB_PERR_DROPDOWN).seq (creditBack p (flitsOf p))
  | .dropNr h => (dropAt h Fld.FAB_PERR_DROPNR).seq (creditBack p (flitsOf p))
  | .go h det begins =>
    let hops := if local' then p.hops else if p.hops.toNat = 255 then p.hops else p.hops + 1
    let p' := { p with vc := s.channelOf s.ownPhys p h det, det := det, hops := hops }
    (choosePort p' h).bind fun q =>
      (pushPacket q p p').seq (Prog.when begins (count (setPort q) 0x74 1 (clsTag p)))

/-- The packet's payload check (R252). -/
def pcrcOf (p : Packet) : Nat := crc32c p.payload

/-- A packet with fields at their resting values. -/
def blankPacket : Packet :=
  { cls := 0, typ := 0, dst := 0, src := 0, bid := 0, fmt := 0, lu := 0, part := 0, step := 0, entry := 0, index := 0,
    opid := 0, hops := 0, raw := false, pois := false, payload := [], phys := 0, vc := false, det := .fresh, port := none,
    pcrcOk := true }

/-- A packet that this device sends is resolved to its physical destination and routed, or rejected where
the remap entry is invalid (R251, R254). -/
def sendPacket (p : Packet) : Prog Unit := .get fun s =>
  let e := s.rd .FAB_REMAP p.dst.toNat
  if !flagF Fld.FAB_REMAP_VALID e then
    (bumpF .FAB_SRCDROPCNT Fld.FAB_SRCDROPCNT_COUNT).seq (setF .FAB_HORN_ERR Fld.FAB_HORN_ERR_SRCDROP)
  else routePacket { p with
    src := BitVec.ofNat 15 s.ownLog
    phys := BitVec.ofNat 15 (getF Fld.FAB_REMAP_PHYS e)
    hops := 0, vc := false, det := .fresh, port := none, pcrcOk := true } true

/-- The horn engine tells the hop before that a message has come, or that its PCRC failed (R260). -/
def hornReport (p : Packet) (ok : Bool) : Prog Unit :=
  match p.port with
  | some q => Prog.when (p.cls == 0) (.one (.emit (.hornReport q p ok)))
  | none => .skip

/-- PACKET_FORWARD: a router chooses the next hop of a passing packet (R256 to R258). A packet whose
destination is this device is not forwarded: it arrives by the command of its type. -/
def execPacketForward (pkt : Packet) (s : State) : Host.Outcome State Fault Refusal :=
  ((hornReport pkt true).seq (routePacket pkt false)).next s

/-! ### Arrival (R252, R253) -/

/-- Whether a type is permitted in a class (R253). -/
def typeOk (cls typ : Nat) : Bool :=
  (cls == 0 && decide (1 ≤ typ) && decide (typ ≤ 0x0A)) || (cls == 1 && (typ == 0x10 || typ == 0x11 || typ == 0x12)) ||
  (cls == 2 && (typ == 0x18 || typ == 0x1C)) || (cls != 0 && decide (0x19 ≤ typ) && decide (typ ≤ 0x1B)) ||
  (cls == 3 && (typ == 0x20 || typ == 0x21))

/-- The port that an arriving packet's faults are noted at. -/
def portOf (p : Packet) : Nat :=
  match p.port with
  | some q => q
  | none => 0

/-- A packet arrives for this device: one whose type its class does not permit is discarded; a failed payload
check poisons it, or in class 0 discards it and is reported to the hop before, which sends it again (R252, R253, R260).
`typ` is the type that the arriving command stands for; the payload is at most 4,096 bytes. What `f` keeps waiting keeps
its credits; a discarded packet's go back (R248). -/
def arriveHeld (pkt : Packet) (typ : Nat) (f : Packet → Prog Unit) : Prog Unit :=
  let back := creditBack pkt (flitsOf pkt)
  if !typeOk pkt.cls.toNat pkt.typ.toNat then (setF .FAB_PERR Fld.FAB_PERR_BADTYPE (portOf pkt)).seq back
  else if pkt.typ.toNat != typ || decide (4096 < pkt.payload.length) then .skip
  else if pkt.pcrcOk then (hornReport pkt true).seq (f pkt)
  else (setF .FAB_PERR Fld.FAB_PERR_CRCFAIL (portOf pkt)).seq
    (if pkt.cls = 0 then (hornReport pkt false).seq back else f { pkt with pois := true })

/-- A packet arrives and is taken at once. -/
def arrive (pkt : Packet) (typ : Nat) (f : Packet → Prog Unit) : Prog Unit :=
  arriveHeld pkt typ fun p => (f p).seq (creditBack p (flitsOf p))

/-! ### Links (R248, R249) -/

/-- A port's state. -/
def setPortState (p st : Nat) : Prog Unit := wrF .FAB_PSTATUS Fld.FAB_PSTATUS_STATE st p

/-- A flit whose port has lost its link goes to another UP port of the bundle or along the detour (R249). -/
def resend (f : EgressFlit) : Prog Unit := .get fun s =>
  let p := f.came
  let first := decide (f.part = 0)
  match s.route s.ownPhys p with
  | .here => .skip
  | .dropDown h => Prog.when first (dropAt h Fld.FAB_PERR_DROPDOWN)
  | .dropNr h => Prog.when first (dropAt h Fld.FAB_PERR_DROPNR)
  | .go h det begins =>
    let q := if p.cls = 0 then s.hornOut h else (s.upPorts h.dim h.plus).headD 0
    (pushFlits q [⟨p, { f.pkt with vc := s.channelOf s.ownPhys p h det, det := det }, f.part⟩]).seq
      (Prog.when (begins && first) (count (setPort q) 0x74 1 (clsTag p)))

/-- A port's link goes down: its unacknowledged flits, and then those that wait, go elsewhere, and it retrains (R249). -/
def linkDown (p : Nat) : Prog Unit := .get fun s =>
  let k := s.link p
  Prog.all [setF .FAB_PERR Fld.FAB_PERR_LINKDOWN p, setPortState p 1,
    .one (.setPort p { k with
      unacked := [], queue := []
      copies := k.copies.filter fun c => k.unacked.all fun e => e.seq != c.seq }),
    Prog.each (k.unacked.map (·.flit) ++ k.queue) resend]

/-- LINK_DOWN: a port declares its link down (R249). A port that is disabled has no link. -/
def execLinkDown (p : Fin 24) (s : State) : Host.Outcome State Fault Refusal :=
  (Prog.when (s.rdF .FAB_PCFG Fld.FAB_PCFG_EN p == 1 && s.portUp p) (linkDown p)).next s

/-- The physical coordinate that the routing expects at a port's peer (R249). -/
def State.peerOf (s : State) (p : Nat) : Nat :=
  let d := s.rdF .FAB_PCFG Fld.FAB_PCFG_DIR p
  s.neighbour s.ownPhys (d / 2) (d % 2 == 0)

/-- LINK_TRAINED: training ends and the peer reports its coordinate (R249). Before full service a pilot port runs at a
quarter (R247, R374), and another one's training is of the work of R376. -/
def execLinkTrained (p : Fin 24) (peer : BitVec 15) (s : State) : Host.Outcome State Fault Refusal :=
  (if s.rdF .FAB_PCFG Fld.FAB_PCFG_EN p ≠ 1 || s.portUp p || s.stopped (55 + p) then Prog.skip
   else ((Prog.when (!s.pilotPorts.contains p) beginFull).seq (wrF .FAB_PSTATUS Fld.FAB_PSTATUS_PEER peer.toNat p)).seq
     (if peer.toNat = s.peerOf p then
        Prog.all [setPortState p (if s.fullMap || !s.pilotPorts.contains p then 2 else 3), .one (.setPort p { Port.init with tokens := (s.link p).tokens })]
      else (setPortState p 0).seq (setF .FAB_PERR Fld.FAB_PERR_PEERMIS p))).next s

/-- Credits of a class and virtual channel return (R248). -/
def Port.freed (k : Port) (cls : BitVec 2) (vc : Bool) (n : Nat) : Port :=
  let key := 2 * cls.toNat + vc.toNat
  { k with used := Tab.upd 0 k.used key (Tab.at 0 k.used key - n) }

/-- A horn message whose PCRC failed at the next device joins the queue again (R260). -/
def Port.hornAgain (k : Port) (seq : BitVec 16) : Port :=
  match k.copies.find? fun c => c.seq == seq with
  | some c => { k with copies := k.copies.filter fun e => e.seq != seq, queue := k.queue ++ [c.flit] }
  | none => k

/-- FLIT_RECEIVED: a flit in sequence whose check holds is acknowledged, any other is not; an acknowledgement frees the
flits it covers, a credit lets others leave (R248), and the peer's horn engine acknowledges a message or has it sent
again (R260). -/
def execFlitReceived (p : Fin 24) (f : Flit) (s : State) : Host.Outcome State Fault Refusal :=
  (if !s.portUp p || !f.crcOk then Prog.skip
   else match f.kind with
    | .idle => count (setPort p) 0x71
    | .ack => (count (setPort p) 0x71).seq <| (modPort p fun k =>
        let l := k.unacked
        match l.findIdx? fun e => e.seq == f.seq with
        | some i => { k with unacked := l.drop (i + 1) }
        | none => k).seq (pumpPort p)
    | .credit cls vc n => Prog.all [count (setPort p) 0x71, modPort p fun k => k.freed cls vc n, pumpPort p]
    | .hornAck => (count (setPort p) 0x71).seq
        (modPort p fun k => { k with copies := k.copies.filter fun c => c.seq != f.seq })
    | .hornNak => Prog.all [count (setPort p) 0x71, modPort p fun k => k.hornAgain f.seq, pumpPort p]
    | .data => (count (setPort p) 0x71).seq
        (if f.seq = (s.link p).rx then
          (modPort p fun k => { k with rx := k.rx + 1 }).seq (.one (.emit (.ackFlit p f.seq)))
         else .skip)).next s

/-- FLIT_REPLAY: the sender replays from its first unacknowledged flit on; at 16 replays of one flit the link
is down (R248, R249, R273). -/
def execFlitReplay (p : Fin 24) (s : State) : Host.Outcome State Fault Refusal :=
  (if !s.portUp p || (s.link p).unacked.isEmpty then Prog.skip
   else
    let l := (s.link p).unacked
    Prog.all [bumpF .FAB_REPLAYCNT Fld.FAB_REPLAYCNT_COUNT l.length p, count (setPort p) 0x72 l.length,
      modPort p fun k => { k with unacked := k.unacked.map fun e => { e with replays := e.replays + 1 } },
      Prog.each l fun e => (count (setPort p) 0x70 1 (clsTag e.flit.pkt)).seq
        (Prog.when (decide (e.flit.part = 0)) (.one (.emit (.send p e.flit.pkt)))),
      Prog.when (l.any fun e => decide (16 ≤ e.replays + 1))
        ((setF .FAB_PERR Fld.FAB_PERR_REPLAYMAX p).seq (linkDown p))]).next s

/-- IDLE_FLIT: a port with nothing to send transmits an idle flit (R249). -/
def execIdleFlit (p : Fin 24) (s : State) : Host.Outcome State Fault Refusal :=
  (Prog.when (s.portUp p) ((count (setPort p) 0x70).seq (.one (.emit (.idle p))))).next s

/-- ECHO_FLIT: a port sends its echo flit of the millisecond, answers its peer's with its own turnaround time, or records
the round trip of a reply less the peer's turnaround (R262, R273). -/
def execEchoFlit (p : Fin 24) (e : Echo) (s : State) : Host.Outcome State Fault Refusal :=
  (Prog.when (s.portUp p) (match e with
    | .due => (count (setPort p) 0x70).seq (.one (.emit (.echo p)))
    | .ask => Prog.all [count (setPort p) 0x71, count (setPort p) 0x70,
        freeVal.bind fun v => .one (.emit (.echoReply p (v.setWidth 32)))]
    | .reply trip turn =>
      let rtt := trip.toNat - turn.toNat
      Prog.all [count (setPort p) 0x71, wrF .FAB_ECHO Fld.FAB_ECHO_RTT rtt p,
        wrF .FAB_ECHO Fld.FAB_ECHO_RTTMAX (max (s.rdF .FAB_ECHO Fld.FAB_ECHO_RTTMAX p) rtt) p])).next s

/-- FAB_REMAP: a posted write gives the physical coordinate of a logical one; it takes effect when written
(R251, R273). -/
def fabRemapDo (l : Fin 32768) (val : BitVec 64) : Prog Unit :=
  (posted .horn (wr .FAB_REMAP val l))

/-- `execFabRemap`: the command. -/
def execFabRemap (l : Fin 32768) (val : BitVec 64) (s : State) : Host.Outcome State Fault Refusal := (fabRemapDo l val).next s

/-- FAB_PDOWN: a posted write marks physical positions down (R251, R273). -/
def fabPdownDo (i : Fin 512) (val : BitVec 64) : Prog Unit :=
  (posted .horn (wr .FAB_PDOWN val i))

/-- `execFabPdown`: the command. -/
def execFabPdown (i : Fin 512) (val : BitVec 64) (s : State) : Host.Outcome State Fault Refusal := (fabPdownDo i val).next s

end Sys2Proof.Machine
end

