-- ==== Sys2Proof/Machine/Horn.lean ====
section
/-!
DEFINITION. Sys2Proof/Machine/Horn.lean: the horn region (R244, R258), the horn engine's messages (R259 to
R262) and the vote (R263 to R265).
-/

namespace Sys2Proof.Machine

/-- Whether a binding exists (R324). -/
def State.bound (s : State) (b : Nat) : Bool := decide (2 ≤ s.rdF .BND_STATE Fld.BND_STATE_STATE b)

/-- Whether a binding owns a Landing Unit, and so steps (R318). -/
def State.steps (s : State) (b : Nat) : Bool := s.bound b && (s.rd .BND_UNITS b).toNat % 16 != 0

/-- BID of a binding (R324). -/
def State.bidOf (s : State) (b : Nat) : Nat := s.rdF .BND_JOB Fld.BND_JOB_BID b

/-- The binding of a BID. -/
def State.bindingOf (s : State) (bid : Nat) : Option Nat := (List.range 8).find? fun b => s.bound b && s.bidOf b == bid

/-- The step number that a packet of a BID carries: that of its binding here, 0 where there is none (R252). -/
def State.stepOfBid (s : State) (bid : Nat) : BitVec 48 :=
  match s.bindingOf bid with
  | some b => BitVec.ofNat 48 (s.binding b).step
  | none => 0

/-! ### The horn region (R244, R258) -/

/-- The horn region: that of the lowest binding in existence (DEDUCED, log 22). -/
def State.hornBase (s : State) : Option Nat :=
  ((List.range 8).find? s.bound).map fun b => bits 103 64 (s.binding b).params.toNat

/-- The physical address of an offset of the region: its blocks of 2 KiB lie in the consecutive pseudo-channels of the
base's vault, V00 (R197, R198, R244, R316; DEDUCED, log 22). -/
def State.hornAddr (s : State) (base off : Nat) : Nat :=
  let sh := if s.fullMap then 15 else 13
  base / 2 ^ (sh + 5) * 2 ^ (sh + 5) + (base / 2 ^ sh + off / 2048) % 32 * 2 ^ sh + base % 2 ^ sh + off % 2048

/-- The second copy's address: the same place in vault V08 (R197, R244; log 22). -/
def hornTwin (a : Nat) : Nat := a ^^^ 2 ^ 24

/-- The event that firmware reports for a horn region lost in both copies (R244, R325). -/
def hornLost : Nat := 1

/-- A sector of the horn region: a copy that is poisoned is served from the other and rewritten (R244). -/
def hornSector (a : Nat) : Prog (List Byte) :=
  (secRead (a / 64)).bind fun r =>
    if !r.poison then .ret r.data
    else (secRead (hornTwin a / 64)).bind fun t =>
      if t.poison then ((glbEvent 1).seq (selfFailure hornLost)).seq (.ret r.data)
      else (secStore (a / 64) t.data 0).seq (.ret t.data)

/-- Bytes of the horn region, from a sector's start on. -/
def hornRead (off n : Nat) : Prog (List Byte) := .get fun s =>
  match s.hornBase with
  | none => .ret (List.replicate n 0)
  | some b => (Prog.mapM (List.range ((n + 63) / 64)) fun i => hornSector (s.hornAddr b (off + 64 * i))).bind fun l =>
      .ret (l.flatten.take n)

/-- Bytes of one block written into both copies. -/
def hornWrite (off : Nat) (d : List Byte) : Prog Unit := .get fun s =>
  match s.hornBase with
  | none => .skip
  | some b => (physPut (s.hornAddr b off) d).seq (physPut (hornTwin (s.hornAddr b off)) d)

/-! ### Firmware's messages (R253, R258, R259) -/

/-- The header of R252 as a number. -/
def headerNat (p : Packet) : Nat :=
  p.cls.toNat + p.typ.toNat * 2 ^ 2 + p.dst.toNat * 2 ^ 8 + p.src.toNat * 2 ^ 23 + p.bid.toNat * 2 ^ 40 +
  p.payload.length % 2 ^ 13 * 2 ^ 56 + p.fmt.toNat * 2 ^ 69 + p.lu.val * 2 ^ 73 + p.part.toNat * 2 ^ 75 +
  p.step.toNat * 2 ^ 80 + p.entry.toNat * 2 ^ 128 + p.index.toNat * 2 ^ 144 + p.opid.toNat * 2 ^ 176 +
  p.hops.toNat * 2 ^ 192 + (if p.raw then 2 ^ 200 else 0) + (if p.pois then 2 ^ 201 else 0) + pcrcOf p * 2 ^ 224

/-- A packet from a message of header and payload. -/
def packetOf (m : List Byte) : Packet :=
  let x := leNat (m.take 32)
  { blankPacket with
    cls := BitVec.ofNat 2 x, typ := BitVec.ofNat 6 (x / 2 ^ 2), dst := BitVec.ofNat 15 (x / 2 ^ 8)
    src := BitVec.ofNat 15 (x / 2 ^ 23), bid := BitVec.ofNat 16 (x / 2 ^ 40), fmt := BitVec.ofNat 4 (x / 2 ^ 69)
    lu := ⟨bits 74 73 x, Nat.mod_lt _ (by decide)⟩, part := BitVec.ofNat 2 (x / 2 ^ 75)
    step := BitVec.ofNat 48 (x / 2 ^ 80), entry := BitVec.ofNat 16 (x / 2 ^ 128)
    index := BitVec.ofNat 32 (x / 2 ^ 144), opid := BitVec.ofNat 16 (x / 2 ^ 176), raw := x.testBit 200
    pois := x.testBit 201, payload := m.drop 32 }

/-- A horn message enters a slot of the receive ring. -/
def ringPut (p : Packet) : Prog Unit := .get fun s =>
  let h := s.rdF .FAB_HORN_RXHEAD Fld.FAB_HORN_RXHEAD_HEAD
  Prog.all [hornWrite (16384 + 256 * h) ((leBytes 32 (headerNat p) ++ p.payload).take 256),
    wrF .FAB_HORN_RXHEAD Fld.FAB_HORN_RXHEAD_HEAD ((h + 1) % 128), .one (.emit (.hornMessage h))]

/-- Whether the receive ring has a free slot; a full ring holds messages back (R273). -/
def State.ringRoom (s : State) : Bool :=
  (s.rdF .FAB_HORN_RXHEAD Fld.FAB_HORN_RXHEAD_HEAD + 1) % 128 != s.rdF .FAB_HORN_RXREAD Fld.FAB_HORN_RXREAD_READ

/-- Messages that wait enter the ring while it has room. -/
def ringFill : Nat → Prog Unit
  | 0 => .skip
  | n + 1 => .get fun s =>
    match s.hornWait with
    | [] => .skip
    | p :: r => if s.ringRoom then Prog.all [.one (.setHornWait r), ringPut p, creditBack p 1, ringFill n] else .skip

/-- A horn message delivered to firmware's receive ring (R258, R261). -/
def deliverFw (p : Packet) : Prog Unit := .get fun s =>
  Prog.all [count (setPort 0) 0x75, .one (.setHornWait (s.hornWait ++ [p])), ringFill (s.hornWait.length + 1)]

/-- Whether the horn engine is enabled (R273). -/
def State.hornOn (s : State) : Bool := s.rdF .FAB_HORN_CTRL Fld.FAB_HORN_CTRL_EN == 1

/-- A class 0 packet arrives for firmware: its credit goes back as it enters the receive ring. Messages are at most 256
bytes (R259). -/
def hornFirmware (pkt : Packet) (typ : Nat) (f : Packet → Prog Unit) : Prog Unit := .get fun s =>
  if !s.hornOn || decide (224 < pkt.payload.length) then .skip else arriveHeld pkt typ f

/-- A class 0 packet arrives at the horn engine, which takes it at once. -/
def hornArrive (pkt : Packet) (typ : Nat) (f : Packet → Prog Unit) : Prog Unit :=
  hornFirmware pkt typ fun p => (f p).seq (creditBack p 1)

/-- HORN_RXREAD: a posted write frees slots of the receive ring (R273). -/
def hornRxreadDo (val : BitVec 64) : Prog Unit :=
  (posted .horn ((wr .FAB_HORN_RXREAD val).seq (Prog.get fun s => ringFill s.hornWait.length)))

/-- `execHornRxread`: the command. -/
def execHornRxread (val : BitVec 64) (s : State) : Host.Outcome State Fault Refusal := (hornRxreadDo val).next s

/-- The port by which a class 0 message to a logical coordinate leaves this device, if it leaves by one. -/
def State.hornEgress (s : State) (dst : Nat) : Option Nat :=
  let e := s.rd .FAB_REMAP dst
  if !flagF Fld.FAB_REMAP_VALID e then none
  else match s.route s.ownPhys { blankPacket with phys := BitVec.ofNat 15 (getF Fld.FAB_REMAP_PHYS e) } with
    | .go h _ _ => some (s.hornOut h)
    | _ => none

/-- Tokens have come into a port's bucket, which holds at most 256 (R259). -/
def refillBucket (q n : Nat) : Prog Unit := modPort q fun k => { k with tokens := min 256 (k.tokens + n) }

/-- FAB_HORN_TX: a posted write sends a firmware message, or it is rejected (R259). `refill` are the tokens that have come
into the bucket of its egress port since the last message left by it (log 23). The header's class, type and
destination are those of the register; its other fields are those of the slot (DEDUCED, log 23). -/
def fabHornTxDo (val : BitVec 64) (refill : Nat) : Prog Unit :=
  (posted .horn <| Prog.get fun s =>
    let len := getF Fld.FAB_HORN_TX_LEN val
    let typ := getF Fld.FAB_HORN_TX_TYPE val
    let port := s.hornEgress (getF Fld.FAB_HORN_TX_DST val)
    let send := if !s.hornOn then Prog.skip
      else (hornRead (64 * getF Fld.FAB_HORN_TX_SLOT val) len).bind fun m =>
         sendPacket { packetOf m with
           cls := 0, typ := BitVec.ofNat 6 typ, dst := BitVec.ofNat 15 (getF Fld.FAB_HORN_TX_DST val) }
    (wr .FAB_HORN_TX val).seq
      (if 256 < len then setF .FAB_HORN_ERR Fld.FAB_HORN_ERR_HORN_LEN
       else if !fwType typ then setF .FAB_HORN_ERR Fld.FAB_HORN_ERR_HORN_TYPE
       else match port with
        | none => send
        | some q => (refillBucket q refill).seq (Prog.get fun s =>
            if (s.link q).tokens < len then setF .FAB_HORN_ERR Fld.FAB_HORN_ERR_HORN_OVER else send)))

/-- `execFabHornTx`: the command. -/
def execFabHornTx (val : BitVec 64) (refill : Nat) (s : State) : Host.Outcome State Fault Refusal := (fabHornTxDo val refill).next s

/-- PING: answered with a PONG, whose HOPS field returns the hops of the way (R262). -/
def execPing (pkt : Packet) (s : State) : Host.Outcome State Fault Refusal :=
  (hornArrive pkt 0x04 fun p => (count (setPort 0) 0x75).seq
    (Prog.get fun s => sendPacket { blankPacket with
      typ := 5, dst := p.src, bid := p.bid, step := s.stepOfBid p.bid.toNat, payload := p.payload })).next s

/-- PONG: its round trip is recorded (R262). -/
def execPong (pkt : Packet) (rtt : BitVec 32) (s : State) : Host.Outcome State Fault Refusal :=
  (hornArrive pkt 0x05 fun _ => (count (setPort 0) 0x75).seq
    (wrF .FAB_HORN_STATUS Fld.FAB_HORN_STATUS_PINGRTT rtt.toNat)).next s

/-! ### The vote (R263 to R265) -/

/-- The payload of a VOTE or a DECISION: the value and the count (R263, R264). -/
def votePayload (v : Bool) (ndev : Nat) : List Byte := leBytes 8 ((if v then 1 else 0) + ndev % 2 ^ 16 * 2 ^ 16)

/-- The value and the count of a payload. -/
def voteOf (d : List Byte) : Bool × Nat := ((leNat d).testBit 0, bits 31 16 (leNat d))

/-- A message of the vote sent for a step of a binding. -/
def sendVote (b typ dst step : Nat) (payload : List Byte) : Prog Unit := .get fun s =>
  sendPacket { blankPacket with
    typ := BitVec.ofNat 6 typ, dst := BitVec.ofNat 15 dst
    bid := BitVec.ofNat 16 (s.rdF .FAB_VOTE Fld.FAB_VOTE_BID b), step := BitVec.ofNat 48 step, payload }

/-- The binding that a message of the vote concerns (R263). -/
def State.voteBinding (s : State) (bid : Nat) : Option Nat :=
  (List.range 8).find? fun b => s.bound b && s.rdF .FAB_VOTE Fld.FAB_VOTE_BID b == bid

/-- The decision of a step, if the device keeps it (R264). -/
def Vote.decided (v : Vote) (step : Nat) : Option Decided := v.decs.find? fun d => d.step == step

/-- The children recorded for a step. -/
def Vote.kidsAt (v : Vote) (step : Nat) : List ChildVote := v.kids.filter fun k => k.step == step

/-- Whether an armed image is due at the turnaround that sets the step counter to `n` (R319). -/
def Image.due (i : Image) (n : Nat) : Bool := i.applyStep == 0 || decide (i.applyStep ≤ n)

/-- A decision is delivered to the lead Landing Unit, which takes the images that are due (R319), forwarded to the recorded children and kept (R264). -/
def takeDecision (b : Nat) (dec : Bool) (ndev : Nat) : Prog Unit := .get fun s =>
  let step := (s.binding b).step
  Prog.all [
    modVote b fun v => { v with decs := (⟨step, dec, ndev⟩ :: v.decs).take 4 },
    wrF .FAB_VOTESTAT Fld.FAB_VOTESTAT_STEP step b,
    wrF .FAB_VOTESTAT Fld.FAB_VOTESTAT_DEC (if dec then 1 else 0) b,
    wrF .FAB_VOTESTAT Fld.FAB_VOTESTAT_WAIT 0 b,
    modBnd b fun k => { k with
      decision := some dec
      taken := k.armed.filter fun i => i.due (step + 1)
      armed := k.armed.filter fun i => !i.due (step + 1) },
    Prog.each ((s.votes b).kidsAt step) fun k => sendVote b 2 k.src step (votePayload dec ndev)]

/-- The root decides (R264). -/
def rootDecide (b : Nat) (v : Bool) (ndev : Nat) : Prog Unit := .get fun s =>
  let full := ndev % 2 ^ 16 == s.rdF .FAB_VOTE Fld.FAB_VOTE_BNDDEV b
  (Prog.when (!full) (setF .FAB_HORN_ERR Fld.FAB_HORN_ERR_VCOUNT)).seq (takeDecision b (v && full) ndev)

/-- Once every part is in, one VOTE goes to the parent, or the root decides (R263). -/
def tryCombine (b : Nat) : Prog Unit := .get fun s =>
  let k := s.votes b
  let step := (s.binding b).step
  let kids := k.kidsAt step
  match k.own with
  | none => .skip
  | some own =>
    if k.sent.isSome || (k.decided step).isSome || kids.length != s.rdF .FAB_VOTE Fld.FAB_VOTE_NCHILD b then .skip
    else
      let v := own && kids.all (·.v)
      let n := 1 + (kids.map (·.ndev)).sum
      if s.rdF .FAB_VOTE Fld.FAB_VOTE_ROOT b = 1 then rootDecide b v n
      else Prog.all [modVote b fun x => { x with sent := some (v, n) },
        wrF .FAB_VOTESTAT Fld.FAB_VOTESTAT_WAIT 1 b,
        sendVote b 1 (s.rdF .FAB_VOTE Fld.FAB_VOTE_PARENT b) step (votePayload v n)]

/-- The Landing Units of a binding. -/
def State.lus (s : State) (b : Nat) : List Nat := (List.range 4).filter (s.hasUnit b)

/-- The clusters of a binding. -/
def State.clusters (s : State) (b : Nat) : List Nat :=
  (List.range 32).filter fun c => (s.rd .BND_CLMASK b).toNat.testBit c

/-- DEVICE_VOTE: every Landing Unit of the binding has voted; the on-die AND with the clusters' non-finite
votes reaches the horn engine (R157, R188, R263). -/
def execDeviceVote (b : Fin 8) (s : State) : Host.Outcome State Fault Refusal :=
  (let l := s.lus b
   if !s.steps b || !s.hornOn || (s.binding b).voted || (s.binding b).turning.isSome || s.fw.self ||
      !l.all (fun u => s.rdF .LND_STATUS Fld.LND_STATUS_VOTED u == 1) then Prog.skip
   else
    let v := l.all (fun u => s.rdF .LND_STATUS Fld.LND_STATUS_VOTE u == 1) &&
      (s.clusters b).all fun c => !(s.cluster c).nfvote
    Prog.all [modBnd b fun k => { k with voted := true }, modVote b fun k => { k with own := some v }, tryCombine b]).next s

/-- VOTE: combined, held or discarded (R263). -/
def execVote (pkt : Packet) (s : State) : Host.Outcome State Fault Refusal :=
  (hornArrive pkt 0x01 fun p => (count (setPort 0) 0x75).seq <| Prog.get fun s =>
    let stale := setF .FAB_HORN_ERR Fld.FAB_HORN_ERR_STALEVOTE
    match s.voteBinding p.bid.toNat with
    | none => stale
    | some b =>
      let cur := (s.binding b).step
      let st := p.step.toNat
      let kids := (s.votes b).kidsAt st
      if st < cur || cur + 1 < st then stale
      else if kids.any fun k => k.src == p.src.toNat then .skip
      else if s.rdF .FAB_VOTE Fld.FAB_VOTE_NCHILD b ≤ kids.length then setF .FAB_HORN_ERR Fld.FAB_HORN_ERR_EXTRAVOTE
      else
        let x := voteOf p.payload
        (modVote b fun v => { v with kids := v.kids ++ [⟨p.src.toNat, st, x.1, x.2⟩] }).seq (tryCombine b)).next s

/-- DECISION: delivered, forwarded and kept, or discarded (R264, R265). -/
def execDecision (pkt : Packet) (s : State) : Host.Outcome State Fault Refusal :=
  (hornArrive pkt 0x02 fun p => (count (setPort 0) 0x75).seq <| Prog.get fun s =>
    match s.voteBinding p.bid.toNat with
    | none => setF .FAB_HORN_ERR Fld.FAB_HORN_ERR_STALEVOTE
    | some b =>
      let cur := (s.binding b).step
      if p.step.toNat ≠ cur || ((s.votes b).decided cur).isSome then setF .FAB_HORN_ERR Fld.FAB_HORN_ERR_DUPDEC
      else takeDecision b (voteOf p.payload).1 (voteOf p.payload).2).next s

/-- DQUERY: a device that holds the decision for the step answers, any other stays silent (R265). -/
def execDquery (pkt : Packet) (s : State) : Host.Outcome State Fault Refusal :=
  (hornArrive pkt 0x03 fun p => (count (setPort 0) 0x75).seq <| Prog.get fun s =>
    match s.voteBinding p.bid.toNat with
    | none => setF .FAB_HORN_ERR Fld.FAB_HORN_ERR_STALEVOTE
    | some b =>
      match (s.votes b).decided p.step.toNat with
      | none => .skip
      | some d => sendVote b 2 p.src.toNat d.step (votePayload d.dec d.ndev)).next s

/-- VOTE_RETRY: a device that has sent its VOTE and holds no decision repeats it and queries its parent, or
the root where the parent's position is down (R265). -/
def execVoteRetry (b : Fin 8) (s : State) : Host.Outcome State Fault Refusal :=
  (let k := s.votes b
   let step := (s.binding b).step
   let parent := s.rdF .FAB_VOTE Fld.FAB_VOTE_PARENT b
   match k.sent with
   | none => Prog.skip
   | some (v, n) =>
    if !s.bound b || !s.hornOn || (k.decided step).isSome then .skip
    else
      let ask := if s.isDown (s.rdF .FAB_REMAP Fld.FAB_REMAP_PHYS parent) then s.rdF .FAB_VOTEROOT Fld.FAB_VOTEROOT_ROOTC b
        else parent
      (sendVote b 1 parent step (votePayload v n)).seq (sendVote b 3 ask step [])).next s

/-- A FAILDECL that the horn engine of a root acts on: the step in progress is decided skip where it is
undecided (R264). -/
def failRoot (p : Packet) : Prog Unit := .get fun s =>
  match s.voteBinding p.bid.toNat with
  | none => .skip
  | some b =>
    if (leNat p.payload).testBit 100 && s.rdF .FAB_VOTE Fld.FAB_VOTE_ROOT b = 1 &&
        ((s.votes b).decided (s.binding b).step).isNone then
      takeDecision b false (1 + (((s.votes b).kidsAt (s.binding b).step).map (·.ndev)).sum)
    else .skip

/-- The horn engine begins a step of a binding: nothing is sent or voted, and held votes of the step count
(R263). -/
def hornNewStep (b step : Nat) : Prog Unit :=
  (modVote b fun v => { v with own := none, sent := none, kids := v.kids.filter fun k => decide (step ≤ k.step) }).seq
    (wrF .FAB_VOTESTAT Fld.FAB_VOTESTAT_WAIT 0 b)

end Sys2Proof.Machine
end

