-- ==== Sys2Proof/Machine/Float.lean ====
section
/-!
DEFINITION. Sys2Proof/Machine/Float.lean: the number formats (R33, R34, R79), exact values, rounding
(R47, R52, R56, R57), and the arithmetic of R65, R66, R68 and R69.
-/

namespace Sys2Proof.Machine

/-- A floating-point format of R33: exponent and fraction widths, bias, the code of the largest finite
(sign 0), of the infinity where there is one, and of the canonical NaN where there is one (R34). -/
structure Fmt where
  ew   : Nat
  mw   : Nat
  bias : Nat
  maxC : Nat
  infC : Option Nat
  nanC : Option Nat
  /-- A NaN of this format may be signalling (R35). -/
  snan : Bool
deriving DecidableEq, Repr

/-- binary64. -/
def b64 : Fmt := ⟨11, 52, 1023, 0x7FEFFFFFFFFFFFFF, some 0x7FF0000000000000, some 0x7FF8000000000000, true⟩
/-- binary32. -/
def b32 : Fmt := ⟨8, 23, 127, 0x7F7FFFFF, some 0x7F800000, some 0x7FC00000, true⟩
/-- bfloat16. -/
def bf16 : Fmt := ⟨8, 7, 127, 0x7F7F, some 0x7F80, some 0x7FC0, true⟩
/-- binary16. -/
def b16 : Fmt := ⟨5, 10, 15, 0x7BFF, some 0x7C00, some 0x7E00, true⟩
/-- E5M2. -/
def e5m2 : Fmt := ⟨5, 2, 15, 0x7B, some 0x7C, some 0x7E, false⟩
/-- E4M3: no infinity, and one NaN magnitude. -/
def e4m3 : Fmt := ⟨4, 3, 7, 0x7E, none, some 0x7F, false⟩
/-- E2M1, the MXFP4 element: neither infinity nor NaN. -/
def e2m1 : Fmt := ⟨2, 1, 1, 7, none, none, false⟩

/-- The width of a code in bits. -/
def Fmt.width (f : Fmt) : Nat := f.ew + f.mw + 1

/-- The exponent of the unit of a subnormal. -/
def Fmt.emin (f : Fmt) : Int := 1 - (f.bias : Int) - (f.mw : Int)

/-- The element formats of R79 that are floating point. -/
def fmtOf (code : Nat) : Option Fmt :=
  match code with
  | 0 => some b32
  | 1 => some bf16
  | 2 => some b16
  | 3 => some e4m3
  | 4 => some e5m2
  | 5 => some e2m1
  | 6 => some b64
  | _ => none

/-- The value of a code: a NaN, an infinity, or an exact finite value `m * 2 ^ e` with its sign. -/
inductive Val where
  | nan (signalling : Bool)
  | inf (neg : Bool)
  | fin (neg : Bool) (m : Nat) (e : Int)
deriving DecidableEq, Repr

/-- The sign of a code. -/
def Fmt.sign (f : Fmt) (c : Nat) : Bool := c.testBit (f.width - 1)

/-- The value a code denotes (R33). -/
def Fmt.dec (f : Fmt) (c : Nat) : Val :=
  let x := c / 2 ^ f.mw % 2 ^ f.ew
  let fr := c % 2 ^ f.mw
  let mag := c % 2 ^ (f.width - 1)
  if f.nanC.isSome && decide (mag > f.infC.getD f.maxC) then .nan (f.snan && !fr.testBit (f.mw - 1))
  else if f.infC = some mag then .inf (f.sign c)
  else if x = 0 then .fin (f.sign c) fr f.emin
  else .fin (f.sign c) (2 ^ f.mw + fr) (f.emin + x - 1)

/-- The sign bit of a format. -/
def Fmt.sbit (f : Fmt) (neg : Bool) : Nat := if neg then 2 ^ (f.width - 1) else 0

/-- The canonical NaN (R34). -/
def Fmt.nan (f : Fmt) : Nat := f.nanC.getD 0

/-- The infinity of a sign, or the largest finite where the format has none (R58). -/
def Fmt.inf (f : Fmt) (neg : Bool) : Nat := f.sbit neg + f.infC.getD f.maxC

/-- The largest finite of a sign. -/
def Fmt.big (f : Fmt) (neg : Bool) : Nat := f.sbit neg + f.maxC

/-- The zero of a sign. -/
def Fmt.zero (f : Fmt) (neg : Bool) : Nat := f.sbit neg

/-- The rounding modes of R52; a stochastic rounding carries its draw (R47). -/
inductive Rm where
  | rne
  | rtz
  | rdn
  | rup
  | sr (draw : Nat)
deriving DecidableEq, Repr

/-- The sticky flags of R71. -/
structure Flags where
  ovf : Bool := false
  inv : Bool := false
  dz  : Bool := false
  xq  : Bool := false
deriving DecidableEq, Repr

/-- No flag. -/
def Flags.none : Flags := {}
/-- OVF alone. -/
def Flags.OVF : Flags := { ovf := true }
/-- INV alone. -/
def Flags.INV : Flags := { inv := true }
/-- DZ alone. -/
def Flags.DZ : Flags := { dz := true }
/-- XQ alone. -/
def Flags.XQ : Flags := { xq := true }

/-- Both sets of flags. -/
def Flags.or (a b : Flags) : Flags :=
  ⟨a.ovf || b.ovf, a.inv || b.inv, a.dz || b.dz, a.xq || b.xq⟩

/-- The flags as bits 0 to 3, in the order OVF, INV, DZ, XQ. -/
def Flags.toNat (a : Flags) : Nat :=
  (if a.ovf then 1 else 0) + (if a.inv then 2 else 0) + (if a.dz then 4 else 0) + (if a.xq then 8 else 0)

/-- INV where a signalling NaN was read (R35). -/
def sigFlag (v : Val) : Flags :=
  match v with
  | .nan true => Flags.INV
  | _ => Flags.none

/-- Whether a value is a NaN. -/
def Val.isNan : Val → Bool
  | .nan _ => true
  | _ => false

/-- Whether a magnitude between `k` and `k + 1` units (remainder `rem` of `2 ^ sh`, and `sticky` for
anything below that) rounds away from zero. -/
def roundsUp (rm : Rm) (neg : Bool) (k rem sh : Nat) (sticky : Bool) : Bool :=
  let half := 2 ^ sh / 2
  let some' := sticky || decide (rem ≠ 0)
  match rm with
  | .rne => decide (rem > half) || (decide (rem = half) && decide (sh ≠ 0) && (sticky || k.testBit 0))
  | .rtz => false
  | .rdn => neg && some'
  | .rup => !neg && some'
  | .sr d => decide (256 * rem / 2 ^ sh + d ≥ 256)

/-- A magnitude `m * 2 ^ e` (with `sticky` where it is a little more) rounded to `p` significant bits on
a grid no finer than `2 ^ emin`: the units and their exponent. The exponent range has no upper end
(R56). -/
def roundMag (p : Nat) (emin : Int) (rm : Rm) (neg : Bool) (m : Nat) (e : Int) (sticky : Bool) :
    Nat × Int :=
  if m = 0 && !sticky then (0, emin) else
  let q := max (e + (Nat.log2 m : Int) - ((p : Int) - 1)) emin
  if q ≤ e then (m * 2 ^ (e - q).toNat, q) else
  let sh := (q - e).toNat
  let k := m / 2 ^ sh
  let up := roundsUp rm neg k (m % 2 ^ sh) sh sticky
  (if up then k + 1 else k, q)

/-- The code, sign apart, of `k` units of `2 ^ q` where `k` has at most `p` bits or is `2 ^ p`; above the
format's largest exponent the code goes on rising. -/
def Fmt.pack (f : Fmt) (k : Nat) (q : Int) : Nat :=
  if k = 0 then 0
  else if k < 2 ^ f.mw then k
  else if k = 2 ^ (f.mw + 1) then ((q + 1 - f.emin).toNat + 1) * 2 ^ f.mw
  else ((q - f.emin).toNat + 1) * 2 ^ f.mw + (k - 2 ^ f.mw)

/-- What an out-of-range magnitude becomes (R57): the infinity of its sign, or the largest finite under
the directed modes that stop short of it. -/
def Fmt.overflow (f : Fmt) (ieee : Bool) (rm : Rm) (neg : Bool) : Nat :=
  let toInf := match rm with
    | .rne => true
    | .sr _ => true
    | .rtz => false
    | .rdn => neg
    | .rup => !neg
  if ieee && toInf then f.inf neg else f.big neg

/-- An exact finite value rounded into a format, with the flags of the rounding. -/
def Fmt.round (f : Fmt) (ieee : Bool) (rm : Rm) (neg : Bool) (m : Nat) (e : Int) (sticky : Bool := false) :
    Nat × Flags :=
  let (k, q) := roundMag (f.mw + 1) f.emin rm neg m e sticky
  let c := f.pack k q
  if c > f.maxC then (f.overflow ieee rm neg, Flags.OVF) else (f.sbit neg + c, Flags.none)

/-- Conversion of a value into a format (R56 to R60). -/
def Fmt.conv (f : Fmt) (iovf : Bool) (rm : Rm) (v : Val) : Nat × Flags :=
  match v with
  | .nan s => (f.nan, sigFlag (.nan s))
  | .inf n => (f.inf n, if f.infC.isSome then Flags.none else Flags.OVF)
  | .fin n m e => if m = 0 then (f.zero n, Flags.none) else f.round (iovf && f.infC.isSome) rm n m e

/-- The signed integer `m` of sign `neg`. -/
def sgn (neg : Bool) (m : Nat) : Int := if neg then -(m : Int) else m

/-- The exact sum of two finite values, as a signed integer and its exponent. -/
def exactAdd (n₁ : Bool) (m₁ : Nat) (e₁ : Int) (n₂ : Bool) (m₂ : Nat) (e₂ : Int) : Int × Int :=
  let e := min e₁ e₂
  (sgn n₁ (m₁ * 2 ^ (e₁ - e).toNat) + sgn n₂ (m₂ * 2 ^ (e₂ - e).toNat), e)

/-- A rounded sum of two values (R65). -/
def Fmt.addV (f : Fmt) (rm : Rm) (x y : Val) : Nat × Flags :=
  match x, y with
  | .nan s, .nan t => (f.nan, (sigFlag (.nan s)).or (sigFlag (.nan t)))
  | .nan s, _ => (f.nan, sigFlag (.nan s))
  | _, .nan t => (f.nan, sigFlag (.nan t))
  | .inf a, .inf b => if a = b then (f.inf a, Flags.none) else (f.nan, Flags.INV)
  | .inf a, .fin _ _ _ => (f.inf a, Flags.none)
  | .fin _ _ _, .inf b => (f.inf b, Flags.none)
  | .fin a m e, .fin b n g =>
    if m = 0 && n = 0 then
      (f.zero (if a = b then a else decide (rm = .rdn)), Flags.none)
    else
      let (z, h) := exactAdd a m e b n g
      if z = 0 then (f.zero (decide (rm = .rdn)), Flags.none)
      else f.round true rm (decide (z < 0)) z.natAbs h

/-- The exact product of two values that are no NaN; none for an infinity times a zero. -/
def mulV (x y : Val) : Option Val :=
  match x, y with
  | .fin a m e, .fin b n g => some (.fin (a != b) (m * n) (e + g))
  | .inf a, .inf b => some (.inf (a != b))
  | .inf a, .fin b n _ => if n = 0 then none else some (.inf (a != b))
  | .fin a m _, .inf b => if m = 0 then none else some (.inf (a != b))
  | .nan s, _ => some (.nan s)
  | _, .nan s => some (.nan s)

/-- The sign turned. -/
def Val.neg : Val → Val
  | .nan s => .nan s
  | .inf a => .inf (!a)
  | .fin a m e => .fin (!a) m e

/-- A value rounded into a format as an arithmetic result. -/
def Fmt.ofV (f : Fmt) (rm : Rm) (v : Val) : Nat × Flags :=
  match v with
  | .nan _ => (f.nan, Flags.none)
  | .inf a => (f.inf a, Flags.none)
  | .fin a m e => if m = 0 then (f.zero a, Flags.none) else f.round true rm a m e

/-- Addition of codes (R65). -/
def Fmt.add (f : Fmt) (rm : Rm) (a b : Nat) : Nat × Flags := f.addV rm (f.dec a) (f.dec b)

/-- Subtraction of codes (R65). -/
def Fmt.sub (f : Fmt) (rm : Rm) (a b : Nat) : Nat × Flags := f.addV rm (f.dec a) (f.dec b).neg

/-- Multiplication of codes (R65). -/
def Fmt.mul (f : Fmt) (rm : Rm) (a b : Nat) : Nat × Flags :=
  let x := f.dec a
  let y := f.dec b
  if x.isNan || y.isNan then (f.nan, (sigFlag x).or (sigFlag y))
  else match mulV x y with
    | none => (f.nan, Flags.INV)
    | some v => f.ofV rm v

/-- Fused multiply-add of codes, rounded once (R65). -/
def Fmt.fma (f : Fmt) (rm : Rm) (a b c : Nat) : Nat × Flags :=
  let x := f.dec a
  let y := f.dec b
  let z := f.dec c
  let sig := ((sigFlag x).or (sigFlag y)).or (sigFlag z)
  if x.isNan || y.isNan then (f.nan, sig)
  else match mulV x y with
    | none => (f.nan, sig.or Flags.INV)
    | some v => f.addV rm v z

/-- Bitwise integer square root: the root of `n` found from bit `i` down. -/
def isqrtFrom (n : Nat) : Nat → Nat → Nat
  | 0, r => r
  | i + 1, r => let t := r + 2 ^ i; isqrtFrom n i (if t * t ≤ n then t else r)

/-- The integer square root. -/
def isqrt (n : Nat) : Nat := isqrtFrom n (Nat.log2 n / 2 + 1) 0

/-- Division of codes (R66). -/
def Fmt.div (f : Fmt) (rm : Rm) (a b : Nat) : Nat × Flags :=
  match f.dec a, f.dec b with
  | .nan s, y => (f.nan, (sigFlag (.nan s)).or (sigFlag y))
  | _, .nan t => (f.nan, sigFlag (.nan t))
  | .inf _, .inf _ => (f.nan, Flags.INV)
  | .inf s, .fin t _ _ => (f.inf (s != t), Flags.none)
  | .fin s _ _, .inf t => (f.zero (s != t), Flags.none)
  | .fin s m e, .fin t n g =>
    if n = 0 then
      if m = 0 then (f.nan, Flags.INV) else (f.inf (s != t), Flags.DZ)
    else if m = 0 then (f.zero (s != t), Flags.none)
    else
      let k := 2 * f.mw + 20 + Nat.log2 n
      let q := m * 2 ^ k / n
      f.round true rm (s != t) q (e - g - k) (decide (m * 2 ^ k % n ≠ 0))

/-- Square root of a code (R66). -/
def Fmt.sqrt (f : Fmt) (rm : Rm) (a : Nat) : Nat × Flags :=
  match f.dec a with
  | .nan s => (f.nan, sigFlag (.nan s))
  | .inf true => (f.nan, Flags.INV)
  | .inf false => (f.inf false, Flags.none)
  | .fin s m e =>
    if m = 0 then (f.zero s, Flags.none)
    else if s then (f.nan, Flags.INV)
    else
      let m' := if e % 2 = 0 then m else 2 * m
      let e' := if e % 2 = 0 then e else e - 1
      let k := f.mw + 20
      let n := m' * 2 ^ (2 * k)
      let r := isqrt n
      f.round true rm false r (e' / 2 - k) (decide (r * r ≠ n))

/-- Reciprocal of a code (R66). Under SR it and the reciprocal root round the exact result, one of those within 2⁻³²
relative that R66 allows (DESIGN CHOICE, log 3). -/
def Fmt.rcp (f : Fmt) (rm : Rm) (a : Nat) : Nat × Flags :=
  f.div rm (f.pack (2 ^ f.mw) (-(f.mw : Int))) a

/-- Reciprocal square root of a code (R66). -/
def Fmt.rsq (f : Fmt) (rm : Rm) (a : Nat) : Nat × Flags :=
  match f.dec a with
  | .nan s => (f.nan, sigFlag (.nan s))
  | .inf true => (f.nan, Flags.INV)
  | .inf false => (f.zero false, Flags.none)
  | .fin s m e =>
    if m = 0 then (f.inf s, Flags.DZ)
    else if s then (f.nan, Flags.INV)
    else
      let m' := if e % 2 = 0 then m else 2 * m
      let e' := if e % 2 = 0 then e else e - 1
      let k := 2 * f.mw + 20
      let n := 2 ^ (2 * k) / m'
      let r := isqrt n
      f.round true rm false r (-(e' / 2) - k) (decide (r * r * m' ≠ 2 ^ (2 * k)))

/-- Comparison of two finite or infinite values as exact numbers: less, equal or greater. -/
def cmpV (x y : Val) : Ordering :=
  match x, y with
  | .inf a, .inf b => compare (sgn a 1) (sgn b 1)
  | .inf a, _ => if a then .lt else .gt
  | _, .inf b => if b then .gt else .lt
  | .fin a m e, .fin b n g =>
    let h := min e g
    compare (sgn a (m * 2 ^ (e - h).toNat)) (sgn b (n * 2 ^ (g - h).toNat))
  | _, _ => .eq

/-- Maximum of codes (R68). -/
def Fmt.max (f : Fmt) (a b : Nat) : Nat × Flags :=
  let x := f.dec a
  let y := f.dec b
  if x.isNan || y.isNan then (f.nan, (sigFlag x).or (sigFlag y))
  else match cmpV x y with
    | .lt => (b, Flags.none)
    | .gt => (a, Flags.none)
    | .eq => (if f.sign a then b else a, Flags.none)

/-- Minimum of codes (R68). -/
def Fmt.min (f : Fmt) (a b : Nat) : Nat × Flags :=
  let x := f.dec a
  let y := f.dec b
  if x.isNan || y.isNan then (f.nan, (sigFlag x).or (sigFlag y))
  else match cmpV x y with
    | .lt => (a, Flags.none)
    | .gt => (b, Flags.none)
    | .eq => (if f.sign a then a else b, Flags.none)

/-- Negation, exact; a NaN becomes the canonical NaN (R95). -/
def Fmt.neg (f : Fmt) (a : Nat) : Nat × Flags :=
  let x := f.dec a
  if x.isNan then (f.nan, sigFlag x)
  else (f.sbit (!f.sign a) + a % 2 ^ (f.width - 1), Flags.none)

/-- Absolute value, exact; a NaN becomes the canonical NaN (R95). -/
def Fmt.abs (f : Fmt) (a : Nat) : Nat × Flags :=
  let x := f.dec a
  if x.isNan then (f.nan, sigFlag x) else (a % 2 ^ (f.width - 1), Flags.none)

/-- The predicate of a CMP on an ordering, none for an unordered pair (R69, R95); none where the
predicate's code is reserved. -/
def predOf (p : Nat) (o : Option Ordering) : Option Bool :=
  match p with
  | 0 => some (o == some .eq)
  | 1 => some (o == some .lt)
  | 2 => some (o == some .lt || o == some .eq)
  | 3 => some (o == some .gt)
  | 4 => some (o == some .gt || o == some .eq)
  | 5 => some (o == none)
  | 6 => some (o != some .eq)
  | _ => none

/-- The ordering of two codes, none for unordered, with INV for a signalling NaN (R69). -/
def Fmt.cmp (f : Fmt) (a b : Nat) : Option Ordering × Flags :=
  let x := f.dec a
  let y := f.dec b
  if x.isNan || y.isNan then (none, (sigFlag x).or (sigFlag y)) else (some (cmpV x y), Flags.none)

/-- A value rounded to an integer by a mode. -/
def toIntV (rm : Rm) (neg : Bool) (m : Nat) (e : Int) : Int :=
  if e ≥ 0 then sgn neg (m * 2 ^ e.toNat)
  else
    let sh := (-e).toNat
    let k := m / 2 ^ sh
    sgn neg (if roundsUp rm neg k (m % 2 ^ sh) sh false then k + 1 else k)

/-- Conversion to a signed 32-bit integer (R64), as a 32-bit code. -/
def Fmt.toI32 (f : Fmt) (rm : Rm) (a : Nat) : Nat × Flags :=
  match f.dec a with
  | .nan _ => (0, Flags.INV)
  | .inf true => (0x80000000, Flags.INV)
  | .inf false => (0x7FFFFFFF, Flags.INV)
  | .fin n m e =>
    let z := toIntV rm n m e
    if z < -2147483648 then (0x80000000, Flags.INV)
    else if z > 2147483647 then (0x7FFFFFFF, Flags.INV)
    else (codeOf 32 z, Flags.none)

/-- Conversion of a signed 32-bit integer into a format (R64). -/
def Fmt.ofI32 (f : Fmt) (rm : Rm) (a : Nat) : Nat × Flags :=
  let z := signedOf 32 a
  if z = 0 then (f.zero false, Flags.none) else f.round true rm (decide (z < 0)) z.natAbs 0

/-- A code converted from one format into another (R56 to R60). -/
def convert (src dst : Fmt) (iovf : Bool) (rm : Rm) (a : Nat) : Nat × Flags := dst.conv iovf rm (src.dec a)

/-- Whether a code is an infinity or a NaN. -/
def Fmt.nonfinite (f : Fmt) (a : Nat) : Bool :=
  match f.dec a with
  | .fin _ _ _ => false
  | _ => true

/-- One step of the Galois shift register of R49 (DEDUCED form: shift right, with the taps of the
polynomial x³² + x²² + x² + x + 1 at bits 31, 21, 1 and 0; log 3). -/
def lfsrStep (r : BitVec 32) : BitVec 32 :=
  if r.getLsbD 0 then (r >>> 1) ^^^ 0x80200003#32 else r >>> 1

/-- `n` steps. -/
def lfsrSteps : Nat → BitVec 32 → BitVec 32
  | 0, r => r
  | n + 1, r => lfsrSteps n (lfsrStep r)

/-- A draw: 8 steps, and the 8 low bits (R49). -/
def lfsrDraw (r : BitVec 32) : BitVec 32 × Nat :=
  let r' := lfsrSteps 8 r
  (r', r'.toNat % 256)

/-- binary32 with subnormals flushed (R70): a subnormal input is a zero of its sign. -/
def flushIn (wide : Bool) (a : Nat) : Nat :=
  if !wide && decide (a / 2 ^ 23 % 256 = 0) then a / 2 ^ 31 % 2 * 2 ^ 31 else a

/-- A landing result (R70): rounded to 24 bits with unbounded exponent range, then flushed when the
rounded magnitude is below 2⁻¹²⁶. -/
def landRound (wide : Bool) (neg : Bool) (m : Nat) (e : Int) (sticky : Bool := false) : Nat × Flags :=
  if wide then b32.round true .rne neg m e sticky else
  let (k, q) := roundMag 24 (-4000) .rne neg m e sticky
  if q + (Nat.log2 k : Int) < -126 then (b32.zero neg, Flags.none)
  else b32.round true .rne neg k q

end Sys2Proof.Machine
end

