-- ==== Sys2Proof/Machine/Quant.lean ====
section
/-!
DEFINITION. Sys2Proof/Machine/Quant.lean: blocks of MXFP4 (R37, R61), X4 and X2 (R38 to R40, R62, R63).
-/

namespace Sys2Proof.Machine

/-- The magnitude of a finite binary32 code, for comparison; none for an infinity or a NaN. -/
def finMag (x : Nat) : Option Nat := if b32.nonfinite x then none else some (x % 2 ^ 31)

/-- The largest finite magnitude of a list of binary32 codes, as a code. -/
def maxMag (l : List Nat) : Nat := (l.filterMap finMag).foldl max 0

/-- The exponent of the leading bit of a finite value; 0 for a zero. -/
def expOf (v : Val) : Int :=
  match v with
  | .fin _ m e => if m = 0 then 0 else e + (Nat.log2 m : Int)
  | _ => 0

/-- A value times a power of 2. -/
def scaled (v : Val) (d : Int) : Val :=
  match v with
  | .fin n m e => .fin n m (e + d)
  | v => v

/-- An MXFP4 block of 32 binary32 values, each with its rounding: the scale byte, the element codes and
the flags (R61). -/
def mxBlock (l : List (Nat × Rm)) : Nat × List Nat × Flags :=
  let vals := l.map fun p => b32.dec p.1
  let sig := vals.foldl (fun f v => f.or (sigFlag v)) Flags.none
  if vals.any Val.isNan then (255, List.replicate l.length 0, sig)
  else
    let m := maxMag (l.map (·.1))
    let infs := l.any fun p => b32.nonfinite p.1
    let raw := expOf (b32.dec m) - 2
    let k := max (-127) (min 127 raw)
    let k := if m = 0 then 0 else k
    let codes := l.map fun p => (e2m1.conv false p.2 (scaled (b32.dec p.1) (-k))).1
    ((k + 127).toNat, codes, if infs || (m != 0 && decide (127 < raw)) then sig.or Flags.OVF else sig)

/-- An element of an MXFP4 block as a binary32 code, with its flags (R36, R37). R36 calls every widening exact;
an element of a block of scale 0xFD or 0xFE can lie beyond binary32, and then saturates with OVF by R56
(DEDUCED, log 13). -/
def mxDecode (scale code : Nat) : Nat × Flags :=
  if scale = 255 then (b32.nan, Flags.none)
  else b32.conv false .rne (scaled (e2m1.dec code) ((scale : Int) - 127))

/-- A quantised block: its scale as a bfloat16 code, its integers, the residuals as binary32 codes and the
flags (R62, R63). -/
structure QBlock where
  d     : Nat
  q     : List Int
  resid : List Nat
  flags : Flags
deriving DecidableEq, Repr

/-- A value presented for quantisation: an infinity or a NaN counts as +0 (R63). -/
def qIn (x : Nat) : Nat := if b32.nonfinite x then 0 else x

/-- The residual `v - q * d`, formed in binary32 by RNE (R62): −0 for a value of −0, whose product is +0. -/
def qResid (x : Nat) (q : Int) (d : Nat) : Nat :=
  match b32.dec x, bf16.dec d with
  | .fin n m e, .fin _ m' e' =>
    let (z, g) := exactAdd n m e (decide (0 < q)) (q.natAbs * m') e'
    if z = 0 then b32.zero (n && decide (m = 0)) else (b32.round true .rne (decide (z < 0)) z.natAbs g).1
  | _, _ => 0

/-- Rounding of the exact quotient of two magnitudes to an integer by RNE. -/
def divRne (m : Nat) (e : Int) (m' : Nat) (e' : Int) : Nat :=
  let num := m * 2 ^ (e - min e e').toNat
  let den := m' * 2 ^ (e' - min e e').toNat
  let q := num / den
  let r := 2 * (num % den)
  if den < r || (r = den && q % 2 = 1) then q + 1 else q

/-- The residuals of a block; a value that was infinite or NaN leaves +0 (R63). -/
def qResids (l : List Nat) (q : List Int) (d : Nat) : List Nat :=
  List.zipWith (fun x k => if b32.nonfinite x then 0 else qResid x k d) l q

/-- XQ where a value presented was infinite or NaN (R63), and INV where one was a signalling NaN (R35). -/
def qFlags (l : List Nat) : Flags :=
  l.foldl (fun f x => (f.or (sigFlag (b32.dec x))).or (if b32.nonfinite x then Flags.XQ else Flags.none)) Flags.none

/-- An X4 block (R62). -/
def x4Block (l : List Nat) : QBlock :=
  let v := l.map qIn
  let m := maxMag v
  let d := match b32.dec m with
    | .fin _ mm e => if mm = 0 then 0 else (bf16.round false .rup false (mm * 2 ^ 40 / 7) (e - 40) (mm * 2 ^ 40 % 7 != 0)).1
    | _ => 0
  let q := v.map fun x =>
    match b32.dec x, bf16.dec d with
    | .fin n mm e, .fin _ md ed => if md = 0 then 0 else sgn n (min 7 (divRne mm e md ed))
    | _, _ => 0
  ⟨d, q, qResids l q d, qFlags l⟩

/-- The sum of finite magnitudes, as an integer times a power of 2. -/
def sumMag (l : List Nat) : Nat × Int :=
  ((l.map fun x => match b32.dec x with
    | .fin _ m e => m * 2 ^ (e + 149).toNat
    | _ => 0).foldl (· + ·) 0, -149)

/-- An X2 block (R62); the mean is the exact mean rounded once to binary32 and then to bfloat16 (DEDUCED,
log 13). -/
def x2Block (l : List Nat) : QBlock :=
  let v := l.map qIn
  let (m, e) := sumMag v
  let mean := b32.round true .rne false m (e - 6)
  let dc := bf16.conv false .rne (b32.dec mean.1)
  let d := dc.1
  let q := v.map fun x =>
    match b32.dec x, bf16.dec d with
    | .fin n mm e, .fin _ md ed =>
      let lo := min e (ed - 1)
      if md = 0 || decide (mm * 2 ^ (e - lo).toNat < md * 2 ^ (ed - 1 - lo).toNat) then 0 else sgn n 1
    | _, _ => 0
  ⟨d, q, qResids l q d, ((qFlags l).or mean.2).or dc.2⟩

/-- The bytes of an X4 block (R38). -/
def x4Bytes (b : QBlock) : List Byte :=
  leBytes 34 (b.d + ((b.q.zipIdx.map fun p => codeOf 4 p.1 * 2 ^ (16 + 4 * p.2)).foldl (· + ·) 0))

/-- The bytes of an X2 block (R39). -/
def x2Bytes (b : QBlock) : List Byte :=
  leBytes 18 (b.d + ((b.q.zipIdx.map fun p => codeOf 2 p.1 * 2 ^ (16 + 2 * p.2)).foldl (· + ·) 0))

/-- Whether a scale is taken: 0 decodes all as +0 without a flag, a bad one with XQ (R40). -/
def scaleOk (d : Nat) : Option Bool :=
  match bf16.dec d with
  | .fin n m _ => if m = 0 then none else some (!n)
  | _ => some false

/-- A value of an X4 (4 bits) or X2 (2 bits) block, as a binary32 code, and its flags (R38 to R40); a signalling
NaN as the scale sets INV too (R35). Decoding is a conversion, so `q * d` beyond the largest finite saturates with
OVF by R56 (DEDUCED: R38 states no result there; log 13). -/
def qDecode (bits' : Nat) (d code : Nat) : Nat × Flags :=
  match scaleOk d with
  | none => (0, Flags.none)
  | some false => (0, Flags.XQ.or (sigFlag (bf16.dec d)))
  | some true =>
    if bits' = 2 && code % 4 = 2 then (0, Flags.XQ)
    else
      let q := signedOf bits' code
      match bf16.dec d with
      | .fin _ m e =>
        if q = 0 then (0, Flags.none)
        else b32.round false .rne (decide (q < 0)) (q.natAbs * m) e
      | _ => (0, Flags.none)

/-- All values of a block of 64, from its bytes. -/
def blockDecode (bits' : Nat) (l : List Byte) : List Nat × Flags :=
  let x := leNat l
  let r := (List.range 64).map fun i => qDecode bits' (x % 2 ^ 16) (x / 2 ^ (16 + bits' * i) % 2 ^ bits')
  (r.map (·.1), r.foldl (fun f p => f.or p.2) Flags.none)

end Sys2Proof.Machine
end

