-- ==== Sys2Proof/Machine/Operands.lean ====
section
/-!
DEFINITION. Sys2Proof/Machine/Operands.lean: the fields of schedule words (R76 to R82), of vector
instructions (R94, R97) and of tensor descriptors (R99 to R101), and the rules that make them illegal.
-/

namespace Sys2Proof.Machine

/-! ### Schedule words -/

/-- Bits of a schedule word. -/
def wf (hi lo : Nat) (w : BitVec 128) : Nat := bits hi lo w.toNat

/-- OP of a schedule word (R76). -/
def wOp (w : BitVec 128) : Nat := wf 127 122 w
/-- PASS (R78). -/
def wPass (w : BitVec 128) : Nat := wf 121 120 w
/-- XFMT (R78). -/
def wXfmt (w : BitVec 128) : Nat := wf 119 116 w
/-- YFMT (R78). -/
def wYfmt (w : BitVec 128) : Nat := wf 115 112 w
/-- AMASK (R78, R81). -/
def wAmask (w : BitVec 128) : Nat := wf 111 104 w
/-- CLR (R78). -/
def wClr (w : BitVec 128) : Bool := wf 103 103 w == 1
/-- LTAG (R78). -/
def wLtag (w : BitVec 128) : Nat := wf 102 95 w
/-- RLEN (R78). -/
def wRlen (w : BitVec 128) : Nat := wf 94 74 w
/-- KLEN (R78). -/
def wKlen (w : BitVec 128) : Nat := wf 73 61 w
/-- XOFF (R78). -/
def wXoff (w : BitVec 128) : Nat := wf 60 49 w
/-- YOFF (R78). -/
def wYoff (w : BitVec 128) : Nat := wf 48 37 w
/-- SOFF (R78). -/
def wSoff (w : BitVec 128) : Nat := wf 36 25 w
/-- TSEL (R78). -/
def wTsel (w : BitVec 128) : Nat := wf 24 23 w
/-- SR (R81). -/
def wSr (w : BitVec 128) : Bool := wf 121 121 w == 1
/-- IOVF (R81). -/
def wIovf (w : BitVec 128) : Bool := wf 120 120 w == 1
/-- OFMT (R81). -/
def wOfmt (w : BitVec 128) : Nat := wf 119 116 w
/-- NOCHK (R81). -/
def wNochk (w : BitVec 128) : Bool := wf 115 115 w == 1
/-- DSLOT of TLOAD and TSTORE (R81). -/
def wDslot (w : BitVec 128) : Nat := wf 103 98 w
/-- DOFF (R81). -/
def wDoff (w : BitVec 128) : Nat := wf 97 86 w
/-- EOFF, signed (R81). -/
def wEoff (w : BitVec 128) : Int := signedOf 24 (wf 85 62 w)
/-- SIGEN (R81). -/
def wSigen (w : BitVec 128) : Bool := wf 61 61 w == 1
/-- TOK of TLOAD and TSTORE (R81). -/
def wTok (w : BitVec 128) : Nat := wf 60 55 w
/-- TAG (R81). -/
def wTag (w : BitVec 128) : Nat := wf 54 39 w
/-- RBACK (R81). -/
def wRback (w : BitVec 128) : Nat := wf 38 23 w
/-- SDOFF (R81). -/
def wSdoff (w : BitVec 128) : Nat := wf 22 11 w
/-- The field in [121:116]: DSLOT of DLOAD, TOK of TSIG and TWAIT (R82). -/
def wF6 (w : BitVec 128) : Nat := wf 121 116 w
/-- INDEX of DLOAD (R82). -/
def wIndex (w : BitVec 128) : Nat := wf 115 92 w
/-- COUNT of TSIG and TWAIT (R82). -/
def wCount (w : BitVec 128) : Nat := wf 115 100 w
/-- NOCON of TWAIT (R82). -/
def wNocon (w : BitVec 128) : Bool := wf 99 99 w == 1
/-- COND of BRF (R82). -/
def wCond (w : BitVec 128) : Nat := wf 121 118 w
/-- ARG of BRF (R82). -/
def wArg (w : BitVec 128) : Nat := wf 117 112 w
/-- IMM of BRF (R82). -/
def wImm (w : BitVec 128) : Nat := wf 111 96 w
/-- TARGET of BRF, signed (R82). -/
def wTarget (w : BitVec 128) : Int := signedOf 32 (wf 95 64 w)

/-- The opcodes of R76. -/
def opNop : Nat := 0x00
/-- TLOAD. -/
def opTload : Nat := 0x01
/-- TSTORE. -/
def opTstore : Nat := 0x02
/-- TEMIT. -/
def opTemit : Nat := 0x03
/-- DLOAD. -/
def opDload : Nat := 0x04
/-- MMA. -/
def opMma : Nat := 0x08
/-- MMAT. -/
def opMmat : Nat := 0x09
/-- STAT. -/
def opStat : Nat := 0x0A
/-- TSIG. -/
def opTsig : Nat := 0x10
/-- TWAIT. -/
def opTwait : Nat := 0x11
/-- BRF. -/
def opBrf : Nat := 0x18
/-- SEG. -/
def opSeg : Nat := 0x19
/-- LSET. -/
def opLset : Nat := 0x1A
/-- END. -/
def opEnd : Nat := 0x1F

/-- Every opcode that is not reserved. -/
def opcodes : List Nat :=
  [opNop, opTload, opTstore, opTemit, opDload, opMma, opMmat, opStat, opTsig, opTwait, opBrf, opSeg, opLset, opEnd]

/-- An accumulating word: MMA, MMAT or STAT. -/
def isAcc (w : BitVec 128) : Bool := wOp w == opMma || wOp w == opMmat || wOp w == opStat

/-- The arrays a mask selects, in ascending order. -/
def maskArrays (m : Nat) : List Nat := (List.range 8).filter fun a => m.testBit a

/-- Bits per element of a panel format: binary32, 16-bit, FP8 and MXFP4 (R80). -/
def panelBits (fmt : Nat) : Nat :=
  match fmt with
  | 0 => 32
  | 1 => 16
  | 2 => 16
  | 5 => 4
  | _ => 8

/-- Lines of a panel of 64 rows of `k` elements (R80). -/
def panelLines (fmt k : Nat) : Nat := k * panelBits fmt / 8

/-- Products per cell per cycle (R42). -/
def groupSize (x : Nat) : Nat := if x = 5 then 4 else if x = 3 || x = 4 then 2 else 1

/-- The pairs of operand formats R42 allows. -/
def pairOk (x y : Nat) : Bool :=
  ((x == 1 || x == 2) && (y == 1 || y == 2)) || ((x == 3 || x == 4) && (y == 3 || y == 4)) ||
  (x == 5 && y == 5) || (x == 0 && (y == 0 || y == 1)) || (x == 1 && y == 0)

/-- Formats that the extra passes may extend (R55, R80). -/
def wideFmt (x : Nat) : Bool := x == 0 || x == 1

/-- The pass floor of a layer tag: registers of 32 two-bit entries (R80, R108). -/
def floorOf (s : State) (c tag : Nat) : Nat := (s.rd .ARY_PASSFLOOR c (tag / 32)).toNat / 2 ^ (2 * (tag % 32)) % 4

/-- The pass count in force for a multiply word (R80). -/
def passesOf (s : State) (c : Nat) (w : BitVec 128) : Nat :=
  if wOp w != opStat && wideFmt (wXfmt w) && wideFmt (wYfmt w) then max (wPass w) (max 1 (floorOf s c (wLtag w)))
  else wPass w

/-- The first line of the base window of a cluster (R214). -/
def windowStart (s : State) (c : Nat) : Nat :=
  4096 - min (s.rdF .MEM_CDC_BWIN Fld.MEM_CDC_BWIN_BWLINES c) 1024 / 32 * 32

/-- Pilot service (R374, R398). -/
def State.pilot (s : State) : Bool := s.rdF .GLB_STATE Fld.GLB_STATE_STATE == 1

/-- Whether two stretches, each given by its first and the first past its end, meet. -/
def overlaps (x y : Nat × Nat) : Bool := decide (x.1 < y.2) && decide (y.1 < x.2)

/-- Whether a multiply word keeps R42, R45, R55, R78, R80, R112, R117, R214, R375 and R444, by which its scale lines
lie apart from its panels' lines. -/
def mulOk (s : State) (c : Nat) (w : BitVec 128) : Bool :=
  let x := wXfmt w
  let y := wYfmt w
  let k := wKlen w
  let mx := x == 5
  let lim := windowStart s c
  let tl := wTsel w % 2 == 1 || wOp w == opStat
  let tr := wTsel w / 2 == 1
  (!s.pilot || decide (passesOf s c w ≤ 1)) &&
  wPass w != 0 && wf 22 0 w == 0 && wAmask w != 0 && pairOk x y && decide (1 ≤ k) && decide (k ≤ 4096) &&
  (!wClr w || wRlen w != 0) && decide (k % groupSize x = 0) && (!mx || decide (k % 32 = 0)) &&
  (!(mx && wClr w) || decide (wRlen w % 32 = 0)) && (mx || wSoff w == 0) &&
  (decide (passesOf s c w ≤ 1) || (wideFmt x && wideFmt y)) &&
  decide (wXoff w + panelLines x k ≤ lim) && decide (wYoff w + panelLines y k ≤ lim) &&
  (!mx || (decide (wSoff w + 2 * (k / 32) ≤ lim) &&
    !overlaps (wSoff w, wSoff w + 2 * (k / 32)) (wXoff w, wXoff w + panelLines x k) &&
    !overlaps (wSoff w, wSoff w + 2 * (k / 32)) (wYoff w, wYoff w + panelLines y k))) &&
  (if wOp w == opMmat then wTsel w != 0 && !mx && (!tl || decide (k * panelBits x / 8 % 64 = 0))
      && (!tr || decide (k * panelBits y / 8 % 64 = 0))
   else if wOp w == opStat then wTsel w == 0 && wPass w == 1 && x != 0 && !mx && y != 0
      && decide (k * panelBits x / 8 % 64 = 0)
   else wTsel w == 0)

/-! ### Descriptors -/

/-- A tensor descriptor (R99). -/
structure Desc where
  base    : Nat
  fmt     : Nat
  ndim    : Nat
  sizes   : List Nat
  strides : List Int
  scale   : Nat
deriving DecidableEq, Repr

/-- The fields of a descriptor; dimensions at or above NDIM count as size 1 (R99). -/
def descOf (d : BitVec 512) : Desc :=
  let x := d.toNat
  let n := bits 54 52 x
  { base := bits 47 0 x, fmt := bits 51 48 x, ndim := n,
    sizes := (List.range 6).map fun i => if i < n then bits (87 + 60 * i) (64 + 60 * i) x else 1,
    strides := (List.range 6).map fun i => if i < n then signedOf 36 (bits (123 + 60 * i) (88 + 60 * i) x) else 0,
    scale := bits 471 424 x }

/-- Whether a descriptor keeps the rules that concern it alone (R99, R100, R445). -/
def descOk (d : BitVec 512) : Bool :=
  let x := d.toNat
  let t := descOf d
  let s0 := t.strides.headD 0
  let z0 := t.sizes.headD 0
  let rest := (t.strides.take t.ndim).drop 1
  bits 63 55 x == 0 && bits 511 472 x == 0 && decide (t.fmt ≤ 10) && decide (1 ≤ t.ndim) && decide (t.ndim ≤ 6) &&
  (t.fmt == 5 || t.scale == 0) &&
  (t.fmt != 5 || (decide (s0 = 1) && decide (z0 % 32 = 0) && rest.all fun r => decide (r % 2 = 0))) &&
  (!(t.fmt == 8 || t.fmt == 9) ||
    (decide (s0 = 1) && decide (z0 % 64 = 0) && rest.all fun r => decide (r % 64 = 0)))

/-- The number of elements. -/
def Desc.count (d : Desc) : Nat := d.sizes.foldl (· * ·) 1

/-- The indices of a linear index, dimension 0 fastest (R101). -/
def unlin : List Nat → Nat → List Nat
  | [], _ => []
  | n :: r, x => (if n = 0 then 0 else x % n) :: unlin r (if n = 0 then 0 else x / n)

/-- The offset in elements of an index vector (R99). -/
def offOf (idx : List Nat) (str : List Int) : Int := (List.zipWith (fun (i : Nat) (s : Int) => (i : Int) * s) idx str).foldl (· + ·) 0

/-- The offset in elements of a linear index (R99, R101). -/
def Desc.off (d : Desc) (lin : Nat) : Int := offOf (unlin d.sizes lin) d.strides

/-- Elements and bytes of the smallest piece of a format that starts on a byte: one element, or a block
of MXFP4, X4 or X2 (R37 to R39). -/
def fmtUnit (fmt : Nat) : Nat × Nat :=
  match fmt with
  | 0 => (1, 4)
  | 1 => (1, 2)
  | 2 => (1, 2)
  | 5 => (32, 16)
  | 6 => (1, 8)
  | 7 => (1, 4)
  | 8 => (64, 34)
  | 9 => (64, 18)
  | _ => (1, 1)

/-- The byte address of an element offset (R37, R99); the start of its block in X4 and X2. -/
def Desc.addr (d : Desc) (off : Int) : Nat :=
  let b : Int := match d.fmt with
    | 5 => off / 2
    | _ => let u := fmtUnit d.fmt; off / (u.1 : Int) * (u.2 : Int)
  (((d.base : Int) + b) % (2 ^ 48 : Int)).toNat

/-- The tensor as pieces of whole units, in linear order: byte address and length (R101). -/
def Desc.runs (d : Desc) (eoff : Int) : List (Nat × Nat) :=
  let u := fmtUnit d.fmt
  (List.range (d.count / u.1)).map fun i => (d.addr (d.off (u.1 * i) + eoff), u.2)

/-- Neighbouring pieces joined. -/
def joinRuns : List (Nat × Nat) → List (Nat × Nat)
  | [] => []
  | (a, n) :: r =>
    match joinRuns r with
    | [] => [(a, n)]
    | (b, m) :: t => if a + n = b then (a, n + m) :: t else (a, n) :: (b, m) :: t

/-- Lines that a TLOAD fills: its bytes in whole lines (R81). -/
def Desc.lines (d : Desc) : Nat := (d.count / (fmtUnit d.fmt).1 * (fmtUnit d.fmt).2 + 63) / 64

/-- The stretches of memory that a tensor's elements and scales lie in. -/
def Desc.spans (d : Desc) : List (Nat × Nat) :=
  ((joinRuns (d.runs 0)).map fun r => (r.1, r.1 + r.2)) ++
    (if d.fmt = 5 then [(d.scale, d.scale + d.count / 32)] else [])

/-- Whether a destination and a source keep R103: identical in base, format, sizes and strides, or apart. An
instruction that names others is illegal (R98, R445). -/
def Desc.apart (dst src : Desc) : Bool :=
  (dst.base == src.base && dst.fmt == src.fmt && dst.sizes == src.sizes && dst.strides == src.strides) ||
  !(dst.spans.any fun x => src.spans.any fun y => overlaps x y)

/-- Scale lines of an MXFP4 panel (R444). -/
def Desc.scaleLines (d : Desc) : Nat := if d.fmt = 5 then (d.count / 32 + 63) / 64 else 0

/-! ### Vector instructions -/

/-- Bits of a vector instruction. -/
def vf (hi lo : Nat) (w : BitVec 64) : Nat := bits hi lo w.toNat

/-- OP (R94). -/
def vOp (w : BitVec 64) : Nat := vf 63 57 w
/-- T: tensor form (R94). -/
def vT (w : BitVec 64) : Bool := vf 56 56 w == 1
/-- RM (R94). -/
def vRm (w : BitVec 64) : Nat := vf 55 53 w
/-- MSEL (R94). -/
def vMsel (w : BitVec 64) : Nat := vf 52 50 w
/-- TY (R94). -/
def vTy (w : BitVec 64) : Nat := vf 49 48 w
/-- D (R94). -/
def vD (w : BitVec 64) : Nat := vf 47 42 w
/-- A (R94). -/
def vA (w : BitVec 64) : Nat := vf 41 36 w
/-- B (R94). -/
def vB (w : BitVec 64) : Nat := vf 35 30 w
/-- C (R94). -/
def vC (w : BitVec 64) : Nat := vf 29 24 w
/-- EXT (R94). -/
def vExt (w : BitVec 64) : Nat := vf 23 0 w

end Sys2Proof.Machine
end

