-- ==== Sys2Proof/Machine/Cells.lean ====
section
/-!
DEFINITION. Sys2Proof/Machine/Cells.lean: the arrays: operands in the buffers (R110, R111, R444), the
cell's accumulation (R43 to R50, R54), and the output stage's conversions (R51, R185, R187).
-/

namespace Sys2Proof.Machine

/-- A stretch of a table replaced by new values; the keys of `vals` lie in it and rise. -/
def replaceRange {α : Type} [DecidableEq α] (d : α) (m : Tab α) (lo hi : Nat) (vals : List (Nat × α)) : Tab α :=
  m.filter (fun e => decide (e.1 < lo)) ++ vals.filter (fun e => decide (e.2 ≠ d)) ++ m.filter (fun e => decide (hi ≤ e.1))

/-- Bytes of an array's operand buffer (R73). -/
def bufBytes : Nat := 262144

/-- A little-endian number in the operand buffer of array `a`. -/
def bufLe (buf : Tab Byte) (a off n : Nat) : Nat :=
  leNat ((List.range n).map fun i => Tab.at 0 buf (bufBytes * a + off + i))

/-- Bytes written into the operand buffer of array `a` from an offset. -/
def bufPut (buf : Tab Byte) (a off : Nat) (d : List Byte) : Tab Byte :=
  let lo := bufBytes * a + off
  replaceRange 0 buf lo (lo + d.length) (d.zipIdx.map fun p => (lo + p.2, p.1))

/-- A panel that a multiply word reads: array, format, first line, whether the reduction dimension is
fastest, its length, and the first scale line (R110, R111, R444). -/
structure Panel where
  a     : Nat
  fmt   : Nat
  line  : Nat
  trans : Bool
  klen  : Nat
  sline : Nat
deriving DecidableEq, Repr

/-- Element (row, κ) of a panel; `lo` asks for the low half of a split binary32 (R53). A binary32 panel
holds each element as its high half and then its low half (DESIGN CHOICE, log 10). -/
def Panel.elem (p : Panel) (buf : Tab Byte) (row k : Nat) (lo : Bool) : Val :=
  let e := if p.trans || p.fmt == 5 then row * p.klen + k else k * 64 + row
  let base := 64 * p.line
  match p.fmt with
  | 0 => bf16.dec (bufLe buf p.a (base + 4 * e + (if lo then 2 else 0)) 2)
  | 1 => if lo then .fin false 0 0 else bf16.dec (bufLe buf p.a (base + 2 * e) 2)
  | 2 => b16.dec (bufLe buf p.a (base + 2 * e) 2)
  | 3 => e4m3.dec (bufLe buf p.a (base + e) 1)
  | 4 => e5m2.dec (bufLe buf p.a (base + e) 1)
  | _ =>
    let nib := bufLe buf p.a (base + e / 2) 1 / 16 ^ (e % 2) % 16
    let sc := bufLe buf p.a (64 * p.sline + row * (p.klen / 32) + k / 32) 1
    if sc = 255 then .nan false
    else match e2m1.dec nib with
      | .fin n m x => .fin n m (x + (sc : Int) - 127)
      | v => v

/-- The sweeps of a pass count: which halves meet (R54). -/
def sweeps (passes : Nat) : List (Bool × Bool) :=
  match passes with
  | 2 => [(false, true), (false, false)]
  | 3 => [(false, true), (true, false), (false, false)]
  | _ => [(false, false)]

/-- A value moved down by a power of 2, exactly (R185). -/
def Val.scale (v : Val) (d : Int) : Val :=
  match v with
  | .fin n m e => .fin n m (e + d)
  | v => v

/-- A cell while it accumulates: its contents, its shift register and the flags it raised. -/
structure CellRun where
  cell  : Cell
  lfsr  : BitVec 32
  flags : Flags
deriving DecidableEq, Repr

/-- A term cut to the grid of `2 ^ g`, in units of it (R46). -/
def cutTerm (g : Int) (n : Bool) (m : Nat) (e : Int) : Int :=
  if e ≥ g then sgn n (m * 2 ^ (e - g).toNat) else sgn n (m / 2 ^ (g - e).toNat)

/-- The exponent of the leading bit of a finite non-zero term (R46). -/
def leadExp : Val → Option Int
  | .fin _ m e => if m = 0 then none else some (e + (Nat.log2 m : Int))
  | _ => none

/-- The largest of some exponents. -/
def maxExp (l : List Int) : Option Int :=
  match l with
  | [] => none
  | x :: r => some (r.foldl max x)

/-- Whether a value is the negative zero. -/
def Val.isNegZero : Val → Bool
  | .fin n m _ => n && decide (m = 0)
  | _ => false

/-- Whether a value is an infinity of a sign. -/
def Val.isInf (s : Bool) : Val → Bool
  | .inf n => n == s
  | _ => false

/-- One cycle of a cell: a group of products into the accumulator (R46 to R50). Under SR every rounding of step 5
draws, that of a kept sum of 0 too; a cycle whose terms are all zero, or one decided by R50, rounds nothing. -/
def cellCycle (sr : Bool) (group : List (Val × Val)) (scale : Int) (r : CellRun) : CellRun :=
  let a := b32.dec r.cell.val.toNat
  let sig := group.foldl (fun f p => (f.or (sigFlag p.1)).or (sigFlag p.2)) (sigFlag a)
  let nanIn := a.isNan || group.any fun p => p.1.isNan || p.2.isNan
  if nanIn then { r with cell := ⟨BitVec.ofNat 32 b32.nan, r.cell.ovf⟩, flags := r.flags.or sig }
  else
    let prods := group.map fun p => (mulV p.1 p.2).map fun v => v.scale scale
    if prods.any Option.isNone then
      { r with cell := ⟨BitVec.ofNat 32 b32.nan, r.cell.ovf⟩, flags := r.flags.or Flags.INV }
    else
      let terms := prods.filterMap id ++ [a]
      let pos := terms.any (Val.isInf false)
      let neg := terms.any (Val.isInf true)
      if pos && neg then { r with cell := ⟨BitVec.ofNat 32 b32.nan, r.cell.ovf⟩, flags := r.flags.or Flags.INV }
      else if pos || neg then { r with cell := ⟨BitVec.ofNat 32 (b32.inf neg), r.cell.ovf⟩ }
      else match maxExp (terms.filterMap leadExp) with
        | none => { r with cell := ⟨BitVec.ofNat 32 (b32.zero (terms.all Val.isNegZero)), r.cell.ovf⟩ }
        | some big =>
          let g := big - 26
          let sum : Int := (terms.map fun t => match t with
            | .fin n m e => cutTerm g n m e
            | _ => 0).foldl (· + ·) 0
          let (l, d) := lfsrDraw r.lfsr
          if sum = 0 then { r with cell := ⟨0, r.cell.ovf⟩, lfsr := if sr then l else r.lfsr }
          else
            let (c, f) := b32.round true (if sr then .sr d else .rne) (decide (sum < 0)) sum.natAbs g
            { r with cell := ⟨BitVec.ofNat 32 c, r.cell.ovf || f.ovf⟩, lfsr := if sr then l else r.lfsr }

/-- One sweep of a cell over a panel pair in groups of `g` (R46, R54). -/
def cellSweep (sr : Bool) (px py : Panel) (buf : Tab Byte) (i j g : Nat) (scale : Int) (lo : Bool × Bool)
    (r : CellRun) : CellRun :=
  (List.range (px.klen / g)).foldl (fun r q =>
    cellCycle sr ((List.range g).map fun t =>
      (px.elem buf i (g * q + t) lo.1, py.elem buf j (g * q + t) lo.2)) scale r) r

/-- The seed of a shift register (R49): some non-zero value. -/
def seedOf (epoch idx : Nat) : BitVec 32 :=
  let s := Config.lfsrSeed epoch idx
  if s = 0 then 1 else s

/-- A cell's shift register. -/
def Cluster.cellLfsr (k : Cluster) (idx : Nat) : BitVec 32 :=
  let r := Tab.at 0 k.lfsr idx
  if r = 0 then seedOf k.epoch idx else r

/-- A cell. -/
def Cluster.cell (k : Cluster) (idx : Nat) : Cell := Tab.at Cell.zero k.acc idx

/-- The left and right panels of a multiply word in an array (R78, R110, R111, R117, R444). -/
def panels (w : BitVec 128) (a : Nat) : Panel × Panel :=
  let k := wKlen w
  let t := wTsel w
  (⟨a, wXfmt w, wXoff w, t % 2 == 1 || wOp w == opStat, k, wSoff w⟩,
   ⟨a, wYfmt w, wYoff w, t / 2 == 1, k, wSoff w + k / 32⟩)

/-- A multiply word in one array: `passes` sweeps at a scale (R46, R54, R74, R185). -/
def mulArray (w : BitVec 128) (passes : Nat) (scale : Int) (k : Cluster) (a : Nat) : Cluster × Flags :=
  let stat := wOp w == opStat
  let (px, py) := panels w a
  let sr := stat || Tab.at false k.long a
  let runs := (List.range 4096).map fun n =>
    let idx := 4096 * a + n
    let c0 : CellRun := ⟨if wClr w then Cell.zero else k.cell idx, k.cellLfsr idx, Flags.none⟩
    (idx, (sweeps passes).foldl (fun r lo =>
      cellSweep sr px py k.buf (n / 64) (n % 64) (groupSize (wXfmt w)) scale lo r) c0)
  ({ k with
      acc := replaceRange Cell.zero k.acc (4096 * a) (4096 * (a + 1)) (runs.map fun r => (r.1, r.2.cell)),
      stat := Tab.upd false k.stat a stat,
      lfsr := if sr then replaceRange 0 k.lfsr (4096 * a) (4096 * (a + 1)) (runs.map fun r => (r.1, r.2.lfsr))
        else k.lfsr },
   runs.foldl (fun f r => f.or r.2.flags) Flags.none)

/-- A multiply word in every array it selects; a word with CLR = 1 sets the rounding mode of its arrays
(R44, R80). -/
def mulWord (s : State) (c : Nat) (w : BitVec 128) (passes : Nat) (scale : Int) (k : Cluster) : Cluster × Flags :=
  let t := s.rdF .ARY_LONGEXP Fld.ARY_LONGEXP_T c
  let long := decide (2 ^ t ≤ wRlen w)
  let arrays := maskArrays (wAmask w)
  let k := { k with
    ishadow := k.acc
    long := if wClr w && wOp w != opStat then arrays.foldl (fun m a => Tab.upd false m a long) k.long else k.long }
  arrays.foldl (fun p a => let r := mulArray w passes scale p.1 a; (r.1, p.2.or r.2)) (k, Flags.none)

/-- A finished accumulator as the output stage reads it at retry `r` (R185). -/
def outVal (r : Nat) (c : Cell) : Val := (b32.dec c.val.toNat).scale (4 * r)

/-- Whether the conversion of a value at retry `r` rounds: a finite value does, but not into binary32 where it
goes out unchanged (R49, R51, R185). -/
def outRounds (f : Fmt) (r : Nat) (v : Val) : Bool :=
  match v with
  | .fin _ _ _ => f != b32 || r != 0
  | _ => false

/-- A value converted for a store or emit (R51, R185): the code, the flags and the shift register, which draws
where the conversion rounds under SR. -/
def outConv (f : Fmt) (sr iovf : Bool) (r : Nat) (v : Val) (l : BitVec 32) : Nat × Flags × BitVec 32 :=
  let sr := sr && outRounds f r v
  let (l', d) := lfsrDraw l
  let (x, fl) := f.conv iovf (if sr then .sr d else .rne) v
  (x, fl, if sr then l' else l)

/-- One element converted for a store or emit. -/
def outElem (f : Fmt) (sr iovf : Bool) (r : Nat) (c : Cell) (l : BitVec 32) : Nat × Flags × BitVec 32 :=
  outConv f sr iovf r (outVal r c) l

/-- One element converted by the fallback, an infinite accumulator as the largest finite of its sign (R187). -/
def fallElem (f : Fmt) (sr : Bool) (c : Cell) (l : BitVec 32) : Nat × Flags × BitVec 32 :=
  match outVal 2 c with
  | .inf n => outConv f sr false 2 ((b32.dec (b32.big n)).scale 8) l
  | v => outConv f sr false 2 v l

/-- The tile of an array converted at retry `r`, or by the fallback. -/
def outTile (k : Cluster) (w : BitVec 128) (addr : BitVec 48) (a place r : Nat) (fall : Bool) (desc : BitVec 512) :
    Tile × Cluster :=
  let f := (fmtOf (wOfmt w)).getD b32
  let res := (List.range 4096).map fun n =>
    let idx := 4096 * a + n
    let c := k.cell idx
    (idx, c.ovf, if fall then fallElem f (wSr w) c (k.cellLfsr idx)
      else outElem f (wSr w) (wIovf w) r c (k.cellLfsr idx))
  let fl := res.foldl (fun x e => x.or e.2.2.2.1) (if fall then Flags.OVF else Flags.none)
  ({ array := a, addr, word := w, codes := res.map (·.2.2.1), flags := fl.toNat, ovf := res.any (·.2.1),
     sat := fall && wOp w == opTemit, place, desc,
     last := decide (place + 1 = (maskArrays (wAmask w)).length) },
   if wSr w then { k with lfsr := replaceRange 0 k.lfsr (4096 * a) (4096 * (a + 1)) (res.map fun e => (e.1, e.2.2.2.2)) } else k)

/-- The tiles of a store or emit, in ascending array order (R81). -/
def outTiles (k : Cluster) (w : BitVec 128) (addr : BitVec 48) (r : Nat) (fall : Bool) (desc : BitVec 512) :
    List Tile × Cluster :=
  (maskArrays (wAmask w)).zipIdx.foldl (fun p a =>
    let t := outTile p.2 w addr a.1 a.2 r fall desc
    (p.1 ++ [t.1], t.2)) ([], k)

/-- The two bfloat16 halves of a binary32 code, high half first, and whether INV is raised (R53). -/
def splitHalves (x : Nat) : Nat × Nat × Bool :=
  match b32.dec x with
  | .nan s => (bf16.nan, 0, s)
  | .inf n => (bf16.inf n, 0, false)
  | .fin n m e =>
    let hi := (bf16.conv false .rne (.fin n m e)).1
    match bf16.dec hi with
    | .fin n' m' e' =>
      let (z, g) := exactAdd n m e (!n') m' e'
      (hi, if z = 0 then 0 else (bf16.round false .rne (decide (z < 0)) z.natAbs g).1, false)
    | _ => (hi, 0, false)

end Sys2Proof.Machine
end

