-- ==== Sys2Proof/Machine/SeqBase.lean ====
section
/-!
DEFINITION. Sys2Proof/Machine/SeqBase.lean: what every schedule word shares: tokens (R83), retirement and
the sample ring (R410 to R412), the slipway (R91), release of what a region held (R88), squash (R87),
resolution of decisions (R85), stops (R77, R240), and the issue of a word (R86).
-/

namespace Sys2Proof.Machine

/-! ### State of a sequencer -/

/-- STATE of a sequencer (R108). -/
def seqState (s : State) (c : Nat) : Nat := s.rdF .ARY_STATUS Fld.ARY_STATUS_STATE c

/-- A new STATE. -/
def setSeq (c x : Nat) : Prog Unit := wrF .ARY_STATUS Fld.ARY_STATUS_STATE x c

/-- A sequencer that runs: in RUN, or started by the unit it is lent to (R147). -/
def seqRuns (s : State) (c : Nat) : Bool :=
  seqState s c == 1 || (seqState s c == 7 && (s.cluster c).lentRun)

/-- A sequencer that may issue its next word: nothing holds it back (R86, R89, R91). -/
def seqReady (s : State) (c : Nat) : Bool :=
  seqRuns s c && (s.cluster c).twait.isNone && (s.cluster c).out.isEmpty && !(s.cluster c).drain

/-- Granules of a slipway entry (R91). -/
def granules (fmt : Nat) : Nat := if fmt = 0 then 4 else if fmt ≤ 2 then 2 else 1

/-- Free granules of a slipway (R73, R91). -/
def Cluster.slipFree (k : Cluster) : Nat := 128 - (k.slip.map fun e => granules e.fmt).foldl (· + ·) 0

/-- Words of the depth in use (R86). -/
def Cluster.depth (k : Cluster) : Nat := (k.decs.map (·.depth)).foldl (· + ·) 0

/-- The address of what waits to leave. -/
def outAddr : List Held → Option (BitVec 48)
  | .tile t :: _ => some t.addr
  | _ :: r => outAddr r
  | [] => none

/-- The oldest word not yet retired (R108). -/
def Cluster.pc (k : Cluster) : BitVec 48 :=
  match outAddr k.out, k.decs with
  | some a, _ => a
  | none, d :: _ => d.addr
  | none, [] => k.ipc

/-- ARY_STATUS and ARY_PC show the cluster (R108). -/
def showSeq (c : Nat) : Prog Unit := .get fun s =>
  let k := s.cluster c
  Prog.all [wrF .ARY_STATUS Fld.ARY_STATUS_DEPTH (min k.depth 4) c, wrF .ARY_STATUS Fld.ARY_STATUS_PEND k.decs.length c,
    wrF .ARY_STATUS Fld.ARY_STATUS_SLIPFREE k.slipFree c, wrF .ARY_STATUS Fld.ARY_STATUS_SLIPTILES k.slip.length c,
    wrF .ARY_PC Fld.ARY_PC_PC k.pc.toNat c]

/-! ### Lent clusters (R147, R160) -/

/-- Lent clusters of a solver unit, in ascending order (R160). -/
def lentOf (s : State) (u : Nat) : List Nat := (List.range 32).filter fun c => (s.rd .SLV_LENT u).toNat.testBit c

/-- The lent clusters of a solver unit stop: an iteration in progress is discarded (R172, R174). -/
def stopLent (u : Nat) : Prog Unit := .get fun s =>
  Prog.each (lentOf s u) fun c => Prog.when (s.cluster c).lentRun (Prog.all [
    modCl c fun k => { k with
      lentRun := false, decs := [], out := [], log := [], twait := none, vwait := none, vchunk := 0, vrow := [] },
    wrF .VEC_STATUS Fld.VEC_STATUS_STATE 0 c, showSeq c])

/-- A lent cluster has halted or faulted: its unit stops it, its state is discarded and the unit's work
ends (R147, R160). -/
def lentError (c : Nat) : Prog Unit := .get fun s =>
  let drop := Prog.all [modCl c fun k => Cluster.init k.epoch, wrF .ARY_STATUS Fld.ARY_STATUS_STATE 7 c,
    wrF .VEC_STATUS Fld.VEC_STATUS_STATE 0 c, showSeq c]
  match s.lentLu c with
  | some u => drop.seq ((luCause u .lenterr (((s.landing u).phaseB <|> (s.landing u).inHand).getD 0) noElement).seq
      (modLu u fun k => { k with phaseB := none }))
  | none =>
    match s.lentSu c with
    | some u => Prog.all [drop, setF .SLV_ERR Fld.SLV_ERR_LENTERR u,
        Prog.when ((s.solver u).round.any fun r => r.stage == 2) ((stopLent u).seq (suOutcome u 7))]
    | none => .skip

/-- A fault of a lent cluster is its Landing Unit's cause (R153, R154). -/
def lentFault (c : Nat) (f : Flt) : Prog Unit := .get fun s =>
  (match s.lentLu c with
    | some u => luCause u (if f.kind = 3 then .poison else .fault) ((s.landing u).phaseB.getD 0) noElement
    | none => .skip).seq (lentError c)

/-- The next word's address. -/
def setIpc (c : Nat) (a : BitVec 48) : Prog Unit := modCl c fun k => { k with ipc := a, again := false }

/-! ### Tokens -/

/-- Count of a token. -/
def tokenCount (s : State) (c t : Nat) : Nat := (s.rd .ARY_TOKEN c t).toNat

/-- Signals add to a token (R83). -/
def tokenAdd (c t n : Nat) : Prog Unit := .get fun s =>
  let x := tokenCount s c t + n
  (wr .ARY_TOKEN (BitVec.ofNat 64 (min x 65535)) c t).seq
    (Prog.when (decide (65535 < x)) (setF .ARY_ERR Fld.ARY_ERR_TOKOVF c))

/-- A wait tests a token and consumes COUNT unless NOCON (R82, R83); true where it ends. -/
def tokenTake (c t n : Nat) (nocon : Bool) : Prog Bool := .get fun s =>
  if tokenCount s c t < n then .ret false
  else (Prog.when (!nocon) (wr .ARY_TOKEN (BitVec.ofNat 64 (tokenCount s c t - n)) c t)).seq (.ret true)

/-! ### Retirement and sampling -/

/-- The sample record of R411. Latency and cycle count are free values. -/
def sampleRecord (r : Retire) (lat cyc step : Nat) : List Byte :=
  leBytes 32 (r.addr.toNat + r.cls * 2 ^ 48 + (if r.vec then 2 ^ 52 else 0) + (if r.spec then 2 ^ 53 else 0)
    + (if r.fault then 2 ^ 54 else 0) + r.daddr % 2 ^ 48 * 2 ^ 64 + lat % 2 ^ 32 * 2 ^ 128 + step % 2 ^ 48 * 2 ^ 160
    + r.ltag.getD 0 % 256 * 2 ^ 208 + cyc % 2 ^ 40 * 2 ^ 216)

/-- A record written to the ring, or dropped (R412). -/
def sampleWrite (c : Nat) (r : Retire) : Prog Unit :=
  freeVal.bind fun lat => freeVal.bind fun cyc => .get fun s =>
  let head := s.rdF .SMP_HEAD Fld.SMP_HEAD_HEAD c
  if (head + 1) % 4096 = s.rdF .SMP_READ Fld.SMP_READ_READ c then bumpF .SMP_LOST Fld.SMP_LOST_COUNT 1 c
  else (physPut ((s.rd .SMP_BASE c).toNat + 32 * head)
      (sampleRecord r lat.toNat cyc.toNat (s.binding ((s.ownerCl c).getD 0)).step)).seq
    (wrF .SMP_HEAD Fld.SMP_HEAD_HEAD ((head + 1) % 4096) c)

/-- A word or instruction retires (R410): it is counted, and sampled when its class's count reaches N. -/
def retire (c : Nat) (r : Retire) : Prog Unit := .get fun s =>
  let ctrl := s.rd .SMP_CTRL c
  let n := max (getF Fld.SMP_CTRL_N ctrl) 1
  (if r.vec then count (setVec c) 0x20 1 { ltag := r.ltag } else count (setCluster c) 0x11 1 { ltag := r.ltag }).seq
    (if flagF Fld.SMP_CTRL_EN ctrl && r.cls != 0 && r.cls == getF Fld.SMP_CTRL_CLASS ctrl && decide (r.cls ≤ 8) then
      (if (s.cluster c).sampled + 1 ≥ n then
        (modCl c fun k => { k with sampled := 0 }).seq (sampleWrite c r)
      else modCl c fun k => { k with sampled := k.sampled + 1 })
    else .skip)

/-- The sample class of a schedule word (R410). -/
def sampleClass (w : BitVec 128) : Nat :=
  if isAcc w then 1
  else if wOp w = opTload then 2
  else if wOp w = opTstore ∨ wOp w = opTemit then 3
  else if wOp w = opTwait ∨ (wOp w = opBrf ∧ wCond w = 2) then 4
  else 0

/-- The data address of a schedule word (R410). -/
def sampleAddr (k : Cluster) (w : BitVec 128) : Nat :=
  if wOp w = opTload ∨ wOp w = opTstore then
    match Tab.at none k.slots (wDslot w) with
    | some d => (descOf d).addr (wEoff w)
    | none => 0
  else 0

/-- What retires of a word that issues. -/
def retireOf (k : Cluster) (w : BitVec 128) : Retire :=
  { addr := k.ipc, cls := sampleClass w, vec := false, spec := !k.decs.isEmpty, fault := k.again,
    daddr := sampleAddr k w, ltag := if isAcc w then some (wLtag w) else none }

/-! ### Counts and votes -/

/-- A watch record changed (R193). -/
def modRec (c tag : Nat) (f : WatchRec → WatchRec) : Prog Unit :=
  modCl c fun k => { k with counts := Tab.upd WatchRec.zero k.counts tag (f (Tab.at WatchRec.zero k.counts tag)) }

/-- The non-finite vote of a fallback word that retires (R187, R188): for the step in progress, or for the
next where the device has contributed its vote. A cluster lent to a solver unit raises none. -/
def nonfiniteVote (c tag : Nat) : Prog Unit := .get fun s =>
  (modRec c tag fun r => { r with fallback := satAdd 16 r.fallback 1 }).seq
  ((count (setCluster c) 0x15 1 { ltag := some tag }).seq
    (if (s.lentSu c).isSome then .skip
     else modCl c fun k =>
      let late := (s.binding ((s.ownerCl c).getD 0)).voted
      let new := if late then !k.nfnext else !k.nfvote
      { k with
        nfnext := k.nfnext || late
        nfvote := k.nfvote || !late
        hdr := if new then { k.hdr with nfvotes := satAdd 32 k.hdr.nfvotes 1 } else k.hdr }))

/-! ### Stops -/

/-- FAULT_STOP at a word (R240); a sequencer that was draining counts as drained there (R242). -/
def seqFault (c : Nat) (addr : BitVec 48) (f : Flt) : Prog Unit := .get fun s =>
  Prog.all [setSeq c 5, setF .ARY_ERR Fld.ARY_ERR_FAULT c, wr .ARY_ERRADDR (addr.zeroExtend 64) c,
    logFault (seqUnit s c) f, modCl c fun k => { k with again := true, drain := false }, lentFault c f]

/-- An illegal word that is no longer speculative halts the sequencer; a speculative one waits (R77). -/
def illegalWord (c : Nat) : Prog Unit := .get fun s =>
  let k := s.cluster c
  if k.decs.isEmpty then
    Prog.all [setSeq c 6, wr .ARY_ERRADDR (k.ipc.zeroExtend 64) c, setF .ARY_ERR Fld.ARY_ERR_ILLEGAL c,
      errEvent (.clusterError c), selfFailure 3, lentError c]
  else .skip

/-! ### Stores -/

/-- The bytes of a tile's codes (R37, R41). -/
def codeBytes (fmt : Nat) (codes : List Nat) : List Byte :=
  codes.flatMap fun x => leBytes (fmtUnit fmt).2 x

/-- Data read from pieces of memory in order. -/
def gather (u : Unit') : List (Nat × Nat) → Prog (Except Flt (List Byte))
  | [] => .ret (.ok [])
  | (a, n) :: r => (vget u a n).bindE fun d => (gather u r).bindE fun e => .ret (.ok (d ++ e))

/-- The pieces that a tile's store writes (R81). -/
def tilePieces (t : Tile) : List (Nat × Nat) :=
  joinRuns ((descOf t.desc).runs (wEoff t.word + 4096 * (t.place : Int)))

/-- A tile written through its descriptor (R81). -/
def tileStore (c : Nat) (t : Tile) : Prog (Except Flt Unit) := .get fun s =>
  scatter (seqUnit s c) (tilePieces t) (codeBytes (wOfmt t.word) t.codes)

/-- A tile joins the slipway (R91). -/
def slipPush (c : Nat) (t : Tile) : Prog Unit :=
  (modCl c fun k => { k with slip := k.slip ++
    [{ array := 8 * c + t.array, tag := BitVec.ofNat 16 (wTag t.word), fmt := wOfmt t.word, sat := t.sat, codes := t.codes,
       pops := 0 }] }).seq (Prog.when t.sat (count (setCluster c) 0x18))

/-- A tile has left its output stage: its flags are set (R71) and its word signals (R81). -/
def tileLeft (c : Nat) (t : Tile) : Prog Unit :=
  (addFlags .ARY_FLAGS t.flags c).seq
    (Prog.when (wOp t.word == opTstore && wSigen t.word && t.last) (tokenAdd c (wTok t.word) 1))

/-- What has ceased to be speculative leaves in program order, as far as granules and faults let it
(R88, R91, R240). -/
def release (c : Nat) : Nat → Prog Unit
  | 0 => .skip
  | fuel + 1 => .get fun s =>
    let k := s.cluster c
    match k.out with
    | [] => Prog.when (seqState s c == 3) (setSeq c 1)
    | h :: r =>
      let pop := modCl c fun k => { k with out := r }
      match h with
      | .signal t n => pop.seq ((tokenAdd c t n).seq (release c fuel))
      | .vote tag => pop.seq ((nonfiniteVote c tag).seq (release c fuel))
      | .retire x => pop.seq ((retire c x).seq (release c fuel))
      | .tile t =>
        if wOp t.word = opTemit then
          if granules (wOfmt t.word) ≤ k.slipFree then
            pop.seq ((slipPush c t).seq ((tileLeft c t).seq (release c fuel)))
          else Prog.when (seqState s c == 1) (setSeq c 3)
        else (tileStore c t).bind fun x =>
          match x with
          | .ok _ => pop.seq ((tileLeft c t).seq (release c fuel))
          | .error f => if f.isWait then .skip else seqFault c t.addr f

/-- The release of everything that has ceased to be speculative; in FAULT_STOP what waits stays held until RESUME
(R240). -/
def releaseAll (c : Nat) : Prog Unit := .get fun s =>
  if seqState s c == 5 then .skip else release c ((s.cluster c).out.length + 1)

/-! ### Decisions -/

/-- Held back by the youngest open decision, or released at once (R86). -/
def hold (c : Nat) (l : List Held) : Prog Unit := .get fun s =>
  let k := s.cluster c
  match k.decs.reverse with
  | [] => (modCl c fun k => { k with out := k.out ++ l }).seq (releaseAll c)
  | d :: r => modCl c fun k => { k with decs := r.reverse ++ [{ d with held := d.held ++ l }] }

/-- The shadow of a decision that opens now (R87, R190). -/
def Cluster.shadow (k : Cluster) : Shadow := ⟨k.acc, k.long, k.stat, k.loops, k.wsel⟩

/-- The cluster as a decision's shadow restores it, with no younger decision (R87, R190). -/
def Cluster.restore (k : Cluster) (d : Dec) : Cluster :=
  { k with
    acc := d.shadow.acc
    long := d.shadow.long
    stat := d.shadow.stat
    loops := d.shadow.loops
    wsel := d.shadow.wsel
    decs := k.decs.takeWhile (· != d)
    log := k.log.drop (k.log.length - d.logLen) }

/-- A squash is counted, with the words it discards (R408). -/
def countSquash (c n : Nat) : Prog Unit :=
  (count (setCluster c) 0x12).seq (Prog.when (decide (n ≠ 0)) (count (setCluster c) 0x13 n))

/-- A step decision that resolves with skip squashes, and the sequencer continues after its BRF (R85). -/
def squashStep (c : Nat) (d : Dec) (next : BitVec 48) : Prog Unit := .get fun s =>
  let k := s.cluster c
  Prog.all [countSquash c (k.log.length - d.logLen), modCl c fun k => { k.restore d with ipc := next, again := false, twait := none }]

/-- Step decisions at the head whose turnaround has executed resolve (R85, R88). -/
def settle (c : Nat) : Nat → Prog Unit
  | 0 => .skip
  | fuel + 1 => .get fun s =>
    match (s.cluster c).decs with
    | d :: r =>
      match d.kind with
      | .step _ (some true) =>
        Prog.all [modCl c fun k => { k with decs := r, out := k.out ++ d.held }, releaseAll c, settle c fuel]
      | .step _ (some false) => squashStep c d (d.addr + 16)
      | _ => .skip
    | [] => .skip

/-- The oldest decision proceeds: what it held leaves, and what waited on it may resolve (R88). -/
def proceed (c : Nat) : Prog Unit := .get fun s =>
  match (s.cluster c).decs with
  | [] => .skip
  | d :: r => Prog.all [modCl c fun k => { k with decs := r, out := k.out ++ d.held }, releaseAll c,
      settle c r.length, showSeq c]

/-- The turnaround of a binding's step executes: decisions that refer to it have their outcome
(R82, R85). -/
def resolveStep (c step : Nat) (commit : Bool) : Prog Unit := .get fun s =>
  let k := s.cluster c
  Prog.all [modCl c fun k => { k with decs := k.decs.map fun d =>
      match d.kind with
      | .step n none => if n = step then { d with kind := .step n (some commit) } else d
      | _ => d },
    settle c k.decs.length, showSeq c]

/-! ### Retry ranges -/

/-- The word last issued at an address. -/
def wordAt (log : List Issued) (a : BitVec 48) : Option (BitVec 128) := (log.find? fun i => i.addr == a).map (·.word)

/-- The addresses of the retry range of a store or emit, the first first; none where it reaches back past the
schedule's first word (R90). -/
def rangeAddrs (base addr : BitVec 48) (w : BitVec 128) : Option (List (BitVec 48)) :=
  let n := wRback w
  if addr.toNat < base.toNat + 16 * n then none
  else some ((List.range n).map fun i => addr - BitVec.ofNat 48 (16 * (n - i)))

/-- The words of a retry range: each as it last issued, or as memory holds it where it has not issued since START
(R90; log 11). -/
def rangeWords (u : Unit') (log : List Issued) (l : List (BitVec 48)) : Prog (Except Flt (List Issued)) :=
  Prog.mapE l fun a =>
    match wordAt log a with
    | some x => .ret (.ok ⟨a, x⟩)
    | none => (vget u a.toNat 16 .exec).bindE fun d => .ret (.ok ⟨a, BitVec.ofNat 128 (leNat d)⟩)

/-- Whether a word may stand in a retry range (R90). -/
def rangeWord (w : BitVec 128) : Bool :=
  wOp w == opNop || wOp w == opTload || wOp w == opMma || wOp w == opMmat

/-- The lines that an accumulating word reads (R80, R444). -/
def linesRead (w : BitVec 128) : List (Nat × Nat) :=
  let k := wKlen w
  [(wXoff w, wXoff w + panelLines (wXfmt w) k), (wYoff w, wYoff w + panelLines (wYfmt w) k)] ++
    (if wXfmt w = 5 then [(wSoff w, wSoff w + 2 * (k / 32))] else [])

/-- The lines that a TLOAD fills (R81, R444). -/
def linesFilled (w : BitVec 128) (d : Desc) : List (Nat × Nat) :=
  (wDoff w, wDoff w + d.lines) :: (if d.fmt = 5 then [(wSdoff w, wSdoff w + d.scaleLines)] else [])

/-- Whether an open overflow or watch decision protects a line that a TLOAD would fill (R86). -/
def protectedBy (k : Cluster) (w : BitVec 128) (d : Desc) : Bool :=
  k.decs.any fun x =>
    match x.kind with
    | .step _ _ => false
    | _ => x.range.any fun i =>
        isAcc i.word && (wAmask i.word &&& wAmask w != 0) &&
        (linesRead i.word).any fun a => (linesFilled w d).any fun b => overlaps a b

/-! ### Loads -/

/-- A TLOAD reads its tensor, and its scales, into the operand buffers (R81, R444, R53): the cluster with
the panel in every array of AMASK, and the flags of a binary32 split. R444 loads the scale of every block whose
elements are loaded: EOFF moves their address by EOFF ÷ 32 bytes (DEDUCED, rounded down; log 10). -/
def loadPanel (c : Nat) (w : BitVec 128) (d : Desc) (k : Cluster) : Prog (Except Flt (Cluster × Flags)) := .get fun s =>
  let u := seqUnit s c
  (gather u (joinRuns (d.runs (wEoff w)))).bindE fun data =>
  let scale := (((d.scale : Int) + wEoff w / 32) % (2 ^ 48 : Int)).toNat
  (if d.fmt = 5 then vget u scale (d.count / 32) else .ret (.ok [])).bindE fun sc =>
  let split := (chunks 4 (d.count + 1) data).map fun b => splitHalves (leNat b)
  let data' := if d.fmt = 0 then split.flatMap fun p => leBytes 2 p.1 ++ leBytes 2 p.2.1 else data
  let fl := if d.fmt = 0 && split.any (·.2.2) then Flags.INV else Flags.none
  let fill (buf : Tab Byte) (a : Nat) : Tab Byte :=
    let b := bufPut buf a (64 * wDoff w) data'
    if d.fmt = 5 then bufPut b a (64 * wSdoff w) sc else b
  .ret (.ok ({ k with buf := (maskArrays (wAmask w)).foldl fill k.buf }, fl))

/-! ### Issue -/

/-- Watched arrays of open decisions: later words that name one wait (R191). -/
def Cluster.watched' (k : Cluster) : Nat :=
  (k.decs.map fun d =>
    match d.kind with
    | .watch _ => wAmask d.word
    | .overflow _ => if d.watch then wAmask d.word else 0
    | .step _ _ => 0).foldl (· ||| ·) 0

/-- Words with an AMASK. -/
def hasAmask (w : BitVec 128) : Bool := isAcc w || wOp w == opTload || wOp w == opTstore || wOp w == opTemit

/-- The run-ahead depth in force (R108). -/
def maxDepth (s : State) (c : Nat) : Nat := min (s.rdF .ARY_SPEC Fld.ARY_SPEC_MAXDEPTH c) 4

/-- The issue log takes a word, and the sequencer goes on to an address. -/
def Cluster.issued (k : Cluster) (w : BitVec 128) (next : BitVec 48) : Cluster :=
  { k with log := ⟨k.ipc, w⟩ :: k.log, ipc := next, again := false, dead := false }

/-- The word issues and the next is at `next`; it retires with its region (R86). -/
def advance (c : Nat) (w : BitVec 128) (next : BitVec 48) : Prog Unit := .get fun s =>
  let k := s.cluster c
  (modCl c fun k => k.issued w next).seq (hold c [.retire (retireOf k w)])

/-- The issue of a word of an opcode by a sequencer that is ready for it (R75 to R77, R86): a word with
another opcode is another row's; the fetch goes through the cluster's translation unit, and what it brings is
the row's operand (log 59); an illegal word halts or waits, one that may not be speculative waits until no
decision is open, and otherwise the word's own effect follows. -/
def issue (c : Nat) (op : Nat) (spec : Bool) (w : BitVec 128) (legal : State → Cluster → Bool)
    (body : State → Cluster → Prog Unit) : Prog Unit := .get fun s =>
  if !seqReady s c then .skip
  else if wOp w ≠ op ∧ opcodes.contains (wOp w) then .skip
  else (vget (seqUnit s c) (s.cluster c).ipc.toNat 16 .exec).bind fun r => .get fun s =>
    let k := s.cluster c
    match r with
    | .error f => if f.isWait || !k.decs.isEmpty then .skip else (seqFault c k.ipc f).seq (showSeq c)
    | .ok _ =>
      if hasAmask w && (k.watched' &&& wAmask w != 0) then .skip
      else if !k.decs.isEmpty && (!spec || maxDepth s c == 0) then .skip
      else if wOp w ≠ op || !legal s k then illegalWord c
      else (body s k).seq (showSeq c)

end Sys2Proof.Machine
end

