-- ==== Sys2Proof/Machine/Sequencer.lean ====
section
/-!
DEFINITION. Sys2Proof/Machine/Sequencer.lean: the schedule words (R75 to R82, R110 to R118), the
decisions of a store or emit (R184 to R193), and the commands of ARY_CMD and ARY_TOKSIG (R83, R89, R108).
-/

namespace Sys2Proof.Machine

/-! ### Words without data -/

/-- NOP (R76). -/
def execNop (c : Fin 32) (w : BitVec 128) (s : State) : Host.Outcome State Fault Refusal :=
  (issue c opNop true w (fun _ _ => wf 121 0 w == 0) fun _ k => advance c w (k.ipc + 16)).next s

/-- TSIG: the signal is held while it is speculative (R82, R86). -/
def execTsig (c : Fin 32) (w : BitVec 128) (s : State) : Host.Outcome State Fault Refusal :=
  (issue c opTsig true w (fun _ _ => wf 99 0 w == 0 && wCount w != 0) fun _ k =>
    (hold c [.signal (wF6 w) (wCount w)]).seq (advance c w (k.ipc + 16))).next s

/-- TWAIT: completes at once where the token allows, and waits otherwise (R82). -/
def execTwait (c : Fin 32) (w : BitVec 128) (s : State) : Host.Outcome State Fault Refusal :=
  (issue c opTwait false w (fun _ _ => wf 98 0 w == 0) fun s k =>
    (tokenTake c (wF6 w) (wCount w) (wNocon w)).bind fun ok =>
      if ok then advance c w (k.ipc + 16)
      else (modCl c fun k => { k with twait := some w }).seq (Prog.when (seqState s c == 1) (setSeq c 2))).next s

/-- A waiting TWAIT completes once its token has COUNT (R83). -/
def execTwaitRelease (c : Fin 32) (s : State) : Host.Outcome State Fault Refusal :=
  (Prog.get fun s =>
    match (s.cluster c).twait with
    | none => .skip
    | some w =>
      if !(seqState s c == 2 || seqState s c == 7) then .skip
      else (tokenTake c (wF6 w) (wCount w) (wNocon w)).bind fun ok =>
        if ok then Prog.all [modCl c fun k => { k with twait := none }, Prog.when (seqState s c == 2) (setSeq c 1),
          advance c w ((s.cluster c).ipc + 16), showSeq c]
        else .skip).next s

/-- A branch's target (R75, R82). -/
def branchTo (k : Cluster) (w : BitVec 128) : BitVec 48 := k.ipc + BitVec.ofInt 48 (16 * wTarget w)

/-- Whether a BRF keeps R82. -/
def brfOk (w : BitVec 128) : Bool :=
  wf 63 0 w == 0 && decide (wCond w ≤ 3) && (wCond w == 2 || wImm w == 0) &&
  (if wCond w = 1 then decide (wArg w ≤ 3) else wCond w == 2 || wArg w == 0)

/-- A loop counter. -/
def Cluster.loop (k : Cluster) (i : Nat) : BitVec 32 := Tab.at 0 k.loops i

/-- BRF (R82): COND 0x3 opens a step decision and is predicted taken (R85). -/
def execBrf (c : Fin 32) (w : BitVec 128) (s : State) : Host.Outcome State Fault Refusal :=
  (issue c opBrf (wCond w != 2) w (fun _ _ => brfOk w) fun s k =>
    match wCond w with
    | 0 => advance c w (branchTo k w)
    | 1 =>
      let n := k.loop (wArg w) - 1
      (advance c w (if n = 0 then k.ipc + 16 else branchTo k w)).seq
        (modCl c fun k => { k with loops := Tab.upd 0 k.loops (wArg w) n })
    | 2 => advance c w (if wImm w ≤ tokenCount s c (wArg w) then branchTo k w else k.ipc + 16)
    | _ =>
      if 4 ≤ k.decs.length then .skip
      else
        let steps := (k.decs.filter fun d => match d.kind with
          | .step _ _ => true
          | _ => false).length
        let b := (s.ownerCl c).getD 0
        let d : Dec := ⟨.step ((s.binding b).step + steps) none, k.ipc, w, k.log.length + 1, k.shadow, 0, false, [],
          [.retire (retireOf k w)]⟩
        modCl c fun k => { (k.issued w (branchTo k w)) with decs := k.decs ++ [d] }).next s

/-- SEG: recorded as it retires (R82). -/
def execSeg (c : Fin 32) (w : BitVec 128) (s : State) : Host.Outcome State Fault Refusal :=
  (issue c opSeg false w (fun _ _ => wf 100 0 w == 0) fun _ k =>
    Prog.all [wrF .ARY_STATUS Fld.ARY_STATUS_LASTSEG (wf 121 106 w) c, wrF .ARY_STATUS Fld.ARY_STATUS_PHASE (wf 105 103 w) c,
      Prog.when (wf 101 101 w == 1) (.one (.emit (.segment c (wf 121 106 w)))), advance c w (k.ipc + 16),
      modCl c fun k => { k with dead := wf 102 102 w == 1 }]).next s

/-- LSET (R82). -/
def execLset (c : Fin 32) (w : BitVec 128) (s : State) : Host.Outcome State Fault Refusal :=
  (issue c opLset false w (fun _ _ => wf 121 114 w == 0 && wf 79 0 w == 0) fun _ k =>
    (modCl c fun k => { k with loops := Tab.upd 0 k.loops (wf 113 112 w) (BitVec.ofNat 32 (wf 111 80 w)) }).seq
      (advance c w (k.ipc + 16))).next s

/-- END: the sequencer stops in IDLE; a lent one has finished its run (R82, R147). -/
def execEndWord (c : Fin 32) (w : BitVec 128) (s : State) : Host.Outcome State Fault Refusal :=
  (issue c opEnd false w (fun _ _ => wf 121 0 w == 0) fun s k =>
    (advance c w (k.ipc + 16)).seq
      (if seqState s c == 7 then modCl c fun k => { k with lentRun := false } else setSeq c 0)).next s

/-- DLOAD: the slot takes the 64 bytes, and is valid where they pass the check (R82, R445). -/
def execDload (c : Fin 32) (w : BitVec 128) (s : State) : Host.Outcome State Fault Refusal :=
  (issue c opDload false w (fun _ _ => wf 91 0 w == 0) fun s k =>
    (vget (seqUnit s c) (((s.rd .ARY_DTAB_BASE c).toNat + 64 * wIndex w) % 2 ^ 48) 64).bind fun x =>
      match x with
      | .error f => if f.isWait then .skip else seqFault c k.ipc f
      | .ok d =>
        let desc := BitVec.ofNat 512 (leNat d)
        (modCl c fun k => { k with slots := Tab.upd none k.slots (wF6 w) (if descOk desc then some desc else none) }).seq
          (advance c w (k.ipc + 16))).next s

/-! ### Loads -/

/-- Whether a TLOAD keeps R80, R81, R214, R444 and R445. -/
def tloadOk (w : BitVec 128) (s : State) (c : Nat) (k : Cluster) : Bool :=
  wf 113 112 w == 0 && wf 10 0 w == 0 && !wSr w && wAmask w != 0 &&
  match Tab.at none k.slots (wDslot w) with
  | none => false
  | some d =>
    let t := descOf d
    (t.fmt == 5 || wSdoff w == 0) && decide (wDoff w + t.lines ≤ windowStart s c) &&
    decide (wSdoff w + t.scaleLines ≤ windowStart s c) &&
    (t.fmt != 5 || !overlaps (wDoff w, wDoff w + t.lines) (wSdoff w, wSdoff w + t.scaleLines))

/-- TLOAD (R81, R86, R444). A fault that a speculative load meets is reported only once it ceases to be
speculative (R88). -/
def execTload (c : Fin 32) (w : BitVec 128) (s : State) : Host.Outcome State Fault Refusal :=
  (issue c opTload true w (fun s k => tloadOk w s c k) fun _ k =>
    match Tab.at none k.slots (wDslot w) with
    | none => .skip
    | some desc =>
      let d := descOf desc
      if protectedBy k w d then .skip
      else (loadPanel c w d k).bind fun r =>
        match r with
        | .error f => if f.isWait || !k.decs.isEmpty then .skip else seqFault c k.ipc f
        | .ok (k', fl) =>
          Prog.all [modCl c fun _ => k', addFlags .ARY_FLAGS fl.toNat c, count (setCluster c) 0x1C (64 * d.lines),
            Prog.when (wSigen w) (hold c [.signal (wTok w) 1]), advance c w (k.ipc + 16)]).next s

/-! ### Multiply words -/

/-- A multiply word issues: up to the run-ahead depth past an open decision (R86). -/
def multiply (c : Nat) (op : Nat) (w : BitVec 128) : Prog Unit :=
  issue c op true w (fun s _ => mulOk s c w) fun s k =>
    if !k.decs.isEmpty && decide (maxDepth s c ≤ k.depth) then .skip
    else
      let (k', fl) := mulWord s c w (passesOf s c w) 0 k
      let decs := match k'.decs.reverse with
        | [] => []
        | d :: r => r.reverse ++ [{ d with depth := d.depth + 1 }]
      Prog.all [modCl c fun _ => { k' with decs := decs }, addFlags .ARY_FLAGS fl.toNat c, advance c w (k.ipc + 16)]

/-- MMA (R78, R46). -/
def execMma (c : Fin 32) (w : BitVec 128) (s : State) : Host.Outcome State Fault Refusal :=
  (multiply c opMma w).next s

/-- MMAT (R111, R112). -/
def execMmat (c : Fin 32) (w : BitVec 128) (s : State) : Host.Outcome State Fault Refusal :=
  (multiply c opMmat w).next s

/-- STAT (R117, R118). -/
def execStat (c : Fin 32) (w : BitVec 128) (s : State) : Host.Outcome State Fault Refusal :=
  (multiply c opStat w).next s

/-! ### Stores and emits -/

/-- Whether a store or emit keeps R81, R90, R118 and R445, the words of its range apart. A store or emit whose
WSEL is 1 as fetched is taken as one whose WSEL is 0: the bit is the sequencer's to set (DEDUCED: R81 states the
compiler's 0 and no reserved value; log 11). -/
def storeOk (w : BitVec 128) (k : Cluster) : Bool :=
  wf 113 112 w == 0 && wf 10 0 w == 0 && wSdoff w == 0 && wAmask w != 0 && decide (wOfmt w ≤ 4) && wRback w != 0 &&
  (rangeAddrs k.start k.ipc w).isSome &&
  ((maskArrays (wAmask w)).all fun a => !Tab.at false k.stat a || (wNochk w && wOfmt w == 0)) &&
  (wOp w != opTstore ||
    match Tab.at none k.slots (wDslot w) with
    | none => false
    | some d => (descOf d).count == 4096 && (descOf d).fmt == wOfmt w)

/-- The layer tag under which a store or emit is watched: none where it is not eligible (R190, R375). -/
def watchTag (s : State) (c : Nat) (range : List Issued) (w : BitVec 128) : Option Nat :=
  let accs := range.filter fun i => isAcc i.word
  match accs.getLast? with
  | none => none
  | some l =>
    if !wNochk w && !s.pilot && accs.all (fun i => wOp i.word != opStat && wideFmt (wXfmt i.word) && wideFmt (wYfmt i.word) &&
        (wXfmt i.word == 0 || wYfmt i.word == 0) && decide (passesOf s c i.word ≤ 2)) then some (wLtag l.word) else none

/-- The watch table's entry of a tag (R189). -/
def watchEntry (s : State) (c tag : Nat) : Word := Tab.at 0x3C800000_0400 (s.binding ((s.ownerCl c).getD 0)).watch tag

/-- Tiles that an output stage holds of an array (R86). -/
def heldTiles (k : Cluster) (a : Nat) : Nat :=
  ((k.decs.flatMap (·.held) ++ k.out).filter fun h => match h with
    | .tile t => t.array == a
    | _ => false).length

/-- The layer tag under which a store's retries and fallback count (R187, R193). -/
def rangeTag (range : List Issued) : Nat :=
  match (range.filter fun i => isAcc i.word).getLast? with
  | some i => wLtag i.word
  | none => 0

/-- The effect of a legal store or emit with its retry range: its tiles are converted and held, and an overflow
decision opens unless NOCHK (R85, R86). -/
def storeBody (c : Nat) (op : Nat) (w : BitVec 128) (range : List Issued) : Prog Unit := .get fun s =>
    let k := s.cluster c
    if (maskArrays (wAmask w)).any (fun a => decide (5 ≤ heldTiles k a)) then .skip
    else if !wNochk w && decide (4 ≤ k.decs.length) then .skip
    else
      let desc := (Tab.at none k.slots (wDslot w)).getD 0
      let (tiles, k') := outTiles k w k.ipc 0 false desc
      let held := tiles.map Held.tile ++ [Held.retire (retireOf k w)]
      if wNochk w then
        if k.decs.isEmpty && op == opTstore then
          (Prog.mapE tiles fun t => tileStore c t).bind fun r =>
            match r with
            | .error f => if f.isWait then .skip else seqFault c k.ipc f
            | .ok _ => Prog.all [modCl c fun _ => k'.issued w (k.ipc + 16), Prog.each tiles fun t => tileLeft c t,
                retire c (retireOf k w)]
        else (modCl c fun _ => k'.issued w (k.ipc + 16)).seq (hold c held)
      else
        let tag := watchTag s c range w
        let n := match tag with
          | some t => getF ⟨0, 16⟩ (watchEntry s c t)
          | none => 0
        let seen := match tag with
          | some t => Tab.at 0 k.wsel t + 1
          | none => 0
        let sel := decide (n ≠ 0) && decide (n ≤ seen)
        let d : Dec := ⟨.overflow 0, k.ipc, w, k.log.length + 1, k.shadow, 0, sel, range, held⟩
        modCl c fun _ => { (k'.issued w (k.ipc + 16)) with
          decs := k.decs ++ [d]
          wsel := match tag with
            | some t => if n = 0 then k.wsel else Tab.upd 0 k.wsel t (if sel then 0 else seen)
            | none => k.wsel }

/-- A store or emit issues once the words of its range are known: one that may not stand there makes it illegal
(R90). -/
def storeWord (c : Nat) (op : Nat) (w : BitVec 128) : Prog Unit :=
  issue c op true w (fun _ k => storeOk w k) fun s k =>
    (rangeWords (seqUnit s c) k.log ((rangeAddrs k.start k.ipc w).getD [])).bind fun r =>
      match r with
      | .error f => if f.isWait || !k.decs.isEmpty then .skip else seqFault c k.ipc f
      | .ok range => if range.all fun i => rangeWord i.word then storeBody c op w range else illegalWord c

/-- TSTORE (R81). -/
def execTstore (c : Fin 32) (w : BitVec 128) (s : State) : Host.Outcome State Fault Refusal :=
  (storeWord c opTstore w).next s

/-- TEMIT (R81, R91). -/
def execTemit (c : Fin 32) (w : BitVec 128) (s : State) : Host.Outcome State Fault Refusal :=
  (storeWord c opTemit w).next s

/-- A TEMIT that waits for granules proceeds once enough are free (R91). -/
def execTemitSlipRelease (c : Fin 32) (s : State) : Host.Outcome State Fault Refusal :=
  (Prog.get fun s => if seqState s c == 3 || seqState s c == 7 then (releaseAll c).seq (showSeq c) else .skip).next s

/-! ### Overflow decisions -/

/-- One word of a retry range issued again at retry `r` with a pass count (R185, R191). -/
def reissue (s : State) (c : Nat) (passes : Option Nat) (r : Nat) (x : Cluster × Flags) (i : Issued) :
    Prog (Except Flt (Cluster × Flags)) :=
  if wOp i.word = opTload then
    match Tab.at none x.1.slots (wDslot i.word) with
    | none => .ret (.ok x)
    | some d => (loadPanel c i.word (descOf d) x.1).bindE fun y => .ret (.ok (y.1, x.2.or y.2))
  else if isAcc i.word then
    let (k, fl) := mulWord s c i.word (passes.getD (passesOf s c i.word)) (-(4 * (r : Int))) x.1
    .ret (.ok (k, x.2.or fl))
  else .ret (.ok x)

/-- A retry range issued again, word by word; a fault names its word. -/
def reissueAll (s : State) (c : Nat) (passes : Option Nat) (r : Nat) :
    List Issued → Cluster × Flags → Prog (Except (Flt × BitVec 48) (Cluster × Flags))
  | [], x => .ret (.ok x)
  | i :: l, x => (reissue s c passes r x i).bind fun y =>
    match y with
    | .error f => .ret (.error (f, i.addr))
    | .ok x' => reissueAll s c passes r l x'

/-- The tiles of retry `r`, by the fallback where the second has still overflowed, and what they hold
(R185, R187). -/
def retryTiles (k : Cluster) (d : Dec) (r tag : Nat) (ret : Retire) : List Held × Cluster :=
  let desc := match d.held with
    | .tile t :: _ => t.desc
    | _ => 0
  let (tiles, k1) := outTiles k d.word d.addr r false desc
  if r = 2 && tiles.any (·.ovf) then
    let (fall, k2) := outTiles k d.word d.addr 2 true desc
    (fall.map (fun t => Held.tile { t with ovf := false }) ++ [.vote tag, .retire ret], k2)
  else (tiles.map Held.tile ++ [.retire ret], k1)

/-- The overflow squash and the retry of the word (R87, R185): younger work is discarded, the range is
issued again with its products scaled, and the decision opens again. -/
def overflowRetry (c : Nat) (d : Dec) (r : Nat) : Prog Unit := .get fun s =>
  let k := s.cluster c
  let k0 := k.restore d
  let range := d.range
  let tag := rangeTag range
  let ret := (d.held.findSome? fun h => match h with
    | .retire x => some x
    | _ => none).getD (retireOf k d.word)
  (reissueAll s c none (r + 1) range (k0, Flags.none)).bind fun y =>
    match y with
    | .error (f, a) =>
      if f.isWait then .skip
      else (modCl c fun _ => { k0 with decs := [{ d with depth := 0, watch := false }], ipc := d.addr + 16 }).seq (seqFault c a f)
    | .ok (k1, fl) =>
      let (held, k2) := retryTiles k1 d (r + 1) tag ret
      let d' : Dec := { d with kind := .overflow (r + 1), shadow := { k2.shadow with wsel := d.shadow.wsel }, depth := 0,
                               watch := false, held }
      Prog.all [countSquash c (k.log.length - d.logLen),
        modCl c fun _ => { k2 with decs := [d'], ipc := d.addr + 16, twait := none, wsel := d.shadow.wsel },
        addFlags .ARY_FLAGS fl.toNat c, modRec c tag fun x => { x with retry := satAdd 32 x.retry 1 },
        count (setCluster c) 0x14 1 { ltag := some tag }]

/-- The recomputation of a watched word in 3 passes (R191): its wide accumulators, or none where it met a
fault; a read that waits for a block (R217) holds it up. The narrow accumulators stay in the cells, the operand
buffers are filled again, its words count toward the depth, and its arithmetic sets the cluster's flags like any
other (R71). -/
def watchRecompute (c : Nat) (d : Dec) : Prog Unit := .get fun s =>
  let k := s.cluster c
  let n := (d.range.filter fun i => isAcc i.word).length
  let open' (wide : Option (Tab Cell)) : List Dec := { d with kind := .watch wide, depth := d.depth + n } :: k.decs.drop 1
  (reissueAll s c (some 3) 0 d.range (k, Flags.none)).bind fun y =>
    match y with
    | .ok (k1, fl) =>
      (modCl c fun k => { k with buf := k1.buf, lfsr := k1.lfsr, decs := open' (some k1.acc) }).seq
        (addFlags .ARY_FLAGS fl.toNat c)
    | .error (f, _) => if f.isWait then .skip else modCl c fun k => { k with decs := open' none }

/-- Whether a decision of a sequencer can resolve: the output stages work on while it runs or waits. -/
def canResolve (s : State) (c : Nat) : Bool :=
  seqState s c == 1 || seqState s c == 2 || seqState s c == 3 || seqState s c == 7

/-- OVERFLOW_DECISION: the oldest decision, of a store or emit, is judged (R184 to R187). -/
def execOverflowDecision (c : Fin 32) (s : State) : Host.Outcome State Fault Refusal :=
  (Prog.get fun s =>
    let k := s.cluster c
    match k.decs with
    | [] => .skip
    | d :: _ =>
      match d.kind with
      | .overflow r =>
        if !canResolve s c || !k.out.isEmpty then .skip
        else
          let own := d.held.take (maskArrays (wAmask d.word)).length
          let ovf := own.any fun h => match h with
            | .tile t => t.ovf
            | _ => false
          (if ovf then overflowRetry c d r
           else if d.watch then watchRecompute c d
           else proceed c).seq (showSeq c)
      | _ => .skip).next s

/-! ### Watch decisions -/

/-- The disagreement of a tile, binary32: none where the comparison has no result (R192). -/
def tileDelta (n w : List Cell) : Option Nat :=
  let nv := n.map fun x => b32.dec x.val.toNat
  let wv := w.map fun x => b32.dec x.val.toNat
  if w.any (·.ovf) || n.any (fun x => b32.nonfinite x.val.toNat) || w.any (fun x => b32.nonfinite x.val.toNat) then none
  else
    let diff := (List.zipWith (fun a b => match a, b with
      | .fin n₁ m₁ e₁, .fin n₂ m₂ e₂ =>
        let (z, g) := exactAdd n₁ m₁ e₁ (!n₂) m₂ e₂
        (b64.round true .rne false z.natAbs g).1
      | _, _ => 0) nv wv).foldl max 0
    let maxW := (w.map fun x => x.val.toNat % 2 ^ 31).foldl max 0
    if maxW = 0 then some (if diff = 0 then 0 else b32.inf false)
    else match b64.dec diff, b32.dec maxW with
      | .fin _ m₁ e₁, .fin _ m₂ e₂ =>
        if m₁ = 0 then some 0
        else some (b32.round true .rne false (m₁ * 2 ^ 200 / m₂) (e₁ - e₂ - 200) (m₁ * 2 ^ 200 % m₂ != 0)).1
      | _, _ => none

/-- The cells of an array. -/
def arrayCells (acc : Tab Cell) (a : Nat) : List Cell := (List.range 4096).map fun n => Tab.at Cell.zero acc (4096 * a + n)

/-- One tile's comparison is counted, and a disagreement raises the watch event, once in a step (R192). -/
def watchTile (c tag : Nat) (addr : BitVec 48) (delta : Option Nat) : Prog Unit := .get fun s =>
  match delta with
  | none => modRec c tag fun r => { r with inconc := satAdd 16 r.inconc 1 }
  | some x =>
    let thresh := getF ⟨16, 32⟩ (watchEntry s c tag)
    let step := (s.binding ((s.ownerCl c).getD 0)).step
    (modRec c tag fun r => { r with watched := satAdd 32 r.watched 1 }).seq
    ((count (setCluster c) 0x16 1 { ltag := some tag }).seq
      (if thresh < x then Prog.all [modRec c tag fun r => { r with disagree := satAdd 32 r.disagree 1 },
          count (setCluster c) 0x17 1 { ltag := some tag },
          Prog.when (!(s.cluster c).watched) (.one (.emit (.watchEvent c))),
          modCl c fun k => { k with
            watched := true
            hdr := { k.hdr with
              step := step
              ltag := tag
              delta := x
              addr := addr.toNat } }]
       else .skip))

/-- WATCH_COMPARE: the comparison of the oldest decision, of a watched word, completes, and it proceeds
(R191, R192). -/
def execWatchCompare (c : Fin 32) (s : State) : Host.Outcome State Fault Refusal :=
  (Prog.get fun s =>
    let k := s.cluster c
    match k.decs with
    | [] => .skip
    | d :: _ =>
      match d.kind with
      | .watch wide =>
        if !canResolve s c || !k.out.isEmpty then .skip
        else
          let tag := rangeTag d.range
          (Prog.each (maskArrays (wAmask d.word)) fun a =>
            watchTile c tag d.addr (wide.bind fun w => tileDelta (arrayCells k.acc a) (arrayCells w a))).seq (proceed c)
      | _ => .skip).next s

/-! ### Commands of the sequencer -/

/-- A command that its state refuses (R108). -/
def aryIgnored (c : Nat) : Prog Unit := setF .ARY_ERR Fld.ARY_ERR_CMDIGN c

/-- A sequencer starts at an address. -/
def startAt (c : Nat) (a : BitVec 48) : Prog Unit :=
  modCl c fun k => { k with start := a, ipc := a, log := [], decs := [], out := [], twait := none, again := false, drain := false }

/-- ARY_CMD.START (R108). -/
def aryStartDo (c : Fin 32) : Prog Unit := .get fun s =>
  (if seqState s c == 0 && (s.ownerCl c).isSome then
      Prog.all [startAt c ((s.rd .ARY_SCHED_BASE c).truncate 48), setSeq c 1, showSeq c]
    else aryIgnored c)

/-- `execAryStart`: the command. -/
def execAryStart (c : Fin 32) (s : State) : Host.Outcome State Fault Refusal := (aryStartDo c).next s

/-- A drain is requested (R89): work past the oldest step decision is squashed at once, and its BRF is
evaluated again on resumption. -/
def drainSeq (c : Nat) : Prog Unit := .get fun s =>
  let k := s.cluster c
  let step := k.decs.find? fun d => match d.kind with
    | .step _ _ => true
    | _ => false
  Prog.all [modCl c fun k => { k with drain := true },
    (match step with
      | some d => squashStep c d d.addr
      | none => .skip), showSeq c]

/-- ARY_CMD.STOP requests a drain (R89, R108); in a state other than RUN or a wait it has no effect and sets no
CMDIGN (DEDUCED: R108 names CMDIGN at START and RESUME alone; log 12). -/
def aryStopDo (c : Fin 32) : Prog Unit := .get fun s =>
  (if seqState s c == 1 || seqState s c == 2 || seqState s c == 3 then drainSeq c else .skip)

/-- `execAryStop`: the command. -/
def execAryStop (c : Fin 32) (s : State) : Host.Outcome State Fault Refusal := (aryStopDo c).next s

/-- The draining sequencer stops at a word boundary once no decision is open (R89). -/
def execSequencerDrained (c : Fin 32) (s : State) : Host.Outcome State Fault Refusal :=
  (Prog.get fun s =>
    let k := s.cluster c
    if k.drain && k.decs.isEmpty && (seqState s c == 1 || seqState s c == 2 || seqState s c == 3) then
      Prog.all [modCl c fun k => { k with drain := false, twait := none }, setSeq c 4, showSeq c]
    else .skip).next s

/-- ARY_CMD.RESUME (R108): a held tile's write restarts, and the words go on (R240). -/
def aryResumeDo (c : Fin 32) : Prog Unit := .get fun s =>
  (if seqState s c == 4 || seqState s c == 5 then Prog.all [setSeq c 1, releaseAll c,
      Prog.get fun s => settle c (s.cluster c).decs.length, showSeq c]
    else aryIgnored c)

/-- `execAryResume`: the command. -/
def execAryResume (c : Fin 32) (s : State) : Host.Outcome State Fault Refusal := (aryResumeDo c).next s

/-- A write of INC to ARY_TOKSIG adds 1 to the token (R83). -/
def toksigIncDo (c : Fin 32) (t : Fin 64) : Prog Unit :=
  (tokenAdd c t 1)

/-- `execToksigInc`: the command. -/
def execToksigInc (c : Fin 32) (t : Fin 64) (s : State) : Host.Outcome State Fault Refusal := (toksigIncDo c t).next s

end Sys2Proof.Machine
end

