-- ==== Sys2Proof/Machine/Landing.lean ====
section
/-!
DEFINITION. Sys2Proof/Machine/Landing.lean: the Landing Units (R128 to R158), with the crossing buffers
that their outer updates read (R290 to R292).
-/

namespace Sys2Proof.Machine

/-! ### Arithmetic of the lanes (R70) -/

/-- binary32 with a wide exponent range: a result rounded here is judged after rounding (R70). -/
def b32x : Fmt := ⟨12, 23, 2047, 4095 * 2 ^ 23 - 1, some (4095 * 2 ^ 23), some (4095 * 2 ^ 23 + 2 ^ 22), true⟩

/-- A binary32 code as an operand of the wide range; a NaN stays a signalling one. -/
def widen (a : Nat) : Nat :=
  match b32.dec a with
  | .nan s => if s then 4095 * 2 ^ 23 + 1 else b32x.nan
  | v => (b32x.conv false .rne v).1

/-- A rounded result as the lanes keep it: flushed below 2⁻¹²⁶, overflowed above the largest finite. -/
def settleB32 (r : Nat × Flags) : Nat × Flags :=
  match b32x.dec r.1 with
  | .nan _ => (b32.nan, r.2)
  | .inf n => (b32.inf n, r.2)
  | .fin n m e =>
    if m = 0 || e + (Nat.log2 m : Int) < -126 then (b32.zero n, r.2)
    else let (c, f) := b32.round true .rne n m e; (c, r.2.or f)

/-- A code with the flags that forming it raised. -/
abbrev Fl := Nat × Flags

/-- An operation of the lanes: in wide mode plain binary32, otherwise with subnormals flushed (R70, R140). -/
def lop1 (wide : Bool) (f : Fmt → Nat → Fl) (a : Fl) : Fl :=
  let r := if wide then f b32 a.1 else settleB32 (f b32x (widen (flushIn false a.1)))
  (r.1, a.2.or r.2)

/-- An operation of two operands. -/
def lop2 (wide : Bool) (f : Fmt → Nat → Nat → Fl) (a b : Fl) : Fl :=
  let r := if wide then f b32 a.1 b.1 else settleB32 (f b32x (widen (flushIn false a.1)) (widen (flushIn false b.1)))
  (r.1, (a.2.or b.2).or r.2)

/-- An operation of three operands. -/
def lop3 (wide : Bool) (f : Fmt → Nat → Nat → Nat → Fl) (a b c : Fl) : Fl :=
  let r := if wide then f b32 a.1 b.1 c.1
    else settleB32 (f b32x (widen (flushIn false a.1)) (widen (flushIn false b.1)) (widen (flushIn false c.1)))
  (r.1, ((a.2.or b.2).or c.2).or r.2)

/-- Sum. -/
def lAdd (w : Bool) (a b : Fl) : Fl := lop2 w (fun f => f.add .rne) a b
/-- Difference. -/
def lSub (w : Bool) (a b : Fl) : Fl := lop2 w (fun f => f.sub .rne) a b
/-- Product. -/
def lMul (w : Bool) (a b : Fl) : Fl := lop2 w (fun f => f.mul .rne) a b
/-- Fused product and sum. -/
def lFma (w : Bool) (a b c : Fl) : Fl := lop3 w (fun f => f.fma .rne) a b c
/-- Quotient. -/
def lDiv (w : Bool) (a b : Fl) : Fl := lop2 w (fun f => f.div .rne) a b
/-- Square root. -/
def lSqrt (w : Bool) (a : Fl) : Fl := lop1 w (fun f => f.sqrt .rne) a

/-- A code without flags. -/
def fl (x : Nat) : Fl := (x, Flags.none)

/-- A value times a power of 2, and rounded as the lanes round (R138, R143). -/
def lScale (w : Bool) (a : Fl) (d : Int) : Fl :=
  let r := if w then b32.ofV .rne (scaled (b32.dec a.1) d)
    else settleB32 (b32x.ofV .rne (scaled (b32x.dec (widen (flushIn false a.1))) d))
  (r.1, (a.2.or (sigFlag (b32.dec a.1))).or r.2)

/-- `w - u * 2 ^ s`, rounded once (R142). -/
def scaledSub (wide : Bool) (w u : Fl) (s : Int) : Fl :=
  let v := fun (x : Fl) => if wide then b32.dec x.1 else b32x.dec (widen (flushIn false x.1))
  let r := if wide then b32.addV .rne (v w) (scaled (v u) s).neg
    else settleB32 (b32x.addV .rne (v w) (scaled (v u) s).neg)
  (r.1, (w.2.or u.2).or r.2)

/-- binary32 1.0. -/
def oneC : Nat := 0x3F800000

/-- A power by right-to-left binary powering (R138). -/
def powRne (wide : Bool) : Nat → Fl → Fl → Nat → Fl
  | 0, r, _, _ => r
  | n + 1, r, b, k =>
    if k = 0 then r else
    powRne wide n (if k % 2 = 1 then lMul wide r b else r) (if k / 2 = 0 then b else lMul wide b b) (k / 2)

/-- Whether a code is an infinity or a NaN. -/
def Fl.bad (a : Fl) : Bool := b32.nonfinite a.1

/-! ### The landing table (R130 to R133) -/

/-- A layer entry: its 1,024 bits as a number. -/
abbrev LayerEntry := Nat

/-- SLOTA or SLOTB (R130, R131). -/
def LayerEntry.slot (x : LayerEntry) (v : Nat) : Nat := if v = 0 then bits 47 0 x else bits 95 48 x
/-- MOOR. -/
def LayerEntry.moor (x : LayerEntry) : Nat := bits 143 96 x
/-- PREC. -/
def LayerEntry.prec (x : LayerEntry) : Nat := bits 191 144 x
/-- COUNT. -/
def LayerEntry.cnt (x : LayerEntry) : Nat := bits 271 240 x
/-- OPT. -/
def LayerEntry.opt (x : LayerEntry) : Nat := bits 273 272 x
/-- NEST. -/
def LayerEntry.nest (x : LayerEntry) : Bool := bit 274 x
/-- OUTER. -/
def LayerEntry.outer (x : LayerEntry) : Bool := bit 275 x
/-- HOLD. -/
def LayerEntry.hold (x : LayerEntry) : Bool := bit 276 x
/-- WCFMT. -/
def LayerEntry.wcfmt (x : LayerEntry) : Nat := bits 283 280 x
/-- WCBLK. -/
def LayerEntry.wcblk (x : LayerEntry) : Nat := bits 287 284 x
/-- LR. -/
def LayerEntry.lr (x : LayerEntry) : Nat := bits 319 288 x
/-- BETA1. -/
def LayerEntry.beta1 (x : LayerEntry) : Nat := bits 351 320 x
/-- BETA2. -/
def LayerEntry.beta2 (x : LayerEntry) : Nat := bits 383 352 x
/-- EPS. -/
def LayerEntry.eps (x : LayerEntry) : Nat := bits 415 384 x
/-- WD. -/
def LayerEntry.wd (x : LayerEntry) : Nat := bits 447 416 x
/-- GABS. -/
def LayerEntry.gabs (x : LayerEntry) : Nat := bits 479 448 x
/-- DABS. -/
def LayerEntry.dabs (x : LayerEntry) : Nat := bits 511 480 x
/-- OLR. -/
def LayerEntry.olr (x : LayerEntry) : Nat := bits 543 512 x
/-- OMU. -/
def LayerEntry.omu (x : LayerEntry) : Nat := bits 575 544 x
/-- KSTART. -/
def LayerEntry.kstart (x : LayerEntry) : Nat := bits 623 576 x
/-- GEXP, signed. -/
def LayerEntry.gexp (x : LayerEntry) : Int := signedOf 8 (bits 631 624 x)
/-- CBUF. -/
def LayerEntry.cbuf (x : LayerEntry) : Nat := bits 687 640 x

/-- The tiles of an entry (R135). -/
def LayerEntry.tiles (x : LayerEntry) : Nat := (x.cnt + 4095) / 4096

/-- The elements of a tile. -/
def LayerEntry.tileLen (x : LayerEntry) (t : Nat) : Nat := min 4096 (x.cnt - 4096 * t)

/-- The next 2 KiB boundary. -/
def up2k (a : Nat) : Nat := (a + 2047) / 2048 * 2048

/-- Bytes of a working-copy element. -/
def LayerEntry.wcBytes (x : LayerEntry) : Nat := if x.wcfmt = 1 then 2 else 1

/-- Elements of an FP8 scale block (R130). -/
def LayerEntry.blk (x : LayerEntry) : Nat := 2 ^ (6 + x.wcblk)

/-- The arrays of a slot area: offset, length and elements per byte's worth of each (R131): master, first
moment, second moment, working copy, scales, digests. An array the entry does not have is empty. -/
structure SlotMap where
  master : Nat
  m1     : Nat
  m2     : Nat
  wc     : Nat
  scale  : Nat
  digest : Nat
  stop   : Nat
deriving DecidableEq, Repr

/-- The layout of an entry's slot areas (R131). -/
def LayerEntry.map (x : LayerEntry) : SlotMap :=
  let n := x.cnt
  let master := 2048
  let m1 := up2k (master + 4 * n)
  let e1 := m1 + 4 * n
  let m2 := up2k e1
  let e2 := if x.opt = 0 then e1 else m2 + 4 * n
  let wc := up2k e2
  let ewc := wc + x.wcBytes * n
  let scale := up2k ewc
  let es := if x.wcfmt = 1 then ewc else scale + (n + x.blk - 1) / x.blk
  let digest := up2k es
  ⟨master, m1, m2, wc, scale, digest, digest + 4 * ((x.wcBytes * n + 2047) / 2048)⟩

/-- The base of half `h` of the mooring area, and the offset of the outer momentum in it (R133). -/
def LayerEntry.half (x : LayerEntry) (h : Nat) : Nat :=
  x.moor + h * up2k (up2k (2 * x.cnt) + 2 * x.cnt)

/-- Whether an entry keeps the rules of R130 that concern its bits and the unit's lent cluster. -/
def LayerEntry.ok (x : LayerEntry) (lent : Bool) : Bool :=
  bits 239 236 x == 0 && bits 279 277 x == 0 && bits 639 632 x == 0 && bits 1023 688 x == 0 &&
  decide (x.slot 0 % 2048 = 0) && decide (x.slot 1 % 2048 = 0) &&
  (if x.outer then decide (x.moor % 2048 = 0) && decide (x.cbuf % 2048 = 0) else x.moor == 0 && x.cbuf == 0) &&
  decide (x.opt ≤ 2) && (if x.opt = 2 then decide (x.prec % 64 = 0) && lent else x.prec == 0) &&
  (x.opt == 0 || !x.nest) && decide (1 ≤ x.cnt) && (x.wcfmt == 1 || x.wcfmt == 3 || x.wcfmt == 4) &&
  decide (x.wcblk ≤ 10) && (x.wcfmt != 1 || x.wcblk == 0)

/-! ### What stops a landing -/

/-- Why the unit stops work on something: a cause with its element, the causes of several elements in order, or a
fault, its element and whether the data was slot *v* or the current mooring half (R156). -/
inductive LuStop where
  | cause (c : Cause) (idx : Nat)
  | causes (l : List (Cause × Nat))
  | flt (f : Flt) (idx : Nat) (keep : Bool)
deriving DecidableEq, Repr

/-- Work of a Landing Unit that may stop. -/
abbrev LuProg (α : Type) := Prog (Except LuStop α)

/-- What becomes of a stop: a wait is none, anything else is a cause (R153 to R156). -/
def luStop (u entry : Nat) : LuStop → Prog Unit
  | .cause c i => luCause u c entry i
  | .causes l => Prog.each l fun p => luCause u p.1 entry p.2
  | .flt f i keep =>
    if f.isWait then .skip
    else (Prog.when (decide (f.kind = 3) && keep) ((errEvent (.luError u)).seq (selfFailure 9))).seq (luFault u f entry i)

/-- A read of the unit; `idx` gives the element of an offset. -/
def luRead (u va n : Nat) (keep : Bool) (idx : Nat → Nat) : LuProg (List Byte) := .get fun s =>
  (vget (luUnit s u) va n).bind fun r =>
    match r with
    | .ok d => .ret (.ok d)
    | .error f => .ret (.error (.flt f (idx (f.va - va)) keep))

/-- A write of the unit outside the peer areas: on a compressed page it breaks R205. -/
def luWrite (u va : Nat) (d : List Byte) (idx : Nat → Nat) : LuProg Unit := .get fun s =>
  (vput { luUnit s u with codec := none } va d).bind fun r =>
    match r with
    | .ok _ => .ret (.ok ())
    | .error f => (Prog.when (f.reason == 0x16) (setF .MEM_CDC_ERR Fld.MEM_CDC_ERR_PARTIAL (32 + u))).seq
        (.ret (.error (.flt f (idx (f.va - va)) false)))

/-- A write into a peer area of a crossing buffer, in whole blocks (R205, R291). -/
def luWriteArea (u va : Nat) (d : List Byte) : LuProg Unit := .get fun s =>
  (vput (luUnit s u) va d).bind fun r =>
    match r with
    | .ok _ => .ret (.ok ())
    | .error f => .ret (.error (.flt f noElement false))

/-- A fixed-size record: faults concern no element (R154). -/
def luRecord (u va n : Nat) (keep : Bool) : LuProg Nat :=
  (luRead u va n keep fun _ => noElement).bindE fun d => .ret (.ok (leNat d))

/-- Elements of `size` bytes of an array, `n` from element `i` on. -/
def luElems (u base size i n : Nat) (keep : Bool) : LuProg (List Nat) :=
  (luRead u (base + size * i) (size * n) keep fun d => i + d / size).bindE fun d =>
    .ret (.ok ((chunks size n d).map leNat))

/-- Elements written into an array from element `i` on. -/
def luPut (u base size i : Nat) (l : List Nat) : LuProg Unit :=
  luWrite u (base + size * i) (l.flatMap (leBytes size)) fun d => i + d / size

/-- Work done, or its stop taken as a cause of an entry. -/
def luDo (u entry : Nat) (p : LuProg Unit) : Prog Unit :=
  p.bind fun r =>
    match r with
    | .ok _ => .skip
    | .error e => luStop u entry e

/-- VPTR of a unit (R134). -/
def vptr (s : State) (u : Nat) : Nat := s.rdF .LND_STATUS Fld.LND_STATUS_VPTR u

/-- MPTR of a unit (R134). -/
def mptr (s : State) (u : Nat) : Nat := s.rdF .LND_STATUS Fld.LND_STATUS_MPTR u

/-- A layer entry read from the landing table. -/
def readEntry (u i : Nat) : LuProg LayerEntry := .get fun s =>
  luRecord u ((s.rd .LND_LTAB_BASE u).toNat + 128 * i) 128 false

/-- What a unit knows of an entry. -/
def State.luEntry (s : State) (u i : Nat) : LuEntry := Tab.at LuEntry.init (s.landing u).entries i

/-- A change to it. -/
def modEntry (u i : Nat) (f : LuEntry → LuEntry) : Prog Unit :=
  modLu u fun k => { k with entries := Tab.upd LuEntry.init k.entries i (f (Tab.at LuEntry.init k.entries i)) }

/-! ### Crossing buffers (R290 to R292) -/

/-- The fields of a crossing-buffer header. -/
structure XHdr where
  fmt   : Nat
  nseg  : Nat
  npeer : Nat
  s     : Nat
  ahead : Nat
  sites : Nat
  omega : List Nat
deriving DecidableEq, Repr

/-- A header of 1,024 bits. -/
def xhdrOf (x : Nat) : XHdr :=
  ⟨bits 3 0 x, bits 35 4 x, bits 39 36 x, bits 42 40 x, bits 45 43 x, bits 61 46 x,
   (List.range 8).map fun a => bits (159 + 32 * a) (128 + 32 * a) x⟩

/-- Whether a header is legal (R290). -/
def XHdr.ok (h : XHdr) (site : Nat) : Bool :=
  (h.fmt == 8 || h.fmt == 9) && decide (1 ≤ h.s) && decide (h.ahead ≤ 6) && decide (h.s + h.ahead ≤ 7) &&
  ((h.omega.take (h.s + 1)).all fun w => !b32.nonfinite w && decide (0 < w) && decide (w < 2 ^ 31)) &&
  h.sites.testBit site && decide (popcount 16 h.sites = h.npeer + 1)

/-- W = S + AHEAD + 1 (R290). -/
def XHdr.w (h : XHdr) : Nat := h.s + h.ahead + 1

/-- The address of peer area (p, w) (R290). -/
def XHdr.area (h : XHdr) (cbuf p w : Nat) : Nat := cbuf + 2048 * (1 + h.nseg) * (1 + p * h.w + w)

/-- The rank of a peer site (R290). -/
def XHdr.rank (h : XHdr) (site q : Nat) : Nat :=
  ((List.range q).filter fun i => h.sites.testBit i && i != site).length

/-- The header of a crossing buffer. -/
def readXHdr (u cbuf : Nat) : LuProg XHdr :=
  (luRecord u cbuf 128 false).bindE fun x => .ret (.ok (xhdrOf x))

/-- The header of a peer area: SITE, STATE and CROSS. -/
def areaWord (site st cross : Nat) : Nat := site % 16 + st * 16 + cross % 2 ^ 32 * 64

/-- A peer area's header written as a whole block (R291). -/
def putArea (u a site st cross : Nat) : LuProg Unit :=
  luWriteArea u a (leBytes 2048 (areaWord site st cross))

/-- Every peer area of a buffer: rank and place. -/
def XHdr.places (h : XHdr) : List (Nat × Nat) :=
  (List.range h.npeer).flatMap fun p => (List.range h.w).map fun w => (p, w)

/-- The areas with their headers: place and header word. -/
def readAreas (u cbuf : Nat) (h : XHdr) : LuProg (List ((Nat × Nat) × Nat)) :=
  Prog.mapE h.places fun p => (luRecord u (h.area cbuf p.1 p.2) 64 false).bindE fun x => .ret (.ok (p, x))

/-- STATE of an area header. -/
def areaState (x : Nat) : Nat := bits 5 4 x
/-- CROSS of an area header. -/
def areaCross (x : Nat) : Nat := bits 37 6 x

/-- Values in a segment (R288). -/
def segVals (fmt : Nat) : Nat := if fmt = 8 then 3840 else 7232

/-- The values of a segment as binary32 codes with the flags of its decoding (R38 to R40, R288). -/
def segDecode (fmt : Nat) (d : List Byte) : List Fl :=
  let bl := if fmt = 8 then chunks 34 60 (d.take 2040) else chunks 18 113 (d.take 2034)
  bl.flatMap fun b =>
    let x := leNat b
    (List.range 64).map fun i =>
      let w := if fmt = 8 then 4 else 2
      qDecode w (x % 2 ^ 16) (x / 2 ^ (16 + w * i) % 2 ^ w)

/-- Elements `lo` up to `hi` of a difference whose segments start at an address; elements past the last
segment are +0 (log 16). -/
def diffVals (u : Nat) (h : XHdr) (base lo hi : Nat) : LuProg (List Fl) :=
  let v := segVals h.fmt
  let first := lo / v
  let last := min ((hi + v - 1) / v) h.nseg
  (Prog.mapE ((List.range last).drop first) fun g =>
    (luRead u (base + 2048 * g) 2048 false fun _ => max lo (g * v)).bindE fun d => .ret (.ok (segDecode h.fmt d))).bindE fun l =>
  let all := l.flatten.drop (lo - first * v)
  .ret (.ok ((all ++ List.replicate (hi - lo - min (hi - lo) all.length) (fl 0)).take (hi - lo)))

/-- Whether an entry may be landed, held or updated (R130, R290). -/
def entryOk (u : Nat) (x : LayerEntry) : LuProg Bool := .get fun s =>
  if !x.ok (s.rdF .LND_LENT Fld.LND_LENT_VALID u == 1) then .ret (.ok false)
  else if x.outer then (readXHdr u x.cbuf).bindE fun h =>
    .ret (.ok (h.ok (s.binding ((s.ownerUnit u).getD 0)).site))
  else .ret (.ok true)

/-! ### State of a unit -/

/-- A unit that works on a step: of a binding that steps (R12, R324), not drained, not turning. -/
def luActive (s : State) (u : Nat) : Bool :=
  let st := s.rdF .LND_STATUS Fld.LND_STATUS_STATE u
  (s.ownerUnit u).any (fun b => s.rdF .BND_STATE Fld.BND_STATE_STATE b == 3) && (st == 1 || st == 2 || st == 3 || st == 4)

/-- A unit that has voted. -/
def luVoted (s : State) (u : Nat) : Bool := s.rdF .LND_STATUS Fld.LND_STATUS_VOTED u == 1

/-- A unit that still lands in this step: nothing has caused a skip and it has not voted. -/
def luLands (s : State) (u : Nat) : Bool := luActive s u && !luVoted s u && !(s.landing u).caused

/-- The step in progress of a unit's binding. -/
def luStep (s : State) (u : Nat) : Nat := (s.binding ((s.ownerUnit u).getD 0)).step

/-- LND_STATUS.STATE follows the work in hand (R157, R158): LAND while a tile can land, PREC while the unit waits on
its lent cluster alone. -/
def luShow (u : Nat) : Prog Unit := .get fun s =>
  if !luActive s u || luVoted s u then .skip
  else wrF .LND_STATUS Fld.LND_STATUS_STATE
    (if (s.landing u).buf.any fun t => t.step == luStep s u then 2
     else if (s.landing u).phaseB.isSome then 3 else 1) u

/-! ### Arrival (R135, R136) -/

/-- A tile arrives and has a credit: it is disposed of by the first row of R136 that matches. -/
def tileArrive (u : Nat) (t : LandTile) : Prog Unit := .get fun s =>
  let step := luStep s u
  if (s.ownerUnit u).isNone then .skip
  else if t.step < step then bumpF .LND_LATECNT Fld.LND_LATECNT_COUNT 1 u
  else if step < t.step then modLu u fun k => { k with buf := k.buf ++ [t] }
  else if t.entry ≥ s.rdF .LND_LTAB_COUNT Fld.LND_LTAB_COUNT_COUNT u then luCause u .table t.entry noElement
  else luDo u t.entry <| (readEntry u t.entry).bindE fun x =>
    if x.hold || decide (x.tiles ≤ t.tile) then .ret (.error (.cause .table noElement))
    else .get fun s =>
      if (s.luEntry u t.entry).got.contains t.tile then .ret (.error (.cause .dup (4096 * t.tile)))
      else (modEntry u t.entry fun e => { e with got := e.got ++ [t.tile] }).seq
        (if luVoted s u || (s.landing u).caused then .ret (.ok ())
         else (entryOk u x).bindE fun ok =>
          if !ok then .ret (.error (.cause .table noElement))
          else (modLu u fun k => { k with buf := k.buf ++ [t] }).seq (.ret (.ok ())))

/-- A collective engine presents a tile (R135, R136). -/
def tilePresent (u : Nat) (t : LandTile) : Prog Unit := (tileArrive u t).seq (luShow u)

/-! ### Constants (R138 to R140) -/

/-- The largest of the first bytes of a history, bytes of −128 apart (R138). -/
def hmax (hist n : Nat) : Option Int :=
  maxExp (((List.range n).map fun i => signedOf 8 (hist / 256 ^ i)).filter (· != -128))

/-- HVALID as read (R132). -/
def hvalid (hdr : Nat) : Nat := min (bits 132 128 hdr) 16

/-- The constants of an entry's first landing, from the header of slot *v*: none where one raises NONFIN
(R138). -/
def constants (x : LayerEntry) (hdr scale commits : Nat) (e : LuEntry) : Option LuEntry × Flags :=
  let hv := hvalid hdr
  let wide := decide (hv < 16)
  let k := if commits < x.kstart then 1 else commits - x.kstart + 1
  let s := if wide then 0 else max (-64) (min 63 ((hmax (bits 127 0 hdr) hv).getD 0))
  let etaS := lScale wide (lMul wide (fl x.lr) (fl scale)) (-s)
  let ob1 := lSub wide (fl oneC) (fl x.beta1)
  let ob2 := lSub wide (fl oneC) (fl x.beta2)
  let c1 := lSub wide (fl oneC) (powRne wide 49 (fl oneC) (fl x.beta1) k)
  let c2 := if x.opt = 0 then fl 0 else lSub wide (fl oneC) (powRne wide 49 (fl oneC) (fl x.beta2) k)
  let z := fun (a : Fl) => a.1 % 2 ^ 31 == 0
  let bad := etaS.bad || c1.bad || (x.opt != 0 && (c2.bad || z c1 || z c2))
  let flags := ((etaS.2.or ob1.2).or c1.2).or (if x.opt = 0 then Flags.none else ob2.2.or c2.2)
  (if bad then none else some { e with
    begun := true, s := s, etaS := BitVec.ofNat 32 etaS.1, ob1 := BitVec.ofNat 32 ob1.1, ob2 := BitVec.ofNat 32 ob2.1
    c1 := BitVec.ofNat 32 c1.1, c2 := BitVec.ofNat 32 c2.1, wide := wide }, flags)

/-- The header of slot *v* of an entry. -/
def readHeader (u : Nat) (x : LayerEntry) : LuProg Nat := .get fun s => luRecord u (x.slot (vptr s u)) 64 true

/-- The first landing of an entry in a step: its constants, and the roots in force (R138, R146). -/
def beginEntry (u i : Nat) (x : LayerEntry) : LuProg Unit := .get fun s =>
  let lu := s.landing u
  if (s.luEntry u i).begun then .ret (.ok ()) else
  (readHeader u x).bindE fun hdr =>
  (if x.opt = 2 then luRecord u x.prec 64 false else .ret (.ok 0)).bindE fun prec =>
  let (k, f) := constants x hdr lu.scale.toNat lu.commits (s.luEntry u i)
  (addFlags .LND_FLAGS f.toNat u).seq
    (match k with
      | none => .ret (.error (.cause .nonfin 0))
      | some k => (modEntry u i fun _ => { k with rdtab := bits 191 144 prec, noroot := bit 192 prec }).seq (.ret (.ok ())))

/-! ### Elements (R143, R144) -/

/-- What the lanes make of an element. -/
structure Landed where
  m1    : Nat
  m2    : Nat
  w     : Nat
  u     : Nat
  flags : Flags
  /-- The causes it raises, in order (R143). -/
  cause : List Cause
deriving DecidableEq, Repr

/-- Whether a magnitude exceeds a threshold (R143, R149): never where either is a NaN. -/
def exceeds (wide : Bool) (v lim : Nat) : Bool :=
  let a := b32.dec (flushIn wide (v % 2 ^ 31))
  let l := b32.dec (flushIn wide lim)
  !a.isNan && !l.isNan && cmpV a l == .gt

/-- The gradient as scaled and checked (R143). -/
def scaleGrad (x : LayerEntry) (wide : Bool) (g : Nat) : Fl × List Cause :=
  let a := lScale wide (fl g) (-x.gexp)
  (a, if a.bad then [.nonfin] else if exceeds wide a.1 x.gabs then [.absurd] else [])

/-- The new moments (R144). -/
def moments (x : LayerEntry) (k : LuEntry) (g : Fl) (m1 m2 : Nat) : Fl × Fl :=
  if x.opt = 0 then (lFma k.wide (fl x.beta1) (fl m1) g, fl 0)
  else (lFma k.wide (fl x.beta1) (fl m1) (lMul k.wide (fl k.ob1.toNat) g),
        lFma k.wide (fl x.beta2) (fl m2) (lMul k.wide (fl k.ob2.toNat) (lMul k.wide g g)))

/-- The adaptive direction (R144, R145). -/
def adaptive (x : LayerEntry) (k : LuEntry) (m1 m2 : Fl) : Fl :=
  lDiv k.wide (lDiv k.wide m1 (fl k.c1.toNat))
    (lAdd k.wide (lSqrt k.wide (lDiv k.wide m2 (fl k.c2.toNat))) (fl x.eps))

/-- The update and the new master of a direction (R142, R143). -/
def finishElem (x : LayerEntry) (k : LuEntry) (w : Nat) (m1 m2 d : Fl) : Landed :=
  let u := lMul k.wide (fl k.etaS.toNat) (lFma k.wide (fl x.wd) (fl w) d)
  let wn := scaledSub k.wide (fl w) u k.s
  { m1 := m1.1, m2 := m2.1, w := wn.1, u := u.1, flags := wn.2.or m2.2,
    cause := if m1.bad || m2.bad || d.bad || u.bad || wn.bad then [.nonfin] else [] }

/-- An element of an OPT 0 or OPT 1 entry. -/
def landElem (x : LayerEntry) (k : LuEntry) (g w m1 m2 : Nat) : Landed :=
  let (a, c) := scaleGrad x k.wide g
  let (n1, n2) := moments x k a m1 m2
  let d := if x.opt = 1 then adaptive x k n1 n2 else if x.nest then lFma k.wide (fl x.beta1) n1 a else n1
  let r := finishElem x k w n1 n2 d
  { r with cause := c ++ r.cause }

/-- An element of phase A (R145). -/
def phaseAElem (x : LayerEntry) (k : LuEntry) (g m1 m2 : Nat) : Landed :=
  let (a, c) := scaleGrad x k.wide g
  let (n1, n2) := moments x k a m1 m2
  { m1 := n1.1, m2 := n2.1, w := 0, u := 0, flags := n1.2.or n2.2, cause := c }

/-- Each cause that elements raise, in order of their first element, the first of them at place `a` (R143, R154). -/
def tileCauses (a : Nat) (l : List Landed) : List (Cause × Nat) :=
  (l.zipIdx.flatMap fun p => p.1.cause.map fun c => (c, a + p.2)).foldl
    (fun r x => if r.any fun y => y.1 == x.1 then r else r ++ [x]) []

/-- The flags of elements. -/
def allFlags (l : List Landed) : Flags := l.foldl (fun f e => f.or e.flags) Flags.none

/-- The larger of two magnitudes. -/
def maxAbs (m : Nat) (l : List Nat) : Nat := l.foldl (fun a x => max a (x % 2 ^ 31)) m

/-! ### The working copy (R151, R152) -/

/-- A working copy of FP8 elements in one scale block: scale byte and codes, with flags (R151). -/
def wcBlock (fmt : Nat) (l : List Nat) : Nat × List Fl :=
  let f := if fmt = 3 then e4m3 else e5m2
  let m := maxAbs 0 l
  if m = 0 then (0x7F, l.map fun x => f.conv false .rne (b32.dec x))
  else
    let e := max (-127) (min 127 (expOf (b32.dec m) - (if fmt = 3 then 7 else 14)))
    ((e + 127).toNat, l.map fun x => f.conv false .rne (scaled (b32.dec x) (-e)))

/-- Tiles whose working copy is formed together: those that share a scale block (R151). -/
def LayerEntry.group (x : LayerEntry) : Nat := if x.wcfmt = 1 then 1 else max 1 (x.blk / 4096)

/-- The working copy, scales and digests of elements `lo` on, from their masters (R151, R152). -/
def emitCopy (u : Nat) (x : LayerEntry) (base lo : Nat) (l : List Nat) : LuProg Unit :=
  let m := x.map
  let c := x.wcBytes
  let blocks := if x.wcfmt = 1 then [] else (chunks x.blk (l.length + 1) l).map (wcBlock x.wcfmt)
  let codes := if x.wcfmt = 1 then l.map fun w => bf16.conv false .rne (b32.dec w) else blocks.flatMap (·.2)
  let bytes := codes.flatMap fun e => leBytes c e.1
  let crcs := (chunks 2048 (bytes.length + 1) bytes).map crc32c
  (addFlags .LND_FLAGS (codes.foldl (fun f e => f.or e.2) Flags.none).toNat u).bind fun _ =>
  (luPut u (base + m.wc) c lo (codes.map (·.1))).bindE fun _ =>
  (if x.wcfmt = 1 then .ret (.ok ())
   else luWrite u (base + m.scale + lo / x.blk) (blocks.map fun b => BitVec.ofNat 8 b.1) fun d => lo + d * x.blk).bindE fun _ =>
  luWrite u (base + m.digest + 4 * (lo * c / 2048)) (crcs.flatMap (leBytes 4)) fun d => lo + d / 4 * (2048 / c)

/-- The working copy of a tile's group, once its last tile has landed: the masters are read back. -/
def emitGroup (u i : Nat) (x : LayerEntry) (base t : Nat) : LuProg Unit := .get fun s =>
  let g := x.group
  let lo := t / g * g
  let members := (List.range g).map (lo + ·) |>.filter (· < x.tiles)
  if members.all fun t => (s.luEntry u i).landed.contains t then
    let a := 4096 * lo
    let n := min x.cnt (4096 * (lo + g)) - a
    (luElems u (base + x.map.master) 4 a n false).bindE fun l => emitCopy u x base a l
  else .ret (.ok ())

/-! ### The slot header (R132, R139, R148) -/

/-- A slot header. -/
def headerWord (hist hv step sused : Nat) (wide outupd : Bool) : Nat :=
  hist % 2 ^ 128 + hv % 32 * 2 ^ 128 + step % 2 ^ 48 * 2 ^ 144 + sused % 256 * 2 ^ 192 +
  (if wide then 2 ^ 200 else 0) + (if outupd then 2 ^ 201 else 0)

/-- Whether the step in progress applies an outer update to an entry. -/
def outerDue (s : State) (u : Nat) (x : LayerEntry) : Bool :=
  s.rdF .LND_STATUS Fld.LND_STATUS_OUTERDUE u == 1 && x.outer

/-- The history byte of a landing (R139). -/
def histByte (umax : Nat) (s : Int) : Nat :=
  if umax = 0 then 0x80 else codeOf 8 (max (-127) (min 127 (expOf (b32.dec umax) + s)))

/-- After an entry's last element, its header is written into slot 1−*v* (R139). -/
def closeEntry (u i : Nat) (x : LayerEntry) : LuProg Unit := .get fun s =>
  let e := s.luEntry u i
  if e.landed.length < x.tiles then .ret (.ok ()) else
  (readHeader u x).bindE fun hdr =>
  let hist := bits 127 0 hdr * 256 + histByte e.umax.toNat e.s
  (luWrite u (x.slot (1 - vptr s u)) (leBytes 64 (headerWord hist (min (hvalid hdr + 1) 16) (luStep s u) (codeOf 8 e.s) e.wide
    (outerDue s u x))) fun _ => noElement).bindE fun _ =>
  (modEntry u i fun e => { e with done := true }).seq (.ret (.ok ()))

/-! ### Landing a tile -/

/-- Elements that landed are counted (R408). -/
def countLanded (u n : Nat) (wide : Bool) : Prog Unit :=
  (count (setLu u) 0x30 n).seq (Prog.when wide (count (setLu u) 0x31 n))

/-- A tile of an OPT 0 or OPT 1 entry is landed from slot *v* into slot 1−*v* (R143). -/
def landTile (u : Nat) (x : LayerEntry) (t : LandTile) : LuProg Unit := .get fun s =>
  let k := s.luEntry u t.entry
  let m := x.map
  let old := x.slot (vptr s u)
  let new := x.slot (1 - vptr s u)
  let n := x.tileLen t.tile
  let a := 4096 * t.tile
  (luElems u (old + m.master) 4 a n true).bindE fun w =>
  (luElems u (old + m.m1) 4 a n true).bindE fun m1 =>
  (if x.opt = 0 then .ret (.ok (List.replicate n 0)) else luElems u (old + m.m2) 4 a n true).bindE fun m2 =>
  let g := (t.data.map (·.toNat)).take n
  let res := (g.zip (w.zip (m1.zip m2))).map fun p => landElem x k p.1 p.2.1 p.2.2.1 p.2.2.2
  (addFlags .LND_FLAGS (allFlags res).toNat u).bind fun _ =>
  match tileCauses a res with
  | c :: l => .ret (.error (.causes (c :: l)))
  | [] =>
    (luPut u (new + m.master) 4 a (res.map (·.w))).bindE fun _ =>
    (luPut u (new + m.m1) 4 a (res.map (·.m1))).bindE fun _ =>
    (if x.opt = 0 then .ret (.ok ()) else luPut u (new + m.m2) 4 a (res.map (·.m2))).bindE fun _ =>
    (modEntry u t.entry fun e => { e with
      landed := e.landed ++ [t.tile], umax := BitVec.ofNat 32 (maxAbs e.umax.toNat (res.map (·.u))) }).bind fun _ =>
    (countLanded u n k.wide).bind fun _ =>
    (emitGroup u t.entry x new t.tile).bindE fun _ => closeEntry u t.entry x

/-- Phase A of a tile of an OPT 2 entry (R145). -/
def phaseATile (u : Nat) (x : LayerEntry) (t : LandTile) : LuProg Unit := .get fun s =>
  let k := s.luEntry u t.entry
  let m := x.map
  let old := x.slot (vptr s u)
  let new := x.slot (1 - vptr s u)
  let n := x.tileLen t.tile
  let a := 4096 * t.tile
  (luElems u (old + m.m1) 4 a n true).bindE fun m1 =>
  (luElems u (old + m.m2) 4 a n true).bindE fun m2 =>
  let g := (t.data.map (·.toNat)).take n
  let res := (g.zip (m1.zip m2)).map fun p => phaseAElem x k p.1 p.2.1 p.2.2
  (addFlags .LND_FLAGS (allFlags res).toNat u).bind fun _ =>
  match tileCauses a res with
  | c :: l => .ret (.error (.causes (c :: l)))
  | [] =>
    (luPut u (new + m.m1) 4 a (res.map (·.m1))).bindE fun _ =>
    (luPut u (new + m.m2) 4 a (res.map (·.m2))).bindE fun _ =>
    (modEntry u t.entry fun e => { e with landed := e.landed ++ [t.tile] }).bind fun _ => .ret (.ok ())

/-- The oldest tile of the step in progress, and the buffer without it. -/
def takeTile (step : Nat) : List LandTile → Option (LandTile × List LandTile)
  | [] => none
  | t :: r => if t.step = step then some (t, r) else (takeTile step r).map fun p => (p.1, t :: p.2)

/-- The lanes land the oldest tile of the step, or discard it where the unit has voted skip; a tile that
came poisoned is a cause (R136, R137, R143, R269). -/
def tileLand (u : Nat) : Prog Unit := .get fun s =>
  if !luActive s u then .skip else
  match takeTile (luStep s u) (s.landing u).buf with
  | none => .skip
  | some (t, r) =>
    let pop := modLu u fun k => { k with buf := r, inHand := some t.entry }
    if !luLands s u then pop.seq (luShow u)
    else if t.poison then Prog.all [pop, luCause u .poison t.entry (4096 * t.tile), luShow u]
    else Prog.seq
      (((readEntry u t.entry).bindE fun x => (beginEntry u t.entry x).bindE fun _ =>
        if x.opt = 2 then phaseATile u x t else landTile u x t).bind fun res =>
        match res with
        | .ok _ => pop
        | .error (.flt f i keep) => if f.isWait then .skip else pop.seq (luStop u t.entry (.flt f i keep))
        | .error e => pop.seq (luStop u t.entry e))
      (luShow u)

/-! ### Phases B and C (R145 to R147) -/

/-- PHASE_B_START: the lent cluster starts on the entry's schedule (R145 to R147). -/
def execPhaseBStart (u : Fin 4) (entry : Nat) (s : State) : Host.Outcome State Fault Refusal :=
  (Prog.get fun s =>
    let e := s.luEntry u entry
    let c := s.rdF .LND_LENT Fld.LND_LENT_CLUSTER u
    if luLands s u && e.begun && !e.done && !e.noroot && (s.landing u).phaseB.isNone &&
        s.rdF .LND_LENT Fld.LND_LENT_VALID u == 1 && !(s.cluster c).lentRun then
      luDo u entry <| (readEntry u entry).bindE fun x =>
        if x.opt != 2 || decide (e.landed.length < x.tiles) then .ret (.ok ()) else
        (luRecord u x.prec 64 false).bindE fun prec =>
          let a := if vptr s u = 1 then bits 47 0 prec else bits 95 48 prec
          (Prog.all [startAt c (BitVec.ofNat 48 a), wr .ARY_DTAB_BASE (BitVec.ofNat 64 e.rdtab) c,
            modCl c fun k => { k with lentRun := true }, showSeq c,
            modLu u fun k => { k with phaseB := some entry, inHand := some entry }, luShow u]).seq (.ret (.ok ()))
    else .skip).next s

/-- The grafting sums of a tile in binary64 (R70, R145), with their flags. -/
def graftSum (l : List Nat) : Fl :=
  l.foldl (fun acc x =>
    let y := b64.conv false .rne (b32.dec x)
    let p := b64.mul .rne y.1 y.1
    let r := b64.add .rne acc.1 p.1
    (r.1, (acc.2.or y.2).or (p.2.or r.2))) (fl 0)

/-- The ratio *r*, binary32: none where it or a sum is not finite (R145); with the flags of its arithmetic (R71). -/
def graftRatio (wide : Bool) (a d : List Nat) : Option Nat × Flags :=
  let sa := graftSum a
  let sd := graftSum d
  let f := sa.2.or sd.2
  if b64.nonfinite sa.1 || b64.nonfinite sd.1 then (none, f)
  else if sd.1 % 2 ^ 63 = 0 then (some 0, f)
  else
    let q := b64.div .rne sa.1 sd.1
    let t := b64.sqrt .rne q.1
    let r := if wide then b32.ofV .rne (b64.dec t.1) else settleB32 (b32x.ofV .rne (b64.dec t.1))
    (if b32.nonfinite r.1 then none else some r.1, (f.or q.2).or (t.2.or r.2))

/-- Phase C of one tile (R145). -/
def phaseCTile (u i : Nat) (x : LayerEntry) (dbase t : Nat) : LuProg Unit := .get fun s =>
  let k := s.luEntry u i
  let m := x.map
  let old := x.slot (vptr s u)
  let new := x.slot (1 - vptr s u)
  let n := x.tileLen t
  let p := 4096 * t
  (luElems u (new + m.m1) 4 p n false).bindE fun m1 =>
  (luElems u (new + m.m2) 4 p n false).bindE fun m2 =>
  (luElems u (old + m.master) 4 p n true).bindE fun w =>
  (if k.noroot then .ret (.ok []) else luElems u dbase 4 p n false).bindE fun dm =>
  let a := (m1.zip m2).map fun e => adaptive x k (fl e.1) (fl e.2)
  let ds := dm.map (flushIn k.wide)
  let fa := a.foldl (fun f e => f.or e.2) Flags.none
  let ratio := if k.noroot then (some 0, Flags.none) else graftRatio k.wide (a.map (·.1)) ds
  (addFlags .LND_FLAGS (fa.or ratio.2).toNat u).bind fun _ =>
  match ds.findIdx? b32.nonfinite with
  | some j => .ret (.error (.cause .nonfin (p + j)))
  | none =>
    match ratio.1 with
    | none => .ret (.error (.cause .nonfin p))
    | some r =>
      let dir := if k.noroot then a else ds.map fun d => lMul k.wide (fl r) (fl d)
      let res := (w.zip (m1.zip (m2.zip dir))).map fun e => finishElem x k e.1 (fl e.2.1) (fl e.2.2.1) e.2.2.2
      (addFlags .LND_FLAGS (allFlags res).toNat u).bind fun _ =>
      match tileCauses p res with
      | c :: l => .ret (.error (.causes (c :: l)))
      | [] =>
        (luPut u (new + m.master) 4 p (res.map (·.w))).bindE fun _ =>
        (modEntry u i fun e => { e with umax := BitVec.ofNat 32 (maxAbs e.umax.toNat (res.map (·.u))) }).bind fun _ =>
        (countLanded u n k.wide).bind fun _ =>
        if (t + 1) % x.group = 0 || t + 1 = x.tiles then emitGroup u i x new t else .ret (.ok ())

/-- PHASE_C_START: every tile of the entry goes through phase C, in order (R145). -/
def execPhaseCStart (u : Fin 4) (entry : Nat) (s : State) : Host.Outcome State Fault Refusal :=
  (Prog.get fun s =>
    let e := s.luEntry u entry
    let c := s.rdF .LND_LENT Fld.LND_LENT_CLUSTER u
    let ready := e.noroot || ((s.landing u).phaseB == some entry && !(s.cluster c).lentRun)
    if luLands s u && e.begun && !e.done && ready then
      (luDo u entry <| (readEntry u entry).bindE fun x =>
        if x.opt != 2 || decide (e.landed.length < x.tiles) then .ret (.ok ()) else
        (luRecord u x.prec 64 false).bindE fun prec =>
        (Prog.mapE (List.range x.tiles) fun t => phaseCTile u entry x (bits 143 96 prec) t).bindE fun _ =>
        (closeEntry u entry x).bindE fun _ =>
          (modLu u fun k => { k with phaseB := if k.phaseB = some entry then none else k.phaseB }).seq (.ret (.ok ()))).seq
        (luShow u)
    else .skip).next s

/-! ### Held entries (R148) -/

/-- The parts of a slot area that a copy moves: offset, bytes and elements per byte, as a ratio (R131,
R148). -/
def LayerEntry.parts (x : LayerEntry) : List (Nat × Nat × Nat × Nat) :=
  let m := x.map
  let n := x.cnt
  let c := x.wcBytes
  [(m.master, 4 * n, 1, 4), (m.m1, 4 * n, 1, 4)] ++ (if x.opt = 0 then [] else [(m.m2, 4 * n, 1, 4)]) ++
  [(m.wc, c * n, 1, c)] ++ (if x.wcfmt = 1 then [] else [(m.scale, (n + x.blk - 1) / x.blk, x.blk, 1)]) ++
  [(m.digest, m.stop - m.digest, 2048 / c, 4)]

/-- One part of a slot area copied (R148). -/
def copyPart (u old new : Nat) (p : Nat × Nat × Nat × Nat) : LuProg Unit :=
  (luRead u (old + p.1) p.2.1 true fun d => d * p.2.2.1 / p.2.2.2).bindE fun d =>
    luWrite u (new + p.1) d fun d => d * p.2.2.1 / p.2.2.2

/-- HOLD_COPY: a held entry goes from slot *v* to slot 1−*v* (R148). -/
def execHoldCopy (u : Fin 4) (entry : Nat) (s : State) : Host.Outcome State Fault Refusal :=
  (Prog.get fun s =>
    if !luLands s u || (s.luEntry u entry).done ||
        decide (s.rdF .LND_LTAB_COUNT Fld.LND_LTAB_COUNT_COUNT u ≤ entry) then .skip
    else luDo u entry <| (readEntry u entry).bindE fun x =>
      if !x.hold then .ret (.ok ()) else
      (entryOk u x).bindE fun ok =>
      if !ok then .ret (.error (.cause .table noElement)) else
      let old := x.slot (vptr s u)
      let new := x.slot (1 - vptr s u)
      (readHeader u x).bindE fun hdr =>
      (Prog.mapE x.parts (copyPart u old new)).bindE fun _ =>
      let wide := decide (hvalid hdr < 16)
      (luWrite u new (leBytes 64 (headerWord (bits 127 0 hdr * 256 + 0x80) (hvalid hdr) (luStep s u) 0 wide (outerDue s u x)))
        fun _ => noElement).bindE fun _ =>
      (modEntry u entry fun e => { e with done := true, wide := wide }).seq (.ret (.ok ()))).next s

/-! ### The outer update (R149, R292) -/

/-- One element of an outer update: its new master, mooring and outer momentum. -/
structure OuterElem where
  w     : Nat
  moor  : Nat
  outer : Nat
  rej   : Nat
  flags : Flags
  bad   : Bool
deriving DecidableEq, Repr

/-- The outer update of an element: `xs` are the differences taken with their weights, its own first, and
`ws` the sum of the weights (R149). -/
def outerElem (x : LayerEntry) (wide : Bool) (ws : Fl) (w m0 b : Nat) (xs : List (Nat × Fl)) : OuterElem :=
  let m0 := fl (m0 * 2 ^ 16)
  let b := fl (b * 2 ^ 16)
  let keep := fun (v : Fl) => !v.bad && !exceeds wide v.1 x.dabs
  let ys := xs.map fun p => (p.1, if keep p.2 then p.2 else ((0, p.2.2) : Fl))
  let rej := (xs.filter fun p => !keep p.2).length
  let acc := ys.foldl (fun a p => lFma wide (fl p.1) p.2 a) (fl 0)
  let dq := (ys.head?.map (·.2)).getD (fl 0)
  let dbar := lDiv wide acc ws
  let bn := lFma wide (fl x.omu) b dbar
  let mo := lAdd wide m0 (lMul wide (fl x.olr) (lFma wide (fl x.omu) bn dbar))
  let mn := bf16.conv false .rne (b32.dec mo.1)
  let wn := lAdd wide (lSub wide (fl w) dq) (lSub wide (fl (mn.1 * 2 ^ 16)) m0)
  let bo := bf16.conv false .rne (b32.dec bn.1)
  ⟨wn.1, mn.1, bo.1, rej, ((wn.2.or mo.2).or mn.2).or bo.2, dbar.bad || bn.bad || wn.bad⟩

/-- The outer update of elements `lo` up to `hi` of an entry. -/
def outerRange (u : Nat) (x : LayerEntry) (h : XHdr) (wide : Bool) (diffs : List (Nat × Nat)) (lo hi : Nat) : LuProg Unit :=
  .get fun s =>
  let n := hi - lo
  let new := x.slot (1 - vptr s u)
  let cur := x.half (mptr s u)
  let pend := x.half (1 - mptr s u)
  let out := up2k (2 * x.cnt)
  (luElems u (new + x.map.master) 4 lo n false).bindE fun w =>
  (luElems u cur 2 lo n true).bindE fun m0 =>
  (luElems u (cur + out) 2 lo n true).bindE fun b =>
  (Prog.mapE diffs fun d => (diffVals u h d.2 lo hi).bindE fun l => .ret (.ok (d.1, l))).bindE fun ds =>
  let ws := ds.foldl (fun a d => lAdd wide a (fl d.1)) (fl 0)
  let res := (w.zip (m0.zip b)).zipIdx.map fun e =>
    outerElem x wide ws e.1.1 e.1.2.1 e.1.2.2 (ds.map fun d => (d.1, d.2.getD e.2 (fl 0)))
  (addFlags .LND_FLAGS (res.foldl (fun f e => f.or e.flags) Flags.none).toNat u).bind fun _ =>
  (bumpF .LND_DIFFREJ Fld.LND_DIFFREJ_COUNT ((res.map (·.rej)).foldl (· + ·) 0) u).bind fun _ =>
  match res.findIdx? (·.bad) with
  | some j => .ret (.error (.cause .nonfin (lo + j)))
  | none =>
    (luPut u (new + x.map.master) 4 lo (res.map (·.w))).bindE fun _ =>
    (emitCopy u x new lo (res.map (·.w))).bindE fun _ =>
    (setF .LND_STATUS Fld.LND_STATUS_PENDMOOR u).bind fun _ =>
    (luPut u pend 2 lo (res.map (·.moor))).bindE fun _ =>
    (luPut u (pend + out) 2 lo (res.map (·.outer))).bindE fun _ =>
    (count (setLu u) 0x34 n).bind fun _ => .ret (.ok ())

/-- Areas ordered by crossing and then by rank. -/
def insertArea (a : (Nat × Nat) × Nat) : List ((Nat × Nat) × Nat) → List ((Nat × Nat) × Nat)
  | [] => [a]
  | b :: r =>
    if areaCross a.2 < areaCross b.2 || (areaCross a.2 = areaCross b.2 && a.1.1 < b.1.1) then a :: b :: r
    else b :: insertArea a r

/-- The differences an outer update takes, as weights and addresses of their segments, and what becomes of
the areas (R292). -/
def takeDiffs (u : Nat) (x : LayerEntry) (h : XHdr) (n : Nat) : LuProg (List (Nat × Nat)) :=
  (readAreas u x.cbuf h).bindE fun areas =>
  let full := areas.filter fun a => areaState a.2 == 2
  let old := full.filter fun a => decide (areaCross a.2 + h.s < n)
  let took := (full.filter fun a => decide (n ≤ areaCross a.2 + h.s) && decide (areaCross a.2 ≤ n)).foldr insertArea []
  (Prog.mapE old fun a => putArea u (h.area x.cbuf a.1.1 a.1.2) (bits 3 0 a.2) 0 (areaCross a.2)).bindE fun _ =>
  (Prog.mapE took fun a => putArea u (h.area x.cbuf a.1.1 a.1.2) (bits 3 0 a.2) 3 (areaCross a.2)).bindE fun _ =>
  .ret (.ok ((h.omega.getD 0 0, x.cbuf + 2048) ::
    took.map fun a => (h.omega.getD (n - areaCross a.2) 0, h.area x.cbuf a.1.1 a.1.2 + 2048)))

/-- OUTER_UPDATE: after the entry's own landing or hold (R26, R149). -/
def execOuterUpdate (u : Fin 4) (entry : Nat) (s : State) : Host.Outcome State Fault Refusal :=
  (Prog.get fun s =>
    let e := s.luEntry u entry
    if luLands s u && e.done && !e.outer && s.rdF .LND_STATUS Fld.LND_STATUS_OUTERDUE u == 1 then
      luDo u entry <| (readEntry u entry).bindE fun x =>
        if !x.outer then .ret (.ok ()) else
        (readXHdr u x.cbuf).bindE fun h =>
        (takeDiffs u x h ((s.binding ((s.ownerUnit u).getD 0)).outer.headD 0)).bindE fun diffs =>
        let g := 4096 * x.group
        (Prog.mapE (List.range ((x.cnt + g - 1) / g)) fun q =>
          outerRange u x h e.wide diffs (g * q) (min x.cnt (g * (q + 1)))).bindE fun _ =>
        (modEntry u entry fun e => { e with outer := true }).seq (.ret (.ok ()))
    else .skip).next s

/-! ### The vote (R157) -/

/-- Whether every entry of the table is complete: landed or held, and its outer update done. A stop comes with the
entry being read (R154). -/
def entriesDone (u : Nat) : Prog (Except (LuStop × Nat) Bool) := .get fun s =>
  (Prog.mapE (List.range (s.rdF .LND_LTAB_COUNT Fld.LND_LTAB_COUNT_COUNT u)) fun i =>
    let e := s.luEntry u i
    if !e.done then .ret (.ok false)
    else if s.rdF .LND_STATUS Fld.LND_STATUS_OUTERDUE u == 1 && !e.outer then
      (readEntry u i).bind fun r =>
        match r with
        | .error e => .ret (.error (e, i))
        | .ok x => .ret (.ok (!x.outer))
    else .ret (.ok true)).bindE fun l => .ret (.ok (l.all id))

/-- Entries of the step that ran in wide mode (R140, R158): all of them, and those that landed. -/
def wideEntries (k : Lu) : Nat × Nat :=
  ((k.entries.filter fun e => e.2.done && e.2.wide).length, (k.entries.filter fun e => e.2.done && e.2.wide && e.2.begun).length)

/-- LU_VOTE: a unit whose work is complete without a cause votes commit (R16, R157). -/
def execLuVote (u : Fin 4) (s : State) : Host.Outcome State Fault Refusal :=
  (Prog.get fun s =>
    if !luLands s u then .skip
    else (entriesDone u).bind fun r =>
      match r with
      | .error (e, i) => luStop u i e
      | .ok false => .skip
      | .ok true =>
      let w := wideEntries (s.landing u)
      Prog.all [setF .LND_STATUS Fld.LND_STATUS_VOTED u, setF .LND_STATUS Fld.LND_STATUS_VOTE u,
        wrF .LND_STATUS Fld.LND_STATUS_STATE 4 u, wrF .LND_STATUS Fld.LND_STATUS_WIDE (if w.2 = 0 then 0 else 1) u,
        wrF .LND_WIDECNT Fld.LND_WIDECNT_COUNT w.1 u]).next s

/-- LND_CMD.ABORT: cause FORCED before the vote, ignored after it (R153, R158). -/
def lndAbortDo (u : Fin 4) : Prog Unit := .get fun s =>
  (if !luActive s u || luVoted s u then setF .LND_ERR Fld.LND_ERR_CMDIGN u
    else luCause u .forced ((s.landing u).inHand.getD 0) noElement)

/-- `execLndAbort`: the command. -/
def execLndAbort (u : Fin 4) (s : State) : Host.Outcome State Fault Refusal := (lndAbortDo u).next s

/-- A drain of a unit is requested (R155): a unit that has not voted votes skip with cause INTERRUPT. -/
def drainLu (u : Nat) : Prog Unit := .get fun s =>
  Prog.all [Prog.when (luActive s u && !luVoted s u) (luCause u .interrupt ((s.landing u).inHand.getD 0) noElement),
    modLu u fun k => { k with drain := true }]

/-- LU_DRAINED: its writes acknowledged, the unit enters DRAINED (R155). -/
def execLuDrained (u : Fin 4) (s : State) : Host.Outcome State Fault Refusal :=
  (Prog.get fun s =>
    if (s.landing u).drain && luVoted s u then
      (wrF .LND_STATUS Fld.LND_STATUS_STATE 6 u).seq (modLu u fun k => { k with drain := false })
    else .skip).next s

/-! ### The turnaround's part (R18, R134, R292) -/

/-- The areas an outer update took become EMPTY at a commit and COMPLETE at a skip (R292). -/
def settleAreas (u : Nat) (commit : Bool) : Prog Unit := .get fun s =>
  if s.rdF .LND_STATUS Fld.LND_STATUS_OUTERDUE u ≠ 1 then .skip
  else Prog.each (List.range (s.rdF .LND_LTAB_COUNT Fld.LND_LTAB_COUNT_COUNT u)) fun i =>
    luDo u i <| (readEntry u i).bindE fun x =>
      if !x.outer then .ret (.ok ()) else
      (readXHdr u x.cbuf).bindE fun h => (readAreas u x.cbuf h).bindE fun areas =>
      (Prog.mapE (areas.filter fun a => areaState a.2 == 3) fun a =>
        putArea u (h.area x.cbuf a.1.1 a.1.2) (bits 3 0 a.2) (if commit then 0 else 2) (areaCross a.2)).bindE fun _ => .ret (.ok ())

/-- A unit begins a step: nothing is landed, held tiles of the step are landable, and the scale and commit
counter of R138 stand. A unit without entries votes commit at once (R157). -/
def luNewStep (u step : Nat) (outer : Bool) : Prog Unit := .get fun s =>
  let now := (s.landing u).buf.filter fun t => t.step == step
  let b := s.binding ((s.ownerUnit u).getD 0)
  let none' := s.rdF .LND_LTAB_COUNT Fld.LND_LTAB_COUNT_COUNT u == 0
  Prog.all [
    modLu u fun k => { k with
      buf := k.buf.filter fun t => decide (step < t.step)
      entries := []
      caused := false
      inHand := none
      phaseB := none
      scale := (s.rd .LND_LRSCALE u).truncate 32
      commits := b.commit },
    wrF .LND_STATUS Fld.LND_STATUS_VOTED (if none' then 1 else 0) u,
    wrF .LND_STATUS Fld.LND_STATUS_VOTE (if none' then 1 else 0) u,
    wrF .LND_STATUS Fld.LND_STATUS_STATE (if none' then 4 else 1) u,
    wrF .LND_STATUS Fld.LND_STATUS_OUTERDUE (if outer then 1 else 0) u,
    wrF .LND_STATUS Fld.LND_STATUS_PENDMOOR 0 u,
    wrF .LND_STEP Fld.LND_STEP_STEP step u,
    Prog.each now (tileArrive u), luShow u]

end Sys2Proof.Machine
end

