-- ==== Sys2Proof/Machine/Collective.lean ====
section
/-!
DEFINITION. Sys2Proof/Machine/Collective.lean: the collective engines (R266 to R271), the decay of a factor
block (R121 to R123), and the landing of a tile, which frees a slot for them (R135).
-/

namespace Sys2Proof.Machine

/-! ### Operation records (R267) -/

/-- Fields of an operation record. -/
def opKind (r : BitVec 512) : Nat := bits 3 0 r.toNat
/-- CLS. -/
def opCls (r : BitVec 512) : Nat := bits 5 4 r.toNat
/-- LU: the Landing Unit, or the collective engine at the keeper (DEDUCED, log 24). -/
def opLu (r : BitVec 512) : Nat := bits 7 6 r.toNat
/-- OPID. -/
def opId (r : BitVec 512) : Nat := bits 31 16 r.toNat
/-- STAGE. -/
def opStage (r : BitVec 512) : Nat := bits 79 32 r.toNat
/-- GROUP. -/
def opGroup (r : BitVec 512) : Nat := bits 127 80 r.toNat
/-- G. -/
def opG (r : BitVec 512) : Nat := bits 143 128 r.toNat
/-- RANK. -/
def opRank (r : BitVec 512) : Nat := bits 159 144 r.toNat
/-- TPP. -/
def opTpp (r : BitVec 512) : Nat := bits 191 160 r.toNat
/-- ENTRY. -/
def opEntry (r : BitVec 512) : Nat := bits 207 192 r.toNat
/-- TILE0. -/
def opTile0 (r : BitVec 512) : Nat := bits 239 208 r.toNat
/-- SUMBUF. -/
def opSumbuf (r : BitVec 512) : Nat := bits 287 240 r.toNat
/-- TCL. -/
def opTcl (r : BitVec 512) : Nat := bits 292 288 r.toNat
/-- STOK. -/
def opStok (r : BitVec 512) : Nat := bits 298 293 r.toNat
/-- DTOK. -/
def opDtok (r : BitVec 512) : Nat := bits 304 299 r.toNat
/-- HDR. -/
def opHdr (r : BitVec 512) : Nat := bits 352 305 r.toNat
/-- KEEP. -/
def opKeep (r : BitVec 512) : Nat := bits 367 353 r.toNat

/-- Tiles of the staged tensor (R267, R268, R270). -/
def opTiles (r : BitVec 512) : Nat := if opKind r = 1 then opG r * opTpp r else opTpp r

/-- Whether a gradient or a local sum may stand in a format: E5M2, bfloat16, binary32 (R113). -/
def sumFmt (f : Nat) : Bool := f == 0 || f == 1 || f == 4

/-- Whether a record keeps R267; `d` is the descriptor at STAGE. -/
def opOk (r : BitVec 512) (d : BitVec 512) : Bool :=
  let t := descOf d
  (opKind r == 1 || opKind r == 2) && opCls r == opKind r && bits 15 8 r.toNat == 0 && bits 511 368 r.toNat == 0 &&
  decide (2 ≤ opG r) && decide (opG r ≤ 32768) && decide (opRank r < opG r) &&
  (if opKind r = 1 then opSumbuf r == 0 else decide (opKeep r < opG r)) &&
  descOk d && sumFmt t.fmt && t.count == 4096 * opTiles r

/-! ### States -/

/-- FAB_CE_STATUS.STATE. -/
def ceState (s : State) (n : Nat) : Nat := s.rdF .FAB_CE_STATUS Fld.FAB_CE_STATUS_STATE n

/-- The status shown (R273). -/
def ceShow (n : Nat) : Prog Unit := .get fun s =>
  let k := s.engine n
  Prog.all [wrF .FAB_CE_STATUS Fld.FAB_CE_STATUS_INFLIGHT (min k.ops.length 4096) n,
    if ceState s n ≤ 1 then
      (if k.drain && k.decays.isEmpty then wrF .FAB_CE_STATUS Fld.FAB_CE_STATUS_STATE 3 n
       else wrF .FAB_CE_STATUS Fld.FAB_CE_STATUS_STATE (if k.ops.isEmpty then 0 else 1) n)
    else .skip]

/-- The binding of a collective engine. -/
def State.ceOwner (s : State) (n : Nat) : Option Nat := s.ownerUnit (6 + n)

/-- A fault of an engine: recorded, and the engine is in FAULT_STOP (R240, R271). -/
def ceFault (n rec' : Nat) (f : Flt) : Prog Unit := .get fun s =>
  if f.isWait then .skip
  else Prog.all [wrF .FAB_CE_STATUS Fld.FAB_CE_STATUS_STATE 2 n, setF .FAB_CE_ERR Fld.FAB_CE_ERR_FAULT n,
    wr .FAB_CE_ERRADDR (BitVec.ofNat 64 rec') n, logFault (ceUnit s n) f]

/-- The address of a record (R266). -/
def State.opAddr (s : State) (n idx : Nat) : Nat := s.rdF .FAB_CE_OPBASE Fld.FAB_CE_OPBASE_BASE n / 64 * 64 + 64 * idx

/-! ### Contributions (R268 to R270) -/

/-- Quarters of a tile that a packet's payload covers, by its format and part (R252). -/
def quarters (fmt part : Nat) : List Nat :=
  if fmt = 0 then [part % 4]
  else if fmt = 1 || fmt = 2 then (if part = 0 then [0, 1] else if part = 1 then [2, 3] else [])
  else if part = 0 then [0, 1, 2, 3] else []

/-- The values of a payload (R37, R41). -/
def payloadVals (fmt : Nat) (d : List Byte) : List Val :=
  (chunks (fmtUnit fmt).2 d.length d).map fun b => ((fmtOf fmt).getD b32).dec (leNat b)

/-- One element added (R65, R269); the first is stored as widened, and read for a signalling NaN (R35). -/
def sumElem (first : Bool) (a : Nat) (v : Val) : Nat × Flags :=
  if first then b32.conv false .rne v else b32.addV .rne (b32.dec a) v

/-- Counts of the quarters of a list advanced. -/
def bumpQ (l : List Nat) (q : List Nat) : List Nat := l.zipIdx.map fun p => if q.contains p.2 then p.1 + 1 else p.1

/-- Whether a contribution holds data that the engine adds (R269). -/
def contribGood (p : Packet) : Bool := !p.pois && sumFmt p.fmt.toNat && p.payload.length == 4096

/-- A contribution added to values of its quarters: the new values of the tile and the flags. -/
def addPayload (p : Packet) (added : List Nat) (data : List Nat) : List Nat × Flags :=
  let q := quarters p.fmt.toNat p.part.toNat
  let lo := 1024 * q.headD 0
  let v := payloadVals p.fmt.toNat p.payload
  let first := added.getD (q.headD 0) 0 == 0
  let r := (List.zip ((data.drop lo).take v.length) v).map fun e => sumElem first e.1 e.2
  (data.take lo ++ r.map (·.1) ++ data.drop (lo + v.length), r.foldl (fun f e => f.or e.2) Flags.none)

/-- The tile before its first contribution. -/
def Sum.init (mem : Bool) (p : Packet) : Sum :=
  { mem, step := p.step.toNat, opid := p.opid.toNat, entry := p.entry.toNat, tile := p.index.toNat, got := [0, 0, 0, 0],
    added := [0, 0, 0, 0], data := if mem then [] else List.replicate 4096 0, poison := false }

/-- Whether a sum is the one that a contribution belongs to. -/
def Sum.is (t : Sum) (mem : Bool) (p : Packet) : Bool :=
  t.mem == mem && t.step == p.step.toNat && t.opid == p.opid.toNat && t.entry == p.entry.toNat && t.tile == p.index.toNat

/-- The device's own record of an operation with its address, in the tables of the engines of the same binding (R268;
log 24): the first whose kind and OPID match. A fault is met at a record, whose address it comes with. -/
def findOp (n b kind opid : Nat) : Prog (Except (Flt × Nat) (Option (BitVec 512 × Nat))) := .get fun s =>
  let places := ((List.range 4).filter fun x => s.ceOwner x == some b).flatMap fun x =>
    (List.range (s.rdF .FAB_CE_OPCOUNT Fld.FAB_CE_OPCOUNT_COUNT x)).map fun i => s.opAddr x i
  let rec go : List Nat → Prog (Except (Flt × Nat) (Option (BitVec 512 × Nat)))
    | [] => .ret (.ok none)
    | a :: r => (vget (ceUnit s n) a 64).bind fun d =>
        match d with
        | .error f => .ret (.error (f, a))
        | .ok d =>
          let x := BitVec.ofNat 512 (leNat d)
          if opKind x = kind && opId x = opid then Prog.ret (.ok (some (x, a))) else go r
  go places

/-- The sum changed or removed. -/
def putSum (n : Nat) (t : Sum) (t' : Option Sum) : Prog Unit :=
  modCe n fun k => { k with sums := k.sums.filter (fun x => x != t) ++ t'.toList }

/-- A contribution counted in a sum: it adds its data, or marks the tile poisoned (R269). -/
def countIn (p : Packet) (t : Sum) : Sum × Flags :=
  let q := quarters p.fmt.toNat p.part.toNat
  if contribGood p then
    let r := if t.mem then (t.data.map (·.toNat), Flags.none) else addPayload p t.added (t.data.map (·.toNat))
    ({ t with got := bumpQ t.got q, added := bumpQ t.added q, data := r.1.map (BitVec.ofNat 32) }, r.2)
  else ({ t with got := bumpQ t.got q, poison := true }, Flags.none)

/-- A contribution waits in class 1 credits (R268). -/
def holdPacket (n : Nat) (p : Packet) : Prog Unit := modCe n fun k => { k with held := k.held ++ [p] }

/-- The summing of an operation stops at a fault met for the record at an address; its contributions wait, and the
engine's other operations continue (R240, R271). -/
def sumFault (n kind opid rec' : Nat) (f : Flt) : Prog Unit :=
  Prog.all [ceFault n rec' f, Prog.when (!f.isWait) (modCe n fun k => { k with
    stopped := if k.stopped.contains (kind, opid) then k.stopped else k.stopped ++ [(kind, opid)] })]

/-- Whether contributions of an operation wait: the engine is STOPPED, or a fault has stopped the operation (R240,
R243). -/
def sumHeld (s : State) (n kind opid : Nat) : Bool :=
  ceState s n == 3 || (s.engine n).stopped.contains (kind, opid)

/-- A CONTRIB is summed into its landing-buffer slot, and the complete tile is presented (R268, R269). -/
def contribLand (n : Nat) (p : Packet) : Prog Unit := .get fun s =>
  match s.ceOwner n with
  | none => .skip
  | some b =>
    let step := (s.binding b).step
    if s.rdF .BND_JOB Fld.BND_JOB_BID b ≠ p.bid.toNat then .skip
    else if p.step.toNat < step then bumpF .FAB_CE_LATECNT Fld.FAB_CE_LATECNT_COUNT 1 n
    else if step < p.step.toNat || sumHeld s n 1 p.opid.toNat then holdPacket n p
    else
      let old := (s.engine n).sums.find? fun t => t.is false p
      let used := ((s.engine n).sums.filter fun t => !t.mem).length + (s.landing n).buf.length
      if old.isNone && decide (512 ≤ used) then holdPacket n p
      else (findOp n b 1 p.opid.toNat).bind fun r =>
        match r with
        | .error (f, a) => (holdPacket n p).seq (sumFault n 1 p.opid.toNat a f)
        | .ok none => .skip
        | .ok (some (rec', _)) =>
          let t := old.getD (Sum.init false p)
          let r := countIn p t
          let full := r.1.got.all (fun x => decide (opG rec' ≤ x))
          Prog.all [addFlags .FAB_CE_FLAGS r.2.toNat n, count (setCe n) 0x78,
            Prog.when (!contribGood p) (setF .FAB_CE_ERR Fld.FAB_CE_ERR_POISON n),
            putSum n t (if full then none else some r.1),
            Prog.when full ((count (setCe n) 0x79).seq
              (tilePresent n ⟨r.1.step, r.1.entry, r.1.tile, r.1.data, r.1.poison⟩))]

/-! ### The decay of a factor block (R121, R122) -/

/-- Fields of a factor block's header (R123), a number of 512 bits. -/
def fhSeq (h : Nat) : Nat := bits 63 0 h
/-- Tiles of a block (R115). -/
def fhTiles (h : Nat) : Nat := let t := (bits 140 128 h + 63) / 64; t * (t + 1) / 2
/-- BETA. -/
def fhBeta (h : Nat) : Nat := bits 147 144 h

/-- 2^(-BETA) and 1 - 2^(-BETA) in binary32. -/
def negPow2 (b : Nat) : Nat := (127 - b) * 2 ^ 23
/-- β (R121). -/
def betaC (b : Nat) : Nat := (b32.addV .rne (b32.dec 0x3F800000) (b32.dec (negPow2 b + 2 ^ 31))).1

/-- α (R121): the exact quotient rounded once; with no row, the infinity of R66. -/
def alphaC (b nrows : Nat) : Nat :=
  if nrows = 0 then b32.inf false
  else (b32.round true .rne false (2 ^ 80 / nrows) (-80 - b) (decide (2 ^ 80 % nrows ≠ 0))).1

/-- One entry decayed: its new value, or none where it keeps its old one, and the flags (R71, R121). -/
def decayElem (beta alpha f x : Nat) : Option Nat × Flags :=
  let t := b32.mul .rne beta f
  let g := b32.fma .rne alpha x t.1
  (if b32.nonfinite x || b32.nonfinite g.1 then none else some g.1, t.2.or g.2)

/-- A summed tile applied to a tile of the block (R121, R270): the tile, the entries that kept their value, and the
flags. BETA is the header's copy, as NROWS is (DEDUCED: R121 names the header for NROWS alone; log 24). -/
def decayTile (h : Nat) (f x : List Nat) : List Nat × Nat × Flags :=
  let beta := betaC (fhBeta h)
  let alpha := alphaC (fhBeta h) (bits 287 256 h)
  let r := (f.zip x).map fun p => (p.1, decayElem beta alpha p.1 p.2)
  (r.map fun p => p.2.1.getD p.1, (r.filter fun p => p.2.1.isNone).length, r.foldl (fun f p => f.or p.2.2) Flags.none)

/-- Words of 4 bytes. -/
def words4 (d : List Byte) : List Nat := (chunks 4 d.length d).map leNat

/-- A header with some entries more rejected. -/
def fhReject (h k : Nat) : Nat := putBits 255 224 h (min (bits 255 224 h + k) (2 ^ 32 - 1))

/-- A complete summed tile is applied to its block; the first of the interval makes SEQ odd, which opens the block's
decay, and the last updates the header and makes it even (R122). A fault leaves the tile to be applied again. -/
def applyTile (n b : Nat) (rec' : BitVec 512) (t : Sum) : Prog (Except Flt Unit) := .get fun s =>
  let u := { ceUnit s n with bnd := b }
  let hdr := opHdr rec'
  (vget u hdr 64).bindE fun hd => .get fun s =>
  let h0 := leNat hd
  let open' := (s.engine n).decays.find? fun d => d.hdr == hdr && d.step == t.step
  let done := (open'.map (·.tiles)).getD []
  let h := if open'.isNone then putBits 63 0 h0 (fhSeq h0 + 1) else h0
  if done.contains t.tile then .ret (.ok ())
  else
  let fa := bits 111 64 h + 16384 * t.tile
  (vget u fa 16384).bindE fun fd =>
  (if t.poison then Prog.ret (.ok []) else vget u (opSumbuf rec' + 16384 * (t.tile - opTile0 rec')) 16384).bindE fun sd =>
  (vput u hdr (leBytes 64 h)).bindE fun _ =>
  let others := fun (k : Ce) => k.decays.filter fun d => !(d.hdr == hdr && d.step == t.step)
  (modCe n fun k => { k with decays := others k ++ [⟨hdr, t.step, done⟩] }).seq <|
  let r := if t.poison then (words4 fd, 4096, Flags.none) else decayTile h (words4 fd) (words4 sd)
  (if t.poison then Prog.ret (.ok ()) else vput u fa (r.1.flatMap (leBytes 4))).bindE fun _ =>
  let h1 := fhReject h r.2.1
  let all := done ++ [t.tile]
  let last := decide (fhTiles h ≤ all.length)
  let w := (b32.fma .rne (betaC (fhBeta h)) (bits 191 160 h1) (negPow2 (fhBeta h))).1
  let h2 := if last then
      putBits 63 0 (putBits 335 288 (putBits 223 192 (putBits 191 160 h1 w) (bits 223 192 h1 + 1)) t.step) (fhSeq h1 + 1)
    else h1
  (vput u hdr (leBytes 64 h2)).bindE fun _ =>
  (modCe n fun k => { k with decays := others k ++ (if last then [] else [⟨hdr, t.step, all⟩]) }).seq
    ((addFlags .FAB_CE_FLAGS r.2.2.toNat n).seq (.ret (.ok ())))

/-- Whether a decay may begin on a block: not while the engine drains (R122). -/
def mayApply (s : State) (n : Nat) (rec' : BitVec 512) (t : Sum) : Bool :=
  !(s.engine n).drain || (s.engine n).decays.any fun d => d.hdr == opHdr rec' && d.step == t.step

/-- Complete sums of SUMBUF are applied (R122, R270). -/
def applyReady (n : Nat) : List Sum → Prog Unit
  | [] => .skip
  | t :: r => .get fun s =>
    match s.ceOwner n with
    | none => .skip
    | some b => (findOp n b 2 t.opid).bind fun x =>
      match x with
      | .error (f, a) => (sumFault n 2 t.opid a f).seq (applyReady n r)
      | .ok none => applyReady n r
      | .ok (some (rec', a)) => .get fun s =>
        if !t.got.all (fun x => decide (opG rec' ≤ x)) || !mayApply s n rec' t then applyReady n r
        else (applyTile n b rec' t).bind fun y =>
          match y with
          | .error f => (sumFault n 2 t.opid a f).seq (applyReady n r)
          | .ok _ => Prog.all [putSum n t none, count (setCe n) 0x79, applyReady n r]

/-- The addition of a contribution to its quarters of SUMBUF: the flags it raised (R270). -/
def statAdd (n : Nat) (rec' : BitVec 512) (p : Packet) (t : Sum) : Prog (Except Flt Flags) := .get fun s =>
  let u := ceUnit s n
  let q := quarters p.fmt.toNat p.part.toNat
  let a := opSumbuf rec' + 16384 * (p.index.toNat - opTile0 rec') + 4096 * q.headD 0
  let len := 4096 * q.length
  if !contribGood p then .ret (.ok Flags.none)
  else
    (if t.added.getD (q.headD 0) 0 = 0 then Prog.ret (.ok (List.replicate len 0)) else vget u a len).bindE fun d =>
    let v := payloadVals p.fmt.toNat p.payload
    let res := ((words4 d).zip v).map fun e => sumElem (t.added.getD (q.headD 0) 0 == 0) e.1 e.2
    (vput u a ((res.map (·.1)).flatMap (leBytes 4))).bindE fun _ =>
      .ret (.ok (res.foldl (fun f e => f.or e.2) Flags.none))

/-- A STATCONTRIB is summed into SUMBUF, and a complete tile is applied to its block (R270). -/
def contribStat (n : Nat) (p : Packet) : Prog Unit := .get fun s =>
  match s.ceOwner n with
  | none => .skip
  | some b =>
    if s.rdF .BND_JOB Fld.BND_JOB_BID b ≠ p.bid.toNat then .skip
    else if sumHeld s n 2 p.opid.toNat then holdPacket n p
    else (findOp n b 2 p.opid.toNat).bind fun r =>
      match r with
      | .error (f, a) => (holdPacket n p).seq (sumFault n 2 p.opid.toNat a f)
      | .ok none => .skip
      | .ok (some (rec', a)) => .get fun s =>
        let t := ((s.engine n).sums.find? fun t => t.is true p).getD (Sum.init true p)
        (statAdd n rec' p t).bind fun w =>
          match w with
          | .error f => (holdPacket n p).seq (sumFault n 2 p.opid.toNat a f)
          | .ok fl => Prog.all [addFlags .FAB_CE_FLAGS fl.toNat n, count (setCe n) 0x78,
              Prog.when (!contribGood p) (setF .FAB_CE_ERR Fld.FAB_CE_ERR_POISON n),
              putSum n t (some (countIn p t).1), Prog.get fun s =>
                applyReady n ((s.engine n).sums.filter fun x => x.is true p), ceShow n]

/-- A contribution of either kind; one that came by the fabric gives its credits back unless it waits (R248, R268). -/
def contribute (n : Nat) (p : Packet) : Prog Unit := .get fun s =>
  let before := (s.engine n).held.length
  (if p.typ = 0x10 then contribLand n p else contribStat n p).seq <| .get fun s =>
    Prog.when (decide ((s.engine n).held.length ≤ before)) (creditBack p (flitsOf p))

/-- Contributions that waited are offered again, in order, as long as some are taken: one that completes a tile may
free a slot for another (R135, R268). -/
def offerHeld (n : Nat) : Nat → Prog Unit
  | 0 => .skip
  | fuel + 1 => .get fun s =>
    let held := (s.engine n).held
    if held.isEmpty then .skip
    else (modCe n fun k => { k with held := [] }).seq <| (Prog.each held (contribute n)).seq <| .get fun s =>
      if (s.engine n).held.length < held.length then offerHeld n fuel else .skip

/-- Contributions that waited are offered again. -/
def ceRetry (n : Nat) : Prog Unit := .get fun s => offerHeld n (s.engine n).held.length

/-- A contribution of either kind arrives; a slot that it frees serves those that wait. -/
def contribArrive (n : Nat) (p : Packet) : Prog Unit := (contribute n p).seq (ceRetry n)

/-- CONTRIB (R268): a contribution for Landing Unit LU*n* is summed by collective engine CE*n*. -/
def execContrib (n : Fin 4) (pkt : Packet) (s : State) : Host.Outcome State Fault Refusal :=
  (arriveHeld pkt 0x10 fun p => Prog.when (p.lu == n) (contribArrive n p)).next s

/-- STATCONTRIB (R270). -/
def execStatcontrib (n : Fin 4) (pkt : Packet) (s : State) : Host.Outcome State Fault Refusal :=
  (arriveHeld pkt 0x18 fun p => Prog.when (p.lu == n) (contribArrive n p)).next s

/-! ### Operations -/

/-- The bytes of tile `j` of a staged tensor, each with its poison. -/
def stagedTile (u : Unit') (d : Desc) (j : Nat) : Prog (Except Flt (List (Byte × Bool))) :=
  let size := (fmtUnit d.fmt).2
  (Prog.mapE (joinRuns ((List.range 4096).map fun i => (d.addr (d.off (4096 * j + i)), size))) fun p =>
    vread u p.1 p.2).bindE fun l => .ret (.ok l.flatten)

/-- The packets of a tile (R252, R268). -/
def tilePackets (r : BitVec 512) (bid step tile : Nat) (fmt : Nat) (d : List (Byte × Bool)) : List Packet :=
  (chunks 4096 4 d).zipIdx.map fun (p : List (Byte × Bool) × Nat) => { blankPacket with
    cls := BitVec.ofNat 2 (opCls r), typ := if opKind r = 1 then 0x10 else 0x18, bid := BitVec.ofNat 16 bid
    fmt := BitVec.ofNat 4 fmt, lu := ⟨opLu r, Nat.mod_lt _ (by decide)⟩, part := BitVec.ofNat 2 p.2
    step := BitVec.ofNat 48 step, entry := BitVec.ofNat 16 (opEntry r), index := BitVec.ofNat 32 tile
    opid := BitVec.ofNat 16 (opId r), pois := p.1.any (·.2), payload := p.1.map (·.1) }

/-- Tiles of an operation sent from its next on (R268, R270); `fuel` bounds them. -/
def opSend (n b : Nat) (d : Desc) (group : List Nat) : Nat → CeOp → Prog Unit
  | 0, _ => .skip
  | fuel + 1, o => .get fun s =>
    let r := o.rcd
    let drop := modCe n fun k => { k with ops := k.ops.filter fun x => x.idx != o.idx }
    if opTiles r ≤ o.sent then drop.seq (tokenAdd (opTcl r) (opDtok r) 1)
    else (stagedTile (ceUnit s n) d o.sent).bind fun x =>
      match x with
      | .error f => (modCe n fun k => { k with ops := k.ops.map fun y => if y.idx = o.idx then o else y }).seq
          (ceFault n (s.opAddr n o.idx) f)
      | .ok data =>
        let part := if opKind r = 1 then o.sent / opTpp r else opKeep r
        let tile := opTile0 r + (if opKind r = 1 then o.sent % opTpp r else o.sent)
        let pk := tilePackets r (s.rdF .BND_JOB Fld.BND_JOB_BID b) o.step tile d.fmt data
        Prog.seq (Prog.each pk fun p =>
            if part = opRank r then contribArrive (opLu r) p
            else sendPacket { p with dst := BitVec.ofNat 15 (group.getD part 0) })
          (opSend n b d group fuel { o with sent := o.sent + 1 })

/-- An operation runs, or goes on from its next packet (R240, R268). -/
def opRun (n b : Nat) (o : CeOp) : Prog Unit := .get fun s =>
  let u := ceUnit s n
  ((vget u (opStage o.rcd) 64).bindE fun dd => (vget u (opGroup o.rcd) (2 * opG o.rcd)).bindE fun g =>
    Prog.ret (.ok (dd, g))).bind fun x =>
    match x with
    | .error f => ceFault n (s.opAddr n o.idx) f
    | .ok (dd, g) =>
      opSend n b (descOf (BitVec.ofNat 512 (leNat dd))) ((chunks 2 g.length g).map leNat) (opTiles o.rcd + 1) o

/-- An operation of a kind starts when its token reaches 1 (R266, R267); an RS_MEM at the last step of an interval,
whose number is a multiple of INTERVAL (R120). In FAULT_STOP other operations go on (R240). -/
def opStart (n idx kind : Nat) : Prog Unit := .get fun s =>
  match s.ceOwner n with
  | none => .skip
  | some b =>
    let step := (s.binding b).step
    let k := s.engine n
    let due := kind = 1 || step % max 1 (bits 14 8 (s.binding b).params.toNat) = 0
    if 2 < ceState s n || k.drain || !due || s.rdF .FAB_CE_OPCOUNT Fld.FAB_CE_OPCOUNT_COUNT n ≤ idx ||
        k.started.contains (idx, step) || 4096 ≤ k.ops.length then .skip
    else
      let a := s.opAddr n idx
      (vget (ceUnit s n) a 64).bind fun x =>
      match x with
      | .error f => ceFault n a f
      | .ok rd =>
        let r := BitVec.ofNat 512 (leNat rd)
        if opKind r ≠ kind && (opKind r = 1 || opKind r = 2) then .skip
        else (tokenTake (opTcl r) (opStok r) 1 false).bind fun ok =>
        if !ok then .skip
        else (modCe n fun k => { k with started := k.started.filter (fun e => e.2 == step) ++ [(idx, step)] }).seq <|
          (vget (ceUnit s n) (opStage r) 64).bind fun y =>
          let o : CeOp := ⟨idx, r, step, 0⟩
          match y with
          | .error f => (modCe n fun k => { k with ops := k.ops ++ [o] }).seq (ceFault n a f)
          | .ok dd =>
            if !opOk r (BitVec.ofNat 512 (leNat dd)) then
              Prog.all [setF .FAB_CE_ERR Fld.FAB_CE_ERR_ILLEGAL n, wr .FAB_CE_ERRADDR (BitVec.ofNat 64 a) n,
                errEvent (.ceError n), selfFailure 10]
            else (modCe n fun k => { k with ops := k.ops ++ [o] }).seq (opRun n b o)

/-- RS_LAND (R268). -/
def execRsLand (n : Fin 4) (idx : Nat) (s : State) : Host.Outcome State Fault Refusal :=
  ((opStart n idx 1).seq (ceShow n)).next s

/-- RS_MEM (R270). -/
def execRsMem (n : Fin 4) (idx : Nat) (s : State) : Host.Outcome State Fault Refusal :=
  ((opStart n idx 2).seq (ceShow n)).next s

/-! ### Commands of FAB_CE_CMD (R271, R273) -/

/-- A drain of an engine: it completes the blocks whose decay has begun (R271); a faulted engine counts as
drained (R242). -/
def drainCe (n : Nat) : Prog Unit := .get fun s =>
  if 1 < ceState s n then .skip else (modCe n fun k => { k with drain := true }).seq (ceShow n)

/-- CE_STOP. -/
def ceStopDo (n : Fin 4) : Prog Unit :=
  (drainCe n)

/-- `execCeStop`: the command. -/
def execCeStop (n : Fin 4) (s : State) : Host.Outcome State Fault Refusal := (ceStopDo n).next s

/-- CE_RESUME: from FAULT_STOP or STOPPED every operation goes on from its next packet; otherwise ignored. -/
def ceResumeDo (n : Fin 4) : Prog Unit := .get fun s =>
  (if ceState s n = 2 || ceState s n = 3 then
      Prog.all [wrF .FAB_CE_STATUS Fld.FAB_CE_STATUS_STATE 1 n, modCe n fun k => { k with drain := false, stopped := [] },
        Prog.get fun s => applyReady n ((s.engine n).sums.filter (·.mem)), ceRetry n,
        Prog.each (s.engine n).ops fun o => opRun n ((s.ceOwner n).getD 0) o, ceShow n]
    else setF .FAB_CE_ERR Fld.FAB_CE_ERR_CMDIGN n)

/-- `execCeResume`: the command. -/
def execCeResume (n : Fin 4) (s : State) : Host.Outcome State Fault Refusal := (ceResumeDo n).next s

/-- An engine begins a step: sums of the ended step leave their slots, and contributions of the new step are
offered (R268; log 25). -/
def ceNewStep (n step : Nat) : Prog Unit := (modCe n fun k => { k with
    sums := k.sums.filter fun t => t.mem || decide (step ≤ t.step) }).seq (ceRetry n)

/-! ### Landing -/

/-- TILE_LAND: the lanes land a tile, and its slot is free for a contribution that waits (R135, R137). -/
def execTileLand (u : Fin 4) (s : State) : Host.Outcome State Fault Refusal :=
  ((tileLand u).seq (ceRetry u)).next s

end Sys2Proof.Machine
end

