-- ==== Sys2Proof/Machine/Hash.lean ====
section
/-!
DEFINITION. Sys2Proof/Machine/Hash.lean: SHA-384, as the standard of that name defines it, which the spec names for every
digest (R168, R176, R313, R349 to R360), and the verification of an RSASSA-PSS signature with it (R350).
-/

namespace Sys2Proof.Machine

/-- The bytes of a number, the most significant first. -/
def beBytes (n x : Nat) : List Byte := (leBytes n x).reverse

/-- A number from bytes, the first byte most significant. -/
def beNat (d : List Byte) : Nat := d.foldl (fun a b => 256 * a + b.toNat) 0

/-! ### SHA-384 -/

/-- The round constants: the first 64 bits of the fractional parts of the cube roots of the first 80 primes. -/
def shaK : List (BitVec 64) :=
  [0x428A2F98D728AE22, 0x7137449123EF65CD, 0xB5C0FBCFEC4D3B2F, 0xE9B5DBA58189DBBC,
   0x3956C25BF348B538, 0x59F111F1B605D019, 0x923F82A4AF194F9B, 0xAB1C5ED5DA6D8118,
   0xD807AA98A3030242, 0x12835B0145706FBE, 0x243185BE4EE4B28C, 0x550C7DC3D5FFB4E2,
   0x72BE5D74F27B896F, 0x80DEB1FE3B1696B1, 0x9BDC06A725C71235, 0xC19BF174CF692694,
   0xE49B69C19EF14AD2, 0xEFBE4786384F25E3, 0x0FC19DC68B8CD5B5, 0x240CA1CC77AC9C65] ++
  [0x2DE92C6F592B0275, 0x4A7484AA6EA6E483, 0x5CB0A9DCBD41FBD4, 0x76F988DA831153B5,
   0x983E5152EE66DFAB, 0xA831C66D2DB43210, 0xB00327C898FB213F, 0xBF597FC7BEEF0EE4,
   0xC6E00BF33DA88FC2, 0xD5A79147930AA725, 0x06CA6351E003826F, 0x142929670A0E6E70,
   0x27B70A8546D22FFC, 0x2E1B21385C26C926, 0x4D2C6DFC5AC42AED, 0x53380D139D95B3DF,
   0x650A73548BAF63DE, 0x766A0ABB3C77B2A8, 0x81C2C92E47EDAEE6, 0x92722C851482353B] ++
  [0xA2BFE8A14CF10364, 0xA81A664BBC423001, 0xC24B8B70D0F89791, 0xC76C51A30654BE30,
   0xD192E819D6EF5218, 0xD69906245565A910, 0xF40E35855771202A, 0x106AA07032BBD1B8,
   0x19A4C116B8D2D0C8, 0x1E376C085141AB53, 0x2748774CDF8EEB99, 0x34B0BCB5E19B48A8,
   0x391C0CB3C5C95A63, 0x4ED8AA4AE3418ACB, 0x5B9CCA4F7763E373, 0x682E6FF3D6B2B8A3,
   0x748F82EE5DEFB2FC, 0x78A5636F43172F60, 0x84C87814A1F0AB72, 0x8CC702081A6439EC] ++
  [0x90BEFFFA23631E28, 0xA4506CEBDE82BDE9, 0xBEF9A3F7B2C67915, 0xC67178F2E372532B,
   0xCA273ECEEA26619C, 0xD186B8C721C0C207, 0xEADA7DD6CDE0EB1E, 0xF57D4F7FEE6ED178,
   0x06F067AA72176FBA, 0x0A637DC5A2C898A6, 0x113F9804BEF90DAE, 0x1B710B35131C471B,
   0x28DB77F523047D84, 0x32CAAB7B40C72493, 0x3C9EBE0A15C9BEBC, 0x431D67C49C100D4C,
   0x4CC5D4BECB3E42B6, 0x597F299CFC657E2A, 0x5FCB6FAB3AD6FAEC, 0x6C44198C4A475817]

/-- The initial value: the first 64 bits of the fractional parts of the square roots of the ninth to sixteenth primes. -/
def shaInit : List (BitVec 64) :=
  [0xCBBB9D5DC1059ED8, 0x629A292A367CD507, 0x9159015A3070DD17, 0x152FECD8F70E5939,
   0x67332667FFC00B31, 0x8EB44A8768581511, 0xDB0C2E0D64F98FA7, 0x47B5481DBEFA4FA4]

/-- The two functions of a message word, and those of a working variable. -/
def shaSmall0 (x : BitVec 64) : BitVec 64 := x.rotateRight 1 ^^^ x.rotateRight 8 ^^^ x >>> 7
/-- See `shaSmall0`. -/
def shaSmall1 (x : BitVec 64) : BitVec 64 := x.rotateRight 19 ^^^ x.rotateRight 61 ^^^ x >>> 6
/-- See `shaSmall0`. -/
def shaBig0 (x : BitVec 64) : BitVec 64 := x.rotateRight 28 ^^^ x.rotateRight 34 ^^^ x.rotateRight 39
/-- See `shaSmall0`. -/
def shaBig1 (x : BitVec 64) : BitVec 64 := x.rotateRight 14 ^^^ x.rotateRight 18 ^^^ x.rotateRight 41

/-- The message schedule, the newest word first: `n` more words after those there. -/
def shaSchedule : Nat → List (BitVec 64) → List (BitVec 64)
  | 0, w => w
  | n + 1, w => shaSchedule n ((shaSmall1 (w.getD 1 0) + w.getD 6 0 + shaSmall0 (w.getD 14 0) + w.getD 15 0) :: w)

/-- One round on the eight working variables, with the sum of its constant and its message word. -/
def shaRound (v : List (BitVec 64)) (kw : BitVec 64) : List (BitVec 64) :=
  match v with
  | [a, b, c, d, e, f, g, h] =>
    let t1 := h + shaBig1 e + ((e &&& f) ^^^ (~~~e &&& g)) + kw
    [t1 + shaBig0 a + ((a &&& b) ^^^ (a &&& c) ^^^ (b &&& c)), a, b, c, d + t1, e, f, g]
  | _ => v

/-- The digest's value after one more block of 128 bytes. -/
def shaBlock (v : List (BitVec 64)) (d : List Byte) : List (BitVec 64) :=
  let w := (shaSchedule 64 ((chunks 8 16 d).map fun x => BitVec.ofNat 64 (beNat x)).reverse).reverse
  List.zipWith (· + ·) v ((List.zipWith (· + ·) shaK w).foldl shaRound v)

/-- A message with its padding: a one bit, zeros and its length in bits. -/
def shaPad (d : List Byte) : List Byte :=
  d ++ [0x80#8] ++ List.replicate ((256 - (d.length + 17) % 128) % 128) 0 ++ beBytes 16 (8 * d.length)

/-- SHA-384 of a byte string, its first byte most significant. -/
def sha384 (d : List Byte) : BitVec 384 :=
  let p := shaPad d
  BitVec.ofNat 384 ((((chunks 128 p.length p).foldl shaBlock shaInit).take 6).foldl (fun a x => 2 ^ 64 * a + x.toNat) 0)

/-- SHA-384 as 48 bytes. -/
def shaBytes (d : List Byte) : List Byte := beBytes 48 (sha384 d).toNat

/-! ### RSASSA-PSS (R350) -/

/-- A power modulo a number: the exponent's bits from the `n`th down. -/
def powMod (x m e : Nat) : Nat → Nat
  | 0 => 1 % m
  | n + 1 =>
    let y := powMod x m (e / 2) n
    if e % 2 = 1 then y * y % m * x % m else y * y % m

/-- MGF1 with SHA-384: `n` bytes from a seed. -/
def mgf1 (seed : List Byte) (n : Nat) : List Byte :=
  ((List.range ((n + 47) / 48)).flatMap fun i => shaBytes (seed ++ beBytes 4 i)).take n

/-- Verification of an RSASSA-PSS signature of 384 bytes with a 48-byte salt under a public key of 388 bytes, the modulus
then the exponent, each most significant byte first (R349, R350). -/
def rsaVerify (key msg sig : List Byte) : Bool :=
  let m := beNat (key.take 384)
  let x := beNat sig
  let em := beBytes 384 (powMod x m (beNat (key.drop 384)) 32)
  let h := (em.drop 335).take 48
  let db := List.zipWith (· ^^^ ·) (em.take 335) (mgf1 h 335)
  let db := (db.headD 0 &&& 0x7F#8) :: db.drop 1
  key.length == 388 && sig.length == 384 && decide (x < m) && em.getLastD 0 == 0xBC#8 && (em.headD 0).toNat / 128 == 0 &&
  db.take 287 == List.replicate 286 0 ++ [1#8] && shaBytes (List.replicate 8 0 ++ shaBytes msg ++ db.drop 287) == h

/-! ### RSA-OAEP (R358) -/

/-- Decryption of an RSA-OAEP message of 384 bytes with SHA-384, MGF1 with SHA-384 and an empty label, under a modulus and a
private exponent. -/
def oaepOpen (m d : Nat) (blob : List Byte) : Option (List Byte) :=
  let em := beBytes 384 (powMod (beNat blob) m d 3072)
  let db := em.drop 49
  let seed := List.zipWith (· ^^^ ·) ((em.drop 1).take 48) (mgf1 db 48)
  let db := List.zipWith (· ^^^ ·) db (mgf1 seed 335)
  let rest := (db.drop 48).dropWhile (· == 0#8)
  if blob.length == 384 && decide (beNat blob < m) && em.headD 1 == 0#8 && db.take 48 == shaBytes [] && rest.headD 0 == 1#8 then
    some (rest.drop 1)
  else none

end Sys2Proof.Machine
end

