-- ==== Sys2Proof/Machine/Aes.lean ====
section
/-!
DEFINITION. Sys2Proof/Machine/Aes.lean: AES-256 and what the spec uses of it, each as its standard defines it: the GMAC tag
of AES-256-GCM over empty plaintext (R282), CMAC (R364) and key wrap KW (R355, R361).
-/

namespace Sys2Proof.Machine

/-! ### The cipher -/

/-- The S-box. -/
def aesBox : List Nat :=
  [0x63, 0x7C, 0x77, 0x7B, 0xF2, 0x6B, 0x6F, 0xC5, 0x30, 0x01, 0x67, 0x2B, 0xFE, 0xD7, 0xAB, 0x76,
   0xCA, 0x82, 0xC9, 0x7D, 0xFA, 0x59, 0x47, 0xF0, 0xAD, 0xD4, 0xA2, 0xAF, 0x9C, 0xA4, 0x72, 0xC0,
   0xB7, 0xFD, 0x93, 0x26, 0x36, 0x3F, 0xF7, 0xCC, 0x34, 0xA5, 0xE5, 0xF1, 0x71, 0xD8, 0x31, 0x15,
   0x04, 0xC7, 0x23, 0xC3, 0x18, 0x96, 0x05, 0x9A, 0x07, 0x12, 0x80, 0xE2, 0xEB, 0x27, 0xB2, 0x75] ++
  [0x09, 0x83, 0x2C, 0x1A, 0x1B, 0x6E, 0x5A, 0xA0, 0x52, 0x3B, 0xD6, 0xB3, 0x29, 0xE3, 0x2F, 0x84,
   0x53, 0xD1, 0x00, 0xED, 0x20, 0xFC, 0xB1, 0x5B, 0x6A, 0xCB, 0xBE, 0x39, 0x4A, 0x4C, 0x58, 0xCF,
   0xD0, 0xEF, 0xAA, 0xFB, 0x43, 0x4D, 0x33, 0x85, 0x45, 0xF9, 0x02, 0x7F, 0x50, 0x3C, 0x9F, 0xA8,
   0x51, 0xA3, 0x40, 0x8F, 0x92, 0x9D, 0x38, 0xF5, 0xBC, 0xB6, 0xDA, 0x21, 0x10, 0xFF, 0xF3, 0xD2] ++
  [0xCD, 0x0C, 0x13, 0xEC, 0x5F, 0x97, 0x44, 0x17, 0xC4, 0xA7, 0x7E, 0x3D, 0x64, 0x5D, 0x19, 0x73,
   0x60, 0x81, 0x4F, 0xDC, 0x22, 0x2A, 0x90, 0x88, 0x46, 0xEE, 0xB8, 0x14, 0xDE, 0x5E, 0x0B, 0xDB,
   0xE0, 0x32, 0x3A, 0x0A, 0x49, 0x06, 0x24, 0x5C, 0xC2, 0xD3, 0xAC, 0x62, 0x91, 0x95, 0xE4, 0x79,
   0xE7, 0xC8, 0x37, 0x6D, 0x8D, 0xD5, 0x4E, 0xA9, 0x6C, 0x56, 0xF4, 0xEA, 0x65, 0x7A, 0xAE, 0x08] ++
  [0xBA, 0x78, 0x25, 0x2E, 0x1C, 0xA6, 0xB4, 0xC6, 0xE8, 0xDD, 0x74, 0x1F, 0x4B, 0xBD, 0x8B, 0x8A,
   0x70, 0x3E, 0xB5, 0x66, 0x48, 0x03, 0xF6, 0x0E, 0x61, 0x35, 0x57, 0xB9, 0x86, 0xC1, 0x1D, 0x9E,
   0xE1, 0xF8, 0x98, 0x11, 0x69, 0xD9, 0x8E, 0x94, 0x9B, 0x1E, 0x87, 0xE9, 0xCE, 0x55, 0x28, 0xDF,
   0x8C, 0xA1, 0x89, 0x0D, 0xBF, 0xE6, 0x42, 0x68, 0x41, 0x99, 0x2D, 0x0F, 0xB0, 0x54, 0xBB, 0x16]

/-- A byte through the S-box, and back. -/
def aesSub (x : Nat) : Nat := aesBox.getD x 0
/-- See `aesSub`. -/
def aesUnsub (x : Nat) : Nat := aesBox.findIdx (· == x)

/-- Twice a byte in the field of polynomial x⁸ + x⁴ + x³ + x + 1. -/
def aesDouble (x : Nat) : Nat := if x < 128 then 2 * x else (2 * x - 256) ^^^ 0x1B

/-- A product in that field by a factor of `n` bits. -/
def aesTimes : Nat → Nat → Nat → Nat
  | 0, _, _ => 0
  | n + 1, c, x => (if c % 2 = 1 then x else 0) ^^^ aesTimes n (c / 2) (aesDouble x)

/-- Words of the key schedule, the newest first: `n` more after the `i` there. -/
def aesWords : Nat → Nat → List (List Nat) → List (List Nat)
  | 0, _, l => l
  | n + 1, i, l =>
    let t := l.headD []
    let t := if i % 8 = 0 then List.zipWith (· ^^^ ·) ((t.drop 1 ++ t.take 1).map aesSub) [2 ^ (i / 8 - 1), 0, 0, 0]
      else if i % 8 = 4 then t.map aesSub else t
    aesWords n (i + 1) (List.zipWith (· ^^^ ·) (l.getD 7 []) t :: l)

/-- The 15 round keys of 16 bytes. -/
def aesKeys (key : BitVec 256) : List (List Nat) :=
  let w := (aesWords 52 8 (chunks 4 8 ((beBytes 32 key.toNat).map (·.toNat))).reverse).reverse
  chunks 16 15 w.flatten

/-- A column times a circulant matrix given by its first row. -/
def aesMixColumn (m c : List Nat) : List Nat :=
  (List.range 4).map fun i => ((List.range 4).map fun j => aesTimes 4 (m.getD ((j + 4 - i) % 4) 0) (c.getD j 0)).foldl (· ^^^ ·) 0

/-- Every column of a block. -/
def aesMix (m : List Nat) (s : List Nat) : List Nat := (chunks 4 4 s).flatMap (aesMixColumn m)

/-- The rows of a block turned, row `r` by `r * q` places. -/
def aesShift (q : Nat) (s : List Nat) : List Nat := (List.range 16).map fun i => s.getD ((i + 4 * q * (i % 4)) % 16) 0

/-- A block enciphered under the round keys. -/
def aesEnc (keys : List (List Nat)) (x : BitVec 128) : BitVec 128 :=
  let add (s k : List Nat) := List.zipWith (· ^^^ ·) s k
  let s := add ((beBytes 16 x.toNat).map (·.toNat)) (keys.headD [])
  let s := ((keys.drop 1).take 13).foldl (fun s k => add (aesMix [2, 3, 1, 1] (aesShift 1 (s.map aesSub))) k) s
  BitVec.ofNat 128 ((add (aesShift 1 (s.map aesSub)) (keys.getLastD [])).foldl (fun a b => 256 * a + b) 0)

/-- A block deciphered under the round keys. -/
def aesDec (keys : List (List Nat)) (x : BitVec 128) : BitVec 128 :=
  let add (s k : List Nat) := List.zipWith (· ^^^ ·) s k
  let s := add ((beBytes 16 x.toNat).map (·.toNat)) (keys.getLastD [])
  let s := ((keys.drop 1).take 13).reverse.foldl (fun s k => aesMix [14, 11, 13, 9] (add ((aesShift 3 s).map aesUnsub) k)) s
  BitVec.ofNat 128 ((add ((aesShift 3 s).map aesUnsub) (keys.headD [])).foldl (fun a b => 256 * a + b) 0)

/-! ### GMAC (R282) -/

/-- A product of GCM's field: the bits of the first factor from the `n`th of the last down, the first one most
significant. -/
def ghashMul (x : BitVec 128) : Nat → BitVec 128 → BitVec 128
  | 0, _ => 0
  | n + 1, v =>
    (if x.getLsbD n then v else 0) ^^^ ghashMul x n (if v.getLsbD 0 then (v >>> 1) ^^^ BitVec.ofNat 128 (0xE1 * 2 ^ 120) else v >>> 1)

/-- The GMAC tag of data under a key and a 96-bit IV. -/
def gmac (key : BitVec 256) (iv : BitVec 96) (d : List Byte) : BitVec 128 :=
  let keys := aesKeys key
  let h := aesEnc keys 0
  let step (y : BitVec 128) (b : Nat) : BitVec 128 := ghashMul (y ^^^ BitVec.ofNat 128 b) 128 h
  let y := (chunks 16 d.length d).foldl (fun y b => step y (beNat b * 256 ^ (16 - b.length))) 0
  step y (8 * d.length * 2 ^ 64) ^^^ aesEnc keys (BitVec.ofNat 128 (iv.toNat * 2 ^ 32 + 1))

/-! ### CMAC (R364) -/

/-- Twice a block in the field of CMAC's subkeys. -/
def cmacDouble (x : BitVec 128) : BitVec 128 := if x.msb then (x <<< 1) ^^^ 0x87 else x <<< 1

/-- The CMAC of data under a key. -/
def cmac (key : BitVec 256) (d : List Byte) : BitVec 128 :=
  let keys := aesKeys key
  let k1 := cmacDouble (aesEnc keys 0)
  let l := if d.isEmpty then [[]] else chunks 16 d.length d
  let last := l.getLastD []
  let final := if last.length = 16 then BitVec.ofNat 128 (beNat last) ^^^ k1
    else BitVec.ofNat 128 ((256 * beNat last + 128) * 256 ^ (15 - last.length)) ^^^ cmacDouble k1
  aesEnc keys (l.dropLast.foldl (fun y b => aesEnc keys (y ^^^ BitVec.ofNat 128 (beNat b))) 0 ^^^ final)

/-! ### Key wrap (R355, R361) -/

/-- The initial value of KW. -/
def kwInit : Nat := 0xA6A6A6A6A6A6A6A6

/-- KW of a plaintext of whole 64-bit blocks. -/
def kwWrap (key : BitVec 256) (p : List Byte) : List Byte :=
  let keys := aesKeys key
  let r := (chunks 8 p.length p).map beNat
  let n := r.length
  let x := (List.range (6 * n)).foldl (fun (x : Nat × List Nat) t =>
    let b := (aesEnc keys (BitVec.ofNat 128 (x.1 * 2 ^ 64 + x.2.headD 0))).toNat
    (b / 2 ^ 64 ^^^ (t + 1), x.2.drop 1 ++ [b % 2 ^ 64])) (kwInit, r)
  beBytes 8 x.1 ++ x.2.flatMap (beBytes 8)

/-- The plaintext of a KW ciphertext, or none where its check value is wrong. -/
def kwUnwrap (key : BitVec 256) (c : List Byte) : Option (List Byte) :=
  let keys := aesKeys key
  let l := (chunks 8 c.length c).map beNat
  let n := l.length - 1
  let x := (List.range (6 * n)).foldl (fun (x : Nat × List Nat) t =>
    let b := (aesDec keys (BitVec.ofNat 128 ((x.1 ^^^ (6 * n - t)) * 2 ^ 64 + x.2.getLastD 0))).toNat
    (b / 2 ^ 64, b % 2 ^ 64 :: x.2.dropLast)) (l.headD 0, l.drop 1)
  if x.1 = kwInit then some (x.2.flatMap (beBytes 8)) else none

end Sys2Proof.Machine
end

