-- ==== Sys2Proof/Machine/Ferry.lean ====
section
/-!
DEFINITION. Sys2Proof/Machine/Ferry.lean: the channels of the Ferry Engine, keys and signing (R277 to R284,
R293), frame groups and what they carry (R285, R288, R289), and sending (R278, R287, R296).
-/

namespace Sys2Proof.Machine

/-! ### Channels (R277, R295, R298) -/

/-- The port of a channel. -/
def State.chPort (s : State) (ch : Nat) : Nat := s.rdF .FRY_CH_CFG Fld.FRY_CH_CFG_PORT ch
/-- The binding of a channel. -/
def State.chBind (s : State) (ch : Nat) : Nat := s.rdF .FRY_CH_CFG Fld.FRY_CH_CFG_BIND ch
/-- The kind of a channel. -/
def State.chKind (s : State) (ch : Nat) : Nat := s.rdF .FRY_CH_CFG Fld.FRY_CH_CFG_KIND ch
/-- The own CHAN of a channel. -/
def State.chChan (s : State) (ch : Nat) : Nat := s.rdF .FRY_CH_CFG Fld.FRY_CH_CFG_CHAN ch
/-- The state of a channel. -/
def State.chState (s : State) (ch : Nat) : Nat := s.rdF .FRY_CH_STATUS Fld.FRY_CH_STATUS_STATE ch
/-- The crossing counter of a channel's binding. -/
def State.chCross (s : State) (ch : Nat) : Nat := (s.binding (s.chBind ch)).cross
/-- The unit that a channel's accesses are made as. -/
def State.chUnit (s : State) (ch : Nat) : Unit' := ferryUnit (s.chBind ch)
/-- Whether the Ferry Engine works. -/
def State.fryOn (s : State) : Bool :=
  s.rdF .FRY_CTRL Fld.FRY_CTRL_EN == 1 && decide (s.rdF .FRY_STATUS Fld.FRY_STATUS_STATE ≠ 3)
/-- Whether an outer port is UP. -/
def State.outerUp (s : State) (x : Nat) : Bool := s.rdF .FRY_PSTATUS Fld.FRY_PSTATUS_STATE x == 2

/-- A channel takes a state. -/
def setChState (ch st : Nat) : Prog Unit := wrF .FRY_CH_STATUS Fld.FRY_CH_STATUS_STATE st ch

/-- A channel enters REMEASURE: only echoes sent from now on count (R295). -/
def remeasure (ch : Nat) : Prog Unit :=
  (setChState ch 3).seq (modCh ch fun k => { k with mark := k.echo, replies := [] })

/-- The Ferry Engine's status shown (R298). -/
def fryShow : Prog Unit := .get fun s =>
  Prog.when (decide (s.rdF .FRY_STATUS Fld.FRY_STATUS_STATE ≤ 1))
    (wrF .FRY_STATUS Fld.FRY_STATUS_STATE (s.rdF .FRY_CTRL Fld.FRY_CTRL_EN))

/-- The tag of a channel's occurrences (R407). -/
def chTag (ch : Nat) : Tags := { chan := some ch }

/-! ### Frame headers (R279) -/

/-- VER. -/
def fhVer (h : BitVec 512) : Nat := bits 3 0 h.toNat
/-- FTYPE. -/
def fhType (h : BitVec 512) : Nat := bits 7 4 h.toNat
/-- RESEND. -/
def fhResend (h : BitVec 512) : Bool := h.getLsbD 8
/-- FRESH. -/
def fhFresh (h : BitVec 512) : Bool := h.getLsbD 9
/-- LASTG. -/
def fhLastg (h : BitVec 512) : Bool := h.getLsbD 10
/-- CHAN. -/
def fhChan (h : BitVec 512) : Nat := bits 31 16 h.toNat
/-- EPOCH. -/
def fhEpoch (h : BitVec 512) : Nat := bits 47 32 h.toNat
/-- CTR. -/
def fhCtr (h : BitVec 512) : Nat := bits 111 48 h.toNat
/-- KIND. -/
def fhKind (h : BitVec 512) : Nat := bits 115 112 h.toNat
/-- STREAM. -/
def fhStream (h : BitVec 512) : Nat := bits 159 128 h.toNat
/-- GROUP. -/
def fhGroup (h : BitVec 512) : Nat := bits 191 160 h.toNat
/-- FIDX. -/
def fhIdx (h : BitVec 512) : Nat := bits 197 192 h.toNat
/-- K. -/
def fhK (h : BitVec 512) : Nat := bits 203 198 h.toNat
/-- M. -/
def fhM (h : BitVec 512) : Nat := bits 209 204 h.toNat
/-- DLEN. -/
def fhDlen (h : BitVec 512) : Nat := bits 223 210 h.toNat
/-- SEQ. -/
def fhSeqNo (h : BitVec 512) : BitVec 32 := BitVec.ofNat 32 (bits 255 224 h.toNat)
/-- ICV. -/
def fhIcv (h : BitVec 512) : BitVec 128 := BitVec.ofNat 128 (bits 511 384 h.toNat)

/-- The header of a frame, without its ICV (R279). -/
def headerOf (s : State) (ch epoch ctr : Nat) (d : FrameDesc) : Nat :=
  1 + d.typ % 16 * 2 ^ 4 + (if d.fresh then 2 ^ 8 + 2 ^ 9 else 0) + (if d.lastg then 2 ^ 10 else 0) + s.chChan ch * 2 ^ 16 + epoch % 2 ^ 16 * 2 ^ 32 +
  ctr % 2 ^ 64 * 2 ^ 48 + s.chKind ch * 2 ^ 112 + (s.binding (s.chBind ch)).site % 16 * 2 ^ 116 +
  d.stream % 2 ^ 32 * 2 ^ 128 + d.group % 2 ^ 32 * 2 ^ 160 + d.idx % 64 * 2 ^ 192 + d.k % 64 * 2 ^ 198 +
  d.m % 64 * 2 ^ 204 + d.dlen % 2 ^ 14 * 2 ^ 210 + d.seq.toNat * 2 ^ 224

/-- Bytes padded with zeros to a length. -/
def padTo (n : Nat) (d : List Byte) : List Byte := d ++ List.replicate (n - d.length) 0

/-! ### Check values (R282, R283) -/

/-- The IV of a frame: CHAN, EPOCH and CTR, each most significant byte first (R283). -/
def ivOf (h : Nat) : BitVec 96 := BitVec.ofNat 96 (bits 31 16 h * 2 ^ 80 + bits 47 32 h * 2 ^ 64 + bits 111 48 h)

/-- The check value of a frame under a key: header bytes 0 to 47 with RESEND taken as 0, and the payload. -/
def icvOf (key : BitVec 256) (h : Nat) (payload : List Byte) : BitVec 128 :=
  gmac key (ivOf h) (leBytes 48 (putBits 8 8 h 0) ++ payload)

/-- A header with its ICV. -/
def signHeader (key : BitVec 256) (h : Nat) (payload : List Byte) : BitVec 512 :=
  BitVec.ofNat 512 (bits 383 0 h + (icvOf key h payload).toNat * 2 ^ 384)

/-- The key of a berth. -/
def State.berthKey (s : State) (b : Nat) : BitVec 256 := Tab.at 0 s.keys b

/-- The key that a channel signs the frames of a stream under: the newest for streams from its crossing on,
or, where crossings play no part, for the streams posted after it (R293, R294). An earlier stream keeps the old key; once
that has retired it takes the newest, as its frames sent afresh do (log 30). -/
def State.streamKey (s : State) (ch num order : Nat) : Option (Bool × FKey) :=
  let k := s.ch ch
  match k.new with
  | none => none
  | some n =>
    if if s.chKind ch = 1 then n.from' ≤ num else n.since ≤ order then some (true, n)
    else match k.old with
      | some o => some (false, o)
      | none => if s.chKind ch = 1 && n.from' + 2 ≤ s.chCross ch then some (true, n) else none

/-- The key of control frames: the newest whose crossing is at or below the counter (R293). -/
def State.ctlKey (s : State) (ch : Nat) : Option (Bool × FKey) :=
  let k := s.ch ch
  match k.new with
  | none => none
  | some n => if s.chKind ch ≠ 1 || n.from' ≤ s.chCross ch then some (true, n) else k.old.map fun o => (false, o)

/-- Values in a counter block, and the number used when the next block is asked for (R284). -/
def ctrBlock : Nat := 2 ^ 20
/-- See `ctrBlock`. -/
def ctrAsk : Nat := 786432

/-- Why frames cannot be signed. -/
inductive NoSign where
  | noKey
  | wait
  | spent
deriving DecidableEq, Repr

/-- Whether a frame may be signed under a key now: its counter value exists, and its block is reserved (R284). -/
def signable (s : State) (ch : Nat) (k : FKey) : Option NoSign :=
  if 2 ^ 64 ≤ k.ctr then some .spent
  else if s.hasBlock (s.chChan ch) k.epoch (k.ctr / ctrBlock) then none else some .wait

/-- The counter of a held key moves on, and the next block is asked for when its time comes (R284). -/
def useCtr (ch : Nat) (newest : Bool) (k : FKey) : Prog Unit := .get fun s =>
  let c := k.ctr + 1
  Prog.all [
    modCh ch fun x => if newest then { x with new := some { k with ctr := c } } else { x with old := some { k with ctr := c } },
    Prog.when newest (wr .FRY_CH_CTR (BitVec.ofNat 64 c) ch),
    Prog.when (decide (c % ctrBlock = ctrAsk))
      (reserveBlock (s.chChan ch) k.epoch (k.ctr / ctrBlock + 1))]

/-- The checksum of a UDP datagram over IPv6: the ones' complement of the ones' complement sum of its 16-bit words and
those of the pseudo-header, and never 0 on the wire (R275). -/
def udpSum (src dst sport dport : Nat) (d : List Byte) : Nat :=
  let n := d.length + 8
  let words (x : List Byte) : Nat := ((chunks 2 x.length x).map fun w => beNat (padTo 2 w)).sum
  let t := words (beBytes 16 src ++ beBytes 16 dst) + n + 17 + sport + dport + n + words d
  let c := 0xFFFF - (if t = 0 then 0 else (t - 1) % 0xFFFF + 1)
  if c = 0 then 0xFFFF else c

/-- A frame leaves by its channel's port (R275). -/
def transmit (ch : Nat) (h : BitVec 512) (payload : List Byte) : Prog Unit := .get fun s =>
  let x := s.chPort ch
  let pc := s.rd .FRY_PCFG x
  let d := fhType h
  let src := (s.rd .FRY_IPHI x).toNat * 2 ^ 64 + (s.rd .FRY_IPLO x).toNat
  let dst := (s.rd .FRY_CH_PEERHI ch).toNat * 2 ^ 64 + (s.rd .FRY_CH_PEERLO ch).toNat
  let sport := s.rdF .FRY_CTRL Fld.FRY_CTRL_UDPPORT
  let dport := s.rdF .FRY_CH_CFG Fld.FRY_CH_CFG_PPORT ch
  Prog.all [
    .one (.emit (.frame {
      port := x
      gw := s.rdF .FRY_GWMAC Fld.FRY_GWMAC_MAC x
      mac := s.rdF .FRY_MAC Fld.FRY_MAC_MAC x
      vlan := if flagF Fld.FRY_PCFG_VLAN pc then some (getF Fld.FRY_PCFG_PCP pc, getF Fld.FRY_PCFG_VID pc) else none
      src := BitVec.ofNat 128 src
      dst := BitVec.ofNat 128 dst
      sport := sport
      dport := dport
      hops := 64
      flow := fhChan h
      dscp := if d ≤ 2 then getF Fld.FRY_PCFG_DSCP pc else getF Fld.FRY_PCFG_CDSCP pc
      sum := udpSum src dst sport dport (leBytes 64 h.toNat ++ payload)
      hdr := h
      payload := payload })),
    count (setFerry x) 0x80 1 (chTag ch), count (setFerry 2) 0x80 1 (chTag ch)]

/-- A frame signed and sent under a key that the channel holds, and its header, or the reason why it is not; a missing
reservation sets IVWAIT, a counter at its end stops the channel (R284), and a relief device signs nothing under a pair of
the failed device (R339). -/
def sendFrame (ch : Nat) (key : Option (Bool × FKey)) (d : FrameDesc) (p : List Byte) :
    Prog (Except NoSign (BitVec 512)) := .get fun s =>
  match key with
  | none => .ret (.error .noKey)
  | some (newest, k) =>
    if s.fw.dead.contains (s.chChan ch, k.epoch) then .ret (.error .noKey) else
    match signable s ch k with
    | some .wait =>
      ((setF .FRY_CH_ERR Fld.FRY_CH_ERR_IVWAIT ch).seq (modCh ch fun x => { x with ivwait := true })).seq (.ret (.error .wait))
    | some e =>
      (Prog.all [setF .FRY_CH_ERR Fld.FRY_CH_ERR_CTREND ch, setChState ch 7,
        modCh ch fun x => { x with spent := true }]).seq (.ret (.error e))
    | none =>
      let h := signHeader (s.berthKey k.berth) (headerOf s ch k.epoch k.ctr d) p
      ((useCtr ch newest k).seq (transmit ch h p)).seq (.ret (.ok h))

/-! ### Control frames (R280; their payload layouts are the model's, log 27) -/

/-- A control frame sent, or kept until its counter block is reserved; a NACK sent is counted (R286). -/
def sendCtl (ch typ stream group : Nat) (body : List Byte) : Prog Unit := .get fun s =>
  if !s.fryOn || !s.outerUp (s.chPort ch) || s.chState ch = 0 then .skip
  else (sendFrame ch (s.ctlKey ch) ⟨typ, false, false, stream, group, 0, 0, 0, body.length, 0⟩ body).bind fun r =>
    match r with
    | .ok _ => Prog.when (typ == 4) (bumpF .FRY_CH_NACKCNT Fld.FRY_CH_NACKCNT_COUNT 1 ch)
    | .error .wait => modCh ch fun k => { k with ctl := k.ctl ++ [⟨typ, stream, group, body⟩] }
    | .error _ => .skip

/-- ACK of a stream up to a group. -/
def sendAck (ch stream cum : Nat) (complete dropped : Bool) : Prog Unit :=
  sendCtl ch 3 stream cum [BitVec.ofNat 8 ((if complete then 1 else 0) + (if dropped then 2 else 0))]

/-- NACK of frames of a group, or of RAW segments. -/
def sendNack (ch stream group : Nat) (map : Nat) (retired : Bool) (segs : List Nat) : Prog Unit :=
  sendCtl ch 4 stream group (leBytes 8 map ++
    [BitVec.ofNat 8 ((if retired then 1 else 0) + (if segs.isEmpty then 0 else 2))] ++ segs.flatMap (leBytes 4))

/-! ### Descriptors of the rings (R296) -/

/-- ADDR. -/
def fdAddr (d : BitVec 512) : Nat := bits 79 32 d.toNat
/-- LEN. -/
def fdLen (d : BitVec 512) : Nat := bits 127 80 d.toNat
/-- SIGEN. -/
def fdSigen (d : BitVec 512) : Bool := d.getLsbD 176
/-- TCL. -/
def fdTcl (d : BitVec 512) : Nat := bits 181 177 d.toNat
/-- TOK. -/
def fdTok (d : BitVec 512) : Nat := bits 187 182 d.toNat

/-- The address of a ring entry. -/
def ringEntry (s : State) (ring : RegName) (ch idx : Nat) : Nat := (bits 47 0 (s.rd ring ch).toNat / 64 * 64 + 64 * idx) % 2 ^ 48

/-- Entries of a ring. -/
def ringLen (s : State) (ring : RegName) (ch : Nat) : Nat := 2 ^ bits 51 48 (s.rd ring ch).toNat

/-- A channel meets a translation fault: it stops at the end of the group (R295). -/
def chanFault (ch : Nat) (f : Flt) : Prog Unit := .get fun s =>
  let st := s.chState ch
  Prog.all [logFault (s.chUnit ch) f, setF .FRY_CH_ERR Fld.FRY_CH_ERR_FAULT ch, setF .FRY_ERR Fld.FRY_ERR_FAULT,
    Prog.when (st == 2 || st == 3 || st == 4) (setChState ch 6)]

/-- Bytes written into a ring entry. -/
def putDesc (ring : RegName) (ch idx off : Nat) (d : List Byte) : Prog Unit := .get fun s =>
  (vput (s.chUnit ch) (ringEntry s ring ch idx + off) d).bind fun r =>
    match r with
    | .ok _ => .skip
    | .error f => chanFault ch { f with reason := 0x17 }

/-- STATE of a send descriptor written. -/
def putTxState (ch : Nat) (t : TxStream) (st : Nat) : Prog Unit :=
  match t.idx with
  | some i => putDesc .FRY_CH_TXRING ch i 56 (leBytes 8 st)
  | none => .skip

/-- A descriptor's completion signal. -/
def fdSignal (d : BitVec 512) : Prog Unit := Prog.when (fdSigen d) (tokenAdd (fdTcl d) (fdTok d) 1)

/-! ### Sources (R288, R289, R297) -/

/-- The header of a record (R288). -/
def recHeader (seg nsec tid : Nat) (raw : Bool) : List Byte :=
  leBytes 8 (seg % 2 ^ 32 + nsec % 64 * 2 ^ 32 + tid % 16 * 2 ^ 38 + (if raw then 2 ^ 42 else 0))

/-- A block of a compressed page read as stored: its tag and its sectors (R208); a block that is poisoned or
whose tag is bad cannot be sent. -/
def storedBlock (u : Unit') (va : Nat) : Prog (Except Flt (Nat × List Byte)) :=
  (translate u .read va).bindE fun t =>
    if !t.cmp || decide (t.dest ≠ .stack) then .ret (.error (mkFlt 2 0x14 .read false va t.pa))
    else (secRead (t.pa / 64)).bind fun s0 =>
      let nsec := bits 5 0 s0.mta
      let raw := s0.mta.testBit 10
      let bad := nsec == 0 || (29 ≤ nsec && nsec ≤ 31) || nsec > 32 || (nsec == 32 && !raw) || (nsec < 32 && raw)
      if s0.poison || bad then .ret (.error (mkFlt 3 0x20 .read false va t.pa))
      else (Prog.mapM ((List.range nsec).drop 1) fun i => secRead (t.pa / 64 + i)).bind fun rest =>
        if rest.any (·.poison) then .ret (.error (mkFlt 3 0x20 .read false va t.pa))
        else .ret (.ok (s0.mta, s0.data ++ rest.flatMap (·.data)))

/-- The table of a TID in the crossing table directory. -/
def dirTable (u : Unit') (tid : Nat) : Prog (Except Flt (List Byte)) := .get fun s =>
  vget u (bits 47 0 (s.rd .FRY_CTD_BASE).toNat / 128 * 128 + 128 * tid) 128

/-- The record of a segment, with a TABLE record before it where its TID is new to the stream (R289). -/
def segRecord (u : Unit') (base seg : Nat) (tids : List Nat) : Prog (Except Flt (List Byte × List Nat)) :=
  (storedBlock u ((base + 2048 * seg) % 2 ^ 48)).bindE fun b =>
    let nsec := bits 5 0 b.1
    let tid := bits 9 6 b.1
    let raw := b.1.testBit 10
    if raw then .ret (.ok (recHeader seg nsec 0 true ++ b.2, tids))
    else if tid = 15 || tids.contains tid then .ret (.ok (recHeader seg nsec tid false ++ b.2, tids))
    else (dirTable u tid).bindE fun t =>
      .ret (.ok (recHeader 0xFFFFFFFF 2 tid false ++ t ++ recHeader seg nsec tid false ++ b.2, tids ++ [tid]))

/-- A coded body decoded with a table, or with the fixed code of one-byte words for TID 0xF (log 28). -/
def decodeBody (tid : Nat) (table : Option (BitVec 1024)) (d : List Byte) : Option (List Byte) :=
  if tid = 15 then decodeStream none 1 d
  else match table with
    | some t => decodeStream (some ⟨tid, t⟩) 1 d
    | none => none

/-- A RAW record of a segment, read through the sender's table decoder (R291). -/
def rawRecord (u : Unit') (base seg : Nat) : Prog (Except Flt (List Byte)) :=
  (storedBlock u ((base + 2048 * seg) % 2 ^ 48)).bindE fun b =>
    let tid := bits 9 6 b.1
    if b.1.testBit 10 then .ret (.ok (recHeader seg 32 0 true ++ b.2))
    else (if tid = 15 then Prog.ret (.ok []) else dirTable u tid).bindE fun t =>
      match decodeBody tid (some (BitVec.ofNat 1024 (leNat t))) b.2 with
      | some d => .ret (.ok (recHeader seg 32 0 true ++ d))
      | none => .ret (.error (mkFlt 3 0x20 .read false (base + 2048 * seg) 0))

/-- Bytes read as they are stored (R335). -/
def rawBytes (u : Unit') (va n : Nat) : Prog (Except Flt (List Byte)) :=
  (Prog.mapE (piecesOf 2048 va n) fun p =>
    (translate u .read p.1).bindE fun t =>
      if t.dest ≠ .stack then .ret (.error (mkFlt 2 0x13 .read false p.1 t.pa))
      else (physRead t.pa p.2).bind fun d =>
        if d.any (·.2) then .ret (.error (mkFlt 3 0x20 .read false p.1 t.pa)) else .ret (.ok (d.map (·.1)))).bindE fun l =>
  .ret (.ok l.flatten)

/-! ### The crossing map (R299) -/

/-- A map record. -/
structure MapRec where
  sseg  : Nat
  cnt   : Nat
  owner : Nat
  lu    : Nat
  entry : Nat
  eseg  : Nat
deriving DecidableEq, Repr

/-- The record that 32 bytes hold. -/
def mapRecOf (d : List Byte) : MapRec :=
  let x := leNat d
  ⟨bits 31 0 x, bits 63 32 x, bits 78 64 x, bits 81 80 x, bits 111 96 x, bits 159 128 x⟩

/-- The map of a channel's binding. -/
def readMap (u : Unit') : Prog (Except Flt (List MapRec)) := .get fun s =>
  (vget u (bits 47 0 (s.rd .FRY_XMAP_BASE).toNat / 32 * 32) (32 * s.rdF .FRY_XMAP_COUNT Fld.FRY_XMAP_COUNT_COUNT)).bindE fun d =>
    .ret (.ok ((chunks 32 d.length d).map mapRecOf))

/-- Whether a record covers a segment. -/
def MapRec.covers (r : MapRec) (seg : Nat) : Bool := decide (r.sseg ≤ seg) && decide (seg < r.sseg + r.cnt)

/-- The record that covers a segment. -/
def mapFind (l : List MapRec) (seg : Nat) : Option MapRec := l.find? fun r => r.covers seg

/-- The segments of an entry, by its map records. -/
def entrySegs (l : List MapRec) (r : MapRec) : List Nat :=
  (l.filter fun x => x.owner == r.owner && x.lu == r.lu && x.entry == r.entry).flatMap fun x =>
    (List.range x.cnt).map (x.sseg + ·)

/-- Segments that the map covers. -/
def mapSegs (l : List MapRec) : Nat := (l.map fun r => r.sseg + r.cnt).foldl max 0

/-! ### The JOIN transfer (R297; its records' order is the model's, log 29) -/

/-- 2 KiB pieces of one bfloat16 array of a segment. -/
def joinPieces (fmt : Nat) : Nat := (2 * segVals fmt + 2047) / 2048

/-- The job's difference format, from the first OUTER entry of the binding here. -/
def State.jobFmt (s : State) (b : Nat) : Nat :=
  let l := ((List.range 4).filter (s.hasUnit b)).flatMap fun u =>
    (List.range (s.rdF .LND_LTAB_COUNT Fld.LND_LTAB_COUNT_COUNT u)).filterMap fun i =>
      match ((readEntry u i).run s).1 with
      | .ok x => if x.outer then
          match ((readXHdr u x.cbuf).run s).1 with
          | .ok h => some h.fmt
          | .error _ => none
        else none
      | .error _ => none
  l.headD 8

/-- A piece of the mooring or the outer momentum of an entry of this device, read through its Landing Unit:
piece `n` of a segment of the entry, zeros beyond the entry's count. -/
def joinPiece (u entry seg n : Nat) : LuProg (List Byte) := .get fun s =>
  (readEntry u entry).bindE fun x => (readXHdr u x.cbuf).bindE fun h =>
    let p := joinPieces h.fmt
    let lo := seg * segVals h.fmt + 1024 * (n % p)
    let hi := min (min (lo + 1024) ((seg + 1) * segVals h.fmt)) x.cnt
    let base := x.half (mptr s u) + (if n / p = 0 then 0 else up2k (2 * x.cnt))
    (luElems u base 2 lo (hi - lo) false).bindE fun l =>
      .ret (.ok ((l.flatMap (leBytes 2) ++ List.replicate 2048 0).take 2048))

/-- The records of a segment in a JOIN transfer: the mooring's pieces, then the outer momentum's. Bytes of another
device's memory are free (log 29). -/
def joinRecords (ch : Nat) (map : List MapRec) (fmt seg : Nat) : Prog (Except Flt (List Byte)) := .get fun s =>
  match mapFind map seg with
  | none => .ret (.ok [])
  | some r =>
    (Prog.mapE (List.range (2 * joinPieces fmt)) fun n =>
      (if r.owner = s.ownLog && s.hasUnit (s.chBind ch) r.lu then
        (joinPiece r.lu r.entry (r.eseg + (seg - r.sseg)) n).bind fun x =>
          match x with
          | .ok d => Prog.ret (.ok d)
          | .error (.flt f _ _) => .ret (.error f)
          | .error _ => .ret (.ok (List.replicate 2048 0))
      else (freeBytes 256).bind fun d => .ret (.ok d)).bindE fun d =>
        .ret (.ok (recHeader seg 32 0 true ++ d))).bindE fun l => .ret (.ok l.flatten)

/-! ### Cutting a stream into frames (R279, R285) -/

/-- Payload bytes of a full data frame. -/
def fullFrame : Nat := 8896

/-- Segments or bytes of a stream. -/
def TxStream.len (t : TxStream) : Nat := fdLen t.desc

/-- The cursor read on until it holds `need` bytes or the source ends. -/
def fillFrom (ch : Nat) (t : TxStream) (map : List MapRec) (fmt : Nat) : Nat → Nat → Cursor → Prog (Except Flt Cursor)
  | 0, _, c => .ret (.ok c)
  | fuel + 1, need, c => .get fun s =>
    if need ≤ c.left.length || t.len ≤ c.seg then .ret (.ok c)
    else match t.src with
      | .segs => (segRecord (s.chUnit ch) (fdAddr t.desc) c.seg c.tids).bindE fun r =>
          fillFrom ch t map fmt fuel need ⟨c.seg + 1, c.left ++ r.1, r.2⟩
      | .join => (joinRecords ch map fmt c.seg).bindE fun d =>
          fillFrom ch t map fmt fuel need ⟨c.seg + 1, c.left ++ d, c.tids⟩
      | .bytes =>
        let n := min (need - c.left.length) (t.len - c.seg)
        (rawBytes (s.chUnit ch) ((fdAddr t.desc + c.seg) % 2 ^ 48) n).bindE fun d =>
          .ret (.ok ⟨c.seg + n, c.left ++ d, c.tids⟩)

/-- The data payloads of a group from a place in the source, and the place after it; a further group carries
RAW records (R291). A stream without bytes is one empty frame. -/
def groupData (ch : Nat) (t : TxStream) (raws : List Nat) (start : Cursor) : Prog (Except Flt (List (List Byte) × Cursor)) := .get fun s =>
  let cut (d : List Byte) : List (List Byte) := if d.isEmpty then [[]] else chunks fullFrame d.length d
  if !raws.isEmpty then
    (Prog.mapE raws fun g => rawRecord (s.chUnit ch) (fdAddr t.desc) g).bindE fun l => .ret (.ok (cut l.flatten, start))
  else
    (if t.src = .join then readMap (s.chUnit ch) else Prog.ret (.ok [])).bindE fun map =>
    let need := t.k * fullFrame
    (fillFrom ch t map (s.jobFmt (s.chBind ch)) (need + 1) need start).bindE fun c =>
      .ret (.ok (cut (c.left.take need), { c with left := c.left.drop need }))

/-- The matrix of the erasure code (R285). -/
def codeC (j d : Nat) : Nat := gfInv (j ^^^ (64 + d))

/-- Bytes scaled by a field element. -/
def gfScale (c : Nat) (d : List Byte) : List Byte := d.map fun b => BitVec.ofNat 8 (gfMul c b.toNat)

/-- Parity payload `j` of a group's data payloads (R285). -/
def parityOf (data : List (List Byte)) (j : Nat) : List Byte :=
  let n := (data.map (·.length)).foldl max 0
  (data.zipIdx).foldl (fun a d => xorBytes a (gfScale (codeC j d.2) (padTo n d.1))) (List.replicate n 0)

/-- The frames of a group: data, then parity. -/
def groupFrames (stream group m : Nat) (lastg : Bool) (seq : BitVec 32) (data : List (List Byte)) : List (FrameDesc × List Byte) :=
  let k := data.length
  let last := (data.getLastD []).length
  let frame (typ i dlen : Nat) (p : List Byte) : FrameDesc × List Byte :=
    (⟨typ, lastg, false, stream, group, i, k, m, dlen, seq + BitVec.ofNat 32 i⟩, p)
  data.zipIdx.map (fun d => frame 1 d.2 d.1.length d.1) ++
  (List.range m).map fun j => frame 2 (k + j) last (parityOf data j)

/-! ### Sending (R278, R287) -/

/-- A change to an outbound stream. -/
def modTx (ch num : Nat) (f : TxStream → TxStream) : Prog Unit :=
  modCh ch fun k => { k with tx := k.tx.map fun t => if t.num = num then f t else t }

/-- Frames kept in a channel's retention log. -/
def Chan.keptCount (k : Chan) : Nat := (k.tx.map fun t => t.kept.length).sum

/-- The frames of a stream's next group, the place in the source after it, and whether it is the last: RAW segments asked
for make a further group once the last has been formed (R291). -/
def newGroup (ch : Nat) (t : TxStream) : Prog (Except Flt (List Unsent × Cursor × Bool)) := .get fun s =>
  let raws := if t.ended then t.raws else []
  (groupData ch t raws t.cur).bindE fun r =>
    let lastg := t.ended || (decide (t.len ≤ r.2.seg) && r.2.left.isEmpty)
    .ret (.ok ((groupFrames t.num t.group t.m lastg (s.ch ch).seq r.1).map fun f => ⟨f.1, f.2, t.cur, raws⟩, r.2, lastg))

/-- UDP payload bytes of frames not yet sent. -/
def unsentBytes (l : List Unsent) : Nat := (l.map fun u => 64 + u.payload.length).sum

/-- A frame draws tokens equal to its UDP payload length (R278). -/
def drawTokens (ch n : Nat) : Prog Unit := modCh ch fun k => { k with level := k.level - 8000 * (64 + n) }

/-- Frames of the group in hand signed one after another, sent and kept, as far as the counter lets them; after the
stream's last, DONE (R278, R280, R284). -/
def sendRest (ch num : Nat) : Nat → Prog Unit
  | 0 => .skip
  | fuel + 1 => .get fun s =>
    match (s.ch ch).tx.find? fun t => t.num == num with
    | none => .skip
    | some t =>
      match t.rest with
      | [] => Prog.when t.ended ((sendCtl ch 9 num 0 (leBytes 8 t.frames ++ leBytes 8 t.bytes ++ leBytes 4 (t.group - 1))).seq
          (Prog.when (decide (t.src = .join)) (sendCtl ch 12 0 0 [])))
      | u :: r => (sendFrame ch (s.streamKey ch num t.order) u.desc u.payload).bind fun x =>
          match x with
          | .error _ => .skip
          | .ok h => Prog.all [
              modTx ch num fun t => { t with rest := r, kept := t.kept ++ [⟨h, u.start, u.raws⟩] },
              drawTokens ch u.payload.length, sendRest ch num fuel]

/-- A group of a stream is formed, unless one is in hand, and sent (R278). -/
def sendGroup (ch : Nat) (t : TxStream) : Prog Unit :=
  if !t.rest.isEmpty then sendRest ch t.num (t.rest.length + 1) else
  (newGroup ch t).bind fun r =>
    match r with
    | .error f => (chanFault ch f).seq (putTxState ch t 2)
    | .ok (l, next, lastg) =>
      let data := l.filter fun u => u.desc.typ == 1
      Prog.all [
        modCh ch fun k => { k with seq := k.seq + BitVec.ofNat 32 l.length },
        modTx ch t.num fun t => { t with
          group := t.group + 1
          cur := next
          raws := if t.ended then [] else t.raws
          ended := lastg
          frames := t.frames + data.length
          bytes := t.bytes + (data.map fun u => u.payload.length).sum
          rest := l },
        sendRest ch t.num (l.length + 1)]

/-- The stream and the entry of the retention log that a request names, and the frame's payload formed again from the
stream's source (R287). -/
def askFrame (ch : Nat) (a : Ask) : Prog (Option (TxStream × Kept × Except Flt (List Byte))) := .get fun s =>
  match (s.ch ch).tx.find? fun t => t.num == a.stream with
  | none => .ret none
  | some t =>
    match t.kept.find? fun k => fhGroup k.hdr == a.group && fhIdx k.hdr == a.idx with
    | none => .ret none
    | some k => (groupData ch t k.raws k.start).bind fun r => .ret (some (t, k, match r with
      | .error f => .error f
      | .ok (data, _) => .ok (if a.idx < data.length then data.getD a.idx [] else parityOf data (a.idx - data.length))))

/-- A frame asked for is sent again, as kept or signed afresh (R283, R287, R294). -/
def resendFrame (ch : Nat) (a : Ask) : Prog Unit := (askFrame ch a).bind fun x =>
  match x with
  | none => .skip
  | some (t, _, .error f) => (chanFault ch f).seq (putTxState ch t 2)
  | some (t, k, .ok p) =>
    let sent := (drawTokens ch p.length).seq (bumpF .FRY_CH_RESENDCNT Fld.FRY_CH_RESENDCNT_COUNT 1 ch)
    if a.fresh then .get fun s =>
      (sendFrame ch ((s.ch ch).new.map fun k => (true, k))
        ⟨fhType k.hdr, fhLastg k.hdr, true, a.stream, a.group, a.idx, fhK k.hdr, fhM k.hdr, fhDlen k.hdr, fhSeqNo k.hdr⟩ p).bind fun x =>
      match x with
      | .ok h => sent.seq (modTx ch t.num fun t => { t with kept := t.kept.map fun y => if y = k then { y with hdr := h } else y })
      | .error .wait => modCh ch fun x => { x with asks := x.asks ++ [a] }
      | .error _ => .skip
    else sent.seq (transmit ch (BitVec.ofNat 512 (putBits 8 8 k.hdr.toNat 1)) p)

/-! ### Turns and pacing (R278, R281) -/

/-- Whether a channel may send data now: RUN or REMEASURE on an UP port (R295), and no frame waits for its counter block. -/
def State.maySend (s : State) (ch : Nat) : Bool :=
  s.fryOn && s.outerUp (s.chPort ch) && (s.chState ch == 2 || s.chState ch == 3) && !(s.ch ch).ivwait

/-- The stream that a channel has frames of to send. -/
def Chan.sending (k : Chan) : Option TxStream := k.tx.find? fun t => !t.ended || !t.raws.isEmpty || !t.rest.isEmpty

/-- The bytes that a channel would draw in a turn: of up to 64 frames asked for again, else of one group; none where it
has nothing to send. A group that cannot be formed draws nothing. -/
def State.turnBytes (s : State) (ch : Nat) : Option Nat :=
  let k := s.ch ch
  if !k.asks.isEmpty then some <| (((k.asks.take 64).map fun a =>
    match ((askFrame ch a).run s).1 with
    | some (_, _, .ok p) => 64 + p.length
    | _ => 0)).sum
  else match k.sending with
    | none => none
    | some t =>
      if !t.rest.isEmpty then some (unsentBytes t.rest)
      else match ((newGroup ch t).run s).1 with
        | .ok r => some (unsentBytes r.1)
        | .error _ => some 0

/-- A channel whose new group would take its unacknowledged frames past 65,536 (R287). -/
def State.stalled (s : State) (ch : Nat) : Bool :=
  let k := s.ch ch
  k.asks.isEmpty && (match k.sending with
    | some t => t.rest.isEmpty && decide (65536 < k.keptCount + (match ((newGroup ch t).run s).1 with
      | .ok r => r.1.length
      | .error _ => 0))
    | none => false)

/-- A channel that does not give up its turn: it has something to send, and its bucket holds the tokens (R278). -/
def State.takesTurn (s : State) (ch : Nat) : Bool :=
  s.maySend ch && !s.stalled ch && (match s.turnBytes ch with
    | some n => decide (8000 * n ≤ (s.ch ch).level)
    | none => false)

/-- The channels of a port in the order of its turns: after the one served last (R278). -/
def State.portTurns (s : State) (x : Nat) : List Nat :=
  let l := (List.range 64).filter fun c => s.chPort c == x
  match l.find? fun c => (s.ch c).turned with
  | none => l
  | some p => (l.filter fun c => decide (p < c)) ++ l.filter fun c => decide (c ≤ p)

/-- The channel whose turn it is at a port. -/
def State.portTurn (s : State) (x : Nat) : Option Nat := (s.portTurns x).find? s.takesTurn

/-- What a pacing bucket holds: 573,440 B, in thousandths of a bit. -/
def bucketSize : Nat := 573440 * 8000

/-- What comes into a channel's bucket in a time in cycles of CD81: RATE Mb/s, or, while the port's check values come from
the byte-serial engine, the channel's part of 2 Gb/s by its RATE (R278, R281). -/
def State.refill (s : State) (ch since : Nat) : Nat :=
  let x := s.chPort ch
  let rate (c : Nat) : Nat := s.rdF .FRY_CH_RATE Fld.FRY_CH_RATE_MBPS c
  let total := (((List.range 64).filter fun c => s.chPort c == x && s.chState c != 0).map rate).sum
  if s.rdF .FRY_PSTATUS Fld.FRY_PSTATUS_GMACFB x = 1 && 2000 < total then 2000 * rate ch * since / total else rate ch * since

/-- The buckets of a port's channels fill for a time. -/
def fillBuckets (x since : Nat) : Prog Unit := .get fun s =>
  Prog.each ((List.range 64).filter fun c => s.chPort c == x) fun c =>
    modCh c fun k => { k with level := min bucketSize (k.level + s.refill c since) }

/-- A channel has its port's turn (R278). -/
def takeTurn (ch : Nat) : Prog Unit := .get fun s =>
  Prog.each ((List.range 64).filter fun c => s.chPort c == s.chPort ch) fun c => modCh c fun k => { k with turned := c == ch }

/-- FRAME_GROUP_SEND: `since` cycles of CD81 after its port's last, a channel has its turn: if the round robin has come to
it, it sends up to 64 frames again, or one frame group (R278). -/
def execFrameGroupSend (ch : Fin 64) (since : BitVec 64) (s : State) : Host.Outcome State Fault Refusal :=
  (let x := s.chPort ch
   (fillBuckets x since.toNat).seq <| .get fun s =>
    if s.portTurn x ≠ some (ch : Nat) then
      Prog.when (s.maySend ch && s.stalled ch) (setF .FRY_CH_ERR Fld.FRY_CH_ERR_WINSTALL ch)
    else (takeTurn ch).seq <|
      let asks := (s.ch ch).asks
      if !asks.isEmpty then
        (modCh ch fun k => { k with asks := k.asks.drop 64 }).seq (Prog.each (asks.take 64) (resendFrame ch))
      else match (s.ch ch).sending with
        | some t => sendGroup ch t
        | none => .skip).next s

/-! ### The rings (R229, R296) -/

/-- A tail written by a posted write: refused where R229 would refuse it; else how many descriptors it adds. -/
def postTail (s : State) (ring tailReg : RegName) (ch head tail : Nat) : Option Nat :=
  let n := ringLen s ring ch
  let dist (t : Nat) : Nat := (t + n - head % n) % n
  if n ≤ tail then none
  else
    let old := dist (bits 15 0 (s.rd tailReg ch).toNat % n)
    if dist tail < old then none else some (dist tail - old)

/-- TXTAIL (R296). -/
def txtailDo (ch : Fin 64) (val : Word) : Prog Unit := posted (.chan ch) <| Prog.get fun s =>
  match postTail s .FRY_CH_TXRING .FRY_CH_TXTAIL ch (s.ch ch).txhead (getF Fld.FRY_CH_TXTAIL_TAIL val) with
  | none => setF .FRY_CH_ERR Fld.FRY_CH_ERR_BADTAIL ch
  | some n => (wr .FRY_CH_TXTAIL val ch).seq (modCh ch fun k => { k with posted := k.posted + n })

/-- TXTAIL. -/
def execTxtail (ch : Fin 64) (val : BitVec 64) (s : State) : Host.Outcome State Fault Refusal := (txtailDo ch val).next s

/-- Held streams are released: RESUME goes out for each that may now come (R291, R296). -/
def releaseHeld (ch : Nat) (free : Nat → Bool) : Prog Unit := .get fun s =>
  Prog.each ((s.ch ch).held.filter free) fun j =>
    (sendCtl ch 8 j 0 []).seq (modCh ch fun k => { k with held := k.held.filter (· != j) })

/-- RXTAIL: receive descriptors are posted, and held streams may come (R296). -/
def rxtailDo (ch : Fin 64) (val : Word) : Prog Unit := posted (.chan ch) <| Prog.get fun s =>
  match postTail s .FRY_CH_RXRING .FRY_CH_RXTAIL ch (s.ch ch).rxhead (getF Fld.FRY_CH_RXTAIL_TAIL val) with
  | none => setF .FRY_CH_ERR Fld.FRY_CH_ERR_BADTAIL ch
  | some n => (wr .FRY_CH_RXTAIL val ch).seq (Prog.when (decide (0 < n) && s.chKind ch != 1) (releaseHeld ch fun _ => true))

/-- RXTAIL. -/
def execRxtail (ch : Fin 64) (val : BitVec 64) (s : State) : Host.Outcome State Fault Refusal := (rxtailDo ch val).next s

/-- *k* of a channel's groups (R285). -/
def State.chK (s : State) (ch : Nat) : Nat := max 1 (s.rdF .FRY_CH_CFG Fld.FRY_CH_CFG_K ch)
/-- *m* of a channel's groups (R285). -/
def State.chM (s : State) (ch : Nat) : Nat := min (min (s.rdF .FRY_CH_CFG Fld.FRY_CH_CFG_M ch) 32) (64 - s.chK ch)

/-- An outbound stream before its first frame. -/
def TxStream.start (idx : Option Nat) (desc : BitVec 512) (src : Source) (num order k m : Nat) : TxStream :=
  { idx, desc, src, num, order, k, m, group := 0, cur := ⟨0, [], []⟩, ended := false, frames := 0, bytes := 0, raws := [], rest := [], kept := [] }

/-- STREAM_START: a channel starts the next posted stream after the previous one (R277, R296). A crossing that the
channel has sent already is not sent again in the steps a rewind repeats: its descriptor ends as the first did (R31). -/
def execStreamStart (ch : Fin 64) (s : State) : Host.Outcome State Fault Refusal :=
  (let k := s.ch ch
   let tail := s.rdF .FRY_CH_TXTAIL Fld.FRY_CH_TXTAIL_TAIL ch
   if !s.fryOn || s.chState ch = 0 || s.chKind ch = 0 || s.chKind ch = 2 || k.txhead = tail ||
      k.tx.any (fun t => !t.ended) then Prog.skip
   else (vget (s.chUnit ch) (ringEntry s .FRY_CH_TXRING ch k.txhead) 64).bind fun r =>
    match r with
    | .error f => chanFault ch { f with reason := 0x17 }
    | .ok d =>
      let desc := BitVec.ofNat 512 (leNat d)
      let num := bits 31 0 desc.toNat
      let src : Source := if s.chKind ch = 1 then .segs else .bytes
      let t := TxStream.start (some k.txhead) desc src num k.started (s.chK ch) (s.chM ch)
      let step (l : List TxStream) : Prog Unit := modCh ch fun k => { k with
        txhead := (k.txhead + 1) % ringLen s .FRY_CH_TXRING ch, started := k.started + 1, tx := k.tx ++ l }
      if s.chKind ch = 1 && k.tx.any (fun x => x.num == num) then .skip
      else match (if s.chKind ch = 1 then k.ended.find? fun e => e.1 == num else none) with
        | some e => Prog.all [step [], putTxState ch t e.2, Prog.when (e.2 == 1) (fdSignal desc)]
        | none => (step [t]).seq (wrF .FRY_CH_STATUS Fld.FRY_CH_STATUS_STREAM num ch)).next s

/-- IVWAIT_RELEASE: once the reservation is acknowledged, a waiting channel signs again, control frames
first (R284). -/
def execIvwaitRelease (ch : Fin 64) (s : State) : Host.Outcome State Fault Refusal :=
  (let k := s.ch ch
   let ok (x : Option FKey) : Bool := match x with
    | some f => s.hasBlock (s.chChan ch) f.epoch (f.ctr / ctrBlock)
    | none => true
   if !k.ivwait || !ok k.new || !ok k.old then Prog.skip
   else (modCh ch fun x => { x with ivwait := false, ctl := [] }).seq
    (Prog.each k.ctl fun c => sendCtl ch c.typ c.stream c.group c.body)).next s

/-! ### Keys (R293, R362) -/

/-- A channel takes or leaves a berth: HOLDERS and STATE follow (R362). -/
def holdBerth (b : Nat) (take : Bool) : Prog Unit := .get fun s =>
  let n := s.rdF .SEC_BERTH_META Fld.SEC_BERTH_META_HOLDERS b
  let n' := if take then n + 1 else n - 1
  (wrF .SEC_BERTH_META Fld.SEC_BERTH_META_HOLDERS n' b).seq
    (Prog.when (decide (s.rdF .SEC_BERTH_META Fld.SEC_BERTH_META_STATE b ≠ 0))
      (wrF .SEC_BERTH_META Fld.SEC_BERTH_META_STATE (if n' = 0 then 1 else 2) b))

/-- The BERTH record of a berth: USE, KSN and the channels that hold it (R362, R382). -/
def journalBerth (b : Nat) : Prog Unit := .get fun s =>
  let holders := (List.range 64).filter fun c =>
    ((s.ch c).new.map (·.berth)) == some b || ((s.ch c).old.map (·.berth)) == some b
  jnlHand ⟨3, b, false, leBytes 4 (s.rdF .SEC_BERTH_META Fld.SEC_BERTH_META_USE b) ++
    leBytes 4 (s.rdF .SEC_BERTH_META Fld.SEC_BERTH_META_KSN b) ++ leBytes 8 ((holders.map fun c => 2 ^ c).sum), false⟩

/-- The old key of a channel retires (R293). -/
def retireOld (ch : Nat) : Prog Unit := .get fun s =>
  match (s.ch ch).old with
  | none => .skip
  | some o => Prog.all [modCh ch fun k => { k with old := none }, wrF .FRY_CH_STATUS Fld.FRY_CH_STATUS_OLDEP 0 ch,
      holdBerth o.berth false, journalBerth o.berth]

/-- FRY_CH_KEY: a new berth and epoch from a crossing on (R293, R362); a berth that may not serve drops the
change, and so does an epoch the channel holds already (log 30), or one that the failed device used with this CHAN (R339). The old berth retires at once where the counter is
past the crossing already, and a channel that a spent counter stopped goes on (R284). -/
def fryChKeyDo (ch : Fin 64) (val : Word) : Prog Unit := posted (.chan ch) <| Prog.get fun s =>
  let b := getF Fld.FRY_CH_KEY_BERTH val
  let e := getF Fld.FRY_CH_KEY_EPOCH val
  let k := s.ch ch
  let held (x : Option FKey) : Bool := (x.map (·.epoch)) == some e
  if s.rdF .SEC_BERTH_META Fld.SEC_BERTH_META_STATE b = 0 || s.rdF .SEC_BERTH_META Fld.SEC_BERTH_META_USE b ≠ 1 then
    setF .SEC_ERR Fld.SEC_ERR_BERTHUSE
  else if held k.new || held k.old || s.fw.dead.contains (s.chChan ch, e) then .skip
  else
    let blk := match s.reservedBlock (s.chChan ch) e with
      | some h => h + 1
      | none => 0
    Prog.all [
      wr .FRY_CH_KEY val ch, retireOld ch,
      modCh ch fun x => { x with
        old := x.new
        new := some ⟨b, e, getF Fld.FRY_CH_KEY_FROM val, x.posted, blk * ctrBlock⟩
        spent := false },
      wrF .FRY_CH_STATUS Fld.FRY_CH_STATUS_OLDEP (if k.new.isSome then 1 else 0) ch,
      wrF .FRY_CH_STATUS Fld.FRY_CH_STATUS_EPOCH e ch, wr .FRY_CH_CTR (BitVec.ofNat 64 (blk * ctrBlock)) ch,
      holdBerth b true, journalBerth b, reserveBlock (s.chChan ch) e blk,
      Prog.when (s.chKind ch == 1 && decide (getF Fld.FRY_CH_KEY_FROM val + 2 ≤ s.chCross ch)) (retireOld ch),
      Prog.when (k.spent && s.chState ch == 7) (remeasure ch)]

/-- FRY_CH_KEY. -/
def execFryChKey (ch : Fin 64) (val : BitVec 64) (s : State) : Host.Outcome State Fault Refusal := (fryChKeyDo ch val).next s

/-- An intake or store channel's old berth retires when every stream under it is complete (R294). -/
def retireStreams (ch : Nat) : Prog Unit := .get fun s =>
  match (s.ch ch).new, (s.ch ch).old with
  | some n, some o => Prog.when (s.chKind ch != 1 && decide (n.since ≤ (s.ch ch).started) &&
      (s.ch ch).tx.all (fun t => decide (n.since ≤ t.order)) && (s.ch ch).rx.all (fun r => r.epoch != o.epoch)) (retireOld ch)
  | _, _ => .skip

/-! ### Commands of a channel (R295) -/

/-- CH_STOP: a channel stops at the next frame boundary. -/
def chStopDo (ch : Nat) : Prog Unit := .get fun s =>
  let st := s.chState ch
  Prog.when (st == 2 || st == 3 || st == 4) (setChState ch 7)

/-- CH_STOP. -/
def execChStop (ch : Fin 64) (s : State) : Host.Outcome State Fault Refusal := (chStopDo ch).next s

/-- JOIN goes out again while the channel is JOINING and no JOINACK has come (R297). -/
def joinSend (ch : Nat) : Prog Unit := .get fun s =>
  Prog.when (s.chState ch == 8 && (s.ch ch).joinM.isNone) (sendCtl ch 10 0 0 [])

/-- CH_JOIN: from DISABLED only (R295, R298). -/
def chJoinDo (ch : Nat) : Prog Unit := .get fun s =>
  if s.chState ch = 0 then
    Prog.all [setChState ch 8, modCh ch fun k => { k with joinM := none, joinDone := false, rx := [], replies := [] }, joinSend ch]
  else setF .FRY_CH_ERR Fld.FRY_CH_ERR_CMDIGN ch

/-- CH_JOIN. -/
def execChJoin (ch : Fin 64) (s : State) : Host.Outcome State Fault Refusal := (chJoinDo ch).next s

/-- JOIN_REPEAT (R297). -/
def execJoinRepeat (ch : Fin 64) (s : State) : Host.Outcome State Fault Refusal := (joinSend ch).next s

/-- PEERDEAD_EXPIRY: no verified frame for PEERDEAD (R295). -/
def execPeerdeadExpiry (ch : Fin 64) (s : State) : Host.Outcome State Fault Refusal :=
  (Prog.when (s.chState ch != 0) (setChState ch 5)).next s

/-- ECHO_INTERVAL: an ECHO goes out in the states that send them (R295). -/
def execEchoInterval (ch : Fin 64) (s : State) : Host.Outcome State Fault Refusal :=
  (Prog.when (decide (1 ≤ s.chState ch) && decide (s.chState ch ≤ 5)) (Prog.seq
    (modCh ch fun k => { k with echo := k.echo + 1 })
    (sendCtl ch 5 0 0 (leBytes 4 ((s.ch ch).echo + 1))))).next s

/-- A channel is disabled: its streams end ABORTED and its berths are released (R295, R362). -/
def chanOff (ch : Nat) : Prog Unit := .get fun s => Prog.all [
  Prog.each (s.ch ch).tx fun t => putTxState ch t 3,
  Prog.when (s.chKind ch != 1) (Prog.each (s.ch ch).rx fun r => putDesc .FRY_CH_RXRING ch r.idx 56 (leBytes 8 3)),
  (match (s.ch ch).new with
    | some k => (modCh ch fun x => { x with new := none }).seq ((holdBerth k.berth false).seq (journalBerth k.berth))
    | none => .skip),
  retireOld ch,
  modCh ch fun k => { k with tx := [], rx := [], asks := [], held := [], ctl := [], replies := [], ivwait := false, donor := none, joinM := none },
  setChState ch 0]

/-- EN of a channel as applied takes effect (R295): set, a disabled channel measures; cleared, it is
disabled. -/
def chanEnable (ch : Nat) : Prog Unit := .get fun s =>
  if s.rdF .FRY_CH_CFG Fld.FRY_CH_CFG_EN ch = 1 then
    Prog.when (s.chState ch == 0) ((setChState ch 1).seq (modCh ch fun k => { k with replies := [], mark := k.echo }))
  else Prog.when (s.chState ch != 0) (chanOff ch)

/-! ### Ports and engines (R274, R366) -/

/-- OUTER_PORT_LINK_DOWN. -/
def outerDown (x : Nat) : Prog Unit :=
  (setF .FRY_PERR Fld.FRY_PERR_LINKDOWN x).seq (wrF .FRY_PSTATUS Fld.FRY_PSTATUS_STATE 0 x)

/-- OUTER_PORT_LINK_DOWN. -/
def execOuterPortLinkDown (x : Fin 2) (s : State) : Host.Outcome State Fault Refusal :=
  (Prog.when (decide (s.rdF .FRY_PSTATUS Fld.FRY_PSTATUS_STATE x ≠ 0)) (outerDown x)).next s

/-- OUTER_PORT_TRAINED: an enabled port comes UP (R274). -/
def execOuterPortTrained (x : Fin 2) (s : State) : Host.Outcome State Fault Refusal :=
  (beginFull.seq <| Prog.get fun s =>
    Prog.when (s.rdF .FRY_PCFG Fld.FRY_PCFG_EN x == 1 && !s.stopped (79 + x)) (wrF .FRY_PSTATUS Fld.FRY_PSTATUS_STATE 2 x)).next s

/-- GMAC_SELF_TEST: an engine that fails its known-answer test stays failed, and its port takes the fallback
(R281, R366). -/
def execGmacSelfTest (x : Fin 2) (ok : Bool) (s : State) : Host.Outcome State Fault Refusal :=
  (beginFull.seq <|
   let v := s.rd .SEC_GMAC_STATUS
   if ok then wr .SEC_GMAC_STATUS (v ||| BitVec.ofNat 64 (2 ^ (2 + (x : Nat))))
   else Prog.all [wr .SEC_GMAC_STATUS (v ||| BitVec.ofNat 64 (2 ^ (x : Nat))),
     wrF .FRY_PSTATUS Fld.FRY_PSTATUS_GMACFB 1 x, setF .FRY_ERR Fld.FRY_ERR_GMACFB]).next s

end Sys2Proof.Machine
end

