-- ==== Sys2Proof/Machine/FerryRx.lean ====
section
/-!
DEFINITION. Sys2Proof/Machine/FerryRx.lean: arriving frames (R276, R280, R282), the receiver's groups (R285 to
R287), crossing streams at their receiver and at their owner (R288, R290, R291), the channel's answers (R295),
and joining late (R297).
-/

namespace Sys2Proof.Machine

/-! ### Acceptance (R276, R280, R282) -/

/-- The channel that a packet matches: enabled, of the port, with its peer's address and port and its CHAN. -/
def chanMatch (s : State) (fr : Frame) : Option Nat :=
  (List.range 64).find? fun ch => s.chState ch != 0 && s.chPort ch == (fr.port : Nat) &&
    fr.src.toNat == (s.rd .FRY_CH_PEERHI ch).toNat * 2 ^ 64 + (s.rd .FRY_CH_PEERLO ch).toNat &&
    fr.sport.toNat == s.rdF .FRY_CH_CFG Fld.FRY_CH_CFG_PPORT ch && fhChan fr.hdr == s.chChan ch

/-- Whether a frame type suits a channel's kind (R277, R280): an intake channel only receives streams, and
JOIN transfers concern crossing channels (DEDUCED, log 31). -/
def typeSuits (kind typ : Nat) : Bool :=
  match kind with
  | 1 => decide (1 ≤ typ) && decide (typ ≤ 0xD)
  | 2 => typ == 1 || typ == 2 || typ == 5 || typ == 6 || typ == 9
  | 3 => decide (1 ≤ typ) && decide (typ ≤ 9)
  | _ => false

/-- Whether a datagram's length agrees with its header: a parity payload has the length of the group's
longest data frame (R276, R285). -/
def lengthOk (fr : Frame) : Bool :=
  let n := fr.payload.length
  decide (n ≤ fullFrame) &&
  (if fhType fr.hdr = 2 then n == (if fhK fr.hdr ≤ 1 then fhDlen fr.hdr else fullFrame) else n == fhDlen fr.hdr)

/-- The key a channel holds for an epoch (R293). -/
def State.epochKey (s : State) (ch e : Nat) : Option FKey :=
  ([(s.ch ch).new, (s.ch ch).old].filterMap id).find? fun k => k.epoch == e

/-- A frame dropped and counted at its port (R276). -/
def dropFrame (x : Nat) : Prog Unit := bumpF .FRY_DROPCNT Fld.FRY_DROPCNT_COUNT 1 x

/-- A late re-send under a retired epoch marks its group (R294). -/
def markRetired (ch : Nat) (h : BitVec 512) : Prog Unit := modCh ch fun k =>
  { k with rx := k.rx.map fun r =>
      if r.num = fhStream h && decide (r.cum ≤ fhGroup h) && !r.stale.contains (fhGroup h) then { r with stale := r.stale ++ [fhGroup h] } else r }

/-- A frame arrives for a command of a channel: the tests of R276, the type of R280 and the ICV of R282 in
turn; one that passes them is used. A frame with more than one tag is not received (R274). -/
def frameIn (ch typ : Nat) (fr : Frame) (f : BitVec 512 → List Byte → Prog Unit) : Prog Unit := .get fun s =>
  let x : Nat := fr.port
  let h := fr.hdr
  let own := (s.rd .FRY_IPHI x).toNat * 2 ^ 64 + (s.rd .FRY_IPLO x).toNat
  if !s.outerUp x || !s.fryOn then .skip
  else if !fr.short && 9216 < 130 + 4 * fr.tags + fr.payload.length then setF .FRY_PERR Fld.FRY_PERR_OVERSIZE x
  else if !fr.fcsOk then setF .FRY_PERR Fld.FRY_PERR_FCSERR x
  else if 1 < fr.tags then .skip
  else if fr.short || fr.dst.toNat ≠ own || fr.ext || fr.dport.toNat ≠ s.rdF .FRY_CTRL Fld.FRY_CTRL_UDPPORT || !fr.sumOk || !lengthOk fr then
    dropFrame x
  else match chanMatch s fr with
    | none => (setF .FRY_PERR Fld.FRY_PERR_NOCHAN x).seq (dropFrame x)
    | some c =>
      if c ≠ ch then .skip
      else Prog.seq (Prog.all [count (setFerry x) 0x81 1 (chTag ch), count (setFerry 2) 0x81 1 (chTag ch)]) <|
        if fhVer h ≠ 1 || !typeSuits (s.chKind ch) (fhType h) then dropFrame x
        else if fhType h ≠ typ then .skip
        else
          let fail := bumpF .FRY_CH_ICVFAIL Fld.FRY_CH_ICVFAIL_COUNT 1 ch
          match s.epochKey ch (fhEpoch h) with
          | none => fail.seq (markRetired ch h)
          | some k =>
            if icvOf (s.berthKey k.berth) (bits 383 0 h.toNat) fr.payload ≠ fhIcv h then fail
            else (Prog.when (s.chState ch == 5) (remeasure ch)).seq (f h fr.payload)

/-! ### Groups (R285) -/

/-- A linear system over the field whose leading minors are not zero, solved: each row holds its
coefficients and its right side. -/
def gfSolve : Nat → List (List Nat × List Byte) → List (List Byte)
  | 0, _ => []
  | _ + 1, [] => []
  | n + 1, (c, b) :: r =>
    let inv := gfInv (c.headD 1)
    let c' := (c.drop 1).map (gfMul inv)
    let b' := gfScale inv b
    let rest := r.map fun e =>
      let h := e.1.headD 0
      (List.zipWith (fun a x => a ^^^ gfMul h x) (e.1.drop 1) c', xorBytes e.2 (gfScale h b'))
    let xs := gfSolve n rest
    ((c'.zip xs).foldl (fun a e => xorBytes a (gfScale e.1 e.2)) b') :: xs

/-- The data frames of a group with `k` frames present, rebuilt where some are missing; the flag says so
(R285). -/
def rebuild (g : RxGroup) : List (List Byte) × Bool :=
  let have' (i : Nat) : Option (List Byte) := (g.got.find? fun e => e.1 == i).map (·.2)
  let n := (g.got.map (·.2.length)).foldl max 0
  let missing := (List.range g.k).filter fun i => (have' i).isNone
  let par := (g.got.filter fun e => decide (g.k ≤ e.1)).take missing.length
  let rows := par.map fun e =>
    let j := e.1 - g.k
    let known := (List.range g.k).foldl (fun a d => match have' d with
      | some p => xorBytes a (gfScale (codeC j d) (padTo n p))
      | none => a) (padTo n e.2)
    (missing.map fun d => codeC j d, known)
  let found := gfSolve missing.length rows
  let trim (i : Nat) (p : List Byte) : List Byte := if i + 1 = g.k then p.take g.dlen else p
  ((List.range g.k).map fun i => match have' i with
    | some p => p
    | none => trim i ((missing.zip found).find? (fun e => e.1 == i) |>.map (·.2) |>.getD []), !missing.isEmpty)

/-- Whether a group is complete. -/
def RxGroup.full (g : RxGroup) : Bool := decide (g.k ≤ g.got.length)

/-- A group of which nothing has come. -/
def RxGroup.none' : RxGroup := ⟨0, 0, 0, 0, []⟩

/-- A group of a stream. -/
def RxStream.group (r : RxStream) (g : Nat) : RxGroup := Tab.at RxGroup.none' r.groups g

/-- Whether a group of a stream is complete. -/
def RxStream.has (r : RxStream) (g : Nat) : Bool := decide (g < r.cum) || (decide (0 < (r.group g).k) && (r.group g).full)

/-- A frame placed in its group (R285). -/
def RxStream.place (r : RxStream) (h : BitVec 512) (p : List Byte) : RxStream :=
  let g := fhGroup h
  let i := fhIdx h
  let x := r.group g
  let x := if x.k = 0 then { x with k := max 1 (fhK h), m := fhM h, seq0 := fhSeqNo h - BitVec.ofNat 32 i } else x
  let dlen := if fhType h = 2 || i + 1 = x.k then fhDlen h else x.dlen
  let got := if x.got.any (fun e => e.1 == i) || x.full then x.got else x.got ++ [(i, p)]
  { r with
    groups := Tab.upd RxGroup.none' r.groups g { x with dlen := dlen, got := got }
    last := if fhLastg h then some (max g (r.last.getD 0)) else r.last }

/-- Frames of a stream so far say how large its groups are. -/
def RxStream.sizes (r : RxStream) (s : State) (ch : Nat) : Nat × Nat :=
  match r.groups.find? fun e => decide (0 < e.2.k) with
  | some e => (e.2.k, e.2.m)
  | none => (s.chK ch, s.chM ch)

/-- The frames that a NACK requests: as many as the group lacks, data first (R286). -/
def RxStream.wants (r : RxStream) (s : State) (ch g : Nat) : Nat :=
  let x := r.group g
  let sz := if x.k = 0 then r.sizes s ch else (x.k, x.m)
  let miss := (List.range (sz.1 + sz.2)).filter fun i => !x.got.any (fun e => e.1 == i)
  ((miss.take (sz.1 - x.got.length)).map fun i => 2 ^ i).sum

/-- A change to an inbound stream. -/
def modRx (ch num : Nat) (f : RxStream → RxStream) : Prog Unit :=
  modCh ch fun k => { k with rx := k.rx.map fun r => if r.num = num then f r else r }

/-- An inbound stream of a channel. -/
def State.rxStream (s : State) (ch num : Nat) : Option RxStream := (s.ch ch).rx.find? fun r => r.num == num

/-- A NACK for an incomplete group (R286, R294). -/
def nackGroup (ch num g : Nat) : Prog Unit := .get fun s =>
  match s.rxStream ch num with
  | none => .skip
  | some r =>
    if r.has g then .skip
    else (modRx ch num fun r => { r with nacked := if r.nacked.contains g then r.nacked else r.nacked ++ [g] }).seq
      (sendNack ch num g (r.wants s ch g) (r.stale.contains g) [])

/-- Groups that are overdue now and have not been asked for are asked for: those below `upto` (R286). -/
def nackBelow (ch num upto : Nat) : Prog Unit := .get fun s =>
  match s.rxStream ch num with
  | none => .skip
  | some r => Prog.each ((List.range (upto - r.cum)).map (r.cum + ·)) fun g =>
      Prog.when (!r.has g && !r.nacked.contains g) (nackGroup ch num g)

/-! ### Delivery (R291, R296) -/

/-- OPID of a CROSS packet: the sending site and the crossing modulo 4,096 (log 32). -/
def crossId (q j : Nat) : Nat := q % 16 + 16 * (j % 4096)

/-- The crossing that a CROSS packet names, the one nearest to a crossing counter. -/
def crossOf (c opid : Nat) : Nat :=
  let j := c / 4096 * 4096 + opid / 16
  if c + 2048 < j then j - 4096 else if j + 2048 ≤ c then j + 4096 else j

/-- A CROSS packet to an owner: OPID names the sending site and the crossing; in a JOIN transfer FMT names
bfloat16 and OPID the piece (log 32). -/
def sendCross (ch : Nat) (r : MapRec) (index opid fmt : Nat) (d : List Byte) : Prog Unit := .get fun s =>
  sendPacket { blankPacket with
    cls := 2
    typ := 0x1C
    dst := BitVec.ofNat 15 r.owner
    bid := BitVec.ofNat 16 (s.bidOf (s.chBind ch))
    fmt := BitVec.ofNat 4 fmt
    lu := ⟨r.lu % 4, Nat.mod_lt _ (by decide)⟩
    step := BitVec.ofNat 48 (s.binding (s.chBind ch)).step
    entry := BitVec.ofNat 16 r.entry
    index := BitVec.ofNat 32 index
    opid := BitVec.ofNat 16 opid
    payload := d }

/-- A decoded segment goes to its owner; the last of an entry is followed by the packet with LEN 0 (R291).
A packet sent counts as acknowledged: the fabric loses none (R248; log 33). -/
def giveSegment (ch num : Nat) (map : List MapRec) (seg : Nat) (d : List Byte) : Prog Unit := .get fun s =>
  match mapFind map seg, s.rxStream ch num with
  | some r, some st =>
    let join := s.chState ch == 8
    let id := crossId (s.rdF .FRY_CH_CFG Fld.FRY_CH_CFG_PSITE ch) num
    if join then
      (sendCross ch r (r.eseg + (seg - r.sseg)) (st.segs.count seg) 1 d).seq
        (modRx ch num fun r => { r with segs := r.segs ++ [seg] })
    else if st.segs.contains seg then .skip
    else
      let segs := st.segs ++ [seg]
      let e := (r.owner, r.lu, r.entry)
      let whole := (entrySegs map r).all segs.contains && !st.ents.contains e
      Prog.all [
        sendCross ch r (r.eseg + (seg - r.sseg)) id 0 d,
        modRx ch num fun x => { x with segs := segs, ents := if whole then x.ents ++ [e] else x.ents },
        Prog.when whole (sendCross ch r 0 id 0 [])]
  | none, some _ => Prog.all [setF .FRY_ERR Fld.FRY_ERR_FAULT, selfFailure 11,
      modRx ch num fun r => { r with segs := r.segs ++ [seg] }]
  | _, none => .skip

/-- Records that waited for a table that has come are decoded. -/
def wakeRecords (ch num : Nat) (map : List MapRec) (tid : Nat) (t : BitVec 1024) : Prog Unit := .get fun s =>
  match s.rxStream ch num with
  | none => .skip
  | some r =>
    Prog.each (r.waits.filter fun w => w.tid == tid) fun w =>
      match decodeBody tid (some t) w.body with
      | some d => (modRx ch num fun r => { r with waits := r.waits.filter fun x => x.seg != w.seg }).seq (giveSegment ch num map w.seg d)
      | none => .skip

/-- One record of a crossing stream (R288, R291); a body that its table does not decode waits like one without
a table (DEDUCED, log 34). A segment that the map does not cover is dropped whatever its body (R299). -/
def takeRecord (ch num : Nat) (map : List MapRec) (hd : Nat) (body : List Byte) : Prog Unit := .get fun s =>
  let seg := bits 31 0 hd
  let tid := bits 41 38 hd
  match s.rxStream ch num with
  | none => .skip
  | some r =>
    if seg = 0xFFFFFFFF then
      let t := BitVec.ofNat 1024 (leNat body)
      (modRx ch num fun r => { r with tables := (tid, t) :: r.tables.filter fun e => e.1 != tid }).seq (wakeRecords ch num map tid t)
    else if (mapFind map seg).isNone then giveSegment ch num map seg body
    else if hd.testBit 42 then
      (modRx ch num fun r => { r with waits := r.waits.filter fun x => x.seg != seg }).seq (giveSegment ch num map seg body)
    else match decodeBody tid ((r.tables.find? fun e => e.1 == tid).map (·.2)) body with
      | some d => giveSegment ch num map seg d
      | none => modRx ch num fun r => { r with waits := r.waits ++ [⟨seg, tid, body, false⟩] }

/-- The records that the bytes in hand hold, in order. -/
def takeRecords (ch num : Nat) (map : List MapRec) : Nat → Prog Unit
  | 0 => .skip
  | fuel + 1 => .get fun s =>
    match s.rxStream ch num with
    | none => .skip
    | some r =>
      let hd := leNat (r.buf.take 8)
      let n := 8 + 64 * bits 37 32 hd
      if r.buf.length < 8 || r.buf.length < n then .skip
      else Prog.all [
        modRx ch num fun r => { r with buf := r.buf.drop n },
        takeRecord ch num map hd ((r.buf.drop 8).take (n - 8)), takeRecords ch num map fuel]

/-- Whether every group of a stream has come and been taken. -/
def RxStream.whole (r : RxStream) : Bool :=
  match r.last with
  | some g => decide (g < r.cum) && r.buf.isEmpty
  | none => false

/-- A stream has been received: it is acknowledged COMPLETE and not received again (R287, R291). -/
def closeStream (ch num : Nat) : Prog Unit := .get fun s =>
  match s.rxStream ch num with
  | none => .skip
  | some r => (modCh ch fun k => { k with rx := k.rx.filter fun x => x.num != num, used := k.used ++ [num] }).seq
      (sendAck ch num r.cum true false)

/-- The counters of a binding shown (R324). -/
def showCounters (b : Nat) : Prog Unit := .get fun s => Prog.all [
  wr .BND_STEP (BitVec.ofNat 64 (s.binding b).step) b, wr .BND_COMMIT (BitVec.ofNat 64 (s.binding b).commit) b,
  wr .BND_CROSS (BitVec.ofNat 64 (s.binding b).cross) b]

/-- One entry of a joiner initialised by firmware: masters from the mooring, moments +0, the working copy and
its digests from the masters, no history (R297). -/
def joinEntry (u i step : Nat) : LuProg Unit := .get fun s =>
  (readEntry u i).bindE fun x =>
  if !x.outer then .ret (.ok ()) else
  let base := x.slot (vptr s u)
  let g := 4096 * x.group
  (Prog.mapE (List.range ((x.cnt + g - 1) / g)) fun q =>
    let lo := g * q
    let n := min x.cnt (g * (q + 1)) - lo
    (luElems u (x.half (mptr s u)) 2 lo n false).bindE fun l =>
    let w := l.map (· * 2 ^ 16)
    (luPut u (base + x.map.master) 4 lo w).bindE fun _ =>
    (luPut u (base + x.map.m1) 4 lo (w.map fun _ => 0)).bindE fun _ =>
    (if x.opt = 0 then Prog.ret (.ok ()) else luPut u (base + x.map.m2) 4 lo (w.map fun _ => 0)).bindE fun _ =>
    emitCopy u x base lo w).bindE fun _ =>
  luWrite u base (leBytes 64 (headerWord 0 0 step 0 false false)) fun _ => noElement

/-- Every crossing device of the joiner has reported: firmware initialises the owners and sets the counters
(R297, log 35). -/
def joinInit (b m : Nat) : Prog Unit := .get fun s =>
  let step := m * (s.binding b).h
  Prog.all [
    Prog.each ((List.range 4).filter (s.hasUnit b)) fun u =>
      Prog.each (List.range (s.rdF .LND_LTAB_COUNT Fld.LND_LTAB_COUNT_COUNT u)) fun i => luDo u i (joinEntry u i step),
    modBnd b fun k => { k with cross := m, step := step, moored := m }, showCounters b]

/-- A joining channel has all it needs: it reports so and measures (R295, R297). The transfer's stream number is none of a
crossing's from here on. -/
def joinFinish (ch m : Nat) : Prog Unit := Prog.all [
  setChState ch 1,
  modCh ch fun k => { k with joinM := none, joinDone := false, replies := [], mark := k.echo, used := k.used.filter (· != m) },
  bumpF .FRY_STATUS Fld.FRY_STATUS_JOINED, .one (.emit (.joined ch))]

/-- After a delivery: stale records are asked for raw, and a stream that is whole and delivered is closed
(R291, R297). -/
def checkWhole (ch num : Nat) (map : List MapRec) : Prog Unit := .get fun s =>
  match s.rxStream ch num with
  | none => .skip
  | some r =>
    if !r.whole then .skip
    else if !r.waits.isEmpty then
      let l := (r.waits.filter fun w => !w.asked).take 64
      if l.isEmpty then .skip
      else Prog.all [setF .FRY_CH_ERR Fld.FRY_CH_ERR_DECODE_STALE ch,
        bumpF .FRY_CH_STALECNT Fld.FRY_CH_STALECNT_COUNT l.length ch,
        modRx ch num fun r => { r with waits := r.waits.map fun w => if l.contains w then { w with asked := true } else w },
        sendNack ch num 0 0 false (l.map (·.seg))]
    else if s.chState ch = 8 then
      (closeStream ch num).seq (Prog.when ((s.ch ch).joinDone) (joinFinish ch num))
    else if (List.range (mapSegs map)).all (fun g => (mapFind map g).isNone || r.segs.contains g) then closeStream ch num
    else .skip

/-- Bytes of an intake or store stream land by their receive descriptor (R296). -/
def landBytes (ch num : Nat) : Prog Unit := .get fun s =>
  match s.rxStream ch num with
  | none => .skip
  | some r =>
    let room := fdLen r.desc - r.landed
    let d := r.buf.take room
    (if d.isEmpty then Prog.ret (.ok ()) else vput (s.chUnit ch) ((fdAddr r.desc + r.landed) % 2 ^ 48) d).bind fun x =>
    match x with
    | .error f => (chanFault ch f).seq (putDesc .FRY_CH_RXRING ch r.idx 56 (leBytes 8 2))
    | .ok _ =>
      let full := r.full || decide (room < r.buf.length)
      let r' := { r with buf := [], landed := r.landed + d.length, full := full }
      (modRx ch num fun _ => r').seq (Prog.when r'.whole (Prog.all [
        putDesc .FRY_CH_RXRING ch r.idx 0 (leBytes 4 num),
        putDesc .FRY_CH_RXRING ch r.idx 16 (leBytes 6 r'.landed),
        putDesc .FRY_CH_RXRING ch r.idx 56 (leBytes 8 (if full then 4 else 1)),
        fdSignal r.desc, closeStream ch num, retireStreams ch]))

/-- What has come in order is delivered (R291, R296). -/
def deliverRx (ch num : Nat) : Prog Unit := .get fun s =>
  if s.chKind ch = 1 then
    (readMap (s.chUnit ch)).bind fun m =>
      match m with
      | .error f => chanFault ch f
      | .ok map =>
        let n := match s.rxStream ch num with
          | some r => r.buf.length
          | none => 0
        (takeRecords ch num map (n + 1)).seq (checkWhole ch num map)
  else landBytes ch num

/-- Complete groups in order join the stream's bytes (R287); a group rebuilt counts (R285). -/
def advanceRx (ch num : Nat) : Nat → Prog Unit
  | 0 => .skip
  | fuel + 1 => .get fun s =>
    match s.rxStream ch num with
    | none => .skip
    | some r =>
      if !r.has r.cum then .skip
      else
        let x := rebuild (r.group r.cum)
        Prog.all [
          modRx ch num fun r => { r with
            buf := r.buf ++ x.1.flatten
            groups := Tab.upd RxGroup.none' r.groups r.cum RxGroup.none'
            next := let g := r.group r.cum; some (g.seq0 + BitVec.ofNat 32 (g.k + g.m))
            cum := r.cum + 1 },
          Prog.when x.2 (bumpF .FRY_CH_REPAIRCNT Fld.FRY_CH_REPAIRCNT_COUNT 1 ch),
          advanceRx ch num fuel]

/-- An ACK of an inbound stream (R287). -/
def ackRx (ch num : Nat) : Prog Unit := .get fun s =>
  match s.rxStream ch num with
  | none => .skip
  | some r => (modRx ch num fun r => { r with acked := r.cum }).seq (sendAck ch num r.cum false false)

/-! ### DATA and PARITY -/

/-- An inbound stream before its first frame. -/
def RxStream.start (num epoch idx : Nat) (desc : BitVec 512) : RxStream :=
  { num, groups := [], cum := 0, acked := 0, last := none, doneRx := false, buf := [], tables := [], waits := [], segs := [],
    ents := [], nacked := [], stale := [], idx, desc, landed := 0, full := false, epoch, next := none }

/-- HOLD answers a stream that may not come yet (R291, R296). -/
def holdStream (ch num : Nat) : Prog Unit := .get fun s =>
  if (s.ch ch).held.contains num then .skip
  else (modCh ch fun k => { k with held := k.held ++ [num] }).seq (sendCtl ch 7 num 0 [])

/-- Whether another channel of the binding has a difference of the same site and crossing, or has used it (R291). -/
def State.heldElsewhere (s : State) (ch num : Nat) : Bool := (List.range 64).any fun c =>
  c != ch && s.chKind c == 1 && s.chState c != 0 && s.chBind c == s.chBind ch &&
  s.rdF .FRY_CH_CFG Fld.FRY_CH_CFG_PSITE c == s.rdF .FRY_CH_CFG Fld.FRY_CH_CFG_PSITE ch &&
  ((s.ch c).used.contains num || (s.ch c).rx.any fun r => r.num == num)

/-- The first frame of a stream, under an epoch: whether it may be received now (R291, R296, R297). `opens` says that the
frame is the stream's very first, sent for the first time. -/
def openStream (ch num epoch : Nat) (opens : Bool) : Prog Bool := .get fun s =>
  let k := s.ch ch
  let start (idx : Nat) (d : BitVec 512) : Prog Bool :=
    (modCh ch fun k => { k with rx := k.rx ++ [RxStream.start num epoch idx d] }).seq (.ret true)
  let again := (sendAck ch num 0 true false).seq (.ret false)
  if s.chState ch = 8 then
    if k.used.contains num then again else if k.joinM = some num then start 0 0 else .ret false
  else if s.chKind ch = 1 then
    let c := s.chCross ch
    if k.dropped.contains num then (sendAck ch num 0 false true).seq (.ret false)
    else if k.used.contains num || s.heldElsewhere ch num then
      (Prog.when opens (bumpF .FRY_CH_DUPCNT Fld.FRY_CH_DUPCNT_COUNT 1 ch)).seq again
    else if num + s.rdF .FRY_XPARAM Fld.FRY_XPARAM_S ≤ c then
      (Prog.all [modCh ch fun k => { k with dropped := k.dropped ++ [num] },
        bumpF .FRY_CH_LATECNT Fld.FRY_CH_LATECNT_COUNT 1 ch, sendAck ch num 0 false true]).seq (.ret false)
    else if c + s.rdF .FRY_XPARAM Fld.FRY_XPARAM_AHEAD < num then (holdStream ch num).seq (.ret false)
    else start 0 0
  else if k.used.contains num then again
  else if k.rxhead = s.rdF .FRY_CH_RXTAIL Fld.FRY_CH_RXTAIL_TAIL ch then (holdStream ch num).seq (.ret false)
  else (vget (s.chUnit ch) (ringEntry s .FRY_CH_RXRING ch k.rxhead) 64).bind fun r =>
    match r with
    | .error f => (chanFault ch { f with reason := 0x17 }).seq (.ret false)
    | .ok d => (modCh ch fun x => { x with rxhead := (x.rxhead + 1) % ringLen s .FRY_CH_RXRING ch }).seq
        (start k.rxhead (BitVec.ofNat 512 (leNat d)))

/-- The first SEQ of a stream's oldest incomplete group: by its own frames, by the group before it, or by those of a later
group with all of the full size between; none while nothing has come (R287). -/
def RxStream.firstSeq (r : RxStream) : Option (BitVec 32) :=
  let g := r.group r.cum
  if 0 < g.k then some g.seq0
  else match r.next with
    | some q => some q
    | none => (r.groups.find? fun e => decide (0 < e.2.k)).map fun e => e.2.seq0 - BitVec.ofNat 32 ((e.1 - r.cum) * (e.2.k + e.2.m))

/-- Whether a frame's SEQ lies in the window of its stream's oldest incomplete group (R287). -/
def inWindow (r : RxStream) (h : BitVec 512) : Bool :=
  match r.firstSeq with
  | some q => decide ((fhSeqNo h - q).toNat < 65536) || decide (2 ^ 31 ≤ (fhSeqNo h - q).toNat)
  | none => true

/-- A verified data or parity frame takes its place; what it completes is delivered, what it makes overdue is
asked for, and an ACK goes out after 64 groups (R285 to R287). -/
def placeFrame (ch : Nat) (x : Nat) (h : BitVec 512) (p : List Byte) : Prog Unit := .get fun s =>
  let num := fhStream h
  let g := fhGroup h
  (match s.rxStream ch num with
    | some _ => Prog.ret true
    | none => openStream ch num (fhEpoch h) (g == 0 && fhIdx h == 0 && !fhResend h)).bind fun ok =>
  if !ok then .skip else .get fun s =>
  match s.rxStream ch num with
  | none => .skip
  | some r =>
    if !inWindow r h then dropFrame x
    else if r.has g then .skip
    else Prog.all [
      modRx ch num fun r => r.place h p,
      advanceRx ch num ((r.last.getD g) + g + 2),
      deliverRx ch num,
      nackBelow ch num (g - 3),
      .get fun s => match s.rxStream ch num with
        | some r => Prog.when (decide (r.acked + 64 ≤ r.cum)) (ackRx ch num)
        | none => .skip]

/-- DATA. -/
def execData (ch : Fin 64) (fr : Frame) (s : State) : Host.Outcome State Fault Refusal :=
  (frameIn ch 1 fr (placeFrame ch fr.port)).next s

/-- PARITY. -/
def execParity (ch : Fin 64) (fr : Frame) (s : State) : Host.Outcome State Fault Refusal :=
  (frameIn ch 2 fr (placeFrame ch fr.port)).next s

/-! ### Control frames (R280, R286, R287) -/

/-- An outbound stream has ended: its descriptor takes a state, its token is signalled where it completed
(R296). -/
def endTx (ch : Nat) (t : TxStream) (st : Nat) : Prog Unit := Prog.all [
  putTxState ch t st, Prog.when (st == 1) (fdSignal t.desc),
  modCh ch fun k => { k with
    tx := k.tx.filter fun x => x.num != t.num
    ended := if t.src = .segs then k.ended ++ [(t.num, st)] else k.ended
    asks := k.asks.filter fun a => a.stream != t.num
    donor := if t.src = .join then none else k.donor },
  retireStreams ch]

/-- ACK: the retention log is freed below CUMGROUP; COMPLETE ends the stream DONE, DROPPED ends it ABORTED
(R287, R291, R296). -/
def execAck (ch : Fin 64) (fr : Frame) (s : State) : Host.Outcome State Fault Refusal :=
  (frameIn ch 3 fr fun h p => .get fun s =>
    match (s.ch ch).tx.find? fun t => t.num == fhStream h with
    | none => .skip
    | some t =>
      let fl := (p.headD 0).toNat
      if fl.testBit 0 then endTx ch t 1
      else if fl.testBit 1 then endTx ch t 3
      else modTx ch t.num fun t => { t with kept := t.kept.filter fun k => decide (fhGroup h ≤ fhGroup k.hdr) }).next s

/-- NACK: the named frames are sent again, afresh where the receiver's berth has retired; RAWSEG asks for
segments in a further group (R287, R291, R294). -/
def execNack (ch : Fin 64) (fr : Frame) (s : State) : Host.Outcome State Fault Refusal :=
  (frameIn ch 4 fr fun h p =>
    let map := leNat (p.take 8)
    let fl := (p.getD 8 0).toNat
    if fl.testBit 1 then modTx ch (fhStream h) fun t => { t with
        raws := t.raws ++ ((chunks 4 64 (p.drop 9)).map leNat).filter fun g => !t.raws.contains g }
    else modCh ch fun k => { k with asks := k.asks ++
      (((List.range 64).filter map.testBit).map fun i => ⟨fhStream h, fhGroup h, i, fl.testBit 0⟩).filter fun a => !k.asks.contains a }).next s

/-- ECHO: answered with its number and the time it was held here, which the model leaves free (R280, R295). -/
def execEcho (ch : Fin 64) (fr : Frame) (s : State) : Host.Outcome State Fault Refusal :=
  (frameIn ch 5 fr fun _ p => freeVal.bind fun v => sendCtl ch 6 0 0 (p.take 4 ++ leBytes 4 v.toNat)).next s

/-- The three newest replies, when their echoes follow one another. -/
def threeReplies (l : List (Nat × Nat)) : Option (Nat × Nat × Nat) :=
  match l with
  | (a, x) :: (b, y) :: (c, z) :: _ => if a = b + 1 && b = c + 1 then some (x, y, z) else none
  | _ => none

/-- A mean of three replies becomes SRTT, and the channel runs (R295). -/
def setSrtt (ch m : Nat) : Prog Unit :=
  Prog.all [wrF .FRY_CH_RTT Fld.FRY_CH_RTT_SRTT m ch, setChState ch 2, modCh ch fun k => { k with replies := [] }]

/-- ECHOREPLY: a round-trip time, less the responder's hold time, moves the channel (R295). -/
def execEchoreply (ch : Fin 64) (fr : Frame) (rtt : BitVec 32) (s : State) : Host.Outcome State Fault Refusal :=
  (frameIn ch 6 fr fun _ p => .get fun s =>
    let n := leNat (p.take 4)
    let r := rtt.toNat
    let st := s.chState ch
    let srtt := s.rdF .FRY_CH_RTT Fld.FRY_CH_RTT_SRTT ch
    let k := s.ch ch
    (wrF .FRY_CH_RTT Fld.FRY_CH_RTT_LAST r ch).seq
      (if st = 2 then
        let d := if srtt ≤ r then r - srtt else srtt - r
        Prog.when (decide (max (srtt / 4) 500000 < d)) (remeasure ch)
      else if (st = 1 || st = 3) && decide (k.mark < n) then
        let l := (n, r) :: k.replies
        match threeReplies l with
        | some (x, y, z) =>
          let sum := x + y + z
          let near (v : Nat) : Bool := decide (10 * (if sum ≤ 3 * v then 3 * v - sum else sum - 3 * v) ≤ sum)
          if st = 1 || (near x && near y && near z) then setSrtt ch (sum / 3)
          else modCh ch fun k => { k with replies := l.take 3 }
        | none => modCh ch fun k => { k with replies := l.take 3 }
      else .skip)).next s

/-- HOLD: the channel is HELD and remembers the state it left (R295). -/
def execHold (ch : Fin 64) (fr : Frame) (s : State) : Host.Outcome State Fault Refusal :=
  (frameIn ch 7 fr fun _ _ => .get fun s =>
    let st := s.chState ch
    if st = 2 || st = 3 then (modCh ch fun k => { k with left := st }).seq (setChState ch 4) else .skip).next s

/-- RESUME: a HELD channel returns to the state it left (R295). -/
def execResume (ch : Fin 64) (fr : Frame) (s : State) : Host.Outcome State Fault Refusal :=
  (frameIn ch 8 fr fun _ _ => .get fun s =>
    Prog.when (s.chState ch == 4) (setChState ch (s.ch ch).left)).next s

/-- DONE: the stream's last group is known, and its incomplete groups are overdue, all of them where no frame of it has
come (R286). -/
def execDone (ch : Fin 64) (fr : Frame) (s : State) : Host.Outcome State Fault Refusal :=
  (frameIn ch 9 fr fun h p =>
    let last := leNat ((p.drop 16).take 4)
    let num := fhStream h
    .get fun s =>
    (match s.rxStream ch num with
      | some _ => Prog.ret true
      | none => openStream ch num (fhEpoch h) false).bind fun ok => Prog.when ok <|
    Prog.all [modRx ch num fun r => { r with doneRx := true, last := some (max last (r.last.getD 0)) },
      nackBelow ch num (last + 1), deliverRx ch num]).next s

/-- GROUP_OVERDUE: no frame of the stream has come for NAKT in RUN (R286). -/
def execGroupOverdue (ch : Fin 64) (stream group : BitVec 32) (s : State) : Host.Outcome State Fault Refusal :=
  (match s.rxStream ch stream.toNat with
   | none => Prog.skip
   | some r => Prog.when (s.chState ch == 2 && !r.nacked.contains group.toNat && decide (r.cum ≤ group.toNat))
      (nackGroup ch stream.toNat group.toNat)).next s

/-- NACK_REPEAT: a group asked for is still incomplete (R286). -/
def execNackRepeat (ch : Fin 64) (stream group : BitVec 32) (s : State) : Host.Outcome State Fault Refusal :=
  (match s.rxStream ch stream.toNat with
   | none => Prog.skip
   | some r => Prog.when (r.nacked.contains group.toNat) (nackGroup ch stream.toNat group.toNat)).next s

/-- ACK_TIMER: 1 ms has passed (R287). -/
def execAckTimer (ch : Fin 64) (s : State) : Host.Outcome State Fault Refusal :=
  (Prog.each (s.ch ch).rx fun r => ackRx ch r.num).next s

/-- CH_RESUME: a faulted or stopped channel remeasures and goes on where it stopped (R295). -/
def chResumeDo (ch : Nat) : Prog Unit := .get fun s =>
  if s.chState ch = 6 || s.chState ch = 7 then
    if (s.ch ch).spent then .skip
    else Prog.all [remeasure ch, Prog.each ((s.ch ch).rx.filter fun r => !r.buf.isEmpty) fun r => deliverRx ch r.num]
  else setF .FRY_CH_ERR Fld.FRY_CH_ERR_CMDIGN ch

/-- CH_RESUME. -/
def execChResume (ch : Fin 64) (s : State) : Host.Outcome State Fault Refusal := (chResumeDo ch).next s

/-! ### Joining (R297) -/

/-- The donor begins a JOIN transfer of its mooring, which is then the stream being sent (R298). -/
def joinStart (ch m segs : Nat) : Prog Unit := .get fun s => Prog.seq
  (modCh ch fun k => { k with
    donor := some m
    tx := k.tx.filter (fun t => t.src ≠ .join) ++
      [TxStream.start none (BitVec.ofNat 512 (segs * 2 ^ 80)) .join m k.started (s.chK ch) (s.chM ch)] })
  (wrF .FRY_CH_STATUS Fld.FRY_CH_STATUS_STREAM m ch)

/-- JOIN: answered with the crossing of the current mooring, and the transfer begins (R297). -/
def execJoin (ch : Fin 64) (fr : Frame) (s : State) : Host.Outcome State Fault Refusal :=
  (frameIn ch 10 fr fun _ _ => .get fun s =>
    (readMap (s.chUnit ch)).bind fun r =>
      match r with
      | .error f => chanFault ch f
      | .ok map =>
        let m := (s.binding (s.chBind ch)).moored
        (sendCtl ch 11 0 0 (leBytes 4 m ++ leBytes 4 (mapSegs map))).seq
          (Prog.when (decide ((s.ch ch).donor ≠ some m)) (joinStart ch m (mapSegs map)))).next s

/-- JOINACK: the joiner knows the mooring crossing (R297). -/
def execJoinack (ch : Fin 64) (fr : Frame) (s : State) : Host.Outcome State Fault Refusal :=
  (frameIn ch 11 fr fun _ p => .get fun s =>
    Prog.when (s.chState ch == 8 && (s.ch ch).joinM.isNone) (modCh ch fun k => { k with joinM := some (leNat (p.take 4)) })).next s

/-- JOINDONE: with the transfer delivered, the channel measures (R295, R297). -/
def execJoindone (ch : Fin 64) (fr : Frame) (s : State) : Host.Outcome State Fault Refusal :=
  (frameIn ch 12 fr fun _ _ => .get fun s =>
    if s.chState ch ≠ 8 then .skip
    else match (s.ch ch).joinM with
      | some m => if (s.ch ch).used.contains m then joinFinish ch m else modCh ch fun k => { k with joinDone := true }
      | none => .skip).next s

/-- JOINRESTART: the transfer starts again with another mooring (R297). -/
def execJoinrestart (ch : Fin 64) (fr : Frame) (s : State) : Host.Outcome State Fault Refusal :=
  (frameIn ch 13 fr fun _ p => .get fun s =>
    Prog.when (s.chState ch == 8) (modCh ch fun k => { k with joinM := some (leNat (p.take 4)), joinDone := false, rx := [] })).next s

/-- The donor's mooring pointer has flipped: a transfer that is not whole starts again (R297). -/
def fryMoored (b m : Nat) : Prog Unit := .get fun s =>
  Prog.each ((List.range 64).filter fun ch => (s.ch ch).donor.isSome && s.chBind ch == b && (s.ch ch).donor != some m) fun ch =>
    (readMap (s.chUnit ch)).bind fun r =>
      match r with
      | .error f => chanFault ch f
      | .ok map => (sendCtl ch 13 0 0 (leBytes 4 m)).seq (joinStart ch m (mapSegs map))

/-! ### Crossings at the owner (R290, R291) -/

/-- The checks of the owner, and what a CROSS packet does to its peer area (R291). -/
def crossTake (u : Nat) (p : Packet) (b : Nat) : LuProg Bool := .get fun s =>
  let i := p.entry.toNat
  let site := (s.binding b).site
  let q := if p.fmt = 0 then p.opid.toNat % 16 else p.opid.toNat
  let j := crossOf (s.binding b).cross p.opid.toNat
  if s.rdF .LND_LTAB_COUNT Fld.LND_LTAB_COUNT_COUNT u ≤ i then .ret (.ok false)
  else (readEntry u i).bindE fun x =>
    if !x.outer then .ret (.ok false)
    else (readXHdr u x.cbuf).bindE fun h =>
      if p.fmt ≠ 0 then
        let n := joinPieces h.fmt
        let lo := p.index.toNat * segVals h.fmt + 1024 * (q % n)
        let hi := min (min (lo + 1024) ((p.index.toNat + 1) * segVals h.fmt)) x.cnt
        let base := x.half (mptr s u) + (if q / n = 0 then 0 else up2k (2 * x.cnt))
        if p.payload.length < 2048 || 2 * n ≤ q || hi ≤ lo then .ret (.ok true)
        else (luPut u base 2 lo ((chunks 2 1024 (p.payload.take (2 * (hi - lo)))).map leNat)).bindE fun _ => .ret (.ok true)
      else
      let empty := p.payload.isEmpty
      if q = site || !h.sites.testBit q || (!empty && h.nseg ≤ p.index.toNat) then .ret (.ok false)
      else
        let a := h.area x.cbuf (h.rank site q) (j % h.w)
        (luRecord u a 64 false).bindE fun w =>
          let st := areaState w
          if 2 ≤ st || (st = 1 && areaCross w ≠ j) then .ret (.ok false)
          else if empty then (putArea u a q 2 j).bindE fun _ => .ret (.ok true)
          else
            (if st = 1 then Prog.ret (.ok ()) else putArea u a q 1 j).bindE fun _ => .get fun s =>
            (vwrite (luUnit s u) (a + 2048 * (1 + p.index.toNat)) ((padTo 2048 (p.payload.take 2048)).map fun y => (y, p.pois))).bind fun r =>
              match r with
              | .ok _ => .ret (.ok true)
              | .error f => .ret (.error (.flt f noElement false))

/-- CROSS: written into a peer area by the owner's Landing Unit, or dropped and counted (R291). -/
def execCross (pkt : Packet) (s : State) : Host.Outcome State Fault Refusal :=
  (arrive pkt 0x1C fun p => .get fun s =>
    let u : Nat := p.lu
    match s.bindingOf p.bid.toNat with
    | none => .skip
    | some b =>
      if !s.hasUnit b u then .skip
      else (crossTake u p b).bind fun r =>
        match r with
        | .ok true => .skip
        | .ok false => bumpF .LND_XDROPCNT Fld.LND_XDROPCNT_COUNT 1 u
        | .error e => luStop u p.entry.toNat e).next s

/-! ### The crossing counter advances (R291, R293) -/

/-- A difference that can no longer be landed has its areas emptied: those of crossings up to `n` that are
still FILLING, or hold the dropped (site, crossing) pairs given (R291). -/
def dropAreas (u n : Nat) (pairs : List (Nat × Nat)) : Prog Unit := .get fun s =>
  Prog.each (List.range (s.rdF .LND_LTAB_COUNT Fld.LND_LTAB_COUNT_COUNT u)) fun i =>
    luDo u i <| (readEntry u i).bindE fun x =>
      if !x.outer then .ret (.ok ()) else
      (readXHdr u x.cbuf).bindE fun h => (readAreas u x.cbuf h).bindE fun areas =>
      (Prog.mapE (areas.filter fun a =>
          (areaState a.2 == 1 && decide (areaCross a.2 ≤ n)) ||
          (decide (1 ≤ areaState a.2) && decide (areaState a.2 ≤ 2) && pairs.contains (bits 3 0 a.2, areaCross a.2))) fun a =>
        putArea u (h.area x.cbuf a.1.1 a.1.2) (bits 3 0 a.2) 0 (areaCross a.2)).bindE fun _ => .ret (.ok ())

/-- The binding's crossing counter has advanced: late streams are dropped, held ones released, and old keys
retire (R291, R293). -/
def fryCrossing (b : Nat) : Prog Unit := .get fun s =>
  let c := (s.binding b).cross
  let sb := s.rdF .FRY_XPARAM Fld.FRY_XPARAM_S
  let ahead := s.rdF .FRY_XPARAM Fld.FRY_XPARAM_AHEAD
  let chans := (List.range 64).filter fun ch => s.chBind ch == b && s.chKind ch == 1 && s.chState ch != 0 && s.chState ch != 8
  let late := chans.flatMap fun ch => ((s.ch ch).rx.filter fun r => decide (r.num + sb ≤ c)).map fun r => (ch, r.num)
  Prog.all [
    Prog.each late fun p => Prog.all [
      modCh p.1 fun k => { k with rx := k.rx.filter fun r => r.num != p.2, dropped := k.dropped ++ [p.2] },
      bumpF .FRY_CH_LATECNT Fld.FRY_CH_LATECNT_COUNT 1 p.1, sendAck p.1 p.2 0 false true],
    Prog.each ((List.range 4).filter (s.hasUnit b)) fun u =>
      Prog.when (decide (sb ≤ c)) (dropAreas u (c - sb) (late.map fun p => (s.rdF .FRY_CH_CFG Fld.FRY_CH_CFG_PSITE p.1, p.2))),
    Prog.each chans fun ch => releaseHeld ch fun j => decide (j ≤ c + ahead),
    Prog.each chans fun ch => match (s.ch ch).new with
      | some n => Prog.when ((s.ch ch).old.isSome && decide (n.from' + 2 ≤ c)) (retireOld ch)
      | none => .skip]

end Sys2Proof.Machine
end

