-- ==== Sys2Proof/Machine/HostBase.lean ====
section
/-!
DEFINITION. Sys2Proof/Machine/HostBase.lean: queues, doorbells and completions of the host command
interface (R391 to R396, R400, R402), and what the PCI Express function identifies itself by (R388).
-/

namespace Sys2Proof.Machine

/-! ### The function (R388) -/

/-- What the function's configuration header says: identifiers, and the sizes of its base address registers. -/
structure PciHeader where
  vendor    : BitVec 16
  device    : BitVec 16
  revision  : BitVec 8
  classCode : BitVec 24
  bar0      : Nat
  bar2      : Nat
deriving DecidableEq, Repr

/-- The header of the KT96's one function; no command of the table reads it (log 66). -/
def pciHeader : PciHeader := ⟨Config.pciVendor, 0x0096, 0x0A, 0x120000, 64 * 2 ^ 20, 2 ^ 20⟩

/-! ### Commands (R395) -/

/-- OPCODE. -/
def HCmd.op (c : HCmd) : Nat := bits 7 0 c.raw.toNat
/-- IRQ. -/
def HCmd.irq (c : HCmd) : Bool := c.raw.getLsbD 8
/-- CID. -/
def HCmd.cid (c : HCmd) : Nat := bits 31 16 c.raw.toNat
/-- BIND. -/
def HCmd.bind' (c : HCmd) : Nat := bits 34 32 c.raw.toNat
/-- A field of ARGS, by its place in the command. -/
def HCmd.arg (c : HCmd) (hi lo : Nat) : Nat := bits hi lo c.raw.toNat

/-! ### Queues (R392 to R394, R402) -/

/-- HCI_QSTAT.STATE. -/
def State.qstate (s : State) (q : Nat) : Nat := s.rdF .HCI_QSTAT Fld.HCI_QSTAT_STATE q

/-- A queue shows a state. -/
def setQstate (q st : Nat) : Prog Unit := wrF .HCI_QSTAT Fld.HCI_QSTAT_STATE st q

/-- HCI_STATUS.QEN shows the queues whose EN is 1. -/
def showQen : Prog Unit := .get fun s =>
  wrF .HCI_STATUS Fld.HCI_STATUS_QEN ((List.range 17).foldl (fun m q =>
    m + s.rdF .HCI_QCTRL Fld.HCI_QCTRL_EN q * 2 ^ q) 0)

/-- The completion ring is full: its tail plus 1 equals its head (R393). -/
def State.cqFull (s : State) (q : Nat) : Bool :=
  (s.rdF .HCI_QSTAT Fld.HCI_QSTAT_CQTAIL q + 1) % 256 == (s.hqueue q).cqHead

/-- The 16 bytes of a completion (R396). -/
def completionBytes (cid q status detail sqhead result : Nat) (phase : Bool) : List Byte :=
  leBytes 8 (cid % 2 ^ 16 + q * 2 ^ 16 + status * 2 ^ 24 + detail % 256 * 2 ^ 32 + sqhead * 2 ^ 48 +
    (if phase then 2 ^ 63 else 0)) ++ leBytes 8 (result % 2 ^ 48)

/-- A completion written to the queue's ring (R394, R396); its vector is raised where asked (R395, R402). A
ring of queue 16 outside the stack loses it. -/
def writeCompletion (q cid status detail result : Nat) (irq : Bool) : Prog Unit := .get fun s =>
  let k := s.hqueue q
  let t := s.rdF .HCI_QSTAT Fld.HCI_QSTAT_CQTAIL q
  let a := (s.rd .HCI_CQ_BASE q).toNat / 4096 * 4096 + 16 * t
  let d := completionBytes cid q status detail (s.rdF .HCI_QSTAT Fld.HCI_QSTAT_SQHEAD q) result k.phase
  Prog.all [
    (if q = 16 then physPut a d else .one (.emit (.hostWrite a d))),
    wrF .HCI_QSTAT Fld.HCI_QSTAT_CQTAIL ((t + 1) % 256) q,
    modHq q fun k => { k with phase := if t = 255 then !k.phase else k.phase },
    Prog.get fun s => Prog.when (s.qstate q == 1 && s.cqFull q) (setQstate q 2),
    if q = 16 then .one (.emit (.fwCompletion t))
    else Prog.when (irq && s.rdF .HCI_QCTRL Fld.HCI_QCTRL_IRQEN q == 1)
      (.one (.emit (.msix (s.rdF .HCI_QCTRL Fld.HCI_QCTRL_VEC q))))]

/-- The command of a queue completes (R396); after a reset of R391 its completion is not written, and a queue
whose EN was cleared then reads DISABLED (R399). -/
def complete (q status detail result : Nat) : Prog Unit := .get fun s =>
  let k := s.hqueue q
  match k.cmd with
  | none => .skip
  | some c => Prog.all [
      Prog.when (!k.lost) (writeCompletion q c.cid status detail result c.irq),
      Prog.when (k.ending && !k.lost) (setQstate q 0),
      modHq q fun k => { k with cmd := none, lost := false, ending := false }]

/-- The status codes of R396. -/
abbrev hcOk : Nat := 0
abbrev hcState : Nat := 1
abbrev hcInvalid : Nat := 2
abbrev hcRejected : Nat := 3
abbrev hcAborted : Nat := 4
abbrev hcDma : Nat := 5
abbrev hcFailed : Nat := 6

/-- The queues whose command satisfies a test. -/
def State.queuesWith (s : State) (p : HCmd → Bool) : List Nat := (List.range 17).filter fun q => (s.hqueue q).cmd.any p

/-- Commands that satisfy a test complete ABORTED (R399). -/
def abortCommands (p : HCmd → Bool) : Prog Unit := .get fun s =>
  Prog.each (s.queuesWith p) fun q => complete q hcAborted 0 0

/-- Whether a command names a binding (R397). -/
def HCmd.binds (c : HCmd) : Bool := 0x10 ≤ c.op && c.op ≤ 0x17 && c.op != 0x15

/-- The bindings that a command names: a REBIND names the one it takes from too (R393, R397). -/
def HCmd.names (c : HCmd) : List Nat :=
  if !c.binds then [] else if c.op == 0x11 && !c.raw.getLsbD 67 then [c.bind', c.arg 66 64] else [c.bind']

/-! ### Doorbells and control (R392, R402) -/

/-- A submission doorbell; a bad one has no effect and sets BADDB (R392). -/
def sqBell (q val : Nat) : Prog Unit := .get fun s =>
  let head := s.rdF .HCI_QSTAT Fld.HCI_QSTAT_SQHEAD q
  let tail := s.rdF .HCI_QSTAT Fld.HCI_QSTAT_SQTAIL q
  let held := (tail + 256 - head) % 256
  let more := (val + 256 - tail) % 256
  if s.qstate q = 0 || 256 ≤ val || 255 < held + more then setF .HCI_ERR Fld.HCI_ERR_BADDB
  else wrF .HCI_QSTAT Fld.HCI_QSTAT_SQTAIL val q

/-- A completion head doorbell: the ring holds what is written and not yet freed (R392). -/
def cqBell (q val : Nat) : Prog Unit := .get fun s =>
  let k := s.hqueue q
  let written := (s.rdF .HCI_QSTAT Fld.HCI_QSTAT_CQTAIL q + 256 - k.cqHead) % 256
  if s.qstate q = 0 || 256 ≤ val || written < (val + 256 - k.cqHead) % 256 then setF .HCI_ERR Fld.HCI_ERR_BADDB
  else Prog.all [modHq q fun k => { k with cqHead := val }, Prog.get fun s =>
    Prog.when (s.qstate q == 2 && !s.cqFull q) (setQstate q 1)]

/-- A posted write of HCI_QCTRL: EN set enables the queue with head and tail at 0; EN cleared disables it,
once its accepted command has completed (R394, R399, R402). -/
def qctrlDo (q : Nat) (val : Word) : Prog Unit := posted .hci <| Prog.get fun s =>
  let on := flagF Fld.HCI_QCTRL_EN val
  ((wr .HCI_QCTRL val q).seq showQen).seq
    (if on && s.qstate q = 0 then Prog.all [
        wrF .HCI_QSTAT Fld.HCI_QSTAT_SQHEAD 0 q, wrF .HCI_QSTAT Fld.HCI_QSTAT_SQTAIL 0 q,
        wrF .HCI_QSTAT Fld.HCI_QSTAT_CQTAIL 0 q, modHq q fun k => { k with cqHead := 0, phase := true },
        setQstate q 1]
     else if !on && s.qstate q ≠ 0 then
       if (s.hqueue q).cmd.isSome && !(s.hqueue q).lost then modHq q fun k => { k with ending := true } else setQstate q 0
     else .skip)

/-- A posted write of a ring's base; while EN is 1 it has no effect (R402). -/
def qbaseDo (r : RegName) (q : Nat) (val : Word) : Prog Unit := posted .hci <| Prog.get fun s =>
  if s.rdF .HCI_QCTRL Fld.HCI_QCTRL_EN q = 1 then setF .HCI_ERR Fld.HCI_ERR_QCFG else wr r val q

/-- A posted write of a doorbell of queue 16 (R392). -/
def fwBellDo (sq : Bool) (val : Word) : Prog Unit := posted .hci <|
  (wr (if sq then .HCI_FWDB_SQ else .HCI_FWDB_CQ) val).seq (if sq then sqBell 16 val.toNat else cqBell 16 val.toNat)

/-- SQ_DOORBELL. -/
def execSqDoorbell (q : Fin 17) (val : BitVec 32) (s : State) : Host.Outcome State Fault Refusal :=
  (if q = 16 then fwBellDo true (val.zeroExtend 64) else sqBell q val.toNat).next s

/-- CQ_DOORBELL. -/
def execCqDoorbell (q : Fin 17) (val : BitVec 32) (s : State) : Host.Outcome State Fault Refusal :=
  (if q = 16 then fwBellDo false (val.zeroExtend 64) else cqBell q val.toNat).next s

/-- QCTRL_WRITE. -/
def execQctrlWrite (q : Fin 17) (val : BitVec 64) (s : State) : Host.Outcome State Fault Refusal := (qctrlDo q val).next s

/-- PERST_N and a Function Level Reset reset the queues; commands accepted run on, and their completions are
not written (R391). HCI_ERR stays. -/
def hciReset : Prog Unit := Prog.each (List.range 17) fun q => Prog.all [
  setQstate q 0, wr .HCI_SQ_BASE 0 q, wr .HCI_CQ_BASE 0 q, wr .HCI_QCTRL 0 q,
  wrF .HCI_QSTAT Fld.HCI_QSTAT_SQHEAD 0 q, wrF .HCI_QSTAT Fld.HCI_QSTAT_SQTAIL 0 q,
  wrF .HCI_QSTAT Fld.HCI_QSTAT_CQTAIL 0 q,
  modHq q fun k => { k with cqHead := 0, phase := true, lost := k.cmd.isSome, ending := false }, showQen]

/-- PERST_N. -/
def execPerstN (s : State) : Host.Outcome State Fault Refusal := hciReset.next s

/-- FUNCTION_LEVEL_RESET. -/
def execFunctionLevelReset (s : State) : Host.Outcome State Fault Refusal := hciReset.next s

end Sys2Proof.Machine
end

