-- ==== Sys2Proof/Machine/Memory.lean ====
section
/-!
DEFINITION. Sys2Proof/Machine/Memory.lean: the vaults' commands (R200 to R204, R219) and the change of a
decode table (R216).
-/

namespace Sys2Proof.Machine

/-! ### Sectors -/

/-- Symbols of a sector's stored codeword change: each is XORed with a byte. -/
def upsetSector (sec : Nat) (l : List (Nat × Byte)) : Prog Unit := .get fun s =>
  .one (.setErr sec ((l.filter fun p => decide (p.1 < 72)).foldl (fun e p => errAdd e p.1 p.2) (s.errOf sec)))

/-- SECTOR_READ: a vault reads a sector, of which symbols may have changed since it was written (R203). -/
def execSectorRead (addr : BitVec 40) (upset : List (Nat × BitVec 8)) (s : State) : Host.Outcome State Fault Refusal :=
  if addr.toNat ≥ s.stackEnd then .fault .noSuchAddress
  else ((upsetSector (addr.toNat / 64) upset).seq
    ((secRead (addr.toNat / 64)).bind fun r =>
      Prog.one (.emit (.sector (64 * (addr.toNat / 64)) r.data r.mta r.poison)))).next s

/-- SECTOR_WRITE: a vault writes a sector, whole or in part (R202); bytes beyond the sector's end belong to
no sector write and are not written. -/
def execSectorWrite (addr : BitVec 40) (off : Nat) (data : List (BitVec 8)) (poison : Bool) (s : State) :
    Host.Outcome State Fault Refusal :=
  if addr.toNat ≥ s.stackEnd then .fault .noSuchAddress
  else (if off < 64 && !data.isEmpty then secWrite (addr.toNat / 64) off (data.take (64 - off)) poison else Prog.skip).next s

/-- Whether a write of MEM_INJ may arm (R219). -/
def injOk (s : State) (v : Nat) (val : Word) : Bool :=
  let a := 64 * getF Fld.MEM_INJ_SECTOR val
  decide (a < s.stackEnd) && s.vaultOf a == v && decide (getF Fld.MEM_INJ_SYMA val ≤ 71) &&
    (!flagF Fld.MEM_INJ_TWO val || decide (getF Fld.MEM_INJ_SYMB val ≤ 71))

/-- MEM_INJ: a posted write arms an injection, or arms nothing and sets INJBAD (R219). -/
def memInjDo (v : Fin 16) (val : BitVec 64) : Prog Unit :=
  (posted (.mem v) <| Prog.get fun s =>
    if flagF Fld.MEM_INJ_ARM val && !injOk s v val then
      (wr .MEM_INJ (putF Fld.MEM_INJ_ARM val 0) v).seq (setF .MEM_ERR Fld.MEM_ERR_INJBAD v)
    else wr .MEM_INJ val v)

/-- `execMemInj`: the command. -/
def execMemInj (v : Fin 16) (val : BitVec 64) (s : State) : Host.Outcome State Fault Refusal := (memInjDo v val).next s

/-! ### The scrubber (R204) -/

/-- The scrubber reads one sector and rewrites it as poisoned where it cannot correct it. -/
def scrubSector (sec : Nat) : Prog Bool := .get fun s =>
  let res := rsDecode (s.errOf sec)
  (secRead sec true).bind fun r =>
    match res with
    | .bad => (Prog.all [wrBytes (64 * sec) r.data, .one (.setMeta sec (BitVec.ofNat 32 (metaWord r.mta true))),
        .one (.setErr sec [])]).seq (.ret false)
    | .one _ _ => .ret true
    | .intact => .ret false

/-- The sectors of a vault's column: those of its own whose stored codeword has changed since it was
written. The others decode as they stand, and reading them changes nothing. -/
def scrubWork (s : State) (v : Nat) : List Nat :=
  (s.err.map (·.1)).filter fun sec => decide (64 * sec < s.stackEnd) && s.vaultOf (64 * sec) == v

/-- SCRUB_PASS: the vault reads every sector of its column once (R204, R219). -/
def execScrubPass (v : Fin 16) (s : State) : Host.Outcome State Fault Refusal :=
  (if s.rdF .MEM_SCRUB Fld.MEM_SCRUB_HOURS v = 0 then Prog.skip
   else
    let work := scrubWork s v
    let n := s.stackEnd / 64 / (if s.fullMap then 16 else 4)
    Prog.seq (Prog.all [count (setVault v) 0x53 n, count (setVault v) 0x50 (n - work.length)]) <|
    (Prog.mapM work scrubSector).bind fun l =>
      Prog.when (decide (s.rdF .MEM_SCRUB Fld.MEM_SCRUB_CETHR v < (l.filter id).length))
        (setF .MEM_ERR Fld.MEM_ERR_CEHIGH v)).next s

/-! ### Temperature (R200) -/

/-- The hottest of a vault's layers: temperature and layer, the lowest layer of those that tie. -/
def hottest (t : List Byte) : Nat × Nat :=
  (t.zipIdx.foldl (fun (a : Nat × Nat) p => if a.1 < p.1.toNat then (p.1.toNat, p.2) else a) (0, 0))

/-- A vault reads the temperature of every layer of its column (R200, R219). -/
def vaultTemps (v : Nat) (t : List Byte) : Prog Unit :=
  let h := hottest (t.take 8)
  Prog.all [
    wrF .MEM_TEMP Fld.MEM_TEMP_DEGC h.1 v, wrF .MEM_TEMP Fld.MEM_TEMP_LAYER h.2 v,
    Prog.when (decide (85 < h.1)) ((wrF .MEM_STATUS Fld.MEM_STATUS_HOTREF 1 v).seq (setF .MEM_ERR Fld.MEM_ERR_HOT v)),
    Prog.when (decide (h.1 ≤ 82)) (wrF .MEM_STATUS Fld.MEM_STATUS_HOTREF 0 v),
    Prog.when (decide (95 ≤ h.1)) (setF .MEM_ERR Fld.MEM_ERR_OVERTEMP v)]

/-- REFRESH_RATE_CHANGE: the readings of a vault's layers move it between the rates (R200). -/
def execRefreshRateChange (v : Fin 16) (temps : List (BitVec 8)) (s : State) : Host.Outcome State Fault Refusal :=
  (vaultTemps v temps).next s

/-! ### Decode tables (R216, R218) -/

/-- The binding that a codec's unit belongs to (R205, R305). -/
def State.cdcOwner (s : State) (e : Nat) : Option Nat :=
  if e < 32 then s.ownerCl e else if e < 36 then s.ownerUnit (e - 32) else s.ownerUnit (10 + (e - 36))

/-- The unit whose accesses a codec serves (R205). -/
def cdcUnit (s : State) (e : Nat) : Unit' :=
  if e < 32 then seqUnit s e else if e < 36 then luUnit s (e - 32) else movUnit s (e - 36)

/-- Fields of MEM_CDC_STATUS. -/
abbrev cdcOth : Field := Fld.MEM_CDC_STATUS_OTHSTATE

/-- Whether a codec holds a valid current table, its TID and its bank. -/
def State.curTid (s : State) (e : Nat) : Option Nat :=
  if s.rdF .MEM_CDC_STATUS Fld.MEM_CDC_STATUS_CURVALID e = 1 then
    some (s.rdF .MEM_CDC_STATUS Fld.MEM_CDC_STATUS_CURTID e) else none

/-- The other bank takes a state and a TID. -/
def othState (e st tid : Nat) : Prog Unit :=
  (wrF .MEM_CDC_STATUS cdcOth st e).seq (wrF .MEM_CDC_STATUS Fld.MEM_CDC_STATUS_OTHTID tid e)

/-- The contents of the other bank replaced. -/
def putOther (e : Nat) (b : Option Bank) : Prog Unit := .get fun s =>
  if s.rdF .MEM_CDC_STATUS Fld.MEM_CDC_STATUS_CURBANK e = 0 then modCodec e fun k => { k with bank1 := b }
  else modCodec e fun k => { k with bank0 := b }

/-- A load finds the step already reached (R216). -/
def lateCheck (e : Nat) : Prog Unit := .get fun s =>
  match s.cdcOwner e with
  | none => .skip
  | some b =>
    if s.rdF .MEM_CDC_STATUS Fld.MEM_CDC_STATUS_SWSTEP e ≤ (s.binding b).step && !(s.cdc e).late then
      (setF .MEM_CDC_ERR Fld.MEM_CDC_ERR_DTLATE e).seq (modCodec e fun k => { k with late := true })
    else .skip

/-- A load starts in the other bank, or waits until a retiring bank is empty (R216). -/
def startLoad (e : Nat) : Prog Unit := .get fun s =>
  if s.rdF .MEM_CDC_STATUS cdcOth e = 3 then modCodec e fun k => { k with waiting := true }
  else Prog.all [putOther e none, othState e 1 (s.cdc e).stid, modCodec e fun k => { k with waiting := false }]

/-- DTSTEP_LOAD: a posted write of MEM_CDC_DTSTEP starts the load of a table (R216). -/
def dtstepLoadDo (e : Fin 40) (val : BitVec 64) : Prog Unit :=
  (posted (.cdc e) <| Prog.get fun s =>
    let tid := s.rdF .MEM_CDC_DTADDR Fld.MEM_CDC_DTADDR_TID e
    (wr .MEM_CDC_DTSTEP val e).seq
      (if tid = 15 || s.curTid e == some tid then setF .MEM_CDC_ERR Fld.MEM_CDC_ERR_DTBAD e
       else Prog.all [wrF .MEM_CDC_STATUS Fld.MEM_CDC_STATUS_SWSTEP (getF Fld.MEM_CDC_DTSTEP_STEP val) e,
         modCodec e fun k => { k with
           src := s.rdF .MEM_CDC_DTADDR Fld.MEM_CDC_DTADDR_ADDR e / 64 * 64
           stid := tid
           late := false }, startLoad e, lateCheck e]))

/-- `execDtstepLoad`: the command. -/
def execDtstepLoad (e : Fin 40) (val : BitVec 64) (s : State) : Host.Outcome State Fault Refusal := (dtstepLoadDo e val).next s

/-- TABLE_LOAD_DONE: the table is read and checked, and the bank is loaded or empty (R210, R216). A table
that cannot be read is rejected like one that breaks R210 (DEDUCED, log 18). -/
def execTableLoadDone (e : Fin 40) (s : State) : Host.Outcome State Fault Refusal :=
  (if s.rdF .MEM_CDC_STATUS cdcOth e ≠ 1 then Prog.skip
   else
    let bad := Prog.all [setF .MEM_CDC_ERR Fld.MEM_CDC_ERR_DTBAD e, othState e 0 0]
    (vget { cdcUnit s e with codec := none } (s.cdc e).src 128).bind fun r =>
      match r with
      | .error f => (logFault (cdcUnit s e) f).seq bad
      | .ok d =>
        let t := BitVec.ofNat 1024 (leNat d)
        if !tabValid t then bad
        else Prog.all [
          putOther e (some ⟨s.rdF .MEM_CDC_STATUS Fld.MEM_CDC_STATUS_OTHTID e, t⟩),
          wrF .MEM_CDC_STATUS cdcOth 2 e, lateCheck e]).next s

/-- BANK_RETIRE: the retiring bank is empty, and a load that waited for it starts (R216). -/
def execBankRetire (e : Fin 40) (s : State) : Host.Outcome State Fault Refusal :=
  (if s.rdF .MEM_CDC_STATUS cdcOth e ≠ 3 then Prog.skip
   else Prog.all [putOther e none, othState e 0 0, Prog.when (s.cdc e).waiting (startLoad e)]).next s

/-- The loaded bank becomes current and the current one retires (R216). -/
def switchBank (e : Nat) : Prog Unit := .get fun s =>
  let st := s.rd .MEM_CDC_STATUS e
  Prog.all [
    wrF .MEM_CDC_STATUS Fld.MEM_CDC_STATUS_CURTID (getF Fld.MEM_CDC_STATUS_OTHTID st) e,
    wrF .MEM_CDC_STATUS Fld.MEM_CDC_STATUS_CURVALID 1 e,
    wrF .MEM_CDC_STATUS Fld.MEM_CDC_STATUS_CURBANK (1 - getF Fld.MEM_CDC_STATUS_CURBANK st) e,
    if flagF Fld.MEM_CDC_STATUS_CURVALID st then othState e 3 (getF Fld.MEM_CDC_STATUS_CURTID st) else othState e 0 0,
    modCodec e fun k => { k with late := false }]

/-- A turnaround of its binding sets the step counter to `n` (R216): a loaded bank becomes current at its
step or when it is late; a load that is incomplete at its step is late. -/
def cdcTurn (e n : Nat) : Prog Unit := .get fun s =>
  let st := s.rdF .MEM_CDC_STATUS cdcOth e
  let due := s.rdF .MEM_CDC_STATUS Fld.MEM_CDC_STATUS_SWSTEP e == n
  if st = 2 && (due || (s.cdc e).late) then switchBank e
  else if (st = 1 || (s.cdc e).waiting) && due && !(s.cdc e).late then
    (setF .MEM_CDC_ERR Fld.MEM_CDC_ERR_DTLATE e).seq (modCodec e fun k => { k with late := true })
  else .skip

/-- A turnaround of its binding that sets no step counter: a table that came late becomes current (R23, R216). -/
def cdcLate (e : Nat) : Prog Unit := .get fun s =>
  if s.rdF .MEM_CDC_STATUS cdcOth e = 2 && (s.cdc e).late then switchBank e else .skip

/-- APPLY reaches a codec that no binding owns (R216). -/
def cdcApply (e : Nat) : Prog Unit := .get fun s =>
  if s.rdF .MEM_CDC_STATUS cdcOth e = 2 && (s.cdcOwner e).isNone then switchBank e else .skip

end Sys2Proof.Machine
end

