-- ==== Sys2Proof/Machine/Mover.lean ====
section
/-!
DEFINITION. Sys2Proof/Machine/Mover.lean: the movers' rings and descriptors (R229 to R235) and their
commands (R234, R243, R246).
-/

namespace Sys2Proof.Machine

/-! ### Descriptors (R230) -/

/-- OP. -/
def mdOp (d : BitVec 512) : Nat := bits 3 0 d.toNat
/-- FENCE. -/
def mdFence (d : BitVec 512) : Bool := d.getLsbD 4
/-- IRQ. -/
def mdIrq (d : BitVec 512) : Bool := d.getLsbD 5
/-- SIGEN. -/
def mdSigen (d : BitVec 512) : Bool := d.getLsbD 6
/-- PFWD. -/
def mdPfwd (d : BitVec 512) : Bool := d.getLsbD 7
/-- TCLS. -/
def mdCls (d : BitVec 512) : Nat := bits 9 8 d.toNat
/-- TCL. -/
def mdTcl (d : BitVec 512) : Nat := bits 20 16 d.toNat
/-- TOK. -/
def mdTok (d : BitVec 512) : Nat := bits 26 21 d.toNat
/-- SRC. -/
def mdSrc (d : BitVec 512) : Nat := bits 79 32 d.toNat
/-- DST. -/
def mdDst (d : BitVec 512) : Nat := bits 127 80 d.toNat
/-- ESZ. -/
def mdEsz (d : BitVec 512) : Nat := bits 130 128 d.toNat
/-- N0. -/
def mdN0 (d : BitVec 512) : Nat := bits 159 136 d.toNat
/-- N1. -/
def mdN1 (d : BitVec 512) : Nat := bits 183 160 d.toNat
/-- N2. -/
def mdN2 (d : BitVec 512) : Nat := bits 207 184 d.toNat
/-- PEER. -/
def mdPeer (d : BitVec 512) : Nat := bits 366 352 d.toNat
/-- PATTERN. -/
def mdPattern (d : BitVec 512) : Nat := bits 431 368 d.toNat

/-- Bytes of an element. -/
def mdSize (d : BitVec 512) : Nat :=
  match mdEsz d with
  | 4 => 64
  | 5 => 2048
  | n => 2 ^ n

/-- The element count. -/
def mdCount (d : BitVec 512) : Nat := mdN0 d * mdN1 d * mdN2 d

/-- The byte address of an element by its linear index, with a base and the strides of dimensions 1 and 2
(R230). -/
def mdAddr (d : BitVec 512) (base hi1 lo1 hi2 lo2 : Nat) (lin : Nat) : Nat :=
  let i0 := lin % mdN0 d
  let i1 := lin / mdN0 d % mdN1 d
  let i2 := lin / (mdN0 d * mdN1 d)
  let s1 := signedOf 36 (bits hi1 lo1 d.toNat)
  let s2 := signedOf 36 (bits hi2 lo2 d.toNat)
  (((base + i0 * mdSize d : Nat) + (i1 : Int) * s1 + (i2 : Int) * s2) % (2 ^ 48 : Int)).toNat

/-- Source address of an element. -/
def mdFrom (d : BitVec 512) (lin : Nat) : Nat := mdAddr d (mdSrc d) 243 208 279 244 lin
/-- Destination address of an element. -/
def mdTo (d : BitVec 512) (lin : Nat) : Nat := mdAddr d (mdDst d) 315 280 351 316 lin

/-- The rows of a side: each row's first address; a row is N0 elements without a gap. -/
def mdRows (d : BitVec 512) (f : BitVec 512 → Nat → Nat) : List Nat :=
  (List.range (mdN1 d * mdN2 d)).map fun r => f d (r * mdN0 d)

/-- Whether a COPY's destination overlaps its source (R231). -/
def mdOverlap (d : BitVec 512) : Bool :=
  let n := mdN0 d * mdSize d
  (mdRows d mdFrom).any fun a => (mdRows d mdTo).any fun b => decide (a < b + n) && decide (b < a + n)

/-- Whether a descriptor keeps the rules of R231 that concern it alone; SRC of a FILL and PATTERN of any other
operation must be 0 (R230), and STATUS holds no reserved value (R232). -/
def mdOk (d : BitVec 512) : Bool :=
  let x := d.toNat
  let op := mdOp d
  let peer := op == 3 || op == 4 || op == 5
  decide (1 ≤ op) && decide (op ≤ 5) && bits 15 10 x == 0 && bits 31 27 x == 0 && bits 135 131 x == 0 &&
  bits 367 367 x == 0 && bits 447 432 x == 0 && decide (bits 451 448 x ≤ 5) && bits 511 506 x == 0 && decide (mdEsz d ≤ 5) && (peer == decide (1 ≤ mdCls d)) &&
  (op != 2 || mdSrc d == 0) && (op == 2 || mdPattern d == 0) && (op == 1 || !mdPfwd d) &&
  mdN0 d != 0 && mdN1 d != 0 && mdN2 d != 0 && decide (mdCount d < 2 ^ 48) &&
  decide (mdSrc d % mdSize d = 0) && decide (mdDst d % mdSize d = 0) && (op != 1 || !mdOverlap d) &&
  (!mdPfwd d || decide (4 ≤ mdEsz d))

/-- Whether an element's write fits a compressed page: 2 KiB, aligned (R231). -/
def mdWhole (d : BitVec 512) (lin : Nat) : Bool := mdEsz d == 5 && decide (mdTo d lin % 2048 = 0)

/-- Whether an address lies on a compressed page; one that does not translate is met as a fault when the element
moves. -/
def onCompressed (u : Unit') (a : Nat) : Prog Bool :=
  (translate u .write a).bind fun t =>
    match t with
    | .ok r => .ret r.cmp
    | .error _ => .ret false

/-- Whether a local destination element that does not fit a compressed page has its first or its last byte on one. -/
def badElement (u : Unit') (d : BitVec 512) (lin : Nat) : Prog Bool :=
  if mdWhole d lin then .ret false
  else (onCompressed u (mdTo d lin)).bind fun x => if x then .ret true else onCompressed u ((mdTo d lin + mdSize d - 1) % 2 ^ 48)

/-- The steps of a dimension that lead to other addresses: one, where its stride is 0. -/
def mdSteps (n stride : Nat) : Nat := if stride = 0 then 1 else n

/-- The rows of the destination, those at the same addresses once. -/
def destRows (d : BitVec 512) : List Nat :=
  (List.range (mdSteps (mdN2 d) (bits 351 316 d.toNat))).flatMap fun i2 =>
    (List.range (mdSteps (mdN1 d) (bits 315 280 d.toNat))).map fun i1 => i1 + mdN1 d * i2

/-- The elements that stand first in a page of the destination, or first or last in their row. -/
def pageFirsts (d : BitVec 512) : List Nat := (destRows d).flatMap fun r =>
  ((List.range (mdN0 d)).map fun i => r * mdN0 d + i).filter fun i =>
    i % mdN0 d == 0 || (i + 1) % mdN0 d == 0 || mdTo d i / 65536 != mdTo d (i - 1) / 65536

/-- Whether some destination element is a partial write of a compressed page (R231). -/
def badDest (u : Unit') (d : BitVec 512) : Prog Bool :=
  if mdOp d = 3 then .ret false
  else (Prog.mapM (pageFirsts d) (badElement u d)).bind fun l => .ret (l.any id)

/-! ### The ring (R229) -/

/-- Ring entries. -/
def State.ringSize (s : State) (m : Nat) : Nat := 2 ^ min (s.rdF .MOV_RING_CTRL Fld.MOV_RING_CTRL_LOG2 m) 16

/-- The address of a ring entry. -/
def State.ringAddr (s : State) (m idx : Nat) : Nat :=
  (s.rdF .MOV_RING_BASE Fld.MOV_RING_BASE_BASE m / 64 * 64 + 64 * idx) % 2 ^ 48

/-- MOV_STATUS.STATE. -/
def movState (s : State) (m : Nat) : Nat := s.rdF .MOV_STATUS Fld.MOV_STATUS_STATE m

/-- MOV_STATUS.STATE set. -/
def setMovState (m x : Nat) : Prog Unit := wrF .MOV_STATUS Fld.MOV_STATUS_STATE x m

/-- The status shown (R246). -/
def movShow (m : Nat) : Prog Unit := .get fun s =>
  let fl := (s.mover m).flights
  let fly := (fl.filter fun f => f.st == 1).length
  let held := (fl.filter fun f => decide (2 ≤ f.st)).length
  Prog.all [wrF .MOV_STATUS Fld.MOV_STATUS_INFLIGHT fly m, wrF .MOV_STATUS Fld.MOV_STATUS_HELD held m,
    Prog.when (decide (movState s m ≤ 1)) (setMovState m
      (if fl.isEmpty && s.rdF .MOV_HEAD Fld.MOV_HEAD_HEAD m == s.rdF .MOV_TAIL Fld.MOV_TAIL_TAIL m then 0 else 1))]

/-- A STATUS word (R232). -/
def statusWord (st fkind prog : Nat) (pfwd remote : Bool) : Nat :=
  st + fkind * 2 ^ 4 + prog % 2 ^ 48 * 2 ^ 8 + (if pfwd then 2 ^ 56 else 0) + (if remote then 2 ^ 57 else 0)


/-- A descriptor leaves the mover. -/
def dropFlight (m idx : Nat) : Prog Unit := modMov m fun k => { k with flights := k.flights.filter fun f => f.idx != idx }

/-- A descriptor's record changed. -/
def modFlight (m idx : Nat) (f : Flight → Flight) : Prog Unit :=
  modMov m fun k => { k with flights := k.flights.map fun x => if x.idx = idx then f x else x }

/-- A descriptor of the mover, by ring index. -/
def State.flight (s : State) (m idx : Nat) : Option Flight := (s.mover m).flights.find? fun f => f.idx == idx

/-- The STATUS word of a ring entry is written; a fault of that write is a fault of the mover: it is recorded, and the
mover stops with the descriptor held in state `st` (DEDUCED, log 19). -/
def putStatus (m idx w st : Nat) (ok : Prog Unit) : Prog Unit := .get fun s =>
  let u := { movUnit s m with codec := none }
  (vput u (s.ringAddr m idx + 56) (leBytes 8 w)).bind fun r =>
    match r with
    | .ok _ => ok
    | .error f => Prog.all [setF .MOV_ERR Fld.MOV_ERR_FAULT m, wrF .MOV_ERRDESC Fld.MOV_ERRDESC_ADDR (s.ringAddr m idx) m,
        modFlight m idx fun x => { x with st := st }, modMov m fun k => { k with stopped := true },
        logFault u { f with reason := 0x17, walk := false }]

/-- A descriptor is illegal (R231). -/
def illegalDesc (m idx : Nat) : Prog Unit := .get fun s => Prog.all [
  putStatus m idx (statusWord 4 0 0 false false) 4 (dropFlight m idx), setF .MOV_ERR Fld.MOV_ERR_ILLEGAL m,
  wrF .MOV_ERRDESC Fld.MOV_ERRDESC_ADDR (s.ringAddr m idx) m, errEvent (.moverError m idx), selfFailure 10]

/-- Descriptors that may start do: at most 1,024 in flight, a fenced one after every earlier one has left, none
before an earlier fenced one (R229). `before` are the earlier descriptors. -/
def startReady (m : Nat) : List Flight → List Flight → Prog Unit
  | [], _ => .skip
  | f :: r, before => .get fun s =>
    let fly := ((s.mover m).flights.filter fun x => x.st == 1).length
    let earlier := before.filter fun x => (s.flight m x.idx).isSome
    if f.st ≠ 0 then startReady m r (before ++ [f])
    else if 1024 ≤ fly || (mdFence f.desc && !earlier.isEmpty) then .skip
    else
      let u := movUnit s m
      (if mdOk f.desc then badDest u f.desc else Prog.ret true).bind fun bad =>
      (if bad then illegalDesc m f.idx else modFlight m f.idx fun x => { x with st := 1 }).seq
        (startReady m r (before ++ [f]))

/-- What may start now starts. -/
def movStart (m : Nat) : Prog Unit := .get fun s => startReady m (s.mover m).flights []

/-- MOV_TAIL: a posted write makes descriptors available or is refused (R229). -/
def movTailDo (m : Nat) (val : Word) : Prog Unit := posted (.mov (⟨m % 4, Nat.mod_lt _ (by decide)⟩)) <| Prog.get fun s =>
  let n := s.ringSize m
  let head := s.rdF .MOV_HEAD Fld.MOV_HEAD_HEAD m
  let tail := getF Fld.MOV_TAIL_TAIL val
  let dist := if head ≤ tail then tail - head else tail + n - head
  if n ≤ tail || n - 1 < dist then setF .MOV_ERR Fld.MOV_ERR_BADTAIL m
  else (wr .MOV_TAIL val m).seq (movShow m)

/-- MOV_TAIL. -/
def execMovTail (m : Fin 4) (val : BitVec 64) (s : State) : Host.Outcome State Fault Refusal := (movTailDo m val).next s

/-- DESCRIPTOR_FETCH: the next descriptor of the ring is fetched and starts when it may; a fault of the fetch
leaves it in the ring (R229, R234). -/
def execDescriptorFetch (m : Fin 4) (s : State) : Host.Outcome State Fault Refusal :=
  (let head := s.rdF .MOV_HEAD Fld.MOV_HEAD_HEAD m
   if 1 < movState s m || (s.mover m).stopped || s.rdF .MOV_RING_CTRL Fld.MOV_RING_CTRL_EN m ≠ 1 ||
      head = s.rdF .MOV_TAIL Fld.MOV_TAIL_TAIL m || (s.ownerUnit (10 + m)).isNone then Prog.skip
   else
    let u := { movUnit s m with codec := none }
    (vget u (s.ringAddr m head) 64).bind fun r =>
      match r with
      | .error f => Prog.all [setF .MOV_ERR Fld.MOV_ERR_FAULT m, modMov m fun k => { k with stopped := true },
          wrF .MOV_ERRDESC Fld.MOV_ERRDESC_ADDR (s.ringAddr m head) m, logFault u { f with reason := 0x17, walk := false }]
      | .ok d => Prog.all [
          wrF .MOV_HEAD Fld.MOV_HEAD_HEAD ((head + 1) % s.ringSize m) m,
          modMov m fun k => { k with flights := k.flights ++ [⟨head, BitVec.ofNat 512 (leNat d), 0, 0, [], 0, false⟩] },
          movStart m, movShow m]).next s

/-- DESCRIPTOR_COMPLETE: a descriptor whose elements are all complete leaves flight DONE, its STATUS written before its
token is signalled (R232, R235). -/
def execDescriptorComplete (m : Fin 4) (idx : Nat) (s : State) : Host.Outcome State Fault Refusal :=
  (match s.flight m idx with
   | none => Prog.skip
   | some f =>
    if f.st ≠ 1 || f.prog ≠ mdCount f.desc then .skip
    else (putStatus m idx (statusWord 1 0 f.prog f.pfwd false) 2 (Prog.all [dropFlight m idx,
      bumpF .MOV_DONECNT Fld.MOV_DONECNT_COUNT 1 m, count (setMover m) 0x60,
      Prog.when (mdSigen f.desc) (tokenAdd (mdTcl f.desc) (mdTok f.desc) 1),
      Prog.when (mdIrq f.desc) (.one (.emit (.moverDone m idx)))])).seq ((movStart m).seq (movShow m))).next s

/-- An element of a descriptor faults, here or at the peer: the descriptor leaves flight FAULTED with its
progress and the mover stops fetching (R234). -/
def elementFault (m idx : Nat) (kind : Nat) (remote : Bool) (f : Option Flt) : Prog Unit := .get fun s =>
  match s.flight m idx with
  | none => .skip
  | some x => Prog.all [
      putStatus m idx (statusWord 2 kind x.prog x.pfwd remote) 2 .skip,
      modFlight m idx fun y => { y with st := 2 }, modMov m fun k => { k with stopped := true },
      setF .MOV_ERR (if remote then Fld.MOV_ERR_REMOTE else Fld.MOV_ERR_FAULT) m,
      wrF .MOV_ERRDESC Fld.MOV_ERRDESC_ADDR (s.ringAddr m idx) m,
      (match f with
        | some e => logFault (movUnit s m) e
        | none => .skip), movShow m]

/-- Elements complete: the progress is the lowest that is not (R232). -/
def advanceProg : Nat → Flight → Flight
  | 0, f => f
  | n + 1, f => if f.done.contains f.prog then
      advanceProg n { f with prog := f.prog + 1, done := f.done.filter (· != f.prog) } else f

/-- An element is complete. -/
def elementDone (m idx lin : Nat) : Prog Unit :=
  modFlight m idx fun f =>
    if lin < f.prog || f.done.contains lin then f
    else advanceProg (f.done.length + 1) { f with done := f.done ++ [lin] }

/-! ### MOV_CMD (R234, R243) -/

/-- MOVER_FAULT_STOP: the last descriptor in flight has left, and the mover enters FAULT_STOP (R234). -/
def execMoverFaultStop (m : Fin 4) (s : State) : Host.Outcome State Fault Refusal :=
  (if (s.mover m).stopped && decide (movState s m ≤ 1) && !(s.mover m).flights.any (fun f => f.st == 1) then
      setMovState m 2
    else Prog.skip).next s

/-- A drain: every descriptor in flight stops at an element boundary and is STOPPED (R243); a fault met before
counts as the stop (R242). -/
def drainMov (m : Nat) : Prog Unit := .get fun s =>
  if 1 < movState s m then .skip
  else
    let fly := (s.mover m).flights.filter fun f => f.st == 1
    Prog.all [
      Prog.each fly fun f => (modFlight m f.idx fun y => { y with st := 3 }).seq
        (putStatus m f.idx (statusWord 3 0 f.prog f.pfwd false) 3 .skip),
      Prog.get fun s => setMovState m (if (s.mover m).stopped then 2 else 3), movShow m]

/-- MOV_STOP; an unbound mover ignores it (R246). -/
def movStopDo (m : Fin 4) : Prog Unit := .get fun s =>
  if movState s m = 4 then setF .MOV_ERR Fld.MOV_ERR_CMDIGN m else drainMov m

/-- `execMovStop`: the command. -/
def execMovStop (m : Fin 4) (s : State) : Host.Outcome State Fault Refusal := (movStopDo m).next s

/-- RESUME: every FAULTED and STOPPED descriptor goes on from its progress (R234); one whose STATUS ILLEGAL could not be
written is judged again. -/
def movResumeDo (m : Nat) : Prog Unit := .get fun s =>
  if movState s m = 2 || movState s m = 3 then Prog.all [
      modMov m fun k => { k with
        stopped := false
        flights := k.flights.map fun f => 
          if 2 ≤ f.st then { f with st := if f.st = 4 then 0 else 1, sent := f.prog, done := [] } else f },
      setMovState m 1, movStart m, movShow m]
  else setF .MOV_ERR Fld.MOV_ERR_CMDIGN m

/-- MOV_RESUME. -/
def execMovResume (m : Fin 4) (s : State) : Host.Outcome State Fault Refusal := (movResumeDo m).next s

/-- ABORT: every descriptor held or in flight ends ABORTED, and the mover is IDLE with its ring empty (R234); an unbound
mover ignores it (R246). -/
def movAbortDo (m : Nat) : Prog Unit := .get fun s =>
  if movState s m = 4 then setF .MOV_ERR Fld.MOV_ERR_CMDIGN m
  else Prog.all [
    Prog.each (s.mover m).flights fun f => putStatus m f.idx (statusWord 5 0 0 false false) 2 .skip,
    .one (.setMov m Mover.init), setMovState m 0,
    wrF .MOV_HEAD Fld.MOV_HEAD_HEAD (s.rdF .MOV_TAIL Fld.MOV_TAIL_TAIL m) m, movShow m]

/-- MOV_ABORT. -/
def execMovAbort (m : Fin 4) (s : State) : Host.Outcome State Fault Refusal := (movAbortDo m).next s

end Sys2Proof.Machine
end

