-- ==== Sys2Proof/Machine/Policy.lean ====
section
/-!
DEFINITION. Sys2Proof/Machine/Policy.lean: pending values (R306) and the job-control firmware's answers to
the watch and to runs of skips (R194, R195).
-/

namespace Sys2Proof.Machine

/-! ### Pending values (R306) -/

/-- The pending value of an RW register; it equals the applied value until a write differs (R306). -/
def State.pending' (s : State) (k : RegKey) : Word :=
  (SMap.get (fun _ => none) s.pend k).getD (s.rd k.name k.i k.j)

/-- A pending value replaced: kept only where it differs from what is applied. -/
def pendWrite (k : RegKey) (v : Word) : Prog Unit := .get fun s =>
  let v := v &&& regMask k.name
  .one (.setPend k (if v = s.rd k.name k.i k.j then none else some v))

/-! ### The pass policy (R194) -/

/-- DISAGREE and FALLBACK of a layer tag in a cluster's count area, as firmware reads it (R193). Firmware's
reading leaves the cluster's translation unit as it is; an area that cannot be read shows no counts. -/
def areaCounts (s : State) (b c t : Nat) : Nat × Nat :=
  let a := (Tab.at 0 (s.binding b).areas c).toNat + 64 + 16 * t
  match ((vread (seqUnit s c) a 16).run s).1 with
  | .ok d => let x := leNat (d.map (·.1)); (bits 63 32 x, bits 127 112 x)
  | .error _ => (0, 0)

/-- The counts of a tag by cluster of a binding; a cluster that it did not have then counts from 0 (log 26). -/
def tagCounts (s : State) (b t : Nat) : Tab (Nat × Nat) := (s.clusters b).map fun c => (c, areaCounts s b c t)

/-- What firmware keeps of a tag. -/
def State.tagPol (s : State) (b t : Nat) : TagPolicy := Tab.at TagPolicy.init (s.binding b).pol.tags t

/-- A change to what firmware keeps of a tag. -/
def modTag (b t : Nat) (f : TagPolicy → TagPolicy) : Prog Unit := modBnd b fun k =>
  { k with pol := { k.pol with tags := Tab.upd TagPolicy.init k.pol.tags t (f (Tab.at TagPolicy.init k.pol.tags t)) } }

/-- Firmware writes a tag's floor in ARY_PASSFLOOR of every cluster of the binding (R194). -/
def writeFloor (b t x : Nat) : Prog Unit := .get fun s =>
  Prog.each (s.clusters b) fun c => .get fun s =>
    let k : RegKey := ⟨.ARY_PASSFLOOR, c, t / 32⟩
    pendWrite k (putF ⟨2 * (t % 32), 2⟩ (s.pending' k) x)

/-- The floor of a tag changes: it is kept with the commit counter and written (R194). -/
def setFloor (b t x : Nat) : Prog Unit := .get fun s =>
  (modTag b t fun p => { p with floor := x, raised := (s.binding b).commit }).seq (writeFloor b t x)

/-- The policy for one cluster and tag: `now` and `old` are the cluster's counts now and WIN steps ago. The
step down from 2 goes to 0, as the rule's remark says (log 26). -/
def policyTag (b t : Nat) (now old : Nat × Nat) : Prog Unit := .get fun s =>
  let p := (s.binding b).pol
  let k := s.tagPol b t
  let dis := now.1 - old.1
  let fb := now.2 - old.2
  if (p.raise ≤ dis || 1 ≤ fb) && k.floor < 3 then setFloor b t (if k.floor ≤ 1 then 2 else 3)
  else if 2 ≤ k.floor && p.hold ≤ (s.binding b).commit - k.raised then setFloor b t (if k.floor = 3 then 2 else 0)
  else .skip

/-- PASS_POLICY: firmware reads the count areas after a turnaround and raises or lowers pass floors (R194). -/
def execPassPolicy (b : Fin 8) (s : State) : Host.Outcome State Fault Refusal :=
  (if !s.bound b then Prog.skip
   else
    let win := max 1 (s.binding b).pol.win
    let now := (List.range 256).map fun t => tagCounts s b t
    let old (t : Nat) : Tab (Nat × Nat) := (s.tagPol b t).hist.getD (win - 1) []
    Prog.seq
      (Prog.each (s.clusters b) fun c => Prog.each (List.range 256) fun t =>
        policyTag b t (Tab.at (0, 0) (now.getD t []) c) (Tab.at (0, 0) (old t) c))
      (Prog.each (List.range 256) fun t => modTag b t fun p => { p with hist := (now.getD t [] :: p.hist).take win })).next s

/-! ### Runs of skips (R195) -/

/-- Firmware writes LND_LRSCALE of the binding's Landing Units. -/
def writeScales (l : List (Nat × Word)) : Prog Unit := Prog.each l fun e => pendWrite ⟨.LND_LRSCALE, e.1, 0⟩ e.2

/-- A change to what firmware keeps of a binding. -/
def modPol (b : Nat) (f : Policy → Policy) : Prog Unit := modBnd b fun k => { k with pol := f k.pol }

/-- SKIP_RUN_RESPONSE: firmware answers the value of LND_SKIPRUN after a turnaround (R195). A second halving
before the scale is restored keeps the value from before the first (log 26). -/
def execSkipRunResponse (b : Fin 8) (s : State) : Host.Outcome State Fault Refusal :=
  (match (s.lus b).head? with
   | none => Prog.skip
   | some lead =>
    let run := s.rdF .LND_SKIPRUN Fld.LND_SKIPRUN_COUNT lead
    let scales := (s.lus b).map fun u => (u, s.rd .LND_LRSCALE u)
    if !s.bound b then .skip
    else if run = 0 then
      let p := (s.binding b).pol
      let back := decide (p.commits + 1 = 1000) && !p.saved.isEmpty
      Prog.all [
        Prog.each (List.range 256) fun t => modTag b t fun k => { k with base := tagCounts s b t },
        Prog.when back (writeScales p.saved),
        modPol b fun p => { p with
          commits := p.commits + 1
          saved := if back then [] else p.saved }]
    else Prog.all [
      modPol b fun p => { p with commits := 0 },
      Prog.when (run == 4) (Prog.each (List.range 256) fun t =>
        let moved := (tagCounts s b t).any fun e =>
          let o := Tab.at (0, 0) (s.tagPol b t).base e.1
          decide (o.1 < e.2.1) || decide (o.2 < e.2.2)
        Prog.when moved (setFloor b t 3)),
      Prog.when (run == 8) (Prog.seq
        (modPol b fun p => { p with saved := if p.saved.isEmpty then scales else p.saved })
        (writeScales (scales.map fun (e : Nat × Word) =>
          (e.1, BitVec.ofNat 64 (b32.mul .rne (e.2.toNat % 2 ^ 32) 0x3F000000).1)))),
      Prog.when (run == 16) ((Prog.one (.emit (.numericalFailure b))).seq (.one (.emit (.rewindWanted b))))]).next s

end Sys2Proof.Machine
end

