-- ==== Sys2Proof/Machine/SuNum.lean ====
section
/-!
DEFINITION. Sys2Proof/Machine/SuNum.lean: the solver units' arithmetic (R72, R159): tables and copies of factor blocks
(R115, R123, R162), the prepared matrix (R164), the root of a block up to 512 (R165), the start and the residual of the
coupled Newton iteration (R166), and least squares in compressed rows (R175, R178). Where the spec fixes neither the order
of the operations nor their number, the outcome is an opaque function of what the unit works on (log 17).
-/

namespace Sys2Proof.Machine

/-- A binary64 or binary32 comparison `a ≤ b`; false with a NaN. -/
def fle (f : Fmt) (a b : Nat) : Bool :=
  match f.dec a, f.dec b with
  | .nan _, _ => false
  | _, .nan _ => false
  | x, y => cmpV x y != .gt

/-! ### The root table (R162) -/

/-- A root table entry. -/
abbrev RootEntry := Nat

/-- HDR. -/
def RootEntry.hdr (x : RootEntry) : Nat := bits 47 0 x
/-- The root buffer A or B. -/
def RootEntry.root (x : RootEntry) (h : Nat) : Nat := if h = 0 then bits 95 48 x else bits 143 96 x
/-- PREC. -/
def RootEntry.prec (x : RootEntry) : Nat := bits 191 144 x
/-- TABA. -/
def RootEntry.taba (x : RootEntry) : Nat := bits 239 192 x
/-- TABB. -/
def RootEntry.tabb (x : RootEntry) : Nat := bits 287 240 x
/-- DIDX. -/
def RootEntry.didx (x : RootEntry) : Nat := bits 303 288 x
/-- P. -/
def RootEntry.p (x : RootEntry) : Nat := bits 305 304 x
/-- WARM. -/
def RootEntry.warm (x : RootEntry) : Bool := bit 306 x
/-- ITMAX. -/
def RootEntry.itmax (x : RootEntry) : Nat := bits 323 308 x
/-- DAMP. -/
def RootEntry.damp (x : RootEntry) : Nat := bits 355 324 x
/-- TOL. -/
def RootEntry.tol (x : RootEntry) : Nat := bits 387 356 x
/-- ACCEPT. -/
def RootEntry.accept (x : RootEntry) : Nat := bits 419 388 x
/-- NSCHED. -/
def RootEntry.nsched (x : RootEntry) : Nat := bits 467 420 x
/-- WORK. -/
def RootEntry.work (x : RootEntry) : Nat := bits 515 468 x
/-- INFORCE. -/
def RootEntry.inforce (x : RootEntry) : Nat := bits 564 564 x
/-- HASROOT. -/
def RootEntry.hasroot (x : RootEntry) : Bool := bit 565 x
/-- AGE. -/
def RootEntry.age (x : RootEntry) : Nat := bits 655 624 x
/-- FPRINT. -/
def RootEntry.fprint (x : RootEntry) : Nat := bits 719 656 x

/-- Whether an entry is legal for a block of width `w` (R162): `same` says that every entry of its record carries its
tables, `lent` that the unit has a lent cluster. -/
def RootEntry.ok (x : RootEntry) (w : Nat) (lent same : Bool) : Bool :=
  (x.p == 1 || x.p == 2) && !bit 307 x && bits 527 516 x == 0 && bits 575 566 x == 0 && bits 1023 720 x == 0 &&
  same && x.root 0 % 2048 == 0 && x.root 1 % 2048 == 0 && x.taba % 64 == 0 && x.tabb % 64 == 0 &&
  !b32.nonfinite x.damp && !b32.sign x.damp && x.damp != 0 && fle b32 x.tol x.accept &&
  (if w ≤ 512 then x.nsched == 0 && x.work == 0 else lent && x.itmax != 0 && x.work % 2048 == 0)

/-- Whether every entry of a block's record carries its tables (R162). -/
def sameTables (tab : List Nat) (x : RootEntry) : Bool :=
  tab.all fun (y : RootEntry) => y.prec != RootEntry.prec x ||
    (y.taba == RootEntry.taba x && y.tabb == RootEntry.tabb x)

/-! ### Factor blocks (R115, R123) -/

/-- Fields of the block header that the unit uses (R123). -/
structure FacHdr where
  seq   : Nat
  data  : Nat
  width : Nat
  side  : Nat
  ltag  : Nat
  wsum  : Nat
  gen   : Nat
deriving DecidableEq, Repr

/-- A factor block header of 512 bits. -/
def facHdr (x : Nat) : FacHdr :=
  ⟨bits 63 0 x, bits 111 64 x, bits 140 128 x, bits 141 141 x, bits 159 152 x, bits 191 160 x, bits 223 192 x⟩

/-- The header of a copy. -/
def FacCopy.h (c : FacCopy) : FacHdr := facHdr c.hdr.toNat

/-- The first 64 bits of a SHA-384 digest, its first byte least significant. -/
def sha64 (d : List Byte) : Nat := leNat ((shaBytes d).take 8)

/-- The fingerprint of a root (R168). -/
def rootPrint (h : FacHdr) (p : Nat) : Nat :=
  sha64 (leBytes 8 h.width ++ leBytes 8 h.side ++ leBytes 8 h.ltag ++ leBytes 8 p)

/-- w′ (R166, R169). -/
def padded (w : Nat) : Nat := (w + 63) / 64 * 64

/-- The place of diagonal tile `i` of a block of `t` tiles a side (R115). -/
def diagTile (t i : Nat) : Nat := i * t - i * (i - 1) / 2

/-- Entry (`i`, `j`) of a factor as the unit takes it: those with `i ≤ j` are the lower triangle's mirror (R116). -/
def FacCopy.entry (c : FacCopy) (i j : Nat) : Nat :=
  let a := min i j
  let b := max i j
  (c.tiles.getD (diagTile (padded c.h.width / 64) (a / 64) + (b / 64 - a / 64)) []).getD (64 * (a % 64) + b % 64) 0

/-! ### binary64 (R72) -/

/-- A binary32 code in binary64, exactly. -/
def wide64 (x : Nat) : Nat := (b64.ofV .rne (b32.dec x)).1

/-- A number in binary64. -/
def int64 (n : Nat) : Nat := (b64.ofV .rne (.fin false n 0)).1

/-- A binary64 code in binary32 by RNE (R56). -/
def narrow64 (x : Nat) : Nat × Flags := convert b64 b32 false .rne x

/-- The sum of binary64 codes; where an order of additions matters, it is free. -/
def sum64 : List Nat → Nat
  | [] => 0
  | [x] => x
  | l => (Config.sum64 (l.map (BitVec.ofNat 64))).toNat

/-- The codes of a list of numbers. -/
def words64 (l : List Nat) : List (BitVec 64) := l.map (BitVec.ofNat 64)

/-- The flags of a list of results. -/
def flagsOf (l : List (Nat × Flags)) : Flags := l.foldl (fun a r => a.or r.2) Flags.none

/-! ### The prepared matrix (R164) -/

/-- Entry (`i`, `j`) of `Fh`: F over WSUM (R125). -/
def FacCopy.fh (c : FacCopy) (i j : Nat) : Nat := (b64.div .rne (wide64 (c.entry i j)) (wide64 c.h.wsum)).1

/-- tr, the trace of `Fh` over its width. -/
def FacCopy.trace (c : FacCopy) : Nat :=
  (b64.div .rne (sum64 ((List.range c.h.width).map fun i => c.fh i i)) (int64 c.h.width)).1

/-- Whether the prepared matrix can be formed: the trace is finite and positive. -/
def traceOk (tr : Nat) : Bool := !b64.nonfinite tr && !b64.sign tr && tr != 0

/-- delta. -/
def FacCopy.delta (c : FacCopy) (damp : Nat) : Nat := (b64.mul .rne (wide64 damp) c.trace).1

/-- `A` with a given delta, in rows. -/
def FacCopy.prepared (c : FacCopy) (delta : Nat) : List Nat :=
  (List.range (c.h.width * c.h.width)).map fun n =>
    let i := n / c.h.width
    let j := n % c.h.width
    if i = j then (b64.add .rne (c.fh i j) delta).1 else c.fh i j

/-- What a block's copy allows: 0 where work may begin, 8 for a block without data, 7 for a trace that cannot be taken
(R163, R164). -/
def FacCopy.code (c : FacCopy) : Nat := if c.h.gen = 0 then 8 else if traceOk c.trace then 0 else 7

/-! ### Roots of blocks up to 512 (R165) -/

/-- The *p*-th root, for P = 1 the square root and for P = 2 the fourth. -/
def pRoot (p x : Nat) : Nat :=
  let y := (b64.sqrt .rne x).1
  if p = 1 then y else (b64.sqrt .rne y).1

/-- The power −1/*p*, the reciprocal root of R66. -/
def invRoot (p x : Nat) : Nat × Flags := b64.rsq .rne (if p = 1 then x else (b64.sqrt .rne x).1)

/-- The root of a matrix that factored: eigenvalues raised to delta, the product, made symmetric and written in binary32;
none where the QL sweeps exceed 30 *w*. -/
def spectralRoot (w p delta : Nat) (a : List (BitVec 64)) : Option (List (Nat × Flags)) :=
  if 30 * w < Config.qlSweeps w a then none
  else
    let g := (Config.eigenvalues w a).map fun x => (invRoot p (b64.max x.toNat delta).1).1
    let m := Config.spectral w (Config.eigenvectors w a) (words64 g)
    let at' (i j : Nat) : Nat := (m.getD (i * w + j) 0).toNat
    some ((List.range (w * w)).map fun n =>
      let i := min (n / w) (n % w)
      let j := max (n / w) (n % w)
      narrow64 (b64.div .rne (b64.add .rne (at' i j) (at' j i)).1 (int64 2)).1)

/-- The factorisation, with up to `n` repeats at ten times the delta. -/
def FacCopy.root (c : FacCopy) (p : Nat) : Nat → Nat → Option (List (Nat × Flags))
  | n, delta =>
    let a := words64 (c.prepared delta)
    if Config.pivotsPositive c.h.width a then spectralRoot c.h.width p delta a
    else match n with
      | 0 => none
      | n + 1 => c.root p n (b64.mul .rne delta (int64 10)).1

/-- A matrix of rows of `w` in rows of w′, padded with +0 (R169). -/
def rootBytes (w : Nat) (l : List Nat) : List Byte :=
  let n := padded w
  (List.range (n * n)).flatMap fun k =>
    let i := k / n
    let j := k % n
    leBytes 4 (if i < w && j < w then l.getD (i * w + j) 0 else 0)

/-! ### Newton iterations (R166) -/

/-- The cold start: X = I over the *p*-th root of the Frobenius norm of `A`, M = `A` over that norm. -/
def coldStart (w p : Nat) (a : List Nat) : List (Nat × Flags) × List (Nat × Flags) :=
  let f := (Config.norm2 (words64 a)).toNat
  let x := b64.div .rne (int64 1) (pRoot p f)
  ((List.range (w * w)).map fun n => if n / w = n % w then narrow64 x.1 else (0, Flags.none),
   a.map fun y => narrow64 (b64.div .rne y f).1)

/-- The residual of M: the Frobenius norm of I − M over √*w*, as binary64. -/
def residualOf (w : Nat) (m : List Nat) : Nat :=
  let d := (List.range (w * w)).map fun n =>
    (b64.sub .rne (if n / w = n % w then int64 1 else 0) (wide64 (m.getD n 0))).1
  (b64.div .rne (Config.norm2 (words64 d)).toNat (b64.sqrt .rne (int64 w)).1).1

/-- The residual from the clusters' partial sums of squares. -/
def residualFrom (w : Nat) (sums : List Nat) : Nat × Flags :=
  narrow64 (b64.div .rne (b64.sqrt .rne (sum64 sums)).1 (b64.sqrt .rne (int64 w)).1).1

/-! ### Least squares (R175 to R178) -/

/-- A job descriptor (R177). -/
abbrev JobDesc := Nat

/-- KIND. -/
def JobDesc.kind (d : JobDesc) : Nat := bits 3 0 d
/-- WARM. -/
def JobDesc.warm (d : JobDesc) : Bool := bit 8 d
/-- STRUCT. -/
def JobDesc.struct' (d : JobDesc) : Nat := bits 79 32 d
/-- XBASE. -/
def JobDesc.xbase (d : JobDesc) : Nat := bits 127 80 d
/-- RBASE. -/
def JobDesc.rbase (d : JobDesc) : Nat := bits 175 128 d
/-- CLBASE. -/
def JobDesc.clbase (d : JobDesc) : Nat := bits 223 176 d
/-- OUTBASE. -/
def JobDesc.outbase (d : JobDesc) : Nat := bits 271 224 d
/-- STATBASE. -/
def JobDesc.stat (d : JobDesc) : Nat := bits 319 272 d
/-- WORK. -/
def JobDesc.work (d : JobDesc) : Nat := bits 367 320 d
/-- DEADLINE. -/
def JobDesc.deadline (d : JobDesc) : Nat := bits 415 368 d
/-- CYCBUD. -/
def JobDesc.cycbud (d : JobDesc) : Nat := bits 447 416 d
/-- TOL. -/
def JobDesc.tol (d : JobDesc) : Nat := bits 511 448 d
/-- ACCEPT. -/
def JobDesc.accept (d : JobDesc) : Nat := bits 575 512 d
/-- ITMAX. -/
def JobDesc.itmax (d : JobDesc) : Nat := bits 655 640 d
/-- OUTMAX. -/
def JobDesc.outmax (d : JobDesc) : Nat := bits 663 656 d
/-- EVCL. -/
def JobDesc.evcl (d : JobDesc) : Nat := bits 668 664 d
/-- EVTOK. -/
def JobDesc.evtok (d : JobDesc) : Nat := bits 674 669 d

/-- Whether a descriptor holds no reserved value (R177). -/
def JobDesc.ok (d : JobDesc) : Bool :=
  if d.kind = 1 then d % 2 ^ 32 == 1 && bits 271 80 d == 0 && bits 1023 320 d == 0
  else d.kind == 2 && decide (bits 5 4 d ≤ 1) && decide (bits 7 6 d ≤ 2) && bits 31 9 d == 0 && bits 1023 675 d == 0 &&
    decide (1 ≤ d.itmax) && decide (1 ≤ d.outmax)

/-- A structure header (R175). -/
structure Struct where
  m      : Nat
  n      : Nat
  rowptr : Nat
  colidx : Nat
  values : Nat
  nnz    : Nat
  bsize  : Nat
  fprint : Nat
  loaded : Bool
deriving DecidableEq, Repr

/-- A header of 512 bits. -/
def structOf (x : Nat) : Struct :=
  ⟨bits 31 0 x, bits 63 32 x, bits 111 64 x, bits 159 112 x, bits 207 160 x, bits 247 208 x, bits 254 248 x,
   bits 319 256 x, bit 320 x⟩

/-- Whether ROWPTR and COLIDX keep R175. -/
def structOk (t : Struct) (addr : Nat) (res : Bool) (rows cols : List Nat) : Bool :=
  res && addr % 64 == 0 && decide (1 ≤ t.m) && decide (1 ≤ t.n) && decide (t.bsize ≤ 64) && rows.head? == some 0 &&
  rows.getLast? == some t.nnz && decide (rows.Pairwise (· ≤ ·)) && cols.all (· < t.n)

/-- A matrix in compressed rows, as it stands in memory. -/
structure Csr where
  rows : List Nat
  cols : List Nat
  vals : List (BitVec 64)
deriving DecidableEq, Repr

/-- The address of an output half (R181): half 1 begins at the first 2 KiB boundary after half 0. -/
def outHalf (d : JobDesc) (n h : Nat) : Nat := if h = 0 then d.outbase else (d.outbase + 8 * n + 2047) / 2048 * 2048

/-- ρ: the norm of the gradient over that of the first, and 0 where the first is 0 (R178). -/
def rhoOf (g0 g : Nat) : Nat × Flags := if g0 % 2 ^ 63 = 0 then (0, Flags.none) else b64.div .rne g g0

/-- x + δ. -/
def stepBy (x delta : List (BitVec 64)) (n : Nat) : List (Nat × Flags) :=
  (List.range n).map fun i => b64.add .rne (x.getD i 0).toNat (delta.getD i 0).toNat

end Sys2Proof.Machine
end

