-- ==== Sys2Proof/Machine/Solver.lean ====
section
/-!
DEFINITION. Sys2Proof/Machine/Solver.lean: the solver units (R159 to R182): root rounds, publication, least-squares jobs,
deadlines and budgets, drains and faults.
-/

namespace Sys2Proof.Machine

/-- STATE of a solver unit (R182). -/
def suState (s : State) (u : Nat) : Nat := s.rdF .SLV_STATUS Fld.SLV_STATUS_STATE u

/-- A new STATE. -/
def setSuState (u x : Nat) : Prog Unit := wrF .SLV_STATUS Fld.SLV_STATUS_STATE x u

/-- The unit works in its local store (R159, R221): what the store holds from here on is its own, and free (log 87). -/
def suWork (u x : Nat) : Prog Unit := .get fun s => Prog.all [
  .one (.setDraws (s.draws + 1)), .one (.clearStore u),
  .one (.setSu u { s.solver u with works := s.draws + 1, spoilt := false }), setSuState u x]

/-- `n` free numbers. -/
def freeWords : Nat → Prog (List (BitVec 64))
  | 0 => .ret []
  | n + 1 => freeVal.bind fun v => (freeWords n).bind fun l => .ret (v :: l)

/-- A result of the work in progress, or free numbers in its place where a mover has written the local store during the
work (R221; log 87). -/
def unlessSpoilt {α : Type} (u : Nat) (x : α) (n : Nat) (f : List (BitVec 64) → α) : Prog α := .get fun s =>
  if (s.solver u).spoilt then (freeWords n).bind fun l => .ret (f l) else .ret x

/-- The address of an entry. -/
def rtabAddr (s : State) (u i : Nat) : Nat := (s.rd .SLV_RTAB_BASE u).toNat + 128 * i

/-- Entries of the root table. -/
def rtabCount (s : State) (u : Nat) : Nat := s.rdF .SLV_RTAB_COUNT Fld.SLV_RTAB_COUNT_COUNT u

/-- A read of the unit as a number. -/
def suGet (u a n : Nat) : Prog (Except Flt Nat) := .get fun s =>
  (vget (suUnit s u) a n).bindE fun d => .ret (.ok (leNat d))

/-- A read of `n` values of `w` bytes each. -/
def suList (u a w n : Nat) : Prog (Except Flt (List Nat)) := .get fun s =>
  (vget (suUnit s u) a (w * n)).bindE fun d => .ret (.ok ((chunks w (n + 1) d).map leNat))

/-- A write of the unit. -/
def suPut (u a : Nat) (d : List Byte) : Prog (Except Flt Unit) := .get fun s => vput (suUnit s u) a d

/-- A fault of the unit is reported (R174, R182). -/
def suReport (u : Nat) (f : Flt) : Prog Unit := .get fun s =>
  (setF .SLV_ERR Fld.SLV_ERR_FAULT u).seq (logFault (suUnit s u) f)

/-- A fault stops the unit (R174, R240). -/
def suFaultStop (u : Nat) (f : Flt) : Prog Unit :=
  if f.isWait then .skip else (suReport u f).seq (setSuState u 7)

/-- Work of the unit, and what becomes of its fault. -/
def suDo (p : Prog (Except Flt Unit)) (onFault : Flt → Prog Unit) : Prog Unit :=
  p.bind fun r =>
    match r with
    | .ok _ => .skip
    | .error f => onFault f

/-- Flags of the unit's work (R71, R72): those of the results that the model forms, and free ones of the operations whose
order the spec does not fix (log 17). -/
def suFlags (u : Nat) (f : Flags) : Prog Unit :=
  freeVal.bind fun v => addFlags .SLV_FLAGS (f.toNat ||| v.toNat % 8) u

/-- A condition set, an event of a unit. -/
def suEvent (u : Nat) (f : Field) : Prog Unit := (setF .SLV_EVT f u).seq (.one (.emit (.solver u)))

/-- Every entry of the table. -/
def readTable (u : Nat) : Prog (Except Flt (List Nat)) := .get fun s =>
  Prog.mapE (List.range (rtabCount s u)) fun i => suGet u (rtabAddr s u i) 128

/-! ### Rounds (R161, R163) -/

/-- A round as it begins. -/
def Round.start (n d : Nat) : Round :=
  { number := n, deadline := d, cur := 0, stage := 0, iters := 0, warm := false, formed := false, reading := none,
    copy := none, blocks := [] }

/-- ROOT_ROUND_START: a round that has fallen due begins where the unit is free (R161, R163). -/
def execRootRoundStart (s' : Fin 2) (s : State) : Host.Outcome State Fault Refusal :=
  (Prog.get fun s =>
    let k := s.solver s'
    match k.due with
    | [] => .skip
    | (n, d) :: r =>
      if k.round.isNone && k.job.isNone && suState s s' == 1 then Prog.all [
        modSu s' fun k => { k with due := r, round := some (Round.start n d) },
        setF .SLV_STATUS Fld.SLV_STATUS_ROUND s', wrF .SLV_STATUS Fld.SLV_STATUS_ROUNDNO n s']
      else .skip).next s

/-- A change to the round in progress. -/
def modRound (u : Nat) (f : Round → Round) : Prog Unit := modSu u fun k => { k with round := k.round.map f }

/-- The block in work. -/
def modBlock (u : Nat) (f : SuBlock → SuBlock) : Prog Unit :=
  modRound u fun r => { r with blocks := Tab.upd SuBlock.init r.blocks r.cur (f (Tab.at SuBlock.init r.blocks r.cur)) }

/-- The lent clusters start a run of the Newton schedule (R166). -/
def startLent (u nsched : Nat) : Prog Unit := .get fun s =>
  Prog.each (lentOf s u) fun c => Prog.all [startAt c (BitVec.ofNat 48 nsched),
    modCl c fun k => { k with lentRun := true }, showSeq c]

/-- The block in hand fails by a fault: a factorisation fails, an iteration stops (R174). -/
def suBlockFault (u w : Nat) (f : Flt) : Prog Unit :=
  if f.isWait then .skip
  else if w ≤ 512 then (suReport u f).seq (suOutcome u 7) else suFaultStop u f

/-- A matrix of WORK, of rows of w′ (R166). -/
def workAddr (x : RootEntry) (w i : Nat) : Nat := x.work + Config.workMatrix w i

/-- The rows below `w` of a matrix of rows of w′. -/
def trimRows (w : Nat) (l : List Nat) : List Nat :=
  (List.range (w * w)).map fun n => l.getD (n / w * padded w + n % w) 0

/-- The start of the iteration is formed in WORK and the clusters start: a warm one from the root in force, unless its
first residual is 1 or more, else a cold one (R166, R168). -/
def newtonStart (u : Nat) (x : RootEntry) (r : Round) (c : FacCopy) : Prog (Except Flt Unit) :=
  let w := c.h.width
  let n := padded w
  let a := c.prepared (c.delta x.damp)
  let store (m : List (Nat × Flags) × List (Nat × Flags)) (warm : Bool) : Prog (Except Flt Unit) :=
    (if warm then Prog.ret (.ok ()) else suPut u (workAddr x w 0) (rootBytes w (m.1.map (·.1)))).bindE fun _ =>
    (suPut u (workAddr x w 2) (rootBytes w (m.2.map (·.1)))).bindE fun _ =>
    (Prog.all [suFlags u ((flagsOf m.1).or (flagsOf m.2)), modRound u fun r => { r with formed := true, warm := warm },
      startLent u x.nsched]).seq (.ret (.ok ()))
  let cold := coldStart w x.p a
  if !r.warm then store cold false
  else (suList u (x.root x.inforce) 4 (n * n)).bindE fun old =>
    freeVal.bind fun v =>
    let m := (Config.warmProduct v.toNat w x.p ((trimRows w old).map (BitVec.ofNat 32)) (words64 a)).map (·.toNat)
    if fle b64 (int64 1) (residualOf w m) || b64.nonfinite (residualOf w m) then store cold false
    else (suPut u (workAddr x w 0) (rootBytes w (trimRows w old))).bindE fun _ =>
      store ([], m.map fun y => (y, Flags.none)) true

/-- The start is formed, or its fault stops the unit. -/
def newtonGo (u : Nat) : Prog Unit := .get fun s =>
  match (s.solver u).round with
  | some r =>
    match r.copy with
    | some c => suDo ((suGet u (rtabAddr s u r.cur) 128).bindE fun x => newtonStart u x r c) (suFaultStop u)
    | none => .skip
  | none => .skip

/-- The second reading of SEQ agrees: the block is worked on, or ends (R163, R166, R168). -/
def beginBlock (u : Nat) (x : RootEntry) (c : FacCopy) : Prog Unit :=
  let w := c.h.width
  let fp := rootPrint c.h x.p
  let warm := x.warm && x.hasroot && decide (512 < w)
  if c.code ≠ 0 then (suFlags u Flags.none).seq (suOutcome u c.code)
  else Prog.all [
    modBlock u fun b => { b with fprint := BitVec.ofNat 64 fp },
    Prog.when (warm && fp != x.fprint)
      ((setF .SLV_EVT Fld.SLV_EVT_WARM_REJECT u).seq (bumpF .SLV_WARMREJCNT Fld.SLV_WARMREJCNT_COUNT 1 u)),
    modRound u fun r => { r with
      stage := if w ≤ 512 then 1 else 2
      reading := none
      copy := some c
      warm := warm && fp == x.fprint },
    suWork u (if w ≤ 512 then 2 else 3),
    Prog.when (decide (512 < w)) (newtonGo u)]

/-- The tiles of a block, by rows of elements (R115). -/
def readTiles (u : Nat) (h : FacHdr) : Prog (Except Flt (List (List Nat))) :=
  Prog.mapE (List.range (padded h.width / 64 * (padded h.width / 64 + 1) / 2)) fun n =>
    suList u (h.data + 16384 * n) 4 4096

/-- FACTOR_BLOCK_READ: the block in work is read between two equal, even readings of SEQ (R124): one command
takes the first reading and the copy, the next the second reading. -/
def execFactorBlockRead (s' : Fin 2) (s : State) : Host.Outcome State Fault Refusal :=
  (Prog.get fun s =>
    match (s.solver s').round with
    | none => .skip
    | some r =>
      if r.stage ≠ 0 || suState s s' ≠ 1 || r.cur ≥ rtabCount s s' then .skip
      else
        (suGet s' (rtabAddr s s' r.cur) 128).bind fun e =>
        match e with
        | .error f => suBlockFault s' 0 f
        | .ok x =>
          (suGet s' (RootEntry.hdr x) 64).bind fun e =>
          match e with
          | .error f => suBlockFault s' 0 f
          | .ok hw =>
            let h := facHdr hw
            match r.reading with
            | some c =>
              if h.seq = c.h.seq then beginBlock s' x c
              else Prog.all [modRound s' fun r => { r with reading := none }, setF .SLV_EVT Fld.SLV_EVT_REREAD s',
                bumpF .SLV_REREADCNT Fld.SLV_REREADCNT_COUNT 1 s']
            | none =>
              (readTable s').bind fun e =>
              match e with
              | .error f => suBlockFault s' 0 f
              | .ok tab =>
                if !RootEntry.ok x h.width (!(lentOf s s').isEmpty) (sameTables tab x) then
                  (setF .SLV_ERR Fld.SLV_ERR_TABLE s').seq (suOutcome s' 7)
                else if h.seq % 2 = 1 then .skip
                else
                  (readTiles s' h).bind fun e =>
                  match e with
                  | .error f => suBlockFault s' h.width f
                  | .ok tiles => modRound s' fun r => { r with reading := some ⟨BitVec.ofNat 512 hw, tiles⟩ }).next s

/-- FACTORISATION_DONE: the root of the unit's copy is written into the buffer that INFORCE does not name and the block is
ready, or it fails (R165, R167). -/
def execFactorisationDone (s' : Fin 2) (s : State) : Host.Outcome State Fault Refusal :=
  (Prog.get fun s =>
    match (s.solver s').round with
    | none => .skip
    | some r =>
      match r.copy with
      | none => .skip
      | some c =>
        if r.stage ≠ 1 || suState s s' ≠ 2 then .skip
        else suDo ((suGet s' (rtabAddr s s' r.cur) 128).bindE fun (x : RootEntry) =>
          (unlessSpoilt s' (c.root x.p 3 (c.delta x.damp)) (c.h.width * c.h.width + 1) fun l =>
            if (l.headD 0).getLsbD 0 then none else some (l.tail.map fun (v : BitVec 64) => (v.toNat % 2 ^ 32, Flags.none))).bind fun root =>
          match root with
          | none => ((suFlags s' Flags.none).seq (suOutcome s' 7)).seq (.ret (.ok ()))
          | some l =>
            (suPut s' (x.root (1 - x.inforce)) (rootBytes c.h.width (l.map (·.1)))).bindE fun _ =>
            (Prog.all [suFlags s' (flagsOf l), suEntryMod s' r.cur fun x => putBits 623 592 x 0,
              modBlock s' fun b => { b with ready := true }, suOutcome s' 1]).seq (.ret (.ok ()))) fun f => suBlockFault s' 0 f).next s

/-- What a completed iterate with residual `res` decides (R166, R167). -/
def judgeNewton (u : Nat) (x : RootEntry) (n res : Nat) : Prog Unit :=
  let ok := fle b32 res x.accept
  Prog.all [
    count (setSu u) 0x41,
    modRound u fun r => { r with iters := n },
    modBlock u fun b => { b with ready := ok },
    if fle b32 res x.tol then suOutcome u 1
    else if n ≥ x.itmax then suOutcome u (if ok then 2 else 3)
    else startLent u x.nsched]

/-- NEWTON_ITERATE_DONE: the lent clusters have ended the schedule: the unit combines their partial sums into the residual,
an acceptable X is copied into the buffer that INFORCE does not name, and the next run starts or the block ends (R166,
R167). -/
def execNewtonIterateDone (s' : Fin 2) (s : State) : Host.Outcome State Fault Refusal :=
  (Prog.get fun s =>
    match (s.solver s').round with
    | none => .skip
    | some r =>
      match r.copy with
      | none => .skip
      | some c =>
        if r.stage ≠ 2 || !r.formed || suState s s' ≠ 3 || (lentOf s s').any fun c => (s.cluster c).lentRun then .skip
        else suDo ((suGet s' (rtabAddr s s' r.cur) 128).bindE fun (x : RootEntry) =>
          let w := c.h.width
          let n := r.iters + 1
          (Prog.mapE (Config.workSums w) fun o => suGet s' (x.work + o) 8).bindE fun sums =>
          (unlessSpoilt s' (residualFrom w sums) 1 fun l => ((l.headD 0).toNat % 2 ^ 32, Flags.none)).bind fun e =>
          if b32.nonfinite e.1 then ((suFlags s' e.2).seq (suOutcome s' 7)).seq (.ret (.ok ()))
          else
            (if fle b32 e.1 x.accept then
                (suList s' (workAddr x w (n % 2)) 4 (padded w * padded w)).bindE fun y =>
                  suPut s' (x.root (1 - x.inforce)) (rootBytes w (trimRows w y))
              else Prog.ret (.ok ())).bindE fun _ =>
            (Prog.all [suFlags s' e.2, suEntryMod s' r.cur fun y => putBits 591 576 (putBits 623 592 y e.1) n,
              judgeNewton s' x n e.1]).seq (.ret (.ok ()))) fun f => suFaultStop s' f).next s

/-- The round's entries not reached end with NONE (R170, R172). -/
def suUnreached (u : Nat) (stale : Bool) : Prog Unit := .get fun s =>
  match (s.solver u).round with
  | none => .skip
  | some r => Prog.each ((List.range (rtabCount s u)).drop r.cur) fun i => Prog.all [
      suEntryMod u i fun x => putBits 563 560 (putBits 559 528 x r.number) 0,
      Prog.when stale (suCount u 0),
      modRound u fun r => { r with
        cur := i + 1
        blocks := Tab.upd SuBlock.init r.blocks i { Tab.at SuBlock.init r.blocks i with outcome := some 0 } }]

/-- The block in work ends at a deadline or a spent budget (R172). -/
def suCut (u : Nat) : Prog Unit := .get fun s =>
  match (s.solver u).round with
  | none => .skip
  | some r =>
    (Prog.when (decide (r.stage = 1)) (suOutcome u 6)).seq
      ((Prog.when (decide (r.stage = 2)) ((stopLent u).seq
        (suOutcome u (if (Tab.at SuBlock.init r.blocks r.cur).ready then 4 else 5)))).seq (suUnreached u true))

/-- A root in force that a round has not renewed ages (R171). -/
def rootAges (x : Nat) : Nat :=
  if RootEntry.hasroot x then putBits 655 624 x (satAdd 32 (RootEntry.age x) 1) else x

/-- A round ends: the roots in force that were not renewed age, and the event is raised (R171, R182). -/
def suRoundEnd (u : Nat) : Prog Unit := .get fun s =>
  match (s.solver u).round with
  | none => .skip
  | some r => Prog.all [
      Prog.each (List.range (rtabCount s u)) fun i =>
        if (Tab.at SuBlock.init r.blocks i).pub then .skip else suEntryMod u i rootAges,
      modSu u fun k => { k with round := none },
      wrF .SLV_STATUS Fld.SLV_STATUS_ROUND 0 u, suEvent u Fld.SLV_EVT_ROUNDDONE, suFree u]

/-- A round whose deadline comes before the unit could begin it: no block was reached (R161, R170, R172). -/
def suMissed (u n : Nat) : Prog Unit := .get fun s => Prog.all [
  Prog.each (List.range (rtabCount s u)) fun i =>
    (suEntryMod u i fun x => rootAges (putBits 563 560 (putBits 559 528 x n) 0)).seq (suCount u 0),
  wrF .SLV_STATUS Fld.SLV_STATUS_ROUNDNO n u, suEvent u Fld.SLV_EVT_ROUNDDONE]

/-! ### Publication of roots (R171) -/

/-- The descriptor of a root (R169). -/
def rootDesc (base w : Nat) : Nat :=
  let n := padded w
  base % 2 ^ 48 + 2 * 2 ^ 52 + n * 2 ^ 64 + 1 * 2 ^ 88 + n * 2 ^ 124 + n * 2 ^ 148

/-- One record is given the other table, with a descriptor for each of its blocks (R171). -/
def publishRecord (u prec : Nat) : Prog (Except Flt Unit) :=
  (readTable u).bindE fun tab =>
  let mine := tab.filter fun (x : RootEntry) => x.prec == prec
  match mine with
  | [] => .ret (.ok ())
  | x :: _ =>
    (suGet u prec 64).bindE fun p =>
    let other := if bits 191 144 p = RootEntry.taba x then RootEntry.tabb x else RootEntry.taba x
    (Prog.mapE mine fun (y : RootEntry) => (suGet u y.hdr 64).bindE fun h =>
      suPut u (other + 64 * y.didx) (leBytes 64 (rootDesc (y.root y.inforce) (facHdr h).width))).bindE fun _ =>
    let no := if mine.all RootEntry.hasroot then 0 else 1
    suPut u prec (leBytes 64 (putBits 192 192 (putBits 191 144 p other) no))

/-- Blocks to be published: ready, and with an outcome that publishes (R171). -/
def publishable (r : Round) : List Nat :=
  (r.blocks.filter fun b => b.2.ready && (b.2.outcome == some 1 || b.2.outcome == some 2 || b.2.outcome == some 4)).map (·.1)

/-- Publication of the round's ready blocks at a strobe (R171). -/
def publishRoots (u : Nat) : Prog Unit := .get fun s =>
  match (s.solver u).round with
  | none => .skip
  | some r =>
    let ids := publishable r
    Prog.all [
      Prog.each ids fun i => (suEntryMod u i fun x =>
          putBits 719 656 (putBits 655 624 (putBits 565 564 x (2 + (1 - RootEntry.inforce x))) 0)
            (Tab.at SuBlock.init r.blocks i).fprint.toNat).seq
        (modRound u fun r =>
          let b := Tab.at SuBlock.init r.blocks i
          { r with blocks := Tab.upd SuBlock.init r.blocks i { b with ready := false, pub := true } }),
      (readTable u).bind fun e =>
        match e with
        | .error f => suReport u f
        | .ok tab =>
          let precs := (ids.map fun i => RootEntry.prec (tab.getD i 0)).eraseDups
          Prog.each precs fun p => suDo (publishRecord u p) (suReport u)]

/-! ### Least squares (R175 to R181) -/

/-- The status record changed (R181). -/
def statMod (u a : Nat) (f : Nat → Nat) : Prog (Except Flt Unit) :=
  (suGet u a 64).bindE fun x => suPut u a (leBytes 64 (f x))

/-- A job ends: the end code is written and the event raised (R181, R182). The cycles used are a free
value. -/
def jobEnd (u : Nat) (stat code : Nat) : Prog Unit :=
  freeVal.bind fun cyc =>
  Prog.all [suDo (statMod u stat fun x => putBits 303 272 (putBits 67 64 x code) cyc.toNat) (suReport u),
    modSu u fun k => { k with job := none }, wrF .SLV_STATUS Fld.SLV_STATUS_JOB 0 u,
    suEvent u Fld.SLV_EVT_JOBDONE, suFree u]

/-- A job ends with a result that the next turnaround publishes (R181). -/
def jobEndPublish (u stat code : Nat) (rho : BitVec 64) : Prog Unit :=
  (modSu u fun k => { k with publish := k.publish ++ [⟨stat, rho⟩] }).seq (jobEnd u stat code)

/-- A job as it is taken. -/
def Job.start (a : Nat) (d : JobDesc) : Job :=
  { addr := a, desc := BitVec.ofNat 1024 d, k := 0, g0 := 0, rho := 0, ready := false,
    phase := if JobDesc.kind d = 1 then .load else .setup, warm := false, fixed := none }

/-- A descriptor is taken from the queue, and its job begins (R161, R182). -/
def jobTake (u size head a : Nat) (d : JobDesc) : Prog Unit := Prog.all [
  wrF .SLV_JQ_HEAD Fld.SLV_JQ_HEAD_HEAD ((head + 1) % size) u,
  wrF .SLV_CURJOB Fld.SLV_CURJOB_ADDR a u,
  modSu u fun k => { k with job := some (Job.start a d) },
  setF .SLV_STATUS Fld.SLV_STATUS_JOB u, suFree u]

/-- The next descriptor of the queue, its address and its place in the ring; none where none is posted. -/
def State.jobNext (s : State) (u : Nat) : Option (Nat × Nat × Nat) :=
  let size := s.rdF .SLV_JQ_CTRL Fld.SLV_JQ_CTRL_SIZE u
  let head := s.rdF .SLV_JQ_HEAD Fld.SLV_JQ_HEAD_HEAD u
  if size = 0 || head = s.rdF .SLV_JQ_TAIL Fld.SLV_JQ_TAIL_TAIL u then none
  else some (size, head, (s.rd .SLV_JQ_BASE u).toNat + 128 * head)

/-- An illegal job ends at once (R177). -/
def jobIllegal (u stat : Nat) : Prog Unit := (setF .SLV_ERR Fld.SLV_ERR_ILLEGAL u).seq (jobEnd u stat 0xA)

/-- A change to the job in progress. -/
def modJob (u : Nat) (f : Job → Job) : Prog Unit := modSu u fun k => { k with job := k.job.map f }

/-- The matrix of a structure. -/
def readCsr (u : Nat) (t : Struct) : Prog (Except Flt Csr) :=
  (suList u t.rowptr 8 (t.m + 1)).bindE fun rows =>
  (suList u t.colidx 4 t.nnz).bindE fun cols =>
  (suList u t.values 8 t.nnz).bindE fun vals => .ret (.ok ⟨rows, cols, words64 vals⟩)

/-- A LOAD: the structure is checked and fingerprinted (R176). -/
def loadRun (u : Nat) (d : JobDesc) : Prog (Except Flt Unit) := .get fun s =>
  (suGet u (JobDesc.struct' d) 64).bindE fun x =>
  let t := structOf x
  let res := !bit 255 x && bits 511 321 x == 0
  (vget (suUnit s u) t.rowptr (8 * (t.m + 1))).bindE fun rb =>
  (vget (suUnit s u) t.colidx (4 * t.nnz)).bindE fun cb =>
  if !structOk t (JobDesc.struct' d) res ((chunks 8 (t.m + 2) rb).map leNat) ((chunks 4 (t.nnz + 1) cb).map leNat) then
    (suPut u (JobDesc.struct' d) (leBytes 64 (putBits 320 320 x 0))).bindE fun _ =>
    (jobEnd u (JobDesc.stat d) 7).seq (.ret (.ok ()))
  else
    let fp := sha64 (leBytes 8 t.m ++ leBytes 8 t.n ++ leBytes 8 t.nnz ++ leBytes 8 t.bsize ++ rb ++ cb)
    (suPut u (JobDesc.struct' d) (leBytes 64 (putBits 320 320 (putBits 319 256 x fp) 1))).bindE fun _ =>
    (jobEnd u (JobDesc.stat d) 0xB).seq (.ret (.ok ()))

/-- An evaluation is requested (R178). -/
def requestEval (u : Nat) (d : JobDesc) : Prog (Except Flt Unit) := .get fun s =>
  let n := (s.solver u).evseq + 1
  (statMod u d.stat fun x => putBits 63 0 x n).bindE fun _ =>
  (Prog.all [modSu u fun k => { k with evseq := n }, modJob u fun j => { j with phase := .waiting },
    tokenAdd d.evcl d.evtok 1, setSuState u 5]).seq (.ret (.ok ()))

/-- A part of WORK (R177, R180). -/
def jobWorkAt (d : JobDesc) (t : Struct) (i : Nat) : Nat := d.work + Config.jobWork t.m t.n i

/-- A SOLVE is set up: what WORK holds of the same structure is taken over where WARM allows it, else the preconditioner
is built afresh; then the first evaluation is requested (R178, R180). -/
def setupRun (u : Nat) (d : JobDesc) : Prog (Except Flt Unit) :=
  (suGet u d.struct' 64).bindE fun x =>
  let t := structOf x
  if !t.loaded then (jobIllegal u d.stat).seq (.ret (.ok ()))
  else
    (suGet u (jobWorkAt d t 0) 8).bindE fun fp =>
    let warm := d.warm && fp == t.fprint
    (if warm then Prog.ret (.ok ())
     else (readCsr u t).bindE fun j =>
      let p := Config.precondition (BitVec.ofNat 1024 d) j.rows j.cols j.vals
      (suPut u (jobWorkAt d t 2) (p.flatMap fun y => leBytes 8 y.toNat)).bindE fun _ =>
      (suPut u (jobWorkAt d t 0) (leBytes 8 t.fprint)).bindE fun _ =>
      ((suFlags u Flags.none).seq (Prog.when d.warm (setF .SLV_EVT Fld.SLV_EVT_WARM_REJECT u))).seq (.ret (.ok ()))).bindE fun _ =>
    (statMod u d.stat fun x => putBits 67 64 (putBits 335 72 x 0) 0).bindE fun _ =>
    (modJob u fun j => { j with warm := warm, phase := .request }).bind fun _ =>
    requestEval u d

/-- A job's work at its beginning, as it starts and as it resumes (R174). -/
def jobGo (u : Nat) : Prog Unit := .get fun s =>
  match (s.solver u).job with
  | none => .skip
  | some j =>
    let d : JobDesc := j.desc.toNat
    match j.phase with
    | .load => suDo (loadRun u d) (suFaultStop u)
    | .setup => suDo (setupRun u d) (suFaultStop u)
    | .request => suDo (requestEval u d) (suFaultStop u)
    | .waiting | .inner => .skip

/-- The descriptor at the head of the queue, where the unit is free to start it and it is of a kind (R161, R182). -/
def jobHead (u kind : Nat) : Prog Unit := .get fun s =>
  match s.jobNext u with
  | none => .skip
  | some (size, head, a) =>
    if suState s u ≠ 1 || (s.solver u).round.isSome || (s.solver u).job.isSome then .skip
    else (suGet u a 128).bind fun e =>
      match e with
      | .error f => suFaultStop u f
      | .ok d =>
        if !JobDesc.ok d then (jobTake u size head a d).seq (jobIllegal u (JobDesc.stat d))
        else if JobDesc.kind d ≠ kind then .skip
        else (jobTake u size head a d).seq (jobGo u)

/-- LOAD_JOB: a structure is checked and fingerprinted (R176). -/
def execLoadJob (s' : Fin 2) (s : State) : Host.Outcome State Fault Refusal := (jobHead s' 1).next s

/-- SOLVE_JOB: a job starts with its preconditioner and its first evaluation (R178, R180). -/
def execSolveJob (s' : Fin 2) (s : State) : Host.Outcome State Fault Refusal := (jobHead s' 2).next s

/-- The unit's job, where it is running and not yet decided. -/
def State.jobOf (s : State) (u : Nat) : Option Job := (s.solver u).job.filter fun j => j.fixed.isNone

/-- Change-list entries applied in order: how many were skipped (R179). -/
def applyChanges (u : Nat) (t : Struct) (es : List Nat) : Prog (Except Flt Nat) :=
  (Prog.mapE es fun e =>
    let pos := bits 39 0 e
    if bits 63 40 e ≠ 0 || t.nnz ≤ pos then .ret (.ok 1)
    else (suPut u (t.values + 8 * pos) (leBytes 8 (bits 127 64 e))).bindE fun _ => .ret (.ok 0)).bindE fun l =>
  .ret (.ok (l.foldl (· + ·) 0))

/-- What an outer iterate's measured ρ decides, `skips` change-list entries having been skipped (R178, R179, R181). -/
def judgeIterate (u : Nat) (j : Job) (t : Struct) (rho skips : Nat) : Prog (Except Flt Unit) :=
  let d : JobDesc := j.desc.toNat
  let ready := fle b64 rho d.accept
  let rejected (x : Nat) : Nat := putBits 335 304 x (satAdd 32 (bits 335 304 x) skips)
  if b64.nonfinite rho then (statMod u d.stat rejected).bindE fun _ => (jobEnd u d.stat 8).seq (.ret (.ok ()))
  else
    (if ready then (suGet u d.stat 64).bindE fun st => Prog.get fun s =>
        (vget (suUnit s u) d.xbase (8 * t.n)).bindE fun x => suPut u (outHalf d t.n (1 - bits 68 68 st)) x
      else Prog.ret (.ok ())).bindE fun _ =>
    (statMod u d.stat fun x => putBits 159 96 (putBits 79 72 (rejected x) j.k) rho).bindE fun _ =>
    (Prog.all [count (setSu u) 0x41,
      modSu u fun k => { k with job := some { j with rho := BitVec.ofNat 64 rho, ready := ready, phase := .inner } },
      if fle b64 rho d.tol then jobEndPublish u d.stat 1 (BitVec.ofNat 64 rho)
      else if j.k = d.outmax then
        (if ready then jobEndPublish u d.stat 2 (BitVec.ofNat 64 rho) else jobEnd u d.stat 3)
      else suWork u 4]).seq (.ret (.ok ()))

/-- An evaluation is complete: its changes are applied, and ρ is measured from the gradient (R178, R179). -/
def measure (u : Nat) (j : Job) (t : Struct) (h : Nat) : Prog (Except Flt Unit) :=
  let d : JobDesc := j.desc.toNat
  let n := bits 103 64 h
  (suList u (d.clbase + 64) 16 n).bindE fun es =>
  (applyChanges u t es).bindE fun skips =>
  (Prog.when (decide (skips ≠ 0)) (setF .SLV_ERR Fld.SLV_ERR_CLRANGE u)).bind fun _ =>
  (readCsr u t).bindE fun a =>
  (suList u d.rbase 8 t.m).bindE fun r =>
  let g := Config.norm2 (Config.gradient t.n a.rows a.cols a.vals (words64 r))
  let j := if j.k = 0 then { j with g0 := g } else j
  let rho := rhoOf j.g0.toNat g.toNat
  (suFlags u rho.2).bind fun _ => judgeIterate u j t rho.1 skips

/-- CHANGE_LIST_COMPLETE: where the awaited change list is complete, ρ of the outer iterate is measured (R178, R179). -/
def execChangeListComplete (s' : Fin 2) (s : State) : Host.Outcome State Fault Refusal :=
  (Prog.get fun s =>
    match s.jobOf s' with
    | none => .skip
    | some j =>
      let d : JobDesc := j.desc.toNat
      if j.phase ≠ .waiting || suState s s' ≠ 5 then .skip
      else suDo ((suGet s' d.clbase 64).bindE fun h =>
        if bits 63 0 h ≠ (s.solver s').evseq then .ret (.ok ())
        else (suGet s' d.struct' 64).bindE fun x =>
          if bits 167 104 h ≠ (structOf x).fprint then (jobEnd s' d.stat 6).seq (.ret (.ok ()))
          else measure s' j (structOf x) h) fun f => suFaultStop s' f).next s

/-- INNER_SOLVE_END: the inner solve ends at ITOL or ITMAX; the next outer iterate is written and evaluated (R178,
R180). -/
def execInnerSolveEnd (s' : Fin 2) (s : State) : Host.Outcome State Fault Refusal :=
  (Prog.get fun s =>
    match s.jobOf s' with
    | none => .skip
    | some j =>
      let d : JobDesc := j.desc.toNat
      if j.phase ≠ .inner || suState s s' ≠ 4 then .skip
      else suDo ((suGet s' d.struct' 64).bindE fun y =>
        let t := structOf y
        (readCsr s' t).bindE fun a =>
        (suList s' d.rbase 8 t.m).bindE fun r =>
        (suList s' d.xbase 8 t.n).bindE fun x =>
        (suList s' (jobWorkAt d t 2) 8 (Config.precondition j.desc a.rows a.cols a.vals).length).bindE fun p =>
        (if j.warm && j.k == 0 then suList s' (jobWorkAt d t 1) 8 t.n else Prog.ret (.ok (List.replicate t.n 0))).bindE fun d0 =>
        let args := words64 (r ++ p ++ d0)
        (unlessSpoilt s' (Config.innerIters j.desc a.rows a.cols a.vals args, Config.innerStep j.desc a.rows a.cols a.vals args)
          (t.n + 1) fun l => ((l.headD 0).toNat, l.tail)).bind fun inner =>
        let n := min inner.1 d.itmax
        let delta := inner.2
        let next := stepBy (words64 x) delta t.n
        (suPut s' (jobWorkAt d t 1) ((List.range t.n).flatMap fun i => leBytes 8 (delta.getD i 0).toNat)).bindE fun _ =>
        (statMod s' d.stat fun y => putBits 95 80 y n).bindE fun _ =>
        (suPut s' d.xbase (next.flatMap fun y => leBytes 8 y.1)).bindE fun _ =>
        (Prog.all [suFlags s' (flagsOf next), count (setSu s') 0x41 n,
          modJob s' fun j => { j with k := j.k + 1, phase := .request }]).bind fun _ =>
        requestEval s' d) fun f => suFaultStop s' f).next s

/-- SLV_JQ_TAIL: new descriptors become available (R182, R310). -/
def slvJqTailDo (s' : Fin 2) (val : BitVec 64) : Prog Unit :=
  (posted (.slv s') (wr .SLV_JQ_TAIL val s'))

/-- `execSlvJqTail`: the command. -/
def execSlvJqTail (s' : Fin 2) (val : BitVec 64) (s : State) : Host.Outcome State Fault Refusal := (slvJqTailDo s' val).next s

/-! ### Budgets, commands, turnarounds -/

/-- The code of an unfinished job: by its last measured outer iterate (R172, R181). -/
def Job.cut (j : Job) : Nat := if j.ready then 4 else 5

/-- CYCLE_BUDGET_EXPIRY: the work in hand has its outcome fixed (R172). -/
def execCycleBudgetExpiry (s' : Fin 2) (s : State) : Host.Outcome State Fault Refusal :=
  (Prog.get fun s =>
    match s.jobOf s' with
    | some j =>
      if JobDesc.cycbud j.desc.toNat = 0 then .skip
      else (suCount s' j.cut).seq (modSu s' fun k => { k with job := some { j with fixed := some j.cut } })
    | none =>
      if (s.solver s').round.isSome && s.rdF .SLV_CADENCE Fld.SLV_CADENCE_CYCBUD s' != 0 then suCut s' else .skip).next s

/-- SLV_CMD.STOP: the unit drains at once; an iteration or factorisation in progress is discarded (R174). -/
def stopSu (u : Nat) : Prog Unit := .get fun s =>
  let st := suState s u
  if 1 ≤ st && st ≤ 5 then (stopLent u).seq (setSuState u 6) else .skip

/-- SLV_STOP (R174, R182). -/
def slvStopDo (s' : Fin 2) : Prog Unit :=
  (stopSu s')

/-- `execSlvStop`: the command. -/
def execSlvStop (s' : Fin 2) (s : State) : Host.Outcome State Fault Refusal := (slvStopDo s').next s

/-- SLV_RESUME: the work in hand restarts at its beginning (R174, R182, R240): a factorisation and a job's step as they
stand, a Newton iteration with a new run of its schedule, or with its start where that was not formed. -/
def slvResumeDo (s' : Fin 2) : Prog Unit := .get fun s =>
  let st := suState s s'
  if st ≠ 6 ∧ st ≠ 7 then setF .SLV_ERR Fld.SLV_ERR_CMDIGN s'
  else (if 2 ≤ (s.solver s').shown && (s.solver s').shown ≤ 4 then suWork s' (s.solver s').shown
      else setSuState s' (s.solver s').shown).seq
    (match (s.solver s').job, (s.solver s').round with
      | some j, _ => Prog.when j.fixed.isNone (jobGo s')
      | none, some r =>
        if r.stage ≠ 2 then .skip
        else if !r.formed then newtonGo s'
        else suDo ((suGet s' (rtabAddr s s' r.cur) 128).bindE fun (x : RootEntry) =>
          (startLent s' x.nsched).seq (.ret (.ok ()))) (suFaultStop s')
      | none, none => .skip)

/-- `execSlvResume`: the command. -/
def execSlvResume (s' : Fin 2) (s : State) : Host.Outcome State Fault Refusal := (slvResumeDo s').next s

/-- The round in progress ends ABORTED and publishes nothing (R170, R173). -/
def abortRound (u : Nat) : Prog Unit := .get fun s =>
  match (s.solver u).round with
  | none => .skip
  | some r => Prog.all [stopLent u,
      Prog.when (decide (r.stage ≠ 0) || r.reading.isSome) (suOutcome u 9), suUnreached u false,
      suRoundEnd u]

/-- The job in progress ends ABORTED (R173). -/
def abortJob (u : Nat) : Prog Unit := .get fun s =>
  match (s.solver u).job with
  | none => .skip
  | some j => jobEnd u (JobDesc.stat j.desc.toNat) 9

/-- ABORTJOB (R182). -/
def abortjobDo (s' : Fin 2) : Prog Unit := .get fun s =>
  (if (s.solver s').job.isSome then abortJob s' else setF .SLV_ERR Fld.SLV_ERR_CMDIGN s')

/-- `execAbortjob`: the command. -/
def execAbortjob (s' : Fin 2) (s : State) : Host.Outcome State Fault Refusal := (abortjobDo s').next s

/-- ABORTRND (R182). -/
def abortrndDo (s' : Fin 2) : Prog Unit := .get fun s =>
  (if (s.solver s').round.isSome then abortRound s' else setF .SLV_ERR Fld.SLV_ERR_CMDIGN s')

/-- `execAbortrnd`: the command. -/
def execAbortrnd (s' : Fin 2) (s : State) : Host.Outcome State Fault Refusal := (abortrndDo s').next s

/-- A result is published: OUTSEL flips (R181). -/
def publishJob (u : Nat) (stat step : Nat) (rho : BitVec 64) : Prog Unit :=
  suDo (statMod u stat fun x => putBits 271 224 (putBits 223 160 (putBits 68 68 x (1 - bits 68 68 x)) rho.toNat) step) (suReport u)

/-- The round at a strobe: cut at its deadline, its blocks published, and ended where every block has its outcome (R171,
R172). -/
def roundStrobe (u : Nat) (past : Nat → Bool) : Prog Unit := .get fun s =>
  match (s.solver u).round with
  | none => .skip
  | some r => Prog.all [
      Prog.when (past r.deadline) (suCut u), publishRoots u,
      Prog.get fun s => Prog.when ((s.solver u).round.any fun r => decide (rtabCount s u ≤ r.cur)) (suRoundEnd u)]

/-- The job at a strobe: ended where its outcome is fixed or its deadline has come (R172, R181). -/
def jobStrobe (u : Nat) (past : Nat → Bool) (step : Nat) : Prog Unit := .get fun s =>
  match (s.solver u).job with
  | none => .skip
  | some j =>
    let d : JobDesc := j.desc.toNat
    match j.fixed with
    | some code => (Prog.when (decide (code = 4)) (publishJob u d.stat step j.rho)).seq (jobEnd u d.stat code)
    | none => Prog.when (d.kind == 2 && past d.deadline)
        (Prog.all [suCount u j.cut, Prog.when j.ready (publishJob u d.stat step j.rho), jobEnd u d.stat j.cut])

/-- A job that waits at the head of the queue of a busy unit when its deadline comes ends there, with nothing measured
(R161, R172). -/
def queueStrobe (u : Nat) (past : Nat → Bool) : Prog Unit := .get fun s =>
  match s.jobNext u with
  | none => .skip
  | some (size, head, a) =>
    if (s.solver u).job.isSome || (s.solver u).round.isNone then .skip
    else (suGet u a 128).bind fun e =>
      match e with
      | .error f => suReport u f
      | .ok d => Prog.when (JobDesc.ok d && JobDesc.kind d == 2 && past (JobDesc.deadline d))
          (Prog.all [jobTake u size head a d, suCount u 5, jobEnd u (JobDesc.stat d) 5])

/-- What the unit does at a strobe of its binding before it acknowledges it (R163, R171, R172, R181): `k` is the step that
the turnaround ends, none for a forced one of a binding with Landing Units, and `step` the step counter. A turnaround that
ends no step reaches no deadline; a result published at it names the step in progress (log 75). -/
def suStrobe (u : Nat) (k : Option Nat) (step : Nat) : Prog Unit := .get fun s =>
  let past (n : Nat) : Bool := k.any fun k => decide (n ≤ k)
  let at' := k.getD step
  Prog.all [
    queueStrobe u past,
    roundStrobe u past,
    Prog.each ((s.solver u).due.filter fun d => past d.2) fun d => Prog.all [
      modSu u fun x => { x with due := x.due.filter (· != d) }, suMissed u d.1],
    Prog.each (s.solver u).publish fun p => publishJob u p.stat at' p.rho,
    modSu u fun x => { x with publish := [] },
    jobStrobe u past at']

/-- A round falls due at the turnaround that ends a step whose number is a multiple of the cadence (R163). -/
def suDue (u k : Nat) : Prog Unit := .get fun s =>
  let cad := s.rdF .SLV_CADENCE Fld.SLV_CADENCE_CAD u
  let dl := min (max (s.rdF .SLV_CADENCE Fld.SLV_CADENCE_DLSTEPS u) 1) cad
  if cad = 0 || k % cad ≠ 0 then .skip
  else modSu u fun x => { x with due := x.due ++ [(k / cad, k + dl)] }

/-- A rewind or re-binding ends the unit's work (R173). -/
def suAbortAll (u : Nat) : Prog Unit :=
  Prog.all [abortRound u, abortJob u, modSu u fun k => { k with due := [], publish := [] }]

end Sys2Proof.Machine
end

