-- ==== Sys2Proof/Machine/Elem.lean ====
section
/-!
DEFINITION. Sys2Proof/Machine/Elem.lean: exp, log, tanh, sigmoid and erf (R67), softmax values (R107).
The exact value is computed in fixed point with 240 fraction bits; the result is a free code within the
spec's bound of it.
-/

namespace Sys2Proof.Machine

/-- Fraction bits of the fixed-point values. -/
def fxP : Nat := 240

/-- The fixed-point one. -/
def fxOne : Int := 2 ^ fxP

/-- Fixed-point product. -/
def fxMul (a b : Int) : Int := a * b / fxOne

/-- Fixed-point quotient. -/
def fxDiv (a b : Int) : Int := a * fxOne / b

/-- The sum of `z^(2i+1) * s^i / (2i+1)` over `n` terms from `i` on, `t` being `z^(2i+1) * s^i`. -/
def oddSeries (zz : Int) : Nat → Nat → Int → Int
  | 0, _, _ => 0
  | n + 1, i, t => t / (2 * i + 1 : Nat) + oddSeries zz n (i + 1) (fxMul t zz)

/-- Natural logarithm of 2. -/
def fxLn2 : Int := 2 * oddSeries (fxOne / 9) 100 0 (fxOne / 3)

/-- The circle's number, by the arctangents of 1/5 and 1/239. -/
def fxPi : Int :=
  16 * oddSeries (-(fxOne / 25)) 120 0 (fxOne / 5) - 4 * oddSeries (-(fxOne / 57121)) 40 0 (fxOne / 239)

/-- The exponential series over `n` terms from `i` on, `t` being `r^i / i!`. -/
def expSeries (r : Int) : Nat → Nat → Int → Int
  | 0, _, _ => 0
  | n + 1, i, t => t + expSeries r n (i + 1) (fxMul t r / (i + 1 : Nat))

/-- exp of a fixed-point value: a fixed-point factor and a power of 2. -/
def fxExp (x : Int) : Int × Int :=
  let k := (x + fxLn2 / 2) / fxLn2
  (expSeries (x - k * fxLn2) 70 0 fxOne, k)

/-- exp of a fixed-point value that is not large, in fixed point. -/
def fxExpF (x : Int) : Int :=
  let (t, k) := fxExp x
  if k ≥ 0 then t * 2 ^ k.toNat else t / 2 ^ (-k).toNat

/-- A finite value in fixed point. -/
def fxOf (neg : Bool) (m : Nat) (e : Int) : Int :=
  let s := e + fxP
  if s ≥ 0 then sgn neg (m * 2 ^ s.toNat) else sgn neg (m / 2 ^ (-s).toNat)

/-- Natural logarithm of `m * 2 ^ e`, `m` not 0. -/
def fxLog (m : Nat) (e : Int) : Int :=
  let l := Nat.log2 m
  let y : Int := m * 2 ^ fxP / 2 ^ l
  let z := fxDiv (y - fxOne) (y + fxOne)
  (e + l) * fxLn2 + 2 * oddSeries (fxMul z z) 100 0 z

/-- The terms of the error function's series. -/
def erfSeries (xx : Int) : Nat → Nat → Int → Int
  | 0, _, _ => 0
  | n + 1, i, t => t / (2 * i + 1 : Nat) + erfSeries xx n (i + 1) (-(fxMul t xx) / (i + 1 : Nat))

/-- The error function of a magnitude in fixed point. -/
def fxErf (x : Int) : Int :=
  if x > 6 * fxOne then fxOne
  else fxDiv (2 * erfSeries (fxMul x x) 260 0 x) (isqrt (fxPi * fxOne).toNat)

/-- A free code within `bound` units in the last place of the exact `m * 2 ^ e`, from the error the
configuration gives: the nearest code moved by that error where it stays within the bound. -/
def within (bound err : Nat) (neg : Bool) (m : Nat) (e : Int) : Nat :=
  let (k, q) := roundMag 24 b32.emin .rne neg m e true
  let d : Int := (err % (2 * bound + 1) : Nat) - (bound : Int)
  let k' : Int := k + d
  let gap := (k' * 2 ^ (q - min q e).toNat - m * 2 ^ (e - min q e).toNat).natAbs
  let c := b32.pack k q
  let c' := (b32.round false .rne neg k'.toNat q).1
  if k' < 0 || decide (gap > bound * 2 ^ (q - min q e).toNat) then b32.sbit neg + min c b32.maxC else c'

/-- The functions of R67, in the order of their operation codes. -/
inductive ElemOp where
  | exp
  | log
  | tanh
  | sigm
  | erf
deriving DecidableEq, Repr

/-- The index of a function. -/
def ElemOp.idx : ElemOp → Nat
  | .exp => 0
  | .log => 1
  | .tanh => 2
  | .sigm => 3
  | .erf => 4

/-- A function of R67 on a binary32 code. -/
def elem (op : ElemOp) (a : Nat) : Nat × Flags :=
  let err := Config.elemErr op.idx a
  let one := 0x3F800000
  match b32.dec a with
  | .nan s => (b32.nan, sigFlag (.nan s))
  | .inf n =>
    match op with
    | .exp => (if n then 0 else b32.inf false, Flags.none)
    | .log => if n then (b32.nan, Flags.INV) else (b32.inf false, Flags.none)
    | .tanh => (b32.sbit n + one, Flags.none)
    | .erf => (b32.sbit n + one, Flags.none)
    | .sigm => (if n then 0 else one, Flags.none)
  | .fin n m e =>
    let x := fxOf n m e
    match op with
    | .exp =>
      if x > 100 * fxOne then (b32.inf false, Flags.OVF)
      else if x < -200 * fxOne then (within 2 err false 0 (-149), Flags.none)
      else
        let (t, k) := fxExp x
        let exact := b32.round true .rne false t.toNat (k - fxP)
        if exact.2.ovf then exact else (within 2 err false t.toNat (k - fxP), Flags.none)
    | .log =>
      if m = 0 then (b32.inf true, Flags.DZ)
      else if n then (b32.nan, Flags.INV)
      else
        let l := fxLog m e
        if l = 0 then (0, Flags.none) else (within 2 err (decide (l < 0)) l.natAbs (-fxP), Flags.none)
    | .tanh =>
      let y := fxExpF (-2 * min (x.natAbs : Int) (100 * fxOne))
      if m = 0 then (a, Flags.none)
      else (within 2 err n (fxDiv (fxOne - y) (fxOne + y)).toNat (-fxP), Flags.none)
    | .sigm =>
      let y := fxExpF (-(min (max x (-150 * fxOne)) (150 * fxOne)))
      (within 2 err false (fxDiv fxOne (fxOne + y)).toNat (-fxP), Flags.none)
    | .erf =>
      if m = 0 then (a, Flags.none)
      else (within 2 err n (fxErf x.natAbs).toNat (-fxP), Flags.none)

end Sys2Proof.Machine
end

