-- ==== Sys2Proof/Machine/VecBase.lean ====
section
/-!
DEFINITION. Sys2Proof/Machine/VecBase.lean: what vector instructions share: legality (R94, R98), lanes and
masks (R93, R96), tensors by element (R99 to R103), chunks and faults (R101, R105), and the shapes of the
register form and the tensor form.
-/

namespace Sys2Proof.Machine

/-! ### State of a vector engine -/

/-- STATE of a vector engine (R109). -/
def vecState (s : State) (c : Nat) : Nat := s.rdF .VEC_STATUS Fld.VEC_STATUS_STATE c

/-- A new STATE. -/
def setVecSt (c x : Nat) : Prog Unit := wrF .VEC_STATUS Fld.VEC_STATUS_STATE x c

/-- The vector length, at most 256 (R93). -/
def vecVl (s : State) (c : Nat) : Nat := min (s.rdF .VEC_STATUS Fld.VEC_STATUS_VL c) 256

/-- VEC_PC shows the instruction in progress (R109). -/
def showVec (c : Nat) : Prog Unit := .get fun s => wr .VEC_PC ((s.cluster c).vpc.zeroExtend 64) c

/-- The codes of R95 and R97. -/
def vopcodes : List Nat :=
  [0x01, 0x02, 0x03, 0x04, 0x05, 0x06, 0x07, 0x08, 0x09, 0x0A, 0x0B, 0x0C, 0x10, 0x11, 0x12, 0x13, 0x14, 0x18, 0x19,
   0x20, 0x21, 0x22, 0x23, 0x28, 0x29, 0x2A, 0x30, 0x31, 0x38, 0x40, 0x41, 0x48, 0x49, 0x70, 0x71, 0x72, 0x73, 0x74,
   0x75, 0x76, 0x7F]

/-- An illegal instruction halts the engine (R98). -/
def illegalVec (c : Nat) : Prog Unit := .get fun s =>
  Prog.all [setVecSt c 6, wr .VEC_ERRADDR ((s.cluster c).vpc.zeroExtend 64) c, setF .VEC_ERR Fld.VEC_ERR_ILLEGAL c,
    errEvent (.clusterError c), selfFailure 3, lentError c]

/-- The tag that a vector instruction counts under: the low byte of the last SEG's number (R407; log 14). -/
def vecTag (s : State) (c : Nat) : Option Nat := some (s.rdF .ARY_STATUS Fld.ARY_STATUS_LASTSEG c % 256)

/-- The instruction completes: it retires, and the engine goes on at an address. -/
def vecNext (c : Nat) (cls daddr : Nat) (next : BitVec 48) : Prog Unit := .get fun s =>
  let k := s.cluster c
  (modCl c fun k => { k with vpc := next, vchunk := 0, vrow := [], vagain := false, vwait := none }).seq
    (retire c ⟨k.vpc, cls, true, false, k.vagain, daddr, vecTag s c⟩)

/-- The instruction completes and the next follows it. -/
def vecDone (c : Nat) (cls daddr : Nat) : Prog Unit := .get fun s => vecNext c cls daddr ((s.cluster c).vpc + 8)

/-- A fault stops the engine after its last completed chunk, with the indices of the next (R105, R240); a wait for a
block (R217) holds it there. -/
def vecFault (c : Nat) (f : Flt) (chunk : Nat) (idx : List Nat) : Prog Unit := .get fun s =>
  if f.isWait then modCl c fun k => { k with vchunk := chunk }
  else Prog.all [setVecSt c 5, setF .VEC_ERR Fld.VEC_ERR_FAULT c, wr .VEC_ERRADDR ((s.cluster c).vpc.zeroExtend 64) c,
    Prog.each idx.zipIdx fun p => wr .VEC_LOOPIDX (BitVec.ofNat 64 p.1) c p.2,
    modCl c fun k => { k with vchunk := chunk, vagain := true }, logFault (vecUnit s c) f, lentFault c f]

/-- An engine that may take its next instruction. -/
def vecReady (s : State) (c : Nat) : Bool := vecState s c == 1 && (s.cluster c).vwait.isNone

/-- An instruction of an operation code at an engine that is ready for it (R94, R98). It is fetched through
the cluster's translation unit, and what the fetch brings is the row's operand (log 59). -/
def vissue (c : Nat) (op : Nat) (w : BitVec 64) (legal : State → Cluster → Bool)
    (body : State → Cluster → Prog Unit) : Prog Unit := .get fun s =>
  if !vecReady s c then .skip
  else if vOp w ≠ op ∧ vopcodes.contains (vOp w) then .skip
  else (vget (vecUnit s c) (s.cluster c).vpc.toNat 8 .exec).bind fun r => .get fun s =>
    let k := s.cluster c
    match r with
    | .error f => (vecFault c f k.vchunk []).seq (showVec c)
    | .ok _ =>
      if vOp w ≠ op || !legal s k then (illegalVec c).seq (showVec c)
      else (body s k).seq (showVec c)

/-! ### Lanes -/

/-- A bit of a mask register; M0 is all ones (R93). -/
def Cluster.mask (k : Cluster) (m l : Nat) : Bool := m == 0 || Tab.at true k.masks (256 * m + l)

/-- A lane of a register. -/
def Cluster.lane (k : Cluster) (r l : Nat) : Nat := (Tab.at 0 k.vregs (256 * r + l)).toNat

/-- A lane of an operand of a format: a binary64 takes a register pair, a narrower value the low bits
(R93). -/
def Cluster.operand (k : Cluster) (fmt r l : Nat) : Nat :=
  if fmt = 6 then k.lane r l + k.lane (r + 1) l * 2 ^ 32 else k.lane r l % 2 ^ (8 * (fmtUnit fmt).2)

/-- A lane of a register written. -/
def Cluster.setLane (k : Cluster) (r l x : Nat) : Cluster :=
  { k with vregs := Tab.upd 0 k.vregs (256 * r + l) (BitVec.ofNat 32 x) }

/-- A lane of a destination of a format written. -/
def Cluster.setOperand (k : Cluster) (fmt r l x : Nat) : Cluster :=
  if fmt = 6 then (k.setLane r l x).setLane (r + 1) l (x / 2 ^ 32) else k.setLane r l x

/-- A lane's rounding mode, with a draw of its register under SR where something is rounded (R47, R49, R52). -/
def Cluster.draw (k : Cluster) (rounds : Bool) (rm l : Nat) : Rm × Cluster :=
  if rm = 4 && !rounds then (.sr 0, k) else
  match rm with
  | 1 => (.rtz, k)
  | 2 => (.rdn, k)
  | 3 => (.rup, k)
  | 4 =>
    let r := Tab.at 0 k.vlfsr l
    let (r', d) := lfsrDraw (if r = 0 then seedOf k.epoch (32768 + l) else r)
    (.sr d, { k with vlfsr := Tab.upd 0 k.vlfsr l r' })
  | _ => (.rne, k)

/-- The format code of an operand type: binary32, binary64, or signed integer (R94). -/
def tyFmt (ty : Nat) : Nat :=
  match ty with
  | 0 => 0
  | 1 => 6
  | _ => 7

/-- Whether a register may hold an operand of a format (R93). -/
def regOk (fmt r : Nat) : Bool := fmt != 6 || r % 2 == 0

/-! ### Tensors by element -/

/-- A source's offset for the destination's indices: a size of 1 acts as a stride of 0 (R102). -/
def Desc.offFor (d : Desc) (idx : List Nat) : Int :=
  offOf idx (List.zipWith (fun n s => if n = 1 then 0 else s) d.sizes d.strides)

/-- Whether a source suits a destination's sizes (R102). -/
def srcFits (dst src : Desc) : Bool := (List.zipWith (fun a b => b == a || b == 1) dst.sizes src.sizes).all id

/-- Whether a destination has no stride of 0 in a dimension of size above 1 (R102). -/
def dstFits (d : Desc) : Bool := (List.zipWith (fun n s => decide (n ≤ 1) || decide (s ≠ 0)) d.sizes d.strides).all id

/-- Formats by element: all but MXFP4, X4 and X2 (R100). -/
def plainFmt (f : Nat) : Bool := decide (f ≤ 10) && f != 5 && f != 8 && f != 9

/-- The index of an MXFP4 block in its dense scale tensor (R100). -/
def scaleIdx (d : Desc) (idx : List Nat) : Nat :=
  match idx, d.sizes with
  | i :: r, n :: t =>
    let step (p : Nat × Nat) (x : Nat × Nat) : Nat × Nat := (p.1 + x.1 * p.2, p.2 * x.2)
    ((r.zip t).foldl step (i / 32, n / 32)).1
  | _, _ => 0

/-- Bytes of one element of a plain format. -/
def elemBytes (f : Nat) : Nat := (fmtUnit f).2

/-- One element of a source for the destination's indices: its code, as a binary32 for a block format, and
the flags that decoding sets (R37 to R40, R102). -/
def readElem (u : Unit') (d : Desc) (idx : List Nat) : Prog (Except Flt (Nat × Flags)) :=
  let off := d.offFor idx
  match d.fmt with
  | 5 => (vget u (d.addr off) 1).bindE fun b =>
      (vget u (d.scale + scaleIdx d (List.zipWith (fun i n => if n = 1 then 0 else i) idx d.sizes)) 1).bindE fun sc =>
        .ret (.ok (mxDecode (leNat sc) (leNat b / 16 ^ (off % 2).toNat % 16)))
  | 8 => (vget u (d.addr off) 34).bindE fun b =>
      let x := leNat b
      .ret (.ok (qDecode 4 (x % 2 ^ 16) (x / 2 ^ (16 + 4 * (off % 64).toNat) % 16)))
  | 9 => (vget u (d.addr off) 18).bindE fun b =>
      let x := leNat b
      .ret (.ok (qDecode 2 (x % 2 ^ 16) (x / 2 ^ (16 + 2 * (off % 64).toNat) % 4)))
  | f => (vget u (d.addr off) (elemBytes f)).bindE fun b => .ret (.ok (leNat b, Flags.none))

/-- The format in which `readElem` answers. -/
def readFmt (f : Nat) : Nat := if f = 5 ∨ f = 8 ∨ f = 9 then 0 else f

/-- Output of a tensor form: data, the stretches it goes to in order, and the number of elements that a number of
its bytes stands for. -/
structure TOut where
  units : List (Nat × Nat)
  data  : List Byte
  per   : Nat
  bytes : Nat
deriving DecidableEq, Repr

/-- Elements of a destination from linear index `lin` on, in a plain format. -/
def plainOut (d : Desc) (lin : Nat) (codes : List Nat) : TOut :=
  let n := elemBytes d.fmt
  ⟨(List.range codes.length).map fun i => (d.addr (d.off (lin + i)), n), codes.flatMap (leBytes n), 1, n⟩

/-- The pieces of an output, each with its first element. -/
def TOut.pieces (o : TOut) : List WPiece :=
  (cutRuns (joinRuns o.units) o.data 0).map fun p => { p with off := p.off / o.bytes * o.per }

/-- The pieces of outputs, blocks gathered (R212), chunk by chunk (R101). -/
def outPieces (n : Nat) (os : List TOut) : List WPiece :=
  let l := gatherBlocks (os.flatMap TOut.pieces)
  (List.range (n / 256 + 1)).flatMap fun k => l.filter fun p => p.off / 256 == k

/-- The codes of `n` units of `per` elements from `lin` on, in order; at a fault, the fault and how many elements
came before it. -/
def calcAll (per : Nat) (each : Nat → Prog (Except Flt Nat)) : Nat → Nat → List Nat → Prog (Except (Flt × Nat) (List Nat))
  | 0, _, acc => .ret (.ok acc.reverse)
  | n + 1, lin, acc => (each lin).bind fun x =>
    match x with
    | .error f => .ret (.error (f, per * acc.length))
    | .ok v => calcAll per each n (lin + per) (v :: acc)

/-- How a part of a tensor form ended: complete, or at a fault, with the write that met it where one did, after
some elements. -/
inductive TEnd where
  | done
  | fault (f : Flt) (w : Option WPiece) (n : Nat)
deriving DecidableEq, Repr

/-- Computed outputs written from a chunk on. -/
def writeOuts (u : Unit') (n : Nat) (os : List TOut) : Prog TEnd :=
  (scatterP u (outPieces n os)).bind fun r =>
    match r with
    | none => .ret .done
    | some (f, p) => .ret (.fault f (some p) p.off)

/-- `n` elements from linear index `lin` on computed and written. -/
def runPart (u : Unit') (per : Nat) (each : Nat → Prog (Except Flt Nat)) (out : Nat → List Nat → Prog (List TOut))
    (lin n : Nat) : Prog TEnd :=
  (calcAll per each (n / per) lin []).bind fun r =>
    match r with
    | .error (f, m) => .ret (.fault f none m)
    | .ok codes => (out lin codes).bind fun os => writeOuts u n os

/-- The access that met a fault, with its own effects: a walk that is counted, PARTIAL, a block asked for again. -/
def faultAgain (u : Unit') (f : Flt) (w : Option WPiece) : Prog Unit :=
  match w with
  | some p => (vput u p.va p.data).bind fun _ => .skip
  | none => (vread u f.va 1).bind fun _ => .skip

/-- The chunk at which a part of a tensor form that meets a fault stops: the last that completes before it, all the
blocks of its pages gathered. -/
def stopChunk (run : Nat → Prog TEnd) : Nat → Nat → Prog Nat
  | 0, _ => .ret 0
  | fuel + 1, k => (run (256 * k)).dry.bind fun r =>
    match r with
    | .done => .ret k
    | .fault _ _ n => stopChunk run fuel (min (n / 256) (k - 1))

/-- Part by part, `run` computing and writing a number of elements from a linear index on, an instruction works
through its destination (R101, R103, R105): chunks of 256 elements complete in order; at a fault the chunks before it
have been written, and the engine records where it resumes. A chunk that fills only part of a block of a compressed
page completes when the block does (R212; log 15). -/
def tensorRun (c : Nat) (d : Desc) (run : Nat → Nat → Prog TEnd) (done : Prog Unit) : Prog Unit := .get fun s =>
  let first := 256 * (s.cluster c).vchunk
  let n := d.count - first
  (run first n).dry.bind fun r =>
    match r with
    | .done => (run first n).bind fun _ => done
    | .fault f w m =>
      (stopChunk (run first) (m / 256 + 1) (m / 256)).bind fun k =>
        let chunk := (s.cluster c).vchunk + k
        (run first (256 * k)).bind fun _ =>
          (faultAgain (vecUnit s c) f w).seq (vecFault c f chunk (unlin d.sizes (256 * chunk)))

/-- The tensor form of an instruction whose elements, in units of `per`, are computed one by one. -/
def tensorForm (c per : Nat) (d : Desc) (each : Nat → Prog (Except Flt Nat)) (out : Nat → List Nat → Prog (List TOut))
    (done : Prog Unit) : Prog Unit := .get fun s => tensorRun c d (runPart (vecUnit s c) per each out) done

/-- A lane's draw where something is rounded, taken from the state. -/
def drawLane (c : Nat) (rounds : Bool) (rm l : Nat) : Prog Rm := .get fun s =>
  let p := (s.cluster c).draw rounds rm l
  (modCl c fun _ => p.2).seq (.ret p.1)

/-- Flags of a vector instruction (R71). -/
def vecFlags (c : Nat) (f : Flags) : Prog Unit := Prog.when (f.toNat != 0) (addFlags .VEC_FLAGS f.toNat c)

/-- A slot of a vector engine. -/
def Cluster.vslot (k : Cluster) (i : Nat) : Option Desc := (Tab.at none k.vslots i).map descOf

/-- The slots that a tensor form names, all valid (R98). -/
def vslots (k : Cluster) (l : List Nat) : Option (List Desc) := l.mapM k.vslot

/-! ### Elementwise instructions -/

/-- An elementwise operation: its code, how many sources it has, whether it rounds, the format of its sources and
of its result for a word, or none where the type or format is illegal, whether EXT is legal, and its result. -/
structure VOp where
  op     : Nat
  arity  : Nat
  rounds : BitVec 64 → Bool
  src    : BitVec 64 → Option Nat
  dst    : BitVec 64 → Option Nat
  ext    : BitVec 64 → Bool
  fn     : BitVec 64 → Rm → List Nat → Nat × Flags

/-- Whether a code is finite; an integer always is. -/
def finiteCode (fmt x : Nat) : Bool := match fmtOf fmt with
  | some f => !f.nonfinite x
  | none => true

/-- Whether a code is a NaN. -/
def nanCode (fmt x : Nat) : Bool := match fmtOf fmt with
  | some f => (f.dec x).isNan
  | none => false

/-- Whether an operation on operands rounds, and so draws under SR (R47, R49): it is one that rounds, its operands
are finite, and its result is neither a NaN nor the infinity of a division by zero (DEDUCED, log 3). -/
def VOp.draws (o : VOp) (sf df : Nat) (w : BitVec 64) (l : List Nat) : Bool :=
  o.rounds w && l.all (finiteCode sf) && (let r := o.fn w .rne l; !r.2.dz && !nanCode df r.1)

/-- Whether a conversion from one format into another rounds: not where every value of the first is one of the
second (R56). -/
def narrows (src dst : Nat) : Bool :=
  match fmtOf src, fmtOf dst with
  | some a, some b => !(decide (a.mw ≤ b.mw) && decide (b.emin ≤ a.emin) && decide (a.ew ≤ b.ew))
  | _, _ => false

/-- Source registers or slots of a word. -/
def srcsOf (arity : Nat) (w : BitVec 64) : List Nat := [vA w, vB w, vC w].take arity

/-- The register form on one lane. -/
def laneStep (o : VOp) (sf df : Nat) (w : BitVec 64) (x : Cluster × Flags) (l : Nat) : Cluster × Flags :=
  let args := (srcsOf o.arity w).map fun r => x.1.operand sf r l
  let (rm, k) := x.1.draw (vRm w == 4 && o.draws sf df w args) (vRm w) l
  let (v, f) := o.fn w rm args
  (k.setOperand df (vD w) l v, x.2.or f)

/-- Lanes of the register form: below VL with their mask bit 1 (R96). -/
def activeLanes (k : Cluster) (vl m : Nat) : List Nat := (List.range vl).filter fun l => k.mask m l

/-- The register form of an elementwise operation (R96). -/
def regForm (o : VOp) (sf df : Nat) (w : BitVec 64) (vl : Nat) (k : Cluster) : Cluster × Flags :=
  (activeLanes k vl (vMsel w)).foldl (laneStep o sf df w) (k, Flags.none)

/-- Whether a source may serve a destination in a tensor form (R102, R103). -/
def srcOk (dst src : Desc) : Bool := srcFits dst src && dst.apart src

/-- Whether the tensor form of an elementwise operation is legal (R98 to R103). -/
def tensorOk (o : VOp) (sf df : Nat) (w : BitVec 64) (k : Cluster) : Bool :=
  vMsel w == 0 &&
  match k.vslot (vD w), vslots k (srcsOf o.arity w) with
  | some d, some l => d.fmt == df && dstFits d && l.all fun x => x.fmt == sf && srcOk d x
  | _, _ => false

/-- Whether an elementwise instruction is legal (R94, R95, R98). -/
def elemOk (o : VOp) (w : BitVec 64) (k : Cluster) : Bool :=
  decide (vRm w ≤ 4) && o.ext w &&
  match o.src w, o.dst w with
  | some sf, some df =>
    if vT w then tensorOk o sf df w k
    else regOk df (vD w) && (srcsOf o.arity w).all fun r => regOk sf r
  | _, _ => false

/-- One element of a tensor form. -/
def elemCalc (c : Nat) (o : VOp) (sf df : Nat) (w : BitVec 64) (d : Desc) (srcs : List Desc) (lin : Nat) : Prog (Except Flt Nat) :=
  .get fun s =>
  let idx := unlin d.sizes lin
  (Prog.mapE srcs fun x => readElem (vecUnit s c) x idx).bindE fun l =>
  let args := l.map (·.1)
  (drawLane c (vRm w == 4 && o.draws sf df w args) (vRm w) (lin % 256)).bind fun rm =>
    let r := o.fn w rm args
    (vecFlags c ((l.foldl (fun f p => f.or p.2) r.2))).seq (.ret (.ok r.1))

/-- An elementwise instruction in either form (R95, R96, R101). -/
def elementwise (c : Nat) (o : VOp) (w : BitVec 64) : Prog Unit :=
  vissue c o.op w (fun _ k => elemOk o w k) fun s k =>
    match o.src w, o.dst w with
    | some sf, some df =>
      if vT w then
        match k.vslot (vD w), vslots k (srcsOf o.arity w) with
        | some d, some l =>
          tensorForm c 1 d (elemCalc c o sf df w d l) (fun lin codes => .ret [plainOut d lin codes]) (vecDone c 5 d.base)
        | _, _ => .skip
      else
        let r := regForm o sf df w (vecVl s c) k
        Prog.all [modCl c fun _ => r.1, vecFlags c r.2, vecDone c 0 0]
    | _, _ => .skip

end Sys2Proof.Machine
end

