-- ==== Sys2Proof/Machine/Vector.lean ====
section
/-!
DEFINITION. Sys2Proof/Machine/Vector.lean: the vector instructions (R92 to R107) and the commands of
VEC_CMD (R109).
-/

namespace Sys2Proof.Machine

/-! ### Arithmetic -/

/-- binary32 or binary64 by TY (R95). -/
def srcB (w : BitVec 64) : Option Nat := if vTy w ≤ 1 then some (tyFmt (vTy w)) else none
/-- binary32 alone. -/
def srcB32 (w : BitVec 64) : Option Nat := if vTy w = 0 then some 0 else none
/-- EXT unused (R94). -/
def extNone (w : BitVec 64) : Bool := vExt w == 0

/-- The format of a word's operands, binary32 or binary64. -/
def fmtTy (w : BitVec 64) : Fmt := if vTy w = 1 then b64 else b32

/-- An operation of two operands of one type (R65, R68); `rounds` says that it rounds. -/
def binOp (op : Nat) (rounds : Bool) (f : Fmt → Rm → Nat → Nat → Nat × Flags) : VOp :=
  ⟨op, 2, fun _ => rounds, srcB, srcB, extNone, fun w rm l => f (fmtTy w) rm (l.getD 0 0) (l.getD 1 0)⟩

/-- An operation of one operand. -/
def unOp (op : Nat) (rounds : Bool) (f : Fmt → Rm → Nat → Nat × Flags) : VOp :=
  ⟨op, 1, fun _ => rounds, srcB, srcB, extNone, fun w rm l => f (fmtTy w) rm (l.getD 0 0)⟩

/-- A function of R67. -/
def fnOp (op : Nat) (f : ElemOp) : VOp := ⟨op, 1, fun _ => true, srcB32, srcB32, extNone, fun _ _ l => elem f (l.getD 0 0)⟩

/-- ADD (R65). -/
def execAdd (c : Fin 32) (w : BitVec 64) (s : State) : Host.Outcome State Fault Refusal :=
  (elementwise c (binOp 0x01 true fun f rm a b => f.add rm a b) w).next s
/-- SUB (R65). -/
def execSub (c : Fin 32) (w : BitVec 64) (s : State) : Host.Outcome State Fault Refusal :=
  (elementwise c (binOp 0x02 true fun f rm a b => f.sub rm a b) w).next s
/-- MUL (R65). -/
def execMul (c : Fin 32) (w : BitVec 64) (s : State) : Host.Outcome State Fault Refusal :=
  (elementwise c (binOp 0x03 true fun f rm a b => f.mul rm a b) w).next s
/-- FMA (R65). -/
def execFma (c : Fin 32) (w : BitVec 64) (s : State) : Host.Outcome State Fault Refusal :=
  (elementwise c ⟨0x04, 3, fun _ => true, srcB, srcB, extNone, fun w rm l =>
    (fmtTy w).fma rm (l.getD 0 0) (l.getD 1 0) (l.getD 2 0)⟩ w).next s
/-- DIV (R66). -/
def execDiv (c : Fin 32) (w : BitVec 64) (s : State) : Host.Outcome State Fault Refusal :=
  (elementwise c (binOp 0x05 true fun f rm a b => f.div rm a b) w).next s
/-- SQRT (R66). -/
def execSqrt (c : Fin 32) (w : BitVec 64) (s : State) : Host.Outcome State Fault Refusal :=
  (elementwise c (unOp 0x06 true fun f rm a => f.sqrt rm a) w).next s
/-- RCP (R66). -/
def execRcp (c : Fin 32) (w : BitVec 64) (s : State) : Host.Outcome State Fault Refusal :=
  (elementwise c (unOp 0x07 true fun f rm a => f.rcp rm a) w).next s
/-- RSQ (R66). -/
def execRsq (c : Fin 32) (w : BitVec 64) (s : State) : Host.Outcome State Fault Refusal :=
  (elementwise c (unOp 0x08 true fun f rm a => f.rsq rm a) w).next s
/-- MAX (R68). -/
def execMax (c : Fin 32) (w : BitVec 64) (s : State) : Host.Outcome State Fault Refusal :=
  (elementwise c (binOp 0x09 false fun f _ a b => f.max a b) w).next s
/-- MIN (R68). -/
def execMin (c : Fin 32) (w : BitVec 64) (s : State) : Host.Outcome State Fault Refusal :=
  (elementwise c (binOp 0x0A false fun f _ a b => f.min a b) w).next s
/-- NEG (R95). -/
def execNeg (c : Fin 32) (w : BitVec 64) (s : State) : Host.Outcome State Fault Refusal :=
  (elementwise c (unOp 0x0B false fun f _ a => f.neg a) w).next s
/-- ABS (R95). -/
def execAbs (c : Fin 32) (w : BitVec 64) (s : State) : Host.Outcome State Fault Refusal :=
  (elementwise c (unOp 0x0C false fun f _ a => f.abs a) w).next s
/-- EXP (R67). -/
def execExp (c : Fin 32) (w : BitVec 64) (s : State) : Host.Outcome State Fault Refusal :=
  (elementwise c (fnOp 0x10 .exp) w).next s
/-- LOG (R67). -/
def execLog (c : Fin 32) (w : BitVec 64) (s : State) : Host.Outcome State Fault Refusal :=
  (elementwise c (fnOp 0x11 .log) w).next s
/-- TANH (R67). -/
def execTanh (c : Fin 32) (w : BitVec 64) (s : State) : Host.Outcome State Fault Refusal :=
  (elementwise c (fnOp 0x12 .tanh) w).next s
/-- SIGM (R67). -/
def execSigm (c : Fin 32) (w : BitVec 64) (s : State) : Host.Outcome State Fault Refusal :=
  (elementwise c (fnOp 0x13 .sigm) w).next s
/-- ERF (R67). -/
def execErf (c : Fin 32) (w : BitVec 64) (s : State) : Host.Outcome State Fault Refusal :=
  (elementwise c (fnOp 0x14 .erf) w).next s

/-! ### Comparison and selection -/

/-- A comparison of two signed 32-bit integers. -/
def cmpInt (a b : Nat) : Ordering := compare (signedOf 32 a) (signedOf 32 b)

/-- The outcome of a comparison of a type, and its flags (R69). -/
def compareTy (ty a b : Nat) : Option Ordering × Flags :=
  if ty = 2 then (some (cmpInt a b), Flags.none) else (if ty = 1 then b64 else b32).cmp a b

/-- CMP on one lane (R69, R95). -/
def cmpStep (w : BitVec 64) (src : Cluster) (x : Cluster × Flags) (l : Nat) : Cluster × Flags :=
  let f := tyFmt (vTy w)
  let r := compareTy (vTy w) (src.operand f (vA w) l) (src.operand f (vB w) l)
  let v := (predOf (vExt w % 16) r.1).getD false
  ({ x.1 with masks := Tab.upd true x.1.masks (256 * vD w + l) v }, x.2.or r.2)

/-- CMP writes a mask register (R95); M0 is no destination (R93). -/
def execCmp (c : Fin 32) (w : BitVec 64) (s : State) : Host.Outcome State Fault Refusal :=
  (vissue c 0x18 w (fun _ _ => !vT w && decide (vRm w ≤ 4) && decide (vTy w ≤ 2) && vExt w / 16 == 0 &&
      decide (vExt w ≤ 6) && decide (1 ≤ vD w) && decide (vD w ≤ 7) && regOk (tyFmt (vTy w)) (vA w) &&
      regOk (tyFmt (vTy w)) (vB w)) fun s k =>
    let r := (activeLanes k (vecVl s c) (vMsel w)).foldl (cmpStep w k) (k, Flags.none)
    Prog.all [modCl c fun _ => r.1, vecFlags c r.2, vecDone c 0 0]).next s

/-- SEL (R95): every lane below VL takes `a` where the mask is 1, else `b`. -/
def execSel (c : Fin 32) (w : BitVec 64) (s : State) : Host.Outcome State Fault Refusal :=
  (vissue c 0x19 w (fun _ _ => !vT w && decide (vRm w ≤ 4) && decide (vTy w ≤ 2) && extNone w &&
      regOk (tyFmt (vTy w)) (vD w) && regOk (tyFmt (vTy w)) (vA w) && regOk (tyFmt (vTy w)) (vB w)) fun s k =>
    let f := tyFmt (vTy w)
    let k' := (List.range (vecVl s c)).foldl (fun x l =>
      x.setOperand f (vD w) l (k.operand f (if k.mask (vMsel w) l then vA w else vB w) l)) k
    (modCl c fun _ => k').seq (vecDone c 0 0)).next s

/-! ### Conversions -/

/-- The value that a code of a float format denotes; an integer format denotes none. -/
def codeVal (fmt x : Nat) : Val := match fmtOf fmt with
  | some f => f.dec x
  | none => .fin false 0 0

/-- IOVF of a CVT (R95). -/
def cvtIovf (w : BitVec 64) : Bool := (vExt w).testBit 4

/-- The format that a CVT names (R95). -/
def cvtFmt (w : BitVec 64) : Nat := vExt w % 16

/-- CVT to a plain format in the register form (R56 to R60). -/
def cvtOp : VOp :=
  ⟨0x20, 1, fun w => narrows (tyFmt (vTy w)) (cvtFmt w), srcB, fun w => if cvtFmt w ≤ 4 ∨ cvtFmt w = 6 then some (cvtFmt w) else none, fun w => vExt w / 32 == 0,
   fun w rm l =>
    let v := (fmtTy w).dec (l.getD 0 0)
    let f := (fmtOf (cvtFmt w)).getD b32
    let r := f.conv (cvtIovf w) rm v
    (r.1, r.2.or (sigFlag v))⟩

/-- Source formats that a CVT or a QNT of a type reads: widened exactly to it (R100; log 15). -/
def cvtSrc (ty f : Nat) : Bool := if ty = 1 then decide (f ≤ 4) || f == 6 else decide (f ≤ 5) || f == 8 || f == 9

/-- A tensor conversion is legal (R95, R100 to R102). -/
def cvtTensorOk (fmt : Nat) (w : BitVec 64) (k : Cluster) : Bool :=
  vMsel w == 0 &&
  match k.vslot (vD w), k.vslot (vA w) with
  | some d, some a => d.fmt == fmt && dstFits d && srcOk d a && cvtSrc (vTy w) a.fmt
  | _, _ => false

/-- Formats that a tensor CVT writes. -/
def cvtDst (f : Nat) : Bool := decide (f ≤ 6) || f == 8 || f == 9

/-- One element of a conversion: converted where the destination is plain; for a block format, its binary32 value,
which R61 and R62 start from: a binary64 source is first rounded to it by RNE, saturating (DESIGN CHOICE,
log 15). -/
def cvtCalc (c : Nat) (w : BitVec 64) (d a : Desc) (lin : Nat) : Prog (Except Flt Nat) := .get fun s =>
  (readElem (vecUnit s c) a (unlin d.sizes lin)).bindE fun x =>
  let v := codeVal (readFmt a.fmt) x.1
  if plainFmt d.fmt then
    (drawLane c (narrows (readFmt a.fmt) d.fmt && finiteCode (readFmt a.fmt) x.1) (vRm w) (lin % 256)).bind fun rm =>
      let r := ((fmtOf d.fmt).getD b32).conv (cvtIovf w) rm v
      (vecFlags c ((r.2.or x.2).or (sigFlag v))).seq (.ret (.ok r.1))
  else
    let r := b32.conv false .rne v
    (vecFlags c ((r.2.or x.2).or (sigFlag v))).seq (.ret (.ok (if v.isNan then b32.nan else r.1)))

/-- Elements of a destination in blocks of MXFP4, with the rounding that each draws (R61): the elements and the
scales. Nothing is rounded in a block that holds a NaN or only zeros and infinities, nor at an infinity. -/
def mxOut (c : Nat) (w : BitVec 64) (d : Desc) (lin : Nat) (codes : List Nat) : Prog (List TOut) :=
  (Prog.mapM (chunks 32 codes.length codes).zipIdx fun b =>
    let rounds := !(b.1.any (nanCode 0)) && maxMag b.1 != 0
    (Prog.mapM b.1.zipIdx fun x =>
      (drawLane c (rounds && finiteCode 0 x.1) (vRm w) ((lin + 32 * b.2 + x.2) % 256)).bind fun rm => .ret (x.1, rm)).bind fun l =>
    let (sc, q, f) := mxBlock l
    (vecFlags c f).seq (.ret (d.addr (d.off (lin + 32 * b.2)), q, sc))).bind fun l =>
  .ret [⟨l.map fun p => (p.1, 16),
      l.flatMap fun p => (chunks 2 32 p.2.1).map fun n => BitVec.ofNat 8 (n.getD 0 0 + 16 * n.getD 1 0), 32, 16⟩,
    ⟨[(d.scale + lin / 32, l.length)], l.map fun p => BitVec.ofNat 8 p.2.2, 32, 1⟩]

/-- Elements of a destination in blocks of X4 or X2, with their residuals (R62, R63). -/
def xOut (c : Nat) (d : Desc) (lin : Nat) (codes : List Nat) : Prog (TOut × List Nat) :=
  let blocks := (chunks 64 codes.length codes).map fun b => if d.fmt = 8 then x4Block b else x2Block b
  let n := if d.fmt = 8 then 34 else 18
  (vecFlags c (blocks.foldl (fun f b => f.or b.flags) Flags.none)).seq
    (.ret (⟨blocks.zipIdx.map fun b => (d.addr (d.off (lin + 64 * b.2)), n),
      blocks.flatMap fun b => if d.fmt = 8 then x4Bytes b else x2Bytes b, 64, n⟩, blocks.flatMap (·.resid)))

/-- The output of a conversion in its destination's format. -/
def cvtOut (c : Nat) (w : BitVec 64) (d : Desc) (lin : Nat) (codes : List Nat) : Prog (List TOut) :=
  if d.fmt = 5 then mxOut c w d lin codes
  else if d.fmt = 8 ∨ d.fmt = 9 then (xOut c d lin codes).bind fun p => .ret [p.1]
  else .ret [plainOut d lin codes]

/-- CVT (R56 to R61). -/
def execCvt (c : Fin 32) (w : BitVec 64) (s : State) : Host.Outcome State Fault Refusal :=
  (if vT w then
    vissue c 0x20 w (fun _ k => decide (vRm w ≤ 4) && decide (vTy w ≤ 1) && vExt w / 32 == 0 && cvtDst (cvtFmt w) &&
        cvtTensorOk (cvtFmt w) w k) fun _ k =>
      match k.vslot (vD w), k.vslot (vA w) with
      | some d, some a => tensorForm c 1 d (cvtCalc c w d a) (cvtOut c w d) (vecDone c 5 d.base)
      | _, _ => .skip
   else elementwise c cvtOp w).next s

/-- The output of a QNT: its blocks, and the residuals through slot C (R62; of MXFP4 the difference from the decoded
value, log 15). -/
def residOut (c : Nat) (w : BitVec 64) (d : Desc) (r : Option Desc) (lin : Nat) (codes : List Nat) : Prog (List TOut) :=
  let save (res : List Nat) : List TOut := (r.map fun rd => plainOut rd lin res).toList
  if d.fmt = 5 then (mxOut c w d lin codes).bind fun o =>
    let nib := ((o.map (·.data)).headD []).flatMap fun b => [b.toNat % 16, b.toNat / 16]
    let scales := (o.map (·.data)).getD 1 []
    let res := codes.zipIdx.map fun x =>
      let v := (mxDecode (scales.getD (x.2 / 32) 0).toNat (nib.getD x.2 0)).1
      if b32.nonfinite x.1 || b32.nonfinite v then 0 else (b32.sub .rne x.1 v).1
    .ret (o ++ save res)
  else (xOut c d lin codes).bind fun p => .ret (p.1 :: save p.2)

/-- Whether a QNT is legal (R95, R98 to R103). -/
def qntOk (w : BitVec 64) (k : Cluster) : Bool :=
  vT w && decide (vRm w ≤ 4) && vTy w == 0 && vMsel w == 0 && (vExt w == 0 || vExt w == 32) &&
  match k.vslot (vD w), k.vslot (vA w) with
  | some d, some a => (d.fmt == 5 || d.fmt == 8 || d.fmt == 9) && dstFits d && srcOk d a && a.fmt == 0 &&
      (vExt w == 0 || match k.vslot (vC w) with
        | some r => r.fmt == 0 && r.sizes == d.sizes && dstFits r && r.apart a
        | none => false)
  | _, _ => false

/-- One element of a source as the destination's index names it. -/
def copyCalc (c : Nat) (d a : Desc) (lin : Nat) : Prog (Except Flt Nat) := .get fun s =>
  (readElem (vecUnit s c) a (unlin d.sizes lin)).bindE fun x => .ret (.ok x.1)

/-- QNT (R61 to R63): tensor form alone; EXT[5] writes residuals through slot C. -/
def execQnt (c : Fin 32) (w : BitVec 64) (s : State) : Host.Outcome State Fault Refusal :=
  (vissue c 0x21 w (fun _ k => qntOk w k) fun _ k =>
    match k.vslot (vD w), k.vslot (vA w) with
    | some d, some a =>
      tensorForm c 1 d (copyCalc c d a)
        (residOut c w d (if vExt w = 32 then k.vslot (vC w) else none)) (vecDone c 5 d.base)
    | _, _ => .skip).next s

/-- CVTI (R64). -/
def execCvti (c : Fin 32) (w : BitVec 64) (s : State) : Host.Outcome State Fault Refusal :=
  (elementwise c ⟨0x22, 1, fun _ => true, srcB, fun _ => some 7, extNone, fun w rm l => (fmtTy w).toI32 rm (l.getD 0 0)⟩ w).next s

/-- ICVT (R64). -/
def execIcvt (c : Fin 32) (w : BitVec 64) (s : State) : Host.Outcome State Fault Refusal :=
  (elementwise c ⟨0x23, 1, fun w => vExt w == 0, fun w => if vTy w = 2 then some 7 else none,
    fun w => if vExt w = 0 then some 0 else if vExt w = 6 then some 6 else none, fun w => vExt w / 16 == 0,
    fun w rm l => (if vExt w = 6 then b64 else b32).ofI32 rm (l.getD 0 0)⟩ w).next s

/-! ### Reductions -/

/-- One level of the tree of R104: neighbours combine, the lower first. -/
def treeLevel (f : Nat → Nat → Prog Nat) : List Nat → Prog (List Nat)
  | a :: b :: r => (f a b).bind fun x => (treeLevel f r).bind fun l => .ret (x :: l)
  | l => .ret l

/-- The pairwise tree of R104 over a list; `none` for an empty one. -/
def tree (f : Nat → Nat → Prog Nat) : Nat → List Nat → Prog (Option Nat)
  | 0, l => .ret l.head?
  | fuel + 1, l =>
    match l with
    | [] => .ret none
    | [x] => .ret (some x)
    | l => (treeLevel f l).bind fun l' => tree f fuel l'

/-- How two values combine in a reduction, with its flags. Under SR an addition of finite values draws from lane 0's
register, the lane that receives the result: R52 and R104 name no lane (DESIGN CHOICE, log 3). -/
def combine (c : Nat) (w : BitVec 64) (rounds : Bool) (f : Fmt → Rm → Nat → Nat → Nat × Flags) (a b : Nat) : Prog Nat :=
  (drawLane c (rounds && !(fmtTy w).nonfinite a && !(fmtTy w).nonfinite b) (vRm w) 0).bind fun rm =>
    let r := f (fmtTy w) rm a b
    (vecFlags c r.2).seq (.ret r.1)

/-- A reduction in either form (R104): `zero` is its value over no elements. -/
def reduction (c op : Nat) (rounds : Bool) (zero : Fmt → Nat) (f : Fmt → Rm → Nat → Nat → Nat × Flags) (w : BitVec 64) : Prog Unit :=
  let fmt := tyFmt (vTy w)
  vissue c op w (fun _ k => decide (vRm w ≤ 4) && decide (vTy w ≤ 1) && extNone w &&
      (if vT w then vMsel w == 0 &&
        match k.vslot (vD w), k.vslot (vA w) with
        | some d, some a => d.fmt == fmt && a.fmt == fmt && dstFits d && d.sizes.headD 0 == 1 &&
            d.sizes.drop 1 == a.sizes.drop 1 && d.apart a
        | _, _ => false
       else regOk fmt (vD w) && regOk fmt (vA w))) fun s k =>
    if vT w then
      match k.vslot (vD w), k.vslot (vA w) with
      | some d, some a =>
        tensorForm c 1 d (fun lin => .get fun s =>
            let idx := (unlin d.sizes lin).drop 1
            (Prog.mapE (List.range (a.sizes.headD 0)) fun i => readElem (vecUnit s c) a (i :: idx)).bindE fun l =>
              (tree (combine c w rounds f) 32 (l.map (·.1))).bind fun r => .ret (.ok (r.getD (zero (fmtTy w)))))
          (fun lin codes => .ret [plainOut d lin codes]) (vecDone c 5 d.base)
      | _, _ => .skip
    else
      (tree (combine c w rounds f) 32 ((activeLanes k (vecVl s c) (vMsel w)).map fun l => k.operand fmt (vA w) l)).bind fun r =>
        (modCl c fun k => k.setOperand fmt (vD w) 0 (r.getD (zero (fmtTy w)))).seq (vecDone c 0 0)

/-- RSUM (R104). -/
def execRsum (c : Fin 32) (w : BitVec 64) (s : State) : Host.Outcome State Fault Refusal :=
  (reduction c 0x28 true (fun _ => 0) (fun f rm a b => f.add rm a b) w).next s
/-- RMAX (R104). -/
def execRmax (c : Fin 32) (w : BitVec 64) (s : State) : Host.Outcome State Fault Refusal :=
  (reduction c 0x29 false (fun f => f.inf true) (fun f _ a b => f.max a b) w).next s
/-- RMIN (R104). -/
def execRmin (c : Fin 32) (w : BitVec 64) (s : State) : Host.Outcome State Fault Refusal :=
  (reduction c 0x2A false (fun f => f.inf false) (fun f _ a b => f.min a b) w).next s

/-! ### Permutation and softmax -/

/-- FILL as an operand of a type (R106). -/
def fillOf (s : State) (c fmt : Nat) : Nat := if fmt = 6 then (s.rd .VEC_FILL c).toNat else (s.rd .VEC_FILL c).toNat % 2 ^ 32

/-- PERM (R106). -/
def execPerm (c : Fin 32) (w : BitVec 64) (s : State) : Host.Outcome State Fault Refusal :=
  (vissue c 0x30 w (fun _ _ => !vT w && decide (vRm w ≤ 4) && decide (vTy w ≤ 1) && extNone w &&
      regOk (tyFmt (vTy w)) (vD w) && regOk (tyFmt (vTy w)) (vA w)) fun s k =>
    let f := tyFmt (vTy w)
    let vl := vecVl s c
    let lanes := activeLanes k vl (vMsel w)
    let k' := lanes.foldl (fun x l =>
      x.setOperand f (vD w) l (if k.lane (vB w) l < vl then k.operand f (vA w) (k.lane (vB w) l) else fillOf s c f)) k
    let out := (lanes.filter fun l => decide (vl ≤ k.lane (vB w) l)).length
    Prog.all [modCl c fun _ => k', Prog.when (out != 0) ((setF .VEC_EVT Fld.VEC_EVT_PERM_RANGE c).seq
        (count (setVec c) 0x24 out { ltag := vecTag s c })), vecDone c 0 0]).next s

/-- The exact softmax of a finite row in fixed point, each output free within 4 units in the last place (R107;
log 4). The lane of each finite value draws for the rounding of its division under SR (R52); what the division
rounds to lies in the free value. `lane` gives the lane of a place in the row. -/
def softmaxRow (c : Nat) (w : BitVec 64) (lane : Nat → Nat) (row : List (Option Val)) : Prog (List Nat) :=
  let fx := row.map fun v => match v with
    | some (.fin n m e) => some (fxOf n m e)
    | _ => none
  let top := (fx.filterMap id).foldl (fun a b => if a < b then b else a) ((fx.filterMap id).headD 0)
  let ex := fx.map fun v => match v with
    | some x => if x - top < -170 * fxOne then 0 else fxExpF (x - top)
    | none => 0
  let sum := ex.foldl (· + ·) 0
  Prog.mapM (ex.zip fx).zipIdx fun x =>
    match x.1.2 with
    | none => .ret 0
    | some _ => (drawLane c true (vRm w) (lane x.2)).bind fun _ =>
        freeVal.bind fun err => .ret (within 4 err.toNat false (fxDiv x.1.1 sum).toNat (-fxP))

/-- A row of SMAX: the outputs, where a lane's entry is its code, or none where it is masked (R107). -/
def smaxRow (c : Nat) (w : BitVec 64) (lane : Nat → Nat) (row : List (Option Nat)) : Prog (List Nat) :=
  let vals := row.map fun x => x.map b32.dec
  let open' := vals.filterMap id
  let infs := (open'.filter (Val.isInf false)).length
  if open'.any Val.isNan then
    (vecFlags c (open'.foldl (fun f v => f.or (sigFlag v)) Flags.none)).seq (.ret (row.map fun _ => b32.nan))
  else if open'.all (Val.isInf true) then
    (setF .VEC_EVT Fld.VEC_EVT_SMX_EMPTY c).seq (.ret (row.map fun _ => 0))
  else if infs ≠ 0 then
    Prog.mapM vals.zipIdx fun v =>
      if (v.1.map (Val.isInf false)).getD false then
        (drawLane c true (vRm w) (lane v.2)).bind fun rm => .ret (b32.div rm 0x3F800000 (b32.ofI32 .rne infs).1).1
      else .ret 0
  else softmaxRow c w lane vals

/-- Whether the tensor form of SMAX is legal (R102, R103, R107). -/
def smaxOk (w : BitVec 64) (k : Cluster) : Bool :=
  vMsel w == 0 && decide (vExt w ≤ 1) &&
  match k.vslot (vD w), k.vslot (vA w) with
  | some d, some a => d.fmt == 0 && a.fmt == 0 && dstFits d && srcOk d a && decide (d.sizes.headD 0 ≤ 65536) &&
      (vExt w == 0 || match k.vslot (vB w) with
        | some m => m.fmt == 10 && srcOk d m
        | none => false)
  | _, _ => false

/-- The row of a tensor-form SMAX that begins at a linear index: its outputs, which are kept for a resumption inside
the row, since part of them may have been written over it (R103, R105). -/
def smaxRowAt (c : Nat) (w : BitVec 64) (d a : Desc) (m : Option Desc) (lin : Nat) : Prog (Except Flt (List Nat)) := .get fun s =>
  let u := vecUnit s c
  (Prog.mapE (List.range (d.sizes.headD 0)) fun i =>
    let idx := unlin d.sizes (lin + i)
    (match m with
      | none => Prog.ret (Except.ok (1, Flags.none))
      | some m => readElem u m idx).bindE fun b =>
    if b.1 = 0 then .ret (.ok none) else (readElem u a idx).bindE fun x => .ret (.ok (some x.1))).bindE fun row =>
  (smaxRow c w (fun i => (lin + i) % 256) row).bind fun o => (modCl c fun k => { k with vrow := o }).seq (.ret (.ok o))

/-- The outputs of `n` elements of a tensor-form SMAX from `lin` on, row by row; those of a row that a fault stopped
inside are at hand (R105). -/
def smaxFrom (c : Nat) (w : BitVec 64) (d a : Desc) (m : Option Desc) (n0 : Nat) :
    Nat → Nat → Nat → List Nat → Prog (Except (Flt × Nat) (List Nat))
  | 0, _, _, acc => .ret (.ok acc)
  | fuel + 1, lin, n, acc => .get fun s =>
    if n = 0 then .ret (.ok acc) else
    let k := lin % n0
    let took := min n (n0 - k)
    (if k = 0 then smaxRowAt c w d a m lin else .ret (.ok (s.cluster c).vrow)).bind fun r =>
      match r with
      | .error f => .ret (.error (f, acc.length))
      | .ok row => smaxFrom c w d a m n0 fuel (lin + took) (n - took) (acc ++ (row.drop k).take took)

/-- Part of a tensor-form SMAX computed and written. -/
def smaxPart (c : Nat) (w : BitVec 64) (d a : Desc) (m : Option Desc) (lin n : Nat) : Prog TEnd := .get fun s =>
  (smaxFrom c w d a m (d.sizes.headD 0) (n + 1) lin n []).bind fun r =>
    match r with
    | .error (f, k) => .ret (.fault f none k)
    | .ok codes => writeOuts (vecUnit s c) n [plainOut d lin codes]

/-- SMAX (R107). -/
def execSmax (c : Fin 32) (w : BitVec 64) (s : State) : Host.Outcome State Fault Refusal :=
  (vissue c 0x31 w (fun _ k => decide (vRm w ≤ 4) && vTy w == 0 && (if vT w then smaxOk w k else extNone w)) fun s k =>
    if vT w then
      match k.vslot (vD w), k.vslot (vA w) with
      | some d, some a =>
        tensorRun c d (smaxPart c w d a (if vExt w = 1 then k.vslot (vB w) else none)) (vecDone c 5 d.base)
      | _, _ => .skip
    else
      (smaxRow c w id ((List.range (vecVl s c)).map fun l =>
        if k.mask (vMsel w) l then some (k.lane (vA w) l) else none)).bind fun o =>
      (modCl c fun k => o.zipIdx.foldl (fun x p => x.setLane (vD w) p.2 p.1) k).seq (vecDone c 0 0)).next s

/-! ### Copies, loads and stores -/

/-- Bytes of a block of MXFP4, X4 or X2. -/
def blockLen (f : Nat) : Nat := (fmtUnit f).2

/-- One block of a source, as the destination's index names it, and its scale of MXFP4 above it (R100, R102). -/
def blockCalc (c : Nat) (d a : Desc) (lin : Nat) : Prog (Except Flt Nat) := .get fun s =>
  let u := vecUnit s c
  let idx := unlin d.sizes lin
  let n := blockLen d.fmt
  (vget u (a.addr (a.offFor idx)) n).bindE fun b =>
    if d.fmt = 5 then
      (vget u (a.scale + scaleIdx a (List.zipWith (fun i z => if z = 1 then 0 else i) idx a.sizes)) 1).bindE fun sc =>
        .ret (.ok (leNat b + leNat sc * 2 ^ (8 * n)))
    else .ret (.ok (leNat b))

/-- The output of a copy of blocks: the blocks, and the scales of MXFP4. -/
def blockOut (d : Desc) (lin : Nat) (codes : List Nat) : List TOut :=
  let n := blockLen d.fmt
  let per := (fmtUnit d.fmt).1
  ⟨codes.zipIdx.map fun x => (d.addr (d.off (lin + per * x.2)), n), codes.flatMap (leBytes n), per, n⟩ ::
    (if d.fmt = 5 then [⟨[(d.scale + lin / 32, codes.length)], codes.map fun x => BitVec.ofNat 8 (x / 2 ^ (8 * n)), 32, 1⟩]
     else [])

/-- MOV (R95). -/
def execMov (c : Fin 32) (w : BitVec 64) (s : State) : Host.Outcome State Fault Refusal :=
  (vissue c 0x38 w (fun _ k => decide (vRm w ≤ 4) && decide (vTy w ≤ 2) && extNone w &&
      (if vT w then vMsel w == 0 &&
        match k.vslot (vD w), k.vslot (vA w) with
        | some d, some a => d.fmt == a.fmt && dstFits d && srcOk d a
        | _, _ => false
       else regOk (tyFmt (vTy w)) (vD w) && regOk (tyFmt (vTy w)) (vA w))) fun s k =>
    if vT w then
      match k.vslot (vD w), k.vslot (vA w) with
      | some d, some a =>
        if plainFmt d.fmt then
          tensorForm c 1 d (copyCalc c d a) (fun lin codes => .ret [plainOut d lin codes]) (vecDone c 5 d.base)
        else tensorForm c (fmtUnit d.fmt).1 d (blockCalc c d a) (fun lin codes => .ret (blockOut d lin codes))
          (vecDone c 5 d.base)
      | _, _ => .skip
    else
      let f := tyFmt (vTy w)
      let k' := (activeLanes k (vecVl s c) (vMsel w)).foldl (fun x l =>
        if f = 6 then x.setOperand 6 (vD w) l (k.operand 6 (vA w) l) else x.setLane (vD w) l (k.lane (vA w) l)) k
      (modCl c fun _ => k').seq (vecDone c 0 0)).next s

/-- Formats that VLD widens to, and VST converts from, a type (R95; log 15). -/
def ldFmt (ty f : Nat) : Bool :=
  match ty with
  | 0 => decide (f ≤ 4)
  | 1 => decide (f ≤ 4) || f == 6
  | _ => f == 7 || f == 10

/-- Lanes with the linear indices that they read or write, below the element count (R96). -/
def ldLanes (k : Cluster) (vl : Nat) (w : BitVec 64) (d : Desc) : List Nat :=
  (activeLanes k vl (vMsel w)).filter fun l => decide (vExt w + l < d.count)

/-- The address of element EXT of a slot (R410). -/
def ldAddr (d : Desc) (w : BitVec 64) : Nat := d.addr (d.off (vExt w))

/-- One lane of a VLD: the value it receives, and the flags (R95). -/
def vldLane (c : Nat) (w : BitVec 64) (a : Desc) (l : Nat) : Prog (Except Flt (Nat × Flags)) := .get fun s =>
  (readElem (vecUnit s c) a (unlin a.sizes (vExt w + l))).bindE fun x =>
  .ret (.ok (if vTy w = 2 then (x.1, Flags.none)
    else
      let v := codeVal a.fmt x.1
      (((fmtTy w).conv false .rne v).1, sigFlag v)))

/-- VLD (R95, R96). -/
def execVld (c : Fin 32) (w : BitVec 64) (s : State) : Host.Outcome State Fault Refusal :=
  (vissue c 0x40 w (fun _ k => !vT w && decide (vRm w ≤ 4) && decide (vTy w ≤ 2) && regOk (tyFmt (vTy w)) (vD w) &&
      match k.vslot (vA w) with
      | some a => ldFmt (vTy w) a.fmt
      | none => false) fun s k =>
    match k.vslot (vA w) with
    | none => .skip
    | some a =>
      let lanes := ldLanes k (vecVl s c) w a
      (Prog.mapE lanes (vldLane c w a)).bind fun r =>
      match r with
      | .error f => vecFault c f 0 (unlin a.sizes (vExt w))
      | .ok l => Prog.all [modCl c fun k => (lanes.zip l).foldl (fun x p => x.setOperand (tyFmt (vTy w)) (vD w) p.1 p.2.1) k,
          vecFlags c (l.foldl (fun f p => f.or p.2) Flags.none), vecDone c 6 (ldAddr a w)]).next s

/-- One lane of a VST: the lane and the code it stores (R95). -/
def vstLane (c : Nat) (w : BitVec 64) (d : Desc) (k : Cluster) (l : Nat) : Prog (Nat × Nat) :=
  if vTy w = 2 then .ret (l, k.operand 7 (vA w) l)
  else
    let src := tyFmt (vTy w)
    (drawLane c (narrows src d.fmt && finiteCode src (k.operand src (vA w) l)) (vRm w) l).bind fun rm =>
      let v := codeVal (tyFmt (vTy w)) (k.operand (tyFmt (vTy w)) (vA w) l)
      let r := ((fmtOf d.fmt).getD b32).conv false rm v
      (vecFlags c (r.2.or (sigFlag v))).seq (.ret (l, r.1))

/-- VST (R95, R96). R102 makes a destination with a stride of 0 in a dimension of size above 1 illegal in the tensor
form; a VST has the register form, and through such a slot it runs, the last lane written staying (DEDUCED,
log 15). -/
def execVst (c : Fin 32) (w : BitVec 64) (s : State) : Host.Outcome State Fault Refusal :=
  (vissue c 0x41 w (fun _ k => !vT w && decide (vRm w ≤ 4) && decide (vTy w ≤ 2) && regOk (tyFmt (vTy w)) (vA w) &&
      match k.vslot (vD w) with
      | some d => (ldFmt (vTy w) d.fmt || (vTy w == 0 && d.fmt == 6))
      | none => false) fun s k =>
    match k.vslot (vD w) with
    | none => .skip
    | some d =>
      (Prog.mapM (ldLanes k (vecVl s c) w d) (vstLane c w d k)).bind fun l =>
      let n := elemBytes d.fmt
      let runs := joinRuns (l.map fun p => (d.addr (d.off (vExt w + p.1)), n))
      (scatter (vecUnit s c) runs (l.flatMap fun p => leBytes n p.2)).bind fun r =>
        match r with
        | .error f => vecFault c f 0 (unlin d.sizes (vExt w))
        | .ok _ => vecDone c 6 (ldAddr d w)).next s

/-! ### The slipway -/

/-- SLPOP takes four rows of the head entry (R92). -/
def popSlip (c : Nat) (w : BitVec 64) (e : SlipEntry) : Prog Unit :=
  Prog.all [modCl c fun k =>
      let f := (fmtOf e.fmt).getD b32
      let k := (List.range 256).foldl (fun x l =>
        x.setLane (vD w) l (b32.conv false .rne (f.dec (e.codes.getD (256 * e.pops + l) 0))).1) k
      { k with slip := if e.pops = 15 then k.slip.drop 1 else { e with pops := e.pops + 1 } :: k.slip.drop 1 },
    showSeq c, vecDone c 7 0]

/-- SLTAG copies the head entry's tag and array number into lane 0 (R92, R96). -/
def tagSlip (c : Nat) (w : BitVec 64) (e : SlipEntry) : Prog Unit :=
  (modCl c fun k => if k.mask (vMsel w) 0 then k.setLane (vD w) 0 (e.tag.toNat + e.array % 8 * 2 ^ 16) else k).seq (vecDone c 0 0)

/-- A slipway instruction finds the head entry, or waits (R92). -/
def slipOp (c : Nat) (w : BitVec 64) : Prog Unit := .get fun s =>
  match (s.cluster c).slip with
  | e :: _ => if vOp w = 0x48 then popSlip c w e else tagSlip c w e
  | [] => (modCl c fun k => { k with vwait := some w }).seq (setVecSt c 3)

/-- SLPOP (R92). -/
def execSlpop (c : Fin 32) (w : BitVec 64) (s : State) : Host.Outcome State Fault Refusal :=
  (vissue c 0x48 w (fun _ _ => !vT w && decide (vRm w ≤ 4) && vTy w == 0 && extNone w) fun _ _ => slipOp c w).next s

/-- SLTAG (R92). -/
def execSltag (c : Fin 32) (w : BitVec 64) (s : State) : Host.Outcome State Fault Refusal :=
  (vissue c 0x49 w (fun _ _ => !vT w && decide (vRm w ≤ 4) && vTy w == 2 && extNone w) fun _ _ => slipOp c w).next s

/-- A SLPOP or SLTAG that waits proceeds when an entry has joined (R92). -/
def execSlpopWaitEnd (c : Fin 32) (s : State) : Host.Outcome State Fault Refusal :=
  (Prog.get fun s =>
    match (s.cluster c).vwait, (s.cluster c).slip with
    | some w, e :: _ =>
      if vecState s c == 3 then Prog.all [setVecSt c 1, if vOp w = 0x48 then popSlip c w e else tagSlip c w e, showVec c]
      else .skip
    | _, _ => .skip).next s

/-! ### Control instructions (R97) -/

/-- SETVL. -/
def execSetvl (c : Fin 32) (w : BitVec 64) (s : State) : Host.Outcome State Fault Refusal :=
  (vissue c 0x70 w (fun _ _ => vf 56 48 w == 0 && vf 38 0 w == 0 && decide (1 ≤ vf 47 39 w) && decide (vf 47 39 w ≤ 256))
    fun _ _ => (wrF .VEC_STATUS Fld.VEC_STATUS_VL (vf 47 39 w) c).seq (vecDone c 0 0)).next s

/-- SETF. -/
def execSetf (c : Fin 32) (w : BitVec 64) (s : State) : Host.Outcome State Fault Refusal :=
  (vissue c 0x71 w (fun _ _ => vf 56 50 w == 0 && vf 47 42 w == 0 && vf 35 0 w == 0 && decide (vTy w ≤ 2) &&
      regOk (tyFmt (vTy w)) (vA w))
    fun _ k => (wr .VEC_FILL (BitVec.ofNat 64 (k.operand (tyFmt (vTy w)) (vA w) 0)) c).seq (vecDone c 0 0)).next s

/-- DLD (R97, R445). -/
def execDld (c : Fin 32) (w : BitVec 64) (s : State) : Host.Outcome State Fault Refusal :=
  (vissue c 0x72 w (fun _ _ => vf 56 48 w == 0 && vf 41 24 w == 0) fun s _ =>
    (vget (vecUnit s c) (((s.rd .VEC_DTAB_BASE c).toNat + 64 * vExt w) % 2 ^ 48) 64).bind fun x =>
      match x with
      | .error f => vecFault c f 0 []
      | .ok d =>
        let desc := BitVec.ofNat 512 (leNat d)
        (modCl c fun k => { k with vslots := Tab.upd none k.vslots (vD w) (if descOk desc then some desc else none) }).seq
          (vecDone c 0 0)).next s

/-- VSIG: as TSIG. -/
def execVsig (c : Fin 32) (w : BitVec 64) (s : State) : Host.Outcome State Fault Refusal :=
  (vissue c 0x73 w (fun _ _ => vf 56 22 w == 0 && vf 21 6 w != 0) fun _ _ =>
    (tokenAdd c (vf 5 0 w) (vf 21 6 w)).seq (vecDone c 0 0)).next s

/-- The test of a VWAIT. -/
def vwaitTake (c : Nat) (w : BitVec 64) : Prog Bool := tokenTake c (vf 5 0 w) (vf 21 6 w) (vf 22 22 w == 1)

/-- VWAIT: as TWAIT. -/
def execVwait (c : Fin 32) (w : BitVec 64) (s : State) : Host.Outcome State Fault Refusal :=
  (vissue c 0x74 w (fun _ _ => vf 56 23 w == 0) fun _ _ =>
    (vwaitTake c w).bind fun ok =>
      if ok then vecDone c 8 0 else (modCl c fun k => { k with vwait := some w }).seq (setVecSt c 2)).next s

/-- A waiting VWAIT completes; a sequencer's wait on the same token is served first (R83). -/
def execVwaitRelease (c : Fin 32) (s : State) : Host.Outcome State Fault Refusal :=
  (Prog.get fun s =>
    match (s.cluster c).vwait with
    | none => .skip
    | some w =>
      if vecState s c != 2 then .skip
      else (vwaitTake c w).bind fun ok =>
        if ok then Prog.all [setVecSt c 1, vecDone c 8 0, showVec c] else .skip).next s

/-- VBR. -/
def execVbr (c : Fin 32) (w : BitVec 64) (s : State) : Host.Outcome State Fault Refusal :=
  (vissue c 0x75 w (fun _ _ => vf 56 52 w == 0 && decide (vf 51 48 w ≤ 2) && (vf 51 48 w == 2 || vf 41 26 w == 0) &&
      (if vf 51 48 w = 1 then decide (vf 47 42 w ≤ 3) else vf 51 48 w == 2 || vf 47 42 w == 0)) fun s k =>
    let arg := vf 47 42 w
    let go := k.vpc + BitVec.ofInt 48 (8 * signedOf 26 (vf 25 0 w))
    let next := k.vpc + 8
    match vf 51 48 w with
    | 0 => vecNext c 0 0 go
    | 1 =>
      let n := Tab.at 0 k.vloops arg - 1
      (modCl c fun k => { k with vloops := Tab.upd 0 k.vloops arg n }).seq (vecNext c 0 0 (if n = 0 then next else go))
    | _ => vecNext c 0 0 (if vf 41 26 w ≤ tokenCount s c arg then go else next)).next s

/-- VLSET. -/
def execVlset (c : Fin 32) (w : BitVec 64) (s : State) : Host.Outcome State Fault Refusal :=
  (vissue c 0x76 w (fun _ _ => vf 56 50 w == 0 && vf 47 32 w == 0) fun _ _ =>
    (modCl c fun k => { k with vloops := Tab.upd 0 k.vloops (vTy w) (BitVec.ofNat 32 (vf 31 0 w)) }).seq (vecDone c 0 0)).next s

/-- VEND: the engine stops in IDLE. -/
def execVend (c : Fin 32) (w : BitVec 64) (s : State) : Host.Outcome State Fault Refusal :=
  (vissue c 0x7F w (fun _ _ => vf 56 0 w == 0) fun _ _ => (vecDone c 0 0).seq (setVecSt c 0)).next s

/-! ### Commands of the vector engine (R109) -/

/-- VEC_CMD.START. -/
def vecStartDo (c : Fin 32) : Prog Unit := .get fun s =>
  (if vecState s c == 0 && (s.ownerCl c).isSome then
      Prog.all [modCl c fun k => { k with vpc := (s.rd .VEC_PROG_BASE c).truncate 48, vwait := none, vchunk := 0, vrow := [], vagain := false },
        setVecSt c 1, showVec c]
    else setF .VEC_ERR Fld.VEC_ERR_CMDIGN c)

/-- `execVecStart`: the command. -/
def execVecStart (c : Fin 32) (s : State) : Host.Outcome State Fault Refusal := (vecStartDo c).next s

/-- VEC_CMD.STOP: the engine stops after the current chunk; a waiting instruction is taken again. In a state other
than RUN or a wait it has no effect and sets no CMDIGN (DEDUCED, as ARY_CMD.STOP; log 12). -/
def vecStopDo (c : Fin 32) : Prog Unit := .get fun s =>
  (if vecState s c == 1 || vecState s c == 2 || vecState s c == 3 then
      (modCl c fun k => { k with vwait := none }).seq (setVecSt c 4)
    else .skip)

/-- `execVecStop`: the command. -/
def execVecStop (c : Fin 32) (s : State) : Host.Outcome State Fault Refusal := (vecStopDo c).next s

/-- VEC_CMD.RESUME. -/
def vecResumeDo (c : Fin 32) : Prog Unit := .get fun s =>
  (if vecState s c == 4 || vecState s c == 5 then setVecSt c 1 else setF .VEC_ERR Fld.VEC_ERR_CMDIGN c)

/-- `execVecResume`: the command. -/
def execVecResume (c : Fin 32) (s : State) : Host.Outcome State Fault Refusal := (vecResumeDo c).next s

end Sys2Proof.Machine
end

