-- ==== Sys2Proof/Machine/BindBase.lean ====
section
/-!
DEFINITION. Sys2Proof/Machine/BindBase.lean: places of registers (R300, R403), strobe groups (R305), device
states (R398), and what a binding owns: creation, save areas, drain and end (R314, R318, R321 to R323).
-/

namespace Sys2Proof.Machine

/-! ### Places of registers (R300, R403, R407) -/

/-- The base of a counter set (R403). -/
def setBase (n : Nat) : Nat :=
  if n < 32 then 0x408000 + 0x10000 * n
  else if n < 64 then 0x608000 + 0x10000 * (n - 32)
  else if n < 68 then 0x808000 + 0x10000 * (n - 64)
  else if n < 70 then 0xA08000 + 0x10000 * (n - 68)
  else if n < 86 then 0xC08000 + 0x10000 * (n - 70)
  else if n < 90 then 0xF08000 + 0x10000 * (n - 86)
  else if n < 114 then 0x1008000 + 0x10000 * (n - 90)
  else if n < 118 then 0x1208000 + 0x10000 * (n - 114)
  else if n < 121 then 0x1420000 + 0x1000 * (n - 118)
  else 0x1C10000 + 0x1000 * (n - 121)

/-- The number of programmable counters of a set (R403). -/
def setSize (n : Nat) : Nat :=
  if n < 32 then 8 else if n < 64 then 4 else if n < 68 then 8 else if n < 86 then 4 else if n < 90 then 8 else 4

/-- A register of a counter set, and its offset in the set (R407). -/
def cntOffset : RegName → Option Nat
  | .CNT_CYCLE => some 0
  | .CNT_OVF => some 8
  | .CNT_CMD => some 0x10
  | .CNT_SEL => some 0x100
  | .CNT_VAL => some 0x200
  | _ => none

/-- The offset of a register in BAR0 (R300). -/
def keyOffset (k : RegKey) : Nat :=
  match cntOffset k.name with
  | some o => setBase k.i + o + 8 * k.j
  | none => k.name.info.base + k.name.info.s1 * k.i + k.name.info.s2 * k.j

/-! ### Strobe groups (R305, R307) -/

/-- A group as a pair: its kind and its number. -/
def groupCode : Group → Nat × Nat
  | .cluster c => (0, c)
  | .codec e => (1, e)
  | .lu u => (2, u)
  | .su s => (3, s)
  | .mover m => (4, m)
  | .port p => (5, p)
  | .ce n => (6, n)
  | .channel ch => (7, ch)
  | .ferryPort x => (8, x)
  | .ferryEngine => (9, 0)
  | .sliceXlt b x => (10, b + 8 * x)
  | .sliceHorn b => (11, b)
  | .device d => (12, d)

/-- The domain of each device counter set (R403). -/
def devDomain (i : Nat) : Nat := if i < 7 then i else 96 + (i - 7)

/-- The group of a counter set (R403). -/
def setGroup (n : Nat) : Nat × Nat :=
  if n < 32 then (0, n) else if n < 64 then (0, n - 32) else if n < 68 then (2, n - 64) else if n < 70 then (3, n - 68)
  else if n < 86 then (12, 39 + (n - 70)) else if n < 90 then (4, n - 86) else if n < 114 then (5, n - 90)
  else if n < 118 then (6, n - 114) else if n < 120 then (8, n - 118) else if n = 120 then (9, 0)
  else (12, devDomain (n - 121))

/-- The strobe group of a register, by the ranges of R300 and the table of R305; for a register of another
class, the group of its unit. -/
def keyGroup (k : RegKey) : Nat × Nat :=
  let a := k.name.info.base
  match k.name with
  | .XLT_ROOT => (10, k.j + 8 * k.i)
  | .FAB_VOTE | .FAB_VOTEROOT => (11, k.i)
  | .SMP_CTRL | .SMP_BASE | .SMP_HEAD | .SMP_READ | .SMP_LOST | .SMP_ERR => (0, k.i)
  | .XLT_INV | .XLT_STATUS | .XLT_ERR | .XLT_WALKCNT => if k.i < 32 then (0, k.i) else (12, 92)
  | .MEM_CDC_CRTBASE | .MEM_CDC_CRTCOUNT | .MEM_CDC_DTADDR | .MEM_CDC_DTSTEP | .MEM_CDC_STATUS | .MEM_CDC_ERR
  | .MEM_CDC_BWIN | .MEM_CDC_STALECNT | .MEM_CDC_STALLCNT | .MEM_CDC_RAWCNT => (1, k.i)
  | .FAB_PCFG | .FAB_PSTATUS | .FAB_PERR | .FAB_ARB | .FAB_ECHO | .FAB_HORNRES | .FAB_REPLAYCNT | .FAB_DROPCNT => (5, k.i)
  | .FAB_CE_OPBASE | .FAB_CE_OPCOUNT | .FAB_CE_CMD | .FAB_CE_STATUS | .FAB_CE_ERR | .FAB_CE_FLAGS | .FAB_CE_ERRADDR
  | .FAB_CE_LATECNT => (6, k.i)
  | .FRY_PCFG | .FRY_PSTATUS | .FRY_PERR | .FRY_MAC | .FRY_GWMAC | .FRY_IPLO | .FRY_IPHI | .FRY_DROPCNT => (8, k.i)
  | _ =>
    if (cntOffset k.name).isSome then setGroup k.i
    else if a < 0x100000 then (12, 1) else if a < 0x200000 then (12, 6) else if a < 0x400000 then (12, 2)
    else if a < 0x800000 then (0, k.i) else if a < 0xA00000 then (2, k.i) else if a < 0xC00000 then (3, k.i)
    else if a < 0xE00000 then (12, 39 + k.i) else if a < 0xF00000 then (12, 92) else if a < 0x1000000 then (4, k.i)
    else if a < 0x1400000 then (12, 55)
    else if a < 0x1800000 then (if k.name.info.n1 = 64 then (7, k.i) else (9, 0))
    else if a < 0x1A00000 then (12, 96) else if a < 0x1C00000 then (12, 1) else (12, 99)

/-- The counter sets of a group, in which its strobes are counted (R408). -/
def groupSets (g : Nat × Nat) : List Nat := (List.range 132).filter fun n => setGroup n == g

/-- The binding that owns a group, if any (R305). -/
def State.groupOwner (s : State) (g : Nat × Nat) : Option Nat :=
  match g.1 with
  | 0 => s.ownerCl g.2
  | 1 => s.cdcOwner g.2
  | 2 => s.ownerUnit g.2
  | 3 => s.ownerUnit (4 + g.2)
  | 4 => s.ownerUnit (10 + g.2)
  | 5 => s.ownerUnit (32 + g.2)
  | 6 => s.ownerUnit (6 + g.2)
  | 7 => if (s.ownerCh g.2).isSome then some (s.chBind g.2) else none
  | 8 | 9 => s.ownerUnit 16
  | 10 => if s.bound (g.2 % 8) then some (g.2 % 8) else none
  | 11 => if s.bound g.2 then some g.2 else none
  | _ => none

/-- Every group. -/
def allGroups : List Group :=
  (List.finRange 32).map .cluster ++ (List.finRange 40).map .codec ++ (List.finRange 4).map .lu ++
  (List.finRange 2).map .su ++ (List.finRange 4).map .mover ++ (List.finRange 24).map .port ++
  (List.finRange 4).map .ce ++ (List.finRange 64).map .channel ++ (List.finRange 2).map .ferryPort ++
  [.ferryEngine] ++ ((List.finRange 8).map fun b => (List.finRange 35).map (Group.sliceXlt b)).flatten ++
  (List.finRange 8).map .sliceHorn

/-- The domains in which a device group has registers (R305, R307): those of the counter sets of R403, the
vaults, the translation units' shared registers and the horn engine. -/
def deviceDomains : List (Fin 100) :=
  (List.finRange 100).filter fun d => d.val ≤ 6 || (39 ≤ d.val && d.val ≤ 55) || d.val == 92 || 96 ≤ d.val

/-- The groups that a binding's strobe reaches (R305). -/
def State.groupsOf (s : State) (b : Nat) : List Group := allGroups.filter fun g => s.groupOwner (groupCode g) == some b

/-- The groups that APPLY reaches: those of no binding and the device's (R308). -/
def State.freeGroups (s : State) : List Group :=
  (allGroups.filter fun g => s.groupOwner (groupCode g) == none) ++ deviceDomains.map .device

/-! ### Device states (R398, R401) -/

/-- A half pulls FAULT_N low. -/
def State.faultN (s : State) : Bool := s.boot.east.fault || s.boot.west.fault

/-- CAUSE of FAULTED, 0 where the device is not faulted (R398, R401). -/
def State.faultCause (s : State) : Nat :=
  if s.stage = 8 then 1 else if s.boot.halfDis then 2 else if s.faultN then 3 else if s.jnlState = 4 then 4 else 0

/-- STATE of a binding (R324). -/
def State.bstate (s : State) (b : Nat) : Nat := s.rdF .BND_STATE Fld.BND_STATE_STATE b

/-- The device state that R398 gives. -/
def State.devState (s : State) : Nat :=
  if s.rdF .GLB_STATE Fld.GLB_STATE_STATE = 6 || s.faultCause ≠ 0 then 6
  else if s.boot.recover && s.boot.on then 7
  else if s.stage < 4 then 0
  else if (List.range 8).any fun b => s.bstate b == 3 then 4
  else if s.stage = 6 && (List.range 8).any fun b => s.bstate b != 0 then 3
  else if s.stage = 6 then 2 else 1

/-- GLB_STATE shows the device state; a change sets GLB_EVT.STATE (R400), and running commands complete ABORTED
when the device becomes faulted (R399). -/
def showDevice : Prog Unit := .get fun s =>
  let old := s.rdF .GLB_STATE Fld.GLB_STATE_STATE
  let new := s.devState
  Prog.all [
    Prog.when (new == 6 && old != 6) (wrF .GLB_STATE Fld.GLB_STATE_CAUSE s.faultCause),
    wrF .GLB_STATE Fld.GLB_STATE_STATE new,
    wrF .GLB_STATE Fld.GLB_STATE_LEADE (if s.boot.leader == some .east then 1 else 0),
    wrF .GLB_STATE Fld.GLB_STATE_FAULTN (if s.faultN then 1 else 0),
    Prog.when (new != old) (glbEvent 0),
    Prog.when (new == 6 && old != 6) (abortCommands fun _ => true)]

/-- A binding's state changes (R324, R400). -/
def setBstate (b st : Nat) : Prog Unit := .get fun s =>
  if s.bstate b = st then .skip
  else Prog.all [wrF .BND_STATE Fld.BND_STATE_STATE st b, glbEvent 2, showDevice]

/-- NBIND and NSTEP (R324). -/
def showCounts : Prog Unit := .get fun s =>
  (wrF .BND_STATUS Fld.BND_STATUS_NBIND ((List.range 8).filter s.bound).length).seq
    (wrF .BND_STATUS Fld.BND_STATUS_NSTEP ((List.range 8).filter s.steps).length)

/-! ### Resources (R314, R318, R324) -/

/-- The bits of RESOURCES that name resources. -/
def resMask : Nat :=
  (2 ^ 32 - 1) + (2 ^ 17 - 1) * 2 ^ 32 + (2 ^ 24 - 1) * 2 ^ 64 + (2 ^ 64 - 1) * 2 ^ 128

/-- What a binding owns, as bits of RESOURCES. -/
def State.owned (s : State) (b : Nat) : Nat :=
  let u := (s.rd .BND_UNITS b).toNat
  (s.rd .BND_CLMASK b).toNat + u % 2 ^ 32 * 2 ^ 32 + bits 55 32 u * 2 ^ 64 + (s.rd .BND_CHMASK b).toNat * 2 ^ 128

/-- The numbers of the resources in a set of bits. -/
def resList (r : Nat) : List Nat := (List.range 192).filter fun i => resMask.testBit i && r.testBit i

/-- A set of bits without another. -/
def without (a b : Nat) : Nat := a - (a &&& b)

/-- What any binding owns. -/
def State.allOwned (s : State) : Nat := (List.range 8).foldl (fun a b => a ||| s.owned b) 0

/-- The Landing Unit that leads, if any (R318). -/
def leadOf (r : Nat) : Option Nat := firstFrom (fun u => r.testBit (32 + u)) 4 0

/-- The loader names a channel's binding in FRY_CH_CFG, in the value in force and in a pending one (R309). -/
def nameBinding (ch b : Nat) : Prog Unit := .get fun s =>
  let k : RegKey := ⟨.FRY_CH_CFG, ch, 0⟩
  (wrF .FRY_CH_CFG Fld.FRY_CH_CFG_BIND b ch).seq (pendWrite k (putF Fld.FRY_CH_CFG_BIND (s.pending' k) b))

/-- A binding owns a set of resources, and its registers and those of its channels show it (R309, R324). -/
def setOwned (b r : Nat) : Prog Unit := Prog.all [
  wr .BND_CLMASK (BitVec.ofNat 64 (r % 2 ^ 32)) b,
  wr .BND_UNITS (BitVec.ofNat 64 (bits 63 32 r + bits 87 64 r * 2 ^ 32)) b,
  wr .BND_CHMASK (BitVec.ofNat 64 (bits 191 128 r)) b,
  Prog.each (List.range 64) fun ch => Prog.when (r.testBit (128 + ch)) (nameBinding ch b),
  wrF .BND_STATE Fld.BND_STATE_LEAD ((leadOf r).getD 0) b,
  wrF .BND_STATE Fld.BND_STATE_LEADVALID (if (leadOf r).isSome then 1 else 0) b,
  showCounts]

/-- The Landing Units of a binding show which of them leads (R158, R318). -/
def showLead (b : Nat) : Prog Unit := .get fun s =>
  let r := s.owned b
  Prog.each (List.range 4) fun u => Prog.when (r.testBit (32 + u))
    (wrF .LND_STATUS Fld.LND_STATUS_LEAD (if leadOf r == some u then 1 else 0) u)

/-- The group of a resource and of its codec (R305). -/
def resGroups (i : Nat) : List (Nat × Nat) :=
  if i < 32 then [(0, i), (1, i)]
  else if i < 36 then [(2, i - 32), (1, i)]
  else if i < 38 then [(3, i - 36)]
  else if i < 42 then [(6, i - 38)]
  else if i < 46 then [(4, i - 42), (1, 36 + (i - 42))]
  else if i < 48 then [(8, i - 46)]
  else if i = 48 then [(9, 0)]
  else if 64 ≤ i && i < 88 then [(5, i - 64)]
  else if 128 ≤ i then [(7, i - 128)] else []

/-- Whether a register is part of a unit's state: what is not a setting, and the counter selections, values and
sample settings (R321, R409, R412). The cycle counter never is (R404), and a port's link state is the link's. -/
def stateReg (k : RegKey) : Bool :=
  match k.name with
  | .CNT_CYCLE => false
  | .CNT_SEL | .CNT_VAL | .SMP_CTRL | .SMP_BASE | .SMP_READ => true
  | _ => ((keyGroup k).1 != 5) && ((keyGroup k).1 != 8) && ((keyGroup k).1 != 9) && k.name.info.acc != .rw && k.name.info.acc != .pw

/-- A register in which errors stand until they are read, or one that says where they arose (R8). -/
def errReg (k : RegKey) : Bool :=
  k.name.info.acc == .rc ||
  match k.name with
  | .ARY_ERRADDR | .VEC_ERRADDR | .LND_ERRENT | .LND_ERRIDX | .MOV_ERRDESC | .FAB_CE_ERRADDR => true
  | _ => false

/-- Registers of a unit go to their reset values; those in which errors stand, only where `errs` says so. -/
def resetRegs (gs : List (Nat × Nat)) (errs : Bool := true) : Prog Unit := .get fun s =>
  Prog.each ((s.reg.map (·.1)).filter fun k => gs.contains (keyGroup k) && stateReg k && (errs || !errReg k)) fun k =>
    .one (.setReg k (regDefault k))

/-- A resource takes the state that creation gives: every unit empty, tokens 0, slots and banks invalid (R84,
R93, R218, R445); `owned` says whether a binding owns it. Where it becomes unbound, its errors stand (log 61), and a
solver unit's work ends ABORTED (R173). Descriptors posted before stay posted no more: the heads of its rings are at
their tails. A channel whose streams a save area holds does not end them (R295). -/
def createUnit (owned : Bool) (i : Nat) : Prog Unit := .get fun s =>
  (Prog.when (decide (36 ≤ i) && decide (i < 38)) (suAbortAll (i - 36))).seq <|
  (resetRegs (resGroups i) owned).seq
    (if i < 32 then Prog.all [
        .one (.setEpochs (s.epochs + 1)), modCl i fun _ => Cluster.init s.epochs, .one (.setCodec i Codec.init)]
     else if i < 36 then Prog.all [
        modLu (i - 32) fun _ => Lu.init, .one (.setCodec i Codec.init),
        wrF .LND_STATUS Fld.LND_STATUS_STATE (if owned then 1 else 0) (i - 32)]
     else if i < 38 then (modSu (i - 36) fun k => { Su.init with works := k.works }).seq (setSuState (i - 36) (if owned then 1 else 0))
     else if i < 42 then (modCe (i - 38) fun _ => Ce.init).seq
        (wrF .FAB_CE_STATUS Fld.FAB_CE_STATUS_STATE (if owned then 0 else 4) (i - 38))
     else if i < 46 then Prog.all [
        modMov (i - 42) fun _ => Mover.init, .one (.setCodec (36 + (i - 42)) Codec.init),
        setMovState (i - 42) (if owned then 0 else 4),
        wrF .MOV_HEAD Fld.MOV_HEAD_HEAD (s.rdF .MOV_TAIL Fld.MOV_TAIL_TAIL (i - 42)) (i - 42)]
     else if i = 48 then (wrF .FRY_STATUS Fld.FRY_STATUS_STATE (if owned then 0 else 3)).seq (Prog.when owned fryShow)
     else if 128 ≤ i then Prog.all [
        Prog.when (!(owned && s.saves.any fun x => x.unit == i)) (chanOff (i - 128)),
        .one (.setChan (i - 128) { Chan.init with
          txhead := s.rdF .FRY_CH_TXTAIL Fld.FRY_CH_TXTAIL_TAIL (i - 128)
          rxhead := s.rdF .FRY_CH_RXTAIL Fld.FRY_CH_RXTAIL_TAIL (i - 128) }),
        chanEnable (i - 128)]
     else .skip)

/-- Clusters lent by RESOURCES (R147, R160, R314): the units' registers and the clusters' states. -/
def setLending (r res : Nat) : Prog Unit := Prog.all [
  Prog.each (List.range 4) fun u => Prog.when (r.testBit (32 + u)) (Prog.all [
    wrF .LND_LENT Fld.LND_LENT_CLUSTER (bits (196 + 6 * u) (192 + 6 * u) res) u,
    wrF .LND_LENT Fld.LND_LENT_VALID (bits (197 + 6 * u) (197 + 6 * u) res) u]),
  Prog.each (List.range 2) fun t => Prog.when (r.testBit (36 + t))
    (wr .SLV_LENT (BitVec.ofNat 64 (bits (287 + 32 * t) (256 + 32 * t) res)) t),
  Prog.get fun s => Prog.each (List.range 32) fun c => Prog.when (r.testBit c)
    (if (s.lentLu c).isSome || (s.lentSu c).isSome then setSeq c 7
     else Prog.when (seqState s c == 7) (setSeq c 0))]

/-! ### Drain and save (R243, R321) -/

/-- A resource drains (R243). -/
def drainUnit (i : Nat) : Prog Unit := .get fun s =>
  if i < 32 then Prog.all [
    Prog.when (seqState s i == 1 || seqState s i == 2 || seqState s i == 3) (drainSeq i),
    vecStopDo (⟨i % 32, Nat.mod_lt _ (by decide)⟩)]
  else if i < 36 then drainLu (i - 32)
  else if i < 38 then stopSu (i - 36)
  else if i < 42 then drainCe (i - 38)
  else if i < 46 then drainMov (i - 42)
  else if i = 48 then (Prog.each ((List.range 64).filter fun ch => s.ownerCh ch == s.ownerUnit 16) chStopDo).seq
    (wrF .FRY_STATUS Fld.FRY_STATUS_STATE 2)
  else if 128 ≤ i then chStopDo (i - 128)
  else .skip

/-- Whether a resource counts as drained: stopped, idle, or in FAULT_STOP or HALT_ILLEGAL (R242, R322). -/
def State.drained (s : State) (i : Nat) : Bool :=
  if i < 32 then
    let st := seqState s i
    (st == 0 || 4 ≤ st) && !(vecState s i == 1 || vecState s i == 2 || vecState s i == 3)
  else if i < 36 then !luActive s (i - 32) || (luVoted s (i - 32) && !(s.landing (i - 32)).drain)
  else if i < 38 then let st := suState s (i - 36); st ≤ 1 || 6 ≤ st
  else if i < 42 then
    let st := s.rdF .FAB_CE_STATUS Fld.FAB_CE_STATUS_STATE (i - 38)
    let k := s.engine (i - 38)
    st == 2 || st == 3 || (k.drain && k.decays.isEmpty) || (st != 1 && k.ops.isEmpty && k.decays.isEmpty)
  else if i < 46 then movState s (i - 42) != 1
  else if 128 ≤ i then let st := s.chState (i - 128); !(st == 2 || st == 3 || st == 4)
  else true

/-- The state of a resource as its save area holds it (R89, R93, R242, R321; log 36). A cluster that stopped
at a SEG with DEAD = 1 saves no accumulators and no operand buffers. -/
def State.saveUnit (s : State) (addr i : Nat) : Saved :=
  let gs := resGroups i
  { addr := addr
    unit := i
    regs := s.reg.filter fun e => gs.contains (keyGroup e.1) && stateReg e.1
    cl := if i < 32 then
        some (if (s.cluster i).dead then { s.cluster i with acc := [], ishadow := [], buf := [] } else s.cluster i)
      else none
    codec := if i < 36 then some (s.cdc i) else if 42 ≤ i && i < 46 then some (s.cdc (36 + (i - 42))) else none
    mov := if 42 ≤ i && i < 46 then some (s.mover (i - 42)) else none
    ce := if 38 ≤ i && i < 42 then some (s.engine (i - 38)) else none
    su := if 36 ≤ i && i < 38 then some (s.solver (i - 36)) else none
    chans := if 128 ≤ i then [(i - 128, s.ch (i - 128))] else [] }

/-- Resources are saved at an area; what the area held of them before is replaced. -/
def saveUnits (addr : Nat) (l : List Nat) : Prog Unit := .get fun s =>
  .one (.setSaves ((s.saves.filter fun x => !(x.addr == addr && l.contains x.unit)) ++ l.map (s.saveUnit addr)))

/-- The UNIT of R237 by which RESTORE names a resource (R313). -/
def unitCode (i : Nat) : Option Nat :=
  if i < 32 then some i else if i < 36 then some (0x40 + (i - 32)) else if i < 38 then some (0x44 + (i - 36))
  else if i < 42 then some (0x4C + (i - 38)) else if i < 46 then some (0x48 + (i - 42))
  else if i = 46 || i = 47 || i = 48 || 128 ≤ i then some 0x50 else none

/-- A resource takes the state of a save area (R321). A cluster's vector engine is part of the resource. -/
def restoreUnit (x : Saved) : Prog Unit := Prog.all [
  resetRegs (resGroups x.unit),
  Prog.each x.regs fun e => .one (.setReg e.1 e.2),
  (match x.cl with | some k => modCl x.unit fun _ => k | none => .skip),
  (match x.codec with
    | some k => .one (.setCodec (if x.unit < 36 then x.unit else 36 + (x.unit - 42)) k)
    | none => .skip),
  (match x.mov with | some k => modMov (x.unit - 42) fun _ => k | none => .skip),
  (match x.ce with | some k => modCe (x.unit - 38) fun _ => k | none => .skip),
  (match x.su with | some k => modSu (x.unit - 36) fun _ => k | none => .skip),
  Prog.each x.chans fun e => .one (.setChan e.1 e.2)]

/-- A resource takes its new owner's state: from the area that RESTORE names, else that of creation (R321). -/
def takeUnit (restores : List (Nat × Nat)) (i : Nat) : Prog Unit := .get fun s =>
  match (unitCode i).bind fun c => restores.find? fun r => r.1 == c || (i < 32 && r.1 == 0x20 + c) with
  | none => createUnit true i
  | some r =>
    match s.saves.find? fun x => x.addr == r.2 && x.unit == i with
    | none => createUnit true i
    | some x => restoreUnit x

/-! ### The end of a binding (R323) -/

/-- BND_ARMED (R324): images armed and not yet applied, with APPLYSTEP of the oldest. -/
def showArmed (b : Nat) : Prog Unit := .get fun s =>
  let l := (s.binding b).taken ++ (s.binding b).armed
  (wrF .BND_ARMED Fld.BND_ARMED_COUNT l.length b).seq
    (wrF .BND_ARMED Fld.BND_ARMED_APPLYSTEP ((l.map (·.applyStep)).headD 0) b)

/-- PHASE of the re-binding; the device work so far is a time, and left free (R324; log 2). -/
def setPhase (p : Nat) : Prog Unit :=
  (Prog.when (decide (2 ≤ p)) (freeVal.bind fun v => wrF .BND_RB_STATUS Fld.BND_RB_STATUS_ELAPSED v.toNat)).seq <|
  (wrF .BND_RB_STATUS Fld.BND_RB_STATUS_PHASE p).seq
    (wrF .BND_STATUS Fld.BND_STATUS_RBBUSY (if p = 0 || p = 5 || p = 6 then 0 else 1))

/-- A binding ends: its resources drain and become unbound with their state discarded, and it becomes FREE (R323). The
image of a re-binding toward it is discarded, and the moving resources become unbound (R322). Its commands
complete ABORTED (R399), but for the one that ends it. -/
def endBinding (b : Nat) (but : Option Nat) : Prog Unit := .get fun s =>
  if s.bstate b = 0 then .skip
  else Prog.all [
    Prog.each (resList (s.owned b)) drainUnit,
    Prog.each (resList (s.owned b)) (createUnit false),
    (match s.rb with
      | some r =>
        if r.to' = b then Prog.all [
          Prog.each (resList r.units.toNat) (createUnit false),
          (match r.from' with | some f => setOwned f (without (s.owned f) r.units.toNat) | none => .skip),
          setPhase 0, .one (.setRb none),
          (match r.host with | some q => complete q hcAborted 0 0 | none => .skip)]
        else .skip
      | none => .skip),
    setOwned b 0,
    .one (.setBnd b Binding.init), .one (.setVote b Vote.init),
    wr .BND_JOB 0 b, wr .BND_STEP 0 b, wr .BND_COMMIT 0 b, wr .BND_CROSS 0 b, showArmed b,
    wrF .BND_STATE Fld.BND_STATE_LEAD 0 b,
    wr .FAB_VOTESTAT 0 b,
    setBstate b 0, showCounts,
    Prog.get fun s => Prog.each ((List.range 17).filter fun q => some q != but &&
        (s.hqueue q).cmd.any fun c => c.names.contains b && c.op != 0x10) fun q => complete q hcAborted 0 0]

/-- Every binding ends. -/
def endAll (but : Option Nat) : Prog Unit := Prog.each (List.range 8) fun b => endBinding b but

end Sys2Proof.Machine
end

