-- ==== Sys2Proof/Machine/Slh.lean ====
section
/-!
DEFINITION. Sys2Proof/Machine/Slh.lean: verification of a signature of SLH-DSA-SHA2-192s, pure and with an empty context,
as FIPS 205 defines it, which the spec names (R349, R350, R358, R360).
-/

namespace Sys2Proof.Machine

/-! ### SHA-512 and SHA-256 -/

/-- The initial value of SHA-512. -/
def sha512Init : List (BitVec 64) :=
  [0x6A09E667F3BCC908, 0xBB67AE8584CAA73B, 0x3C6EF372FE94F82B, 0xA54FF53A5F1D36F1,
   0x510E527FADE682D1, 0x9B05688C2B3E6C1F, 0x1F83D9ABFB41BD6B, 0x5BE0CD19137E2179]

/-- SHA-512 as 64 bytes. -/
def sha512 (d : List Byte) : List Byte :=
  let p := shaPad d
  ((chunks 128 p.length p).foldl shaBlock sha512Init).flatMap fun x => beBytes 8 x.toNat

/-- The functions of SHA-256, as those of SHA-384 on words of 32 bits. -/
def sha2Small0 (x : BitVec 32) : BitVec 32 := x.rotateRight 7 ^^^ x.rotateRight 18 ^^^ x >>> 3
/-- See `sha2Small0`. -/
def sha2Small1 (x : BitVec 32) : BitVec 32 := x.rotateRight 17 ^^^ x.rotateRight 19 ^^^ x >>> 10
/-- See `sha2Small0`. -/
def sha2Big0 (x : BitVec 32) : BitVec 32 := x.rotateRight 2 ^^^ x.rotateRight 13 ^^^ x.rotateRight 22
/-- See `sha2Small0`. -/
def sha2Big1 (x : BitVec 32) : BitVec 32 := x.rotateRight 6 ^^^ x.rotateRight 11 ^^^ x.rotateRight 25

/-- The message schedule, the newest word first: `n` more words after those there. -/
def sha2Schedule : Nat → List (BitVec 32) → List (BitVec 32)
  | 0, w => w
  | n + 1, w => sha2Schedule n ((sha2Small1 (w.getD 1 0) + w.getD 6 0 + sha2Small0 (w.getD 14 0) + w.getD 15 0) :: w)

/-- One round on the eight working variables, with the sum of its constant and its message word. -/
def sha2Round (v : List (BitVec 32)) (kw : BitVec 32) : List (BitVec 32) :=
  match v with
  | [a, b, c, d, e, f, g, h] =>
    let t1 := h + sha2Big1 e + ((e &&& f) ^^^ (~~~e &&& g)) + kw
    [t1 + sha2Big0 a + ((a &&& b) ^^^ (a &&& c) ^^^ (b &&& c)), a, b, c, d + t1, e, f, g]
  | _ => v

/-- The digest's value after one more block of 64 bytes. The round constants are the upper halves of the first 64 of
SHA-384's. -/
def sha2Block (v : List (BitVec 32)) (d : List Byte) : List (BitVec 32) :=
  let w := (sha2Schedule 48 ((chunks 4 16 d).map fun x => BitVec.ofNat 32 (beNat x)).reverse).reverse
  let k := (shaK.take 64).map fun (x : BitVec 64) => (x >>> 32).setWidth 32
  List.zipWith (· + ·) v ((List.zipWith (· + ·) k w).foldl sha2Round v)

/-- SHA-256 as 32 bytes: the initial value is the upper halves of SHA-512's. -/
def sha256 (d : List Byte) : List Byte :=
  let p := d ++ [0x80#8] ++ List.replicate ((128 - (d.length + 9) % 64) % 64) 0 ++ beBytes 8 (8 * d.length)
  ((chunks 64 p.length p).foldl sha2Block (sha512Init.map fun (x : BitVec 64) => (x >>> 32).setWidth 32)).flatMap fun x => beBytes 4 x.toNat

/-! ### Addresses and the hash functions of the parameter set: n = 24, h = 63, d = 7, a = 14, k = 17, w = 16 -/

/-- An address: layer, tree, type, and three words that the type gives a meaning. -/
structure SlhAdrs where
  layer : Nat
  tree  : Nat
  typ   : Nat
  pair  : Nat
  mid   : Nat
  low   : Nat
deriving DecidableEq, Repr

/-- The compressed address of 22 bytes. -/
def SlhAdrs.bytes (x : SlhAdrs) : List Byte :=
  beBytes 1 x.layer ++ beBytes 8 x.tree ++ beBytes 1 x.typ ++ beBytes 4 x.pair ++ beBytes 4 x.mid ++ beBytes 4 x.low

/-- F: one block of 24 bytes. -/
def slhF (seed : List Byte) (x : SlhAdrs) (m : List Byte) : List Byte :=
  (sha256 (seed ++ List.replicate 40 0 ++ x.bytes ++ m)).take 24

/-- H and T: several blocks. -/
def slhT (seed : List Byte) (x : SlhAdrs) (m : List Byte) : List Byte :=
  (sha512 (seed ++ List.replicate 104 0 ++ x.bytes ++ m)).take 24

/-- The message digest of 39 bytes: MGF1 with SHA-512. -/
def slhDigest (r seed root m : List Byte) : List Byte :=
  let s := r ++ seed ++ sha512 (r ++ seed ++ root ++ m)
  (sha512 (s ++ beBytes 4 0)).take 39

/-- A byte string as `n` digits of `b` bits, the most significant first. -/
def slhDigits (b n : Nat) (d : List Byte) : List Nat :=
  let x := beNat d / 2 ^ (8 * d.length - b * n)
  (List.range n).map fun i => x / 2 ^ (b * (n - 1 - i)) % 2 ^ b

/-- The root of a tree from a node, its index and its authentication path; `x` gives the tree's address. -/
def slhClimb (seed : List Byte) (x : SlhAdrs) : Nat → Nat → Nat → List Byte → List (List Byte) → List Byte
  | _, _, _, node, [] => node
  | height, idx, side, node, a :: l =>
    let up := { x with mid := height, low := idx / 2 }
    slhClimb seed x (height + 1) (idx / 2) (side / 2) (slhT seed up (if side % 2 = 0 then node ++ a else a ++ node)) l

/-! ### WOTS+, XMSS and the hypertree -/

/-- A chain of hashes from step `i`, `n` steps long. -/
def slhChain (seed : List Byte) (x : SlhAdrs) : Nat → Nat → List Byte → List Byte
  | 0, _, m => m
  | n + 1, i, m => slhChain seed x n (i + 1) (slhF seed { x with low := i } m)

/-- A WOTS+ public key from a signature. -/
def wotsPk (seed : List Byte) (layer tree pair : Nat) (sig m : List Byte) : List Byte :=
  let msg := slhDigits 4 48 m
  let sum := (msg.map fun d => 15 - d).sum
  let digits := msg ++ slhDigits 4 3 (beBytes 2 (16 * sum))
  let x : SlhAdrs := ⟨layer, tree, 0, pair, 0, 0⟩
  slhT seed { x with typ := 1 } (((chunks 24 51 sig).zip digits).zipIdx.flatMap fun e =>
    slhChain seed { x with mid := e.2 } (15 - e.1.2) e.1.2 e.1.1)

/-- The root of an XMSS tree from a signature: 51 blocks of WOTS+ and 9 of its path. -/
def xmssRoot (seed : List Byte) (layer tree idx : Nat) (sig m : List Byte) : List Byte :=
  slhClimb seed ⟨layer, tree, 2, 0, 0, 0⟩ 1 idx idx (wotsPk seed layer tree idx (sig.take 1224) m) (chunks 24 9 (sig.drop 1224))

/-- The root of the hypertree from the signatures of the layers, the lowest first. -/
def htRoot (seed : List Byte) : Nat → Nat → Nat → List Byte → List (List Byte) → List Byte
  | _, _, _, m, [] => m
  | layer, tree, leaf, m, sig :: l => htRoot seed (layer + 1) (tree / 512) (tree % 512) (xmssRoot seed layer tree leaf sig m) l

/-- The FORS public key from a signature: 17 trees of a secret value and 14 blocks of path each. -/
def forsPk (seed : List Byte) (tree pair : Nat) (sig md : List Byte) : List Byte :=
  let x : SlhAdrs := ⟨0, tree, 3, pair, 0, 0⟩
  slhT seed { x with typ := 4 } (((chunks 360 17 sig).zip (slhDigits 14 17 md)).zipIdx.flatMap fun e =>
    let leaf := e.2 * 16384 + e.1.2
    slhClimb seed x 1 leaf e.1.2 (slhF seed { x with low := leaf } (e.1.1.take 24)) (chunks 24 14 (e.1.1.drop 24)))

/-- Verification of a signature of 16,224 bytes under a public key of 48 bytes, PK.seed then PK.root (R349, R350). -/
def slhVerify (key msg sig : List Byte) : Bool :=
  let seed := key.take 24
  let root := key.drop 24
  let dig := slhDigest (sig.take 24) seed root ([0, 0] ++ msg)
  let tree := beNat ((dig.drop 30).take 7) % 2 ^ 54
  let leaf := beNat (dig.drop 37) % 512
  let fors := forsPk seed tree leaf ((sig.drop 24).take 6120) (dig.take 30)
  key.length == 48 && sig.length == 16224 && htRoot seed 0 tree leaf fors (chunks 1440 7 (sig.drop 6144)) == root

end Sys2Proof.Machine
end

