-- ==== Sys2Proof/Machine/Security.lean ====
section
/-!
DEFINITION. Sys2Proof/Machine/Security.lean: the security island: anti-rollback, ownership, berths, the
control-path cipher engine, the SPDM responder and the debug challenge (R348 to R367).
-/

namespace Sys2Proof.Machine

/-- Bytes read from plain memory: none where one of them is poisoned. -/
def cleanRead (a n : Nat) : Prog (Option (List Byte)) :=
  (physRead a n).bind fun l => .ret (if l.any (·.2) then none else some (l.map (·.1)))

/-! ### Anti-rollback (R354) -/

/-- SVN of the running image (R350). -/
def State.svn (s : State) : Nat := bits 55 48 s.boot.image.toNat

/-- SEC_ARB_CMD: the advance is refused, or begins with the journal record of its target (R354). -/
def arbCmdDo (val : Word) : Prog Unit := posted .sec <| Prog.get fun s =>
  let t := getF Fld.SEC_ARB_CMD_TARGET val
  (wr .SEC_ARB_CMD val).seq
    (if t ≤ s.boot.arb || s.svn < t then setF .SEC_ERR Fld.SEC_ERR_ARBREF else jnlHand ⟨7, 0, false, leBytes 1 t, false⟩)

/-- The record of a pending target is acknowledged: fuses are burnt up to it, and the mirror record follows
(R354). -/
def arbBurn (t : Nat) : Prog Unit := .get fun s =>
  if t ≤ s.boot.arb then .skip
  else Prog.all [modBoot fun b => { b with arb := t }, wrF .SEC_ARB Fld.SEC_ARB_ARB t, jnlHand ⟨8, 0, false, leBytes 1 t, false⟩]

/-- ARB_CMD. -/
def execArbCmd (val : BitVec 64) (s : State) : Host.Outcome State Fault Refusal := (arbCmdDo val).next s

/-! ### Berths (R361, R362) -/

/-- A berth empties. -/
def emptyBerth (b : Nat) : Prog Unit := .get fun s =>
  Prog.when (decide (s.rdF .SEC_BERTH_META Fld.SEC_BERTH_META_STATE b ≠ 0))
    (Prog.all [wr .SEC_BERTH_META 0 b, .one (.setKey b 0), jnlHand ⟨3, b, true, [], false⟩])

/-- Every berth empties (R359, R363). -/
def emptyBerths : Prog Unit := Prog.each (List.range 64) emptyBerth

/-- Whether a plaintext of a blob has no reserved value in its usage word (R361). -/
def usageOk (p : List Byte) : Bool :=
  let w := leNat (p.drop 32)
  p.length == 40 && (bits 3 0 w == 1 || bits 3 0 w == 2) && bits 31 4 w == 0

/-- LOAD of a berth (R361, R362). -/
def berthLoad' (b addr : Nat) : Prog Unit := .get fun s =>
  if s.rdF .SEC_BERTH_META Fld.SEC_BERTH_META_STATE b ≠ 0 then setF .SEC_ERR Fld.SEC_ERR_BUSY
  else (cleanRead addr 48).bind fun d =>
    match d.bind fun blob => s.sec.kek.bind fun k => kwUnwrap k blob with
    | none => setF .SEC_ERR Fld.SEC_ERR_UNWRAP
    | some p =>
      if !usageOk p then setF .SEC_ERR Fld.SEC_ERR_UNWRAP
      else Prog.all [
        .one (.setKey b (BitVec.ofNat 256 (beNat (p.take 32)))),
        wrF .SEC_BERTH_META Fld.SEC_BERTH_META_STATE 1 b,
        wrF .SEC_BERTH_META Fld.SEC_BERTH_META_USE (bits 3 0 (leNat (p.drop 32))) b,
        wrF .SEC_BERTH_META Fld.SEC_BERTH_META_HOLDERS 0 b,
        wrF .SEC_BERTH_META Fld.SEC_BERTH_META_KSN (bits 63 32 (leNat (p.drop 32))) b,
        journalBerth b]

/-- CLEAR of a berth (R362). -/
def berthClear' (b : Nat) : Prog Unit := .get fun s =>
  if s.rdF .SEC_BERTH_META Fld.SEC_BERTH_META_STATE b = 2 then setF .SEC_ERR Fld.SEC_ERR_BUSY else emptyBerth b

/-- SEC_BERTH_CMD; OP 0 does nothing (R367), and OP 3 neither (DEDUCED, log 37). -/
def berthCmdDo (val : Word) : Prog Unit := posted .sec <|
  (wr .SEC_BERTH_CMD val).seq
    (let b := getF Fld.SEC_BERTH_CMD_BERTH val
     match getF Fld.SEC_BERTH_CMD_OP val with
     | 1 => berthLoad' b (getF Fld.SEC_BERTH_CMD_ADDR val)
     | 2 => berthClear' b
     | _ => .skip)

/-- BERTH_LOAD: a write of SEC_BERTH_CMD whose OP is LOAD. -/
def execBerthLoad (val : BitVec 64) (s : State) : Host.Outcome State Fault Refusal :=
  (berthCmdDo (putF Fld.SEC_BERTH_CMD_OP val 1)).next s

/-- BERTH_CLEAR: a write of SEC_BERTH_CMD whose OP is CLEAR. -/
def execBerthClear (val : BitVec 64) (s : State) : Host.Outcome State Fault Refusal :=
  (berthCmdDo (putF Fld.SEC_BERTH_CMD_OP val 2)).next s

/-! ### Ownership (R358, R359) -/

/-- Bytes of the parts of a key and signature record: two public keys, and two signatures (R350). -/
abbrev rsaKeyLen : Nat := 388
abbrev slhKeyLen : Nat := 48
abbrev rsaSigLen : Nat := 384
abbrev slhSigLen : Nat := 16224

/-- The owner's record: two public keys and the POLICY word (R358; log 38). -/
def ownerLen : Nat := rsaKeyLen + slhKeyLen + 8

/-- POLICY.REQSIG of an owner record. -/
def reqSig (r : List Byte) : Bool := (leNat (r.drop (rsaKeyLen + slhKeyLen))).testBit 0

/-- Both signatures of the owner over a message (R359, R360). -/
def ownerSigned (owner msg rsaSig slhSig : List Byte) : Bool :=
  rsaVerify (owner.take rsaKeyLen) msg rsaSig && slhVerify ((owner.drop rsaKeyLen).take slhKeyLen) msg slhSig

/-- SEC_STATUS shows the owner. -/
def showOwner : Prog Unit := .get fun s => Prog.all [
  wrF .SEC_STATUS Fld.SEC_STATUS_OWNED (if s.sec.owner.isSome then 1 else 0),
  wrF .SEC_STATUS Fld.SEC_STATUS_KEK (if s.sec.kek.isSome then 1 else 0),
  wrF .SEC_STATUS Fld.SEC_STATUS_REQSIG (if s.sec.owner.any reqSig then 1 else 0)]

/-- A command of R358 or R359 is refused. -/
def ownRefuse : Prog Unit := setF .SEC_ERR Fld.SEC_ERR_OWNREF

/-- The public key of a transport key pair: modulus and exponent, most significant byte first (R349, R358). -/
def transportKey (n : Nat) : List Byte :=
  beBytes 384 (Config.transportModulus n).toNat ++ beBytes 4 (Config.transportPublic n).toNat

/-- What a transport key pair's private key decrypts (R358). -/
def transportOpen (n : Nat) (blob : List Byte) : Option (List Byte) :=
  oaepOpen (Config.transportModulus n).toNat (Config.transportPrivate n).toNat blob

/-- CLAIM (R358): the record is stored, a transport key pair is generated, and its public key, signed by both
identity keys, is written out. -/
def claim' (addr out : Nat) : Prog Unit := .get fun s =>
  if s.sec.owner.isSome then ownRefuse
  else (cleanRead addr ownerLen).bind fun d =>
    match d with
    | none => ownRefuse
    | some r =>
      let n := s.sec.tcount
      let k := transportKey n
      Prog.all [
        modSec fun x => { x with owner := some r, tkey := some n, tcount := n + 1 },
        physPut out (k ++ Config.rsaSign k ++ Config.slhSign k), showOwner]

/-- SETKEK (R358): refused once a KEK is held, and where no transport key is. The KEK is journalled wrapped. -/
def setkek' (addr : Nat) : Prog Unit := .get fun s =>
  if s.sec.kek.isSome then ownRefuse
  else (cleanRead addr 384).bind fun d =>
    match d.bind fun blob => s.sec.tkey.bind fun n => transportOpen n blob with
    | none => ownRefuse
    | some p =>
      if p.length ≠ 32 then ownRefuse
      else
        let k := BitVec.ofNat 256 (beNat p)
        Prog.all [modSec fun x => { x with kek := some k, tkey := none },
          jnlHand ⟨0xA, 0, false, kwWrap Config.kekKey (beBytes 32 k.toNat), false⟩, showOwner]

/-- Whether 32 bytes are four values read in a row from SEC_RNG since the last reset (R359; log 38). -/
def nonceKnown (l : List Word) (d : List Byte) : Bool :=
  (List.range l.length).any fun i =>
    decide (4 ≤ (l.drop i).length) && ((l.drop i).take 4).reverse.flatMap (fun w => leBytes 8 w.toNat) == d

/-- RELEASE (R359): the record covers the serial and a nonce and is signed by the owner; every binding ends,
every berth is cleared, and the owner record and the KEK are erased. -/
def release' (addr : Nat) : Prog Unit := .get fun s =>
  (cleanRead addr (40 + rsaSigLen + slhSigLen)).bind fun d =>
    match d, s.sec.owner with
    | some r, some o =>
      if leNat (r.take 8) = Config.serial.toNat && nonceKnown s.sec.nonces ((r.drop 8).take 32) &&
          ownerSigned o (r.take 40) ((r.drop 40).take rsaSigLen) (r.drop (40 + rsaSigLen)) then
        Prog.all [endAll none, emptyBerths, modSec fun x => { x with owner := none, kek := none, tkey := none },
          jnlHand ⟨0xA, 0, true, [], false⟩, showOwner]
      else ownRefuse
    | _, _ => ownRefuse

/-- SEC_OWN_CMD; OP 0 does nothing (R367). -/
def ownCmdDo (val : Word) : Prog Unit := posted .sec <|
  (wr .SEC_OWN_CMD val).seq
    (let a := getF Fld.SEC_OWN_CMD_ADDR val / 64 * 64
     match getF Fld.SEC_OWN_CMD_OP val with
     | 1 => claim' a (getF Fld.SEC_OWN_CMD_OUT val * 2 ^ 18)
     | 2 => setkek' a
     | 3 => release' a
     | _ => .skip)

/-- CLAIM: a write of SEC_OWN_CMD whose OP is CLAIM. -/
def execClaim (val : BitVec 64) (s : State) : Host.Outcome State Fault Refusal :=
  (ownCmdDo (putF Fld.SEC_OWN_CMD_OP val 1)).next s

/-- SETKEK: a write of SEC_OWN_CMD whose OP is SETKEK. -/
def execSetkek (val : BitVec 64) (s : State) : Host.Outcome State Fault Refusal :=
  (ownCmdDo (putF Fld.SEC_OWN_CMD_OP val 2)).next s

/-- RELEASE: a write of SEC_OWN_CMD whose OP is RELEASE. -/
def execRelease (val : BitVec 64) (s : State) : Host.Outcome State Fault Refusal :=
  (ownCmdDo (putF Fld.SEC_OWN_CMD_OP val 3)).next s

/-! ### The control-path cipher engine (R364, R365) -/

/-- SEC_CQ_TAIL: a posted write posts requests. -/
def secCqTailDo (val : Word) : Prog Unit := posted .sec (wr .SEC_CQ_TAIL val)

/-- SEC_CQ_TAIL. -/
def execSecCqTail (val : BitVec 64) (s : State) : Host.Outcome State Fault Refusal := (secCqTailDo val).next s

/-- Whether a request breaks R364: a reserved value, a reserved bit set, or TAGLEN out of range. -/
def cqIllegal (r : Nat) : Bool :=
  !(bits 1 0 r == 1 || bits 1 0 r == 2) || bits 12 8 r < 4 || 16 < bits 12 8 r || bits 63 25 r != 0 ||
  bits 127 104 r != 0 || bits 247 200 r != 0

/-- The outcome of a request: its status, and the bytes of the tag it writes (R364). -/
def cqServe (r : Nat) : Prog (Nat × List Byte) := .get fun s =>
  let b := bits 7 2 r
  let n := bits 12 8 r
  if s.rdF .SEC_BERTH_META Fld.SEC_BERTH_META_STATE b = 0 || s.rdF .SEC_BERTH_META Fld.SEC_BERTH_META_USE b ≠ 2 then
    .ret (4, [])
  else (cleanRead (bits 103 64 r) (bits 159 128 r)).bind fun d =>
    match d with
    | none => .ret (6, [])
    | some m =>
      let tag := (beBytes 16 (cmac (s.berthKey b) m).toNat).take n
      if bits 1 0 r = 1 then .ret (1, tag)
      else (cleanRead (bits 199 160 r) n).bind fun e => .ret (match e with
        | none => (6, [])
        | some t => (if t == tag then 2 else 3, []))

/-- The request at the ring's head is served (R364): one whose OP is `op`, or one that is illegal. -/
def cqStep (op : Nat) : Prog Unit := .get fun s =>
  let h := s.rdF .SEC_CQ_HEAD Fld.SEC_CQ_HEAD_HEAD
  let a := (s.rd .SEC_CQ_BASE).toNat / 32 * 32 + 32 * h
  if h = s.rdF .SEC_CQ_TAIL Fld.SEC_CQ_TAIL_TAIL then .skip
  else (cleanRead a 32).bind fun d =>
    let r := leNat (d.getD [])
    let bad := cqIllegal r
    if !bad && bits 1 0 r ≠ op then .skip
    else (if d.isNone then Prog.ret (6, []) else if bad then Prog.ret (5, []) else cqServe r).bind fun x => Prog.all [
      physPut (bits 199 160 r) x.2,
      physPut (a + 31) (leBytes 1 x.1),
      wrF .SEC_CQ_HEAD Fld.SEC_CQ_HEAD_HEAD ((h + 1) % 32),
      Prog.when (r.testBit 13) (tokenAdd (bits 18 14 r) (bits 24 19 r) 1)]

/-- GEN: the request at the head writes its tag. -/
def execGen (s : State) : Host.Outcome State Fault Refusal := (cqStep 1).next s

/-- VERIFY: the request at the head compares its tag. -/
def execVerify (s : State) : Host.Outcome State Fault Refusal := (cqStep 2).next s

/-! ### The random source (R348, R367) -/

/-- A read of SEC_RNG: 64 fresh bits, or 0 while RNGOK is 0. -/
def rngReadDo : Prog Word := .get fun s =>
  if s.rdF .SEC_STATUS Fld.SEC_STATUS_RNGOK = 0 then .ret 0
  else freeVal.bind fun v => (modSec fun x => { x with nonces := v :: x.nonces }).seq (.ret v)

/-- RNG_READ: a host core reads SEC_RNG. -/
def execRngRead (s : State) : Host.Outcome State Fault Refusal :=
  (rngReadDo.bind fun v => .one (.emit (.answer (.core 0) (some v)))).next s

/-- RNG_HEALTH_TEST_FAILURE. -/
def execRngHealthTestFailure (s : State) : Host.Outcome State Fault Refusal :=
  ((wrF .SEC_STATUS Fld.SEC_STATUS_RNGOK 0).seq (setF .SEC_ERR Fld.SEC_ERR_RNGFAIL)).next s

/-! ### The debug challenge (R363) -/

/-- Lenique's answer to a challenge: both public keys of R350 and both signatures over the nonce (log 38). -/
def leniqueSigned (msg d : List Byte) : Bool :=
  let k := d.take rsaKeyLen
  let l := (d.drop rsaKeyLen).take slhKeyLen
  sha384 k == Config.lrsa && sha384 l == Config.lslh &&
  rsaVerify k msg ((d.drop (rsaKeyLen + slhKeyLen)).take rsaSigLen) &&
  slhVerify l msg ((d.drop (rsaKeyLen + slhKeyLen + rsaSigLen)).take slhSigLen)

/-- DEBUG_CHALLENGE: with no answer the device issues a nonce; with one that holds, debug opens, and every
berth, the owner KEK and the transport key are cleared first (R363). -/
def execDebugChallenge (sig : List (BitVec 8)) (s : State) : Host.Outcome State Fault Refusal :=
  (match sig, s.sec.dbg with
   | [], _ => if s.rdF .SEC_STATUS Fld.SEC_STATUS_RNGOK = 0 then Prog.skip else
       (Prog.mapM (List.range 4) fun _ => rngReadDo).bind fun l =>
         modSec fun x => { x with dbg := some (l.flatMap fun (w : Word) => leBytes 8 w.toNat) }
   | _, none => Prog.skip
   | d, some n =>
     if !leniqueSigned n d then modSec fun x => { x with dbg := none }
     else Prog.all [emptyBerths, modSec fun x => { x with kek := none, tkey := none, dbg := none },
       jnlHand ⟨0xA, 0, true, [], false⟩, showOwner, wrF .SEC_STATUS Fld.SEC_STATUS_DEBUG 1]).next s

/-! ### The test access port (R363, R442) -/

/-- The instructions of IEEE 1149.1: those of boundary scan, identification, and any other, which debugs. -/
inductive JtagInstr where
  | boundary
  | identify
  | debug
deriving DecidableEq, Repr

/-- The instructions that JTAG reaches: in PROD, boundary scan and identification only, until debug is opened. -/
def State.jtagReaches (s : State) (i : JtagInstr) : Bool :=
  i != .debug || Config.life != 3 || s.rdF .SEC_STATUS Fld.SEC_STATUS_DEBUG == 1

/-- The IDCODE: version, part number, Lenique's JEP106 identity and a one (R442). -/
def jtagIdcode : BitVec 32 := (0xA#4 ++ 0x0096#16 ++ Config.jep106) ++ 1#1

/-! ### Measurements (R357) -/

/-- The measurement blocks: index, raw or not, and value. -/
def State.blocks (s : State) : List (Nat × Bool × List Byte) :=
  let img := leBytes 128 s.boot.image.toNat
  [(0x01, false, beBytes 48 Config.romDigest.toNat),
   (0x02, false, shaBytes img ++ leBytes 1 s.boot.slot),
   (0x03, true, leBytes 1 s.svn ++ leBytes 1 s.boot.arb ++ leBytes 1 Config.life.toNat),
   (0x04, true, leBytes 1 (s.rdF .SEC_STATUS Fld.SEC_STATUS_DEBUG) ++
      leBytes 1 ((s.boot.east.rom.head?.map (·.outcome)).getD 0) ++ leBytes 1 ((s.boot.west.rom.head?.map (·.outcome)).getD 0)),
   (0x05, false, match s.sec.owner with
      | none => List.replicate 48 0
      | some r => shaBytes r)] ++
  ((List.range 8).map fun b => (0x10 + b, false, beBytes 48 (s.binding b).chain.toNat)) ++
  [(0x20, true, leBytes 1 (s.rd .SEC_GMAC_STATUS).toNat)]

/-- A block as a DMTF measurement (R357; log 39). -/
def blockBytes (m : Nat × Bool × List Byte) : List Byte :=
  leBytes 1 m.1 ++ leBytes 1 1 ++ leBytes 2 (m.2.2.length + 3) ++ leBytes 1 ((if m.2.1 then 0x80 else 0) + (if m.1 ≤ 1 then 0 else 1)) ++
  leBytes 2 m.2.2.length ++ m.2.2

/-- The summary of every block for a CHALLENGE (log 39). -/
def State.summary (s : State) : List Byte := shaBytes (s.blocks.flatMap blockBytes)

/-! ### The SPDM responder (R356; message layouts of SPDM 1.2, log 39) -/

/-- A response, and what the transcripts become. -/
def spdmSend (t : SpdmTransport) (m : List Byte) : Prog Unit := .one (.emit (.spdm t m))

/-- A change to the responder's state. -/
def modSpdm (f : Spdm → Spdm) : Prog Unit := modSec fun x => { x with spdm := f x.spdm }

/-- An ERROR response: 1 invalid request, 4 unexpected request, 7 unsupported request. -/
def spdmError (t : SpdmTransport) (code : Nat) : Prog Unit := spdmSend t ([0x12, 0x7F] ++ leBytes 1 code ++ [0])

/-- A request of a code in a phase, else an error. -/
def spdmReq (t : SpdmTransport) (req : List Byte) (code phase : Nat) (f : State → Prog Unit) : Prog Unit := .get fun s =>
  if req.length < 4 || (req.getD 1 0).toNat ≠ code then spdmError t 1
  else if s.sec.spdm.phase < phase then spdmError t 4 else f s

/-- GET_VERSION: version 1.2 alone; the negotiation begins again. -/
def execGetVersion (t : SpdmTransport) (req : List (BitVec 8)) (s : State) : Host.Outcome State Fault Refusal :=
  (spdmReq t req 0x84 0 fun _ =>
    let m : List Byte := [0x10, 0x04, 0, 0, 0, 1, 0, 0x12]
    (modSpdm fun _ => ⟨1, req ++ m, [], []⟩).seq (spdmSend t m)).next s

/-- GET_CAPABILITIES: certificates, challenges and signed measurements; the sizes and the exponent are
free. -/
def execGetCapabilities (t : SpdmTransport) (req : List (BitVec 8)) (s : State) : Host.Outcome State Fault Refusal :=
  (spdmReq t req 0xE1 1 fun _ => freeVal.bind fun v => freeVal.bind fun x =>
    let m : List Byte := [0x12, 0x61, 0, 0, 0] ++ leBytes 1 x.toNat ++ [0, 0] ++ leBytes 4 0x16 ++ leBytes 8 v.toNat
    (modSpdm fun k => { k with phase := 2, vca := k.vca ++ req ++ m }).seq (spdmSend t m)).next s

/-- NEGOTIATE_ALGORITHMS: SHA-384, TPM_ALG_RSASSA_3072 and SHA-384 measurements, and nothing else. -/
def execNegotiateAlgorithms (t : SpdmTransport) (req : List (BitVec 8)) (s : State) : Host.Outcome State Fault Refusal :=
  (spdmReq t req 0xE3 2 fun _ =>
    let asym := leNat ((req.drop 8).take 4)
    let hash := leNat ((req.drop 12).take 4)
    if !(asym.testBit 2 && hash.testBit 1) then spdmError t 1
    else
      let m : List Byte := [0x12, 0x63, 0, 0] ++ leBytes 2 36 ++ [1, 0] ++ leBytes 4 4 ++ leBytes 4 4 ++ leBytes 4 2 ++
        List.replicate 12 0 ++ [0, 0, 0, 0]
      (modSpdm fun k => { k with phase := 3, vca := k.vca ++ req ++ m }).seq (spdmSend t m)).next s

/-- GET_DIGESTS: slot 0 holds the RSA chain. -/
def execGetDigests (t : SpdmTransport) (req : List (BitVec 8)) (s : State) : Host.Outcome State Fault Refusal :=
  (spdmReq t req 0x81 3 fun _ =>
    let m : List Byte := [0x12, 0x01, 0, 1] ++ shaBytes Config.rsaChain
    (modSpdm fun k => { k with certs := k.certs ++ req ++ m }).seq (spdmSend t m)).next s

/-- A portion of a chain from an offset. -/
def chainPart (chain : List Byte) (off len : Nat) : List Byte := (chain.drop off).take len

/-- GET_CERTIFICATE. -/
def execGetCertificate (t : SpdmTransport) (req : List (BitVec 8)) (s : State) : Host.Outcome State Fault Refusal :=
  (spdmReq t req 0x82 3 fun _ =>
    let off := leNat ((req.drop 4).take 2)
    if (req.getD 2 0).toNat % 16 ≠ 0 || Config.rsaChain.length ≤ off then spdmError t 1
    else
      let d := chainPart Config.rsaChain off (leNat ((req.drop 6).take 2))
      let m : List Byte := [0x12, 0x02, 0, 0] ++ leBytes 2 d.length ++ leBytes 2 (Config.rsaChain.length - off - d.length) ++ d
      (modSpdm fun k => { k with certs := k.certs ++ req ++ m }).seq (spdmSend t m)).next s

/-- LNQ_GET_SLHCERT: the SLH-DSA chain is read by a vendor-defined request of an offset and a length. -/
def execLnqGetSlhcert (t : SpdmTransport) (req : List (BitVec 8)) (s : State) : Host.Outcome State Fault Refusal :=
  (spdmReq t req 0xFE 3 fun _ =>
    let off := leNat ((req.drop 4).take 4)
    let d := chainPart Config.slhChain off (leNat ((req.drop 8).take 4))
    spdmSend t ([0x12, 0x7E, 0, 0] ++ leBytes 4 d.length ++ leBytes 4 (Config.slhChain.length - off - d.length) ++ d)).next s

/-- OpaqueData: one element, the SLH-DSA signature over the transcript (R356). -/
def opaqueOf (sig : List Byte) : List Byte := [1, 0, 0, 0, 0, 0] ++ leBytes 2 sig.length ++ sig

/-- A signed response: OpaqueData's length and OpaqueData, then the RSA signature over the transcript, which
the SLH-DSA signature covers too (R356). -/
def signedTail (transcript : List Byte) : List Byte :=
  let sig := Config.slhSign transcript
  leBytes 2 (opaqueOf sig).length ++ opaqueOf sig ++ Config.rsaSign transcript

/-- A nonce of the responder: four fresh values. -/
def freshNonce : Prog (List Byte) :=
  (Prog.mapM (List.range 4) fun _ => freeVal).bind fun l => .ret (l.flatMap fun w => leBytes 8 w.toNat)

/-- CHALLENGE. -/
def execChallenge (t : SpdmTransport) (req : List (BitVec 8)) (s : State) : Host.Outcome State Fault Refusal :=
  (spdmReq t req 0x83 3 fun s =>
    if (req.getD 2 0).toNat ≠ 0 then spdmError t 1
    else freshNonce.bind fun n =>
      let m : List Byte := [0x12, 0x03, 0, 1] ++ shaBytes Config.rsaChain ++ n ++
        (if (req.getD 3 0).toNat = 0 then [] else s.summary)
      let k := s.sec.spdm
      (modSpdm fun k => { k with certs := [], meas := [] }).seq
        (spdmSend t (m ++ signedTail (k.vca ++ k.certs ++ req ++ m)))).next s

/-- GET_MEASUREMENTS: the count, one block or all; a signature where asked. -/
def execGetMeasurements (t : SpdmTransport) (req : List (BitVec 8)) (s : State) : Host.Outcome State Fault Refusal :=
  (spdmReq t req 0xE0 3 fun s =>
    let op := (req.getD 3 0).toNat
    let l := if op = 0 then [] else if op = 0xFF then s.blocks else s.blocks.filter fun m => m.1 == op
    if op ≠ 0 && l.isEmpty then spdmError t 1
    else freshNonce.bind fun n =>
      let rec' := l.flatMap blockBytes
      let m : List Byte := [0x12, 0x60] ++ leBytes 1 (if op = 0 then s.blocks.length else 0) ++ [0] ++ leBytes 1 l.length ++
        leBytes 3 rec'.length ++ rec' ++ n
      let k := s.sec.spdm
      if (req.getD 2 0).getLsbD 0 then
        (modSpdm fun k => { k with meas := [] }).seq (spdmSend t (m ++ signedTail (k.vca ++ k.meas ++ req ++ m)))
      else
        let m := m ++ leBytes 2 0
        (modSpdm fun k => { k with meas := k.meas ++ req ++ m }).seq (spdmSend t m)).next s

/-! ### Keys within a site (R293, R361) -/

/-- KEY: the message of a new key reaches firmware's receive ring (R253, R258). -/
def execKey (pkt : Packet) (s : State) : Host.Outcome State Fault Refusal := (hornFirmware pkt 0x09 deliverFw).next s

end Sys2Proof.Machine
end

