-- ==== Sys2Proof/Machine/Journal.lean ====
section
/-!
DEFINITION. Sys2Proof/Machine/Journal.lean: the flash, the journal's records, their programming, replay and
compaction, and the firmware slots (R379 to R387).
-/

namespace Sys2Proof.Machine

/-! ### The flash (R379, R380) -/

/-- A byte of the flash; erased bytes read 0xFF. -/
def State.fbyte (s : State) (a : Nat) : Byte := Tab.at 0xFF s.flash a

/-- Bytes of the flash. -/
def State.fbytes (s : State) (a n : Nat) : List Byte := (List.range n).map fun i => s.fbyte (a + i)

/-- Bytes programmed into the flash: programming clears bits and sets none. -/
def programBytes (a : Nat) : List Byte → Prog Unit
  | [] => .skip
  | b :: r => .get fun s => .eff (.flashByte a (s.fbyte a &&& b)) (programBytes (a + 1) r)

/-- A range of the flash erased. -/
def eraseRange (lo n : Nat) : Prog Unit := .get fun s =>
  Prog.each ((s.flash.map (·.1)).filter fun a => decide (lo ≤ a) && decide (a < lo + n)) fun a => .one (.flashByte a 0xFF)

/-- A program that power loss cuts short: the pages before some page are programmed, and that one in part (R369). -/
def cutProgram (a : Nat) (d : List Byte) : Prog Unit := freeVal.bind fun n => (freeBytes 32).bind fun m =>
  let k := (a + n.toNat % (d.length + 1)) / 256 * 256 - a
  (programBytes a (d.take k)).seq (programBytes (a + k) (List.zipWith (· ||| ·) ((d.drop k).take (256 - (a + k) % 256)) m))

/-- An erase that power loss cuts short leaves free bits set in what it has not finished (R369). -/
def cutErase (lo n : Nat) : Prog Unit := .get fun s =>
  Prog.each (s.flash.filter fun e => decide (lo ≤ e.1) && decide (e.1 < lo + n)) fun e => freeVal.bind fun v =>
    .one (.flashByte e.1 (e.2 ||| v.setWidth 8))

/-- Whether a range of the flash is erased. -/
def State.erased (s : State) (lo n : Nat) : Bool := s.flash.all fun e => decide (e.1 < lo) || decide (lo + n ≤ e.1)

/-- Size and start of a journal region (R379). -/
def regionSize : Nat := 0x1800000
def regionBase (r : Nat) : Nat := if r = 0 then 0x4000000 else 0x5800000

/-- Size and start of a firmware slot (R379). -/
def slotSize : Nat := 0x2000000
def slotBase (x : Nat) : Nat := if x = 0 then 0 else 0x2000000

/-! ### Records (R381, R382) -/

/-- A record as the flash holds it. -/
structure Rec where
  typ  : Nat
  del  : Bool
  seq  : Nat
  cgen : Nat
  key  : Nat
  body : List Byte
deriving DecidableEq, Repr

/-- The header of a record with a given CRC. -/
def Rec.header (r : Rec) (crc : Nat) : List Byte :=
  leBytes 8 (0x4A4C + r.typ % 256 * 2 ^ 16 + (if r.del then 2 ^ 24 else 0) + r.body.length % 2 ^ 16 * 2 ^ 32) ++
  leBytes 8 r.seq ++ leBytes 4 r.cgen ++ leBytes 8 r.key ++ leBytes 4 crc

/-- The CRC of a record. -/
def Rec.crc (r : Rec) : Nat := crc32c (r.header 0 ++ r.body)

/-- A record's bytes. -/
def Rec.bytes (r : Rec) : List Byte := r.header r.crc ++ r.body

/-- Bytes from a record's start to the next (R381). -/
def Rec.span (r : Rec) : Nat := (32 + r.body.length + 31) / 32 * 32

/-- The record at an address of the flash, if its header passes: MAGIC and CRC. -/
def State.recAt (s : State) (a : Nat) : Option Rec :=
  let h := leNat (s.fbytes a 32)
  if bits 15 0 h ≠ 0x4A4C then none
  else
    let r : Rec := { typ := bits 23 16 h, del := h.testBit 24, seq := bits 127 64 h, cgen := bits 159 128 h,
                     key := bits 223 160 h, body := s.fbytes (a + 32) (bits 47 32 h) }
    if 4064 < r.body.length || r.crc ≠ bits 255 224 h then none else some r

/-- Records of a region from an offset on, with the offset after the last, and whether a header was skipped
(R384). -/
def readRecs (s : State) (base : Nat) : Nat → Nat → List Rec × Nat × Bool → List Rec × Nat × Bool
  | 0, _, x => x
  | fuel + 1, off, (l, last, skip) =>
    if regionSize ≤ off || leNat (s.fbytes (base + off) 2) = 0xFFFF then (l, last, skip)
    else match s.recAt (base + off) with
      | some r => readRecs s base fuel (off + r.span) (l ++ [r], off + 32 + r.body.length, skip)
      | none => readRecs s base fuel (off + 32) (l, last, true)

/-- What a region holds. -/
def State.region (s : State) (r : Nat) : List Rec × Nat × Bool := readRecs s (regionBase r) (regionSize / 32) 0 ([], 0, false)

/-- CGEN of a region's REGION record (R382, R384). -/
def State.regionGen (s : State) (r : Nat) : Option Nat :=
  match s.recAt (regionBase r) with
  | some x => if x.typ = 1 then some x.cgen else none
  | none => none

/-- The COMMIT record among records. -/
def commitOf (l : List Rec) : Option Rec := l.find? fun r => r.typ == 0xF

/-- CGEN of a region that is valid (R384). -/
def State.validGen (s : State) (r : Nat) : Option Nat :=
  match s.regionGen r with
  | some 1 => some 1
  | some g => if (commitOf (s.region r).1).isSome then some g else none
  | none => none

/-! ### Showing the journal (R387) -/

/-- The next appends offset, with FILL. -/
def setOff (o : Nat) : Prog Unit := (modJnl fun j => { j with off := o }).seq
  (wrF .JNL_STATUS Fld.JNL_STATUS_FILL ((o + 1023) / 1024))

/-- JNL_STATUS.STATE changes; REFUSE makes the device faulted, and firmware reports it (R386, R398). -/
def setJnlState (x : Nat) : Prog Unit := .get fun s =>
  (wrF .JNL_STATUS Fld.JNL_STATUS_STATE x).seq (Prog.when (x == 4) <| Prog.all [
    Prog.when (s.jnl.queue.any fun r => r.typ == 4) (setF .FRY_ERR Fld.FRY_ERR_IVJNL), showDevice, selfFailure 4])

/-- LIVEREG. -/
def State.liveReg (s : State) : Nat := s.rdF .JNL_STATUS Fld.JNL_STATUS_LIVEREG

/-- The other region is erased. -/
def State.idleOk (s : State) : Bool := s.rdF .JNL_STATUS Fld.JNL_STATUS_IDLEOK == 1

/-! ### Appending (R383, R386) -/

/-- The record that is programmed next: IVRES first, then ARBPEND and ARBMIR, then the rest, each in order of
arrival (R383). -/
def nextReq (l : List JReq) : Option JReq :=
  (l.find? fun r => r.typ == 4) <|> (l.find? fun r => r.typ == 7 || r.typ == 8) <|> l.head?

/-- Compaction starts, from REFUSE too once the other region is erased (R385, R386). -/
def compactStart : Prog Unit := .get fun s =>
  if (s.jnlState = 2 || s.jnlState = 4) && s.idleOk then
    (modJnl fun j => { j with snap := some (s.rd .JNL_ACKSEQ).toNat, since := 0 }).seq (setJnlState 3)
  else .skip

/-- What an acknowledged record does: a reservation stands (R284), fuses are burnt up to a pending target
(R354), the mirror shows, and a setting or a record for firmware is kept. -/
def acknowledged (r : JReq) (seq : Nat) : Prog Unit := Prog.all [
  (match r.typ with
    | 4 => modJnl fun j => { j with ivres := noteBlock j.ivres (r.key % 2 ^ 16, r.key / 2 ^ 16) (leNat r.body) }
    | 7 => arbBurn (leNat r.body)
    | 8 => wrF .SEC_ARB Fld.SEC_ARB_MIRROR (leNat r.body)
    | 2 => modFw fun f => { f with settings := (f.settings.filter fun e => e.1 != r.key) ++ (if r.del then [] else [(r.key, r.body)]) }
    | _ => .skip),
  Prog.when r.irq (.one (.emit (.journal seq)))]

/-- Compaction starts where the live region is past 75 % (R385). -/
def compactPast : Prog Unit := .get fun s => Prog.when (decide (regionSize * 3 / 4 < s.jnl.off)) compactStart

/-- The offset of the next page (R379). -/
def nextPage (o : Nat) : Nat := (o + 255) / 256 * 256

/-- The record that a request becomes. -/
def State.recOf (s : State) (r : JReq) : Rec :=
  { typ := r.typ, del := r.del, seq := (s.rd .JNL_SEQ).toNat, cgen := (s.rd .JNL_CGEN).toNat, key := r.key, body := r.body }

/-- RECORD_ACKNOWLEDGED: the record of the highest priority has been programmed, and its read-back has passed
(`ok`) or failed. -/
def execRecordAcknowledged (ok : Bool) (s : State) : Host.Outcome State Fault Refusal :=
  (match nextReq s.jnl.queue with
   | none => Prog.skip
   | some r =>
    if s.jnlState ≠ 2 && s.jnlState ≠ 3 then .skip
    else
      let seq := (s.rd .JNL_SEQ).toNat
      let x := s.recOf r
      let a := regionBase s.liveReg + s.jnl.off
      if regionSize < s.jnl.off + 32 + r.body.length then
        if s.jnlState = 3 then .skip
        else if s.idleOk then compactStart
        else (setF .JNL_ERR Fld.JNL_ERR_FULL).seq (setJnlState 4)
      else if ok then Prog.all [
          programBytes a x.bytes, setOff (s.jnl.off + x.span),
          modJnl fun j => { j with queue := j.queue.erase r, since := j.since + 1 },
          wr .JNL_SEQ (BitVec.ofNat 64 (seq + 1)), wr .JNL_ACKSEQ (BitVec.ofNat 64 seq),
          acknowledged r seq,
          compactPast]
      else freeVal.bind fun v => Prog.all [
          programBytes a (x.header v.toNat ++ r.body), setOff (nextPage (s.jnl.off + 32 + r.body.length)),
          setF .JNL_ERR Fld.JNL_ERR_PROGRETRY,
          modJnl fun j => { j with fails := j.fails + 1 },
          Prog.get fun s => Prog.when (decide (3 ≤ s.jnl.fails)) compactStart]).next s

/-- JNL_APPEND: a record built in plain memory is handed over (R383). A poisoned record is not (DEDUCED,
log 40). -/
def jnlAppendDo (val : Word) : Prog Unit := posted .jnl <|
  let a := getF Fld.JNL_APPEND_ADDR val * 32
  (wr .JNL_APPEND val).seq ((cleanRead a 32).bind fun d =>
    match d with
    | none => .skip
    | some l =>
      let h := leNat l
      (cleanRead (a + 32) (min (bits 47 32 h) 4064)).bind fun b =>
        match b with
        | none => .skip
        | some body => jnlHand ⟨bits 23 16 h, bits 223 160 h, h.testBit 24, if h.testBit 24 then [] else body,
            flagF Fld.JNL_APPEND_IRQ val⟩)

/-- JNL_APPEND. -/
def execJnlAppend (val : BitVec 64) (s : State) : Host.Outcome State Fault Refusal := (jnlAppendDo val).next s

/-! ### Compaction (R385) -/

/-- JNL_CMD.COMPACT: ignored while compacting, or while the other region is not erased. -/
def execCompact (s : State) : Host.Outcome State Fault Refusal := compactStart.next s

/-- Whether a record keeps a value: no later record of its type and key replaces or deletes it; FAULT and
MANIFEST records are kept until one deletes them (R382). -/
def keeps (l : List Rec) (r : Rec) : Bool :=
  !r.del && r.typ != 1 && r.typ != 0xF &&
  !l.any fun x => x.typ == r.typ && x.key == r.key && decide (r.seq < x.seq) && (x.del || (r.typ != 6 && r.typ != 9))

/-- The records of a snapshot: every value in force, and the kept sequences. -/
def snapshot (l : List Rec) (snap : Nat) : List Rec :=
  let l := l.filter fun r => decide (r.seq ≤ snap)
  l.filter (keeps l)

/-- Records one after another, with the erased bytes between them. -/
def recsBytes (l : List Rec) : List Byte := l.flatMap fun r => r.bytes ++ List.replicate (r.span - (32 + r.body.length)) 0xFF

/-- What a compaction writes into the other region: REGION, the snapshot, COMMIT, and the later records (R385). -/
def State.compacted (s : State) (snap : Nat) : List Byte :=
  let g := (s.rd .JNL_CGEN).toNat + 1
  let seq := (s.rd .JNL_SEQ).toNat
  let l : List Rec := (s.region s.liveReg).1
  let shot := snapshot l snap
  let more : List Rec := l.filter fun r => decide (snap < r.seq) && r.typ != 1 && r.typ != 0xF
  let region : Rec := { typ := 1, del := false, seq := seq, cgen := g, key := 0, body := leBytes 4 g }
  let commit : Rec := { typ := 0xF, del := false, seq := seq + 1, cgen := g, key := 0,
                        body := leBytes 8 snap ++ leBytes 4 shot.length }
  let renew (r : Rec) : Rec := { r with cgen := g }
  recsBytes (region :: shot.map renew ++ commit :: more.map renew)

/-- COMPACTION_DONE: the new region is written and live, later records are copied, and the old region is
killed, to be erased in the background; or a failure in the new region moves the journal to REFUSE (R385,
R386). -/
def execCompactionDone (ok : Bool) (s : State) : Host.Outcome State Fault Refusal :=
  (match s.jnl.snap with
   | none => Prog.skip
   | some snap =>
    if s.jnlState ≠ 3 then .skip
    else
      let old := s.liveReg
      let d := s.compacted snap
      if !ok then Prog.all [
        cutProgram (regionBase (1 - old)) d, setF .JNL_ERR Fld.JNL_ERR_FLASH, wrF .JNL_STATUS Fld.JNL_STATUS_IDLEOK 0,
        modJnl fun j => { j with snap := none }, setJnlState 4]
      else Prog.all [
        programBytes (regionBase (1 - old)) d,
        wrF .JNL_STATUS Fld.JNL_STATUS_LIVEREG (1 - old),
        wr .JNL_CGEN (s.rd .JNL_CGEN + 1),
        wr .JNL_SEQ (s.rd .JNL_SEQ + 2),
        wrF .JNL_STATUS Fld.JNL_STATUS_IDLEOK 0,
        modJnl fun j => { j with snap := none, since := 0, fails := 0 },
        setOff d.length, programBytes (regionBase old) [0, 0], setJnlState 2]).next s

/-- REGION_ERASE_DONE: the other region is erased, and a live one past 75 % is compacted (R385). -/
def execRegionEraseDone (s : State) : Host.Outcome State Fault Refusal :=
  (if (s.jnlState = 2 || s.jnlState = 4) && !s.idleOk then
     Prog.all [eraseRange (regionBase (1 - s.liveReg)) regionSize, setF .JNL_STATUS Fld.JNL_STATUS_IDLEOK,
       Prog.when (s.jnlState == 2) compactPast]
   else Prog.skip).next s

/-! ### Replay (R384) -/

/-- What a replayed record sets. -/
def applyRec (r : Rec) : Prog Unit :=
  match r.typ with
  | 2 => modFw fun f => { f with settings := (f.settings.filter fun e => e.1 != r.key) ++ (if r.del then [] else [(r.key, r.body)]) }
  | 3 =>
    let b := r.key % 64
    if r.del then wr .SEC_BERTH_META 0 b
    else Prog.all [wrF .SEC_BERTH_META Fld.SEC_BERTH_META_STATE 0 b,
      wrF .SEC_BERTH_META Fld.SEC_BERTH_META_USE (leNat (r.body.take 4)) b,
      wrF .SEC_BERTH_META Fld.SEC_BERTH_META_HOLDERS (popcount 64 (leNat ((r.body.drop 8).take 8))) b,
      wrF .SEC_BERTH_META Fld.SEC_BERTH_META_KSN (leNat ((r.body.drop 4).take 4)) b]
  | 4 => Prog.when (!r.del) (modJnl fun j =>
      { j with ivres := noteBlock j.ivres (r.key % 2 ^ 16, r.key / 2 ^ 16 % 2 ^ 16) (leNat r.body) })
  | 5 | 6 => modFw fun f => { f with records := (f.records.filter fun e => e.1 != (r.typ, r.key)) ++
      (if r.del then [] else [((r.typ, r.key), r.body)]) }
  | 8 => Prog.when (!r.del) (wrF .SEC_ARB Fld.SEC_ARB_MIRROR (leNat r.body))
  | 0xA => modSec fun x => { x with kek := if r.del then none else (kwUnwrap Config.kekKey r.body).map fun p => BitVec.ofNat 256 (beNat p) }
  | _ => .skip

/-- The live region: the valid one with the higher CGEN. -/
def State.pickLive (s : State) : Option (Nat × Nat) :=
  match s.validGen 0, s.validGen 1 with
  | some a, some b => if a < b then some (1, b) else some (0, a)
  | some a, none => some (0, a)
  | none, some b => some (1, b)
  | none, none => none

/-- The records of the other region that replay applies: where its CGEN is one lower, those that lie above SNAPSEQ and
that the live region does not hold (R384). -/
def State.lateRecs (s : State) (live g : Nat) : List Rec :=
  let l := (s.region live).1
  if s.regionGen (1 - live) == some (g - 1) && decide (1 < g) then
    let snap := ((commitOf l).map fun c => leNat (c.body.take 8)).getD 0
    (s.region (1 - live)).1.filter fun r => decide (snap < r.seq) && r.typ != 1 && r.typ != 0xF &&
      !l.any fun x => x.seq == r.seq
  else []

/-- Where appends go on in a region after replay: the first page boundary after the last valid record beyond which nothing
has been programmed (R384; DEDUCED, log 40). -/
def State.appendFrom (s : State) (r last : Nat) : Nat :=
  nextPage (((s.flash.map (·.1)).filter fun a => decide (regionBase r ≤ a) && decide (a < regionBase r + regionSize)).foldl
    (fun m a => max m (a + 1 - regionBase r)) last)

/-- The region that is not live is killed unless it is erased (R385). -/
def killIdle : Prog Unit := .get fun s =>
  let b := regionBase (1 - s.liveReg)
  if s.erased b regionSize then setF .JNL_STATUS Fld.JNL_STATUS_IDLEOK
  else (programBytes b [0, 0]).seq (wrF .JNL_STATUS Fld.JNL_STATUS_IDLEOK 0)

/-- Records in order of SEQ, so that the highest SEQ of a type and key holds (R382). -/
def insertRec (r : Rec) : List Rec → List Rec
  | [] => [r]
  | x :: l => if r.seq < x.seq then r :: x :: l else x :: insertRec r l

/-- Records sorted so. -/
def bySeq : List Rec → List Rec
  | [] => []
  | r :: l => insertRec r (bySeq l)

/-- JOURNAL_REPLAY: what the flash holds is restored, a pending burn is completed, and the stage goes on (R354,
R372, R384). A compaction that power loss cut short between its COMMIT and the end of its copying is completed first, and
the other region is killed (R385). A flash without a valid region gets a first one (DEDUCED, log 40). -/
def execJournalReplay (s : State) : Host.Outcome State Fault Refusal :=
  (if s.stage ≠ 2 || s.boot.halfDis then Prog.skip
   else (match s.pickLive with
    | none =>
      let r : Rec := { typ := 1, del := false, seq := 0, cgen := 1, key := 0, body := leBytes 4 1 }
      Prog.all [eraseRange (regionBase 0) regionSize, programBytes (regionBase 0) r.bytes,
        wrF .JNL_STATUS Fld.JNL_STATUS_LIVEREG 0, wr .JNL_CGEN 1, wr .JNL_SEQ 1, wr .JNL_ACKSEQ 0, setOff r.span]
    | some (live, g) =>
      let x := s.region live
      let late := bySeq (s.lateRecs live g)
      let l : List Rec := bySeq (x.1 ++ late)
      let top := ((x.1 ++ (s.region (1 - live)).1).map Rec.seq).foldl max 0
      let o := s.appendFrom live x.2.1
      let copies := recsBytes (late.map fun (r : Rec) => { r with cgen := g })
      let pend : Nat := (((l.filter fun (r : Rec) => r.typ == 7 && !r.del).getLast?).map fun (r : Rec) => leNat r.body).getD 0
      Prog.all [
        Prog.each l applyRec,
        wrF .JNL_STATUS Fld.JNL_STATUS_LIVEREG live, wr .JNL_CGEN (BitVec.ofNat 64 g),
        wr .JNL_SEQ (BitVec.ofNat 64 (top + 1)), wr .JNL_ACKSEQ (BitVec.ofNat 64 top),
        programBytes (regionBase live + o) copies, setOff (o + copies.length), Prog.when x.2.2 (setF .JNL_ERR Fld.JNL_ERR_CRCSKIP),
        Prog.get fun s =>
          let mir := s.rdF .SEC_ARB Fld.SEC_ARB_MIRROR
          if s.boot.arb < pend then arbBurn pend
          else if mir < s.boot.arb then jnlHand ⟨8, 0, false, leBytes 1 s.boot.arb, false⟩
          else Prog.when (decide (s.boot.arb < mir)) (setF .SEC_ERR Fld.SEC_ERR_ARBMIR)]).seq
     (Prog.all [
      killIdle, showOwner, setJnlState 2, setStage 3, compactPast,
      Prog.each (List.range 4) fun v => wrF .MEM_STATUS Fld.MEM_STATUS_STATE 1 v, showDevice])).next s

/-! ### Power loss (R369) -/

/-- What a program or erase in progress leaves where PWR_OK falls: the record being programmed, a compaction, the erase of
the other region (its last sectors are done first, R385), and a command on a firmware slot. -/
def cutFlash : Prog Unit := .get fun s =>
  let st := s.jnlState
  let idle := regionBase (1 - s.liveReg)
  Prog.all [
    (match nextReq s.jnl.queue with
      | some r => Prog.when (st == 2 || st == 3) (cutProgram (regionBase s.liveReg + s.jnl.off) (s.recOf r).bytes)
      | none => .skip),
    (match s.jnl.snap with
      | some x => Prog.when (st == 3) (cutProgram idle (s.compacted x))
      | none => .skip),
    Prog.when ((st == 2 || st == 4) && !s.idleOk) (freeVal.bind fun v =>
      let k := v.toNat % 385
      (eraseRange (idle + regionSize - 65536 * k) (65536 * k)).seq
        (Prog.when (decide (k < 384)) (cutErase (idle + regionSize - 65536 * (k + 1)) 65536))),
    (match s.jnl.fw with
      | none => .skip
      | some c => match c.prog with
        | none => cutErase (slotBase c.slot) slotSize
        | some (a, n) => (physRead a n).bind fun d => cutProgram (slotBase c.slot) (d.map Prod.fst))]

/-! ### Firmware slots (R380) -/

/-- JNL_FW_CMD: an ERASE or PROGRAM begins, or is refused; a slot that reads erased counts as erased (log 40). A write while one is in progress is dropped. -/
def fwCmdDo (val : Word) : Prog Unit := .get fun s =>
  let op := getF Fld.JNL_FW_CMD_OP val
  let slot := getF Fld.JNL_FW_CMD_SLOT val
  if s.jnl.fw.isSome then dropWrite .jnl
  else posted .jnl <| (wr .JNL_FW_CMD val).seq
    (if op ≠ 1 && op ≠ 2 then .skip
     else if (!s.boot.recover && s.boot.slot = slot) || (op = 2 && !s.jnl.blank.contains slot && !s.erased (slotBase slot) slotSize) then
       setF .JNL_ERR Fld.JNL_ERR_FWREF
     else modJnl fun j => { j with fw := some ⟨slot,
        if op = 1 then none
        else some (s.rdF .JNL_FW_SRC Fld.JNL_FW_SRC_ADDR * 64, min (getF Fld.JNL_FW_CMD_LEN val) slotSize)⟩ })

/-- ERASE: a write of JNL_FW_CMD whose OP is ERASE. -/
def execErase (val : BitVec 64) (s : State) : Host.Outcome State Fault Refusal :=
  (fwCmdDo (putF Fld.JNL_FW_CMD_OP val 1)).next s

/-- PROGRAM: a write of JNL_FW_CMD whose OP is PROGRAM. -/
def execProgram (val : BitVec 64) (s : State) : Host.Outcome State Fault Refusal :=
  (fwCmdDo (putF Fld.JNL_FW_CMD_OP val 2)).next s

/-- FW_CMD_DONE: the command in progress completes (R380). -/
def execFwCmdDone (s : State) : Host.Outcome State Fault Refusal :=
  (match s.jnl.fw with
   | none => Prog.skip
   | some c => (match c.prog with
      | none => (eraseRange (slotBase c.slot) slotSize).seq
          (modJnl fun j => { j with blank := c.slot :: j.blank.filter (· != c.slot) })
      | some (a, n) => (physRead a n).bind fun d => (programBytes (slotBase c.slot) (d.map Prod.fst)).seq
          (modJnl fun j => { j with blank := j.blank.filter (· != c.slot) })).seq
      ((modJnl fun j => { j with fw := none }).seq (setF .JNL_ERR Fld.JNL_ERR_FWDONE))).next s

end Sys2Proof.Machine
end

