-- ==== Sys2Proof/Machine/Telemetry.lean ====
section
/-!
DEFINITION. Sys2Proof/Machine/Telemetry.lean: the outputs (R371, R439), cluster clocks and their voltage (R416,
R437), clock gating and reference clocks (R429, R435, R438), the capping loop (R413 to R418, R428), the reports of
R419, and counter sets and sample rings as commands (R404, R407, R412).
-/

namespace Sys2Proof.Machine

/-! ### Outputs (R343, R371, R377, R418, R429, R439) -/

/-- A half's state. -/
def State.half (s : State) (h : Half) : HalfState := match h with | .east => s.boot.east | .west => s.boot.west

/-- A change to a half. -/
def modHalf (h : Half) (f : HalfState → HalfState) : Prog Unit := modBoot fun b =>
  match h with
  | .east => { b with east := f b.east }
  | .west => { b with west := f b.west }

/-- Some enabled cause of TEL_ALERT has not been read clear, or the bring-up is stuck (R377, R418). -/
def State.alert (s : State) : Bool := (s.rd .TEL_ALERT &&& s.rd .TEL_ALERTEN) != 0 || s.stage == 8

/-- A port is enabled and in service, so that its module may transmit (R371, R376). -/
def State.transmits (s : State) (p : Nat) : Bool :=
  if p < 24 then s.rdF .FAB_PCFG Fld.FAB_PCFG_EN p == 1 &&
    (s.stage == 6 || (s.rdF .TEL_STATUS Fld.TEL_STATUS_LOOP == 1 && s.pilotPorts.contains p))
  else s.rdF .FRY_PCFG Fld.FRY_PCFG_EN (p - 24) == 1 && s.stage == 6

/-- The levels of the outputs: the leading half drives the shared ones while its clock runs; a trip releases them
(R429, R439). No rule lowers LPMODE (log 54). -/
def State.levels (s : State) : Pins :=
  let lead := s.boot.leader.any fun h => (s.half h).runs
  if !s.boot.on then Pins.off
  else
    let thermN := if s.boot.tripped then Level.low else .z
    let faultN := if s.faultN then Level.low else .z
    if s.boot.tripped || !lead then { Pins.off with thermN := thermN, faultN := faultN }
    else
      let off : BitVec 26 := (List.range 26).foldl (fun v p => if s.transmits p then v &&& ~~~ (BitVec.ofNat 26 (2 ^ p)) else v)
        (BitVec.allOnes 26)
      { ready := if s.stage = 6 then .high else .low
        leader := if s.boot.leader == some .east then .high else .low
        alertN := if s.alert then .low else .z
        faultN := faultN
        thermN := thermN
        txdis := off
        lpmode := BitVec.allOnes 26 }

/-- The outputs take their levels. -/
def showPins : Prog Unit := .get fun s => .one (.setPins s.levels)

/-- GLB_STATE and the outputs follow the state. -/
def showAll : Prog Unit := showDevice.seq showPins

/-! ### Cluster clocks (R416, R437) -/

/-- A frequency as CLK_CLFREQ takes it: rounded down to a multiple of 25 and limited to 100 to 900 (R443). -/
def clampMhz (x : Nat) : Nat := min 900 (max 100 (x / 25 * 25))

/-- cap[*q*] in force. -/
def State.cap (s : State) (q : Nat) : Nat := bits (16 * q + 9) (16 * q) (s.rd .TEL_FCAP).toNat

/-- The clusters' clocks run: from pilot service on, unless gated or tripped (R372, R443). -/
def State.clocked (s : State) (c : Nat) : Bool :=
  s.rdF .TEL_STATUS Fld.TEL_STATUS_LOOP == 1 && !s.stopped (7 + c)

/-- The frequency that R437 gives a cluster, before a droop halves it. -/
def State.wanted (s : State) (c : Nat) : Nat :=
  let f := min (s.rdF .CLK_CLFREQ Fld.CLK_CLFREQ_MHZ c) (s.cap (c / 8))
  (if s.rdF .CLK_STATUS Fld.CLK_STATUS_PILOT = 1 then min f 425 else f) / 25 * 25

/-- The voltage needed at a frequency (R443). -/
def State.needMv (s : State) (f : Nat) : Nat := s.rdF .CLK_VF Fld.CLK_VF_MV ((f - 100) / 25)

/-- A cluster's frequency in force, before a droop halves it. -/
def State.freqOf (s : State) (c : Nat) : Nat := Tab.at 0 s.tel.freq c

/-- A frequency comes into force. -/
def setFreq (c f : Nat) : Prog Unit := modTel fun t => { t with freq := Tab.upd 0 t.freq c f }

/-- CLK_CLSTAT of a cluster (R443). -/
def showClock (c : Nat) : Prog Unit := .get fun s =>
  let st := s.rdF .CLK_CLSTAT Fld.CLK_CLSTAT_STRETCH c
  let f := s.freqOf c
  Prog.all [
    wrF .CLK_CLSTAT Fld.CLK_CLSTAT_EFF (if s.clocked c then (if st = 1 then f / 2 else f) else 0) c,
    wrF .CLK_CLSTAT Fld.CLK_CLSTAT_CAPPED (if s.cap (c / 8) < s.rdF .CLK_CLFREQ Fld.CLK_CLFREQ_MHZ c then 1 else 0) c,
    wrF .CLK_CLSTAT Fld.CLK_CLSTAT_GATED (if s.gated (7 + c) then 1 else 0) c,
    wrF .CLK_CLSTAT Fld.CLK_CLSTAT_VWAIT (if s.clocked c && decide (f < s.wanted c) then 1 else 0) c]

/-- The largest of a list of numbers, 0 for none. -/
def maxOf (l : List Nat) : Nat := l.foldl max 0

/-- The clusters' frequencies follow R437: a lower one at once; a higher one once VDD_CORE carries it. A command
goes to the regulator when the setpoint is not what the highest frequency needs and none is outstanding (R416). -/
def retune (ask : Bool) : Prog Unit := .get fun s =>
  let run := (List.range 32).filter s.clocked
  let now := s.rdF .TEL_VCORE Fld.TEL_VCORE_MV
  let limit := match s.tel.raise with | some t => min t now | none => now
  let need := maxOf (run.map fun c => s.needMv (s.wanted c))
  Prog.all [
    Prog.each run fun c =>
      let w := s.wanted c
      Prog.when (decide (w < s.freqOf c) || decide (s.needMv w ≤ limit)) (setFreq c w),
    Prog.when (ask && s.tel.raise.isNone && !run.isEmpty && need != now)
      ((modTel fun t => { t with raise := some need }).seq (.one (.emit (.avs need)))),
    Prog.each (List.range 32) showClock]

/-- A posted write of CLK_CLFREQ (R437). -/
def clfreqDo (c : Nat) (val : Word) : Prog Unit := posted .clk <| Prog.all [
  wrF .CLK_CLFREQ Fld.CLK_CLFREQ_MHZ (clampMhz (getF Fld.CLK_CLFREQ_MHZ val)) c,
  modTel fun t => { t with write := some c }, retune true]

/-- CLK_CLFREQ. -/
def execClkClfreq (c : Fin 32) (val : BitVec 64) (s : State) : Host.Outcome State Fault Refusal := (clfreqDo c val).next s

/-- AVSBUS_ACKNOWLEDGE: the setpoint is in force, and the clocks that waited for it rise (R416, R433). -/
def execAvsbusAcknowledge (s : State) : Host.Outcome State Fault Refusal :=
  (match s.tel.raise with
   | none => Prog.skip
   | some mv => Prog.all [wrF .TEL_VCORE Fld.TEL_VCORE_MV mv, modTel fun t => { t with raise := none }, retune true]).next s

/-- A cause of TEL_ALERT (R418). -/
def alertCause (f : Field) : Prog Unit := .get fun s => Prog.all [
  setF .TEL_ALERT f,
  Prog.when ((s.rd .TEL_ALERTEN).toNat.testBit f.lo) (glbEvent 3),
  showPins]

/-- AVS_TIMEOUT: the setpoint and the clocks stay as they are, and the wait of a write ends (R416, R437). -/
def execAvsTimeout (s : State) : Host.Outcome State Fault Refusal :=
  (match s.tel.raise with
   | none => Prog.skip
   | some _ => Prog.all [
      modTel fun t => { t with raise := none },
      alertCause Fld.TEL_ALERT_AVSERR,
      Prog.each (List.range 32) fun c => wrF .CLK_CLSTAT Fld.CLK_CLSTAT_VWAIT 0 c]).next s

/-- DROOP: the quadrant's clusters run at half their frequency (R417, R437). -/
def execDroop (q : Fin 4) (s : State) : Host.Outcome State Fault Refusal :=
  (Prog.all [
    bumpF .TEL_DROOPCNT Fld.TEL_DROOPCNT_COUNT,
    Prog.each (List.range 8) fun i => (wrF .CLK_CLSTAT Fld.CLK_CLSTAT_STRETCH 1 (8 * q + i)).seq (showClock (8 * q + i))]).next s

/-- DROOP_STRETCH_END. -/
def execDroopStretchEnd (q : Fin 4) (s : State) : Host.Outcome State Fault Refusal :=
  (Prog.each (List.range 8) fun i => (wrF .CLK_CLSTAT Fld.CLK_CLSTAT_STRETCH 0 (8 * q + i)).seq (showClock (8 * q + i))).next s

/-! ### Gating (R438) -/

/-- The domains that can be gated. -/
def gateable (d : Nat) : Bool := (7 ≤ d && d ≤ 38) || (55 ≤ d && d ≤ 95)

/-- The resource whose domain it is, as a bit of RESOURCES. -/
def domainUnit (d : Nat) : Option Nat :=
  if 7 ≤ d && d ≤ 38 then some (d - 7)
  else if 55 ≤ d && d ≤ 78 then some (64 + (d - 55))
  else if d = 79 || d = 80 then some (46 + (d - 79))
  else if d = 81 then some 48
  else if 82 ≤ d && d ≤ 87 then some (32 + (d - 82))
  else if 88 ≤ d && d ≤ 91 then some (38 + (d - 88))
  else if 92 ≤ d && d ≤ 95 then some (42 + (d - 92))
  else none

/-- A port that a gated or absent clock stops is DOWN; one whose clock returns retrains (R435, R438). -/
def portClock (d : Nat) (on : Bool) : Prog Unit := .get fun s =>
  if 55 ≤ d && d ≤ 78 then
    let p := d - 55
    if on then Prog.when (s.rdF .FAB_PCFG Fld.FAB_PCFG_EN p == 1 && s.rdF .FAB_PSTATUS Fld.FAB_PSTATUS_STATE p == 0) (setPortState p 1)
    else (Prog.when (s.portUp p) (linkDown p)).seq (setPortState p 0)
  else if d = 79 || d = 80 then
    let x := d - 79
    if on then Prog.when (s.rdF .FRY_PCFG Fld.FRY_PCFG_EN x == 1 && s.rdF .FRY_PSTATUS Fld.FRY_PSTATUS_STATE x == 0)
      (wrF .FRY_PSTATUS Fld.FRY_PSTATUS_STATE 1 x)
    else Prog.when (s.rdF .FRY_PSTATUS Fld.FRY_PSTATUS_STATE x != 0) (outerDown x)
  else .skip

/-- A domain is gated or ungated. -/
def gateSet (d : Nat) (on : Bool) : Prog Unit := .get fun s =>
  let r := if d < 64 then RegName.CLK_GATELO else .CLK_GATEHI
  if s.gated d = on then .skip
  else Prog.all [
    wr r (if on then s.rd r ||| BitVec.ofNat 64 (2 ^ (d % 64)) else s.rd r &&& ~~~ (BitVec.ofNat 64 (2 ^ (d % 64)))),
    Prog.get fun s => portClock d (!s.stopped d)]

/-- One domain of a gating request. -/
def gateReq (d : Nat) (on : Bool) : Prog Unit := .get fun s =>
  if on && !gateable d then setF .CLK_ERR Fld.CLK_ERR_GATEREF
  else if on && !s.gated d && (domainUnit d).any (fun i => s.allOwned.testBit i) then setF .CLK_ERR Fld.CLK_ERR_GATEBUSY
  else Prog.when (gateable d) (gateSet d on)

/-- A posted write of CLK_GATELO or CLK_GATEHI (R438). -/
def gateDo (hi : Bool) (val : Word) : Prog Unit := posted .clk <| Prog.all [
  Prog.each (List.range (if hi then 36 else 64)) fun i => gateReq (if hi then 64 + i else i) (val.getLsbD i),
  modTel fun t => { t with write := none },
  retune true]

/-- CLK_GATE. -/
def execClkGate (hi : Bool) (val : BitVec 64) (s : State) : Host.Outcome State Fault Refusal := (gateDo hi val).next s

/-! ### Reference clocks and trips (R429, R435) -/

/-- The bit of CLK_REF of a reference. -/
def refBit : RefClk → Nat
  | .fab i => i
  | .xp => 6
  | .sys => 7
  | .pcie => 8
  | .aone => 9
  | .aonw => 10

/-- The domains of the ports that a reference serves. -/
def refPorts : RefClk → List Nat
  | .fab i => (List.range 4).map fun k => 55 + 4 * i + k
  | .xp => [79, 80]
  | _ => []

/-- REFCLK_LOSS (R435). -/
def execRefclkLoss (r : RefClk) (s : State) : Host.Outcome State Fault Refusal :=
  (Prog.all [
    wr .CLK_REF (s.rd .CLK_REF ||| BitVec.ofNat 64 (2 ^ refBit r)),
    setF .CLK_ERR Fld.CLK_ERR_REFLOSS,
    Prog.each (refPorts r) fun d => portClock d false,
    (match r with
      | .sys => Prog.all [wr .CLK_LOCK 0, setF .CLK_ERR Fld.CLK_ERR_UNLOCK,
          modHalf .east fun h => { h with fault := true }, modHalf .west fun h => { h with fault := true }]
      | .aone => modHalf .east fun h => { h with runs := false }
      | .aonw => modHalf .west fun h => { h with runs := false }
      | _ => .skip),
    showAll]).next s

/-- REFCLK_RETURN (R435): ports retrain; the fault of a lost REFCLK_SYS and a stopped half stay. -/
def execRefclkReturn (r : RefClk) (s : State) : Host.Outcome State Fault Refusal :=
  ((wr .CLK_REF (s.rd .CLK_REF &&& ~~~ (BitVec.ofNat 64 (2 ^ refBit r)))).seq
    (Prog.each (refPorts r) fun d => Prog.get fun s => Prog.when (!s.stopped d) (portClock d true))).next s

/-- PLL_LOSS_OF_LOCK (R443). -/
def execPllLossOfLock (i : Fin 37) (s : State) : Host.Outcome State Fault Refusal :=
  ((wr .CLK_LOCK (s.rd .CLK_LOCK &&& ~~~ (BitVec.ofNat 64 (2 ^ (i : Nat))))).seq (setF .CLK_ERR Fld.CLK_ERR_UNLOCK)).next s

/-- THERMTRIP: a trip comparator of a half acts (R429). -/
def execThermtrip (half : Half) (s : State) : Host.Outcome State Fault Refusal :=
  (if !s.boot.on then Prog.skip
   else Prog.all [
    modBoot fun b => { b with tripped := true },
    modHalf half fun h => { h with fault := true },
    Prog.each (List.range 32) showClock, showAll]).next s

/-! ### The capping loop (R413 to R415, R428) -/

/-- A signed byte. -/
def sbyte (b : Byte) : Int := signedOf 8 b.toNat

/-- The largest of a list of integers, `d` for none. -/
def maxInt (d : Int) : List Int → Int
  | [] => d
  | x :: r => r.foldl max x

/-- PCAP in force, in W (R420). -/
def State.pcap (s : State) : Int := min 1200 (max 300 (s.rdF .TEL_PCAP Fld.TEL_PCAP_PCAP))

/-- TDRAM in force. -/
def State.tdram (s : State) : Int := min 94 (s.rdF .TEL_THERM Fld.TEL_THERM_TDRAM)

/-- Smallest whole number not below a ratio. -/
def ceilDiv (a : Int) (b : Int) : Int := -((-a) / b)

/-- Package power in units of 0.1 mW: the sum over rail groups 4 to 10 of voltage × current (R414). -/
def State.power (s : State) : Nat :=
  ((List.range 7).map fun i => s.rdF .TEL_RAIL Fld.TEL_RAIL_MV (4 + i) * s.rdF .TEL_RAIL Fld.TEL_RAIL_DA (4 + i)).foldl (· + ·) 0

/-- The next power ceiling (R415). `excess` is in units of 0.1 mW. -/
def nextG (g excess physt : Int) (missing thermal : Bool) : Int :=
  let g := if 0 < excess || missing then g - 25 * max 1 (ceilDiv excess 200000) else g
  let g := if thermal then g - 50 else if excess < -physt && !missing then g + 25 else g
  min 900 (max 100 g)

/-- The next thermal ceiling of a quadrant (R415). -/
def nextH (h t tdie : Int) : Int :=
  min 900 (max 100 (if tdie ≤ t then h - 50 else if t ≤ tdie - 5 then h + 25 else h))

/-- What a loop period reads (R413, R414). -/
def takeReadings (r : Readings) : Prog Unit := Prog.all [
  Prog.each (List.range 16) fun v => Prog.when (!(r.layers.getD v []).isEmpty) (vaultTemps v (r.layers.getD v [])),
  Prog.each (List.range 128) fun i => wrF .TEL_TEMP Fld.TEL_TEMP_DEGC (r.temps.getD i 0).toNat i,
  Prog.each (List.range 11) fun g =>
    match r.rails.getD g none with
    | some (mv, da) => (wrF .TEL_RAIL Fld.TEL_RAIL_MV mv g).seq (wrF .TEL_RAIL Fld.TEL_RAIL_DA da g)
    | none => .skip,
  modTel fun t => { t with
    missed := (List.range 11).map fun g => if 4 ≤ g && (r.rails.getD g none).isNone then t.missed.getD g 0 + 1 else 0
    layer := maxInt 0 ((r.layers.flatten).map fun b => (b.toNat : Int))
    die := maxInt 0 (r.temps.map sbyte) }]

/-- The loop's decision, once everything is read. -/
def capLoop (r : Readings) : Prog Unit := .get fun s =>
  let excess := (s.power : Int) - s.pcap * 10000
  let physt := (s.rdF .TEL_THERM Fld.TEL_THERM_PHYST : Int) * 10000
  let tdie := (s.rdF .TEL_THERM Fld.TEL_THERM_TDIE : Int)
  let missing := s.tel.missed.any fun n => decide (3 ≤ n)
  let thermal := decide (s.tdram ≤ maxInt 0 ((List.range 16).map fun v => (s.rdF .MEM_TEMP Fld.MEM_TEMP_DEGC v : Int)))
  let held := s.tel.hold || decide (95 ≤ s.tel.layer)
  let hold := held && decide (s.tdram - 5 < s.tel.layer)
  let g0 : Int := if held then 100 else s.tel.g
  let g := if hold then 100 else nextG g0 excess physt missing thermal
  let ts := (List.range 4).map fun q => maxInt 0 (((r.temps.drop (8 * q)).take 8).map sbyte)
  let h := (List.range 4).map fun q => nextH (s.tel.h.getD q 900) (ts.getD q 0) tdie
  let caps := h.map fun x => (min g x).toNat
  Prog.all [
    modTel fun t => { t with g := g.toNat, h := h.map Int.toNat, hold := hold },
    wr .TEL_FCAP (BitVec.ofNat 64 (caps.foldr (fun c n => c + n * 2 ^ 16) 0)),
    Prog.when (caps.any fun c => decide (c < 900)) (bumpF .TEL_THROTCNT Fld.TEL_THROTCNT_COUNT),
    Prog.when (decide (g < 900)) (alertCause Fld.TEL_ALERT_PCAPACT),
    Prog.when (ts.any fun t => decide (tdie ≤ t)) (alertCause Fld.TEL_ALERT_TDIEHIT),
    Prog.when thermal (alertCause Fld.TEL_ALERT_TDRAMHIT),
    retune true]

/-- TELEMETRY_LOOP: one loop period (R413, R415). The capping runs from pilot service onward. -/
def execTelemetryLoop (r : Readings) (s : State) : Host.Outcome State Fault Refusal :=
  (if !s.boot.on || s.boot.tripped then Prog.skip
   else Prog.all [
    takeReadings r,
    Prog.get fun s => wrF .TEL_POWER Fld.TEL_POWER_PKG (min (s.power / 1000) 65535),
    Prog.get fun s => Prog.when (s.tel.missed.any fun n => decide (3 ≤ n)) (alertCause Fld.TEL_ALERT_PMBERR),
    Prog.when (s.rdF .TEL_STATUS Fld.TEL_STATUS_LOOP == 1) (capLoop r)]).next s

/-- DRAM_OVERTEMP: a vault reports a layer at 95 °C; the controller acts at its next loop period (R428). -/
def execDramOvertemp (v : Fin 16) (s : State) : Host.Outcome State Fault Refusal :=
  ((setF .MEM_ERR Fld.MEM_ERR_OVERTEMP v).seq (modTel fun t => { t with hold := true })).next s

/-- Posted writes of TEL_PCAP, TEL_THERM and TEL_ALERTEN. -/
def telDo (r : RegName) (val : Word) : Prog Unit := posted .tel <| (wr r val).seq showPins

/-! ### Reports (R419) -/

/-- READ_TEMPERATURE_1: the hottest die sensor. -/
def execReadTemperature1 (s : State) : Host.Outcome State Fault Refusal :=
  (Prog.one (.emit (.pmbus (some (codeOf 16 s.tel.die))))).next s

/-- READ_TEMPERATURE_2: the hottest DRAM layer. -/
def execReadTemperature2 (s : State) : Host.Outcome State Fault Refusal :=
  (Prog.one (.emit (.pmbus (some (codeOf 16 s.tel.layer))))).next s

/-- READ_PIN: package power. -/
def execReadPin (s : State) : Host.Outcome State Fault Refusal :=
  (Prog.one (.emit (.pmbus (some (s.rdF .TEL_POWER Fld.TEL_POWER_PKG))))).next s

/-- STATUS_WORD: the spec gives no bits of it, so the word is free (log 2). -/
def execStatusWord (s : State) : Host.Outcome State Fault Refusal :=
  (freeVal.bind fun v => .one (.emit (.pmbus (some (v.toNat % 2 ^ 16))))).next s

/-- PMBUS_INVALID_COMMAND: any other command is answered with the invalid-command response. -/
def execPmbusInvalidCommand (s : State) : Host.Outcome State Fault Refusal := (Prog.one (.emit (.pmbus none))).next s

/-- The sensors of R419 by number (log 53): 0 package power, 1 to 11 the rail groups' powers, 12 the hottest die
sensor, 13 the hottest DRAM layer, 14 to 17 the caps, 18 GLB_STATE. -/
def State.sensor (s : State) (n : Nat) : Option Int :=
  if n = 0 then some (s.rdF .TEL_POWER Fld.TEL_POWER_PKG : Nat)
  else if n ≤ 11 then some (s.rdF .TEL_RAIL Fld.TEL_RAIL_MV (n - 1) * s.rdF .TEL_RAIL Fld.TEL_RAIL_DA (n - 1) / 1000 : Nat)
  else if n = 12 then some s.tel.die
  else if n = 13 then some s.tel.layer
  else if n ≤ 17 then some (s.cap (n - 14) : Nat)
  else if n = 18 then some (s.rdF .GLB_STATE Fld.GLB_STATE_STATE : Nat)
  else none

/-- PLDM_REQUEST: a reading of a sensor; a number that names none is not answered with a reading. -/
def execPldmRequest (sensor : Nat) (s : State) : Host.Outcome State Fault Refusal :=
  (match s.sensor sensor with
   | some v => Prog.one (.emit (.pldm sensor v))
   | none => .skip).next s

/-! ### Counter sets and sample rings (R404, R407, R412) -/

/-- CNT_CMD.CLEAR: every programmable counter of a set becomes 0 (R407). -/
def cntClearDo (set : Nat) : Prog Unit := Prog.each (List.range (setSize set)) fun i => wr .CNT_VAL 0 set i

/-- CNT_CLEAR. -/
def execCntClear (set : Fin 132) (s : State) : Host.Outcome State Fault Refusal := (cntClearDo set).next s

/-- COUNTER_WRAP: the cycle counter of a set wraps (R404). -/
def execCounterWrap (set : Fin 132) (s : State) : Host.Outcome State Fault Refusal :=
  (wr .CNT_OVF (s.rd .CNT_OVF set ||| 1) set).next s

/-- A posted write of SMP_READ (R412). -/
def smpReadDo (c : Fin 32) (val : Word) : Prog Unit := posted (.smp c) (wr .SMP_READ val c)

/-- SMP_READ. -/
def execSmpRead (c : Fin 32) (val : BitVec 64) (s : State) : Host.Outcome State Fault Refusal := (smpReadDo c val).next s

end Sys2Proof.Machine
end

