-- ==== Sys2Proof/Machine/Startup.lean ====
section
/-!
DEFINITION. Sys2Proof/Machine/Startup.lean: PWR_OK and the straps (R368 to R371), the boot chain (R350 to R353),
bring-up, pilot and full service (R372 to R378), and the leadership of the two halves (R343, R344).
-/

namespace Sys2Proof.Machine

/-! ### PWR_OK (R369, R370) -/

/-- The half that LEAD_SEL names (R370). -/
def State.strapped (s : State) : Half := if s.boot.leadSel then .east else .west

/-- The other half. -/
def otherHalf : Half → Half
  | .east => .west
  | .west => .east

/-- PWR_OK_RISE: the straps are latched, the fuses read, and each half's ROM starts (R349, R370 to R373). -/
def execPwrOkRise (straps : Straps) (s : State) : Host.Outcome State Fault Refusal :=
  (if s.boot.on then Prog.skip
   else Prog.all [
    modBoot fun b => { b with
      on := true, leadSel := straps.leadSel, bootSrc := straps.bootSrc, recover := straps.recovery
      leader := some (if straps.leadSel then .east else .west) },
    wr .GLB_SERIAL Config.serial,
    Prog.each (List.range 33) fun i => (wrF .CLK_VF Fld.CLK_VF_MHZ (100 + 25 * i) i).seq
      (wrF .CLK_VF Fld.CLK_VF_MV (Config.vf i).toNat i),
    wrF .SEC_ARB Fld.SEC_ARB_ARB s.boot.arb, wrF .SEC_ARB Fld.SEC_ARB_LIFE Config.life.toNat,
    wr .CLK_LOCK (BitVec.ofNat 64 (2 ^ 37 - 1)),
    wrF .SEC_STATUS Fld.SEC_STATUS_RNGOK 1,
    setStage (if straps.bootSrc || straps.recovery then 1 else 0),
    showAll]).next s

/-- PWR_OK_FALL: everything is lost but the fuses and the flash, where a program or erase is cut short, and every
output is released (R369). -/
def execPwrOkFall (s : State) : Host.Outcome State Fault Refusal :=
  ((Prog.when s.boot.on cutFlash).seq (.one .powerLost)).next s

/-! ### The ROM (R350 to R353) -/

/-- Bytes of an image: of a flash slot, or of the host load window. -/
def State.imageBytes (s : State) (slot off n : Nat) : List Byte :=
  if slot = 2 then (List.range n).map fun i => Tab.at 0 s.boot.window (off + i) else s.fbytes (slotBase slot + off) n

/-- The header of an image (R350). -/
def State.imageHdr (s : State) (slot : Nat) : Nat := leNat (s.imageBytes slot 0 128)

/-- The outcome of an image by the six steps of R351; `len` bounds what holds it. -/
def State.verifyImage (s : State) (slot len : Nat) : Nat :=
  let h := s.imageHdr slot
  let n := bits 95 64 h
  let rma := h.testBit 63
  let rsa := s.imageBytes slot 128 388
  let slh := s.imageBytes slot 576 48
  let hdr := s.imageBytes slot 0 128
  if bits 31 0 h ≠ 0x46574B54 || bits 62 56 h ≠ 0 || bits 1023 480 h ≠ 0 || 33533952 < n || len < 20480 + n ||
      rma != (Config.life == 7) then 1
  else if bits 55 48 h < s.boot.arb then 2
  else if sha384 rsa ≠ Config.lrsa || sha384 slh ≠ Config.lslh then 3
  else if !rsaVerify rsa hdr (s.imageBytes slot 640 384) then 4
  else if !slhVerify slh hdr (s.imageBytes slot 1024 16224) then 5
  else if shaBytes (s.imageBytes slot 20480 n) ≠ s.imageBytes slot 12 48 then 6
  else 0

/-- The order in which a ROM tries the slots: higher SVN, then higher FLEVEL, then slot A (R352). -/
def State.slotOrder (s : State) : List Nat :=
  let a := s.imageHdr 0
  let b := s.imageHdr 1
  if bits 55 48 a < bits 55 48 b || (bits 55 48 a = bits 55 48 b && bits 47 32 a < bits 47 32 b) then [1, 0] else [0, 1]

/-- The image that a half's ROM verifies next, with the bytes that hold it. -/
def State.candidate (s : State) (h : Half) : Option (Nat × Nat) :=
  let done := (s.half h).rom.map RomOut.slot
  if (s.half h).rom.any fun r => r.outcome == 0 then none
  else if s.boot.bootSrc || s.boot.recover || s.stage = 1 then
    if done.contains 2 then none else s.boot.given.map fun n => (2, n)
  else (s.slotOrder.find? fun x => !done.contains x).map fun x => (x, slotSize)

/-- SEC_BOOT records the outcome of an attempt (R352). -/
def recordBoot (slot outcome : Nat) : Prog Unit := Prog.all [
  wrF .SEC_BOOT Fld.SEC_BOOT_OUTCOME outcome,
  Prog.when (slot == 0) (wrF .SEC_BOOT Fld.SEC_BOOT_AOUT outcome),
  Prog.when (slot == 1) (wrF .SEC_BOOT Fld.SEC_BOOT_BOUT outcome)]

/-- The leading half accepts an image: the host cores are released, and the window closes (R353, R373). -/
def acceptImage (h : Half) (slot : Nat) : Prog Unit := .get fun s =>
  let v := s.imageHdr slot
  Prog.all [
    modBoot fun b => { b with image := BitVec.ofNat 1024 v, slot := slot, digest := BitVec.ofNat 384 (bits 479 96 v) },
    wrF .SEC_BOOT Fld.SEC_BOOT_SLOT slot, wrF .SEC_BOOT Fld.SEC_BOOT_SVN (bits 55 48 v),
    wrF .SEC_BOOT Fld.SEC_BOOT_LEADE (if h = .east then 1 else 0),
    wrF .GLB_FLEVEL Fld.GLB_FLEVEL_FLEVEL (bits 47 32 v), wrF .GLB_FLEVEL Fld.GLB_FLEVEL_SVN (bits 55 48 v),
    setStage (if s.boot.recover then 7 else 2), showOwner, Prog.when (!s.boot.recover) (setJnlState 1)]

/-- BOOT_VERIFY: a half's ROM verifies the next image (R351 to R353). A device whose LIFE is neither PROD nor
RMA refuses to boot (R349). -/
def execBootVerify (half : Half) (s : State) : Host.Outcome State Fault Refusal :=
  (match s.candidate half with
   | none => Prog.skip
   | some (slot, len) =>
     if !s.boot.on || !(s.half half).runs || (Config.life ≠ 3 && Config.life ≠ 7) then Prog.skip
     else
      let out := s.verifyImage slot len
      let leads := s.boot.leader == some half
      Prog.all [
        modHalf half fun k => { k with rom := ⟨slot, out, BitVec.ofNat 384 (bits 479 96 (s.imageHdr slot))⟩ :: k.rom },
        (if !leads then .one (.emit (.handshake half out))
         else (recordBoot slot out).seq
          (if out = 0 then Prog.when (decide (s.stage ≤ 1)) (acceptImage half slot)
           else if slot = 2 then Prog.all [
             modBoot fun b => { b with
               given := none
               east := { b.east with rom := b.east.rom.filter fun (r : RomOut) => r.slot != 2 }
               west := { b.west with rom := b.west.rom.filter fun (r : RomOut) => r.slot != 2 } }]
           else Prog.get fun s => Prog.when ((s.candidate half).isNone && s.stage == 0) (setStage 1))),
        showAll]).next s

/-- FOLLOWER_OUTCOME: the follower's outcome and DIGEST are compared with the leader's; a difference or a
rejection stops both halves (R353). -/
def execFollowerOutcome (outcome : Nat) (digest : BitVec 384) (s : State) : Host.Outcome State Fault Refusal :=
  (match s.boot.leader.bind fun h => (s.half h).rom.find? fun (r : RomOut) => r.outcome == 0 with
   | none => Prog.skip
   | some r =>
     if outcome = 0 && digest = r.digest then Prog.skip
     else Prog.all [
      modBoot fun b => { b with halfDis := true },
      modHalf .east fun h => { h with fault := true }, modHalf .west fun h => { h with fault := true },
      wrF .SEC_BOOT Fld.SEC_BOOT_OUTCOME 7, showAll]).next s

/-- A posted write of JNL_HLW; GO submits the window and is ignored outside HOSTWAIT (R373, R387). -/
def jnlHlwDo (val : Word) : Prog Unit := posted .jnl <| Prog.get fun s =>
  (wr .JNL_HLW val).seq (Prog.when (s.stage == 1 && flagF Fld.JNL_HLW_GO val)
    (modBoot fun b => { b with given := some (min (getF Fld.JNL_HLW_LEN val) 33554432) }))

/-- JNL_HLW. -/
def execJnlHlw (val : BitVec 64) (s : State) : Host.Outcome State Fault Refusal := (jnlHlwDo val).next s

/-! ### Pilot and full service (R372 to R377) -/

/-- PILOT_DECLARE: V00 to V03 serve the pilot mapping, the clusters run at 425 MHz, the pilot ports run at a quarter,
and the telemetry controller takes AVSBus control (R372, R374). Training of V04 to V15 follows (R219, R376). In a recovery start STAGE stays RECOVERY
(R378). -/
def execPilotDeclare (s : State) : Host.Outcome State Fault Refusal :=
  (if s.faultCause ≠ 0 || !(s.stage = 3 || (s.stage = 7 && s.rdF .TEL_STATUS Fld.TEL_STATUS_LOOP = 0)) then Prog.skip
   else Prog.all [
    Prog.each (List.range 4) fun v => freeVal.bind fun x => Prog.all [
      wrF .MEM_STATUS Fld.MEM_STATUS_STATE 2 v, wrF .MEM_STATUS Fld.MEM_STATUS_REPAIRED 1 v,
      wrF .MEM_STATUS Fld.MEM_STATUS_SPARES x.toNat v],
    Prog.each s.pilotPorts fun p => setPortState p 3,
    wrF .CLK_STATUS Fld.CLK_STATUS_PILOT 1, wrF .TEL_STATUS Fld.TEL_STATUS_LOOP 1,
    retune true,
    Prog.when (s.stage == 3) (setStage 4),
    Prog.when (s.stage == 3) (Prog.each ((List.range 16).drop 4) fun v => wrF .MEM_STATUS Fld.MEM_STATUS_STATE 1 v),
    showAll]).next s

/-- A sector written in pilot service holds free bytes, a free metadata word and free check symbols (R198). -/
def undefineSector (sec : Nat) : Prog Unit :=
  (freeBytes 8).bind fun d => freeVal.bind fun m => (freeBytes 1).bind fun e => Prog.all [
    wrBytes (64 * sec) d, .one (.setMeta sec (m.setWidth 32)),
    .one (.setErr sec ((e.take 4).zipIdx.foldl (fun p x => errAdd p (68 + x.2) x.1) []))]

/-- FULL_SERVICE_DECLARE: pilot bindings end, every vault switches to the full mapping, the clusters' clocks go
to their settings, and READY rises (R375, R376, R437). -/
def execFullServiceDeclare (s : State) : Host.Outcome State Fault Refusal :=
  (if s.faultCause ≠ 0 || s.boot.recover || !(s.stage = 4 || s.stage = 5) then Prog.skip
   else Prog.all [
    beginFull,
    abortCommands fun c => c.binds,
    endAll none,
    Prog.get fun t => (Prog.one .clearMem).seq (Prog.each (t.pilotSecs.map (·.1)) undefineSector),
    Prog.each (List.range 16) fun v => freeVal.bind fun x => Prog.all [
      wrF .MEM_STATUS Fld.MEM_STATUS_STATE 3 v, wrF .MEM_STATUS Fld.MEM_STATUS_REPAIRED 1 v,
      wrF .MEM_STATUS Fld.MEM_STATUS_SPARES x.toNat v, wrF .MEM_INJ Fld.MEM_INJ_ARM 0 v],
    Prog.each s.pilotPorts fun p => Prog.get fun s =>
      Prog.when (s.rdF .FAB_PSTATUS Fld.FAB_PSTATUS_STATE p == 3) (setPortState p 2),
    wrF .CLK_STATUS Fld.CLK_STATUS_PILOT 0,
    Prog.each (List.range 32) fun c => wrF .CLK_CLFREQ Fld.CLK_CLFREQ_MHZ
      (clampMhz (((s.setting 2).map fun d => Config.settingNat d c).getD 850)) c,
    retune true,
    setStage 6, showAll]).next s

/-- BRINGUP_LIMIT: a limit of a normal start passes, or a step of R376 cannot complete: the device is STUCK
(R377). -/
def execBringupLimit (cause : Nat) (s : State) : Host.Outcome State Fault Refusal :=
  (if !s.boot.on || s.stage = 1 || 6 ≤ s.stage then Prog.skip
   else Prog.all [wrF .JNL_BRINGUP Fld.JNL_BRINGUP_CAUSE (if 1 ≤ cause ∧ cause ≤ 6 then cause else 6), setStage 8, showAll]).next s

/-! ### Leadership (R343, R344) -/

/-- What a half does by its counts: an unstrapped leader that misses 4 acknowledgements releases; a strapped
follower that misses 5 renewals claims, and leads also where both claim; an unstrapped one pulls FAULT_N. -/
def leaseAct (h : Half) : Prog Unit := .get fun s =>
  let strapped := s.strapped == h
  if !s.boot.on || !(s.half h).runs then .skip
  else if s.boot.leader = some h then
    Prog.when (!strapped && decide (4 ≤ s.boot.unacked))
      ((modBoot fun b => { b with leader := none }).seq (modHalf h fun k => { k with fault := true }))
  else if s.boot.missed < 5 then .skip
  else if strapped then Prog.all [
    Prog.when (s.boot.leader.any fun l => (s.half l).runs) (modHalf (otherHalf h) fun k => { k with fault := true }),
    modBoot fun b => { b with leader := some h, missed := 0, unacked := 0 },
    .one (.emit (.handshake h 1))]
  else modHalf h fun k => { k with fault := true }

/-- LEASE_RENEWAL: the leader's renewal of the millisecond, acknowledged or not (R343). -/
def execLeaseRenewal (acked : Bool) (s : State) : Host.Outcome State Fault Refusal :=
  (if !s.boot.on then Prog.skip
   else match s.boot.leader with
    | none => modBoot fun b => { b with missed := b.missed + 1 }
    | some h =>
      if !(s.half h).runs then modBoot fun b => { b with missed := b.missed + 1 }
      else if acked && (s.half (otherHalf h)).runs then modBoot fun b => { b with missed := 0, unacked := 0 }
      else Prog.all [modBoot fun b => { b with missed := b.missed + 1, unacked := b.unacked + 1 }, leaseAct h, showAll]).next s

/-- LEASE_CLAIM: a half acts on what it has missed (R343). -/
def execLeaseClaim (half : Half) (s : State) : Host.Outcome State Fault Refusal := ((leaseAct half).seq showAll).next s

/-- YIELD: the leader yields to the follower by consent (R343). -/
def execYield (s : State) : Host.Outcome State Fault Refusal :=
  (match s.boot.leader with
   | none => Prog.skip
   | some h =>
     if !(s.half h).runs || !(s.half (otherHalf h)).runs then Prog.skip
     else Prog.all [
      .one (.emit (.handshake h 2)),
      modBoot fun b => { b with leader := some (otherHalf h), missed := 0, unacked := 0 }, showAll]).next s

end Sys2Proof.Machine
end

