-- ==== Sys2Proof/Machine/Loader.lean ====
section
/-!
DEFINITION. Sys2Proof/Machine/Loader.lean: addresses of registers (R300, R301), and Uttis images: their layout
and the loader's checks (R313 to R318, R360).
-/

namespace Sys2Proof.Machine

/-! ### Addresses (R300, R301, R403) -/

/-- The indices of a register of an address, from its offset in the register's array. -/
def indexAt (x : RegInfo) (d : Nat) : Option (Nat × Nat) :=
  let i := if x.s1 = 0 then 0 else d / x.s1
  let r := if x.s1 = 0 then d else d % x.s1
  let j := if x.s2 = 0 then 0 else r / x.s2
  if i < x.n1 && j < x.n2 && r = x.s2 * j then some (i, j) else none

/-- The register of a counter set at an offset in the set (R407). -/
def cntAt (set o : Nat) : Option RegKey :=
  if o = 0 then some ⟨.CNT_CYCLE, set, 0⟩
  else if o = 8 then some ⟨.CNT_OVF, set, 0⟩
  else if o = 0x10 then some ⟨.CNT_CMD, set, 0⟩
  else if 0x100 ≤ o && o % 8 = 0 && o < 0x100 + 8 * setSize set then some ⟨.CNT_SEL, set, (o - 0x100) / 8⟩
  else if 0x200 ≤ o && o % 8 = 0 && o < 0x200 + 8 * setSize set then some ⟨.CNT_VAL, set, (o - 0x200) / 8⟩
  else none

/-- The register at an offset, by the register tables. -/
def tableAt (off : Nat) : List RegName → Option RegKey
  | [] => none
  | n :: r =>
    match if (cntOffset n).isSome || off < n.info.base then none else indexAt n.info (off - n.info.base) with
    | some (i, j) => some ⟨n, i, j⟩
    | none => tableAt off r

/-- The register at an offset of BAR0; none at a reserved location. -/
def keyAt (off : Nat) : Option RegKey :=
  match tableAt off RegName.all with
  | some k => some k
  | none =>
    match (List.range 132).find? fun n => setBase n ≤ off && off < setBase n + 0x300 with
    | some n => cntAt n (off - setBase n)
    | none => none

/-! ### Images (R313 to R316) -/

/-- A little-endian number in an image. -/
def part (d : List Byte) (off n : Nat) : Nat := leNat ((d.drop off).take n)

/-- A section of an image. -/
structure Sect where
  typ  : Nat
  inst : Nat
  off  : Nat
  len  : Nat
deriving DecidableEq, Repr

/-- A directory entry is well formed: reserved bits 0, a known type, an aligned offset inside the image. -/
def entryLayout (nsect len e : Nat) : Bool :=
  bits 15 8 e == 0 && bits 255 128 e == 0 && 1 ≤ bits 7 0 e && bits 7 0 e ≤ 6 && bits 95 32 e % 64 == 0 &&
  decide (128 + 32 * nsect ≤ bits 95 32 e) && decide (bits 95 32 e + bits 127 96 e ≤ len) &&
  (bits 31 16 e == 0xFFFF || bits 7 0 e == 5)

/-- The directory of an image. -/
def sections (d : List Byte) : List Sect :=
  (List.range (part d 20 2)).map fun i =>
    let e := part d (128 + 32 * i) 32
    ⟨bits 7 0 e, bits 31 16 e, bits 95 32 e, bits 127 96 e⟩

/-- No two sections overlap. -/
def disjoint : List Sect → Bool
  | [] => true
  | x :: r => r.all (fun y => decide (x.off + x.len ≤ y.off) || decide (y.off + y.len ≤ x.off)) && disjoint r

/-- The sections of a type. -/
def ofType (t : Nat) (l : List Sect) : List Sect := l.filter fun x => x.typ == t

/-- RESOURCES of an image (R314). -/
def resources (d : List Byte) : Nat :=
  match ofType 1 (sections d) with
  | x :: _ => part d x.off 64
  | [] => 0

/-- The register records of an image (R315). -/
def records (d : List Byte) : List (Nat × Word) :=
  (ofType 2 (sections d)).flatMap fun x => (List.range (x.len / 16)).map fun i =>
    (part d (x.off + 16 * i) 8, BitVec.ofNat 64 (part d (x.off + 16 * i + 8) 8))

/-- The clusters that RESOURCES lends, by unit (R314). -/
def lentClusters (r : Nat) : List Nat :=
  ((List.range 4).filter fun u => r.testBit (197 + 6 * u)).map (fun u => bits (196 + 6 * u) (192 + 6 * u) r) ++
  ((List.range 2).map fun t => (List.range 32).filter fun c => r.testBit (256 + 32 * t + c)).flatten

/-- RESOURCES keeps the rules of R314. -/
def resourcesOk (r : Nat) : Bool :=
  bits 63 49 r == 0 && bits 127 88 r == 0 && bits 255 216 r == 0 && bits 511 320 r == 0 &&
  (lentClusters r).all (fun c => r.testBit c) && decide (lentClusters r).Nodup &&
  (List.range 4).all fun u => !r.testBit (197 + 6 * u) || bits (196 + 6 * u) (192 + 6 * u) r / 8 == u

/-- The fixed part of PARAMS keeps R316 and the ranges of R44 and R119; `V00` holds the horn region. -/
def paramsOk (s : State) (p : Nat) : Bool :=
  12 ≤ bits 4 0 p && bits 4 0 p ≤ 20 && bits 7 5 p ≤ 6 && 1 ≤ bits 14 8 p && bits 14 8 p ≤ 64 && 1 ≤ bits 18 15 p &&
  bits 63 19 p == 0 && bits 511 104 p == 0 &&
  bits 103 64 p % 65536 == 0 && s.vaultOf (bits 103 64 p) == 0

/-- The defaults of R316. -/
def defaultParams : Nat := 14 + 3 * 2 ^ 5 + 1 * 2 ^ 8 + 5 * 2 ^ 15

/-- PARAMS of an image: the fixed part, the watch table and the count areas (R189, R193, R316). -/
def paramsOf (d : List Byte) : Option (BitVec 512 × Tab Word × Tab (BitVec 48)) :=
  match ofType 4 (sections d) with
  | [] => none
  | x :: _ => some (BitVec.ofNat 512 (part d x.off 64),
      (List.range 256).foldl (fun m t => Tab.upd 0x3C800000_0400 m t (BitVec.ofNat 64 (part d (x.off + 64 + 8 * t) 8))) [],
      (List.range 32).foldl (fun m c => Tab.upd 0 m c (BitVec.ofNat 48 (part d (x.off + 2112 + 8 * c) 8))) [])

/-- The save areas that an image takes over: unit and address (R313, R321). -/
def restoresOf (d : List Byte) : List (Nat × Nat) :=
  (ofType 5 (sections d)).map fun x => (x.inst, part d x.off 8)

/-- A section has the size that its type needs. -/
def sectionOk (s : State) (d : List Byte) (x : Sect) : Bool :=
  if x.typ = 1 then x.len == 64 && resourcesOk (part d x.off 64)
  else if x.typ = 2 then x.len % 16 == 0
  else if x.typ = 3 then decide (8 ≤ x.len) && bits 62 48 (part d x.off 8) == 0
  else if x.typ = 4 then x.len == 2368 && paramsOk s (part d x.off 64)
  else if x.typ = 5 then x.len == 8
  else true

/-- The image keeps the layout of R313 to R316. -/
def layoutOk (s : State) (d : List Byte) : Bool :=
  let h := part d 0 128
  let full := bits 43 40 h == 1
  let len := bits 159 128 h
  let n := bits 175 160 h
  let l := sections d
  !h.testBit 47 && bits 127 80 h == 0 && bits 191 176 h == 0 && bits 255 240 h == 0 && bits 1023 640 h == 0 &&
  decide (len ≤ if full then 2 ^ 30 else 2 ^ 23) && 1 ≤ n && n ≤ 4096 && decide (128 + 32 * n ≤ len) &&
  (!full || bits 239 192 h == 0) &&
  (List.range n).all (fun i => entryLayout n len (part d (128 + 32 * i) 32)) &&
  disjoint l && (ofType 1 l).length == 1 && (ofType 4 l).length ≤ 1 && (ofType 6 l).length ≤ 1 &&
  decide (((ofType 2 l).map fun x => x.len / 16).sum ≤ if full then 65536 else 16384) &&
  l.all (sectionOk s d)

/-- The bytes that DIGEST covers: DIGEST taken as 0, the SIGNATURE section left out (R313). -/
def digested (d : List Byte) : List Byte :=
  let d := d.take 32 ++ List.replicate 48 0 ++ d.drop 80
  match ofType 6 (sections d) with
  | x :: _ => d.take x.off ++ d.drop (x.off + x.len)
  | [] => d

/-- The image's DIGEST. -/
def digestOf (d : List Byte) : List Byte := (d.drop 32).take 48

/-- The signatures that the owner's policy needs are there and hold (R360). -/
def signaturesOk (s : State) (d : List Byte) : Bool :=
  match ofType 6 (sections d), s.sec.owner with
  | [], none => true
  | [], some o => !reqSig o
  | _ :: _, none => false
  | x :: _, some o => decide (rsaSigLen + slhSigLen ≤ x.len) &&
      ownerSigned o (digestOf d) ((d.drop x.off).take rsaSigLen) ((d.drop (x.off + rsaSigLen)).take slhSigLen)

/-- Whether RESOURCES gives a binding `b` a strobe group (R305). -/
def groupIn (r b : Nat) (g : Nat × Nat) : Bool :=
  match g.1 with
  | 0 => r.testBit g.2
  | 1 => r.testBit (if g.2 < 36 then g.2 else 42 + (g.2 - 36))
  | 2 => r.testBit (32 + g.2)
  | 3 => r.testBit (36 + g.2)
  | 4 => r.testBit (42 + g.2)
  | 5 => r.testBit (64 + g.2)
  | 6 => r.testBit (38 + g.2)
  | 7 => r.testBit (128 + g.2)
  | 8 | 9 => r.testBit 48
  | 10 => g.2 % 8 == b
  | 11 => g.2 == b
  | _ => false

/-- A register record is legal (R315): an RW register of a group of the binding, which a channel's names as its own
(R305), a PW register, or one of the RO registers that the loader derives, with the value it derives. -/
def recordOk (r b p : Nat) (e : Nat × Word) : Bool :=
  match keyAt e.1 with
  | none => false
  | some k =>
    match k.name.info.acc with
    | .rw => groupIn r b (keyGroup k) && (k.name != .FRY_CH_CFG || getF Fld.FRY_CH_CFG_BIND e.2 == b)
    | .pw => true
    | .ro =>
      match k.name with
      | .ARY_LONGEXP => r.testBit k.i && e.2.toNat == bits 4 0 p
      | .LND_LENT => r.testBit (32 + k.i) && e.2 == putF Fld.LND_LENT_VALID
          (putF Fld.LND_LENT_CLUSTER 0 (bits (196 + 6 * k.i) (192 + 6 * k.i) r)) (bits (197 + 6 * k.i) (197 + 6 * k.i) r)
      | .SLV_LENT => r.testBit (36 + k.i) && e.2.toNat == bits (287 + 32 * k.i) (256 + 32 * k.i) r
      | _ => false
    | _ => false

/-- A resource is in service: in pilot service only the clusters and the pilot ports are (R374). -/
def State.serves (s : State) (i : Nat) : Bool := s.stage == 6 || i < 32 || (64 ≤ i && s.pilotPorts.contains (i - 64))

/-- The first code of R317 that matches an image of a load, 0 where it is accepted. -/
def imageCode (s : State) (l : Load) (d : List Byte) : Nat :=
  let h := part d 0 128
  let full := bits 43 40 h == 1
  let b := l.bind
  let r := resources d
  let lvl := bits 63 48 h
  let fw := s.rdF .GLB_FLEVEL Fld.GLB_FLEVEL_FLEVEL
  let cur := s.rdF .BND_JOB Fld.BND_JOB_FLEVEL b
  let moving := match s.rb with | some x => if l.rb && x.to' = b then x.units.toNat else 0 | none => 0
  let old := ((s.binding b).params).toNat
  let p := match paramsOf d with | some x => x.1.toNat | none => if full then defaultParams else old
  if bits 31 0 h ≠ 0x55494B54 || bits 39 32 h ≠ 1 || (bits 43 40 h ≠ 1 && bits 43 40 h ≠ 2) || bits 46 44 h ≠ b then 1
  else if !layoutOk s d then 2
  else if shaBytes (digested d) ≠ digestOf d then 3
  else if !signaturesOk s d then 4
  else if !(lvl == fw || lvl + 1 == fw) || (!full && (decide (lvl + 2 ≤ cur) || decide (cur + 2 ≤ lvl))) then 5
  else if (resList r).any (fun i => (List.range 8).any fun b' => b' != b && (s.owned b').testBit i && !moving.testBit i) ||
      (resList moving).any (fun i => i < 32 && ((s.lentLu i).isSome || (s.lentSu i).isSome)) then 6
  else if s.boot.recover || (resList r).any (fun i => !s.serves i) then 7
  else if !(records d).all (recordOk r b p) then 8
  else if full == s.bound b then 9
  else if !l.rb && s.rb.isSome then 10
  else 0

/-- An image read from plain memory; none where it cannot be read clean. -/
def readImage (a : Nat) : Prog (Option (List Byte)) :=
  (cleanRead a 128).bind fun h =>
    match h with
    | none => .ret none
    | some h =>
      let n := part h 16 4
      if 2 ^ 30 < n then .ret (some h) else (cleanRead a (max n 128))

/-! ### Requests (R317, R321, R322) -/

/-- The loader begins (R317); how much of the image it has read at a time is left free until the check ends (log 2). A request that finds it busy is rejected with BUSY and touches nothing. -/
def imageLoadDo (b addr : Nat) (rb : Bool) (host : Option Nat) : Prog Unit := .get fun s =>
  if s.load.isSome then (match host with | some q => complete q hcRejected 10 0 | none => .skip)
  else Prog.all [
    .one (.setLoad (some ⟨addr, b, rb, host⟩)),
    wr .BND_IMG_STATUS 1, (freeVal.bind fun v => wrF .BND_IMG_STATUS Fld.BND_IMG_STATUS_PROGRESS v.toNat),
    wrF .BND_STATUS Fld.BND_STATUS_LOADBUSY 1,
    Prog.when (s.bstate b == 0) (setBstate b 1)]

/-- A posted write of BND_IMG_CTRL: GO starts a load of the image at BND_IMG_ADDR. -/
def imgCtrlDo (val : Word) : Prog Unit := posted .bnd <| Prog.get fun s =>
  (wr .BND_IMG_CTRL val).seq (Prog.when (flagF Fld.BND_IMG_CTRL_GO val)
    (imageLoadDo (getF Fld.BND_IMG_CTRL_BIND val) (s.rdF .BND_IMG_ADDR Fld.BND_IMG_ADDR_ADDR * 4096) false none))

/-- IMAGE_LOAD. -/
def execImageLoad (val : BitVec 64) (s : State) : Host.Outcome State Fault Refusal :=
  (imgCtrlDo (putF Fld.BND_IMG_CTRL_GO val 1)).next s

/-- The re-binding's units begin to drain (R321). -/
def drainUnits (l : List Nat) : Prog Unit := Prog.each l drainUnit

/-- A re-binding is requested (R321): what the image adds to TO's resources moves from FROM, or from the unbound
pool. While a load or a re-binding is in progress it is rejected with BUSY (R322). -/
def rebindDo (from' : Option Nat) (to' : Nat) (now : Bool) (save img : Nat) (host : Option Nat) : Prog Unit := .get fun s =>
  if s.rb.isSome || s.load.isSome then
    (Prog.when s.rb.isNone (wrF .BND_RB_STATUS Fld.BND_RB_STATUS_CODE 10)).seq
      (match host with | some q => complete q hcRejected 10 0 | none => .skip)
  else (readImage img).bind fun d => .get fun s =>
    let r := match d with | some d => resources d % 2 ^ 192 | none => 0
    let add := without r (s.owned to')
    let units := match from' with | some f => add &&& s.owned f | none => without add s.allOwned
    let later := !now && (match from' with | some f => s.bstate f == 3 | none => false)
    Prog.all [
      .one (.setRb (some ⟨from', to', save, img, later, BitVec.ofNat 512 units, host⟩)),
      wr .BND_RB_STATUS 0, setPhase 1,
      Prog.when (!later) (drainUnits (resList units))]

/-- A posted write of BND_RB_REQ: GO starts the re-binding. -/
def rbReqDo (val : Word) : Prog Unit := posted .bnd <| Prog.get fun s =>
  (wr .BND_RB_REQ val).seq (Prog.when (flagF Fld.BND_RB_REQ_GO val)
    (rebindDo (if flagF Fld.BND_RB_REQ_FROMNONE val then none else some (getF Fld.BND_RB_REQ_FROM val))
      (getF Fld.BND_RB_REQ_TO val) (flagF Fld.BND_RB_REQ_NOW val) (getF Fld.BND_RB_REQ_SAVE val * 4096)
      (s.rdF .BND_IMG_ADDR Fld.BND_IMG_ADDR_ADDR * 4096) none))

/-- REBIND_REQUEST. -/
def execRebindRequest (val : BitVec 64) (s : State) : Host.Outcome State Fault Refusal :=
  (rbReqDo (putF Fld.BND_RB_REQ_GO val 1)).next s

end Sys2Proof.Machine
end

