-- ==== Sys2Proof/Machine/Translation.lean ====
section
/-!
DEFINITION. Sys2Proof/Machine/Translation.lean: invalidations (R226) and the fault log's read mark (R238).
-/

namespace Sys2Proof.Machine

/-- Pages that an invalidation names: the binding, and the range in bytes, or the whole binding (R245). -/
structure Inval where
  bnd : Nat
  rng : Option (Nat × Nat)
deriving DecidableEq, Repr

/-- The invalidation that a written value asks for (R245). -/
def invalOf (val : Word) : Inval :=
  ⟨getF Fld.XLT_INV_BIND val,
   if flagF Fld.XLT_INV_ALLB val then none
   else some (65536 * getF Fld.XLT_INV_VA val, 65536 * (getF Fld.XLT_INV_SIZE val + 1))⟩

/-- Whether an invalidation covers a cached entry: their spans overlap (R226). -/
def Inval.covers (i : Inval) (e : XEnt) : Bool :=
  e.bnd == i.bnd &&
  match i.rng with
  | none => true
  | some (a, n) =>
    decide (e.tag * 2 ^ lvlShift e.lvl < a + n) && decide (a < (e.tag + 1) * 2 ^ lvlShift e.lvl)

/-- A translation unit drops what an invalidation covers. -/
def dropCovered (i : Inval) (x : Nat) : Prog Unit := .get fun s =>
  let l := (s.cache x).filter fun e => !i.covers e
  (Prog.one (.setXlt x l)).seq (showCached x l.length)

/-- XLT_INV: a posted write starts an invalidation at one translation unit (R226). -/
def xltInvDo (x : Fin 35) (val : BitVec 64) : Prog Unit :=
  posted (.xlt x) ((wr .XLT_INV val x).seq (dropCovered (invalOf val) x))

/-- `execXltInv`: the command. -/
def execXltInv (x : Fin 35) (val : BitVec 64) (s : State) : Host.Outcome State Fault Refusal := (xltInvDo x val).next s

/-- A posted write of the device-wide registers clears the WLOST of an earlier one (R245). -/
def postedGlobal (accept : Prog Unit) : Prog Unit :=
  posted .xltAll ((wrF .XLT_GSTATUS Fld.XLT_GSTATUS_WLOST 0).seq accept)

/-- XLT_INVALL: a posted write starts the same invalidation at all 35 units (R226). -/
def xltInvallDo (val : BitVec 64) : Prog Unit :=
  postedGlobal (Prog.all [wr .XLT_INVALL val, .one (.setInvAll true),
    Prog.each (List.range 35) (dropCovered (invalOf val))])

/-- `execXltInvall`: the command. -/
def execXltInvall (val : BitVec 64) (s : State) : Host.Outcome State Fault Refusal := (xltInvallDo val).next s

/-- INVALIDATION_DONE: every covered entry is dropped and every access made through one is acknowledged
(R226): at one unit, or everywhere for XLT_INVALL. -/
def execInvalidationDone (x : Option (Fin 35)) (s : State) : Host.Outcome State Fault Refusal :=
  (match x with
    | some i => setBusy (.xlt i) false
    | none => Prog.when s.invAll ((setBusy .xltAll false).seq (.one (.setInvAll false)))).next s

/-- FLOG_READ: a posted write of XLT_FLOG_READ frees slots of the fault log (R238). -/
def flogReadDo (val : BitVec 64) : Prog Unit := postedGlobal (wr .XLT_FLOG_READ val)

/-- `execFlogRead`: the command. -/
def execFlogRead (val : BitVec 64) (s : State) : Host.Outcome State Fault Refusal := (flogReadDo val).next s

end Sys2Proof.Machine
end

