-- ==== Sys2Proof/Machine/Posts.lean ====
section
/-!
DEFINITION. Sys2Proof/Machine/Posts.lean: writes of posted registers (R310), by register.
-/

namespace Sys2Proof.Machine

/-- A write of MEM_CDC_DTADDR: TID 0xF names no table (R216, R218). -/
def dtaddrDo (e : Fin 40) (val : Word) : Prog Unit := posted (.cdc e) <|
  (wr .MEM_CDC_DTADDR val e).seq
    (Prog.when (getF Fld.MEM_CDC_DTADDR_TID val == 15) (setF .MEM_CDC_ERR Fld.MEM_CDC_ERR_DTBAD e))

/-- The block of a posted register (R310). -/
def pwBlock (k : RegKey) : Option PwBlock :=
  match k.name with
  | .SLV_JQ_TAIL => some (.slv (Fin.ofNat 2 k.i))
  | .MEM_INJ => some (.mem (Fin.ofNat 16 k.i))
  | .MEM_CDC_DTADDR | .MEM_CDC_DTSTEP => some (.cdc (Fin.ofNat 40 k.i))
  | .XLT_INV => some (.xlt (Fin.ofNat 35 k.i))
  | .XLT_INVALL | .XLT_FLOG_READ => some .xltAll
  | .MOV_TAIL => some (.mov (Fin.ofNat 4 k.i))
  | .FAB_HORN_TX | .FAB_HORN_RXREAD | .FAB_PDOWN | .FAB_REMAP => some .horn
  | .FRY_CH_KEY | .FRY_CH_TXTAIL | .FRY_CH_RXTAIL => some (.chan (Fin.ofNat 64 k.i))
  | .BND_IMG_ADDR | .BND_IMG_CTRL | .BND_RB_REQ => some .bnd
  | .SEC_ARB_CMD | .SEC_OWN_CMD | .SEC_BERTH_CMD | .SEC_CQ_TAIL => some .sec
  | .JNL_APPEND | .JNL_HLW | .JNL_FW_SRC | .JNL_FW_CMD => some .jnl
  | .HCI_FWDB_SQ | .HCI_FWDB_CQ | .HCI_SQ_BASE | .HCI_CQ_BASE | .HCI_QCTRL => some .hci
  | .SMP_READ => some (.smp (Fin.ofNat 32 k.i))
  | .TEL_PCAP | .TEL_THERM | .TEL_ALERTEN => some .tel
  | .CLK_GATELO | .CLK_GATEHI | .CLK_CLFREQ => some .clk
  | _ => none

/-- A write of a posted register. A register write of FAB_HORN_TX takes a free number of
tokens for those that have come in (log 23). -/
def pwDo (k : RegKey) (v : Word) : Prog Unit :=
  match k.name with
  | .SLV_JQ_TAIL => slvJqTailDo (Fin.ofNat 2 k.i) v
  | .MEM_INJ => memInjDo (Fin.ofNat 16 k.i) v
  | .MEM_CDC_DTADDR => dtaddrDo (Fin.ofNat 40 k.i) v
  | .MEM_CDC_DTSTEP => dtstepLoadDo (Fin.ofNat 40 k.i) v
  | .XLT_INV => xltInvDo (Fin.ofNat 35 k.i) v
  | .XLT_INVALL => xltInvallDo v
  | .XLT_FLOG_READ => flogReadDo v
  | .MOV_TAIL => movTailDo k.i v
  | .FAB_HORN_TX => freeVal.bind fun r => fabHornTxDo v r.toNat
  | .FAB_HORN_RXREAD => hornRxreadDo v
  | .FAB_PDOWN => fabPdownDo (Fin.ofNat 512 k.i) v
  | .FAB_REMAP => fabRemapDo (Fin.ofNat 32768 k.i) v
  | .FRY_CH_KEY => fryChKeyDo (Fin.ofNat 64 k.i) v
  | .FRY_CH_TXTAIL => txtailDo (Fin.ofNat 64 k.i) v
  | .FRY_CH_RXTAIL => rxtailDo (Fin.ofNat 64 k.i) v
  | .BND_IMG_ADDR => posted .bnd (wr .BND_IMG_ADDR v)
  | .BND_IMG_CTRL => imgCtrlDo v
  | .BND_RB_REQ => rbReqDo v
  | .SEC_ARB_CMD => arbCmdDo v
  | .SEC_OWN_CMD => ownCmdDo v
  | .SEC_BERTH_CMD => berthCmdDo v
  | .SEC_CQ_TAIL => secCqTailDo v
  | .JNL_APPEND => jnlAppendDo v
  | .JNL_HLW => jnlHlwDo v
  | .JNL_FW_SRC => posted .jnl (wr .JNL_FW_SRC v)
  | .JNL_FW_CMD => fwCmdDo v
  | .HCI_FWDB_SQ => fwBellDo true v
  | .HCI_FWDB_CQ => fwBellDo false v
  | .HCI_SQ_BASE => qbaseDo .HCI_SQ_BASE k.i v
  | .HCI_CQ_BASE => qbaseDo .HCI_CQ_BASE k.i v
  | .HCI_QCTRL => qctrlDo k.i v
  | .SMP_READ => smpReadDo (Fin.ofNat 32 k.i) v
  | .TEL_PCAP => telDo .TEL_PCAP v
  | .TEL_THERM => telDo .TEL_THERM v
  | .TEL_ALERTEN => telDo .TEL_ALERTEN v
  | .CLK_GATELO => gateDo false v
  | .CLK_GATEHI => gateDo true v
  | .CLK_CLFREQ => clfreqDo k.i v
  | _ => .skip

/-- A posted register that an image's record names: the loader polls WBUSY, so the write before has taken
effect (R315). -/
def pwRecord (k : RegKey) (v : Word) : Prog Unit :=
  (match pwBlock k with
    | some b => setBusy b false
    | none => .skip).seq (pwDo k v)

end Sys2Proof.Machine
end

