-- ==== Sys2Proof/Machine/Turnaround.lean ====
section
/-!
DEFINITION. Sys2Proof/Machine/Turnaround.lean: the update strobe (R305 to R308, R320), images as they apply
(R319, R321), turnarounds, commit, skip and forced (R12, R18, R23 to R27), and the commands of BND_CMD (R308, R323).
-/

namespace Sys2Proof.Machine

/-! ### Scans (R307, R320) -/

/-- Keys in ascending offset. -/
def insertKey (k : RegKey) : List RegKey → List RegKey
  | [] => [k]
  | x :: r => if keyOffset k ≤ keyOffset x then k :: x :: r else x :: insertKey k r

/-- The registers of a group whose pending value differs from the applied one, in ascending offset (R307). -/
def State.pendingIn (s : State) (g : Nat × Nat) : List RegKey :=
  ((s.pend.map Prod.fst).filter fun k => keyGroup k == g).foldr insertKey []

/-- What a setting does as it applies: a sample setting restarts the class count (R412), a base setting empties a
cluster codec's base window (R214), a channel's or a port's enable acts (R249, R274, R295). -/
def applied (k : RegKey) : Prog Unit := .get fun s =>
  match k.name with
  | .SMP_CTRL => modCl k.i fun c => { c with sampled := 0 }
  | .MEM_CDC_BWIN | .MEM_CDC_CRTBASE => Prog.when (decide (k.i < 32)) (modCodec k.i fun c => { c with bases := [] })
  | .FRY_CH_CFG => chanEnable k.i
  | .FRY_CTRL => fryShow
  | .FAB_PCFG => (portClock (55 + k.i) (s.rdF .FAB_PCFG Fld.FAB_PCFG_EN k.i == 1 && !s.stopped (55 + k.i))).seq showPins
  | .FRY_PCFG => (portClock (79 + k.i) (s.rdF .FRY_PCFG Fld.FRY_PCFG_EN k.i == 1 && !s.stopped (79 + k.i))).seq showPins
  | _ => .skip

/-- A register takes an applied value. -/
def applyReg (k : RegKey) (v : Word) : Prog Unit :=
  Prog.all [.one (.setReg k v), .one (.setPend k none), applied k]

/-- A record of an image applies (R315, R320). -/
def applyRecord (k : RegKey) (v : Word) : Prog Unit :=
  match k.name.info.acc with
  | .rw => applyReg k v
  | .pw => pwRecord k v
  | _ => .skip

/-- The records of images for a group, in order. -/
def recordsFor (g : Nat × Nat) (l : List (Nat × Word)) : List (RegKey × Word) :=
  (l.filterMap fun e => (keyAt e.1).map fun k => (k, e.2)).filter fun (e : RegKey × Word) => keyGroup e.1 == g

/-- A group's scan: buffered writes in ascending offset, then the taken images' records in record order (R307,
R320); strobes are counted (R408). -/
def scanGroup (g : Nat × Nat) (recs : List (Nat × Word)) : Prog Unit := .get fun s => Prog.all [
  Prog.each (s.pendingIn g) fun k => .get fun s => applyReg k (s.pending' k),
  Prog.each (recordsFor g recs) fun e => applyRecord e.1 e.2,
  Prog.each (groupSets g) fun n => count n 0x02]

/-! ### Count areas (R193) -/

/-- A cluster's count area: header, then the record of each layer tag. -/
def countBytes (k : Cluster) : List Byte :=
  let h := k.hdr
  leBytes 64 (h.step % 2 ^ 48 + h.ltag % 2 ^ 8 * 2 ^ 48 + h.delta % 2 ^ 32 * 2 ^ 64 + h.addr % 2 ^ 48 * 2 ^ 96 + h.nfvotes % 2 ^ 32 * 2 ^ 144) ++
  (List.range 256).flatMap fun t =>
    let r := Tab.at WatchRec.zero k.counts t
    leBytes 16 (r.watched % 2 ^ 32 + r.disagree % 2 ^ 32 * 2 ^ 32 + r.inconc % 2 ^ 16 * 2 ^ 64 + r.retry % 2 ^ 32 * 2 ^ 80 +
      r.fallback % 2 ^ 16 * 2 ^ 112)

/-- The cluster writes its count area; a fault is recorded and the writing abandoned (R193). -/
def writeCounts (b c : Nat) : Prog Unit := .get fun s =>
  let a := (Tab.at 0 (s.binding b).areas c).toNat
  if a = 0 then .skip
  else (vput (seqUnit s c) a (countBytes (s.cluster c))).bind fun r =>
    match r with
    | .ok _ => .skip
    | .error f => Prog.all [logFault (seqUnit s c) f, setF .ARY_ERR Fld.ARY_ERR_FAULT c]

/-! ### Images as they apply (R319, R321) -/

/-- The loader ungates the resources of an image (R438). -/
def ungate (r : Nat) : Prog Unit := (Prog.each (List.range 100) fun d =>
  Prog.when ((domainUnit d).any fun i => r.testBit i) (gateSet d false)).seq (retune true)

/-- A binding's parameters take the values of PARAMS (R316). -/
def setParams (b : Nat) (p : BitVec 512 × Tab Word × Tab (BitVec 48)) : Prog Unit :=
  modBnd b fun k => { k with params := p.1, watch := p.2.1, areas := p.2.2 }

/-- The clusters of a binding show the long-reduction exponent of its parameters (R44, R108). -/
def showLongexp (b : Nat) : Prog Unit := .get fun s =>
  Prog.each (s.clusters b) fun c => wrF .ARY_LONGEXP Fld.ARY_LONGEXP_T (bits 4 0 (s.binding b).params.toNat) c

/-- Landing Units that join a binding that has some take its copies of VPTR and MPTR (R134). -/
def joinPointers (old new : Nat) (s : State) : Prog Unit :=
  match leadOf old with
  | none => .skip
  | some l => Prog.each (List.range 4) fun u => Prog.when (new.testBit (32 + u))
      ((wrF .LND_STATUS Fld.LND_STATUS_VPTR (vptr s l) u).seq (wrF .LND_STATUS Fld.LND_STATUS_MPTR (mptr s l) u))

/-- An image of an existing binding takes effect, before the records of its groups: resources that it adds take
their state, resources that it drops become unbound, and parameters change. -/
def takeImage (b : Nat) (i : Image) : Prog Unit := .get fun s =>
  let old := s.owned b
  let new := match i.resources with | some r => r.toNat | none => old
  Prog.all [
    (match i.rb, s.rb with
      | true, some x => (match x.from' with | some f => setOwned f (without (s.owned f) x.units.toNat) | none => .skip)
      | _, _ => .skip),
    Prog.each (resList (without old new)) (createUnit false),
    setOwned b (new % 2 ^ 192),
    Prog.each (resList (without new old)) (takeUnit i.restores),
    joinPointers old (without new old) s,
    showLead b,
    (match i.resources with | some r => setLending r.toNat r.toNat | none => .skip),
    (match i.params with | some p => setParams b p | none => .skip),
    showLongexp b]

/-- Records of a posted register whose group the binding does not own apply at once. -/
def looseRecords (b : Nat) (l : List (Nat × Word)) : Prog Unit := .get fun s =>
  Prog.each (l.filterMap fun e => (keyAt e.1).map fun k => (k, e.2)) fun (e : RegKey × Word) =>
    Prog.when (e.1.name.info.acc == .pw && s.groupOwner (keyGroup e.1) != some b) (pwRecord e.1 e.2)

/-! ### MEMORY sections (R313) -/

/-- The page-table roots that an image gives its binding, by translation unit. -/
def imageRoots (b : Nat) (l : List (Nat × Word)) : List (RegKey × Word) :=
  (l.filterMap fun e => (keyAt e.1).map fun k => (k, e.2)).filter fun (e : RegKey × Word) =>
    e.1.name == .XLT_ROOT && e.1.j == b

/-- The root of a binding's table as an image defines it: the record of unit 34, or of any other unit; where the
image has none, a root in force (R222, R313; log 60). -/
def imageRoot (s : State) (b : Nat) (l : List (Nat × Word)) : Word :=
  let r := imageRoots b l
  match (r.filter fun e => e.1.i == 34).getLast?, r.getLast? with
  | some e, _ => e.2
  | none, some e => e.2
  | none, none => (((List.range 35).reverse.map fun x => s.rd .XLT_ROOT x b).find? fun w => flagF Fld.XLT_ROOT_VALID w).getD 0

/-- Bytes placed through a binding's table; a piece that does not translate to plainly stored memory is not
placed (log 60). -/
def placeBytes (b va : Nat) (d : List Byte) : Prog Unit :=
  Prog.each (piecesOf 2048 va d.length) fun p =>
    (translate (ferryUnit b) .place p.1).bind fun t =>
      match t with
      | .ok t => Prog.when (t.dest == .stack && !t.cmp) (physPut t.pa ((d.drop (p.1 - va)).take p.2))
      | .error _ => .skip

/-- The MEMORY sections of an image are written: physical ones first; the others through the binding's table as the
image defines it, whose root is in force at unit 34 while they are written. -/
def writeMemory (b : Nat) (d : List Byte) : Prog Unit := .get fun s =>
  let l := (ofType 3 (sections d)).map fun x => (part d x.off 8, (d.drop (x.off + 8)).take (x.len - 8))
  let phys := l.filter fun x => x.1.testBit 63
  let virt := l.filter fun x => !x.1.testBit 63
  let k : RegKey := ⟨.XLT_ROOT, 34, b⟩
  let old := s.rd .XLT_ROOT 34 b
  Prog.all [
    Prog.each phys fun x => physPut (x.1 % 2 ^ 48) x.2,
    Prog.when (!virt.isEmpty) (Prog.all [
      .one (.setReg k (imageRoot s b (records d))), .one (.setXlt 34 []),
      Prog.each virt fun x => placeBytes b (x.1 % 2 ^ 48) x.2,
      .one (.setReg k old), .one (.setXlt 34 (s.cache 34))])]

/-! ### The end of a check (R317, R319) -/

/-- The loader is free again. -/
def loadEnd (st code : Nat) : Prog Unit := Prog.all [
  wrF .BND_IMG_STATUS Fld.BND_IMG_STATUS_STATE st, wrF .BND_IMG_STATUS Fld.BND_IMG_STATUS_CODE code,
  wrF .BND_STATUS Fld.BND_STATUS_LOADBUSY 0, .one (.setLoad none), Prog.when (decide (3 ≤ st)) (glbEvent 2)]

/-- A re-binding ends FAILED, or is rejected, with a code (R322, R324). -/
def rebindFail (code status detail : Nat) : Prog Unit := .get fun s =>
  match s.rb with
  | none => .skip
  | some r => Prog.all [
      wrF .BND_RB_STATUS Fld.BND_RB_STATUS_CODE code, setPhase 6, .one (.setRb none),
      (match r.host with | some q => complete q status detail 0 | none => .skip)]

/-- An image is rejected: it changes nothing (R317). -/
def rejectImage (l : Load) (code : Nat) : Prog Unit := .get fun s => Prog.all [
  loadEnd 4 code,
  Prog.when (s.bstate l.bind == 1) (setBstate l.bind 0),
  if l.rb then rebindFail code hcRejected code
  else (match l.host with | some q => complete q hcRejected code 0 | none => .skip)]

/-- The chain of accepted digests takes one more (R357). -/
def chainDigest (b : Nat) (d : List Byte) : Prog Unit := modBnd b fun k =>
  { k with chain := sha384 (beBytes 48 k.chain.toNat ++ digestOf d) }

/-- A full image applies as soon as it is accepted: the binding is created, its first strobe is raised and it
enters IDLE (R319). -/
def applyFull (b : Nat) (d : List Byte) (p : JobParams) : Prog Unit :=
  let r := resources d
  let h := part d 0 128
  let recs := records d
  Prog.all [
    writeMemory b d,
    .one (.setBnd b { Binding.init with
      h := p.h, l := p.l, site := p.site, ckpt := p.ckpt, kstore := p.kstore, pol := { Policy.init with win := p.win, raise := p.raise, hold := p.hold } }),
    .one (.setVote b Vote.init),
    setParams b ((paramsOf d).getD (BitVec.ofNat 512 defaultParams, [], [])),
    chainDigest b d,
    setOwned b (r % 2 ^ 192),
    Prog.each (resList r) (takeUnit (restoresOf d)),
    showLead b,
    setLending r r,
    showLongexp b,
    wrF .BND_JOB Fld.BND_JOB_BID (bits 79 64 h) b, wrF .BND_JOB Fld.BND_JOB_FLEVEL (bits 63 48 h) b,
    setBstate b 2,
    looseRecords b recs,
    Prog.get fun s => Prog.each ((s.groupsOf b).map groupCode) fun g => scanGroup g recs,
    showCounters b, showCounts]

/-- A partial image is armed (R319). -/
def armImage (b : Nat) (d : List Byte) (rb : Bool) : Prog Unit := .get fun s =>
  let h := part d 0 128
  let k := s.binding b
  let st := bits 239 192 h
  let done := if k.decision.isSome || k.turning.isSome then k.step + 1 else k.step
  Prog.all [
    writeMemory b d,
    chainDigest b d,
    modBnd b fun k => { k with armed := k.armed ++ [
      { applyStep := st, resources := some (BitVec.ofNat 512 (resources d)), records := records d, params := paramsOf d,
        restores := restoresOf d, bid := bits 79 64 h, flevel := bits 63 48 h, rb := rb }] },
    Prog.when (decide (st ≠ 0) && decide (st ≤ done)) (setF .BND_ERR Fld.BND_ERR_IMGLATE),
    showArmed b]

/-- IMAGE_CHECK_DONE: the image is rejected with the first code that matches, or a full one applies and a partial
one is armed (R317, R319). -/
def execImageCheckDone (params : JobParams) (s : State) : Host.Outcome State Fault Refusal :=
  (match s.load with
   | none => Prog.skip
   | some l => (readImage l.addr).bind fun d =>
      match d with
      | none => rejectImage l 3
      | some d => Prog.get fun s =>
        let code := imageCode s l d
        if code ≠ 0 then rejectImage l code
        else
          let full := bits 43 40 (part d 0 128) == 1
          Prog.all [
            wrF .BND_IMG_STATUS Fld.BND_IMG_STATUS_PROGRESS ((part d 16 4 + 1023) / 1024),
            ungate (resources d),
            if full then applyFull l.bind d params else armImage l.bind d l.rb,
            loadEnd (if full then 3 else 2) 0,
            if l.rb then setPhase 4
            else (match l.host with | some q => complete q hcOk 0 0 | none => .skip)]).next s

/-! ### Re-binding (R321, R322) -/

/-- REBIND_DRAIN_DONE: every moving unit counts as drained; the work of solver units among them ends ABORTED (R173; log
36), their state is saved, and the partial image is loaded. -/
def execRebindDrainDone (s : State) : Host.Outcome State Fault Refusal :=
  (match s.rb with
   | none => Prog.skip
   | some r =>
     let l := resList r.units.toNat
     if s.rdF .BND_RB_STATUS Fld.BND_RB_STATUS_PHASE ≠ 1 || r.later || s.load.isSome || !l.all s.drained then Prog.skip
     else Prog.all [
      Prog.each (l.filter fun i => decide (36 ≤ i) && decide (i < 38)) fun i => suAbortAll (i - 36),
      setPhase 2, saveUnits r.save l, setPhase 3, imageLoadDo r.to' r.img true r.host]).next s

/-- REBIND_TIMEOUT: a phase overruns its budget, or has lasted 10 ms (R322). The wait for TO's turnaround has no
budget (R321). -/
def execRebindTimeout (final : Bool) (s : State) : Host.Outcome State Fault Refusal :=
  (match s.rb with
   | none => Prog.skip
   | some r =>
     if s.rdF .BND_RB_STATUS Fld.BND_RB_STATUS_PHASE = 4 || r.later then Prog.skip
     else if !final then setF .BND_ERR Fld.BND_ERR_RBLATE
     else Prog.all [
      Prog.when (s.load.any fun (l : Load) => l.rb) (loadEnd 0 0),
      rebindFail 0x10 hcFailed 0, selfFailure 5]).next s

/-! ### Turnarounds (R18, R23) -/

/-- The lead Landing Unit shows that it executes a turnaround (R158). -/
def showTurn (b : Nat) : Prog Unit := .get fun s =>
  match leadOf (s.owned b) with
  | none => .skip
  | some u => (modLu u fun k => { k with back := s.rdF .LND_STATUS Fld.LND_STATUS_STATE u }).seq
      (wrF .LND_STATUS Fld.LND_STATUS_STATE 5 u)

/-- The turnaround over, its lead shows the STATE it had before (R158). -/
def endTurn (b : Nat) : Prog Unit := .get fun s =>
  Prog.each (s.lus b) fun u => Prog.when (s.rdF .LND_STATUS Fld.LND_STATUS_STATE u == 5)
    (wrF .LND_STATUS Fld.LND_STATUS_STATE (s.landing u).back u)

/-- A turnaround begins: the images taken come into effect, and the strobe is raised for every block of the
binding. -/
def raiseStrobe (b : Nat) (d : Option Bool) : Prog Unit := .get fun s =>
  let l := (s.binding b).taken
  Prog.all [
    modBnd b fun k => { k with turning := some d, decision := none },
    showTurn b,
    Prog.each l fun i => takeImage b i,
    Prog.each l fun i => looseRecords b i.records,
    Prog.get fun s => modBnd b fun k => { k with await := s.groupsOf b }]

/-- The pointer action of a Landing Unit (R18, R134): at a commit its copy of VPTR flips, and its copy of MPTR where
the step wrote a pending mooring; LND_SKIPRUN counts consecutive skips (R195). -/
def pointerAction (u : Nat) (commit moor : Bool) : Prog Unit := .get fun s => Prog.all [
  settleAreas u commit,
  (if commit then Prog.all [
      wrF .LND_STATUS Fld.LND_STATUS_VPTR (1 - vptr s u) u,
      Prog.when moor (wrF .LND_STATUS Fld.LND_STATUS_MPTR (1 - mptr s u) u),
      wrF .LND_SKIPRUN Fld.LND_SKIPRUN_COUNT 0 u]
   else bumpF .LND_SKIPRUN Fld.LND_SKIPRUN_COUNT 1 u),
  wrF .LND_STATUS Fld.LND_STATUS_PENDMOOR 0 u]

/-- Whether an entry of this device has a COMPLETE area for crossing `n` of every peer site that FRY_PEERS names
(R25, R292). -/
def entryArrived (b u i n : Nat) : LuProg Bool := .get fun s =>
  (readEntry u i).bindE fun x =>
  if !x.outer then .ret (.ok true) else
  (readXHdr u x.cbuf).bindE fun h => (readAreas u x.cbuf h).bindE fun areas =>
  let site := (s.binding b).site
  let peers := (List.range 16).filter fun q => (s.rd .FRY_PEERS).getLsbD q && q != site
  .ret (.ok (peers.all fun q => areas.any fun a =>
    a.1.1 == h.rank site q && areaState a.2 == 2 && areaCross a.2 == n))

/-- Whether every peer's difference for crossing `n` has arrived at this device's owners. -/
def arrivedAll (b n : Nat) : Prog Bool := .get fun s =>
  (Prog.mapM ((s.lus b).flatMap fun u => (List.range (s.rdF .LND_LTAB_COUNT Fld.LND_LTAB_COUNT_COUNT u)).map fun i => (u, i))
    fun p => entryArrived b p.1 p.2 n).bind fun l =>
  .ret (l.all fun r => match r with | .ok b => b | .error _ => false)

/-- The close limit L in force (R25). -/
def Binding.limit (k : Binding) : Nat := if k.l = 0 then max 1 (k.h / 2) else k.l

/-- An open crossing closes at a turnaround that ends step `k`, at its limit or once every difference is there
(R25). -/
def crossingClose (b k n : Nat) : Prog Unit := .get fun s =>
  let x := s.binding b
  (arrivedAll b n).bind fun all =>
    Prog.when (all || decide (n * x.h + x.limit ≤ k + 1))
      (modBnd b fun y => { y with xopen := y.xopen.filter (· != n), outer := y.outer ++ [n] })

/-- The step decisions of a binding's clusters that refer to step `k` have their outcome (R82, R85). -/
def resolveSteps (b k : Nat) (commit : Bool) : Prog Unit := .get fun s =>
  Prog.each (s.clusters b) fun c => resolveStep c k commit

/-- TURNAROUND: the lead Landing Unit executes the decision received: the pointers, the step decisions that refer to the
step, the crossings that close, and the strobe (R18, R25 to R27, R85). -/
def execTurnaround (b : Fin 8) (s : State) : Host.Outcome State Fault Refusal :=
  (match (s.binding b).decision, (s.binding b).turning with
   | some d, none =>
     if s.bstate b ≠ 3 then Prog.skip
     else
      let lus := s.lus b
      let outer := d && lus.any fun u => s.rdF .LND_STATUS Fld.LND_STATUS_OUTERDUE u == 1
      let moor := d && lus.any fun u => s.rdF .LND_STATUS Fld.LND_STATUS_PENDMOOR u == 1
      let n := (s.binding b).outer.headD 0
      Prog.all [
        Prog.each lus fun u => pointerAction u d moor,
        modBnd b fun k => { k with
          commit := if d then k.commit + 1 else k.commit
          moored := if moor then n else k.moored
          outer := if outer then k.outer.drop 1 else k.outer },
        Prog.when moor (fryMoored b n),
        resolveSteps b (s.binding b).step d,
        Prog.each (s.binding b).xopen (crossingClose b (s.binding b).step),
        raiseStrobe b (some d)]
   | _, _ => Prog.skip).next s

/-- A forced turnaround of a binding that is not in a step begins (R23): the images that are due are taken. -/
def beginForced (b : Nat) : Prog Unit := .get fun s =>
  let n := if (s.lus b).isEmpty then (s.binding b).step + 1 else (s.binding b).step
  (modBnd b fun k => { k with
    taken := k.armed.filter fun i => i.due n
    armed := k.armed.filter fun i => !i.due n }).seq
    ((Prog.when (s.lus b).isEmpty (resolveSteps b (s.binding b).step false)).seq (raiseStrobe b none))

/-- A binding may be forced: it exists, is not in a step and no turnaround is in progress (R23). -/
def State.forceable (s : State) (b : Nat) : Bool :=
  (s.bstate b == 2 || s.bstate b == 5) && (s.binding b).turning.isNone

/-- The step that the strobe of a turnaround in progress ends, if it ends one (R12). -/
def State.ending (s : State) (b : Nat) : Option Nat :=
  match (s.binding b).turning with
  | some (some _) => some (s.binding b).step
  | some none => if (s.lus b).isEmpty then some (s.binding b).step else none
  | none => none

/-- What a block does at its binding's strobe besides its scan: a cluster writes its count area (R193), a solver
unit publishes (R171). -/
def atStrobe (b : Nat) : Group → Prog Unit
  | .cluster c => writeCounts b c
  | .su u => .get fun s => suStrobe u (s.ending b) (s.binding b).step
  | _ => .skip

/-- STROBE_SCAN: a group sees the strobe of its binding's turnaround, or of an APPLY (R307, R308). -/
def execStrobeScan (g : Group) (s : State) : Host.Outcome State Fault Refusal :=
  (match firstFrom (fun b => (s.binding b).turning.isSome && (s.binding b).await.contains g) 8 0 with
   | some b => Prog.all [
      scanGroup (groupCode g) ((s.binding b).taken.flatMap fun (i : Image) => i.records),
      atStrobe b g,
      modBnd b fun k => { k with await := k.await.filter (· != g) }]
   | none =>
     if !s.await.contains g then Prog.skip
     else Prog.all [
      scanGroup (groupCode g) [],
      (match g with | .codec e => cdcApply e | _ => .skip),
      Prog.get fun s => .one (.setAwait (s.await.filter (· != g)))]).next s

/-! ### The end of a turnaround (R12, R18, R24 to R26) -/

/-- The next crossing opens (R24). -/
def crossingOpen (b : Nat) : Prog Unit :=
  (modBnd b fun z => { z with xopen := z.xopen ++ [z.cross + 1], cross := z.cross + 1 }).seq (fryCrossing b)

/-- At a commit turnaround that ends step `k` every crossing whose number times *H* the step has reached opens, the
lowest first (R24; log 64). -/
def crossings (b k : Nat) (commit : Bool) : Prog Unit := .get fun s =>
  let x := s.binding b
  Prog.when (commit && x.h != 0) (Prog.each (List.range (k / x.h - x.cross)) fun _ => crossingOpen b)

/-- The blocks of a binding begin a step. -/
def beginStep (b step : Nat) : Prog Unit := .get fun s => Prog.all [
  Prog.each (s.lus b) fun u => luNewStep u step !(s.binding b).outer.isEmpty,
  Prog.each ((List.range 4).filter fun n => s.hasUnit b (6 + n)) fun n => ceNewStep n step,
  hornNewStep b step]

/-- The step counter advances past step `k`, and what refers to the turnaround happens (R12, R18). -/
def stepPast (b k : Nat) (commit : Bool) : Prog Unit := .get fun s => Prog.all [
  modBnd b fun x => { x with step := k + 1, voted := false },
  Prog.when (!(s.lus b).isEmpty) (crossings b k commit),
  Prog.each (s.lus b) fun u => wrF .LND_STEP Fld.LND_STEP_STEP (k + 1) u,
  Prog.each ((List.range 40).filter fun e => s.cdcOwner e == some b) fun e => cdcTurn e (k + 1),
  Prog.each (s.clusters b) fun c => Prog.all [
    modCl c fun x => { x with nfvote := x.nfnext, nfnext := false, watched := false }],
  Prog.each ((List.range 2).filter fun u => s.hasUnit b (4 + u)) fun u => suDue u k]

/-- STOP is due at the turnaround that sets the step counter to `n`: every unit drains and the binding becomes
IDLE (R397). -/
def stopBinding (b : Nat) : Prog Unit := .get fun s => Prog.all [
  Prog.each (resList (s.owned b)) drainUnit,
  modBnd b fun k => { k with stop := none, halted := true },
  setBstate b 2]

/-- The images taken have applied (R319, R321). -/
def imagesDone (b : Nat) : Prog Unit := .get fun s =>
  let l := (s.binding b).taken
  if l.isEmpty then .skip
  else Prog.all [
    wrF .BND_IMG_STATUS Fld.BND_IMG_STATUS_STATE (if s.load.isSome then 1 else 3), glbEvent 2,
    (match s.rb with
      | some r => Prog.when (l.any (·.rb)) (Prog.all [
          setPhase 5, .one (.setRb none),
          (match r.host with | some q => complete q hcOk 0 0 | none => .skip)])
      | none => .skip),
    modBnd b fun k => { k with taken := [] }, showArmed b]

/-- A re-binding without NOW begins its drain at FROM's turnaround (R321). -/
def rebindLater (b : Nat) : Prog Unit := .get fun s =>
  match s.rb with
  | some r => Prog.when (r.later && r.from' == some b)
      ((Prog.one (.setRb (some { r with later := false }))).seq (drainUnits (resList r.units.toNat)))
  | none => .skip

/-- STROBE_ACKNOWLEDGED: every block has acknowledged the strobe; the counters advance, the next step begins, and
commands that waited for the turnaround complete (R18, R23, R397). -/
def execStrobeAcknowledged (b : Fin 8) (s : State) : Host.Outcome State Fault Refusal :=
  (match (s.binding b).turning with
   | none => Prog.skip
   | some d =>
     if !(s.binding b).await.isEmpty then Prog.skip
     else
      let stop := s.queuesWith fun c => c.begun && c.op == 0x13 && c.bind' == b
      let force := s.queuesWith fun c => c.begun && c.op == 0x14 && c.bind' == b
      Prog.all [
        (match s.ending b with
          | some k => stepPast b k (d.getD false)
          | none => Prog.each ((List.range 40).filter fun e => s.cdcOwner e == some b) cdcLate),
        endTurn b,
        modBnd b fun x => { x with turning := none },
        showCounters b,
        imagesDone b,
        rebindLater b,
        Prog.get fun s =>
          let k := s.binding b
          let due := match k.stop with | some n => n == 0 || decide (n ≤ k.step) | none => false
          if s.bstate b = 3 && due then
            (stopBinding b).seq (Prog.each stop fun q => complete q hcOk 0 k.step)
          else Prog.when (s.bstate b == 3) (beginStep b k.step),
        Prog.get fun s => Prog.each force fun q => complete q hcOk 0 (s.binding b).step,
        showCounts]).next s

/-! ### BND_CMD (R23, R308, R323) -/

/-- APPLY raises the strobe for the groups of no binding and the device's (R308). -/
def applyDo : Prog Unit := .get fun s => .one (.setAwait s.freeGroups)

/-- APPLY. -/
def execApply (s : State) : Host.Outcome State Fault Refusal := applyDo.next s

/-- FORCETURN of BND_CMD: in a step it is ignored and sets CMDIGN (R23, R324). -/
def forceturnDo (b : Nat) : Prog Unit := .get fun s =>
  if s.forceable b then beginForced b else setF .BND_ERR Fld.BND_ERR_CMDIGN

/-- FORCETURN. -/
def execForceturn (b : Fin 8) (s : State) : Host.Outcome State Fault Refusal := (forceturnDo b).next s

/-- END of BND_CMD: for a free binding it is ignored and sets CMDIGN (R323, R324). -/
def bndEndDo (b : Nat) : Prog Unit := .get fun s =>
  if s.bound b then endBinding b none else setF .BND_ERR Fld.BND_ERR_CMDIGN

/-- BND_END. -/
def execBndEnd (b : Fin 8) (s : State) : Host.Outcome State Fault Refusal := (bndEndDo b).next s

end Sys2Proof.Machine
end

