-- ==== Sys2Proof/Machine/Host.lean ====
section
/-!
DEFINITION. Sys2Proof/Machine/Host.lean: host commands: fetching and acceptance (R393, R398), what each does
(R397), and the rewind of a binding (R338).
-/

namespace Sys2Proof.Machine

/-! ### Acceptance (R393, R395, R398) -/

/-- The bits of ARGS that a command's row lays out, none for a reserved opcode (R397). -/
def argBits (op : Nat) : Option (List (Nat × Nat)) :=
  match op with
  | 0x01 => some [(64, 64), (191, 128), (231, 192), (287, 256)]
  | 0x02 => some [(447, 64)]
  | 0x10 | 0x17 => some [(103, 64)]
  | 0x11 => some [(68, 64), (143, 104), (183, 144)]
  | 0x13 => some [(111, 64)]
  | 0x00 | 0x12 | 0x14 | 0x15 | 0x16 | 0x20 => some []
  | _ => none

/-- A set of bits as a number. -/
def maskOf (l : List (Nat × Nat)) : Nat := l.foldl (fun m r => m ||| (2 ^ (r.1 + 1) - 2 ^ r.2)) 0

/-- Whether a command has a reserved opcode, a reserved bit set or a value that its row does not allow (R395 to
R397). -/
def HCmd.invalid (c : HCmd) : Bool :=
  match argBits c.op with
  | none => true
  | some l => without c.raw.toNat (maskOf ([(8, 0), (34, 16)] ++ l)) != 0 ||
      (c.op == 1 && (c.arg 287 256 % 64 != 0 || decide (2 ^ 30 < c.arg 287 256)))

/-- Whether a command is legal in a device state (R398). -/
def HCmd.legalIn (c : HCmd) (st : Nat) : Bool :=
  match c.op with
  | 0x00 | 0x02 => st != 0
  | 0x01 => st == 1 || st == 2 || st == 3 || st == 4 || st == 7 || (st == 6 && c.raw.getLsbD 64)
  | 0x10 | 0x20 => st == 1 || st == 2 || st == 3 || st == 4
  | 0x11 | 0x12 | 0x17 => st == 3 || st == 4
  | 0x13 => st == 4
  | 0x14 | 0x16 => st == 1 || st == 3 || st == 4
  | 0x15 => st == 1 || st == 2 || st == 3 || st == 4 || st == 7
  | _ => false

/-- Whether a command's binding meets the conditions of R397 and R23. -/
def HCmd.bindOk (c : HCmd) (s : State) : Bool :=
  let st := s.bstate c.bind'
  match c.op with
  | 0x12 => st == 2 && !(s.lus c.bind').isEmpty
  | 0x13 => st == 3
  | 0x14 => s.forceable c.bind'
  | 0x16 | 0x17 => s.bound c.bind'
  | _ => true

/-- Status and detail of a command that is not accepted to run (R398). -/
def HCmd.refused (c : HCmd) (s : State) : Option (Nat × Nat) :=
  if c.invalid then some (hcInvalid, 0)
  else if !c.legalIn (s.rdF .GLB_STATE Fld.GLB_STATE_STATE) then some (hcState, 0)
  else if !c.bindOk s then some (hcState, 1)
  else none

/-- A command is accepted: it has its turn, and one that may not run completes at once (R393, R398). -/
def accept (q : Nat) (d : List Byte) : Prog Unit := .get fun s =>
  let c : HCmd := ⟨BitVec.ofNat 512 (leNat d), s.turns, false, decide (s.stage < 6)⟩
  Prog.all [
    wrF .HCI_QSTAT Fld.HCI_QSTAT_SQHEAD ((s.rdF .HCI_QSTAT Fld.HCI_QSTAT_SQHEAD q + 1) % 256) q,
    modHq q fun k => { k with cmd := some c },
    (match c.refused s with
      | some (st, d) => complete q st d 0
      | none => .skip)]

/-- A command cannot be read: DMA_ERROR with CID 0xFFFF, and the queue enters ERROR (R394). -/
def fetchFailed (q : Nat) : Prog Unit := Prog.all [
  setF .HCI_ERR Fld.HCI_ERR_DMAERR, writeCompletion q 0xFFFF hcDma 0 0 false, setQstate q 3]

/-- Whether a command may be fetched from a queue (R393, R399). -/
def State.fetchable (s : State) (q : Nat) : Bool :=
  let k := s.hqueue q
  s.qstate q == 1 && k.cmd.isNone && !k.ending && !s.cqFull q &&
  s.rdF .HCI_QSTAT Fld.HCI_QSTAT_SQHEAD q != s.rdF .HCI_QSTAT Fld.HCI_QSTAT_SQTAIL q

/-- The queue fetched from last (R393). -/
def State.lastQueue (s : State) : Nat :=
  (List.range 17).foldl (fun m q => if (s.hqueue m).last < (s.hqueue q).last then q else m) 16

/-- The queue whose turn it is: the first after the last one that has a command to fetch (R393). -/
def State.queueTurn (s : State) : Option Nat :=
  ((List.range 17).map fun i => (s.lastQueue + 1 + i) % 17).find? s.fetchable

/-- A command is fetched, round robin over the queues: `entry` is what the read of host memory returned, none where it failed. Queue 16's ring
lies in the stack (R392). -/
def fetch (q : Nat) (entry : Option (List Byte)) : Prog Unit := .get fun s =>
  if s.queueTurn ≠ some q then .skip
  else
    Prog.seq (Prog.all [.one (.setTurns (s.turns + 1)), modHq q fun k => { k with last := s.turns + 1 }]) <|
    let got : Prog (Option (List Byte)) := if q = 16 then
        cleanRead ((s.rd .HCI_SQ_BASE 16).toNat / 4096 * 4096 + 64 * s.rdF .HCI_QSTAT Fld.HCI_QSTAT_SQHEAD 16) 64
      else .ret entry
    got.bind fun e =>
      match e with
      | some d => if d.length = 64 then accept q d else fetchFailed q
      | none => fetchFailed q

/-- COMMAND_FETCH. -/
def execCommandFetch (q : Fin 17) (entry : Option (List Byte)) (s : State) : Host.Outcome State Fault Refusal := (fetch q entry).next s

/-! ### Running a command (R393) -/

/-- The command of an opcode that a queue may start: accepted, and no command of its binding was accepted
before it. -/
def State.readyCmd (s : State) (q op : Nat) : Option HCmd :=
  (s.hqueue q).cmd.filter fun c => c.op == op && !c.begun && !((List.range 17).any fun r => r != q &&
    (s.hqueue r).cmd.any fun d => (d.names.any c.names.contains) && decide (d.turn < c.turn))

/-- A command begins. -/
def begin' (q : Nat) : Prog Unit := modHq q fun k => { k with cmd := k.cmd.map fun c => { c with begun := true } }

/-- A queue runs its command of an opcode. -/
def runCmd (q op : Nat) (f : HCmd → Prog Unit) : Prog Unit := .get fun s =>
  match s.readyCmd q op with
  | some c => f c
  | none => .skip

/-- HOST_NOP. -/
def execHostNop (q : Fin 17) (s : State) : Host.Outcome State Fault Refusal := (runCmd q 0x00 fun _ => complete q hcOk 0 0).next s

/-! ### HOSTCOPY (R390, R397) -/

/-- A read of host memory by a HOSTCOPY is outstanding. -/
def State.copying (s : State) (q : Nat) : Option HCmd :=
  (s.hqueue q).cmd.filter fun c => c.op == 0x01 && c.begun && !c.raw.getLsbD 64

/-- HOSTCOPY: a read of the stack is written to host memory at once; a read of host memory is issued. A range outside the
stack cannot be copied. -/
def hostcopyDo (q : Nat) (c : HCmd) : Prog Unit := .get fun s =>
  let dev := c.arg 231 192
  let len := c.arg 287 256
  if s.stackEnd < dev + len then complete q hcFailed 0 0
  else if c.raw.getLsbD 64 then
    (cleanRead dev len).bind fun d =>
      match d with
      | none => complete q hcFailed 0 0
      | some d => (Prog.one (.emit (.hostWrite (c.arg 191 128) d))).seq (complete q hcOk 0 len)
  else (begin' q).seq (.one (.emit (.hostRead q (c.arg 191 128) len)))

/-- `execHostcopy`: the command. -/
def execHostcopy (q : Fin 17) (s : State) : Host.Outcome State Fault Refusal := (runCmd q 0x01 (hostcopyDo q)).next s

/-- A device read of host memory failed (R390). -/
def dmaFailed (q : Nat) : Prog Unit := .get fun s =>
  if (s.copying q).isSome then (setF .HCI_ERR Fld.HCI_ERR_DMAERR).seq (complete q hcDma 0 0) else fetch q none

/-- DEVICE_READ_COMPLETION: the data of a HOSTCOPY's read, or of a queue's fetch, arrives (R390). -/
def execDeviceReadCompletion (q : Fin 17) (data : List Byte) (poison : Bool) (s : State) : Host.Outcome State Fault Refusal :=
  (if poison then
     if q = 16 || ((s.copying q).isNone && s.queueTurn != some q.val) then Prog.skip
     else (Prog.one (.emit (.aer 1))).seq (dmaFailed q)
   else match s.copying q with
    | some c =>
      let len := c.arg 287 256
      if data.length ≠ len then Prog.skip else (physPut (c.arg 231 192) data).seq (complete q hcOk 0 len)
    | none => if q = 16 then Prog.skip else fetch q (some data)).next s

/-- COMPLETION_TIMEOUT: a read of host memory has no completion for 50 ms (R390). -/
def execCompletionTimeout (q : Fin 17) (s : State) : Host.Outcome State Fault Refusal :=
  (if q = 16 || ((s.copying q).isNone && s.queueTurn != some q.val) then Prog.skip
   else (Prog.one (.emit (.aer 2))).seq (dmaFailed q)).next s

/-! ### Firmware messages -/

/-- The 48 bytes of a message. -/
def HCmd.message (c : HCmd) : List Byte := leBytes 48 (c.arg 447 64)

/-- FWMSG: firmware answers the message (R397). -/
def execFwmsg (q : Fin 17) (answer : BitVec 48) (s : State) : Host.Outcome State Fault Refusal :=
  (runCmd q 0x02 fun c => (Prog.one (.emit (.fwMessage q c.message))).seq (complete q hcOk 0 answer.toNat)).next s

/-- FWMSG_TIMEOUT: firmware does not answer (R397). -/
def execFwmsgTimeout (q : Fin 17) (s : State) : Host.Outcome State Fault Refusal :=
  (runCmd q 0x02 fun c => (Prog.one (.emit (.fwMessage q c.message))).seq (complete q hcFailed 0 0)).next s

/-! ### Loading and re-binding (R317, R321, R399) -/

/-- The loader or a re-binding is busy with a command of the host (R399). -/
def State.hostLoads (s : State) : Bool :=
  (s.load.any fun (l : Load) => l.host.isSome) || s.rb.any fun (r : Rebind) => r.host.isSome

/-- HOST_LOAD. -/
def execHostLoad (q : Fin 17) (s : State) : Host.Outcome State Fault Refusal :=
  (runCmd q 0x10 fun c => if s.hostLoads then Prog.skip
    else (begin' q).seq (imageLoadDo c.bind' (c.arg 103 64) false (some q.val))).next s

/-- HOST_REBIND. -/
def execHostRebind (q : Fin 17) (s : State) : Host.Outcome State Fault Refusal :=
  (runCmd q 0x11 fun c => if s.hostLoads then Prog.skip
    else (begin' q).seq (rebindDo (if c.raw.getLsbD 67 then none else some (c.arg 66 64)) c.bind' (c.raw.getLsbD 68)
      (c.arg 183 144) (c.arg 143 104) (some q.val))).next s

/-! ### Starting and stopping (R397) -/

/-- A number as an index. -/
def finOf (n : Nat) (h : 0 < n) (x : Nat) : Fin n := ⟨x % n, Nat.mod_lt _ h⟩

/-- A resource is started, or resumed where it stands STOPPED. -/
def startUnit (i : Nat) : Prog Unit := .get fun s =>
  if i < 32 then
    let c := finOf 32 (by decide) i
    Prog.all [
      Prog.when (seqState s i == 0) (aryStartDo c), Prog.when (seqState s i == 4) (aryResumeDo c),
      Prog.when (seqState s i != 7 && vecState s i == 0) (vecStartDo c), Prog.when (vecState s i == 4) (vecResumeDo c)]
  else if i < 36 then modLu (i - 32) fun k => { k with drain := false }
  else if i < 38 then Prog.when (suState s (i - 36) == 6) (slvResumeDo (finOf 2 (by decide) (i - 36)))
  else if i < 42 then Prog.when (ceState s (i - 38) == 3) (ceResumeDo (finOf 4 (by decide) (i - 38)))
  else if i < 46 then Prog.when (movState s (i - 42) == 3) (movResumeDo (i - 42))
  else if i = 48 then Prog.when (s.rdF .FRY_STATUS Fld.FRY_STATUS_STATE == 2) ((wrF .FRY_STATUS Fld.FRY_STATUS_STATE 0).seq fryShow)
  else if 128 ≤ i then Prog.when (s.chState (i - 128) == 7) (chResumeDo (i - 128))
  else .skip

/-- A binding becomes STEPPING and begins its step. -/
def startBinding (b : Nat) : Prog Unit := .get fun s => Prog.all [
  Prog.each (resList (s.owned b)) startUnit,
  modBnd b fun k => { k with halted := false },
  setBstate b 3, showCounts,
  beginStep b (s.binding b).step]

/-- HOST_START. A binding that is no longer IDLE fails. `join` is the mooring crossing where every crossing device of
the site has reported joined: firmware initialises the owners before the binding steps (R297, log 35). -/
def execHostStart (q : Fin 17) (join : Option (BitVec 32)) (s : State) : Host.Outcome State Fault Refusal :=
  (runCmd q 0x12 fun c => if !c.bindOk s then complete q hcFailed 0 0
    else ((match join with
        | some m => joinInit c.bind' m.toNat
        | none => .skip).seq (startBinding c.bind')).seq (.get fun s => complete q hcOk 0 (s.binding c.bind').step)).next s

/-- HOST_STOP: it waits for its turnaround. -/
def execHostStop (q : Fin 17) (s : State) : Host.Outcome State Fault Refusal :=
  (runCmd q 0x13 fun c => if !c.bindOk s then complete q hcFailed 0 0
    else (begin' q).seq (modBnd c.bind' fun k => { k with stop := some (c.arg 111 64) })).next s

/-- HOST_FORCETURN: it waits for its turnaround to end. -/
def execHostForceturn (q : Fin 17) (s : State) : Host.Outcome State Fault Refusal :=
  (runCmd q 0x14 fun c => if !c.bindOk s then complete q hcFailed 0 0 else (begin' q).seq (beginForced c.bind')).next s

/-- HOST_APPLY. -/
def execHostApply (q : Fin 17) (s : State) : Host.Outcome State Fault Refusal :=
  (runCmd q 0x15 fun _ => applyDo.seq (complete q hcOk 0 0)).next s

/-- HOST_END. -/
def execHostEnd (q : Fin 17) (s : State) : Host.Outcome State Fault Refusal :=
  (runCmd q 0x16 fun c => (endBinding c.bind' (some q.val)).seq (complete q hcOk 0 0)).next s

/-- DRAIN: the device enters DRAINING, ends every binding, and enters READY (R397, R398). -/
def execDrain (q : Fin 17) (s : State) : Host.Outcome State Fault Refusal :=
  (runCmd q 0x20 fun _ => Prog.all [
    wrF .GLB_STATE Fld.GLB_STATE_STATE 5, glbEvent 0, endAll (some q.val), showDevice, complete q hcOk 0 0]).next s

/-! ### Rewind (R127, R173, R334, R338) -/

/-- Fields of a manifest's header (R334). -/
structure Manifest where
  gen    : Nat
  bid    : Nat
  step   : Nat
  commit : Nat
  cross  : Nat
  npiece : Nat
  pieces : List Nat
deriving DecidableEq, Repr

/-- The manifest that bytes hold: its header, and its piece records. -/
def manifestOf (d : List Byte) : Manifest :=
  let h := leNat (d.take 64)
  { gen := bits 31 0 h, bid := bits 47 32 h, step := bits 111 64 h, commit := bits 159 112 h, cross := bits 191 160 h,
    npiece := bits 239 208 h, pieces := (chunks 32 ((d.length - 64) / 32) (d.drop 64)).map leNat }

/-- A manifest read at a physical address and checked (R334): its CRC covers the whole of it. -/
def readManifest (a : Nat) : Prog (Option Manifest) := .get fun s =>
  if s.stackEnd < a + 64 then .ret none
  else (cleanRead a 64).bind fun h =>
    match h with
    | none => .ret none
    | some h =>
      let n := (manifestOf h).npiece
      if s.stackEnd < a + 64 + 32 * n then .ret none
      else (cleanRead a (64 + 32 * n)).bind fun d =>
        match d with
        | none => .ret none
        | some d =>
          let crc := leNat ((d.drop 60).take 4)
          .ret (if crc32c (d.take 60 ++ [0, 0, 0, 0] ++ d.drop 64) = crc then some (manifestOf d) else none)

/-- The unit through which a binding's firmware writes its memory: its lowest mover, or, where it owns none, the
highest translation unit that has a table for the binding (log 60). -/
def State.fwUnit (s : State) (b : Nat) : Unit' :=
  match firstFrom (fun m => s.hasUnit b (10 + m)) 4 0 with
  | some m => movUnit s m
  | none =>
    let x := ((List.range 35).reverse.find? fun x => flagF Fld.XLT_ROOT_VALID (s.rd .XLT_ROOT x b)).getD 34
    { ferryUnit b with xu := x }

/-- Where a piece is written back: slot A of its entry, half 0 of its mooring, or its own address (R338). -/
def pieceAddr (b p : Nat) : Prog (Option Nat) := .get fun s =>
  let kind := bits 3 0 p
  let lu := bits 5 4 p
  let i := bits 31 16 p
  if kind = 0 || 8 < kind then .ret none
  else if kind ≤ 2 then
    if !s.hasUnit b lu || s.rdF .LND_LTAB_COUNT Fld.LND_LTAB_COUNT_COUNT lu ≤ i then .ret none
    else (readEntry lu i).bind fun r =>
      match r with
      | .ok x => .ret (some (if kind = 1 then x.slot 0 else x.half 0))
      | .error _ => .ret none
  else .ret (some (bits 79 32 p))

/-- Whether a FACTOR piece begins with its block's header, and not with tiles alone (R115, R123, R330). -/
def pieceHeader (p : Nat) : Bool := bits 3 0 p == 3 && bits 223 176 p % 16384 != 0

/-- A piece is written back from an area; a factor's header holds an even SEQ there (R127). -/
def restorePiece (b area p : Nat) : Prog Bool := .get fun s =>
  let off := area + bits 175 128 p
  let len := bits 223 176 p
  if s.stackEnd < off + len || off % 2048 != area % 2048 then .ret false
  else (pieceAddr b p).bind fun a =>
    match a with
    | none => .ret false
    | some va => (cleanRead off len).bind fun d =>
      match d with
      | none => .ret false
      | some d => if pieceHeader p && leNat (d.take 8) % 2 = 1 then .ret false else (vput (s.fwUnit b) va d).bind fun r => .ret (match r with | .ok _ => true | .error _ => false)

/-- A cluster's tokens, slipway and loop state are set as at creation, and its work ends (R338). -/
def rewindCluster (c : Nat) : Prog Unit := .get fun s => Prog.all [
  Prog.each (List.range 64) fun t => wr .ARY_TOKEN 0 c t,
  modCl c fun k => { k with
    loops := [], vloops := [], slip := [], log := [], decs := [], out := [], twait := none, again := false,
    drain := false, lentRun := false, vwait := none, vchunk := 0, vrow := [], vagain := false, nfvote := false,
    nfnext := false, watched := false },
  Prog.when (seqState s c != 6 && seqState s c != 7) (setSeq c 0),
  Prog.when (vecState s c != 6) (setVecSt c 0), showSeq c, showVec c]

/-- A binding's units after a rewind. -/
def rewindUnits (b : Nat) : Prog Unit := .get fun s => Prog.all [
  Prog.each (s.clusters b) rewindCluster,
  Prog.each (s.lus b) fun u => Prog.all [
    modLu u fun _ => Lu.init,
    wrF .LND_STATUS Fld.LND_STATUS_VPTR 0 u, wrF .LND_STATUS Fld.LND_STATUS_MPTR 0 u,
    wrF .LND_STATUS Fld.LND_STATUS_PENDMOOR 0 u, wrF .LND_STATUS Fld.LND_STATUS_OUTERDUE 0 u,
    wrF .LND_STATUS Fld.LND_STATUS_VOTED 0 u, wrF .LND_STATUS Fld.LND_STATUS_VOTE 0 u,
    wrF .LND_STATUS Fld.LND_STATUS_STATE 1 u, luShow u],
  Prog.each ((List.range 2).filter fun u => s.hasUnit b (4 + u)) fun u => (suAbortAll u).seq (setSuState u 1),
  Prog.each ((List.range 4).filter fun n => s.hasUnit b (6 + n)) fun n =>
    (modCe n fun _ => Ce.init).seq (wrF .FAB_CE_STATUS Fld.FAB_CE_STATUS_STATE 0 n)]

/-- The counters of a rewound binding: where the generation's crossing had not reached its limit it is open
again, and where the captured turnaround closed it its outer update lands in the first step (R24 to R26; log 55). -/
def rewindCounters (b : Nat) (m : Manifest) : Prog Unit := Prog.all [
  modBnd b fun k =>
    let due := m.cross * k.h + k.limit
    let open' := k.h != 0 && m.cross != 0 && decide (m.step + 1 < due)
    let closes := k.h != 0 && m.cross != 0 && decide (m.step + 1 = due)
    { k with
      step := m.step + 1
      commit := m.commit, cross := m.cross, decision := none, turning := none, await := [],
      armed := k.taken ++ k.armed, taken := [], voted := false, xopen := if open' then [m.cross] else [],
      outer := if closes then [m.cross] else [],
      moored := if open' || closes then m.cross - 1 else m.cross,
      stop := none, halted := true, genRun := none, gen := some m.gen, rewound := some m.gen },
  .one (.setVote b Vote.init), wr .FAB_VOTESTAT 0 b, showArmed b]

/-- A binding's units end what they do before a rewind writes its memory back (R338); the work of its solver units ends
ABORTED (R173). -/
def rewindDrain (b : Nat) : Prog Unit := .get fun s => Prog.all [
  Prog.each (resList (s.owned b)) drainUnit,
  Prog.each (s.lus b) fun u => settleAreas u false,
  Prog.each ((List.range 2).filter fun u => s.hasUnit b (4 + u)) suAbortAll]

/-- A rewind of a binding to the generation whose manifest lies at an address; whether it succeeded. One that fails
leaves the binding FAILED. -/
def rewindBinding (b a : Nat) : Prog Bool := .get fun s =>
  let failed : Prog Bool := (setBstate b 5).seq (.ret false)
  (readManifest a).bind fun m =>
    match m with
    | none => failed
    | some m =>
      if m.bid ≠ s.rdF .BND_JOB Fld.BND_JOB_BID b then failed
      else (rewindDrain b).seq
        ((Prog.mapM m.pieces (restorePiece b a)).bind fun l =>
          if !l.all id then failed
          else Prog.seq (Prog.all [rewindUnits b, rewindCounters b m, showCounters b, setBstate b 2, showCounts])
            (.ret true))

/-- REWIND. -/
def execRewind (q : Fin 17) (s : State) : Host.Outcome State Fault Refusal :=
  (runCmd q 0x17 fun c => (rewindBinding c.bind' (c.arg 103 64)).bind fun ok => Prog.get fun s =>
    if ok then complete q hcOk 0 (s.binding c.bind').step else complete q hcFailed 0 0).next s

/-- REWIND_TIMEOUT: a rewind has not ended within 10 s (R397). -/
def execRewindTimeout (q : Fin 17) (s : State) : Host.Outcome State Fault Refusal :=
  (runCmd q 0x17 fun c => (setBstate c.bind' 5).seq (complete q hcFailed 0 0)).next s

end Sys2Proof.Machine
end

