-- ==== Sys2Proof/Machine/RegAccess.lean ====
section
/-!
DEFINITION. Sys2Proof/Machine/RegAccess.lean: reads and writes of BAR0 (R8, R300 to R311, R373, R374): blocks in
service, the bus log, and each access class.
-/

namespace Sys2Proof.Machine

/-! ### Blocks in service (R303, R373, R374, R398, R438) -/

/-- The clock domain of a register (R11, R205, R228, R403). -/
def keyDomain (k : RegKey) : Nat :=
  match k.name with
  | .XLT_ROOT | .XLT_INV | .XLT_STATUS | .XLT_ERR | .XLT_WALKCNT =>
    if k.i < 32 then 7 + k.i else if k.i = 32 then 92 else if k.i = 33 then 82 else 81
  | .FAB_VOTE | .FAB_VOTEROOT => 55
  | _ =>
    let g := keyGroup k
    match g.1 with
    | 0 => 7 + g.2
    | 1 => if g.2 < 32 then 7 + g.2 else if g.2 < 36 then 82 + (g.2 - 32) else 92 + (g.2 - 36)
    | 2 => 82 + g.2
    | 3 => 86 + g.2
    | 4 => 92 + g.2
    | 5 => 55 + g.2
    | 6 => 88 + g.2
    | 7 | 9 => 81
    | 8 => 79 + g.2
    | _ => g.2

/-- A domain does not run: its unit is gated or its reference is absent (R431, R435, R438). -/
def State.halted (s : State) (d : Nat) : Bool :=
  let ref := (s.rd .CLK_REF).toNat
  s.stopped d || (d == 0 && !s.boot.east.runs) || (d == 1 && !s.boot.west.runs) || (d == 6 && ref.testBit 8) ||
  (ref.testBit 7 && ((decide (2 ≤ d) && decide (d ≤ 5)) || (decide (7 ≤ d) && decide (d ≤ 54)) || (decide (81 ≤ d) && d != 98)))

/-- A whole block that answers no access in the stage of the bring-up, by an offset in its range: before pilot service
the host interface, while the ROM runs all but GLB, SEC and JNL, and in pilot service the blocks that R374 leaves
out (log 57). -/
def State.blockOff (s : State) (a : Nat) : Bool :=
  let st := s.stage
  let glb := decide (a < 0x100000) || (decide (0x1800000 ≤ a) && decide (a < 0x1C00000))
  !s.boot.on || (decide (st ≤ 1) && !glb) ||
  (s.rdF .TEL_STATUS Fld.TEL_STATUS_LOOP == 0 && decide (0x100000 ≤ a) && decide (a < 0x200000)) ||
  (st != 6 && ((decide (0x800000 ≤ a) && decide (a < 0xC00000)) || (decide (0xF00000 ≤ a) && decide (a < 0x1000000)) ||
    (decide (0x1400000 ≤ a) && decide (a < 0x1800000))))

/-- A register that answers no access: its block is not in service, or its domain does not run. -/
def State.offline (s : State) (k : RegKey) : Bool :=
  let d := keyDomain k
  s.halted d || (s.stage != 6 && ((decide (43 ≤ d) && decide (d ≤ 54)) || (decide (55 ≤ d) && decide (d ≤ 91) && !s.pilotPorts.contains (d - 55)) ||
    (decide (92 ≤ d) && decide (d ≤ 95) && (cntOffset k.name).isSome) || (decide (32 ≤ k.i) && (k.name == .XLT_ROOT || k.name == .XLT_INV ||
      k.name == .XLT_STATUS || k.name == .XLT_ERR || k.name == .XLT_WALKCNT)) || ((keyGroup k).1 == 1 && decide (32 ≤ k.i))))

/-! ### The bus log (R303) -/

/-- REQ of a requester. -/
def reqCode : Requester → Nat
  | .host => 0
  | .core k => 0x10 + k.val
  | .mover m => 0x48 + m.val

/-- An access is logged. -/
def busLog (req : Requester) (addr kind : Nat) : Prog Unit := .get fun s =>
  let h := s.rdF .BND_BLOGHEAD Fld.BND_BLOGHEAD_HEAD
  let seq := s.lseq + 1
  Prog.all [
    .one (.setLseq seq),
    Prog.when (Tab.at false s.unread h) (bumpF .BND_BLOGLOST Fld.BND_BLOGLOST_COUNT),
    wr .BND_BLOG (BitVec.ofNat 64 (addr % 2 ^ 26 + reqCode req * 2 ^ 32 + kind * 2 ^ 40 + seq % 2 ^ 16 * 2 ^ 48)) h,
    .one (.setUnread h true),
    wrF .BND_BLOGHEAD Fld.BND_BLOGHEAD_HEAD ((h + 1) % 16)]

/-- A bus error: logged, reported, and to the host a Completer Abort (R302, R390, R400). -/
def busError (req : Requester) (addr kind : Nat) : Prog Unit := Prog.all [
  busLog req addr kind, glbEvent 1, Prog.when (req == .host) (.one (.emit (.aer 0)))]

/-! ### Where an access goes -/

/-- What stands at an offset: an error of the bus log's kinds, the host load window, or a register. -/
inductive Place where
  | err (kind : Nat)
  | window
  | reg (k : RegKey)
deriving DecidableEq, Repr

/-- The host load window is open (R373). -/
def State.windowOpen (s : State) : Bool := s.boot.on && s.stage == 1

/-- The place of an access (R300 to R303, R373). -/
def State.place (s : State) (addr size : Nat) (write : Bool) : Place :=
  let sized := (size == 4 || size == 8) && addr % size == 0
  if s.windowOpen && 0x2000000 ≤ addr && addr < 0x4000000 then (if sized then .window else .err 5)
  else if s.blockOff addr then .err 6
  else
    match keyAt (addr / 8 * 8) with
    | none => .err (if write then 2 else 1)
    | some k =>
      if s.offline k then .err 6
      else if !sized || (write && size == 4 && (k.name.info.acc == .pw || k.name.info.acc == .ws)) then .err 5
      else .reg k

/-! ### Reads (R8, R302, R306) -/

/-- The half of a register that an access touches: its first bit. -/
def halfLo (addr : Nat) : Nat := 8 * (addr % 8)

/-- The bits that an access touches. -/
def halfMask (addr size : Nat) : Word := BitVec.ofNat 64 ((2 ^ (8 * size) - 1) * 2 ^ halfLo addr)

/-- A register's value as a read finds it. The cycle counter counts time, and its value is left free (R404,
R406). -/
def regValue (k : RegKey) : Prog Word := .get fun s =>
  match k.name with
  | .SEC_RNG => rngReadDo
  | .CNT_CYCLE => freeVal
  | _ => .ret (s.rd k.name k.i k.j)

/-- What a read does to a register: an RC register clears the bits returned, and a slot of the bus log has been
read. -/
def afterRead (k : RegKey) (v mask : Word) : Prog Unit :=
  match k.name.info.acc with
  | .rc => (wr k.name (v &&& ~~~ mask) k.i k.j).seq (Prog.when (k.name == .TEL_ALERT) showPins)
  | _ => Prog.when (k.name == .BND_BLOG) (.one (.setUnread k.i false))

/-- A read of BAR0: the value, or none for a bus error. -/
def regRead (req : Requester) (addr size : Nat) : Prog (Option Word) := .get fun s =>
  match s.place addr size false with
  | .err k => (busError req addr k).seq (.ret none)
  | .window => .ret (some (BitVec.ofNat 64 (leNat ((List.range size).map fun i => Tab.at 0 s.boot.window (addr - 0x2000000 + i)))))
  | .reg k => (regValue k).bind fun v => (afterRead k v (halfMask addr size)).seq
      (.ret (some ((v &&& halfMask addr size) >>> halfLo addr)))

/-! ### Writes -/

/-- The actions of a WS register, in ascending bit order (R311). -/
def wsDo (k : RegKey) (v : Word) : Prog Unit :=
  let on (i : Nat) (p : Prog Unit) : Prog Unit := Prog.when (v.getLsbD i) p
  let c : Fin 32 := Fin.ofNat 32 k.i
  match k.name with
  | .ARY_CMD => Prog.all [on 0 (aryStartDo c), on 1 (aryStopDo c), on 2 (aryResumeDo c)]
  | .ARY_TOKSIG => on 0 (toksigIncDo c (Fin.ofNat 64 k.j))
  | .VEC_CMD => Prog.all [on 0 (vecStartDo c), on 1 (vecStopDo c), on 2 (vecResumeDo c)]
  | .LND_CMD => on 0 (lndAbortDo (Fin.ofNat 4 k.i))
  | .SLV_CMD => Prog.all [on 0 (slvStopDo (Fin.ofNat 2 k.i)), on 1 (slvResumeDo (Fin.ofNat 2 k.i)),
      on 2 (abortjobDo (Fin.ofNat 2 k.i)), on 3 (abortrndDo (Fin.ofNat 2 k.i))]
  | .MOV_CMD => Prog.all [on 0 (movStopDo (Fin.ofNat 4 k.i)), on 1 (movResumeDo k.i), on 2 (movAbortDo k.i)]
  | .FAB_CE_CMD => Prog.all [on 0 (ceStopDo (Fin.ofNat 4 k.i)), on 1 (ceResumeDo (Fin.ofNat 4 k.i))]
  | .FRY_CH_CMD => Prog.all [on 0 (chStopDo k.i), on 1 (chResumeDo k.i), on 2 (chJoinDo k.i)]
  | .BND_CMD =>
    let b := getF Fld.BND_CMD_BIND v
    Prog.all [on 0 applyDo, on 1 (forceturnDo b), on 2 (bndEndDo b)]
  | .JNL_CMD => on 0 compactStart
  | .CNT_CMD => on 0 (cntClearDo k.i)
  | _ => .skip

/-- A write of an RW register: its half of the pending value; the ownership field of FRY_CH_CFG stays as it was, and a
write that would change it is logged (R306, R309). -/
def rwWrite (req : Requester) (addr : Nat) (k : RegKey) (mask v : Word) : Prog Unit := .get fun s =>
  let old := s.pending' k
  let new := (old &&& ~~~ mask) ||| (v &&& mask)
  if k.name = .FRY_CH_CFG then
    let keep := getF Fld.FRY_CH_CFG_BIND old
    (Prog.when (getF Fld.FRY_CH_CFG_BIND new != keep) (busLog req addr 7)).seq
      (pendWrite k (putF Fld.FRY_CH_CFG_BIND new keep))
  else pendWrite k new

/-- Bytes written into the host load window. -/
def windowPut (off : Nat) (d : List Byte) : Prog Unit := modBoot fun b =>
  { b with window := d.zipIdx.foldl (fun t p => Tab.upd 0 t (off + p.2) p.1) b.window }

/-- A write of BAR0: whether it is no bus error. -/
def regWrite (req : Requester) (addr size : Nat) (val : Word) : Prog Bool := .get fun s =>
  match s.place addr size true with
  | .err k => (busError req addr k).seq (.ret false)
  | .window => (windowPut (addr - 0x2000000) (leBytes size val.toNat)).seq (.ret true)
  | .reg k => Prog.seq
      (match k.name.info.acc with
        | .ro => busLog req addr 3
        | .rc => busLog req addr 4
        | .rw => rwWrite req addr k (halfMask addr size) (val <<< halfLo addr)
        | .pw => pwDo k val
        | .ws => wsDo k val)
      (.ret true)

/-- REGISTER_WRITE. -/
def execRegisterWrite (req : Requester) (addr : BitVec 26) (size : Nat) (val : BitVec 64) (s : State) : Host.Outcome State Fault Refusal :=
  ((regWrite req addr.toNat size val).bind fun ok =>
    if ok then .skip else .one (.emit (.answer req none))).next s

/-- RC_READ. -/
def execRcRead (req : Requester) (addr : BitVec 26) (size : Nat) (s : State) : Host.Outcome State Fault Refusal :=
  ((regRead req addr.toNat size).bind fun v => .one (.emit (.answer req v))).next s

/-- BLOG_READ. -/
def execBlogRead (req : Requester) (slot : Fin 16) (s : State) : Host.Outcome State Fault Refusal :=
  ((regRead req (0x200100 + 8 * slot.val) 8).bind fun v => .one (.emit (.answer req v))).next s

end Sys2Proof.Machine
end

