-- ==== Sys2Proof/Machine/MoverData.lean ====
section
/-!
DEFINITION. Sys2Proof/Machine/MoverData.lean: what movers move (R221, R230 to R236, R332) and the movers' packets
at both ends (R230, R253, R272, R332). The payloads' layouts are not given; those here are the model's (log 58).
-/

namespace Sys2Proof.Machine

/-! ### Local elements (R221, R236) -/

/-- Whether a solver unit works in its local store: ROOT_FACT, ROOT_ITER or LSQ (R221). -/
def State.storeBusy (s : State) (u : Nat) : Bool :=
  let st := s.rdF .SLV_STATUS Fld.SLV_STATUS_STATE u
  st == 2 || st == 3 || st == 4

/-- The solver unit whose local store holds an offset of the aperture. -/
def storeUnit (off : Nat) : Nat := off / 2 ^ 24

/-- A byte of a local store: as a mover wrote it, as the unit's work left it, or 0 where nothing has been there
(R221; log 87). -/
def State.storeByte (s : State) (off : Nat) : Byte :=
  match Tab.at none s.store off with
  | some b => b
  | none => if (s.solver (storeUnit off)).works = 0 then 0 else Config.localStore (s.solver (storeUnit off)).works off

/-- A mover reads a local store; what it reads during the unit's work is undefined (R221). -/
def storeGet (off n : Nat) : Prog (List (Byte × Bool)) := .get fun s =>
  if s.storeBusy (storeUnit off) then (freeBytes ((n + 7) / 8)).bind fun l => .ret ((l.take n).map fun b => (b, false))
  else .ret ((List.range n).map fun i => (s.storeByte (off + i), false))

/-- A mover reads an element from the stack or an aperture. -/
def movRead (m : Fin 4) (va n : Nat) : Prog (Except Flt (List (Byte × Bool))) := .get fun s =>
  let u := movUnit s m
  (translate u .read va).bindE fun t =>
    match t.dest with
    | .stack => vread u va n
    | .regs off => (regRead (.mover m) off n).bind fun r =>
        match r with
        | some v => .ret (.ok ((leBytes n v.toNat).map fun b => (b, false)))
        | none => .ret (.error (mkFlt 2 0x13 .read false va t.pa))
    | .store off => (storeGet off n).bind fun d => .ret (.ok d)

/-- Bytes into the solver units' local stores; during the unit's work they change its result (R221). -/
def storePut (off : Nat) (d : List Byte) : Prog Unit := .get fun s =>
  (Prog.each d.zipIdx fun p => .one (.storeByte (off + p.2) p.1)).seq
    (Prog.when (s.storeBusy (storeUnit off)) (modSu (storeUnit off) fun k => { k with spoilt := true }))

/-- A mover writes an element to the stack or an aperture; the bytes written are counted. -/
def movWrite (m : Fin 4) (va : Nat) (d : List (Byte × Bool)) : Prog (Except Flt Unit) := .get fun s =>
  let u := movUnit s m
  ((translate u .write va).bindE fun t =>
    match t.dest with
    | .stack => vwrite u va d
    | .regs off => (regWrite (.mover m) off d.length (BitVec.ofNat 64 (leNat (d.map (·.1))))).bind fun ok =>
        if ok then .ret (.ok ()) else .ret (.error (mkFlt 2 0x13 .write false va t.pa))
    | .store off => (storePut off (d.map (·.1))).seq (.ret (.ok ()))).bindE fun _ =>
  (count (setMover m) 0x61 d.length).seq (.ret (.ok ()))

/-- The fault of a poisoned element. -/
def poisonFlt (m : Fin 4) (va : Nat) (d : List (Byte × Bool)) : Prog Flt := .get fun s =>
  poisonAt (movUnit s m) .read (va + (d.findIdx? (·.2)).getD 0)

/-- An element whose access fails: a stale block is waited for, and is issued again later (R217); a fault takes the
descriptor out of flight (R234). -/
def elementFailed (m idx lin : Nat) (f : Flt) : Prog Unit :=
  if f.isWait then modFlight m idx fun x => { x with sent := lin } else elementFault m idx f.kind false (some f)

/-- The next `n` elements of a descriptor of an operation are issued, in linear order (R233). -/
def issueElems (m : Fin 4) (idx op : Nat) (elem : BitVec 512 → Nat → Prog Unit) : Nat → Prog Unit
  | 0 => .skip
  | n + 1 => .get fun s =>
    match s.flight m idx with
    | none => .skip
    | some f =>
      if f.st ≠ 1 || mdOp f.desc ≠ op || mdCount f.desc ≤ f.sent then .skip
      else Prog.all [modFlight m idx fun x => { x with sent := f.sent + 1 }, elem f.desc f.sent, Prog.get fun s =>
        match s.flight m idx with
        | some y => if y.sent = f.sent + 1 then issueElems m idx op elem n else .skip
        | none => .skip]

/-- An element of a COPY (R230, R236). -/
def copyElem (m : Fin 4) (idx : Nat) (d : BitVec 512) (lin : Nat) : Prog Unit :=
  (movRead m (mdFrom d lin) (mdSize d)).bind fun r =>
    match r with
    | .error f => elementFailed m idx lin f
    | .ok x =>
      let poison := x.any (·.2)
      if poison && !mdPfwd d then (poisonFlt m (mdFrom d lin) x).bind fun f => elementFault m idx 3 false (some f)
      else (movWrite m (mdTo d lin) x).bind fun w =>
        match w with
        | .error f => elementFailed m idx lin f
        | .ok _ => (Prog.when poison ((modFlight m idx fun y => { y with pfwd := true }).seq (setF .MOV_ERR Fld.MOV_ERR_PFWD m))).seq
            (elementDone m idx lin)

/-- COPY: the next elements of a descriptor. -/
def execCopy (m : Fin 4) (idx : Nat) (n : Nat) (s : State) : Host.Outcome State Fault Refusal :=
  (issueElems m idx 1 (copyElem m idx) n).next s

/-- The bytes of a FILL's element: the pattern repeats from the first byte of linear index 0 on (log 20). -/
def fillBytes (d : BitVec 512) (lin : Nat) : List Byte :=
  (List.range (mdSize d)).map fun i => BitVec.ofNat 8 (mdPattern d / 256 ^ ((lin * mdSize d + i) % 8))

/-- FILL: the next elements of a descriptor. -/
def execFill (m : Fin 4) (idx : Nat) (n : Nat) (s : State) : Host.Outcome State Fault Refusal :=
  (issueElems m idx 2 (fun d lin => (movWrite m (mdTo d lin) ((fillBytes d lin).map fun b => (b, false))).bind fun w =>
    match w with
    | .error f => elementFailed m idx lin f
    | .ok _ => elementDone m idx lin) n).next s

/-! ### Packets to a peer (R230, R253, R272) -/

/-- A packet of a descriptor's element: its ring index in OPID, its linear index in INDEX and ENTRY, its mover in LU. -/
def sendElem (m : Fin 4) (idx : Nat) (d : BitVec 512) (lin typ cls : Nat) (raw : Bool) (payload : List Byte) : Prog Unit := .get fun s =>
  sendPacket { blankPacket with
    cls := BitVec.ofNat 2 cls, typ := BitVec.ofNat 6 typ, dst := BitVec.ofNat 15 (mdPeer d), lu := m
    bid := BitVec.ofNat 16 (s.rdF .BND_JOB Fld.BND_JOB_BID ((s.ownerUnit (10 + m)).getD 0))
    step := BitVec.ofNat 48 (s.binding ((s.ownerUnit (10 + m)).getD 0)).step
    opid := BitVec.ofNat 16 idx, index := BitVec.ofNat 32 lin, entry := BitVec.ofNat 16 (lin / 2 ^ 32), raw := raw
    payload := payload }

/-- A request's payload: the peer's address and the element's length. -/
def askBody (d : BitVec 512) (lin : Nat) : List Byte := leBytes 6 (mdFrom d lin) ++ leBytes 2 (mdSize d)

/-- The linear index of a packet. -/
def elemOf (p : Packet) : Nat := p.index.toNat + p.entry.toNat * 2 ^ 32

/-- Elements that the peer has acknowledged are complete, where they have been sent (R232; log 58). -/
def elementsAcked (m : Fin 4) (idx op : Nat) (acked : List Nat) : Prog Unit := Prog.each acked fun lin => .get fun s =>
  match s.flight m idx with
  | some f => Prog.when (f.st == 1 && mdOp f.desc == op && decide (lin < f.sent)) (elementDone m idx lin)
  | none => .skip

/-- The next `n` elements go to or are asked of the peer, which acknowledges some and then reports a fault of kind
`remote`, 0 for none (R232, R234). -/
def issueRemote (m : Fin 4) (idx op n : Nat) (acked : List Nat) (remote : Nat) (elem : BitVec 512 → Nat → Prog Unit) :
    Prog Unit := Prog.all [issueElems m idx op elem n, elementsAcked m idx op acked, Prog.get fun s =>
    match s.flight m idx with
    | some f => Prog.when (f.st == 1 && mdOp f.desc == op && decide (1 ≤ remote) && decide (remote ≤ 4)) (elementFault m idx remote true none)
    | none => .skip]

/-- Stored sectors of a compressed block, with its tag (R208, R332). -/
def blockAsStored (pa : Nat) : Prog (Option (Nat × List Byte)) :=
  (secRead (pa / 64)).bind fun s0 =>
    let n := bits 5 0 s0.mta
    if s0.poison || n = 0 || 32 < n then .ret none
    else (Prog.mapM ((List.range n).drop 1) fun i => secRead (pa / 64 + i)).bind fun rest =>
      if rest.any (·.poison) then .ret none
      else .ret (some (s0.mta % 2 ^ 27, s0.data ++ rest.flatMap fun (r : SecRead) => r.data))

/-- An element of a PUT: a block of a compressed page travels on class 3 as stored (R332), anything else as data; the
peer's acknowledgement completes it (R232). -/
def putElem (m : Fin 4) (idx : Nat) (d : BitVec 512) (lin : Nat) : Prog Unit := .get fun s =>
  let src := mdFrom d lin
  (translate (movUnit s m) .read src).bind fun t =>
    match t with
    | .error f => elementFailed m idx lin f
    | .ok t =>
      if t.cmp && mdCls d == 3 && mdEsz d == 5 then
        (blockAsStored t.pa).bind fun x =>
          match x with
          | none => elementFault m idx 3 false (some (mkFlt 3 0x20 .read false src t.pa))
          | some (tag, sec) => sendElem m idx d lin 0x20 3 false (leBytes 8 (mdTo d lin) ++ leBytes 4 tag ++ sec)
      else (movRead m src (mdSize d)).bind fun r =>
        match r with
        | .error f => elementFailed m idx lin f
        | .ok x =>
          if x.any (·.2) then (poisonFlt m src x).bind fun f => elementFault m idx 3 false (some f)
          else sendElem m idx d lin 0x19 (mdCls d) false (leBytes 8 (mdTo d lin) ++ x.map (·.1))

/-- PUT: the next elements of a descriptor are sent, and those that the peer acknowledges are complete. -/
def execPut (m : Fin 4) (idx : Nat) (n : Nat) (acked : List Nat) (remote : Nat) (s : State) :
    Host.Outcome State Fault Refusal :=
  (issueRemote m idx 3 n acked remote (putElem m idx)).next s

/-- GET: the next elements of a descriptor are asked for. -/
def execGet (m : Fin 4) (idx : Nat) (n : Nat) (remote : Nat) (s : State) : Host.Outcome State Fault Refusal :=
  (issueRemote m idx 4 n [] remote fun d lin => sendElem m idx d lin 0x1A (mdCls d) false (askBody d lin)).next s

/-- FETCH: the next blocks of a descriptor are asked for. -/
def execFetch (m : Fin 4) (idx : Nat) (n : Nat) (remote : Nat) (s : State) : Host.Outcome State Fault Refusal :=
  (issueRemote m idx 5 n [] remote fun d lin => sendElem m idx d lin 0x11 (mdCls d) false (askBody d lin)).next s

/-! ### The peer's side -/

/-- A packet for mover `m` of a binding that this device knows. -/
def atPeer (m : Fin 4) (pkt : Packet) (typ : Nat) (f : Packet → Nat → Prog Unit) : Prog Unit :=
  arrive pkt typ fun p => Prog.get fun s =>
    if p.lu ≠ m then .skip
    else match s.bindingOf p.bid.toNat with
      | some b => f p b
      | none => .skip

/-- A fault of the peer's side is recorded there (R237). -/
def peerFault (m b : Nat) (f : Flt) : Prog Unit := if f.isWait then .skip else logFault (peerUnit m b) f

/-- An answer to a packet, of the step that its binding is in here (R252). -/
def answer (p : Packet) (typ fmt : Nat) (raw : Bool) (payload : List Byte) : Prog Unit := .get fun s =>
  sendPacket { p with
    typ := BitVec.ofNat 6 typ, dst := p.src, step := s.stepOfBid p.bid.toNat, fmt := BitVec.ofNat 4 fmt, raw := raw
    payload := payload }

/-- PUT_PACKET: the element is written at the peer. -/
def execPutPacket (m : Fin 4) (pkt : Packet) (s : State) : Host.Outcome State Fault Refusal :=
  (atPeer m pkt 0x19 fun p b =>
    let va := leNat (p.payload.take 8) % 2 ^ 48
    let d := (p.payload.drop 8).map fun x => (x, p.pois)
    (vwrite (peerUnit m b) va d).bind fun r =>
      match r with
      | .ok _ => count (setMover m) 0x61 d.length
      | .error f => peerFault m b f).next s

/-- GETREQ: the element is read and returned. -/
def execGetreq (m : Fin 4) (pkt : Packet) (s : State) : Host.Outcome State Fault Refusal :=
  (atPeer m pkt 0x1A fun p b =>
    (vget (peerUnit m b) (leNat (p.payload.take 6)) (leNat ((p.payload.drop 6).take 2))).bind fun r =>
      match r with
      | .ok d => answer p 0x1B 0 false d
      | .error f => peerFault m b f).next s

/-- BUDDY: the stored block is written unchanged on a compressed page (R332). -/
def execBuddy (m : Fin 4) (pkt : Packet) (s : State) : Host.Outcome State Fault Refusal :=
  (atPeer m pkt 0x20 fun p b =>
    let va := leNat (p.payload.take 8) % 2 ^ 48
    let tag := leNat ((p.payload.drop 8).take 4)
    let d := p.payload.drop 12
    (translate (peerUnit m b) .write va).bind fun t =>
      match t with
      | .error f => peerFault m b f
      | .ok t =>
        if !t.cmp || va % 2048 ≠ 0 then peerFault m b (mkFlt 2 0x16 .write false va t.pa)
        else (Prog.each (List.range (d.length / 64)) fun i =>
            secWrite (t.pa / 64 + i) 0 ((d.drop (64 * i)).take 64) p.pois (if i = 0 then tag else 0)).seq
          (count (setMover m) 0x61 2048)).next s

/-! ### The fetch at the owner (R152, R272) -/

/-- Where an address lies in the slot areas of a Landing Unit's entries: the entry's index and record, and the offset in
the area, among the working copy and its scales. -/
def findCopy (u : Nat) (va : Nat) : Nat → Nat → Prog (Option (LayerEntry × Nat))
  | 0, _ => .ret none
  | n + 1, i => (readEntry u i).bind fun r =>
    match r with
    | .error _ => findCopy u va n (i + 1)
    | .ok x =>
      let k := x.map
      let inside (a : Nat) : Bool := decide (a + k.wc ≤ va) && decide (va < a + k.digest)
      if inside (x.slot 0) then .ret (some (x, va - x.slot 0))
      else if inside (x.slot 1) then .ret (some (x, va - x.slot 1))
      else findCopy u va n (i + 1)

/-- The first of a binding's Landing Units that holds a working copy at an address. -/
def findOwner (va : Nat) : List Nat → Prog (Option (Nat × LayerEntry × Nat))
  | [] => .ret none
  | u :: r => Prog.get fun s => (findCopy u va (s.rdF .LND_LTAB_COUNT Fld.LND_LTAB_COUNT_COUNT u) 0).bind fun x =>
    match x with
    | some y => .ret (some (u, y))
    | none => findOwner va r

/-- The payload of a FETCHDATA: the tag, the coded or raw block, the digest, the bytes it covers, and how far beyond the
block its digest lies in the slot area (R137), 0 where it has none there. -/
def fetchBody (tag : Nat) (d : List Byte) (digest len place : Nat) : List Byte :=
  leBytes 4 tag ++ d ++ leBytes 4 digest ++ leBytes 2 len ++ leBytes 6 place

/-- A block of a working copy served as a step-difference, or raw (R272). -/
def serveBlock (m : Fin 4) (b : Nat) (p : Packet) (u : Nat) (x : LayerEntry) (off : Nat) : Prog Unit := .get fun s =>
  let unit := peerUnit m b
  let v := vptr s u
  let k := x.map
  let copy := decide (off < k.scale)
  let len := min 2048 ((if copy then k.wc + x.wcBytes * x.cnt else k.digest) - off)
  let fmt := if copy then x.wcfmt else 4
  let place := if copy then k.digest + 4 * ((off - k.wc) / 2048) - off else 0
  let width := if copy && x.wcfmt == 1 then 1 else 0
  let res : Prog (Except Flt Unit) :=
    (vget unit (x.slot v + off) 2048).bindE fun new =>
    (vget unit (x.slot (1 - v) + off) 2048).bindE fun old =>
    (if copy then (vget unit (x.slot v + k.digest + 4 * ((off - k.wc) / 2048)) 4).bindE fun d => .ret (.ok (leNat d))
     else Prog.ret (.ok (crc32c (new.take len)))).bindE fun digest => Prog.get fun s =>
      let c := codeBlock ⟨0, 0, 0, 0, width, true, true⟩ (s.curBank (36 + m)) (xorBytes new old) (List.replicate 2048 0)
      let raw := p.raw || c.2.testBit 10
      (answer p 0x12 fmt raw (if raw then fetchBody (32 + 2 ^ 10) new digest len place else fetchBody c.2 c.1 digest len place)).seq (.ret (.ok ()))
  res.bind fun r =>
    match r with
    | .ok _ => .skip
    | .error f => peerFault m b f

/-- FETCHREQ: the owner's mover serves a block; bytes that are no working copy's block are sent raw. -/
def execFetchreq (m : Fin 4) (pkt : Packet) (s : State) : Host.Outcome State Fault Refusal :=
  (atPeer m pkt 0x11 fun p b => Prog.get fun s =>
    let va := leNat (p.payload.take 6)
    let n := leNat ((p.payload.drop 6).take 2)
    (findOwner va (s.lus b)).bind fun r =>
      match r with
      | some (u, x, off) =>
        if n = 2048 && off % 2048 = 0 then serveBlock m b p u x off
        else (vget (peerUnit m b) va n).bind fun r =>
          match r with
          | .ok d => answer p 0x12 4 true (fetchBody (32 + 2 ^ 10) d (crc32c d) n 0)
          | .error f => peerFault m b f
      | none => (vget (peerUnit m b) va n).bind fun r =>
          match r with
          | .ok d => answer p 0x12 4 true (fetchBody (32 + 2 ^ 10) d (crc32c d) n 0)
          | .error f => peerFault m b f).next s

/-! ### Data that comes back (R230, R272) -/

/-- An answer to an element of a descriptor in flight. -/
def atHome (m : Fin 4) (pkt : Packet) (typ op : Nat) (f : Packet → BitVec 512 → Nat → Nat → Prog Unit) : Prog Unit :=
  arrive pkt typ fun p => Prog.get fun s =>
    if p.lu ≠ m then .skip
    else match s.flight m p.opid.toNat with
      | some x => Prog.when (x.st == 1 && mdOp x.desc == op && decide (elemOf p < x.sent)) (f p x.desc x.idx (elemOf p))
      | none => .skip

/-- An element's data is written and the element complete. -/
def landElem' (m : Fin 4) (idx : Nat) (d : BitVec 512) (lin : Nat) (x : List Byte) : Prog Unit :=
  (movWrite m (mdTo d lin) (x.map fun b => (b, false))).bind fun w =>
    match w with
    | .error f => elementFault m idx f.kind false (some f)
    | .ok _ => elementDone m idx lin

/-- GETDATA: the element is written. -/
def execGetdata (m : Fin 4) (pkt : Packet) (s : State) : Host.Outcome State Fault Refusal :=
  (atHome m pkt 0x1B 4 fun p d idx lin =>
    if p.pois then elementFault m idx 3 false (some (mkFlt 3 0x20 .read false (mdTo d lin) 0))
    else if p.payload.length ≠ mdSize d then .skip
    else landElem' m idx d lin p.payload).next s

/-- Where the digest of a fetched block stands beside the working copy, and the bytes it covers, for firmware's checks
(R272, R341). -/
def keepDigest (b va place len : Nat) : Prog Unit := .get fun s =>
  .one (.setDigests ((s.digests.filter fun (e : (Nat × Nat) × (Nat × Nat)) => e.1 != (b, va)) ++ [((b, va), (place, len))]))

/-- A fetched block is written in place, its digest beside the working copy, and the element is complete (R272). -/
def landFetched (m : Fin 4) (idx : Nat) (d : BitVec 512) (lin : Nat) (x tail : List Byte) : Prog Unit := .get fun s =>
  let va := mdTo d lin
  let place := leNat (tail.drop 6)
  let bytes (l : List Byte) : List (Byte × Bool) := l.map fun b => (b, false)
  ((movWrite m va (bytes x)).bindE fun _ =>
    if place = 0 then .ret (.ok ()) else movWrite m ((va + place) % 2 ^ 48) (bytes (tail.take 4))).bind fun w =>
    match w with
    | .error f => elementFault m idx f.kind false (some f)
    | .ok _ => (Prog.when (place != 0) (keepDigest ((s.ownerUnit (10 + m)).getD 0) va ((va + place) % 2 ^ 48)
        (leNat ((tail.drop 4).take 2)))).seq (elementDone m idx lin)

/-- A stale block is asked for again, raw (R217, R272). -/
def refetch (m : Fin 4) (idx : Nat) (d : BitVec 512) (lin : Nat) : Prog Unit := Prog.all [
  setF .MEM_CDC_ERR Fld.MEM_CDC_ERR_DECODE_STALE (36 + m), bumpF .MEM_CDC_STALECNT Fld.MEM_CDC_STALECNT_COUNT 1 (36 + m),
  count (setMover m) 0x63, .one (.emit (.refetch (36 + m) (mdTo d lin))),
  sendElem m idx d lin 0x11 (mdCls d) true (askBody d lin)]

/-- FETCHDATA: a block is expanded against the local working copy and written in place, asked for again where it is
stale, or written as it is where it is raw; its digest is kept. -/
def execFetchdata (m : Fin 4) (pkt : Packet) (s : State) : Host.Outcome State Fault Refusal :=
  (atHome m pkt 0x12 5 fun p d idx lin => Prog.get fun s =>
    let n := p.payload.length - 16
    let tag := leNat (p.payload.take 4)
    let body := (p.payload.drop 4).take n
    let va := mdTo d lin
    let tail := p.payload.drop (4 + n)
    if p.pois then elementFault m idx 3 false (some (mkFlt 3 0x20 .read false va 0))
    else if p.payload.length < 16 then .skip
    else if p.raw then (if n ≠ mdSize d then .skip else landFetched m idx d lin body tail)
    else
      let tid := bits 9 6 tag
      let bank := s.bankFor (36 + m) tid
      if tid ≠ 15 && bank.isNone then refetch m idx d lin
      else match decodeStream (if tid = 15 then none else bank) (if p.fmt = 1 then 2 else 1) body with
        | none => (setF .MEM_CDC_ERR Fld.MEM_CDC_ERR_DECODE_BAD (36 + m)).seq
            (elementFault m idx 3 false (some (mkFlt 3 0x20 .read false va 0)))
        | some diff => (vget (movUnit s m) va 2048).bind fun r =>
            match r with
            | .error f => elementFailed m idx lin f
            | .ok base => landFetched m idx d lin (xorBytes diff base) tail).next s

end Sys2Proof.Machine
end

