-- ==== Sys2Proof/Machine/Resilience.lean ====
section
/-!
DEFINITION. Sys2Proof/Machine/Resilience.lean: job-control firmware: heartbeats and the warden (R325 to R329),
takeovers (R336 to R338), checkpoint generations (R331 to R335) and the replica audit (R341). The layouts of
firmware's own messages are not given; those here are the model's (log 56).
-/

namespace Sys2Proof.Machine

/-! ### Positions -/

/-- The logical coordinate held at a physical position, if any (R251). -/
def State.logAt (s : State) (p : Nat) : Option Nat :=
  (s.reg.find? fun (e : RegKey × Word) => e.1.name == .FAB_REMAP && flagF Fld.FAB_REMAP_VALID e.2 && getF Fld.FAB_REMAP_PHYS e.2 == p).map
    fun (e : RegKey × Word) => e.1.i

/-- The positions of the site (R250). -/
def State.positions (s : State) : List Nat := (List.range 32768).filter fun p =>
  (List.range s.ndim).all fun d => decide (s.coord p d < s.dimSize d)

/-- The number of positions of FAB_DIMS (R327). -/
def State.npos (s : State) : Nat := ((List.range s.ndim).map s.dimSize).foldl (· * ·) 1

/-- More than half of the positions. -/
def State.majority (s : State) (l : List Nat) : Bool := decide (s.npos < 2 * l.length)

/-- A number added to a list of distinct ones. -/
def addOnce (l : List Nat) (x : Nat) : List Nat := if l.contains x then l else l ++ [x]

/-- Firmware sends a message to every device of the site. -/
def tellAll (typ : Nat) (body : List Byte) : Prog Unit := .one (.emit (.firmware typ none body))

/-- Firmware sends a message to one position. -/
def tell (typ pos : Nat) (body : List Byte) : Prog Unit := .one (.emit (.firmware typ (some pos) body))

/-! ### Heartbeats (R326) -/

/-- HEARTBEAT: delivered to firmware. -/
def execHeartbeat (pkt : Packet) (s : State) : Host.Outcome State Fault Refusal := (hornFirmware pkt 0x07 deliverFw).next s

/-- The directions whose bundle is in use: dimension and side. -/
def State.directions (s : State) : List (Nat × Bool) :=
  ((List.range s.ndim).flatMap fun d => [(d, true), (d, false)]).filter fun e => !(s.bundle e.1 e.2).isEmpty

/-- HEARTBEAT_SEND: a heartbeat to the device at the far end of each bundle in use. Firmware that finds FAULT_N low
reports itself (R325). -/
def execHeartbeatSend (s : State) : Host.Outcome State Fault Refusal :=
  (Prog.seq (Prog.each s.directions fun e => tell 0x07 (s.neighbour s.ownPhys e.1 e.2) [])
    (Prog.when (s.faultN && !s.fw.self) (selfFailure 4))).next s

/-- A position is suspect: the warden sends it a PING, another device reports it to the warden (R326, R328). -/
def suspect (p : Nat) : Prog Unit := .get fun s =>
  if s.isDown p then .skip
  else if s.fw.office then (modFw fun f => { f with suspect := addOnce f.suspect p }).seq (tell 0x04 p [])
  else tell 0x06 s.fw.warden (2 :: leBytes 2 p)

/-- HBDEAD_EXPIRY: no heartbeat has arrived from a neighbour for HBDEAD, or every port toward it is DOWN. -/
def execHbdeadExpiry (dir : Fin 6) (s : State) : Host.Outcome State Fault Refusal :=
  (if s.directions.contains (dir.val / 2, dir.val % 2 == 0) then
    suspect (s.neighbour s.ownPhys (dir.val / 2) (dir.val % 2 == 0))
   else Prog.skip).next s

/-! ### Declarations (R328, R329) -/

/-- The payload of a FAILDECL (R328). -/
def faildeclBody (term decl phys : Nat) (log : Option Nat) (cause : Nat) (root : Bool) : List Byte :=
  leBytes 16 (term % 2 ^ 32 + decl % 2 ^ 32 * 2 ^ 32 + phys % 2 ^ 15 * 2 ^ 64 +
    (match log with | some l => l % 2 ^ 15 * 2 ^ 80 + 2 ^ 95 | none => 0) + cause % 16 * 2 ^ 96 + (if root then 2 ^ 100 else 0))

/-- The relief device that the warden chooses: the lowest unmarked position that holds no logical coordinate and is
not taken for another failure (R336). -/
def State.reliefFor (s : State) : Option Nat :=
  s.positions.find? fun p => !s.isDown p && (s.logAt p).isNone && !(s.fw.take.any fun t => t.2 == p)

/-- The warden starts a takeover: it chooses the relief device and sends PREPARE, or reports that none remains
(R336, R337). -/
def startTakeover (log : Nat) : Prog Unit := .get fun s =>
  match s.reliefFor with
  | none => .one (.emit (.failure 6))
  | some r => (modFw fun f => { f with take := f.take.filter (fun t => t.1 != log) ++ [(log, r)] }).seq (Prog.get fun s =>
      Prog.each s.fw.take fun t => tellAll 0x06 (3 :: leBytes 4 s.fw.term ++ leBytes 2 t.1 ++ leBytes 2 t.2))

/-- Firmware acts on a declaration of its current term; one of a lower term is discarded, and a warden that meets a
higher one resigns (R327, R329). -/
def onFaildecl (d : List Byte) : Prog Unit := .get fun s =>
  let x := leNat (d.take 16)
  let term := bits 31 0 x
  let phys := bits 78 64 x
  if term < s.fw.term then .skip
  else Prog.all [
    modFw fun f => { f with
      term := term, office := f.office && term == f.term, suspect := f.suspect.filter (· != phys) },
    wr .FAB_PDOWN (s.rd .FAB_PDOWN (phys / 64) ||| BitVec.ofNat 64 (2 ^ (phys % 64))) (phys / 64),
    (if phys = s.ownPhys then Prog.all [
        endAll none, modFw fun f => { f with named := true },
        modHalf (s.boot.leader.getD s.strapped) fun h => { h with fault := true }, showAll]
     else .skip),
    Prog.get fun s => Prog.when (x.testBit 95 && s.fw.office) (startTakeover (bits 94 80 x))]

/-- The warden declares a failure: first to the root of each binding, then to every device, itself included
(R328). -/
def declare (phys cause : Nat) : Prog Unit := .get fun s =>
  if !s.fw.office || s.isDown phys then .skip
  else
    let log := s.logAt phys
    let n := s.fw.decl + 1
    let body := faildeclBody s.fw.term n phys log cause false
    Prog.all [
      modFw fun f => { f with decl := n },
      Prog.each ((List.range 8).filter s.steps) fun b => sendPacket { blankPacket with
        typ := 0x0A, dst := BitVec.ofNat 15 (s.rdF .FAB_VOTEROOT Fld.FAB_VOTEROOT_ROOTC b)
        bid := BitVec.ofNat 16 (s.rdF .BND_JOB Fld.BND_JOB_BID b), step := BitVec.ofNat 48 (s.binding b).step
        payload := faildeclBody s.fw.term n phys log cause true },
      tellAll 0x0A body,
      onFaildecl body]

/-- FLAG: a firmware message is delivered to the receive ring (R253, R258); a warden acts on a report (R328): 1 the
sender reports itself, 2 it reports a position. -/
def execFlag (pkt : Packet) (s : State) : Host.Outcome State Fault Refusal :=
  (hornFirmware pkt 0x06 fun p => (deliverFw p).seq <| Prog.get fun s =>
    match s.fw.office, p.payload with
    | true, 1 :: _ => declare (s.rdF .FAB_REMAP Fld.FAB_REMAP_PHYS p.src.toNat) 1
    | true, 2 :: r => suspect (leNat (r.take 2) % 32768)
    | _, _ => .skip).next s

/-- CONFIRM_EXPIRY: the warden's PING has brought no PONG. -/
def execConfirmExpiry (phys : BitVec 15) (s : State) : Host.Outcome State Fault Refusal :=
  (if s.fw.suspect.contains phys.toNat then declare phys.toNat 2 else Prog.skip).next s

/-- FAILDECL: a root's horn engine acts, and firmware does (R264, R329). -/
def execFaildecl (pkt : Packet) (s : State) : Host.Outcome State Fault Refusal :=
  (hornFirmware pkt 0x0A fun p => Prog.all [failRoot p, deliverFw p,
    if p.payload.length < 16 then Prog.skip else onFaildecl p.payload]).next s

/-- FSTOPMAX_EXPIRY: a unit has stood in FAULT_STOP for FSTOPMAX (R325). -/
def execFstopmaxExpiry (s : State) : Host.Outcome State Fault Refusal :=
  (if (List.range 32).any (fun c => seqState s c == 5 || vecState s c == 5) || (List.range 2).any (fun u => suState s u == 7) ||
      (List.range 4).any (fun m => movState s m == 2 || ceState s m == 2) || (List.range 64).any (fun ch => s.chState ch == 6)
   then selfFailure 8 else Prog.skip).next s

/-! ### The warden (R327) -/

/-- The payload of a LEAD: term, round, and 0 office, 1 answer, 2 claim, 3 grant. -/
def leadBody (term round kind : Nat) : List Byte := leBytes 4 term ++ leBytes 4 round ++ leBytes 8 kind

/-- A LEAD sent to one device. -/
def sendLead (dst term round kind : Nat) : Prog Unit :=
  sendPacket { blankPacket with typ := 0x08, dst := BitVec.ofNat 15 dst, payload := leadBody term round kind }

/-- The device takes office once its claim has a majority, its own grant among them. -/
def takeOffice : Prog Unit := .get fun s =>
  match s.fw.claim with
  | some l => Prog.when (s.majority l) (modFw fun f => { f with
      office := true, claim := none, round := 0, answers := [], lean := 0, decl := 0, take := []
      warden := s.ownPhys, quiet := false })
  | none => .skip

/-- LEAD: the office of another, an answer, a claim or a grant (R327). Whether 3 × LEADINT have passed since the last
LEAD is left free. -/
def execLead (pkt : Packet) (s : State) : Host.Outcome State Fault Refusal :=
  (hornFirmware pkt 0x08 fun p => (deliverFw p).seq <| Prog.get fun s =>
    let term := leNat (p.payload.take 4)
    let round := leNat ((p.payload.drop 4).take 4)
    let src := p.src.toNat
    let pos := s.rdF .FAB_REMAP Fld.FAB_REMAP_PHYS src
    if p.payload.length < 16 || term < s.fw.term then .skip
    else
      let resign := modFw fun f => { f with office := f.office && term == f.term, term := term }
      match leNat ((p.payload.drop 8).take 8) with
      | 0 => Prog.all [resign, modFw fun f => { f with warden := pos, quiet := false, claim := none }, sendLead src term round 1]
      | 1 => resign.seq (Prog.get fun s =>
          Prog.when (s.fw.office && s.fw.round == round) (modFw fun f => { f with answers := addOnce f.answers pos }))
      | 2 => freeVal.bind fun v =>
          if term = s.fw.term then .skip
          else if s.fw.quiet || v.getLsbD 0 then resign.seq (sendLead src term 0 3) else resign
      | 3 => (resign.seq (modFw fun f => { f with claim := f.claim.map fun l => addOnce l pos })).seq takeOffice
      | _ => .skip).next s

/-- LEAD_ROUND: the warden closes its round and begins the next; two rounds in a row without a majority end its
office. -/
def execLeadRound (s : State) : Host.Outcome State Fault Refusal :=
  (if !s.fw.office then Prog.skip
   else
    let lean := if s.fw.round = 0 || s.majority s.fw.answers then 0 else s.fw.lean + 1
    if 2 ≤ lean then modFw fun f => { f with office := false, lean := 0, quiet := true }
    else (modFw fun f => { f with lean := lean, round := f.round + 1, answers := [s.ownPhys] }).seq
      (tellAll 0x08 (leadBody s.fw.term (s.fw.round + 1) 0))).next s

/-- WARDEN_CLAIM: a candidate that has heard no LEAD claims the next term, and grants it to itself. -/
def execWardenClaim (s : State) : Host.Outcome State Fault Refusal :=
  (if s.fw.office || s.fw.self || s.fw.named || !s.wardens.contains s.ownPhys then Prog.skip
   else Prog.all [
    modFw fun f => { f with term := f.term + 1, claim := some [s.ownPhys], quiet := true },
    tellAll 0x08 (leadBody (s.fw.term + 1) 0 2), takeOffice]).next s

/-! ### Takeover (R337, R338) -/

/-- The bindings of the device that step. -/
def State.jobs (s : State) : List Nat := (List.range 8).filter s.steps

/-- A message of a term: one of a lower term is discarded (R327). -/
def ofTerm (term : Nat) (p : Prog Unit) : Prog Unit := .get fun s =>
  if term < s.fw.term then .skip
  else (modFw fun f => { f with term := term, office := f.office && term == f.term }).seq p

/-- PREPARE: the device answers with its newest complete generation, and any rewind begun, of each binding. -/
def execPrepare (term : Nat) (log relief : BitVec 15) (s : State) : Host.Outcome State Fault Refusal :=
  (ofTerm term <| Prog.each s.jobs fun b =>
    let k := s.binding b
    let num (x : Option Nat) : List Byte := (match x with | some g => 1 :: leBytes 4 g | none => 0 :: leBytes 4 0)
    tell 0x06 s.fw.warden (4 :: leBytes 2 log.toNat ++ leBytes 2 relief.toNat ++
      leBytes 2 (s.rdF .BND_JOB Fld.BND_JOB_BID b) ++ num k.gen ++ num k.rewound)).next s

/-- GO: the remap entry of the failed coordinate takes the relief position; the relief device takes the coordinate and
GETs the area from the buddy, the neighbour in +X; every other begins its rewind, which the host command REWIND
performs (R338). `dead` lists the (CHAN, EPOCH) pairs of a failed crossing device, under which the relief device never
signs; its ports take their addresses from the image's records as that is loaded (R339). -/
def execGo (term gen : Nat) (log relief : BitVec 15) (dead : List (BitVec 16 × BitVec 16)) (s : State) : Host.Outcome State Fault Refusal :=
  (ofTerm term <| Prog.seq (fabRemapDo (finOf 32768 (by decide) log.toNat) (BitVec.ofNat 64 (relief.toNat + 2 ^ 15)))
    (if relief.toNat = s.ownPhys then (modFw fun f => { f with dead := dead.map fun e => (e.1.toNat, e.2.toNat) }).seq <|
      (pendWrite ⟨.FAB_COORD, 0, 0⟩ (putF Fld.FAB_COORD_LVALID (putF Fld.FAB_COORD_LOG (s.pending' ⟨.FAB_COORD, 0, 0⟩) log.toNat) 1)).seq
        (.one (.emit (.getArea (s.neighbour log.toNat 0 true) gen)))
     else Prog.each s.jobs fun b => modBnd b fun k => { k with rewound := some gen })).next s

/-- RUN: the rewound bindings step again from IDLE (R338). -/
def execRun (term : Nat) (s : State) : Host.Outcome State Fault Refusal :=
  (Prog.when (decide (s.fw.term ≤ term)) (Prog.each s.jobs fun b =>
    Prog.when ((s.binding b).rewound.isSome && s.bstate b == 2)
      ((modBnd b fun k => { k with rewound := none }).seq (startBinding b)))).next s

/-! ### Generations (R331 to R335) -/

/-- A store stream of the binding is being sent (R277, R335). -/
def State.storing (s : State) (b : Nat) : Bool := (List.range 64).any fun ch =>
  s.chState ch != 0 && s.chBind ch == b && s.chKind ch == 3 && !(s.ch ch).tx.isEmpty

/-- The header of a manifest without its CRC (R334). -/
def manifestHeader (s : State) (b g n : Nat) : Nat :=
  let k := s.binding b
  g % 2 ^ 32 + s.rdF .BND_JOB Fld.BND_JOB_BID b * 2 ^ 32 + s.rdF .BND_JOB Fld.BND_JOB_FLEVEL b * 2 ^ 48 +
    (k.step - 1) % 2 ^ 48 * 2 ^ 64 + k.commit % 2 ^ 48 * 2 ^ 112 + k.cross % 2 ^ 32 * 2 ^ 160 + s.ownLog * 2 ^ 192 + n % 2 ^ 32 * 2 ^ 208

/-- A manifest: its header with the CRC of the whole, and its piece records (R334). -/
def manifestBytes (hdr : Nat) (pieces : List (BitVec 256)) : List Byte :=
  let l := pieces.flatMap fun p => leBytes 32 p.toNat
  leBytes 60 hdr ++ leBytes 4 (crc32c (leBytes 60 hdr ++ [0, 0, 0, 0] ++ l)) ++ l

/-- Bytes filled up with zeros to whole blocks. -/
def wholeBlocks (d : List (Byte × Bool)) : List (Byte × Bool) := d ++ List.replicate ((2048 - d.length % 2048) % 2048) (0, false)

/-- Bytes copied into the staging region and from there into the area, with their poison (R331). -/
def captureBytes (u : Unit') (cap : Capture) (off : Nat) (d : List (Byte × Bool)) : Prog (Except Flt Unit) :=
  (vwrite u ((cap.staging.toNat + off) % 2 ^ 48) (wholeBlocks d)).bindE fun _ =>
  vwrite u ((cap.area.toNat + off) % 2 ^ 48) (wholeBlocks d)

/-- The blocks of a region that a capture fills, by their offsets: those of the manifest and of its pieces. -/
def captureBlocks (cap : Capture) : List Nat :=
  let run (off len : Nat) : List Nat := (List.range ((len + 2047) / 2048)).map fun i => off + 2048 * i
  run 0 (64 + 32 * cap.pieces.length) ++ cap.pieces.flatMap fun p => run (bits 175 128 p.toNat) (bits 223 176 p.toNat)

/-- A block of the staging region goes to the buddy's, on class 3: as stored where it lies on a compressed page, else as
data (R331, R332). -/
def buddyBlock (b : Nat) (u : Unit') (cap : Capture) (off : Nat) : Prog (Except Flt Unit) := .get fun s =>
  let src := (cap.staging.toNat + off) % 2 ^ 48
  let dst := leBytes 8 ((cap.buddyStaging.toNat + off) % 2 ^ 48)
  let send (typ : Nat) (d : List Byte) : Prog (Except Flt Unit) := (sendPacket { blankPacket with
    cls := 3, typ := BitVec.ofNat 6 typ, dst := cap.buddy, lu := cap.mover, bid := BitVec.ofNat 16 (s.bidOf b)
    step := BitVec.ofNat 48 (s.binding b).step, payload := d }).seq (.ret (.ok ()))
  (translate u .read src).bindE fun t =>
    if t.cmp then (blockAsStored t.pa).bind fun x =>
      match x with
      | none => .ret (.error (mkFlt 3 0x20 .read false src t.pa))
      | some (tag, sec) => send 0x20 (dst ++ leBytes 4 tag ++ sec)
    else (vget u src 2048).bindE fun d => send 0x19 (dst ++ d)

/-- Every piece of a generation and its manifest are copied into the staging region and the area, and the staging region
goes to the buddy (R331). -/
def captureAll (b : Nat) (cap : Capture) (hdr : Nat) : Prog (Except Flt Unit) := .get fun s =>
  let u := movUnit s cap.mover
  (Prog.mapE cap.pieces fun p => (vread u (bits 79 32 p.toNat) (bits 223 176 p.toNat)).bindE fun d =>
    captureBytes u cap (bits 175 128 p.toNat) d).bindE fun _ =>
  (captureBytes u cap 0 ((manifestBytes hdr cap.pieces).map fun x => (x, false))).bindE fun _ =>
  (Prog.mapE (captureBlocks cap) (buddyBlock b u cap)).bindE fun _ => .ret (.ok ())

/-- Whether every factor block of a capture has an even SEQ now (R127, R330). -/
def factorsEven (u : Unit') (cap : Capture) : Prog (Except Flt Bool) :=
  (Prog.mapE (cap.pieces.filter fun p => pieceHeader p.toNat) fun p => vget u (bits 79 32 p.toNat) 8).bindE fun l =>
  .ret (.ok (l.all fun d => leNat d % 2 == 0))

/-- CHECKPOINT_GENERATION: the step after the first commit turnaround that ends a step of `g` × *K* or more copies the
next generation, once the one before it has its GENDONE and no factor block is in a decay; one that would overwrite an
area being stored is deferred (R330, R331, R333, R335). A copy that faults begins no generation. -/
def execCheckpointGeneration (b : Fin 8) (cap : Capture) (s : State) : Host.Outcome State Fault Refusal :=
  (let k := s.binding b
   let g := match k.gen with | some n => n + 1 | none => 0
   let captured := (s.votes b).decided (k.step - 1)
   let u := movUnit s cap.mover
   let stop (f : Flt) : Prog Unit := if f.isWait then .skip else logFault u f
   if s.bstate b ≠ 3 || k.genRun.isSome || !(captured.any fun (d : Decided) => d.dec) || decide (k.step - 1 < g * k.ckpt) ||
      !s.hasUnit b (10 + cap.mover) then Prog.skip
   else if s.storing b && k.store == some (g - 2) && decide (2 ≤ g) then modBnd b fun k => { k with defers := k.defers + 1 }
   else (factorsEven u cap).bind fun e =>
    match e with
    | .error f => stop f
    | .ok even => Prog.when even ((captureAll b cap (manifestHeader s b g cap.pieces.length)).bind fun r =>
      match r with
      | .error f => stop f
      | .ok _ => modBnd b fun k => { k with genRun := some ⟨g, 1, BitVec.ofNat 512 (leNat
          ((manifestBytes (manifestHeader s b g cap.pieces.length) cap.pieces).take 64))⟩ })).next s

/-- GENERATION_COMPLETE: the own area and the buddy's are written, and the device reports to the warden (R333). -/
def execGenerationComplete (b : Fin 8) (s : State) : Host.Outcome State Fault Refusal :=
  (match (s.binding b).genRun with
   | some r => if r.stage ≠ 1 then Prog.skip
      else (modBnd b fun k => { k with genRun := some { r with stage := 2 } }).seq
        (tell 0x06 s.fw.warden (5 :: leBytes 2 (s.rdF .BND_JOB Fld.BND_JOB_BID b) ++ leBytes 4 r.gen))
   | none => Prog.skip).next s

/-- GENDONE: the generation is complete at every device, and its manifest's header goes to the journal (R333,
R382). -/
def execGendone (b : Fin 8) (gen : Nat) (s : State) : Host.Outcome State Fault Refusal :=
  (match (s.binding b).genRun with
   | some r => if r.gen ≠ gen || r.stage ≠ 2 then Prog.skip
      else (modBnd b fun k => { k with gen := some gen, genRun := none }).seq
        (jnlHand ⟨6, s.rdF .BND_JOB Fld.BND_JOB_BID b, false, leBytes 64 r.hdr.toNat, false⟩)
   | none => Prog.skip).next s

/-- CHECKPOINT_STORE: every KSTORE steps firmware sends the area of the newest complete generation as a stream on a store
channel (R335). -/
def execCheckpointStore (b : Fin 8) (s : State) : Host.Outcome State Fault Refusal :=
  (let k := s.binding b
   match k.gen with
   | some g =>
      if !s.bound b || s.storing b || g * k.ckpt % (if k.kstore = 0 then 500 else k.kstore) ≠ 0 then Prog.skip
      else modBnd b fun k => { k with store := some g }
   | none => Prog.skip).next s

/-! ### Replica audit (R341) -/

/-- Where the digest of a block stands and the bytes it covers: for the owner's own check in its slot area, and at a
fetcher as the fetch left it (R137, R272, R341). -/
def digestPlace (b : Nat) (own : Bool) (a : Nat) : Prog (Option (Nat × Nat)) := .get fun s =>
  if own then (findOwner a (s.lus b)).bind fun r => .ret (match r with
    | some (_, x, off) =>
      let k := x.map
      if off < k.scale then some (a - off + k.digest + 4 * ((off - k.wc) / 2048), min 2048 (k.wc + x.wcBytes * x.cnt - off)) else none
    | none => none)
  else .ret ((s.digests.find? fun (e : (Nat × Nat) × (Nat × Nat)) => e.1 == (b, a)).map fun e => e.2)

/-- REPLICA_AUDIT: firmware checks one block of a working copy against the digest that stands beside it. A mismatch is
counted and the block fetched again; `again` says that it has been, and the block's coordinates then go to the owner. An
owner that finds its own block bad reports a SELF failure. -/
def execReplicaAudit (b : Fin 8) (va : BitVec 48) (owner : BitVec 15) (again : Bool) (s : State) : Host.Outcome State Fault Refusal :=
  (let a := va.toNat / 2048 * 2048
   let own := owner.toNat == s.ownLog
   let u := s.fwUnit b
   if !s.bound b then Prog.skip else
   (digestPlace b own a).bind fun e =>
   match e with
   | none => Prog.skip
   | some (place, len) =>
    ((vget u a 2048).bindE fun d => (vget u place 4).bindE fun x => .ret (.ok (d, leNat x))).bind fun r =>
      match r with
      | .error f => if f.isWait then .skip else logFault u f
      | .ok (d, x) =>
        if crc32c (d.take len) = x then .skip
        else if own then (modBnd b fun k => { k with audits := k.audits + 1 }).seq (selfFailure 7)
        else if again then sendPacket { blankPacket with
          cls := 3, typ := 0x21, dst := owner, bid := BitVec.ofNat 16 (s.rdF .BND_JOB Fld.BND_JOB_BID b)
          step := BitVec.ofNat 48 (s.binding b).step, payload := leBytes 8 a }
        else (modBnd b fun k => { k with audits := k.audits + 1 }).seq (.one (.emit (.getBlock owner.toNat a)))).next s

/-- AUDIT: the owner reports a SELF failure. -/
def execAudit (pkt : Packet) (s : State) : Host.Outcome State Fault Refusal :=
  (arrive pkt 0x21 fun _ => selfFailure 7).next s

end Sys2Proof.Machine
end

