-- ==== Sys2Proof/Machine/Dispatch.lean ====
section
/-!
DEFINITION. Sys2Proof/Machine/Dispatch.lean: one arm per command, each a direct call of its meaning.
-/

namespace Sys2Proof.Machine

/-- The effect of a command on everything but the queue. -/
def exec (i : Instr) (s : State) : Host.Outcome State Fault Refusal :=
  match i with
  | .turnaround b => Sys2Proof.Machine.execTurnaround b s
  | .strobeScan g => Sys2Proof.Machine.execStrobeScan g s
  | .strobeAcknowledged b => Sys2Proof.Machine.execStrobeAcknowledged b s
  | .rootRoundStart u0 => Sys2Proof.Machine.execRootRoundStart u0 s
  | .nop c w => Sys2Proof.Machine.execNop c w s
  | .tload c w => Sys2Proof.Machine.execTload c w s
  | .tstore c w => Sys2Proof.Machine.execTstore c w s
  | .temit c w => Sys2Proof.Machine.execTemit c w s
  | .temitSlipRelease c => Sys2Proof.Machine.execTemitSlipRelease c s
  | .dload c w => Sys2Proof.Machine.execDload c w s
  | .mma c w => Sys2Proof.Machine.execMma c w s
  | .mmat c w => Sys2Proof.Machine.execMmat c w s
  | .stat c w => Sys2Proof.Machine.execStat c w s
  | .tsig c w => Sys2Proof.Machine.execTsig c w s
  | .twait c w => Sys2Proof.Machine.execTwait c w s
  | .twaitRelease c => Sys2Proof.Machine.execTwaitRelease c s
  | .brf c w => Sys2Proof.Machine.execBrf c w s
  | .seg c w => Sys2Proof.Machine.execSeg c w s
  | .lset c w => Sys2Proof.Machine.execLset c w s
  | .endWord c w => Sys2Proof.Machine.execEndWord c w s
  | .overflowDecision c => Sys2Proof.Machine.execOverflowDecision c s
  | .watchCompare c => Sys2Proof.Machine.execWatchCompare c s
  | .aryStart c => Sys2Proof.Machine.execAryStart c s
  | .aryStop c => Sys2Proof.Machine.execAryStop c s
  | .sequencerDrained c => Sys2Proof.Machine.execSequencerDrained c s
  | .aryResume c => Sys2Proof.Machine.execAryResume c s
  | .toksigInc c t => Sys2Proof.Machine.execToksigInc c t s
  | .add c w => Sys2Proof.Machine.execAdd c w s
  | .sub c w => Sys2Proof.Machine.execSub c w s
  | .mul c w => Sys2Proof.Machine.execMul c w s
  | .fma c w => Sys2Proof.Machine.execFma c w s
  | .div c w => Sys2Proof.Machine.execDiv c w s
  | .sqrt c w => Sys2Proof.Machine.execSqrt c w s
  | .rcp c w => Sys2Proof.Machine.execRcp c w s
  | .rsq c w => Sys2Proof.Machine.execRsq c w s
  | .max c w => Sys2Proof.Machine.execMax c w s
  | .min c w => Sys2Proof.Machine.execMin c w s
  | .neg c w => Sys2Proof.Machine.execNeg c w s
  | .abs c w => Sys2Proof.Machine.execAbs c w s
  | .exp c w => Sys2Proof.Machine.execExp c w s
  | .log c w => Sys2Proof.Machine.execLog c w s
  | .tanh c w => Sys2Proof.Machine.execTanh c w s
  | .sigm c w => Sys2Proof.Machine.execSigm c w s
  | .erf c w => Sys2Proof.Machine.execErf c w s
  | .cmp c w => Sys2Proof.Machine.execCmp c w s
  | .sel c w => Sys2Proof.Machine.execSel c w s
  | .cvt c w => Sys2Proof.Machine.execCvt c w s
  | .qnt c w => Sys2Proof.Machine.execQnt c w s
  | .cvti c w => Sys2Proof.Machine.execCvti c w s
  | .icvt c w => Sys2Proof.Machine.execIcvt c w s
  | .rsum c w => Sys2Proof.Machine.execRsum c w s
  | .rmax c w => Sys2Proof.Machine.execRmax c w s
  | .rmin c w => Sys2Proof.Machine.execRmin c w s
  | .perm c w => Sys2Proof.Machine.execPerm c w s
  | .smax c w => Sys2Proof.Machine.execSmax c w s
  | .mov c w => Sys2Proof.Machine.execMov c w s
  | .vld c w => Sys2Proof.Machine.execVld c w s
  | .vst c w => Sys2Proof.Machine.execVst c w s
  | .slpop c w => Sys2Proof.Machine.execSlpop c w s
  | .slpopWaitEnd c => Sys2Proof.Machine.execSlpopWaitEnd c s
  | .sltag c w => Sys2Proof.Machine.execSltag c w s
  | .setvl c w => Sys2Proof.Machine.execSetvl c w s
  | .setf c w => Sys2Proof.Machine.execSetf c w s
  | .dld c w => Sys2Proof.Machine.execDld c w s
  | .vsig c w => Sys2Proof.Machine.execVsig c w s
  | .vwait c w => Sys2Proof.Machine.execVwait c w s
  | .vwaitRelease c => Sys2Proof.Machine.execVwaitRelease c s
  | .vbr c w => Sys2Proof.Machine.execVbr c w s
  | .vlset c w => Sys2Proof.Machine.execVlset c w s
  | .vend c w => Sys2Proof.Machine.execVend c w s
  | .vecStart c => Sys2Proof.Machine.execVecStart c s
  | .vecStop c => Sys2Proof.Machine.execVecStop c s
  | .vecResume c => Sys2Proof.Machine.execVecResume c s
  | .tileLand u => Sys2Proof.Machine.execTileLand u s
  | .phaseBStart u entry => Sys2Proof.Machine.execPhaseBStart u entry s
  | .phaseCStart u entry => Sys2Proof.Machine.execPhaseCStart u entry s
  | .holdCopy u entry => Sys2Proof.Machine.execHoldCopy u entry s
  | .outerUpdate u entry => Sys2Proof.Machine.execOuterUpdate u entry s
  | .luVote u => Sys2Proof.Machine.execLuVote u s
  | .lndAbort u => Sys2Proof.Machine.execLndAbort u s
  | .luDrained u => Sys2Proof.Machine.execLuDrained u s
  | .factorBlockRead u0 => Sys2Proof.Machine.execFactorBlockRead u0 s
  | .factorisationDone u0 => Sys2Proof.Machine.execFactorisationDone u0 s
  | .newtonIterateDone u0 => Sys2Proof.Machine.execNewtonIterateDone u0 s
  | .cycleBudgetExpiry u0 => Sys2Proof.Machine.execCycleBudgetExpiry u0 s
  | .slvJqTail u0 val => Sys2Proof.Machine.execSlvJqTail u0 val s
  | .loadJob u0 => Sys2Proof.Machine.execLoadJob u0 s
  | .solveJob u0 => Sys2Proof.Machine.execSolveJob u0 s
  | .changeListComplete u0 => Sys2Proof.Machine.execChangeListComplete u0 s
  | .innerSolveEnd u0 => Sys2Proof.Machine.execInnerSolveEnd u0 s
  | .slvStop u0 => Sys2Proof.Machine.execSlvStop u0 s
  | .slvResume u0 => Sys2Proof.Machine.execSlvResume u0 s
  | .abortjob u0 => Sys2Proof.Machine.execAbortjob u0 s
  | .abortrnd u0 => Sys2Proof.Machine.execAbortrnd u0 s
  | .passPolicy b => Sys2Proof.Machine.execPassPolicy b s
  | .skipRunResponse b => Sys2Proof.Machine.execSkipRunResponse b s
  | .sectorRead addr upset => Sys2Proof.Machine.execSectorRead addr upset s
  | .sectorWrite addr off data poison => Sys2Proof.Machine.execSectorWrite addr off data poison s
  | .memInj v val => Sys2Proof.Machine.execMemInj v val s
  | .scrubPass v => Sys2Proof.Machine.execScrubPass v s
  | .refreshRateChange v temps => Sys2Proof.Machine.execRefreshRateChange v temps s
  | .dramOvertemp v => Sys2Proof.Machine.execDramOvertemp v s
  | .dtstepLoad e val => Sys2Proof.Machine.execDtstepLoad e val s
  | .tableLoadDone e => Sys2Proof.Machine.execTableLoadDone e s
  | .bankRetire e => Sys2Proof.Machine.execBankRetire e s
  | .xltInv x val => Sys2Proof.Machine.execXltInv x val s
  | .xltInvall val => Sys2Proof.Machine.execXltInvall val s
  | .invalidationDone x => Sys2Proof.Machine.execInvalidationDone x s
  | .flogRead val => Sys2Proof.Machine.execFlogRead val s
  | .movTail m val => Sys2Proof.Machine.execMovTail m val s
  | .descriptorFetch m => Sys2Proof.Machine.execDescriptorFetch m s
  | .copy m idx n => Sys2Proof.Machine.execCopy m idx n s
  | .fill m idx n => Sys2Proof.Machine.execFill m idx n s
  | .put m idx n acked remote => Sys2Proof.Machine.execPut m idx n acked remote s
  | .get m idx n remote => Sys2Proof.Machine.execGet m idx n remote s
  | .fetch m idx n remote => Sys2Proof.Machine.execFetch m idx n remote s
  | .descriptorComplete m idx => Sys2Proof.Machine.execDescriptorComplete m idx s
  | .moverFaultStop m => Sys2Proof.Machine.execMoverFaultStop m s
  | .movStop m => Sys2Proof.Machine.execMovStop m s
  | .movResume m => Sys2Proof.Machine.execMovResume m s
  | .movAbort m => Sys2Proof.Machine.execMovAbort m s
  | .linkDown p => Sys2Proof.Machine.execLinkDown p s
  | .linkTrained p peer => Sys2Proof.Machine.execLinkTrained p peer s
  | .flitReceived p f => Sys2Proof.Machine.execFlitReceived p f s
  | .flitReplay p => Sys2Proof.Machine.execFlitReplay p s
  | .idleFlit p => Sys2Proof.Machine.execIdleFlit p s
  | .packetForward pkt => Sys2Proof.Machine.execPacketForward pkt s
  | .deviceVote b => Sys2Proof.Machine.execDeviceVote b s
  | .vote pkt => Sys2Proof.Machine.execVote pkt s
  | .decision pkt => Sys2Proof.Machine.execDecision pkt s
  | .dquery pkt => Sys2Proof.Machine.execDquery pkt s
  | .voteRetry b => Sys2Proof.Machine.execVoteRetry b s
  | .ping pkt => Sys2Proof.Machine.execPing pkt s
  | .pong pkt rtt => Sys2Proof.Machine.execPong pkt rtt s
  | .flag pkt => Sys2Proof.Machine.execFlag pkt s
  | .heartbeat pkt => Sys2Proof.Machine.execHeartbeat pkt s
  | .lead pkt => Sys2Proof.Machine.execLead pkt s
  | .key pkt => Sys2Proof.Machine.execKey pkt s
  | .faildecl pkt => Sys2Proof.Machine.execFaildecl pkt s
  | .fabHornTx val refill => Sys2Proof.Machine.execFabHornTx val refill s
  | .hornRxread val => Sys2Proof.Machine.execHornRxread val s
  | .fabRemap l val => Sys2Proof.Machine.execFabRemap l val s
  | .fabPdown k0 val => Sys2Proof.Machine.execFabPdown k0 val s
  | .echoFlit p e => Sys2Proof.Machine.execEchoFlit p e s
  | .rsLand n idx => Sys2Proof.Machine.execRsLand n idx s
  | .rsMem n idx => Sys2Proof.Machine.execRsMem n idx s
  | .contrib n pkt => Sys2Proof.Machine.execContrib n pkt s
  | .statcontrib n pkt => Sys2Proof.Machine.execStatcontrib n pkt s
  | .fetchreq m pkt => Sys2Proof.Machine.execFetchreq m pkt s
  | .fetchdata m pkt => Sys2Proof.Machine.execFetchdata m pkt s
  | .putPacket m pkt => Sys2Proof.Machine.execPutPacket m pkt s
  | .getreq m pkt => Sys2Proof.Machine.execGetreq m pkt s
  | .getdata m pkt => Sys2Proof.Machine.execGetdata m pkt s
  | .cross pkt => Sys2Proof.Machine.execCross pkt s
  | .buddy m pkt => Sys2Proof.Machine.execBuddy m pkt s
  | .audit pkt => Sys2Proof.Machine.execAudit pkt s
  | .ceStop n => Sys2Proof.Machine.execCeStop n s
  | .ceResume n => Sys2Proof.Machine.execCeResume n s
  | .frameGroupSend ch since => Sys2Proof.Machine.execFrameGroupSend ch since s
  | .data ch fr => Sys2Proof.Machine.execData ch fr s
  | .parity ch fr => Sys2Proof.Machine.execParity ch fr s
  | .ack ch fr => Sys2Proof.Machine.execAck ch fr s
  | .nack ch fr => Sys2Proof.Machine.execNack ch fr s
  | .echo ch fr => Sys2Proof.Machine.execEcho ch fr s
  | .echoreply ch fr rtt => Sys2Proof.Machine.execEchoreply ch fr rtt s
  | .hold ch fr => Sys2Proof.Machine.execHold ch fr s
  | .resume ch fr => Sys2Proof.Machine.execResume ch fr s
  | .done ch fr => Sys2Proof.Machine.execDone ch fr s
  | .join ch fr => Sys2Proof.Machine.execJoin ch fr s
  | .joinack ch fr => Sys2Proof.Machine.execJoinack ch fr s
  | .joindone ch fr => Sys2Proof.Machine.execJoindone ch fr s
  | .joinrestart ch fr => Sys2Proof.Machine.execJoinrestart ch fr s
  | .groupOverdue ch stream group => Sys2Proof.Machine.execGroupOverdue ch stream group s
  | .nackRepeat ch stream group => Sys2Proof.Machine.execNackRepeat ch stream group s
  | .ackTimer ch => Sys2Proof.Machine.execAckTimer ch s
  | .peerdeadExpiry ch => Sys2Proof.Machine.execPeerdeadExpiry ch s
  | .echoInterval ch => Sys2Proof.Machine.execEchoInterval ch s
  | .joinRepeat ch => Sys2Proof.Machine.execJoinRepeat ch s
  | .ivwaitRelease ch => Sys2Proof.Machine.execIvwaitRelease ch s
  | .fryChKey ch val => Sys2Proof.Machine.execFryChKey ch val s
  | .chStop ch => Sys2Proof.Machine.execChStop ch s
  | .chResume ch => Sys2Proof.Machine.execChResume ch s
  | .chJoin ch => Sys2Proof.Machine.execChJoin ch s
  | .txtail ch val => Sys2Proof.Machine.execTxtail ch val s
  | .rxtail ch val => Sys2Proof.Machine.execRxtail ch val s
  | .streamStart ch => Sys2Proof.Machine.execStreamStart ch s
  | .gmacSelfTest x ok => Sys2Proof.Machine.execGmacSelfTest x ok s
  | .registerWrite req addr size val => Sys2Proof.Machine.execRegisterWrite req addr size val s
  | .rcRead req addr size => Sys2Proof.Machine.execRcRead req addr size s
  | .blogRead req slot => Sys2Proof.Machine.execBlogRead req slot s
  | .apply => Sys2Proof.Machine.execApply s
  | .forceturn b => Sys2Proof.Machine.execForceturn b s
  | .bndEnd b => Sys2Proof.Machine.execBndEnd b s
  | .imageLoad val => Sys2Proof.Machine.execImageLoad val s
  | .imageCheckDone params => Sys2Proof.Machine.execImageCheckDone params s
  | .rebindRequest val => Sys2Proof.Machine.execRebindRequest val s
  | .rebindDrainDone => Sys2Proof.Machine.execRebindDrainDone s
  | .rebindTimeout final => Sys2Proof.Machine.execRebindTimeout final s
  | .heartbeatSend => Sys2Proof.Machine.execHeartbeatSend s
  | .hbdeadExpiry dir => Sys2Proof.Machine.execHbdeadExpiry dir s
  | .leadRound => Sys2Proof.Machine.execLeadRound s
  | .wardenClaim => Sys2Proof.Machine.execWardenClaim s
  | .confirmExpiry phys => Sys2Proof.Machine.execConfirmExpiry phys s
  | .fstopmaxExpiry => Sys2Proof.Machine.execFstopmaxExpiry s
  | .prepare term log relief => Sys2Proof.Machine.execPrepare term log relief s
  | .go term gen log relief dead => Sys2Proof.Machine.execGo term gen log relief dead s
  | .run term => Sys2Proof.Machine.execRun term s
  | .checkpointGeneration b cap => Sys2Proof.Machine.execCheckpointGeneration b cap s
  | .generationComplete b => Sys2Proof.Machine.execGenerationComplete b s
  | .gendone b gen => Sys2Proof.Machine.execGendone b gen s
  | .checkpointStore b => Sys2Proof.Machine.execCheckpointStore b s
  | .replicaAudit b va owner again => Sys2Proof.Machine.execReplicaAudit b va owner again s
  | .leaseRenewal acked => Sys2Proof.Machine.execLeaseRenewal acked s
  | .leaseClaim half => Sys2Proof.Machine.execLeaseClaim half s
  | .yield => Sys2Proof.Machine.execYield s
  | .bootVerify half => Sys2Proof.Machine.execBootVerify half s
  | .followerOutcome outcome digest => Sys2Proof.Machine.execFollowerOutcome outcome digest s
  | .arbCmd val => Sys2Proof.Machine.execArbCmd val s
  | .claim val => Sys2Proof.Machine.execClaim val s
  | .setkek val => Sys2Proof.Machine.execSetkek val s
  | .release val => Sys2Proof.Machine.execRelease val s
  | .berthLoad val => Sys2Proof.Machine.execBerthLoad val s
  | .berthClear val => Sys2Proof.Machine.execBerthClear val s
  | .secCqTail val => Sys2Proof.Machine.execSecCqTail val s
  | .gen => Sys2Proof.Machine.execGen s
  | .verify => Sys2Proof.Machine.execVerify s
  | .getVersion t req => Sys2Proof.Machine.execGetVersion t req s
  | .getCapabilities t req => Sys2Proof.Machine.execGetCapabilities t req s
  | .negotiateAlgorithms t req => Sys2Proof.Machine.execNegotiateAlgorithms t req s
  | .getDigests t req => Sys2Proof.Machine.execGetDigests t req s
  | .getCertificate t req => Sys2Proof.Machine.execGetCertificate t req s
  | .challenge t req => Sys2Proof.Machine.execChallenge t req s
  | .getMeasurements t req => Sys2Proof.Machine.execGetMeasurements t req s
  | .lnqGetSlhcert t req => Sys2Proof.Machine.execLnqGetSlhcert t req s
  | .debugChallenge sig => Sys2Proof.Machine.execDebugChallenge sig s
  | .rngRead => Sys2Proof.Machine.execRngRead s
  | .pwrOkRise straps => Sys2Proof.Machine.execPwrOkRise straps s
  | .pwrOkFall => Sys2Proof.Machine.execPwrOkFall s
  | .perstN => Sys2Proof.Machine.execPerstN s
  | .functionLevelReset => Sys2Proof.Machine.execFunctionLevelReset s
  | .journalReplay => Sys2Proof.Machine.execJournalReplay s
  | .pilotDeclare => Sys2Proof.Machine.execPilotDeclare s
  | .fullServiceDeclare => Sys2Proof.Machine.execFullServiceDeclare s
  | .bringupLimit cause => Sys2Proof.Machine.execBringupLimit cause s
  | .jnlHlw val => Sys2Proof.Machine.execJnlHlw val s
  | .jnlAppend val => Sys2Proof.Machine.execJnlAppend val s
  | .recordAcknowledged ok => Sys2Proof.Machine.execRecordAcknowledged ok s
  | .compact => Sys2Proof.Machine.execCompact s
  | .compactionDone ok => Sys2Proof.Machine.execCompactionDone ok s
  | .erase val => Sys2Proof.Machine.execErase val s
  | .program val => Sys2Proof.Machine.execProgram val s
  | .fwCmdDone => Sys2Proof.Machine.execFwCmdDone s
  | .sqDoorbell q val => Sys2Proof.Machine.execSqDoorbell q val s
  | .cqDoorbell q val => Sys2Proof.Machine.execCqDoorbell q val s
  | .qctrlWrite q val => Sys2Proof.Machine.execQctrlWrite q val s
  | .commandFetch q entry => Sys2Proof.Machine.execCommandFetch q entry s
  | .hostNop q => Sys2Proof.Machine.execHostNop q s
  | .hostcopy q => Sys2Proof.Machine.execHostcopy q s
  | .fwmsg q answer => Sys2Proof.Machine.execFwmsg q answer s
  | .hostLoad q => Sys2Proof.Machine.execHostLoad q s
  | .hostRebind q => Sys2Proof.Machine.execHostRebind q s
  | .hostStart q join => Sys2Proof.Machine.execHostStart q join s
  | .hostStop q => Sys2Proof.Machine.execHostStop q s
  | .hostForceturn q => Sys2Proof.Machine.execHostForceturn q s
  | .hostApply q => Sys2Proof.Machine.execHostApply q s
  | .hostEnd q => Sys2Proof.Machine.execHostEnd q s
  | .rewind q => Sys2Proof.Machine.execRewind q s
  | .drain q => Sys2Proof.Machine.execDrain q s
  | .completionTimeout q => Sys2Proof.Machine.execCompletionTimeout q s
  | .fwmsgTimeout q => Sys2Proof.Machine.execFwmsgTimeout q s
  | .rewindTimeout q => Sys2Proof.Machine.execRewindTimeout q s
  | .cntClear set => Sys2Proof.Machine.execCntClear set s
  | .smpRead c val => Sys2Proof.Machine.execSmpRead c val s
  | .telemetryLoop r => Sys2Proof.Machine.execTelemetryLoop r s
  | .droop q => Sys2Proof.Machine.execDroop q s
  | .droopStretchEnd q => Sys2Proof.Machine.execDroopStretchEnd q s
  | .avsTimeout => Sys2Proof.Machine.execAvsTimeout s
  | .readTemperature1 => Sys2Proof.Machine.execReadTemperature1 s
  | .readTemperature2 => Sys2Proof.Machine.execReadTemperature2 s
  | .readPin => Sys2Proof.Machine.execReadPin s
  | .statusWord => Sys2Proof.Machine.execStatusWord s
  | .pmbusInvalidCommand => Sys2Proof.Machine.execPmbusInvalidCommand s
  | .pldmRequest sensor => Sys2Proof.Machine.execPldmRequest sensor s
  | .clkClfreq c val => Sys2Proof.Machine.execClkClfreq c val s
  | .clkGate hi val => Sys2Proof.Machine.execClkGate hi val s
  | .refclkLoss r => Sys2Proof.Machine.execRefclkLoss r s
  | .refclkReturn r => Sys2Proof.Machine.execRefclkReturn r s
  | .thermtrip half => Sys2Proof.Machine.execThermtrip half s
  | .outerPortLinkDown x => Sys2Proof.Machine.execOuterPortLinkDown x s
  | .outerPortTrained x => Sys2Proof.Machine.execOuterPortTrained x s
  | .regionEraseDone => Sys2Proof.Machine.execRegionEraseDone s
  | .avsbusAcknowledge => Sys2Proof.Machine.execAvsbusAcknowledge s
  | .postedWriteTakesEffect blk => Sys2Proof.Machine.execPostedWriteTakesEffect blk s
  | .deviceReadCompletion q data poison => Sys2Proof.Machine.execDeviceReadCompletion q data poison s
  | .rngHealthTestFailure => Sys2Proof.Machine.execRngHealthTestFailure s
  | .counterWrap set => Sys2Proof.Machine.execCounterWrap set s
  | .pllLossOfLock k0 => Sys2Proof.Machine.execPllLossOfLock k0 s

end Sys2Proof.Machine
end

