-- ==== Sys2Proof/WellFormed.lean ====
section
/-!
DEFINITION. Sys2Proof/WellFormed.lean: what the spec asks of a command's operands, check by check. The meanings are
defined on every operand; a command that fails a check is one that no sender of the spec sends.
-/

namespace Sys2Proof

/-- The packet of a command and the type code of its row (R253). -/
def Instr.packet : Instr → Option (Packet × Nat)
  | .vote p => some (p, 0x01)
  | .decision p => some (p, 0x02)
  | .dquery p => some (p, 0x03)
  | .ping p => some (p, 0x04)
  | .pong p _ => some (p, 0x05)
  | .flag p => some (p, 0x06)
  | .heartbeat p => some (p, 0x07)
  | .lead p => some (p, 0x08)
  | .key p => some (p, 0x09)
  | .faildecl p => some (p, 0x0A)
  | .contrib _ p => some (p, 0x10)
  | .fetchreq _ p => some (p, 0x11)
  | .fetchdata _ p => some (p, 0x12)
  | .statcontrib _ p => some (p, 0x18)
  | .putPacket _ p => some (p, 0x19)
  | .getreq _ p => some (p, 0x1A)
  | .getdata _ p => some (p, 0x1B)
  | .cross p => some (p, 0x1C)
  | .buddy _ p => some (p, 0x20)
  | .audit p => some (p, 0x21)
  | _ => none

/-- The frame of a command and the type code of its row (R280). -/
def Instr.frame : Instr → Option (Frame × Nat)
  | .data _ f => some (f, 1)
  | .parity _ f => some (f, 2)
  | .ack _ f => some (f, 3)
  | .nack _ f => some (f, 4)
  | .echo _ f => some (f, 5)
  | .echoreply _ f _ => some (f, 6)
  | .hold _ f => some (f, 7)
  | .resume _ f => some (f, 8)
  | .done _ f => some (f, 9)
  | .join _ f => some (f, 10)
  | .joinack _ f => some (f, 11)
  | .joindone _ f => some (f, 12)
  | .joinrestart _ f => some (f, 13)
  | _ => none

/-- A packet carries the type of its row and at most 4,096 bytes (R252, R253). -/
def Instr.wfPacket (i : Instr) : Bool :=
  match i.packet with
  | some (p, t) => p.typ.toNat == t && decide (p.payload.length ≤ 4096)
  | none => true

/-- A frame carries the type of its row (R279, R280). -/
def Instr.wfFrame (i : Instr) : Bool :=
  match i.frame with
  | some (f, t) => f.hdr.toNat / 2 ^ 4 % 2 ^ 4 == t
  | none => true

/-- A write of a sector lies within its 64 bytes (R202). -/
def Instr.wfSector : Instr → Bool
  | .sectorWrite _ off d _ => decide (off + d.length ≤ 64) && !d.isEmpty
  | _ => true

/-- An upset names symbols of the stored codeword, 0 to 71 (R201). -/
def Instr.wfUpset : Instr → Bool
  | .sectorRead _ l => l.all fun p => decide (p.1 < 72)
  | _ => true

/-- A command fetched from a ring has 64 bytes (R392, R395). -/
def Instr.wfCommand : Instr → Bool
  | .commandFetch _ (some d) => d.length == 64
  | _ => true

/-- A reading of the telemetry controller covers every sensor, layer and rail group (R413, R414). -/
def Instr.wfReadings : Instr → Bool
  | .telemetryLoop r => r.temps.length == 128 && r.layers.length == 16 && (r.layers.all fun l => l.length == 8) &&
      r.rails.length == 11
  | _ => true

/-- An access to BAR0 has 4 or 8 bytes (R301). Other sizes are bus errors, which the meanings describe. -/
def Instr.wfAccess : Instr → Bool
  | .registerWrite _ _ n _ => n == 4 || n == 8
  | .rcRead _ _ n => n == 4 || n == 8
  | _ => true

/-- A cause of a failed bring-up is one of R377. -/
def Instr.wfCause : Instr → Bool
  | .bringupLimit c => decide (1 ≤ c) && decide (c ≤ 6)
  | _ => true

/-- The checks together. -/
def Instr.wf (i : Instr) : Bool :=
  i.wfPacket && i.wfFrame && i.wfSector && i.wfUpset && i.wfCommand && i.wfReadings && i.wfAccess && i.wfCause

end Sys2Proof
end

