-- ==== Sys2Proof/Safety.lean ====
section
/-!
DEFINITION. Sys2Proof/Safety.lean: what holds of every state of the block that a step can leave, in the terms the
statements use.
-/

namespace Sys2Proof.Machine

/-- Every register reads 0 in its unimplemented bits (R10). -/
def State.reservedZero (s : State) : Prop := ∀ n i j, s.rd n i j &&& ~~~ regMask n = 0

/-- GLB_ID reads its fixed value (R401). -/
def State.idFixed (s : State) : Prop := ∀ i j, s.rd .GLB_ID i j = regDefault ⟨.GLB_ID, i, j⟩

/-- The register file lists its entries in one canonical form, and so do the pending values. -/
def State.regsCanonical (s : State) : Prop :=
  SMap.wf RegKey.rank regDefault s.reg ∧ SMap.wf RegKey.rank (fun _ => none) s.pend

/-- The flash holds bytes of its 128 MiB alone, in canonical form (R379). -/
def State.flashOk (s : State) : Prop := Tab.wf 0xFF s.flash ∧ ∀ e ∈ s.flash, e.1 < 0x8000000

/-- The invariant of the block: the stack, the registers and the flash keep their forms, reserved bits read 0 and the
identity register never changes. -/
structure State.Inv (s : State) : Prop where
  mem      : Memory.wf s.mem = true
  regs     : s.regsCanonical
  reserved : s.reservedZero
  ident    : s.idFixed
  flash    : s.flashOk

/-! ### What statements say of a command -/

/-- A command answers a next state, of which a property holds. -/
def Completes (i : Instr) (s : State) (P : State → Prop) : Prop := ∃ t, exec i s = .next t ∧ P t

/-- The parts of the state. -/
inductive Part where
  | reg | pend | mem | mmeta | err | pilotSecs | cl | codec | xlt | invAll | mov | bnd | lu | su | port | vote | ce | store
  | hornWait | chan | keys | jnl | flash | await | load | rb | saves | hq | turns | boot | pins | sec | tel | fw
  | digests | fseq | lseq | unread | epochs | draws | out | pending
deriving DecidableEq, Repr

/-- A part of the state reads as before: every register and every byte of memory where the part is theirs. -/
def Part.Same : Part → State → State → Prop
  | .reg, s, t => ∀ n i j, t.rd n i j = s.rd n i j
  | .pend, s, t => t.pend = s.pend
  | .mem, s, t => ∀ a, t.byte a = s.byte a
  | .mmeta, s, t => t.mmeta = s.mmeta
  | .err, s, t => t.err = s.err
  | .pilotSecs, s, t => t.pilotSecs = s.pilotSecs
  | .cl, s, t => ∀ c, t.cluster c = s.cluster c
  | .codec, s, t => ∀ e, t.cdc e = s.cdc e
  | .xlt, s, t => ∀ x, t.cache x = s.cache x
  | .invAll, s, t => t.invAll = s.invAll
  | .mov, s, t => ∀ m, t.mover m = s.mover m
  | .bnd, s, t => ∀ b, t.binding b = s.binding b
  | .lu, s, t => ∀ u, t.landing u = s.landing u
  | .su, s, t => ∀ u, t.solver u = s.solver u
  | .port, s, t => ∀ p, t.link p = s.link p
  | .vote, s, t => ∀ b, t.votes b = s.votes b
  | .ce, s, t => ∀ n, t.engine n = s.engine n
  | .store, s, t => t.store = s.store
  | .hornWait, s, t => t.hornWait = s.hornWait
  | .chan, s, t => ∀ c, t.ch c = s.ch c
  | .keys, s, t => t.keys = s.keys
  | .jnl, s, t => t.jnl = s.jnl
  | .flash, s, t => t.flash = s.flash
  | .await, s, t => t.await = s.await
  | .load, s, t => t.load = s.load
  | .rb, s, t => t.rb = s.rb
  | .saves, s, t => t.saves = s.saves
  | .hq, s, t => ∀ q, t.hqueue q = s.hqueue q
  | .turns, s, t => t.turns = s.turns
  | .boot, s, t => t.boot = s.boot
  | .pins, s, t => t.pins = s.pins
  | .sec, s, t => t.sec = s.sec
  | .tel, s, t => t.tel = s.tel
  | .fw, s, t => t.fw = s.fw
  | .digests, s, t => t.digests = s.digests
  | .fseq, s, t => t.fseq = s.fseq
  | .lseq, s, t => t.lseq = s.lseq
  | .unread, s, t => t.unread = s.unread
  | .epochs, s, t => t.epochs = s.epochs
  | .draws, s, t => t.draws = s.draws
  | .out, s, t => t.out = s.out
  | .pending, s, t => t.pending = s.pending

/-- A next state of a command differs in the listed parts alone. -/
def Touches (i : Instr) (l : List Part) : Prop := ∀ s t, exec i s = .next t → ∀ p, p ∉ l → p.Same s t

/-- A next state of a command reads as before in every register whose name is not listed. -/
def WritesRegs (i : Instr) (l : List RegName) : Prop :=
  ∀ s t, exec i s = .next t → ∀ n, n ∉ l → ∀ a b, t.rd n a b = s.rd n a b

/-- A next state of a command reads as before in every cluster but one. -/
def OtherClusters (i : Instr) (c : Nat) : Prop :=
  ∀ s t, exec i s = .next t → ∀ d, d ≠ c → t.cluster d = s.cluster d

/-- A program answers a value from one state and leaves another. -/
def Reads {ε α : Type} (p : Prog (Except ε α)) (s : State) (x : α) (t : State) : Prop := p.run s = (.ok x, t)

/-- A packet of a type arrives whole: its class permits it and its check passes (R252, R253). -/
structure Arrives (p : Packet) (typ : Nat) : Prop where
  legal : typeOk p.cls.toNat p.typ.toNat = true
  kind  : p.typ.toNat = typ
  short : p.payload.length ≤ 4096
  whole : p.pcrcOk = true

/-- A class 0 message of a type arrives whole at an enabled horn engine (R259, R273). -/
structure HornArrives (s : State) (p : Packet) (typ : Nat) : Prop where
  on    : s.hornOn = true
  small : p.payload.length ≤ 224
  whole : Arrives p typ

/-- The state once the horn engine has taken a message: the device before is told, and the message is counted (R260). -/
def hornTaken (s : State) (p : Packet) : State := (((hornReport p true).seq (count (setPort 0) 0x75)).run s).2

/-- A message for firmware enters the receive ring where nothing waits and the ring has room, and waits behind the
others where the ring is full (R258, R273). -/
def Delivered (s : State) (p : Packet) (t : State) : Prop :=
  let h := s.rdF .FAB_HORN_RXHEAD Fld.FAB_HORN_RXHEAD_HEAD
  if s.ringRoom then s.hornWait = [] → t.hornWait = [] ∧ Out.hornMessage h ∈ t.out ∧
    t.rdF .FAB_HORN_RXHEAD Fld.FAB_HORN_RXHEAD_HEAD = (h + 1) % 128
  else t.hornWait = s.hornWait ++ [p] ∧ t.rdF .FAB_HORN_RXHEAD Fld.FAB_HORN_RXHEAD_HEAD = h

/-! ### Frames of the Ferry Engine -/

/-- The state once a frame that its channel takes has been counted. -/
def frameCounted (s : State) (ch : Nat) (fr : Frame) : State :=
  ((Prog.all [count (setFerry fr.port) 0x81 1 (chTag ch), count (setFerry 2) 0x81 1 (chTag ch)]).run s).2

/-- A frame reaches a channel: its port is UP and the engine on, the tests of R276 pass, and the channel is the one it
matches. -/
structure FrameReaches (s : State) (ch : Nat) (fr : Frame) : Prop where
  up      : s.outerUp fr.port = true
  on      : s.fryOn = true
  size    : 130 + 4 * fr.tags + fr.payload.length ≤ 9216
  tags    : fr.tags ≤ 1
  whole   : fr.short = false
  fcs     : fr.fcsOk = true
  mine    : fr.dst.toNat = (s.rd .FRY_IPHI fr.port).toNat * 2 ^ 64 + (s.rd .FRY_IPLO fr.port).toNat
  plain   : fr.ext = false
  udp     : fr.dport.toNat = s.rdF .FRY_CTRL Fld.FRY_CTRL_UDPPORT
  sum     : fr.sumOk = true
  length  : lengthOk fr = true
  channel : chanMatch s fr = some ch

/-- A frame of a type reaches a channel that takes the type, and its check value holds under a key that the channel
holds (R280, R282, R293). -/
structure FrameVerified (s : State) (ch typ : Nat) (fr : Frame) : Prop where
  reach   : FrameReaches s ch fr
  version : fhVer fr.hdr = 1
  suits   : typeSuits (s.chKind ch) (fhType fr.hdr) = true
  kind    : fhType fr.hdr = typ
  signed  : ∃ k, s.epochKey ch (fhEpoch fr.hdr) = some k ∧
    icvOf (s.berthKey k.berth) (bits 383 0 fr.hdr.toNat) fr.payload = fhIcv fr.hdr

/-- A verified frame arrives at a channel that is not PEERDEAD (R295). -/
structure FrameArrives (s : State) (ch typ : Nat) (fr : Frame) : Prop where
  verified : FrameVerified s ch typ fr
  alive    : s.chState ch ≠ 5

/-- A channel can sign a control frame now: it is enabled, its port is UP, the engine on, and its key is no pair of the
failed device's, with its counter in a block that is on record (R284, R293, R339). -/
def ctlSigns (s : State) (ch : Nat) : Bool :=
  s.fryOn && s.outerUp (s.chPort ch) && s.chState ch != 0 && match s.ctlKey ch with
    | some (_, k) => !s.fw.dead.contains (s.chChan ch, k.epoch) && decide (signable s ch k = none)
    | none => false

/-- A control frame has left by the channel's port, where the channel could sign it. -/
def CtlSent (s : State) (ch typ stream group : Nat) (body : List Byte) (t : State) : Prop :=
  ctlSigns s ch = true → ∃ f, Out.frame f ∈ t.out ∧ f.port = s.chPort ch ∧ f.payload = body ∧ fhType f.hdr = typ % 16 ∧
    fhStream f.hdr = stream % 2 ^ 32 ∧ fhGroup f.hdr = group % 2 ^ 32

/-- The state once the buckets of a channel's port have filled for a time (R278). -/
def bucketsFilled (s : State) (ch since : Nat) : State := ((fillBuckets (s.chPort ch) since).run s).2

/-- Frames under a number have left by a channel's port in a stream's group, each with its payload and type, and the
stream keeps them all (R278, R287). -/
def GroupSent (s : State) (ch : Nat) (l : List Unsent) (x : TxStream) (t : State) : Prop :=
  (∀ y ∈ l, ∃ f, Out.frame f ∈ t.out ∧ f.port = s.chPort ch ∧ f.payload = y.payload ∧ fhType f.hdr = y.desc.typ % 16) ∧
  ∃ y ∈ (t.ch ch).tx, y.num = x.num ∧ y.rest = [] ∧ y.kept.length = x.kept.length + l.length

/-- A channel can sign a number of frames of a stream one after another (R284, R293, R339). -/
def streamSigns (s : State) (ch : Nat) (x : TxStream) (n : Nat) : Bool :=
  match s.streamKey ch x.num x.order with
  | some (_, k) => !s.fw.dead.contains (s.chChan ch, k.epoch) &&
      (List.range n).all fun i => decide (signable s ch { k with ctr := k.ctr + i } = none)
  | none => false

/-! ### The register aperture -/

/-- An access is in the bus log's slot at the head, unread, and the head has moved on (R303). -/
def Logged (s : State) (req : Requester) (addr kind : Nat) (t : State) : Prop :=
  let h := s.rdF .BND_BLOGHEAD Fld.BND_BLOGHEAD_HEAD
  t.rd .BND_BLOG h = BitVec.ofNat 64 (addr % 2 ^ 26 + reqCode req * 2 ^ 32 + kind * 2 ^ 40 + (s.lseq + 1) % 2 ^ 16 * 2 ^ 48) &&&
    regMask .BND_BLOG ∧
  Tab.at false t.unread h = true ∧ t.rdF .BND_BLOGHEAD Fld.BND_BLOGHEAD_HEAD = (h + 1) % 16

/-- A posted write of a block was dropped: another is in progress (R310). -/
def WriteLost (b : PwBlock) (t : State) : Prop := t.rdF (lostBit b).reg (lostBit b).fld (lostBit b).idx = 1

/-- The state once a posted write of a block has been accepted and its register written. -/
def accepted (b : PwBlock) (r : RegName) (val : Word) (s : State) : State :=
  (((setBusy b true).seq (wr r val)).run s).2

/-! ### The host interface -/

/-- Where a queue's next completion goes. -/
def completionAt (s : State) (q : Nat) : Nat :=
  (s.rd .HCI_CQ_BASE q).toNat / 4096 * 4096 + 16 * s.rdF .HCI_QSTAT Fld.HCI_QSTAT_CQTAIL q

/-- The command of a queue has completed: the queue holds none, and its completion has been written to host memory,
unless a reset of the interface lost it or the queue is firmware's (R391, R394, R396). -/
def Completed (s : State) (q status detail result : Nat) (t : State) : Prop :=
  (t.hqueue q).cmd = none ∧ ∀ c, (s.hqueue q).cmd = some c → (s.hqueue q).lost = false → q < 16 →
    Out.hostWrite (completionAt s q) (completionBytes c.cid q status detail
      (s.rdF .HCI_QSTAT Fld.HCI_QSTAT_SQHEAD q) result (s.hqueue q).phase) ∈ t.out

/-! ### A word or instruction that issues -/

/-- What a sequencer's fetch of its next word leaves, and whether it answers (R75, R228). -/
def seqFetch (s : State) (c : Nat) : Except Flt (List Byte) × State :=
  (vget (seqUnit s c) (s.cluster c).ipc.toNat 16 .exec).run s

/-- A sequencer takes a word of an operation as its next: it runs, nothing holds it back, no decision is open, and the
fetch of the word answers (R75, R86). -/
structure SeqIssues (s : State) (c : Nat) (op : Nat) (w : BitVec 128) : Prop where
  ready : seqReady s c = true
  code  : wOp w = op
  sure  : (s.cluster c).decs = []
  fetch : ∃ d, (seqFetch s c).1 = .ok d

/-- What a vector engine's fetch of its next instruction leaves, and whether it answers (R94, R228). -/
def vecFetch (s : State) (c : Nat) : Except Flt (List Byte) × State :=
  (vget (vecUnit s c) (s.cluster c).vpc.toNat 8 .exec).run s

/-- A vector engine takes an instruction of an operation as its next. -/
structure VecIssues (s : State) (c : Nat) (op : Nat) (w : BitVec 64) : Prop where
  ready : vecReady s c = true
  code  : vOp w = op
  fetch : ∃ d, (vecFetch s c).1 = .ok d

/-- The elementwise instructions of one word, with what each computes (R64 to R68, R95); CVT apart. -/
def elementwiseRows (c : Fin 32) (w : BitVec 64) : List (Instr × VOp) :=
  [(.add c w, binOp 0x01 true fun f rm a b => f.add rm a b), (.sub c w, binOp 0x02 true fun f rm a b => f.sub rm a b),
   (.mul c w, binOp 0x03 true fun f rm a b => f.mul rm a b),
   (.fma c w, ⟨0x04, 3, fun _ => true, srcB, srcB, extNone, fun w rm l => (fmtTy w).fma rm (l.getD 0 0) (l.getD 1 0) (l.getD 2 0)⟩),
   (.div c w, binOp 0x05 true fun f rm a b => f.div rm a b), (.sqrt c w, unOp 0x06 true fun f rm a => f.sqrt rm a),
   (.rcp c w, unOp 0x07 true fun f rm a => f.rcp rm a), (.rsq c w, unOp 0x08 true fun f rm a => f.rsq rm a),
   (.max c w, binOp 0x09 false fun f _ a b => f.max a b), (.min c w, binOp 0x0A false fun f _ a b => f.min a b),
   (.neg c w, unOp 0x0B false fun f _ a => f.neg a), (.abs c w, unOp 0x0C false fun f _ a => f.abs a),
   (.exp c w, fnOp 0x10 .exp), (.log c w, fnOp 0x11 .log), (.tanh c w, fnOp 0x12 .tanh), (.sigm c w, fnOp 0x13 .sigm),
   (.erf c w, fnOp 0x14 .erf),
   (.cvti c w, ⟨0x22, 1, fun _ => true, srcB, fun _ => some 7, extNone, fun w rm l => (fmtTy w).toI32 rm (l.getD 0 0)⟩),
   (.icvt c w, ⟨0x23, 1, fun w => vExt w == 0, fun w => if vTy w = 2 then some 7 else none,
     fun w => if vExt w = 0 then some 0 else if vExt w = 6 then some 6 else none, fun w => vExt w / 16 == 0,
     fun w rm l => (if vExt w = 6 then b64 else b32).ofI32 rm (l.getD 0 0)⟩)]

/-- The rounding modes that draw nothing, by their code (R52). -/
def plainRm (x : Nat) : Rm :=
  match x with
  | 1 => .rtz
  | 2 => .rdn
  | 3 => .rup
  | _ => .rne

end Sys2Proof.Machine
end

