-- ==== Sys2Proof/Certificates/Slice0/Obligations.lean ====
section
/-!
DEFINITION. Sys2Proof/Certificates/Slice0/Obligations.lean: the statements for the provers. Each says in its docstring
which rules it rests on. Where a statement names the state after a fetch, `(seqFetch s c).2` or `(vecFetch s c).2`, it
is the state before with what the translation of the fetch has cached and counted.
-/

open Sys2Proof Sys2Proof.Machine

/-! ### The machine as a whole -/

/-- One step of the block takes the command at the front of its queue and is that command's effect on the state with
the queue's rest. -/
def Obligations.StepRunsFrontCommand : Prop :=
  ∀ (c : Instr) (s : State), step { s with pending := c :: s.pending } = exec c s

/-- An empty queue idles: the step answers the state unchanged (the model's choice, log 1: the spec gives the block no
queue). No command touches the queue of waiting commands: what waits behind it waits still. -/
def Obligations.QueueIsFirstInFirstOut : Prop :=
  (∀ s : State, s.pending = [] → step s = .next s) ∧
  (∀ (c : Instr) (s t : State), exec c s = .next t → t.pending = s.pending)

/-- The state after reset keeps the invariant of the block. -/
def Obligations.ResetKeepsInvariant : Prop := State.reset.Inv

/-- Every step keeps the invariant of the block: the stack and the flash keep their canonical forms, no reserved bit of
a register reads 1 (R10), and the identity register reads its fixed value (R401). -/
def Obligations.EveryStepKeepsInvariant : Prop := ∀ s t : State, s.Inv → step s = .next t → t.Inv

/-! ### Schedule words -/

/-- The schedule words that read and write no tensor, where the sequencer takes the word with no decision open (R75, R76,
R82, R83, R86, R445): NOP goes on to the next word, 16 bytes on. TSIG adds COUNT to its token, up to 65535. TWAIT goes
on where its token holds COUNT, consuming it unless NOCON, and waits otherwise. SEG records its number and phase in
ARY_STATUS and, under EVT, raises the segment event. LSET sets a loop counter. END leaves the sequencer in IDLE, or ends
the run of a lent one. DLOAD puts the 64 bytes it reads into its slot, which is valid where they pass the check of
R445.
Where the spec leaves a point open the model's choice of log 59 decides it. -/
def Obligations.PlainScheduleWords : Prop :=
  ∀ (c : Fin 32) (w : BitVec 128) (s : State),
    let k := s.cluster c
    (SeqIssues s c opNop w → wf 121 0 w = 0 → Completes (.nop c w) s fun t =>
      (t.cluster c).ipc = k.ipc + 16 ∧ (t.cluster c).log = ⟨k.ipc, w⟩ :: k.log) ∧
    (SeqIssues s c opTsig w → wf 99 0 w = 0 → wCount w ≠ 0 → Completes (.tsig c w) s fun t =>
      (t.cluster c).ipc = k.ipc + 16 ∧ tokenCount t c (wF6 w) = min (tokenCount s c (wF6 w) + wCount w) 65535) ∧
    (SeqIssues s c opTwait w → wf 98 0 w = 0 → Completes (.twait c w) s fun t =>
      if wCount w ≤ tokenCount s c (wF6 w) then
        (t.cluster c).ipc = k.ipc + 16 ∧ (t.cluster c).twait = none ∧
        tokenCount t c (wF6 w) =
          (if wNocon w then tokenCount s c (wF6 w) else (tokenCount s c (wF6 w) - wCount w) % 65536)
      else
        (t.cluster c).ipc = k.ipc ∧ (t.cluster c).twait = some w ∧ tokenCount t c (wF6 w) = tokenCount s c (wF6 w) ∧
        (seqState s c = 1 → seqState t c = 2)) ∧
    (SeqIssues s c opSeg w → wf 100 0 w = 0 → Completes (.seg c w) s fun t =>
      (t.cluster c).ipc = k.ipc + 16 ∧ t.rdF .ARY_STATUS Fld.ARY_STATUS_LASTSEG c = wf 121 106 w ∧
      t.rdF .ARY_STATUS Fld.ARY_STATUS_PHASE c = wf 105 103 w ∧ (t.cluster c).dead = (wf 102 102 w == 1) ∧
      (wf 101 101 w = 1 → Out.segment c (wf 121 106 w) ∈ t.out)) ∧
    (SeqIssues s c opLset w → wf 121 114 w = 0 → wf 79 0 w = 0 → Completes (.lset c w) s fun t =>
      (t.cluster c).ipc = k.ipc + 16 ∧ (t.cluster c).loop (wf 113 112 w) = BitVec.ofNat 32 (wf 111 80 w)) ∧
    (SeqIssues s c opEnd w → wf 121 0 w = 0 → Completes (.endWord c w) s fun t =>
      (t.cluster c).ipc = k.ipc + 16 ∧ (seqState s c = 1 → seqState t c = 0) ∧
      (seqState s c = 7 → seqState t c = 7 ∧ (t.cluster c).lentRun = false)) ∧
    (SeqIssues s c opDload w → wf 91 0 w = 0 → ∀ d,
      ((vget (seqUnit s c) (((s.rd .ARY_DTAB_BASE c).toNat + 64 * wIndex w) % 2 ^ 48) 64).run (seqFetch s c).2).1 = .ok d →
      Completes (.dload c w) s fun t =>
        (t.cluster c).ipc = k.ipc + 16 ∧ Tab.at none (t.cluster c).slots (wF6 w) =
          (if descOk (BitVec.ofNat 512 (leNat d)) then some (BitVec.ofNat 512 (leNat d)) else none))

/-- BRF, where the sequencer takes the word with no decision open (R82, R85): COND 0 goes to the target; COND 1 counts a
loop counter down and goes to the target unless it has reached 0; COND 2 goes to the target where the token holds IMM
and consumes none; COND 3 opens a step decision on the step in progress and goes to the target.
Where the spec leaves a point open the model's choice of log 59 decides it. -/
def Obligations.BranchFollowsItsCondition : Prop :=
  ∀ (c : Fin 32) (w : BitVec 128) (s : State), SeqIssues s c opBrf w → brfOk w = true →
    let k := s.cluster c
    Completes (.brf c w) s fun t =>
      (wCond w = 0 → (t.cluster c).ipc = branchTo k w ∧ (t.cluster c).decs = []) ∧
      (wCond w = 1 → (t.cluster c).loop (wArg w) = k.loop (wArg w) - 1 ∧ (t.cluster c).decs = [] ∧
        (t.cluster c).ipc = (if k.loop (wArg w) = 1 then k.ipc + 16 else branchTo k w)) ∧
      (wCond w = 2 → (t.cluster c).decs = [] ∧ tokenCount t c (wArg w) = tokenCount s c (wArg w) ∧
        (t.cluster c).ipc = (if wImm w ≤ tokenCount s c (wArg w) then branchTo k w else k.ipc + 16)) ∧
      (wCond w = 3 → (t.cluster c).ipc = branchTo k w ∧ ∃ d, (t.cluster c).decs = [d] ∧ d.addr = k.ipc ∧
        d.kind = .step (s.binding ((s.ownerCl c).getD 0)).step none)

/-- The schedule words that load and multiply, where the sequencer takes a legal word with no decision open (R44, R46,
R78, R80, R81, R86, R87, R444): a TLOAD whose tensor reads well fills the operand buffers of the arrays that AMASK
selects, leaves the others, and signals its token under SIGEN; MMA, MMAT and STAT leave the accumulators of every
array that AMASK does not select, save the accumulators before the word in the issue shadow, and leave in the arrays
selected what their products accumulate to.
Where the spec leaves a point open the model's choice of log 10 and 59 decides it. -/
def Obligations.LoadAndMultiplyWords : Prop :=
  ∀ (c : Fin 32) (w : BitVec 128) (s : State),
    let k := s.cluster c
    let s₁ := (seqFetch s c).2
    (∀ (desc : BitVec 512) (k' : Cluster) (fl : Flags), SeqIssues s c opTload w → tloadOk w s₁ c k = true →
      Tab.at none k.slots (wDslot w) = some desc → ((loadPanel c w (descOf desc) k).run s₁).1 = .ok (k', fl) →
      Completes (.tload c w) s fun t =>
        (t.cluster c).ipc = k.ipc + 16 ∧ (t.cluster c).buf = k'.buf ∧
        (∀ a b, (wAmask w).testBit a = false → b < 262144 →
          Tab.at 0 (t.cluster c).buf (262144 * a + b) = Tab.at 0 k.buf (262144 * a + b)) ∧
        (wSigen w = true → tokenCount t c (wTok w) = min (tokenCount s c (wTok w) + 1) 65535)) ∧
    (∀ (i : Instr) (op : Nat), (i, op) ∈ [(Instr.mma c w, opMma), (.mmat c w, opMmat), (.stat c w, opStat)] →
      SeqIssues s c op w → mulOk s₁ c w = true → Completes i s fun t =>
        (t.cluster c).ipc = k.ipc + 16 ∧ (t.cluster c).ishadow = k.acc ∧
        (∀ a n, (wAmask w).testBit a = false → n < 4096 → (t.cluster c).cell (4096 * a + n) = k.cell (4096 * a + n)) ∧
        (∀ a n, (wAmask w).testBit a = true → n < 4096 → (t.cluster c).cell (4096 * a + n) =
          (mulWord s₁ c w (passesOf s₁ c w) 0 k).1.cell (4096 * a + n)))

/-- TSTORE and TEMIT, where the sequencer takes a legal word with no decision open, the words of whose retry range are
NOP, TLOAD, MMA and MMAT words (R81, R85, R86, R90, R91, R184): with
NOCHK = 0 the word opens an overflow decision that holds its converted tiles, and nothing of it leaves, no byte of
memory and no slipway entry; a TSTORE with NOCHK = 1 whose tiles are written well leaves memory as their stores do,
where no sampling is on; a TEMIT with NOCHK = 1 whose granules are free adds its tiles to the slipway.
Where the spec leaves a point open the model's choice of log 11 and 59 decides it. -/
def Obligations.StoreAndEmitWords : Prop :=
  ∀ (c : Fin 32) (w : BitVec 128) (s : State),
    let k := s.cluster c
    let s₁ := (seqFetch s c).2
    let tiles := (outTiles k w k.ipc 0 false ((Tab.at none k.slots (wDslot w)).getD 0)).1
    let words := (rangeWords (seqUnit s₁ c) k.log ((rangeAddrs k.start k.ipc w).getD [])).run s₁
    let s₂ := words.2
    let issues (op : Nat) : Prop := SeqIssues s c op w ∧ storeOk w k = true ∧
      ∃ range, words.1 = .ok range ∧ ∀ i ∈ range, rangeWord i.word = true
    (∀ (i : Instr) (op : Nat), (i, op) ∈ [(Instr.tstore c w, opTstore), (.temit c w, opTemit)] →
      issues op → wNochk w = false → Completes i s fun t =>
        (t.cluster c).ipc = k.ipc + 16 ∧ (∀ a, t.byte a = s.byte a) ∧ (t.cluster c).slip = k.slip ∧
        ∃ d, (t.cluster c).decs = [d] ∧ d.kind = .overflow 0 ∧ d.addr = k.ipc ∧ d.word = w ∧
          .ok d.range = words.1 ∧ d.held = tiles.map Held.tile ++ [.retire (retireOf k w)]) ∧
    (issues opTstore → wNochk w = true → flagF Fld.SMP_CTRL_EN (s.rd .SMP_CTRL c) = false →
      ∀ r, ((Prog.mapE tiles fun x => tileStore c x).run s₂).1 = .ok r → Completes (.tstore c w) s fun t =>
        (t.cluster c).ipc = k.ipc + 16 ∧ (t.cluster c).decs = [] ∧
        ∀ a, t.byte a = ((Prog.mapE tiles fun x => tileStore c x).run s₂).2.byte a) ∧
    (issues opTemit → wNochk w = true →
      granules (wOfmt w) * tiles.length ≤ k.slipFree → Completes (.temit c w) s fun t =>
        (t.cluster c).ipc = k.ipc + 16 ∧ (t.cluster c).decs = [] ∧
        (t.cluster c).slip = k.slip ++ tiles.map fun x =>
          ⟨8 * c + x.array, BitVec.ofNat 16 (wTag w), wOfmt w, false, x.codes, 0⟩)

/-- The decisions of a store or emit that is the only one open, with nothing waiting to leave (R85, R88, R184 to R187,
R191, R192): an overflow decision whose tiles have not overflowed and whose word is not watched proceeds, and no
decision is left open; one of a watched word becomes a watch decision; one with an overflowed tile whose range issues
again without a fault opens again, one retry further, with the sequencer at the word after it; the recomputation of a
watched word counts its words in the run-ahead depth, and holds wide accumulators unless it met a fault; the comparison of a
watched word ends and leaves no decision open, and where the recomputation was abandoned it counts one inconclusive
comparison in the record of its tag, for a word of one array that held nothing back.
Where the spec leaves a point open the model's choice of log 69 and 70 decides it. -/
def Obligations.OverflowAndWatchDecisions : Prop :=
  ∀ (c : Fin 32) (s : State) (d : Dec),
    let k := s.cluster c
    k.decs = [d] → k.out = [] → canResolve s c = true →
    let own := d.held.take (maskArrays (wAmask d.word)).length
    let ovf := own.any fun h => match h with
      | .tile x => x.ovf
      | _ => false
    (∀ r, d.kind = .overflow r → Completes (.overflowDecision c) s fun t =>
      (ovf = false → d.watch = false → (t.cluster c).decs = []) ∧
      (ovf = false → d.watch = true → ∀ y, ((reissueAll s c (some 3) 0 d.range (k, Flags.none)).run s).1 = y →
        (∀ f a, y = .error (f, a) → f.isWait = false) →
        (t.cluster c).decs = [{ d with
          kind := .watch (match y with
            | .ok x => some x.1.acc
            | .error _ => none)
          depth := d.depth + (d.range.filter fun i => isAcc i.word).length }]) ∧
      (ovf = true →
        (∃ x, ((reissueAll s c none (r + 1) d.range (k.restore d, Flags.none)).run s).1 = .ok x) →
        (t.cluster c).ipc = d.addr + 16 ∧
        ∃ d', (t.cluster c).decs = [d'] ∧ d'.kind = .overflow (r + 1) ∧ d'.addr = d.addr ∧ d'.word = d.word)) ∧
    (∀ wide, d.kind = .watch wide → Completes (.watchCompare c) s fun t =>
      (t.cluster c).decs = [] ∧
      (∀ a, wide = none → maskArrays (wAmask d.word) = [a] → d.held = [] → ∀ tag,
        tag = rangeTag d.range →
        (Tab.at WatchRec.zero (t.cluster c).counts tag).inconc =
          satAdd 16 (Tab.at WatchRec.zero k.counts tag).inconc 1))

/-- The commands of a sequencer and the ends of its waits (R83, R89, R91, R108): START takes an owned, idle sequencer to
its schedule's first word in RUN, and any other sets CMDIGN; STOP requests a drain of a sequencer that runs or waits,
and does nothing else; a drained sequencer with no decision open stops; RESUME takes one that is stopped, with
nothing held, back to RUN, and any that is neither stopped nor faulted sets CMDIGN; a write of INC adds 1 to a token;
a waiting TWAIT ends once its token holds COUNT, and a waiting TEMIT once its granules are free. The commands of a
vector engine and the end of its token wait (R83, R109): START takes an owned, idle engine to its program's first
instruction in RUN, and any other sets CMDIGN; STOP stops an engine that runs or waits, which takes a waiting
instruction again, and does nothing else; RESUME takes one that is stopped or faulted back to RUN, and any other sets
CMDIGN; a waiting VWAIT ends once its token holds COUNT.
Where the spec leaves a point open the model's choice of log 12 decides it. -/
def Obligations.ClusterCommands : Prop :=
  (∀ (c : Fin 32) (s : State),
     let k := s.cluster c
     Completes (.aryStart c) s (fun t =>
       if seqState s c = 0 ∧ (s.ownerCl c).isSome then
         seqState t c = 1 ∧ (t.cluster c).ipc = (s.rd .ARY_SCHED_BASE c).truncate 48 ∧ (t.cluster c).log = [] ∧
         (t.cluster c).decs = [] ∧ t.rd .ARY_ERR c = s.rd .ARY_ERR c
       else t.rdF .ARY_ERR Fld.ARY_ERR_CMDIGN c = 1 ∧ seqState t c = seqState s c ∧ t.cluster c = k) ∧
     Completes (.aryStop c) s (fun t =>
       if seqState s c = 1 ∨ seqState s c = 2 ∨ seqState s c = 3 then (t.cluster c).drain = true else t = s) ∧
     Completes (.sequencerDrained c) s (fun t =>
       if k.drain ∧ k.decs = [] ∧ (seqState s c = 1 ∨ seqState s c = 2 ∨ seqState s c = 3) then
         seqState t c = 4 ∧ (t.cluster c).drain = false ∧ (t.cluster c).twait = none
       else t = s) ∧
     (k.out = [] → k.decs = [] → Completes (.aryResume c) s fun t =>
       if seqState s c = 4 ∨ seqState s c = 5 then seqState t c = 1 ∧ t.cluster c = k
       else t.rdF .ARY_ERR Fld.ARY_ERR_CMDIGN c = 1 ∧ seqState t c = seqState s c) ∧
     (∀ x : Fin 64, Completes (.toksigInc c x) s fun t =>
       tokenCount t c x = min (tokenCount s c x + 1) 65535 ∧
       (65535 < tokenCount s c x + 1 → t.rdF .ARY_ERR Fld.ARY_ERR_TOKOVF c = 1)) ∧
     (∀ w, k.twait = some w → k.out = [] → k.decs = [] → seqState s c = 2 → Completes (.twaitRelease c) s fun t =>
       if wCount w ≤ tokenCount s c (wF6 w) then
         seqState t c = 1 ∧ (t.cluster c).twait = none ∧ (t.cluster c).ipc = k.ipc + 16 ∧
         tokenCount t c (wF6 w) =
           (if wNocon w then tokenCount s c (wF6 w) else (tokenCount s c (wF6 w) - wCount w) % 65536)
       else t = s) ∧
     (∀ x : Tile, k.out = [.tile x] → wOp x.word = opTemit → seqState s c = 3 →
       Completes (.temitSlipRelease c) s fun t =>
         if granules (wOfmt x.word) ≤ k.slipFree then
           seqState t c = 1 ∧ (t.cluster c).out = [] ∧ (t.cluster c).slip = k.slip ++
             [⟨8 * c + x.array, BitVec.ofNat 16 (wTag x.word), wOfmt x.word, x.sat, x.codes, 0⟩]
         else seqState t c = 3 ∧ (t.cluster c).slip = k.slip ∧ (t.cluster c).out = k.out)) ∧
  (∀ (c : Fin 32) (s : State),
     let k := s.cluster c
     Completes (.vecStart c) s (fun t =>
       if vecState s c = 0 ∧ (s.ownerCl c).isSome then
         vecState t c = 1 ∧ (t.cluster c).vpc = (s.rd .VEC_PROG_BASE c).truncate 48 ∧ (t.cluster c).vwait = none
       else t.rdF .VEC_ERR Fld.VEC_ERR_CMDIGN c = 1 ∧ vecState t c = vecState s c ∧ t.cluster c = k) ∧
     Completes (.vecStop c) s (fun t =>
       if vecState s c = 1 ∨ vecState s c = 2 ∨ vecState s c = 3 then
         vecState t c = 4 ∧ (t.cluster c).vwait = none ∧ (t.cluster c).vpc = k.vpc
       else t = s) ∧
     Completes (.vecResume c) s (fun t =>
       if vecState s c = 4 ∨ vecState s c = 5 then vecState t c = 1 ∧ t.cluster c = k
       else t.rdF .VEC_ERR Fld.VEC_ERR_CMDIGN c = 1 ∧ vecState t c = vecState s c) ∧
     (∀ w, k.vwait = some w → vecState s c = 2 → Completes (.vwaitRelease c) s fun t =>
       if vf 21 6 w ≤ tokenCount s c (vf 5 0 w) then
         vecState t c = 1 ∧ (t.cluster c).vwait = none ∧ (t.cluster c).vpc = k.vpc + 8 ∧
         tokenCount t c (vf 5 0 w) = (if vf 22 22 w = 1 then tokenCount s c (vf 5 0 w)
           else (tokenCount s c (vf 5 0 w) - vf 21 6 w) % 65536)
       else t = s))

/-- A word with a reserved opcode, whichever row it is sent as, halts a sequencer that would take it with no decision
open and is not lent: HALT_ILLEGAL, ILLEGAL set and the word's address in ARY_ERRADDR (R76, R77). An illegal vector
instruction, whichever row it is sent as, halts an engine that would take it: HALT_ILLEGAL, ILLEGAL set, the
instruction's address in VEC_ERRADDR, and the cluster error event, for a cluster that is not lent (R94, R98).
Where the spec leaves a point open the model's choice of log 59 decides it. -/
def Obligations.ReservedOpcodesHalt : Prop :=
  (∀ (c : Fin 32) (w : BitVec 128) (s : State), SeqIssues s c (wOp w) w → opcodes.contains (wOp w) = false →
     s.lentLu c = none → s.lentSu c = none →
     ∀ i ∈ [Instr.nop c w, .tload c w, .tstore c w, .temit c w, .dload c w, .mma c w, .mmat c w, .stat c w, .tsig c w,
         .twait c w, .brf c w, .seg c w, .lset c w, .endWord c w],
       Completes i s fun t =>
         seqState t c = 6 ∧ t.rdF .ARY_ERR Fld.ARY_ERR_ILLEGAL c = 1 ∧
         t.rd .ARY_ERRADDR c = (s.cluster c).ipc.zeroExtend 64 &&& regMask .ARY_ERRADDR ∧ Out.clusterError c ∈ t.out) ∧
  (∀ (c : Fin 32) (w : BitVec 64) (s : State), VecIssues s c (vOp w) w → vopcodes.contains (vOp w) = false →
     s.lentLu c = none → s.lentSu c = none →
     ∀ i ∈ [Instr.add c w, .fma c w, .exp c w, .cmp c w, .sel c w, .qnt c w, .rsum c w, .perm c w, .smax c w, .mov c w,
         .vld c w, .vst c w, .slpop c w, .sltag c w, .setvl c w, .setf c w, .dld c w, .vsig c w, .vwait c w, .vbr c w,
         .vlset c w, .vend c w],
       Completes i s fun t =>
         vecState t c = 6 ∧ t.rdF .VEC_ERR Fld.VEC_ERR_ILLEGAL c = 1 ∧
         t.rd .VEC_ERRADDR c = (s.cluster c).vpc.zeroExtend 64 &&& regMask .VEC_ERRADDR ∧ Out.clusterError c ∈ t.out)

/-! ### Vector instructions -/

/-- The register form of every elementwise instruction under a rounding mode that draws nothing (R52, R56 to R60, R64 to
R68, R93 to R96): each lane below VL whose mask bit is 1 receives the operation's result on that lane of the
sources, cut to the destination's format, every other lane and every other register stays, and the engine goes on to
the next instruction, 8 bytes on.
Where the spec leaves a point open the model's choice of log 4, 14 and 59 decides it. -/
def Obligations.ElementwiseRegisterForm : Prop :=
  ∀ (c : Fin 32) (w : BitVec 64) (s : State) (i : Instr) (o : VOp),
    (i, o) ∈ (Instr.cvt c w, cvtOp) :: elementwiseRows c w →
    VecIssues s c o.op w → vT w = false → vRm w ≤ 3 → o.ext w = true →
    ∀ sf df, o.src w = some sf → o.dst w = some df → regOk df (vD w) = true →
      (∀ r ∈ srcsOf o.arity w, regOk sf r = true) →
      let k := s.cluster c
      Completes i s fun t =>
        (t.cluster c).vpc = k.vpc + 8 ∧ vecState t c = 1 ∧
        (∀ l < 256, (t.cluster c).operand df (vD w) l =
          if l < vecVl s c ∧ k.mask (vMsel w) l = true then
            (o.fn w (plainRm (vRm w)) ((srcsOf o.arity w).map fun r => k.operand sf r l)).1 % 2 ^ (8 * (fmtUnit df).2)
          else k.operand df (vD w) l) ∧
        (∀ r l, l < 256 → r ≠ vD w → (df = 6 → r ≠ vD w + 1) → (t.cluster c).lane r l = k.lane r l)

/-- The tensor form of every instruction that has one, from the first chunk on (R95, R98 to R105, R107, R410): where
every element is computed and written without a fault, memory is what the writes leave, where no sampling is on, and
the engine goes on to the next instruction, 8 bytes on.
Where the spec leaves a point open the model's choice of log 3, 4, 13, 15, 59 and 73 decides it. -/
def Obligations.TensorFormWritesEveryElement : Prop :=
  ∀ (c : Fin 32) (w : BitVec 64) (s : State) (i : Instr) (op : Nat) (d : Desc) (part : Nat → Nat → Prog TEnd),
    let k := s.cluster c
    let s₁ := (vecFetch s c).2
    let form (per : Nat) (each : Nat → Prog (Except Flt Nat)) (out : Nat → List Nat → Prog (List TOut)) : Prop :=
      part = runPart (vecUnit s₁ c) per each out
    let plain : Nat → List Nat → Prog (List TOut) := fun lin codes => .ret [plainOut d lin codes]
    let red (rounds : Bool) (zero : Fmt → Nat) (f : Fmt → Rm → Nat → Nat → Nat × Flags) (a : Desc) (lin : Nat) :
        Prog (Except Flt Nat) :=
      .get fun s => (Prog.mapE (List.range (a.sizes.headD 0)) fun n =>
        readElem (vecUnit s c) a (n :: (unlin d.sizes lin).drop 1)).bindE fun l =>
          (tree (combine c w rounds f) 32 (l.map (·.1))).bind fun r => .ret (.ok (r.getD (zero (fmtTy w))))
    ((∃ o sf l, (i, o) ∈ elementwiseRows c w ∧ op = o.op ∧ elemOk o w k = true ∧ o.src w = some sf ∧
        vslots k (srcsOf o.arity w) = some l ∧ form 1 (elemCalc c o sf d.fmt w d l) plain) ∨
     (∃ a, i = .cvt c w ∧ op = 0x20 ∧ vRm w ≤ 4 ∧ vTy w ≤ 1 ∧ vExt w < 32 ∧ cvtDst (cvtFmt w) = true ∧
        cvtTensorOk (cvtFmt w) w k = true ∧ k.vslot (vA w) = some a ∧ form 1 (cvtCalc c w d a) (cvtOut c w d)) ∨
     (∃ a, i = .qnt c w ∧ op = 0x21 ∧ qntOk w k = true ∧ k.vslot (vA w) = some a ∧
        form 1 (copyCalc c d a) (residOut c w d (if vExt w = 32 then k.vslot (vC w) else none))) ∨
     (∃ a, i = .mov c w ∧ op = 0x38 ∧ vRm w ≤ 4 ∧ vTy w ≤ 2 ∧ vExt w = 0 ∧ vMsel w = 0 ∧ k.vslot (vA w) = some a ∧
        d.fmt = a.fmt ∧ dstFits d = true ∧ srcOk d a = true ∧
        if plainFmt d.fmt then form 1 (copyCalc c d a) plain
        else form (fmtUnit d.fmt).1 (blockCalc c d a) fun lin codes => .ret (blockOut d lin codes)) ∨
     (∃ a, i = .smax c w ∧ op = 0x31 ∧ vRm w ≤ 4 ∧ vTy w = 0 ∧ smaxOk w k = true ∧ k.vslot (vA w) = some a ∧
        part = smaxPart c w d a (if vExt w = 1 then k.vslot (vB w) else none)) ∨
     (∃ a, vRm w ≤ 4 ∧ vTy w ≤ 1 ∧ vExt w = 0 ∧ vMsel w = 0 ∧ k.vslot (vA w) = some a ∧ d.fmt = tyFmt (vTy w) ∧
        a.fmt = tyFmt (vTy w) ∧ dstFits d = true ∧ d.sizes.headD 0 = 1 ∧ d.sizes.drop 1 = a.sizes.drop 1 ∧
        d.apart a = true ∧
        ((i = .rsum c w ∧ op = 0x28 ∧ form 1 (red true (fun _ => 0) (fun f rm a b => f.add rm a b) a) plain) ∨
         (i = .rmax c w ∧ op = 0x29 ∧ form 1 (red false (fun f => f.inf true) (fun f _ a b => f.max a b) a) plain) ∨
         (i = .rmin c w ∧ op = 0x2A ∧ form 1 (red false (fun f => f.inf false) (fun f _ a b => f.min a b) a) plain)))) →
    VecIssues s c op w → vT w = true → k.vslot (vD w) = some d → k.vchunk = 0 →
    flagF Fld.SMP_CTRL_EN (s.rd .SMP_CTRL c) = false →
    ∀ x, (part 0 d.count).run s₁ = (.done, x) → Completes i s fun t =>
      (t.cluster c).vpc = k.vpc + 8 ∧ vecState t c = 1 ∧ ∀ a, t.byte a = x.byte a

/-- The register forms of CMP, SEL, MOV and PERM (R69, R93, R95, R96, R106): CMP writes its mask register on the lanes
that are active and leaves the rest; SEL takes A where the mask is 1 and B elsewhere, on every lane below VL; MOV
copies the active lanes; PERM takes, on each active lane, the lane of A that B names where it is below VL, and FILL
where it is not, which PERM_RANGE records. Each goes on to the next instruction, 8 bytes on. -/
def Obligations.CompareSelectMovePermute : Prop :=
  ∀ (c : Fin 32) (w : BitVec 64) (s : State),
    let k := s.cluster c
    let f := tyFmt (vTy w)
    let active : Nat → Prop := fun l => l < vecVl s c ∧ k.mask (vMsel w) l = true
    vT w = false → vRm w ≤ 4 →
    (VecIssues s c 0x18 w → vTy w ≤ 2 → vExt w ≤ 6 → 1 ≤ vD w → vD w ≤ 7 → regOk f (vA w) = true →
      regOk f (vB w) = true → Completes (.cmp c w) s fun t =>
        (t.cluster c).vpc = k.vpc + 8 ∧ ∀ l < 256,
          (active l → (t.cluster c).mask (vD w) l =
            (predOf (vExt w) (compareTy (vTy w) (k.operand f (vA w) l) (k.operand f (vB w) l)).1).getD false) ∧
          (¬ active l → (t.cluster c).mask (vD w) l = k.mask (vD w) l)) ∧
    (VecIssues s c 0x19 w → vTy w ≤ 2 → vExt w = 0 → regOk f (vD w) = true → regOk f (vA w) = true →
      regOk f (vB w) = true → Completes (.sel c w) s fun t =>
        (t.cluster c).vpc = k.vpc + 8 ∧ ∀ l < 256, (t.cluster c).operand f (vD w) l =
          if l < vecVl s c then k.operand f (if k.mask (vMsel w) l then vA w else vB w) l else k.operand f (vD w) l) ∧
    (VecIssues s c 0x38 w → vTy w ≤ 2 → vExt w = 0 → regOk f (vD w) = true → regOk f (vA w) = true →
      Completes (.mov c w) s fun t =>
        (t.cluster c).vpc = k.vpc + 8 ∧ ∀ l < 256,
          (active l → (t.cluster c).operand f (vD w) l = k.operand f (vA w) l) ∧
          (¬ active l → (t.cluster c).operand f (vD w) l = k.operand f (vD w) l)) ∧
    (VecIssues s c 0x30 w → vTy w ≤ 1 → vExt w = 0 → regOk f (vD w) = true → regOk f (vA w) = true →
      Completes (.perm c w) s fun t =>
        (t.cluster c).vpc = k.vpc + 8 ∧
        (∀ l < 256,
          (active l → (t.cluster c).operand f (vD w) l =
            if k.lane (vB w) l < vecVl s c then k.operand f (vA w) (k.lane (vB w) l) else fillOf s c f) ∧
          (¬ active l → (t.cluster c).operand f (vD w) l = k.operand f (vD w) l)) ∧
        ((∃ l < 256, active l ∧ vecVl s c ≤ k.lane (vB w) l) → t.rdF .VEC_EVT Fld.VEC_EVT_PERM_RANGE c = 1) ∧
        ((∀ l < 256, active l → k.lane (vB w) l < vecVl s c) → t.rd .VEC_EVT c = s.rd .VEC_EVT c))

/-- The register forms of the reductions and of SMAX (R104, R107): a reduction leaves in lane 0 of its destination the
tree's value over the active lanes, and its value over none where none is active; SMAX leaves its row's outputs in the
lanes below VL: every lane the quiet NaN where an active lane is a NaN, and +0 in every lane, with SMX_EMPTY, where
every active lane is −∞ or none is active.
Where the spec leaves a point open the model's choice of log 3, 4 and 59 decides it. -/
def Obligations.ReductionsAndSoftmax : Prop :=
  ∀ (c : Fin 32) (w : BitVec 64) (s : State),
    let k := s.cluster c
    let s₁ := (vecFetch s c).2
    let f := tyFmt (vTy w)
    vT w = false → vRm w ≤ 4 → vExt w = 0 →
    (∀ (i : Instr) (op : Nat) (rounds : Bool) (zero : Fmt → Nat) (g : Fmt → Rm → Nat → Nat → Nat × Flags),
      (i, op, rounds, zero, g) ∈ [(Instr.rsum c w, 0x28, true, (fun _ => 0), (fun f rm a b => f.add rm a b)),
        (.rmax c w, 0x29, false, (fun f => f.inf true), (fun f _ a b => f.max a b)),
        (.rmin c w, 0x2A, false, (fun f => f.inf false), (fun f _ a b => f.min a b))] →
      VecIssues s c op w → vTy w ≤ 1 → regOk f (vD w) = true → regOk f (vA w) = true → Completes i s fun t =>
        (t.cluster c).vpc = k.vpc + 8 ∧ (t.cluster c).operand f (vD w) 0 =
          (((tree (combine c w rounds g) 32 ((activeLanes k (vecVl s c) (vMsel w)).map fun l => k.operand f (vA w) l)).run s₁).1.getD
            (zero (fmtTy w))) % 2 ^ (8 * (fmtUnit f).2)) ∧
    (VecIssues s c 0x31 w → vTy w = 0 →
      let row := (List.range (vecVl s c)).map fun l => if k.mask (vMsel w) l then some (k.lane (vA w) l) else none
      let open' := (row.filterMap id).map b32.dec
      Completes (.smax c w) s fun t =>
        (t.cluster c).vpc = k.vpc + 8 ∧
        (∀ l < vecVl s c, (t.cluster c).lane (vD w) l = ((smaxRow c w id row).run s₁).1.getD l 0 % 2 ^ 32) ∧
        (open'.any Val.isNan = true → ∀ l < vecVl s c, (t.cluster c).lane (vD w) l = b32.nan) ∧
        (open'.all (Val.isInf true) = true →
          t.rdF .VEC_EVT Fld.VEC_EVT_SMX_EMPTY c = 1 ∧ ∀ l < vecVl s c, (t.cluster c).lane (vD w) l = 0))

/-- The instructions that move data between the vector registers and memory or the slipway (R92, R95 to R97, R445): a VLD
whose elements read well gives each lane it loads its element, widened; a VST whose writes go well leaves memory as
they do, where no sampling is on; SLPOP takes 256 values of the head entry into every lane and counts a pop, the
sixteenth of which frees the entry; SLTAG gives lane 0 the head entry's tag and array; each waits where the slipway is
empty; a waiting one ends as if it had just issued, once an entry has joined; DLD puts the 64 bytes it reads into its
slot, valid where they pass the check.
Where the spec leaves a point open the model's choice of log 15, 59 and 73 decides it. -/
def Obligations.VectorLoadsStoresAndSlipway : Prop :=
  ∀ (c : Fin 32) (w : BitVec 64) (s : State),
    let k := s.cluster c
    let s₁ := (vecFetch s c).2
    let popped (e : SlipEntry) (r : List SlipEntry) (t : State) : Prop :=
      (∀ l < 256, (t.cluster c).lane (vD w) l =
        (b32.conv false .rne (((fmtOf e.fmt).getD b32).dec (e.codes.getD (256 * e.pops + l) 0))).1 % 2 ^ 32) ∧
      (t.cluster c).slip = (if e.pops = 15 then r else { e with pops := e.pops + 1 } :: r)
    let tagged (e : SlipEntry) (t : State) : Prop :=
      (t.cluster c).slip = k.slip ∧ (k.mask (vMsel w) 0 = true →
        (t.cluster c).lane (vD w) 0 = e.tag.toNat + e.array % 8 * 2 ^ 16)
    (∀ (a : Desc) (l : List (Nat × Flags)), VecIssues s c 0x40 w → vT w = false → vRm w ≤ 4 → vTy w ≤ 2 →
      regOk (tyFmt (vTy w)) (vD w) = true → k.vslot (vA w) = some a → ldFmt (vTy w) a.fmt = true →
      ((Prog.mapE (ldLanes k (vecVl s c) w a) (vldLane c w a)).run s₁).1 = .ok l → Completes (.vld c w) s fun t =>
        (t.cluster c).vpc = k.vpc + 8 ∧
        ∀ p ∈ (ldLanes k (vecVl s c) w a).zip l, (t.cluster c).operand (tyFmt (vTy w)) (vD w) p.1 =
          p.2.1 % 2 ^ (8 * (fmtUnit (tyFmt (vTy w))).2)) ∧
    (∀ (d : Desc), VecIssues s c 0x41 w → vT w = false → vRm w ≤ 4 → vTy w ≤ 2 → regOk (tyFmt (vTy w)) (vA w) = true →
      k.vslot (vD w) = some d → (ldFmt (vTy w) d.fmt = true ∨ vTy w = 0 ∧ d.fmt = 6) → flagF Fld.SMP_CTRL_EN (s.rd .SMP_CTRL c) = false →
      let l := (Prog.mapM (ldLanes k (vecVl s c) w d) (vstLane c w d k)).run s₁
      let x := (scatter (vecUnit s c) (joinRuns (l.1.map fun p => (d.addr (d.off (vExt w + p.1)), elemBytes d.fmt)))
        (l.1.flatMap fun p => leBytes (elemBytes d.fmt) p.2)).run l.2
      (∃ u, x.1 = .ok u) → Completes (.vst c w) s fun t =>
        (t.cluster c).vpc = k.vpc + 8 ∧ ∀ a, t.byte a = x.2.byte a) ∧
    (VecIssues s c 0x48 w → vT w = false → vRm w ≤ 4 → vTy w = 0 → vExt w = 0 → Completes (.slpop c w) s fun t =>
      match k.slip with
      | e :: r => (t.cluster c).vpc = k.vpc + 8 ∧ popped e r t
      | [] => (t.cluster c).vpc = k.vpc ∧ (t.cluster c).vwait = some w ∧ vecState t c = 3) ∧
    (VecIssues s c 0x49 w → vT w = false → vRm w ≤ 4 → vTy w = 2 → vExt w = 0 → Completes (.sltag c w) s fun t =>
      match k.slip with
      | e :: _ => (t.cluster c).vpc = k.vpc + 8 ∧ tagged e t
      | [] => (t.cluster c).vpc = k.vpc ∧ (t.cluster c).vwait = some w ∧ vecState t c = 3) ∧
    (∀ e r, k.vwait = some w → k.slip = e :: r → vecState s c = 3 → Completes (.slpopWaitEnd c) s fun t =>
      vecState t c = 1 ∧ (t.cluster c).vwait = none ∧ (t.cluster c).vpc = k.vpc + 8 ∧
      if vOp w = 0x48 then popped e r t else tagged e t) ∧
    (VecIssues s c 0x72 w → vf 56 48 w = 0 → vf 41 24 w = 0 → ∀ d,
      ((vget (vecUnit s c) (((s.rd .VEC_DTAB_BASE c).toNat + 64 * vExt w) % 2 ^ 48) 64).run s₁).1 = .ok d →
      Completes (.dld c w) s fun t =>
        (t.cluster c).vpc = k.vpc + 8 ∧ Tab.at none (t.cluster c).vslots (vD w) =
          (if descOk (BitVec.ofNat 512 (leNat d)) then some (BitVec.ofNat 512 (leNat d)) else none))

/-- The control instructions of the vector engine (R83, R97): SETVL sets VL; SETF sets FILL from lane 0 of A; VSIG adds
to a token, up to 65535; VWAIT goes on where its token holds COUNT, consuming it unless NOCON, and waits otherwise; VBR
goes to its target always, while its loop counter has not reached 0, or where its token holds IMM; VLSET sets a loop
counter; VEND leaves the engine in IDLE. Each but a waiting VWAIT goes on, to the next instruction or the target.
Where the spec leaves a point open the model's choice of log 59 decides it. -/
def Obligations.VectorControlInstructions : Prop :=
  ∀ (c : Fin 32) (w : BitVec 64) (s : State),
    let k := s.cluster c
    let tok := vf 5 0 w
    let n := vf 21 6 w
    (VecIssues s c 0x70 w → vf 56 48 w = 0 → vf 38 0 w = 0 → 1 ≤ vf 47 39 w → vf 47 39 w ≤ 256 →
      Completes (.setvl c w) s fun t => (t.cluster c).vpc = k.vpc + 8 ∧ vecVl t c = vf 47 39 w) ∧
    (VecIssues s c 0x71 w → vf 56 50 w = 0 → vf 47 42 w = 0 → vf 35 0 w = 0 → vTy w ≤ 2 →
      regOk (tyFmt (vTy w)) (vA w) = true → Completes (.setf c w) s fun t =>
        (t.cluster c).vpc = k.vpc + 8 ∧ t.rd .VEC_FILL c = BitVec.ofNat 64 (k.operand (tyFmt (vTy w)) (vA w) 0)) ∧
    (VecIssues s c 0x73 w → vf 56 22 w = 0 → n ≠ 0 → Completes (.vsig c w) s fun t =>
      (t.cluster c).vpc = k.vpc + 8 ∧ tokenCount t c tok = min (tokenCount s c tok + n) 65535) ∧
    (VecIssues s c 0x74 w → vf 56 23 w = 0 → Completes (.vwait c w) s fun t =>
      if n ≤ tokenCount s c tok then
        (t.cluster c).vpc = k.vpc + 8 ∧ vecState t c = 1 ∧ tokenCount t c tok =
          (if vf 22 22 w = 1 then tokenCount s c tok else (tokenCount s c tok - n) % 65536)
      else (t.cluster c).vpc = k.vpc ∧ (t.cluster c).vwait = some w ∧ vecState t c = 2 ∧
        tokenCount t c tok = tokenCount s c tok) ∧
    (VecIssues s c 0x75 w → vf 56 52 w = 0 →
      let go := k.vpc + BitVec.ofInt 48 (8 * signedOf 26 (vf 25 0 w))
      let arg := vf 47 42 w
      (vf 51 48 w = 0 → vf 41 26 w = 0 → arg = 0 → Completes (.vbr c w) s fun t => (t.cluster c).vpc = go) ∧
      (vf 51 48 w = 1 → vf 41 26 w = 0 → arg ≤ 3 → Completes (.vbr c w) s fun t =>
        Tab.at 0 (t.cluster c).vloops arg = Tab.at 0 k.vloops arg - 1 ∧
        (t.cluster c).vpc = if Tab.at 0 k.vloops arg = 1 then k.vpc + 8 else go) ∧
      (vf 51 48 w = 2 → Completes (.vbr c w) s fun t =>
        tokenCount t c arg = tokenCount s c arg ∧
        (t.cluster c).vpc = if vf 41 26 w ≤ tokenCount s c arg then go else k.vpc + 8)) ∧
    (VecIssues s c 0x76 w → vf 56 50 w = 0 → vf 47 32 w = 0 → Completes (.vlset c w) s fun t =>
      (t.cluster c).vpc = k.vpc + 8 ∧ Tab.at 0 (t.cluster c).vloops (vTy w) = BitVec.ofNat 32 (vf 31 0 w)) ∧
    (VecIssues s c 0x7F w → vf 56 0 w = 0 → Completes (.vend c w) s fun t =>
      (t.cluster c).vpc = k.vpc + 8 ∧ vecState t c = 0)

/-! ### Landing Units -/

/-- The commands of a Landing Unit that end its step (R16, R153 to R158): ABORT before the vote is the cause FORCED and,
where it is the first, casts the skip vote; after the vote, or where the unit does not work on a step, it sets
CMDIGN. A unit whose every entry is complete votes commit, and one with an entry incomplete does nothing. A unit that
drains and has voted enters DRAINED, and one that does not is left as it is. The lanes land a tile (R136, R137, R143,
R145, R269), where no contribution waits for the unit: a unit that does not work on a step, or holds no tile of it,
writes nothing; one that has voted or met a cause discards the oldest tile of the step; a poisoned tile is the cause
POISON and writes nothing; any other whose reads and writes go well is landed, and leaves the stack as they do.
Where the spec leaves a point open the model's choice of log 72 decides it. -/
def Obligations.LandingTakesTilesAndVotes : Prop :=
  (∀ (u : Fin 4) (s : State),
     let k := s.landing u
     let shows (t : State) (f : Field) : Nat := t.rdF .LND_STATUS f u
     Completes (.lndAbort u) s (fun t =>
       if luActive s u = true ∧ luVoted s u = false then
         (t.rd .LND_ERR u).getLsbD 8 = true ∧ (k.caused = false →
           (t.landing u).caused = true ∧ shows t Fld.LND_STATUS_VOTED = 1 ∧ shows t Fld.LND_STATUS_VOTE = 0 ∧
           shows t Fld.LND_STATUS_STATE = 4 ∧ t.rdF .LND_ERRENT Fld.LND_ERRENT_VALID u = 1 ∧
           t.rdF .LND_ERRENT Fld.LND_ERRENT_ENTRY u = k.inHand.getD 0 % 2 ^ 16 ∧ t.rd .LND_ERRIDX u = 0xFFFFFFFF)
       else t.rdF .LND_ERR Fld.LND_ERR_CMDIGN u = 1 ∧ t.landing u = k) ∧
     (∀ (ok : Bool) (s₁ : State), luLands s u = true → Reads (entriesDone u) s ok s₁ → Completes (.luVote u) s fun t =>
       if ok then shows t Fld.LND_STATUS_VOTED = 1 ∧ shows t Fld.LND_STATUS_VOTE = 1 ∧ shows t Fld.LND_STATUS_STATE = 4
       else t = s₁) ∧
     Completes (.luDrained u) s (fun t =>
       if k.drain = true ∧ luVoted s u = true then shows t Fld.LND_STATUS_STATE = 6 ∧ t.landing u = { k with drain := false }
       else t = s)) ∧
  (∀ (u : Fin 4) (s : State), (s.engine u).held = [] →
     let k := s.landing u
     ((luActive s u = false ∨ takeTile (luStep s u) k.buf = none) →
       Completes (.tileLand u) s fun t => t.landing u = k ∧ ∀ a, t.byte a = s.byte a) ∧
     (∀ tl r, luActive s u = true → takeTile (luStep s u) k.buf = some (tl, r) →
       (luLands s u = false → Completes (.tileLand u) s fun t =>
         (t.landing u).buf = r ∧ (t.landing u).entries = k.entries ∧ ∀ a, t.byte a = s.byte a) ∧
       (luLands s u = true → tl.poison = true → Completes (.tileLand u) s fun t =>
         (t.landing u).buf = r ∧ (t.landing u).caused = true ∧ (t.rd .LND_ERR u).getLsbD 5 = true ∧
         t.rdF .LND_STATUS Fld.LND_STATUS_VOTED u = 1 ∧ t.rdF .LND_STATUS Fld.LND_STATUS_VOTE u = 0 ∧
         ∀ a, t.byte a = s.byte a) ∧
       (∀ x s₁ s₂ s₃, luLands s u = true → tl.poison = false → Reads (readEntry u tl.entry) s x s₁ →
         Reads (beginEntry u tl.entry x) s₁ () s₂ →
         Reads (if x.opt = 2 then phaseATile u x tl else landTile u x tl) s₂ () s₃ → Completes (.tileLand u) s fun t =>
           (t.landing u).buf = r ∧ tl.tile ∈ (t.luEntry u tl.entry).landed ∧ ∀ a, t.byte a = s₃.byte a)))

/-- The phases of an entry (R145 to R149, R292), where the unit lands and the reads and writes that each names go well.
PHASE_B_START of an OPT 2 entry whose tiles are through phase A starts the lent cluster on the schedule of slot 1−v
with the root descriptors in force, and the unit shows LAND where it holds a tile of the step and PREC where it does not.
PHASE_C_START completes the entry and frees the cluster. HOLD_COPY completes a held
entry: its parts copied and its header written. OUTER_UPDATE records the entry's outer update. Each leaves the stack as
its writes do.
Where the spec leaves a point open the model's choice of log 16 and 72 decides it. -/
def Obligations.LandingPhasesOfAnEntry : Prop :=
  ∀ (u : Fin 4) (entry : Nat) (s : State) (x : LayerEntry) (s₁ : State),
    let k := s.landing u
    let e := s.luEntry u entry
    let c := s.rdF .LND_LENT Fld.LND_LENT_CLUSTER u
    let old := x.slot (vptr s u)
    let new := x.slot (1 - vptr s u)
    luLands s u = true → Reads (readEntry u entry) s x s₁ →
    (∀ prec s₂, e.begun = true → e.done = false → e.noroot = false → k.phaseB = none →
      s.rdF .LND_LENT Fld.LND_LENT_VALID u = 1 → (s.cluster c).lentRun = false → x.opt = 2 → x.tiles ≤ e.landed.length →
      Reads (luRecord u x.prec 64 false) s₁ prec s₂ → Completes (.phaseBStart u entry) s fun t =>
        (t.landing u).phaseB = some entry ∧ (t.landing u).inHand = some entry ∧ (t.cluster c).lentRun = true ∧
        (t.cluster c).ipc = BitVec.ofNat 48 (if vptr s u = 1 then bits 47 0 prec else bits 95 48 prec) ∧
        t.rd .ARY_DTAB_BASE c = BitVec.ofNat 64 e.rdtab &&& regMask .ARY_DTAB_BASE ∧
        t.rdF .LND_STATUS Fld.LND_STATUS_STATE u = (if k.buf.any fun x => x.step == luStep s u then 2 else 3)) ∧
    (∀ prec l s₂ s₃ s₄, e.begun = true → e.done = false →
      (e.noroot = true ∨ k.phaseB = some entry ∧ (s.cluster c).lentRun = false) → x.opt = 2 →
      x.tiles ≤ e.landed.length → Reads (luRecord u x.prec 64 false) s₁ prec s₂ →
      Reads (Prog.mapE (List.range x.tiles) fun t => phaseCTile u entry x (bits 143 96 prec) t) s₂ l s₃ →
      Reads (closeEntry u entry x) s₃ () s₄ → Completes (.phaseCStart u entry) s fun t =>
        (t.luEntry u entry).done = true ∧ (t.landing u).phaseB ≠ some entry ∧ ∀ a, t.byte a = s₄.byte a) ∧
    (∀ hdr l s₂ s₃ s₄ s₅, e.done = false → entry < s.rdF .LND_LTAB_COUNT Fld.LND_LTAB_COUNT_COUNT u → x.hold = true →
      Reads (entryOk u x) s₁ true s₂ → Reads (readHeader u x) s₂ hdr s₃ →
      Reads (Prog.mapE x.parts (copyPart u old new)) s₃ l s₄ →
      Reads (luWrite u new (leBytes 64 (headerWord (bits 127 0 hdr * 256 + 0x80) (hvalid hdr) (luStep s u) 0
        (decide (hvalid hdr < 16)) (outerDue s u x))) fun _ => noElement) s₄ () s₅ →
      Completes (.holdCopy u entry) s fun t => (t.luEntry u entry).done = true ∧ ∀ a, t.byte a = s₅.byte a) ∧
    (∀ h diffs l s₂ s₃ s₄, e.done = true → e.outer = false → s.rdF .LND_STATUS Fld.LND_STATUS_OUTERDUE u = 1 →
      x.outer = true → Reads (readXHdr u x.cbuf) s₁ h s₂ →
      Reads (takeDiffs u x h ((s.binding ((s.ownerUnit u).getD 0)).outer.headD 0)) s₂ diffs s₃ →
      Reads (Prog.mapE (List.range ((x.cnt + 4096 * x.group - 1) / (4096 * x.group))) fun q =>
        outerRange u x h e.wide diffs (4096 * x.group * q) (min x.cnt (4096 * x.group * (q + 1)))) s₃ l s₄ →
      Completes (.outerUpdate u entry) s fun t => (t.luEntry u entry).outer = true ∧ ∀ a, t.byte a = s₄.byte a)

/-! ### Solver units -/

/-- The commands and budgets of a solver unit (R163, R170, R172 to R174, R182, R310): STOP takes a unit that works to
STOPPED with its lent clusters stopped, and leaves any other; RESUME of a stopped or faulted unit takes up its work
again, and any other sets CMDIGN; ABORTJOB and ABORTRND end the job or the round with its event, and set CMDIGN where
there is none; a new tail is a posted write; a round that is due begins where the unit is free; a cycle budget that
expires fixes the job's outcome, or that of the block in work.
Where the spec leaves a point open the model's choice of log 75 decides it. -/
def Obligations.SolverCommandsAndBudgets : Prop :=
  ∀ (u : Fin 2) (s : State),
    let k := s.solver u
    let st := suState s u
    Completes (.slvStop u) s (fun t =>
      if 1 ≤ st ∧ st ≤ 5 then suState t u = 6 ∧ ∀ c ∈ lentOf s u, (t.cluster c).lentRun = false else t = s) ∧
    Completes (.slvResume u) s (fun t =>
      if st = 6 ∨ st = 7 then
        (∀ j, k.job = some j → (j.phase = .waiting → suState t u = 5) ∧ (j.phase = .inner → suState t u = 4)) ∧
        (k.job = none → k.round = none → suState t u = 1) ∧
        (∀ r, k.job = none → k.round = some r →
          (r.stage = 0 → suState t u = 1) ∧ (r.stage = 1 → suState t u = 2))
      else t.rdF .SLV_ERR Fld.SLV_ERR_CMDIGN u = 1 ∧ suState t u = st) ∧
    Completes (.abortjob u) s (fun t =>
      if k.job.isSome then
        (t.solver u).job = none ∧ t.rdF .SLV_STATUS Fld.SLV_STATUS_JOB u = 0 ∧
        t.rdF .SLV_EVT Fld.SLV_EVT_JOBDONE u = 1 ∧ Out.solver u ∈ t.out
      else t.rdF .SLV_ERR Fld.SLV_ERR_CMDIGN u = 1 ∧ t.solver u = k) ∧
    Completes (.abortrnd u) s (fun t =>
      if k.round.isSome then
        (t.solver u).round = none ∧ t.rdF .SLV_STATUS Fld.SLV_STATUS_ROUND u = 0 ∧
        t.rdF .SLV_EVT Fld.SLV_EVT_ROUNDDONE u = 1 ∧ Out.solver u ∈ t.out
      else t.rdF .SLV_ERR Fld.SLV_ERR_CMDIGN u = 1 ∧ t.solver u = k) ∧
    (∀ val, Completes (.slvJqTail u val) s fun t =>
      if s.wbusy (.slv u) = true then
        t.rdF .SLV_ERR Fld.SLV_ERR_WLOST u = 1 ∧ t.rd .SLV_JQ_TAIL u = s.rd .SLV_JQ_TAIL u
      else t.wbusy (.slv u) = true ∧ t.rd .SLV_JQ_TAIL u = val &&& regMask .SLV_JQ_TAIL) ∧
    Completes (.rootRoundStart u) s (fun t =>
      if k.round.isNone ∧ k.job.isNone ∧ st = 1 then
        ∀ n d r, k.due = (n, d) :: r → (t.solver u).due = r ∧ t.rdF .SLV_STATUS Fld.SLV_STATUS_ROUND u = 1 ∧
          t.rdF .SLV_STATUS Fld.SLV_STATUS_ROUNDNO u = n % 2 ^ 32 ∧
          (t.solver u).round = some (Round.start n d)
      else t = s) ∧
    (∀ j, s.jobOf u = some j → JobDesc.cycbud j.desc.toNat ≠ 0 → Completes (.cycleBudgetExpiry u) s fun t =>
      (t.solver u).job = some { j with fixed := some (if j.ready then 4 else 5) }) ∧
    (∀ r, s.jobOf u = none → k.round = some r → s.rdF .SLV_CADENCE Fld.SLV_CADENCE_CYCBUD u ≠ 0 →
      (r.stage = 1 ∨ r.stage = 2) → Completes (.cycleBudgetExpiry u) s fun t =>
        ∃ r', (t.solver u).round = some r' ∧ (Tab.at SuBlock.init r'.blocks r.cur).outcome =
          some (if r.stage = 1 then 6 else if (Tab.at SuBlock.init r.blocks r.cur).ready then 4 else 5))

/-- A round works on its blocks (R124, R163 to R168, R170): the first reading of a block keeps its copy; a second reading
with another SEQ is a re-read, and one with the same ends a block without data or with a trace that cannot be taken, and
takes any other into work on that copy: a factorisation up to width 512, and above it an iteration, with its lent
clusters once its start stands in WORK. A factorisation fails, or leaves the root of its copy and outcome RENEWED. An
iterate has the residual that the clusters' partial sums give: one that is no number fails its block, one within TOL
ends it, one at ITMAX ends it, and any other starts the lent clusters again.
Where the spec leaves a point open the model's choice of log 17, 75 and 87 decides it. -/
def Obligations.SolverRoundWorksOnItsBlocks : Prop :=
  ∀ (u : Fin 2) (s : State) (r : Round) (x : RootEntry) (s₁ : State),
    let outcome (t : State) (n : Nat) : Prop := ∃ r', (t.solver u).round = some r' ∧ r'.cur = r.cur + 1 ∧ r'.stage = 0 ∧
      (Tab.at SuBlock.init r'.blocks r.cur).outcome = some n
    (s.solver u).round = some r → Reads (suGet u (rtabAddr s u r.cur) 128) s x s₁ →
    (∀ hw s₂, r.stage = 0 → suState s u = 1 → r.cur < rtabCount s u → Reads (suGet u x.hdr 64) s₁ hw s₂ →
      let h := facHdr hw
      (∀ tab tiles s₃ s₄, r.reading = none →
        Reads (readTable u) s₂ tab s₃ → RootEntry.ok x h.width (!(lentOf s u).isEmpty) (sameTables tab x) = true →
        h.seq % 2 = 0 → Reads (readTiles u h) s₃ tiles s₄ → Completes (.factorBlockRead u) s fun t =>
          (t.solver u).round = some { r with reading := some ⟨BitVec.ofNat 512 hw, tiles⟩ }) ∧
      (∀ c, r.reading = some c → Completes (.factorBlockRead u) s fun t =>
        if h.seq = c.h.seq then
          if c.code ≠ 0 then outcome t c.code
          else ∃ r', (t.solver u).round = some r' ∧ r'.reading = none ∧ r'.copy = some c ∧ r'.cur = r.cur ∧
            if c.h.width ≤ 512 then r'.stage = 1 ∧ suState t u = 2
            else r'.stage = 2 ∧ (r'.formed = true → ∀ c ∈ lentOf s u, (t.cluster c).lentRun = true)
        else (t.solver u).round = some { r with reading := none } ∧ t.rdF .SLV_EVT Fld.SLV_EVT_REREAD u = 1)) ∧
    (∀ c, r.copy = some c → (s.solver u).spoilt = false →
      (r.stage = 1 → suState s u = 2 →
        (c.root x.p 3 (c.delta x.damp) = none → Completes (.factorisationDone u) s fun t => outcome t 7) ∧
        (∀ l s₂, c.root x.p 3 (c.delta x.damp) = some l →
          Reads (suPut u (x.root (1 - x.inforce)) (rootBytes c.h.width (l.map (·.1)))) s₁ () s₂ →
          Completes (.factorisationDone u) s fun t => outcome t 1)) ∧
      (∀ sums s₂, r.stage = 2 → r.formed = true → suState s u = 3 →
        (∀ c ∈ lentOf s u, (s.cluster c).lentRun = false) →
        Reads (Prog.mapE (Config.workSums c.h.width) fun o => suGet u (x.work + o) 8) s₁ sums s₂ →
        let e := (residualFrom c.h.width sums).1
        let n := r.iters + 1
        let ok := fle b32 e x.accept
        (ok = true → ∃ y s₃ s₄,
          Reads (suList u (workAddr x c.h.width (n % 2)) 4 (padded c.h.width * padded c.h.width)) s₂ y s₃ ∧
          Reads (suPut u (x.root (1 - x.inforce)) (rootBytes c.h.width (trimRows c.h.width y))) s₃ () s₄) →
        Completes (.newtonIterateDone u) s fun t =>
          if b32.nonfinite e then outcome t 7
          else if fle b32 e x.tol then outcome t 1
          else if x.itmax ≤ n then outcome t (if ok then 2 else 3)
          else
            (∃ r', (t.solver u).round = some r' ∧ r'.stage = 2 ∧ r'.cur = r.cur ∧ r'.iters = n) ∧
            ∀ c ∈ lentOf s u, (t.cluster c).lentRun = true ∧ (t.cluster c).ipc = BitVec.ofNat 48 x.nsched))

/-- The jobs of a solver unit (R161, R176 to R182): a descriptor at the head of the queue of a free unit is taken. One
that breaks R177 sets ILLEGAL and ends at once with JOBDONE. LOAD checks its structure and ends: it writes LOADED and the
fingerprint of one that passes, and takes LOADED from one that does not. A SOLVE of a structure that is not loaded is
illegal; one of a loaded structure becomes the job in hand, warm where WORK holds the structure's fingerprint and it asks
for that, and requests its first evaluation.
Where the spec leaves a point open the model's choice of log 17 and 75 decides it. -/
def Obligations.SolverTakesJobs : Prop :=
  ∀ (u : Fin 2) (s : State) (d : JobDesc) (size head a : Nat) (s₁ : State),
    let s₂ := ((jobTake u size head a d).run s₁).2
    let taken (t : State) : Prop := t.rdF .SLV_JQ_HEAD Fld.SLV_JQ_HEAD_HEAD u = (head + 1) % size ∧
      t.rdF .SLV_CURJOB Fld.SLV_CURJOB_ADDR u = a % 2 ^ 48
    let ended (t : State) : Prop := (t.solver u).job = none ∧ t.rdF .SLV_EVT Fld.SLV_EVT_JOBDONE u = 1 ∧ Out.solver u ∈ t.out
    suState s u = 1 → (s.solver u).round = none → (s.solver u).job = none → s.jobNext u = some (size, head, a) →
    Reads (suGet u a 128) s d s₁ →
    (∀ i ∈ [Instr.loadJob u, .solveJob u], JobDesc.ok d = false → Completes i s fun t =>
      taken t ∧ ended t ∧ t.rdF .SLV_ERR Fld.SLV_ERR_ILLEGAL u = 1) ∧
    (∀ x rb cb s₃ s₄ s₅, JobDesc.ok d = true → JobDesc.kind d = 1 → Reads (suGet u (JobDesc.struct' d) 64) s₂ x s₃ →
      let z := structOf x
      let fp := sha64 (leBytes 8 z.m ++ leBytes 8 z.n ++ leBytes 8 z.nnz ++ leBytes 8 z.bsize ++ rb ++ cb)
      let good := structOk z (JobDesc.struct' d) (!bit 255 x && bits 511 321 x == 0) ((chunks 8 (z.m + 2) rb).map leNat)
        ((chunks 4 (z.nnz + 1) cb).map leNat)
      Reads (vget (suUnit s₂ u) z.rowptr (8 * (z.m + 1))) s₃ rb s₄ → Reads (vget (suUnit s₂ u) z.colidx (4 * z.nnz)) s₄ cb s₅ →
      (∀ s₆, good = false → Reads (suPut u (JobDesc.struct' d) (leBytes 64 (putBits 320 320 x 0))) s₅ () s₆ →
        Completes (.loadJob u) s fun t => taken t ∧ ended t ∧ ∀ b, t.byte b = ((jobEnd u (JobDesc.stat d) 7).run s₆).2.byte b) ∧
      (∀ s₆, good = true →
        Reads (suPut u (JobDesc.struct' d) (leBytes 64 (putBits 320 320 (putBits 319 256 x fp) 1))) s₅ () s₆ →
        Completes (.loadJob u) s fun t =>
          taken t ∧ ended t ∧ ∀ b, t.byte b = ((jobEnd u (JobDesc.stat d) 0xB).run s₆).2.byte b)) ∧
    (∀ x s₃, JobDesc.ok d = true → JobDesc.kind d = 2 → Reads (suGet u (JobDesc.struct' d) 64) s₂ x s₃ →
      ((structOf x).loaded = false → Completes (.solveJob u) s fun t =>
        taken t ∧ ended t ∧ t.rdF .SLV_ERR Fld.SLV_ERR_ILLEGAL u = 1) ∧
      (∀ fp s₄ s₅, (structOf x).loaded = true → Reads (suGet u (jobWorkAt d (structOf x) 0) 8) s₃ fp s₄ →
        Reads (setupRun u d) s₂ () s₅ →
        let warm := JobDesc.warm d && fp == (structOf x).fprint
        Completes (.solveJob u) s fun t =>
          taken t ∧ (t.solver u).evseq = (s.solver u).evseq + 1 ∧ suState t u = 5 ∧
          t.rdF .SLV_STATUS Fld.SLV_STATUS_JOB u = 1 ∧
          (JobDesc.warm d = true → warm = false → t.rdF .SLV_EVT Fld.SLV_EVT_WARM_REJECT u = 1) ∧
          tokenCount t (JobDesc.evcl d) (JobDesc.evtok d) = min (tokenCount s (JobDesc.evcl d) (JobDesc.evtok d) + 1) 65535 ∧
          (t.solver u).job = some { Job.start a d with warm := warm, phase := .waiting }))

/-- The outer iterates of a job (R178 to R181): the inner solve's end writes its step and the next iterate, x plus that
step, and requests the evaluation. A change list of another evaluation is left alone, one of another structure ends the
job, and any other whose entries are applied is judged by the gradient's norm: the job ends where ρ is no number, where
it is within TOL, or at OUTMAX, and goes on to an inner solve otherwise.
Where the spec leaves a point open the model's choice of log 17, 75 and 87 decides it. -/
def Obligations.SolverOuterIterates : Prop :=
  ∀ (u : Fin 2) (s : State) (j : Job),
    let d : JobDesc := j.desc.toNat
    let seq := (s.solver u).evseq
    let ended (t : State) : Prop := (t.solver u).job = none ∧ t.rdF .SLV_EVT Fld.SLV_EVT_JOBDONE u = 1 ∧ Out.solver u ∈ t.out
    s.jobOf u = some j →
    (∀ y a r x p d0 s₁ s₂ s₃ s₄ s₅ s₆ s₇ s₈ s₉ s₁₀, j.phase = .inner → suState s u = 4 → (s.solver u).spoilt = false →
      let t := structOf y
      let args := words64 (r ++ p ++ d0)
      let n := min (Config.innerIters j.desc a.rows a.cols a.vals args) d.itmax
      let delta := Config.innerStep j.desc a.rows a.cols a.vals args
      let next := stepBy (words64 x) delta t.n
      Reads (suGet u d.struct' 64) s y s₁ → Reads (readCsr u t) s₁ a s₂ → Reads (suList u d.rbase 8 t.m) s₂ r s₃ →
      Reads (suList u d.xbase 8 t.n) s₃ x s₄ →
      Reads (suList u (jobWorkAt d t 2) 8 (Config.precondition j.desc a.rows a.cols a.vals).length) s₄ p s₅ →
      Reads (if j.warm && j.k == 0 then suList u (jobWorkAt d t 1) 8 t.n else .ret (.ok (List.replicate t.n 0))) s₅ d0 s₆ →
      Reads (suPut u (jobWorkAt d t 1) ((List.range t.n).flatMap fun i => leBytes 8 (delta.getD i 0).toNat)) s₆ () s₇ →
      Reads (statMod u d.stat fun y => putBits 95 80 y n) s₇ () s₈ →
      Reads (suPut u d.xbase (next.flatMap fun y => leBytes 8 y.1)) s₈ () s₉ →
      Reads (requestEval u d) ((Prog.all [suFlags u (flagsOf next), count (setSu u) 0x41 n,
        modJob u fun j => { j with k := j.k + 1, phase := .request }]).run s₉).2 () s₁₀ →
      Completes (.innerSolveEnd u) s fun t =>
        (t.solver u).evseq = seq + 1 ∧ suState t u = 5 ∧
        (t.solver u).job = some { j with k := j.k + 1, phase := .waiting } ∧ (∀ b, t.byte b = s₁₀.byte b) ∧
        tokenCount t d.evcl d.evtok = min (tokenCount s d.evcl d.evtok + 1) 65535) ∧
    (∀ h s₁, j.phase = .waiting → suState s u = 5 → Reads (suGet u d.clbase 64) s h s₁ →
      (bits 63 0 h ≠ seq → Completes (.changeListComplete u) s fun t => t = s₁) ∧
      (∀ x s₂, bits 63 0 h = seq → Reads (suGet u d.struct' 64) s₁ x s₂ →
        (bits 167 104 h ≠ (structOf x).fprint → Completes (.changeListComplete u) s fun t => ended t) ∧
        (∀ es skips a r s₃ s₄ s₆ s₇ s₉, bits 167 104 h = (structOf x).fprint →
          Reads (suList u (d.clbase + 64) 16 (bits 103 64 h)) s₂ es s₃ →
          Reads (applyChanges u (structOf x) es) s₃ skips s₄ →
          let s₅ := ((Prog.when (decide (skips ≠ 0)) (setF .SLV_ERR Fld.SLV_ERR_CLRANGE u)).run s₄).2
          Reads (readCsr u (structOf x)) s₅ a s₆ → Reads (suList u d.rbase 8 (structOf x).m) s₆ r s₇ →
          let g := Config.norm2 (Config.gradient (structOf x).n a.rows a.cols a.vals (words64 r))
          let j₀ := if j.k = 0 then { j with g0 := g } else j
          let rho := rhoOf j₀.g0.toNat g.toNat
          let ready := fle b64 rho.1 d.accept
          Reads (judgeIterate u j₀ (structOf x) rho.1 skips) ((suFlags u rho.2).run s₇).2 () s₉ →
          Completes (.changeListComplete u) s fun t =>
            (skips ≠ 0 → t.rdF .SLV_ERR Fld.SLV_ERR_CLRANGE u = 1) ∧
            if b64.nonfinite rho.1 ∨ fle b64 rho.1 d.tol = true ∨ j.k = d.outmax then
              ended t ∧ (b64.nonfinite rho.1 = false → (fle b64 rho.1 d.tol = true ∨ ready = true) →
                (⟨d.stat, BitVec.ofNat 64 rho.1⟩ : Published) ∈ (t.solver u).publish)
            else ∃ j', (t.solver u).job = some j' ∧ j'.k = j.k ∧ j'.g0 = j₀.g0 ∧ j'.rho = BitVec.ofNat 64 rho.1 ∧
              j'.ready = ready ∧ j'.phase = .inner ∧ suState t u = 4)))

/-! ### Turnarounds, strobes and policies -/

/-- Turnarounds (R12, R18, R23 to R27, R134): the lead Landing Unit executes a decision that its stepping binding holds: at
a commit the commit counter advances, every Landing Unit's copy of VPTR flips, its copy of MPTR flips where the step
wrote a pending mooring, and its run of skips is 0; at a skip both stay and the run grows. The lead shows TURN, and the
strobe is raised for every group of the binding. Without a decision, in a turnaround or out of a step nothing happens.
Once every group has acknowledged, the step counter advances, the turnaround ends, and a stepping binding begins its next
step, or stops where a STOP without a step is due; at a commit every crossing whose time has come opens.
Where the spec leaves a point open the model's choice of log 64 decides it. -/
def Obligations.TurnaroundsFollowTheDecision : Prop :=
  ∀ (b : Fin 8) (s : State),
    let k := s.binding b
    (∀ d, k.decision = some d → k.turning = none → s.bstate b = 3 → k.taken = [] → Completes (.turnaround b) s fun t =>
      (t.binding b).turning = some (some d) ∧ (t.binding b).decision = none ∧ (t.binding b).await = s.groupsOf b ∧
      (t.binding b).commit = (if d then k.commit + 1 else k.commit) ∧
      (∀ u, leadOf (s.owned b) = some u → t.rdF .LND_STATUS Fld.LND_STATUS_STATE u = 5) ∧
      ∀ u ∈ s.lus b, vptr t u = (if d then 1 - vptr s u else vptr s u) ∧
        mptr t u = (if d && (s.lus b).any (fun x => s.rdF .LND_STATUS Fld.LND_STATUS_PENDMOOR x == 1) then 1 - mptr s u
          else mptr s u) ∧
        t.rdF .LND_SKIPRUN Fld.LND_SKIPRUN_COUNT u =
          (if d then 0 else satAdd Fld.LND_SKIPRUN_COUNT.w (s.rdF .LND_SKIPRUN Fld.LND_SKIPRUN_COUNT u) 1)) ∧
    ((k.decision = none ∨ k.turning.isSome ∨ s.bstate b ≠ 3) → Completes (.turnaround b) s fun t => t = s) ∧
    ((k.turning = none ∨ k.await ≠ []) → Completes (.strobeAcknowledged b) s fun t => t = s) ∧
    (∀ d, k.turning = some d → k.await = [] → Completes (.strobeAcknowledged b) s fun t =>
      let n := (match s.ending b with
        | some e => e + 1
        | none => k.step)
      (t.binding b).turning = none ∧ (t.binding b).step = n ∧ (t.binding b).taken = [] ∧
      (s.bstate b = 3 → k.stop = none → ∀ u ∈ s.lus b, t.rdF .LND_STEP Fld.LND_STEP_STEP u = n % 2 ^ 48) ∧
      (s.bstate b = 3 → k.stop = some 0 → t.bstate b = 2 ∧ (t.binding b).stop = none ∧ (t.binding b).halted = true) ∧
      (d = some true → s.lus b ≠ [] → k.h ≠ 0 →
        (t.binding b).xopen = k.xopen ++ (List.range (k.step / k.h - k.cross)).map (fun i => k.cross + 1 + i) ∧
        (t.binding b).cross = max k.cross (k.step / k.h)))

/-- Strobes (R306 to R308, R320, R323): a group that a binding's strobe, without images, still waits for takes every
pending value and acknowledges, and so does a group that an APPLY waits for; any other group does nothing. APPLY raises
the strobe for the groups of no binding; FORCETURN begins a turnaround of a binding that may be forced, and sets CMDIGN
otherwise; END of a binding in existence leaves it FREE with nothing its own, and sets CMDIGN for a free one.
Where the spec leaves a point open the model's choice of log 63 and 64 decides it. -/
def Obligations.StrobesApplyPendingValues : Prop :=
  ∀ (s : State),
    let waits (g : Group) := firstFrom (fun b => (s.binding b).turning.isSome && (s.binding b).await.contains g) 8 0
    let applied (g : Group) (t : State) : Prop := ∀ (k : RegKey) (v : Word), keyGroup k = groupCode g →
      k.name.info.acc = .rw → SMap.get (fun _ => none) s.pend k = some v →
      t.rd k.name k.i k.j = v &&& regMask k.name ∧ SMap.get (fun _ => none) t.pend k = none
    (∀ g b, waits g = some b → (s.binding b).taken = [] → Completes (.strobeScan g) s fun t =>
      applied g t ∧ (t.binding b).await = (s.binding b).await.filter (· != g)) ∧
    (∀ g, waits g = none → Completes (.strobeScan g) s fun t =>
      if s.await.contains g then applied g t ∧ t.await = s.await.filter (· != g) else t = s) ∧
    Completes .apply s (fun t => t.await = s.freeGroups) ∧
    (∀ b : Fin 8, Completes (.forceturn b) s fun t =>
      if s.forceable b = true then (t.binding b).turning = some none ∧ (t.binding b).step = (s.binding b).step
      else t.rdF .BND_ERR Fld.BND_ERR_CMDIGN = 1 ∧ t.binding b = s.binding b) ∧
    (∀ b : Fin 8, Completes (.bndEnd b) s fun t =>
      if s.bound b = true then
        t.bstate b = 0 ∧ t.rd .BND_CLMASK b = 0 ∧ t.rd .BND_UNITS b = 0 ∧ t.rd .BND_CHMASK b = 0 ∧
        t.binding b = Binding.init
      else t.rdF .BND_ERR Fld.BND_ERR_CMDIGN = 1 ∧ t.binding b = s.binding b)

/-- What firmware does after a turnaround of an existing binding (R194, R195): it keeps the counts of the window's steps,
and, for each cluster in turn, raises a tag's pass floor where its counts say so and lowers it once its hold is
over, in ARY_PASSFLOOR of every cluster. A commit counts toward the restoration of the scales; a run of 4 skips raises the
floor of the tags whose counts moved, one of 8 halves LND_LRSCALE of every Landing Unit, and one of 16 reports a numerical
failure and asks for a rewind.
A binding that does not exist, or has no Landing Unit for a run of skips, is left alone.
Where the spec leaves a point open the model's choice of log 26 decides it. -/
def Obligations.FirmwareFollowsCountsAndSkips : Prop :=
  ∀ (b : Fin 8) (s : State),
    let p := (s.binding b).pol
    let win := max 1 p.win
    (s.bound b = false → Completes (.passPolicy b) s fun t => t = s) ∧
    (s.bound b = true → Completes (.passPolicy b) s fun t => ∀ τ < 256,
      (t.tagPol b τ).hist = (tagCounts s b τ :: (s.tagPol b τ).hist).take win ∧
      let k := s.tagPol b τ
      let commit := (s.binding b).commit
      let one (x : Nat × Nat) (c : Nat) : Nat × Nat :=
        let now := areaCounts s b c τ
        let old := Tab.at (0, 0) (k.hist.getD (win - 1) []) c
        if (p.raise ≤ now.1 - old.1 ∨ 1 ≤ now.2 - old.2) ∧ x.1 < 3 then (if x.1 ≤ 1 then 2 else 3, commit)
        else if 2 ≤ x.1 ∧ p.hold ≤ commit - x.2 then (if x.1 = 3 then 2 else 0, commit) else x
      let y := (s.clusters b).foldl one (k.floor, k.raised)
      (t.tagPol b τ).floor = y.1 ∧ (t.tagPol b τ).raised = y.2 ∧
      (y.1 ≠ k.floor → ∀ c ∈ s.clusters b, getF ⟨2 * (τ % 32), 2⟩ (t.pending' ⟨.ARY_PASSFLOOR, c, τ / 32⟩) = y.1)) ∧
    ((s.lus b = [] ∨ s.bound b = false) → Completes (.skipRunResponse b) s fun t => t = s) ∧
    (∀ lead l, s.lus b = lead :: l → s.bound b = true → Completes (.skipRunResponse b) s fun t =>
      let run := s.rdF .LND_SKIPRUN Fld.LND_SKIPRUN_COUNT lead
      (t.binding b).pol.commits = (if run = 0 then p.commits + 1 else 0) ∧
      (run = 0 → ∀ τ < 256, (t.tagPol b τ).base = tagCounts s b τ) ∧
      (run = 4 → ∀ τ < 256, ((tagCounts s b τ).any fun e =>
          let o := Tab.at (0, 0) (s.tagPol b τ).base e.1
          decide (o.1 < e.2.1) || decide (o.2 < e.2.2)) = true → (t.tagPol b τ).floor = 3) ∧
      (run = 8 → ∀ u ∈ s.lus b, t.pending' ⟨.LND_LRSCALE, u, 0⟩ =
        BitVec.ofNat 64 (b32.mul .rne ((s.rd .LND_LRSCALE u).toNat % 2 ^ 32) 0x3F000000).1 &&& regMask .LND_LRSCALE) ∧
      (run = 16 → Out.numericalFailure b ∈ t.out ∧ Out.rewindWanted b ∈ t.out))

/-! ### Vaults, codecs and translation -/

/-- A vault reads and writes sectors (R202, R203, R219): an address outside the mapping in force is not there. A read
answers the sector as its code allows: intact as stored, one symbol corrected and counted, or poisoned with UE and
ERRADDR set; it leaves every byte. A write puts its bytes into the sector and leaves every other byte; a whole sector
takes its own poison, a part keeps what stood and adds its own; the sector is written without error unless an
injection is armed for it. The vaults' services (R200, R204, R219, R310, R428): a write of MEM_INJ is posted and arms
nothing where it names no sector of the vault; a scrub pass corrects or poisons every sector whose codeword has
changed, unless its interval is 0; a change of temperature sets and clears the doubled refresh rate and its errors; a
layer at 95 °C is told to the telemetry controller.
Where the spec leaves a point open the model's choice of log 84 and 85 decides it. -/
def Obligations.SectorsAndVaults : Prop :=
  (∀ (addr : BitVec 40) (s : State),
     let sec := addr.toNat / 64
     let v := s.vaultOf (64 * sec)
     (s.stackEnd ≤ addr.toNat → ∀ upset off data p,
       exec (.sectorRead addr upset) s = .fault .noSuchAddress ∧ exec (.sectorWrite addr off data p) s = .fault .noSuchAddress) ∧
     (addr.toNat < s.stackEnd →
       (∀ upset, let e := (upset.filter fun p : Nat × Byte => decide (p.1 < 72)).foldl (fun e p => errAdd e p.1 p.2) (s.errOf sec)
         Completes (.sectorRead addr upset) s fun t => (∀ a, t.byte a = s.byte a) ∧
           match rsDecode e with
           | .intact => t.errOf sec = e ∧
             Out.sector (64 * sec) (s.storedData sec e) (s.storedMeta sec e) ((s.storedMeta sec e).testBit 31) ∈ t.out
           | .one i x => let e' := errAdd e i x
             t.errOf sec = e' ∧ t.rdF .MEM_CECNT Fld.MEM_CECNT_COUNT v =
               satAdd Fld.MEM_CECNT_COUNT.w (s.rdF .MEM_CECNT Fld.MEM_CECNT_COUNT v) 1 ∧
             Out.sector (64 * sec) (s.storedData sec e') (s.storedMeta sec e') ((s.storedMeta sec e').testBit 31) ∈ t.out
           | .bad => t.errOf sec = e ∧ t.rdF .MEM_ERR Fld.MEM_ERR_UE v = 1 ∧
             t.rdF .MEM_ERRADDR Fld.MEM_ERRADDR_ADDR v = 64 * sec ∧
             Out.sector (64 * sec) (s.storedData sec e) (s.storedMeta sec e) true ∈ t.out) ∧
       (∀ off data p, data ≠ [] → off < 64 → s.errOf sec = [] ∨ off = 0 ∧ 64 ≤ data.length →
         Completes (.sectorWrite addr off data p) s fun t =>
           let lo := 64 * sec + off
           (∀ a, t.byte a = if lo ≤ a ∧ a < lo + min data.length (64 - off) then data.getD (a - lo) 0 else s.byte a) ∧
           t.metaOf sec = BitVec.ofNat 32 (if off = 0 ∧ 64 ≤ data.length then metaWord 0 p
             else metaWord (s.metaOf sec).toNat ((s.metaOf sec).getLsbD 31 || p)) ∧
           ((flagF Fld.MEM_INJ_ARM (s.rd .MEM_INJ v) && getF Fld.MEM_INJ_SECTOR (s.rd .MEM_INJ v) == sec) = false →
             t.errOf sec = [])) ∧
       (∀ off data p, (data = [] ∨ 64 ≤ off) → Completes (.sectorWrite addr off data p) s fun t => t = s))) ∧
  (∀ (v : Fin 16) (s : State),
     (∀ val, Completes (.memInj v val) s fun t =>
       if s.wbusy (.mem v) = true then t.rdF .MEM_ERR Fld.MEM_ERR_WLOST v = 1 ∧ t.rd .MEM_INJ v = s.rd .MEM_INJ v
       else t.wbusy (.mem v) = true ∧
         if flagF Fld.MEM_INJ_ARM val = true ∧ injOk s v val = false then
           t.rd .MEM_INJ v = putF Fld.MEM_INJ_ARM val 0 &&& regMask .MEM_INJ ∧ t.rdF .MEM_ERR Fld.MEM_ERR_INJBAD v = 1
         else t.rd .MEM_INJ v = val &&& regMask .MEM_INJ) ∧
     ((scrubWork s v).Nodup → Completes (.scrubPass v) s fun t =>
       if s.rdF .MEM_SCRUB Fld.MEM_SCRUB_HOURS v = 0 then t = s
       else ∀ sec ∈ scrubWork s v,
         match rsDecode (s.errOf sec) with
         | .intact => t.errOf sec = s.errOf sec
         | .one i x => t.errOf sec = errAdd (s.errOf sec) i x
         | .bad => t.errOf sec = [] ∧ (t.metaOf sec).getLsbD 31 = true) ∧
     (∀ temps, let h := hottest (temps.take 8)
       Completes (.refreshRateChange v temps) s fun t =>
         t.rdF .MEM_TEMP Fld.MEM_TEMP_DEGC v = h.1 ∧ t.rdF .MEM_TEMP Fld.MEM_TEMP_LAYER v = h.2 ∧
         t.rdF .MEM_STATUS Fld.MEM_STATUS_HOTREF v =
           (if 85 < h.1 then 1 else if h.1 ≤ 82 then 0 else s.rdF .MEM_STATUS Fld.MEM_STATUS_HOTREF v) ∧
         (85 < h.1 → t.rdF .MEM_ERR Fld.MEM_ERR_HOT v = 1) ∧ (95 ≤ h.1 → t.rdF .MEM_ERR Fld.MEM_ERR_OVERTEMP v = 1)) ∧
     Completes (.dramOvertemp v) s (fun t => t.rdF .MEM_ERR Fld.MEM_ERR_OVERTEMP v = 1 ∧ t.tel = { s.tel with hold := true }))

/-- A codec changes its decode table (R210, R216, R218, R310): a write of DTSTEP is posted; it starts a load into the
other bank, or waits for a retiring one, and sets DTBAD for the fixed table or the table in force. A loaded table
that is valid stands LOADED in the other bank; one that is not, or cannot be read, sets DTBAD and leaves the bank
empty. A bank that has retired is empty, and a load that waited starts. Invalidations and the fault log's read mark
(R226, R238, R245, R310): a posted write of XLT_INV drops what it covers from its unit's cache, and one of XLT_INVALL
from every unit's; WBUSY is 1 until the invalidation is done, and only then; a read mark is a posted write; each
write that finds another in progress is lost.
Where the spec leaves a point open the model's choice of log 7, 18, 71 and 80 decides it. -/
def Obligations.TablesAndTranslations : Prop :=
  (∀ (e : Fin 40) (s : State),
     let oth (t : State) : Nat := t.rdF .MEM_CDC_STATUS Fld.MEM_CDC_STATUS_OTHSTATE e
     let othTid (t : State) : Nat := t.rdF .MEM_CDC_STATUS Fld.MEM_CDC_STATUS_OTHTID e
     let other (t : State) : Option Bank :=
       if s.rdF .MEM_CDC_STATUS Fld.MEM_CDC_STATUS_CURBANK e = 0 then (t.cdc e).bank1 else (t.cdc e).bank0
     let tid := s.rdF .MEM_CDC_DTADDR Fld.MEM_CDC_DTADDR_TID e
     let bad (t : State) : Prop := t.rdF .MEM_CDC_ERR Fld.MEM_CDC_ERR_DTBAD e = 1
     (∀ val, Completes (.dtstepLoad e val) s fun t =>
       if s.wbusy (.cdc e) = true then t.rdF .MEM_CDC_ERR Fld.MEM_CDC_ERR_WLOST e = 1 ∧ t.cdc e = s.cdc e
       else t.wbusy (.cdc e) = true ∧
         if tid = 15 ∨ s.curTid e = some tid then bad t ∧ t.cdc e = s.cdc e
         else
           (t.cdc e).stid = tid ∧ (t.cdc e).src = s.rdF .MEM_CDC_DTADDR Fld.MEM_CDC_DTADDR_ADDR e / 64 * 64 ∧
           t.rdF .MEM_CDC_STATUS Fld.MEM_CDC_STATUS_SWSTEP e =
             getF Fld.MEM_CDC_DTSTEP_STEP val % 2 ^ Fld.MEM_CDC_STATUS_SWSTEP.w ∧
           if oth s = 3 then (t.cdc e).waiting = true ∧ oth t = 3
           else (t.cdc e).waiting = false ∧ oth t = 1 ∧ othTid t = tid ∧ other t = none) ∧
     (oth s ≠ 1 → Completes (.tableLoadDone e) s fun t => t = s) ∧
     (oth s = 1 → let r := ((vget { cdcUnit s e with codec := none } (s.cdc e).src 128).run s).1
       Completes (.tableLoadDone e) s fun t =>
         match r with
         | .ok d =>
           if tabValid (BitVec.ofNat 1024 (leNat d)) = true then
             oth t = 2 ∧ other t = some ⟨othTid s, BitVec.ofNat 1024 (leNat d)⟩
           else bad t ∧ oth t = 0
         | .error _ => bad t ∧ oth t = 0) ∧
     Completes (.bankRetire e) s (fun t =>
       if oth s = 3 then
         other t = none ∧ (if (s.cdc e).waiting = true then oth t = 1 ∧ othTid t = (s.cdc e).stid % 16 ∧ (t.cdc e).waiting = false
           else oth t = 0)
       else t = s)) ∧
  (∀ (val : BitVec 64) (s : State),
     let kept (x : Nat) : List XEnt := (s.cache x).filter fun e => !(invalOf val).covers e
     (∀ x : Fin 35, Completes (.xltInv x val) s fun t =>
       if s.wbusy (.xlt x) = true then t.rdF .XLT_ERR Fld.XLT_ERR_WLOST x = 1 ∧ t.cache x = s.cache x
       else t.wbusy (.xlt x) = true ∧ t.cache x = kept x ∧
         t.rdF .XLT_STATUS Fld.XLT_STATUS_CACHED x = min (kept x).length 4095) ∧
     Completes (.xltInvall val) s (fun t =>
       if s.wbusy .xltAll = true then
         t.rdF .XLT_GSTATUS Fld.XLT_GSTATUS_WLOST = 1 ∧ t.invAll = s.invAll ∧ ∀ x, t.cache x = s.cache x
       else t.wbusy .xltAll = true ∧ t.invAll = true ∧ t.rdF .XLT_GSTATUS Fld.XLT_GSTATUS_WLOST = 0 ∧
         ∀ x < 35, t.cache x = kept x) ∧
     (∀ x : Option (Fin 35), Completes (.invalidationDone x) s fun t =>
       match x with
       | some i => t.wbusy (.xlt i) = false
       | none => if s.invAll = true then t.wbusy .xltAll = false ∧ t.invAll = false else t = s) ∧
     Completes (.flogRead val) s (fun t =>
       if s.wbusy .xltAll = true then
         t.rdF .XLT_GSTATUS Fld.XLT_GSTATUS_WLOST = 1 ∧ t.rd .XLT_FLOG_READ = s.rd .XLT_FLOG_READ
       else t.wbusy .xltAll = true ∧ t.rd .XLT_FLOG_READ = val &&& regMask .XLT_FLOG_READ))

/-! ### Movers -/

/-- A mover's ring and its commands (R229, R231, R232, R234, R235, R243, R246, R310): a new tail is a posted write, and
one beyond the ring sets BADTAIL; a descriptor fetched moves the head on and starts where it is legal, and sets ILLEGAL
where it breaks R231; a complete one leaves with its count, its token and its event once its STATUS is written, and stays,
FAULTED and without its token, where that write faults; a mover that has met a fault enters FAULT_STOP once nothing is in
flight; STOP, RESUME and ABORT do as R234 says, and STOP and ABORT of an unbound mover set CMDIGN.
Where the spec leaves a point open the model's choice of log 19, 45 and 78 decides it. -/
def Obligations.MoverRingAndCommands : Prop :=
  ∀ (m : Fin 4) (s : State),
    let k := s.mover m
    let st := movState s m
    let head := s.rdF .MOV_HEAD Fld.MOV_HEAD_HEAD m
    let tail := s.rdF .MOV_TAIL Fld.MOV_TAIL_TAIL m
    (∀ val, let n := s.ringSize m
      let new := getF Fld.MOV_TAIL_TAIL val
      Completes (.movTail m val) s fun t =>
        if s.wbusy (.mov m) = true then t.rdF .MOV_ERR Fld.MOV_ERR_WLOST m = 1 ∧ t.rd .MOV_TAIL m = s.rd .MOV_TAIL m
        else t.wbusy (.mov m) = true ∧
          if n ≤ new ∨ n - 1 < (if head ≤ new then new - head else new + n - head) then
            t.rdF .MOV_ERR Fld.MOV_ERR_BADTAIL m = 1 ∧ t.rd .MOV_TAIL m = s.rd .MOV_TAIL m
          else t.rd .MOV_TAIL m = val &&& regMask .MOV_TAIL) ∧
    (∀ d s₁, st ≤ 1 → k.stopped = false → s.rdF .MOV_RING_CTRL Fld.MOV_RING_CTRL_EN m = 1 → head ≠ tail →
      (s.ownerUnit (10 + m)).isSome → k.flights = [] →
      Reads (vget { movUnit s m with codec := none } (s.ringAddr m head) 64) s d s₁ →
      Completes (.descriptorFetch m) s fun t =>
        t.rdF .MOV_HEAD Fld.MOV_HEAD_HEAD m = (head + 1) % s.ringSize m % 2 ^ 16 ∧
        (mdOk (BitVec.ofNat 512 (leNat d)) = false → t.rdF .MOV_ERR Fld.MOV_ERR_ILLEGAL m = 1 ∧
          ((t.mover m).flights = [] ∨ t.rdF .MOV_ERR Fld.MOV_ERR_FAULT m = 1 ∧
            (t.mover m).flights = [⟨head, BitVec.ofNat 512 (leNat d), 0, 0, [], 4, false⟩])) ∧
        (mdOk (BitVec.ofNat 512 (leNat d)) = true → mdOp (BitVec.ofNat 512 (leNat d)) = 3 →
          (t.mover m).flights = [⟨head, BitVec.ofNat 512 (leNat d), 0, 0, [], 1, false⟩] ∧ movState t m = 1)) ∧
    (∀ idx f, s.flight m idx = some f → Completes (.descriptorComplete m idx) s fun t =>
      let status := ((vput { movUnit s m with codec := none } (s.ringAddr m idx + 56)
        (leBytes 8 (statusWord 1 0 f.prog f.pfwd false))).run s).1
      if f.st = 1 ∧ f.prog = mdCount f.desc then
        if (match status with | .ok _ => false | .error _ => true) then
          t.flight m idx = some { f with st := 2 } ∧ (t.mover m).stopped = true ∧
          ∀ c x, tokenCount t c x = tokenCount s c x
        else t.flight m idx = none ∧ t.rdF .MOV_DONECNT Fld.MOV_DONECNT_COUNT m =
          satAdd Fld.MOV_DONECNT_COUNT.w (s.rdF .MOV_DONECNT Fld.MOV_DONECNT_COUNT m) 1 ∧
        (mdSigen f.desc = true → tokenCount t (mdTcl f.desc) (mdTok f.desc) =
          min (tokenCount s (mdTcl f.desc) (mdTok f.desc) + 1) 65535) ∧
        (mdIrq f.desc = true → Out.moverDone m idx ∈ t.out)
      else t = s) ∧
    Completes (.moverFaultStop m) s (fun t =>
      if k.stopped = true ∧ st ≤ 1 ∧ k.flights.all (fun f => f.st != 1) = true then movState t m = 2 ∧ t.mover m = k
      else t = s) ∧
    Completes (.movStop m) s (fun t =>
      if st = 4 then t.rdF .MOV_ERR Fld.MOV_ERR_CMDIGN m = 1 ∧ t.mover m = k
      else if 1 < st then t = s
      else movState t m = (if (t.mover m).stopped then 2 else 3) ∧ (k.stopped = true → (t.mover m).stopped = true) ∧
        ∀ f ∈ (t.mover m).flights, f.st ≠ 1) ∧
    Completes (.movResume m) s (fun t =>
      if st = 2 ∨ st = 3 then movState t m ≤ 1 ∧ (∀ f ∈ (t.mover m).flights, f.st ≤ 1 ∨ f.st = 4) ∧
        ((t.mover m).stopped = true → t.rdF .MOV_ERR Fld.MOV_ERR_FAULT m = 1) ∧
        ((k.flights.map (·.idx)).Nodup → ∀ f ∈ k.flights, f.st = 2 ∨ f.st = 3 →
          t.flight m f.idx = some { f with st := 1, sent := f.prog, done := [] })
      else t.rdF .MOV_ERR Fld.MOV_ERR_CMDIGN m = 1 ∧ t.mover m = k) ∧
    Completes (.movAbort m) s (fun t =>
      if st = 4 then t.rdF .MOV_ERR Fld.MOV_ERR_CMDIGN m = 1 ∧ t.mover m = k
      else movState t m = 0 ∧ t.mover m = Mover.init ∧ t.rdF .MOV_HEAD Fld.MOV_HEAD_HEAD m = tail)

/-- A mover moves the next element of a descriptor in flight (R221, R230, R232, R234, R236), where its accesses go well
and leave the descriptor in flight: COPY writes at the destination what it read, FILL its pattern, and each completes
the element; PUT reads it and sends it, a block of a compressed page on class 3 as it is stored, and the peer's
acknowledgement completes it; GET and FETCH ask the peer for it. A fault that the peer reports takes the descriptor out
of flight with REMOTE set, and the mover fetches no more.
Where the spec leaves a point open the model's choice of log 20, 44 and 58 decides it. -/
def Obligations.MoverMovesElements : Prop :=
  ∀ (m : Fin 4) (idx : Nat) (s : State) (f : Flight), s.flight m idx = some f → f.st = 1 →
    let d := f.desc
    let lin := f.sent
    let f₁ : Flight := { f with sent := lin + 1 }
    let s₁ := ((modFlight m idx fun x => { x with sent := lin + 1 }).run s).2
    let moved (t : State) : Prop := ∃ f', t.flight m idx = some f' ∧ f'.sent = lin + 1 ∧
      (f.prog = lin → f.done = [] → f'.prog = lin + 1)
    (lin < mdCount d →
      (∀ x s₂ s₃, mdOp d = 1 → Reads (movRead m (mdFrom d lin) (mdSize d)) s₁ x s₂ → x.any (·.2) = false →
        Reads (movWrite m (mdTo d lin) x) s₂ () s₃ → s₃.flight m idx = some f₁ →
        Completes (.copy m idx 1) s fun t => moved t ∧ ∀ a, t.byte a = s₃.byte a) ∧
      (∀ s₃, mdOp d = 2 → Reads (movWrite m (mdTo d lin) ((fillBytes d lin).map fun b => (b, false))) s₁ () s₃ →
        s₃.flight m idx = some f₁ → Completes (.fill m idx 1) s fun t => moved t ∧ ∀ a, t.byte a = s₃.byte a) ∧
      (∀ tr x s₂ s₃, mdOp d = 3 → Reads (translate (movUnit s₁ m) .read (mdFrom d lin)) s₁ tr s₂ →
        (tr.cmp && mdCls d == 3 && mdEsz d == 5) = false → Reads (movRead m (mdFrom d lin) (mdSize d)) s₂ x s₃ →
        x.any (·.2) = false → s₃.flight m idx = some f₁ → Completes (.put m idx 1 [] 0) s fun t =>
          t.flight m idx = some f₁ ∧
          t.out = ((sendElem m idx d lin 0x19 (mdCls d) false (leBytes 8 (mdTo d lin) ++ x.map (·.1))).run s₃).2.out) ∧
      (∀ tr tag sec s₂ s₃, mdOp d = 3 → Reads (translate (movUnit s₁ m) .read (mdFrom d lin)) s₁ tr s₂ →
        (tr.cmp && mdCls d == 3 && mdEsz d == 5) = true → (blockAsStored tr.pa).run s₂ = (some (tag, sec), s₃) →
        s₃.flight m idx = some f₁ → Completes (.put m idx 1 [] 0) s fun t => t.flight m idx = some f₁ ∧
          t.out = ((sendElem m idx d lin 0x20 3 false (leBytes 8 (mdTo d lin) ++ leBytes 4 tag ++ sec)).run s₃).2.out) ∧
      (mdOp d = 4 → Completes (.get m idx 1 0) s fun t => t.flight m idx = some f₁ ∧ (∀ a, t.byte a = s.byte a) ∧
        t.out = ((sendElem m idx d lin 0x1A (mdCls d) false (askBody d lin)).run s₁).2.out) ∧
      (mdOp d = 5 → Completes (.fetch m idx 1 0) s fun t => t.flight m idx = some f₁ ∧ (∀ a, t.byte a = s.byte a) ∧
        t.out = ((sendElem m idx d lin 0x11 (mdCls d) false (askBody d lin)).run s₁).2.out)) ∧
    (∀ a < f.sent, mdOp d = 3 → Completes (.put m idx 0 [a] 0) s fun t => ∃ f', t.flight m idx = some f' ∧
      f'.sent = f.sent ∧ f'.st = 1 ∧ (f.prog = a → f.done = [] → f'.prog = a + 1)) ∧
    (∀ remote op i, 1 ≤ remote → remote ≤ 4 → mdOp d = op →
      (op, i) ∈ [(3, Instr.put m idx 0 [] remote), (4, .get m idx 0 remote), (5, .fetch m idx 0 remote)] →
      Completes i s fun t => (t.mover m).stopped = true ∧ t.rdF .MOV_ERR Fld.MOV_ERR_REMOTE m = 1 ∧
        ∃ f', t.flight m idx = some f' ∧ f'.st = 2)

/-- The movers' packets (R230, R232, R253, R272, R332), where they arrive whole for this mover and the accesses they ask
for go well. At the peer, of a binding that it knows, a PUT's element is written, a GET's is read and answered, and a
buddy block is written as stored. A FETCHREQ for an aligned block of a working copy or its scales is answered with the
exclusive or of slots v and 1−v as the codec codes it, or raw where the request asks for that or the coding bypasses,
with its digest; any other bytes are answered raw. At home, the data of an element in flight is written and completes
it: a GET's as it is, a fetched block raw or expanded against the local copy, with its digest beside the working copy;
a stale one sets DECODE_STALE and is asked for again. What has been taken gives its credits back.
Where the spec leaves a point open the model's choice of log 58 decides it. -/
def Obligations.MoverPackets : Prop :=
  ∀ (m : Fin 4) (p : Packet) (s : State), p.lu = m →
    (∀ b, s.bindingOf p.bid.toNat = some b →
      (∀ s₁, Arrives p 0x19 → Reads (vwrite (peerUnit m b) (leNat (p.payload.take 8) % 2 ^ 48)
          ((p.payload.drop 8).map fun x => (x, p.pois))) s () s₁ →
        Completes (.putPacket m p) s fun t => ∀ a, t.byte a = s₁.byte a) ∧
      (∀ d s₁, Arrives p 0x1A → Reads (vget (peerUnit m b) (leNat (p.payload.take 6)) (leNat ((p.payload.drop 6).take 2))) s d s₁ →
        Completes (.getreq m p) s fun t =>
          t.out = (((answer p 0x1B 0 false d).seq (creditBack p (flitsOf p))).run s₁).2.out ∧ ∀ a, t.byte a = s.byte a) ∧
      (∀ tr s₁, Arrives p 0x20 → Reads (translate (peerUnit m b) .write (leNat (p.payload.take 8) % 2 ^ 48)) s tr s₁ →
        tr.cmp = true → leNat (p.payload.take 8) % 2048 = 0 → Completes (.buddy m p) s fun t => ∀ a, t.byte a =
          ((Prog.each (List.range ((p.payload.drop 12).length / 64)) fun i => secWrite (tr.pa / 64 + i) 0
            (((p.payload.drop 12).drop (64 * i)).take 64) p.pois
            (if i = 0 then leNat ((p.payload.drop 8).take 4) else 0)).run s₁).2.byte a) ∧
      (∀ d s₁ s₂, Arrives p 0x11 → (findOwner (leNat (p.payload.take 6)) (s.lus b)).run s = (none, s₁) →
        Reads (vget (peerUnit m b) (leNat (p.payload.take 6)) (leNat ((p.payload.drop 6).take 2))) s₁ d s₂ →
        Completes (.fetchreq m p) s fun t => (∀ a, t.byte a = s.byte a) ∧
          t.out = (((answer p 0x12 4 true (fetchBody (32 + 2 ^ 10) d (crc32c d) (leNat ((p.payload.drop 6).take 2)) 0)).seq
            (creditBack p (flitsOf p))).run s₂).2.out) ∧
      (∀ u x off new old digest s₁ s₂ s₃ s₄, Arrives p 0x11 → leNat ((p.payload.drop 6).take 2) = 2048 → off % 2048 = 0 →
        (findOwner (leNat (p.payload.take 6)) (s.lus b)).run s = (some (u, x, off), s₁) →
        let v := vptr s₁ u
        let k := x.map
        let copy := decide (off < k.scale)
        let len := min 2048 ((if copy then k.wc + x.wcBytes * x.cnt else k.digest) - off)
        let digestAt := k.digest + 4 * ((off - k.wc) / 2048)
        let coded := codeBlock ⟨0, 0, 0, 0, if copy && x.wcfmt == 1 then 1 else 0, true, true⟩ (s₁.curBank (36 + m))
          (xorBytes new old) (List.replicate 2048 0)
        let raw := p.raw || coded.2.testBit 10
        Reads (vget (peerUnit m b) (x.slot v + off) 2048) s₁ new s₂ →
        Reads (vget (peerUnit m b) (x.slot (1 - v) + off) 2048) s₂ old s₃ →
        Reads (if copy then vget (peerUnit m b) (x.slot v + digestAt) 4 else .ret (.ok (leBytes 4 (crc32c (new.take len))))) s₃
          digest s₄ → s₄.curBank (36 + m) = s₁.curBank (36 + m) →
        Completes (.fetchreq m p) s fun t => (∀ a, t.byte a = s.byte a) ∧
          t.out = (((answer p 0x12 (if copy then x.wcfmt else 4) raw (fetchBody (if raw then 32 + 2 ^ 10 else coded.2)
            (if raw then new else coded.1) (leNat digest) len (if copy then digestAt - off else 0))).seq
              (creditBack p (flitsOf p))).run s₄).2.out)) ∧
    (∀ f, s.flight m p.opid.toNat = some f → f.st = 1 → elemOf p < f.sent → p.pois = false →
      let d := f.desc
      let lin := elemOf p
      let va := mdTo d lin
      let moved (t : State) : Prop := ∃ f', t.flight m f.idx = some f' ∧ (f.prog = lin → f.done = [] → f'.prog = lin + 1)
      let n := p.payload.length - 16
      let tag := leNat (p.payload.take 4)
      let body := (p.payload.drop 4).take n
      let bank := s.bankFor (36 + m) (bits 9 6 tag)
      let tail := p.payload.drop (4 + n)
      let place := leNat (tail.drop 6)
      let land (x : List Byte) : Prog (Except Flt Unit) := (movWrite m va (x.map fun b => (b, false))).bindE fun _ =>
        if place = 0 then .ret (.ok ()) else movWrite m ((va + place) % 2 ^ 48) ((tail.take 4).map fun b => (b, false))
      let kept (s₁ t : State) : Prop := t.digests = if place = 0 then s₁.digests
        else ((keepDigest ((s.ownerUnit (10 + m)).getD 0) va ((va + place) % 2 ^ 48) (leNat ((tail.drop 4).take 2))).run s₁).2.digests
      (∀ s₁, Arrives p 0x1B → mdOp d = 4 → p.payload.length = mdSize d →
        Reads (movWrite m va (p.payload.map fun b => (b, false))) s () s₁ → s₁.flight m f.idx = some f →
        Completes (.getdata m p) s fun t => moved t ∧ ∀ a, t.byte a = s₁.byte a) ∧
      (∀ s₁, Arrives p 0x12 → mdOp d = 5 → 16 ≤ p.payload.length → p.raw = true → n = mdSize d →
        Reads (land body) s () s₁ → s₁.flight m f.idx = some f → Completes (.fetchdata m p) s fun t =>
          moved t ∧ kept s₁ t ∧ ∀ a, t.byte a = s₁.byte a) ∧
      (∀ diff base s₁ s₂, Arrives p 0x12 → mdOp d = 5 → 16 ≤ p.payload.length → p.raw = false →
        (bits 9 6 tag = 15 ∨ bank.isSome) →
        decodeStream (if bits 9 6 tag = 15 then none else bank) (if p.fmt = 1 then 2 else 1) body = some diff →
        Reads (vget (movUnit s m) va 2048) s base s₁ → Reads (land (xorBytes diff base)) s₁ () s₂ →
        s₂.flight m f.idx = some f → Completes (.fetchdata m p) s fun t =>
          moved t ∧ kept s₂ t ∧ ∀ a, t.byte a = s₂.byte a) ∧
      (Arrives p 0x12 → mdOp d = 5 → 16 ≤ p.payload.length → p.raw = false → bits 9 6 tag ≠ 15 → bank = none →
        Completes (.fetchdata m p) s fun t => t.rdF .MEM_CDC_ERR Fld.MEM_CDC_ERR_DECODE_STALE (36 + m) = 1 ∧
          t.flight m f.idx = some f ∧ ∀ a, t.byte a = s.byte a))

/-! ### The fabric -/

/-- The link layer of a port (R247 to R249, R260, R262, R273): LINK_DOWN of an enabled port that is up sets LINKDOWN and
takes it to TRAINING with nothing unacknowledged; a port trained to the peer that the routing expects is UP, a pilot port
at a quarter before full service, and with any other peer is DOWN with PEERMIS; a good flit in sequence is acknowledged,
an acknowledgement frees the flits up to its own, a credit frees what it counts, and the next horn engine's
acknowledgement lets its copy go and its report has it sent again; a replay sends every unacknowledged packet again, and
the sixteenth of one flit takes the link down; an idle flit goes out; an echo goes out, a peer's is answered, and a
reply's round trip less the peer's turnaround is recorded. A port that is not up does nothing. A passing packet goes on
by the hop of its route with one hop more, at most 255, through a port of that hop's bundle that is up: for class 0 the
designated horn port where it is up, else one with the most free credits; its flits wait there or have left. One whose
destination is down, or that meets a second blocked hop, is dropped and counted (R256 to R258). The remap and the marks
of positions are posted writes (R251, R310).
Where the spec leaves a point open the model's choice of log 21 and 76 decides it. -/
def Obligations.PortsAndRouters : Prop :=
  (∀ (p : Fin 24) (s : State),
     let k := s.link p
     let st (t : State) : Nat := t.rdF .FAB_PSTATUS Fld.FAB_PSTATUS_STATE p
     Completes (.linkDown p) s (fun t =>
       if s.rdF .FAB_PCFG Fld.FAB_PCFG_EN p = 1 ∧ s.portUp p = true then
         t.rdF .FAB_PERR Fld.FAB_PERR_LINKDOWN p = 1 ∧ st t = 1 ∧ (t.link p).unacked = [] ∧ (t.link p).queue = []
       else t = s) ∧
     (∀ peer, Completes (.linkTrained p peer) s fun t =>
       if s.rdF .FAB_PCFG Fld.FAB_PCFG_EN p = 1 ∧ s.portUp p = false ∧ s.stopped (55 + p) = false then
         t.rdF .FAB_PSTATUS Fld.FAB_PSTATUS_PEER p = peer.toNat ∧
         if peer.toNat = s.peerOf p then
           st t = (if s.fullMap || !s.pilotPorts.contains p then 2 else 3) ∧ t.link p = { Port.init with tokens := k.tokens }
         else st t = 0 ∧ t.rdF .FAB_PERR Fld.FAB_PERR_PEERMIS p = 1
       else t = s) ∧
     (∀ f, Completes (.flitReceived p f) s fun t =>
       if s.portUp p = true ∧ f.crcOk = true then
         match f.kind with
         | .idle => t.link p = k
         | .ack => match k.unacked.findIdx? fun e => e.seq == f.seq with
           | some i => k.unacked.drop (i + 1) <+: (t.link p).unacked ∧
             (k.queue = [] → t.link p = { k with unacked := k.unacked.drop (i + 1) })
           | none => k.queue = [] → t.link p = k
         | .credit cls vc n => k.unacked <+: (t.link p).unacked ∧ (k.queue = [] → t.link p = k.freed cls vc n)
         | .hornAck => t.link p = { k with copies := k.copies.filter fun c => c.seq != f.seq }
         | .hornNak => ∀ c, (k.copies.find? fun c => c.seq == f.seq) = some c →
           c.flit ∈ (t.link p).queue ∨ ∃ e ∈ (t.link p).unacked, e.flit = c.flit
         | .data => if f.seq = k.rx then t.link p = { k with rx := k.rx + 1 } ∧ Out.ackFlit p f.seq ∈ t.out
           else t.link p = k ∧ t.out = s.out
       else t = s) ∧
     Completes (.flitReplay p) s (fun t =>
       if s.portUp p = true ∧ k.unacked ≠ [] then
         t.rdF .FAB_REPLAYCNT Fld.FAB_REPLAYCNT_COUNT p =
           satAdd Fld.FAB_REPLAYCNT_COUNT.w (s.rdF .FAB_REPLAYCNT Fld.FAB_REPLAYCNT_COUNT p) k.unacked.length ∧
         (∀ e ∈ k.unacked, e.flit.part = 0 → Out.send p e.flit.pkt ∈ t.out) ∧
         if (k.unacked.any fun e => decide (16 ≤ e.replays + 1)) = true then
           t.rdF .FAB_PERR Fld.FAB_PERR_REPLAYMAX p = 1 ∧ st t = 1 ∧ (t.link p).unacked = []
         else t.link p = { k with unacked := k.unacked.map fun e => { e with replays := e.replays + 1 } }
       else t = s) ∧
     Completes (.idleFlit p) s (fun t => if s.portUp p = true then Out.idle p ∈ t.out else t = s) ∧
     (∀ e, Completes (.echoFlit p e) s fun t =>
       if s.portUp p = true then
         match e with
         | .due => Out.echo p ∈ t.out
         | .ask => ∃ v, Out.echoReply p v ∈ t.out
         | .reply trip turn => t.rdF .FAB_ECHO Fld.FAB_ECHO_RTT p = trip.toNat - turn.toNat ∧
           t.rdF .FAB_ECHO Fld.FAB_ECHO_RTTMAX p = max (s.rdF .FAB_ECHO Fld.FAB_ECHO_RTTMAX p) (trip.toNat - turn.toNat)
       else t = s)) ∧
  ((∀ (p : Packet) (s : State), Completes (.packetForward p) s fun t =>
     match s.route s.ownPhys p with
     | .here => ∀ q, t.link q = s.link q
     | .dropDown h => t.rdF .FAB_PERR Fld.FAB_PERR_DROPDOWN (s.hornPort h.dim h.plus) = 1
     | .dropNr h => t.rdF .FAB_PERR Fld.FAB_PERR_DROPNR (s.hornPort h.dim h.plus) = 1
     | .go h det _ => ∃ q ∈ s.upPorts h.dim h.plus,
         (∀ i < flitsOf p, let f : EgressFlit := ⟨p, { p with
             vc := s.channelOf s.ownPhys p h det, det := det
             hops := if p.hops.toNat = 255 then p.hops else p.hops + 1 }, i⟩
           f ∈ (t.link q).queue ∨ ∃ e ∈ (t.link q).unacked, e.flit = f) ∧
         (p.cls = 0 → s.hornPort h.dim h.plus ∈ s.upPorts h.dim h.plus → q = s.hornPort h.dim h.plus) ∧
         (p.cls ≠ 0 → ∀ r ∈ s.upPorts h.dim h.plus, (s.link q).usedOf p.cls.toNat ≤ (s.link r).usedOf p.cls.toNat)) ∧
   (∀ (l : Fin 32768) (val : BitVec 64) (s : State), Completes (.fabRemap l val) s fun t =>
     if s.wbusy .horn = true then
       t.rdF .FAB_HORN_ERR Fld.FAB_HORN_ERR_WLOST = 1 ∧ t.rd .FAB_REMAP l = s.rd .FAB_REMAP l
     else t.wbusy .horn = true ∧ t.rd .FAB_REMAP l = val &&& regMask .FAB_REMAP) ∧
   (∀ (i : Fin 512) (val : BitVec 64) (s : State), Completes (.fabPdown i val) s fun t =>
     if s.wbusy .horn = true then
       t.rdF .FAB_HORN_ERR Fld.FAB_HORN_ERR_WLOST = 1 ∧ t.rd .FAB_PDOWN i = s.rd .FAB_PDOWN i
     else t.wbusy .horn = true ∧ t.rd .FAB_PDOWN i = val))

/-- Firmware's messages (R258 to R262, R273, R310): a write of FAB_HORN_TX is posted; a message too long, of a type that
firmware may not send, or beyond the tokens of its egress port's bucket, which holds at most 256, sets its error and is
not sent, and any other is sent to its destination. A read mark frees slots. A PING is answered with a PONG to its sender, whose round trip is recorded; a
HEARTBEAT, a KEY and a FLAG at a device that is no warden enter the receive ring.
Where the spec leaves a point open the model's choice of log 23 and 56 decides it. -/
def Obligations.FirmwareMessages : Prop :=
  ∀ (s : State),
    let err (t : State) (f : Field) : Nat := t.rdF .FAB_HORN_ERR f
    (∀ val refill,
      let len := getF Fld.FAB_HORN_TX_LEN val
      let typ := getF Fld.FAB_HORN_TX_TYPE val
      let s₂ := (((setBusy .horn true).seq (wr .FAB_HORN_TX val)).run s).2
      let sent (x : State) : List Out := if s.hornOn = false then x.out else
        let r := (hornRead (64 * getF Fld.FAB_HORN_TX_SLOT val) len).run x
        ((sendPacket { packetOf r.1 with
          cls := 0, typ := BitVec.ofNat 6 typ, dst := BitVec.ofNat 15 (getF Fld.FAB_HORN_TX_DST val) }).run r.2).2.out
      Completes (.fabHornTx val refill) s fun t =>
        if s.wbusy .horn = true then err t Fld.FAB_HORN_ERR_WLOST = 1 ∧ t.out = s.out
        else t.wbusy .horn = true ∧ t.rd .FAB_HORN_TX = val &&& regMask .FAB_HORN_TX ∧
          if 256 < len then err t Fld.FAB_HORN_ERR_HORN_LEN = 1 ∧ t.out = s.out
          else if fwType typ = false then err t Fld.FAB_HORN_ERR_HORN_TYPE = 1 ∧ t.out = s.out
          else match s.hornEgress (getF Fld.FAB_HORN_TX_DST val) with
            | none => t.out = sent s₂
            | some q => if min 256 ((s.link q).tokens + refill) < len then
                err t Fld.FAB_HORN_ERR_HORN_OVER = 1 ∧ t.out = s.out ∧ (t.link q).tokens = min 256 ((s.link q).tokens + refill)
              else t.out = sent ((refillBucket q refill).run s₂).2) ∧
    (∀ val, Completes (.hornRxread val) s fun t =>
      if s.wbusy .horn = true then
        err t Fld.FAB_HORN_ERR_WLOST = 1 ∧ t.rd .FAB_HORN_RXREAD = s.rd .FAB_HORN_RXREAD ∧ t.hornWait = s.hornWait
      else t.wbusy .horn = true ∧ t.rd .FAB_HORN_RXREAD = val &&& regMask .FAB_HORN_RXREAD) ∧
    (∀ p, HornArrives s p 0x04 → Completes (.ping p) s fun t => t.out =
      (((sendPacket { blankPacket with
        typ := 5, dst := p.src, bid := p.bid, step := s.stepOfBid p.bid.toNat, payload := p.payload }).seq
          (creditBack p 1)).run (hornTaken s p)).2.out) ∧
    (∀ p rtt, HornArrives s p 0x05 → Completes (.pong p rtt) s fun t =>
      t.rdF .FAB_HORN_STATUS Fld.FAB_HORN_STATUS_PINGRTT = rtt.toNat) ∧
    (∀ p, HornArrives s p 0x07 → Completes (.heartbeat p) s (Delivered s p)) ∧
    (∀ p, HornArrives s p 0x09 → Completes (.key p) s (Delivered s p)) ∧
    (∀ p, HornArrives s p 0x06 → s.fw.office = false → Completes (.flag p) s (Delivered s p))

/-! ### The vote -/

/-- The vote of a device (R157, R188, R263 to R265): once every Landing Unit of a stepping binding has voted, the AND of
the votes and of the clusters' is the device's own. With every child in, a root decides, commit where all say so and
the count is the binding's, and any other device sends one VOTE with the AND and the count to its parent. A device
that has sent its VOTE and holds no decision repeats it and queries. The messages of the vote (R263 to R265, R319): a
VOTE is recorded for its step, or discarded as stale, repeated or one too many; a DECISION of the step in progress is
delivered with the images that are due and kept, and any other sets DUPDEC; a DQUERY is answered by a device that
holds the decision, and any other stays silent.
Where the spec leaves a point open the model's choice of log 22 decides it. -/
def Obligations.VotesAndDecisions : Prop :=
  (∀ (b : Fin 8) (s : State),
     let k := s.votes b
     let step := (s.binding b).step
     let own := (s.lus b).all (fun u => s.rdF .LND_STATUS Fld.LND_STATUS_VOTE u == 1) &&
       (s.clusters b).all fun c => !(s.cluster c).nfvote
     let kids := k.kidsAt step
     let v := own && kids.all (·.v)
     let n := 1 + (kids.map (·.ndev)).sum
     let ready := s.steps b && s.hornOn && !(s.binding b).voted && (s.binding b).turning.isNone && !s.fw.self &&
       (s.lus b).all fun u => s.rdF .LND_STATUS Fld.LND_STATUS_VOTED u == 1
     Completes (.deviceVote b) s (fun t =>
       if ready = true then
         (t.binding b).voted = true ∧ (t.votes b).own = some own ∧
         (k.sent = none → k.decided step = none → kids.length = s.rdF .FAB_VOTE Fld.FAB_VOTE_NCHILD b →
           if s.rdF .FAB_VOTE Fld.FAB_VOTE_ROOT b = 1 then
             (t.binding b).decision = some (v && n % 2 ^ 16 == s.rdF .FAB_VOTE Fld.FAB_VOTE_BNDDEV b)
           else (t.votes b).sent = some (v, n) ∧ t.rdF .FAB_VOTESTAT Fld.FAB_VOTESTAT_WAIT b = 1)
       else t = s) ∧
     (∀ v n, k.sent = some (v, n) → Completes (.voteRetry b) s fun t =>
       let parent := s.rdF .FAB_VOTE Fld.FAB_VOTE_PARENT b
       if s.bound b = true ∧ s.hornOn = true ∧ k.decided step = none then
         t.out = (((sendVote b 1 parent step (votePayload v n)).seq (sendVote b 3
           (if s.isDown (s.rdF .FAB_REMAP Fld.FAB_REMAP_PHYS parent) then s.rdF .FAB_VOTEROOT Fld.FAB_VOTEROOT_ROOTC b
             else parent) step [])).run s).2.out
       else t = s)) ∧
  (∀ (p : Packet) (s : State),
     let stale (t : State) : Prop := t.rdF .FAB_HORN_ERR Fld.FAB_HORN_ERR_STALEVOTE = 1
     (s.voteBinding p.bid.toNat = none →
       (HornArrives s p 1 → Completes (.vote p) s stale) ∧ (HornArrives s p 2 → Completes (.decision p) s stale) ∧
       (HornArrives s p 3 → Completes (.dquery p) s stale)) ∧
     (∀ b, s.voteBinding p.bid.toNat = some b →
       let k := s.votes b
       let cur := (s.binding b).step
       (HornArrives s p 1 → Completes (.vote p) s fun t =>
         let st := p.step.toNat
         if st < cur ∨ cur + 1 < st then stale t ∧ t.votes b = k
         else if (k.kidsAt st).any (fun c => c.src == p.src.toNat) = true then t.votes b = k
         else if s.rdF .FAB_VOTE Fld.FAB_VOTE_NCHILD b ≤ (k.kidsAt st).length then
           t.rdF .FAB_HORN_ERR Fld.FAB_HORN_ERR_EXTRAVOTE = 1 ∧ t.votes b = k
         else (t.votes b).kids = k.kids ++ [⟨p.src.toNat, st, (voteOf p.payload).1, (voteOf p.payload).2⟩]) ∧
       (HornArrives s p 2 → Completes (.decision p) s fun t =>
         if p.step.toNat = cur ∧ k.decided cur = none then
           (t.binding b).decision = some (voteOf p.payload).1 ∧
           (t.votes b).decs = (⟨cur, (voteOf p.payload).1, (voteOf p.payload).2⟩ :: k.decs).take 4 ∧
           (t.binding b).taken = (s.binding b).armed.filter (fun i => i.due (cur + 1)) ∧
           t.rdF .FAB_VOTESTAT Fld.FAB_VOTESTAT_DEC b = (if (voteOf p.payload).1 then 1 else 0)
         else t.rdF .FAB_HORN_ERR Fld.FAB_HORN_ERR_DUPDEC = 1 ∧ t.binding b = s.binding b) ∧
       (HornArrives s p 3 → Completes (.dquery p) s fun t =>
         match k.decided p.step.toNat with
         | some d => t.out = (((sendVote b 2 p.src.toNat d.step (votePayload d.dec d.ndev)).seq (creditBack p 1)).run
             (hornTaken s p)).2.out
         | none => t.out = ((creditBack p 1).run (hornTaken s p)).2.out)))

/-! ### Job-control firmware -/

/-- The warden (R253, R327): a LEAD enters the receive ring; one of a term not below this device's is heard: an office
makes its sender's position the warden, an answer of the round counts at the warden, a claim of another term raises the
term, and a grant counts for a claim. A round of the warden begins the next unless two in a row lack a majority, which
ends its office; a candidate claims the next term, and holds office at once where it alone is a majority.
Where the spec leaves a point open the model's choice of log 52 and 56 decides it. -/
def Obligations.WardenHoldsOffice : Prop :=
  ∀ (s : State),
    let f := s.fw
    (∀ p, HornArrives s p 0x08 → Completes (.lead p) s fun t =>
      let term := leNat (p.payload.take 4)
      let round := leNat ((p.payload.drop 4).take 4)
      let kind := leNat ((p.payload.drop 8).take 8)
      let pos := s.rdF .FAB_REMAP Fld.FAB_REMAP_PHYS p.src.toNat
      if p.payload.length < 16 ∨ term < f.term then Delivered s p t ∧ t.fw = f
      else
        (kind = 0 → t.fw.term = term ∧ t.fw.warden = pos ∧ t.fw.quiet = false ∧ t.fw.claim = none ∧
          t.fw.office = (f.office && term == f.term)) ∧
        (kind = 1 → t.fw.term = term ∧ t.fw.answers =
          (if f.office && term == f.term && f.round == round then addOnce f.answers pos else f.answers)) ∧
        (kind = 2 → t.fw.term = term ∧ t.fw.office = (f.office && term == f.term)) ∧
        (kind = 3 → t.fw.term = term ∧ ∀ l, f.claim = some l →
          if s.majority (addOnce l pos) = true then t.fw.office = true ∧ t.fw.claim = none ∧ t.fw.warden = s.ownPhys
          else t.fw.claim = some (addOnce l pos))) ∧
    Completes .leadRound s (fun t =>
      let lean := if f.round = 0 ∨ s.majority f.answers = true then 0 else f.lean + 1
      if f.office = false then t = s
      else if 2 ≤ lean then t.fw = { f with office := false, lean := 0, quiet := true }
      else t.fw = { f with lean := lean, round := f.round + 1, answers := [s.ownPhys] } ∧
        Out.firmware 0x08 none (leadBody f.term (f.round + 1) 0) ∈ t.out) ∧
    Completes .wardenClaim s (fun t =>
      if f.office = true ∨ f.self = true ∨ f.named = true ∨
          s.wardens.contains s.ownPhys = false then t = s
      else t.fw.term = f.term + 1 ∧ Out.firmware 0x08 none (leadBody (f.term + 1) 0 2) ∈ t.out ∧
        if s.npos < 2 then t.fw.office = true ∧ t.fw.claim = none ∧ t.fw.warden = s.ownPhys
        else t.fw.office = f.office ∧ t.fw.claim = some [s.ownPhys])

/-- Failures (R325, R326, R328, R329, R341): a heartbeat goes to the far end of every bundle in use; a position that has
been silent is suspect, and is pinged by the warden or reported to it; a suspect that does not answer is declared and
marked down by a warden whose term is one of 32 bits; a declaration of this term or a later one marks its position down;
a unit in FAULT_STOP for FSTOPMAX and an audit that a replica reports are failures of the device itself. An audit of a
block compares it with the digest that stands beside it: a replica's mismatch is counted and the block fetched again, or
the owner told where it has been; an owner's is a failure of its own.
Where the spec leaves a point open the model's choice of log 52 and 56 decides it. -/
def Obligations.FailuresAreFoundAndDeclared : Prop :=
  ∀ (s : State),
    Completes .heartbeatSend s (fun t =>
      ∀ e ∈ s.directions, Out.firmware 0x07 (some (s.neighbour s.ownPhys e.1 e.2)) [] ∈ t.out) ∧
    (∀ dir : Fin 6, Completes (.hbdeadExpiry dir) s fun t =>
      let p := s.neighbour s.ownPhys (dir.val / 2) (dir.val % 2 == 0)
      if s.directions.contains (dir.val / 2, dir.val % 2 == 0) = false ∨ s.isDown p = true then t = s
      else if s.fw.office = true then t.fw = { s.fw with suspect := addOnce s.fw.suspect p } ∧ Out.firmware 0x04 (some p) [] ∈ t.out
      else t.fw = s.fw ∧ Out.firmware 0x06 (some s.fw.warden) (2 :: leBytes 2 p) ∈ t.out) ∧
    (∀ phys, Completes (.confirmExpiry phys) s fun t =>
      if s.fw.suspect.contains phys.toNat = true ∧ s.fw.office = true ∧ s.isDown phys.toNat = false then
        t.fw.decl = s.fw.decl + 1 ∧ (s.fw.term < 2 ^ 32 → t.isDown phys.toNat = true ∧ phys.toNat ∉ t.fw.suspect) ∧
        Out.firmware 0x0A none (faildeclBody s.fw.term (s.fw.decl + 1) phys.toNat (s.logAt phys.toNat) 2 false) ∈ t.out
      else t = s) ∧
    (∀ p, HornArrives s p 0x0A → 16 ≤ p.payload.length → Completes (.faildecl p) s fun t =>
      let x := leNat (p.payload.take 16)
      s.fw.term ≤ bits 31 0 x → t.isDown (bits 78 64 x) = true ∧ t.fw.term = bits 31 0 x ∧
        (s.fw.term < bits 31 0 x → t.fw.office = false) ∧ (bits 78 64 x = s.ownPhys → t.fw.named = true)) ∧
    Completes .fstopmaxExpiry s (fun t =>
      if (List.range 32).any (fun c => seqState s c == 5 || vecState s c == 5) ∨ (List.range 2).any (fun u => suState s u == 7) ∨
          (List.range 4).any (fun m => movState s m == 2 || ceState s m == 2) ∨
          (List.range 64).any (fun ch => s.chState ch == 6) then
        t.fw.self = true ∧ Out.failure 8 ∈ t.out
      else t = s) ∧
    (∀ p, Arrives p 0x21 → Completes (.audit p) s fun t => t.fw.self = true ∧ Out.failure 7 ∈ t.out) ∧
    (∀ (b : Fin 8) va owner again d x s₁ s₂ s₃ place len, s.bound b = true →
      let a := va.toNat / 2048 * 2048
      let own := owner.toNat == s.ownLog
      (digestPlace b own a).run s = (some (place, len), s₁) →
      Reads (vget (s.fwUnit b) a 2048) s₁ d s₂ → Reads (vget (s.fwUnit b) place 4) s₂ x s₃ →
      Completes (.replicaAudit b va owner again) s fun t =>
        if crc32c (d.take len) = leNat x then t = s₃
        else if own = true then (t.binding b).audits = (s.binding b).audits + 1 ∧ t.fw.self = true ∧ Out.failure 7 ∈ t.out
        else if again = true then t.out = ((sendPacket { blankPacket with
          cls := 3, typ := 0x21, dst := owner, bid := BitVec.ofNat 16 (s.rdF .BND_JOB Fld.BND_JOB_BID b)
          step := BitVec.ofNat 48 (s.binding b).step, payload := leBytes 8 a }).run s₃).2.out
        else (t.binding b).audits = (s.binding b).audits + 1 ∧ Out.getBlock owner.toNat a ∈ t.out)

/-- Takeovers and generations (R127, R330 to R338, R382): messages of a lower term are discarded. PREPARE is answered for
every stepping binding; GO gives the failed coordinate its relief position, at which the relief device takes the
coordinate, never to sign under the failed device's keys, and every other begins its rewind; RUN starts the rewound
bindings that are idle. A stepping binding whose last step was committed, and reached K times the number of its next
generation, defers one that would overwrite an area being stored, and else copies its pieces and manifest, where no
factor block is in a decay; it is complete when reported, and done when every device has it, which frees the next and
keeps its manifest; its area goes out on a store channel every KSTORE steps.
Where the spec leaves a point open the model's choice of log 43 and 56 decides it. -/
def Obligations.TakeoversAndGenerations : Prop :=
  ∀ (s : State),
    (∀ term log relief, Completes (.prepare term log relief) s fun t =>
      if term < s.fw.term then t = s
      else t.fw.term = term ∧ ∀ b ∈ s.jobs,
        let num (x : Option Nat) : List Byte := (match x with | some g => 1 :: leBytes 4 g | none => 0 :: leBytes 4 0)
        Out.firmware 0x06 (some s.fw.warden) (4 :: leBytes 2 log.toNat ++ leBytes 2 relief.toNat ++
          leBytes 2 (s.rdF .BND_JOB Fld.BND_JOB_BID b) ++ num (s.binding b).gen ++ num (s.binding b).rewound) ∈ t.out) ∧
    (∀ term gen log relief dead, Completes (.go term gen log relief dead) s fun t =>
      if term < s.fw.term then t = s
      else t.fw.term = term ∧
        (s.wbusy .horn = false → t.rd .FAB_REMAP log.toNat = BitVec.ofNat 64 (relief.toNat + 2 ^ 15)) ∧
        if relief.toNat = s.ownPhys then
          t.fw.dead = dead.map (fun e => (e.1.toNat, e.2.toNat)) ∧
          getF Fld.FAB_COORD_LOG (t.pending' ⟨.FAB_COORD, 0, 0⟩) = log.toNat ∧
          getF Fld.FAB_COORD_LVALID (t.pending' ⟨.FAB_COORD, 0, 0⟩) = 1 ∧
          Out.getArea (s.neighbour log.toNat 0 true) gen ∈ t.out
        else ∀ b ∈ s.jobs, (t.binding b).rewound = some gen) ∧
    (∀ term, Completes (.run term) s fun t =>
      if term < s.fw.term then t = s
      else ∀ b ∈ s.jobs, (s.binding b).rewound.isSome → s.bstate b = 2 → (t.binding b).rewound = none ∧ t.bstate b = 3) ∧
    (∀ b : Fin 8,
      let k := s.binding b
      let g := (match k.gen with | some n => n + 1 | none => 0)
      (∀ cap, Completes (.checkpointGeneration b cap) s fun t =>
        if s.bstate b = 3 ∧ k.genRun = none ∧ ((s.votes b).decided (k.step - 1)).any (fun d => d.dec) = true ∧
            g * k.ckpt ≤ k.step - 1 ∧ s.hasUnit b (10 + cap.mover) = true then
          if s.storing b = true ∧ 2 ≤ g ∧ k.store = some (g - 2) then t.binding b = { k with defers := k.defers + 1 }
          else ∀ even s₁, Reads (factorsEven (movUnit s cap.mover) cap) s even s₁ →
            if even = true then
              let hdr := manifestHeader s b g cap.pieces.length
              ∀ s₂, Reads (captureAll b cap hdr) s₁ () s₂ → (∀ a, t.byte a = s₂.byte a) ∧
                (t.binding b).genRun = some ⟨g, 1, BitVec.ofNat 512 (leNat ((manifestBytes hdr cap.pieces).take 64))⟩
            else t = s₁
        else t = s) ∧
      (∀ r, k.genRun = some r → Completes (.generationComplete b) s fun t =>
        if r.stage = 1 then t.binding b = { k with genRun := some { r with stage := 2 } } ∧
          Out.firmware 0x06 (some s.fw.warden) (5 :: leBytes 2 (s.rdF .BND_JOB Fld.BND_JOB_BID b) ++ leBytes 4 r.gen) ∈ t.out
        else t = s) ∧
      (∀ r gen, k.genRun = some r → Completes (.gendone b gen) s fun t =>
        if r.gen = gen ∧ r.stage = 2 then t.binding b = { k with gen := some gen, genRun := none } else t = s) ∧
      Completes (.checkpointStore b) s (fun t =>
        match k.gen with
        | some g => if s.bound b = true ∧ s.storing b = false ∧ g * k.ckpt % (if k.kstore = 0 then 500 else k.kstore) = 0 then
            t.binding b = { k with store := some g } else t = s
        | none => t = s))

/-! ### Collective engines -/

/-- Operations of a collective engine (R120, R266 to R271): an operation of the table whose turn has come (an RS_MEM at the
last step of an interval) and whose token holds 1 consumes it and is started for the step; an illegal record sets ILLEGAL and its address; a legal one is under way,
or has sent all its tiles and signals its token. Without the token nothing starts. CE_STOP drains an engine that
works; CE_RESUME lets a stopped or faulted one go on and is refused otherwise. Contributions (R268 to R270): one of
an ended step is counted late, one of a later step waits, and one of the step in progress is summed into its tile; a
CONTRIB whose tile is complete is presented to the Landing Unit and leaves its slot. A STATCONTRIB is added to SUMBUF
and counted, and its tile is applied to its block once it is complete. Contributions wait at an engine that is STOPPED,
and those of an operation that a fault has stopped; a credit goes back when the contribution has been taken.
Where the spec leaves a point open the model's choice of log 24, 25, 76 and 77 decides it. -/
def Obligations.CollectiveEngines : Prop :=
  (∀ (n : Fin 4) (s : State),
     let e := s.engine n
     (∀ (i : Instr) (kind b idx : Nat) (rd : List Byte) (s₁ : State),
       (i, kind) ∈ [(Instr.rsLand n idx, 1), (.rsMem n idx, 2)] → s.ceOwner n = some b → ceState s n ≤ 2 →
       (kind = 2 → (s.binding b).step % max 1 (bits 14 8 (s.binding b).params.toNat) = 0) →
       e.drain = false → idx < s.rdF .FAB_CE_OPCOUNT Fld.FAB_CE_OPCOUNT_COUNT n →
       (idx, (s.binding b).step) ∉ e.started → e.ops.length < 4096 →
       Reads (vget (ceUnit s n) (s.opAddr n idx) 64) s rd s₁ → opKind (BitVec.ofNat 512 (leNat rd)) = kind →
       Completes i s fun t =>
         let r := BitVec.ofNat 512 (leNat rd)
         let had := tokenCount s (opTcl r) (opStok r)
         let rest (tok : Nat) : Nat := if tok = opStok r then (had - 1) % 65536 else tokenCount s (opTcl r) tok
         if had = 0 then (t.engine n).started = e.started ∧ (t.engine n).ops = e.ops ∧ tokenCount t (opTcl r) (opStok r) = 0
         else (idx, (s.binding b).step) ∈ (t.engine n).started ∧ ∀ dd s₂,
           Reads (vget (ceUnit s n) (opStage r) 64)
             (((tokenTake (opTcl r) (opStok r) 1 false).bind fun _ => (modCe n fun k =>
               { k with started := k.started.filter (fun x => x.2 == (s.binding b).step) ++ [(idx, (s.binding b).step)] })).run s₁).2
             dd s₂ →
           if opOk r (BitVec.ofNat 512 (leNat dd)) = false then
             t.rdF .FAB_CE_ERR Fld.FAB_CE_ERR_ILLEGAL n = 1 ∧ (t.engine n).ops = e.ops ∧
             (t.rd .FAB_CE_ERRADDR n).toNat = s.opAddr n idx % 2 ^ 48 ∧ tokenCount t (opTcl r) (opStok r) = rest (opStok r)
           else (∃ o ∈ (t.engine n).ops, o.idx = idx ∧ o.rcd = r ∧ o.step = (s.binding b).step) ∨
             ((∀ o ∈ (t.engine n).ops, o.idx ≠ idx) ∧
               tokenCount t (opTcl r) (opDtok r) = min (rest (opDtok r) + 1) 65535)) ∧
     Completes (.ceStop n) s (fun t =>
       if 1 < ceState s n then t = s
       else (t.engine n).drain = true ∧ (t.engine n).ops = e.ops ∧ (e.decays = [] → ceState t n = 3)) ∧
     Completes (.ceResume n) s (fun t =>
       if ceState s n = 2 ∨ ceState s n = 3 then
         (t.engine n).drain = false ∧ (e.ops = [] → e.held = [] → (∀ x ∈ e.sums, x.mem = false) → ceState t n = 0)
       else t.rdF .FAB_CE_ERR Fld.FAB_CE_ERR_CMDIGN n = 1 ∧ t.engine n = e)) ∧
  (∀ (n : Fin 4) (p : Packet) (s : State) (b : Nat), p.lu = n → s.ceOwner n = some b →
     s.rdF .BND_JOB Fld.BND_JOB_BID b = p.bid.toNat →
     let e := s.engine n
     let step := (s.binding b).step
     let bad := Prog.when (!contribGood p) (setF .FAB_CE_ERR Fld.FAB_CE_ERR_POISON n)
     (Arrives p 0x10 → Completes (.contrib n p) s fun t => e.held = [] →
       (p.step.toNat < step → t.engine n = e ∧ t.rdF .FAB_CE_LATECNT Fld.FAB_CE_LATECNT_COUNT n =
         satAdd 32 (s.rdF .FAB_CE_LATECNT Fld.FAB_CE_LATECNT_COUNT n) 1) ∧
       (step < p.step.toNat ∨ p.step.toNat = step ∧ sumHeld s n 1 p.opid.toNat = true →
         (t.engine n).held = [p] ∧ (t.engine n).sums = e.sums ∧ t.out = s.out) ∧
       (p.step.toNat = step → sumHeld s n 1 p.opid.toNat = false →
         let old := e.sums.find? fun x => x.is false p
         let x := old.getD (Sum.init false p)
         let y := countIn p x
         old.isSome ∨ (e.sums.filter fun x => !x.mem).length + (s.landing n).buf.length < 512 → ∀ r s₁,
           Reads (findOp n b 1 p.opid.toNat) s (some r) s₁ →
           if ∀ q ∈ y.1.got, opG r.1 ≤ q then
             t = ((Prog.all [addFlags .FAB_CE_FLAGS y.2.toNat n, count (setCe n) 0x78, bad, putSum n x none,
               count (setCe n) 0x79, tilePresent n ⟨y.1.step, y.1.entry, y.1.tile, y.1.data, y.1.poison⟩,
               creditBack p (flitsOf p)]).run s₁).2
           else (t.engine n).sums = e.sums.filter (· != x) ++ [y.1] ∧ t.landing n = s.landing n)) ∧
     (Arrives p 0x18 → Completes (.statcontrib n p) s fun t => e.held = [] →
       if sumHeld s n 2 p.opid.toNat = true then (t.engine n).held = [p] ∧ t.out = s.out
       else ∀ r s₁, Reads (findOp n b 2 p.opid.toNat) s (some r) s₁ →
         let x := (e.sums.find? fun x => x.is true p).getD (Sum.init true p)
         ∀ fl s₂, Reads (statAdd n r.1 p x) s₁ fl s₂ →
           let s₃ := ((Prog.all [addFlags .FAB_CE_FLAGS fl.toNat n, count (setCe n) 0x78, bad,
             putSum n x (some (countIn p x).1)]).run s₂).2
           (s₃.engine n).sums = e.sums.filter (· != x) ++ [(countIn p x).1] ∧ ∀ y r' s₄,
             ((s₃.engine n).sums.filter fun z => z.is true p) = [y] → Reads (findOp n b 2 y.opid) s₃ (some r') s₄ →
             if (∀ q ∈ y.got, opG r'.1 ≤ q) ∧ mayApply s₄ n r'.1 y = true then
               ∀ s₅, Reads (applyTile n b r'.1 y) s₄ () s₅ → y ∉ (t.engine n).sums ∧ ∀ a, t.byte a = s₅.byte a
             else y ∈ (t.engine n).sums ∧ ∀ a, t.byte a = s₄.byte a))

/-! ### The Ferry Engine -/

/-- The commands and timers of a channel (R284, R286, R287, R295, R297, R298): CH_STOP stops a channel that measures again,
runs or is held; CH_RESUME has a stopped or faulted one measure again unless its counter is spent; CH_JOIN starts a
disabled one joining. No frame for PEERDEAD makes an enabled channel PEERDEAD; an ECHO goes out in the states that send
them; a JOIN is repeated until it is answered; every inbound stream is acknowledged at the timer; a group that is overdue,
or was asked for and is incomplete, is asked for, and the NACK is counted if it leaves; and a channel that waited for a counter block signs again once it
has it.
Where the spec leaves a point open the model's choice of log 31 and 68 decides it. -/
def Obligations.ChannelCommandsAndTimers : Prop :=
  ∀ (ch : Fin 64) (s : State),
    let k := s.ch ch
    let st := s.chState ch
    let nacks (t : State) : Prop := t.rdF .FRY_CH_NACKCNT Fld.FRY_CH_NACKCNT_COUNT ch =
      if ctlSigns s ch = true then satAdd 32 (s.rdF .FRY_CH_NACKCNT Fld.FRY_CH_NACKCNT_COUNT ch) 1
      else s.rdF .FRY_CH_NACKCNT Fld.FRY_CH_NACKCNT_COUNT ch
    Completes (.chStop ch) s (fun t => if st = 2 ∨ st = 3 ∨ st = 4 then t.chState ch = 7 ∧ t.ch ch = k else t = s) ∧
    Completes (.chResume ch) s (fun t =>
      if st = 6 ∨ st = 7 then
        if k.spent = true then t = s
        else (∀ r ∈ k.rx, r.buf = []) → t.chState ch = 3 ∧ (t.ch ch).mark = k.echo ∧ (t.ch ch).replies = []
      else t.rdF .FRY_CH_ERR Fld.FRY_CH_ERR_CMDIGN ch = 1 ∧ t.chState ch = st) ∧
    Completes (.chJoin ch) s (fun t =>
      if st = 0 then (t.ch ch).joinM = none ∧ (t.ch ch).joinDone = false ∧ (t.ch ch).rx = [] ∧
        let j := ((setChState ch 8).run s).2
        CtlSent j ch 10 0 0 [] t ∧ (ctlSigns j ch = true → t.chState ch = 8)
      else t.rdF .FRY_CH_ERR Fld.FRY_CH_ERR_CMDIGN ch = 1 ∧ t.chState ch = st) ∧
    Completes (.peerdeadExpiry ch) s (fun t => if st = 0 then t = s else t.chState ch = 5 ∧ t.ch ch = k) ∧
    Completes (.echoInterval ch) s (fun t =>
      if 1 ≤ st ∧ st ≤ 5 then (t.ch ch).echo = k.echo + 1 ∧ CtlSent s ch 5 0 0 (leBytes 4 (k.echo + 1)) t else t = s) ∧
    Completes (.joinRepeat ch) s (fun t => if st = 8 ∧ k.joinM = none then CtlSent s ch 10 0 0 [] t else t = s) ∧
    Completes (.ackTimer ch) s (fun t => (t.ch ch).rx = k.rx.map (fun r => { r with acked := r.cum }) ∧
      (st ≠ 0 → ∀ r, k.rx = [r] → CtlSent s ch 3 r.num r.cum [0] t)) ∧
    (∀ num g, Completes (.groupOverdue ch num g) s fun t =>
      match s.rxStream ch num.toNat with
      | none => t = s
      | some r =>
        if st = 2 ∧ g.toNat ∉ r.nacked ∧ r.cum ≤ g.toNat ∧ r.has g.toNat = false then
          (∃ r', t.rxStream ch num.toNat = some r' ∧ g.toNat ∈ r'.nacked) ∧
          CtlSent s ch 4 num.toNat g.toNat (leBytes 8 (r.wants s ch g.toNat) ++ [if r.stale.contains g.toNat then 1 else 0]) t ∧
          nacks t
        else t = s) ∧
    (∀ num g, Completes (.nackRepeat ch num g) s fun t =>
      match s.rxStream ch num.toNat with
      | none => t = s
      | some r =>
        if g.toNat ∈ r.nacked ∧ r.has g.toNat = false then
          CtlSent s ch 4 num.toNat g.toNat (leBytes 8 (r.wants s ch g.toNat) ++ [if r.stale.contains g.toNat then 1 else 0]) t ∧
          nacks t
        else t = s) ∧
    Completes (.ivwaitRelease ch) s (fun t =>
      let ok (x : Option FKey) : Bool := match x with
        | some f => s.hasBlock (s.chChan ch) f.epoch (f.ctr / ctrBlock)
        | none => true
      if k.ivwait = true ∧ ok k.new = true ∧ ok k.old = true then
        (k.ctl = [] → (t.ch ch).ivwait = false) ∧
        (st ≠ 0 → ∀ c, k.ctl = [c] → CtlSent s ch c.typ c.stream c.group c.body t)
      else t = s)

/-- Sending (R31, R278, R283, R285, R287, R296): a write of TXTAIL or RXTAIL posts descriptors, or sets BADTAIL; RXTAIL releases
held streams of a channel that carries no crossings. A channel starts the next posted stream once the one before has
ended; a crossing that it has sent already is not sent again. The buckets of a port's channels fill with the time, and
the channel that the round robin has come to has its turn, if it may send, its retention log has room and its bucket holds
the tokens: it sends a frame again as kept, with RESEND set, and draws its length, or signs, sends and keeps what is
left of a group in hand, or a new group, data and parity.
Where the spec leaves a point open the model's choice of log 28, 29, 68 and 88 decides it. -/
def Obligations.ChannelsSendStreams : Prop :=
  ∀ (ch : Fin 64) (s : State),
    let k := s.ch ch
    (∀ val, Completes (.txtail ch val) s fun t =>
      if s.wbusy (.chan ch) = true then t.rdF .FRY_CH_ERR Fld.FRY_CH_ERR_WLOST ch = 1 ∧ t.ch ch = k
      else match postTail s .FRY_CH_TXRING .FRY_CH_TXTAIL ch k.txhead (getF Fld.FRY_CH_TXTAIL_TAIL val) with
        | none => t.rdF .FRY_CH_ERR Fld.FRY_CH_ERR_BADTAIL ch = 1 ∧ t.rd .FRY_CH_TXTAIL ch = s.rd .FRY_CH_TXTAIL ch ∧ t.ch ch = k
        | some n => t.wbusy (.chan ch) = true ∧ t.rd .FRY_CH_TXTAIL ch = val &&& regMask .FRY_CH_TXTAIL ∧
            t.ch ch = { k with posted := k.posted + n }) ∧
    (∀ val, Completes (.rxtail ch val) s fun t =>
      if s.wbusy (.chan ch) = true then t.rdF .FRY_CH_ERR Fld.FRY_CH_ERR_WLOST ch = 1 ∧ t.ch ch = k
      else match postTail s .FRY_CH_RXRING .FRY_CH_RXTAIL ch k.rxhead (getF Fld.FRY_CH_RXTAIL_TAIL val) with
        | none => t.rdF .FRY_CH_ERR Fld.FRY_CH_ERR_BADTAIL ch = 1 ∧ t.rd .FRY_CH_RXTAIL ch = s.rd .FRY_CH_RXTAIL ch ∧ t.ch ch = k
        | some n => t.wbusy (.chan ch) = true ∧ t.rd .FRY_CH_RXTAIL ch = val &&& regMask .FRY_CH_RXTAIL ∧
            (t.ch ch).held = (if 0 < n ∧ s.chKind ch ≠ 1 then [] else k.held)) ∧
    (∀ d s₁, s.fryOn = true → s.chState ch ≠ 0 → s.chKind ch = 1 ∨ s.chKind ch = 3 →
      k.txhead ≠ s.rdF .FRY_CH_TXTAIL Fld.FRY_CH_TXTAIL_TAIL ch → (∀ x ∈ k.tx, x.ended = true) →
      Reads (vget (s.chUnit ch) (ringEntry s .FRY_CH_TXRING ch k.txhead) 64) s d s₁ → Completes (.streamStart ch) s fun t =>
        let desc := BitVec.ofNat 512 (leNat d)
        let num := bits 31 0 desc.toNat
        let past := { k with txhead := (k.txhead + 1) % ringLen s .FRY_CH_TXRING ch, started := k.started + 1 }
        if s.chKind ch = 1 ∧ ∃ x ∈ k.tx, x.num = num then t.ch ch = k
        else if s.chKind ch = 1 ∧ ∃ e ∈ k.ended, e.1 = num then t.ch ch = past
        else
          t.ch ch = { past with tx := k.tx ++ [TxStream.start (some k.txhead) desc
            (if s.chKind ch = 1 then .segs else .bytes) num k.started (s.chK ch) (s.chM ch)] } ∧
          t.rdF .FRY_CH_STATUS Fld.FRY_CH_STATUS_STREAM ch = num) ∧
    (∀ since, Completes (.frameGroupSend ch since) s fun t =>
      let f := bucketsFilled s ch since.toNat
      let g := ((takeTurn ch).run f).2
      (∀ c : Fin 64, s.chPort c = s.chPort ch →
        (f.ch c).level = min bucketSize ((s.ch c).level + s.refill c since.toNat)) ∧
      if f.portTurn (s.chPort ch) ≠ some ch.val then
        (∀ c : Fin 64, t.ch c = f.ch c) ∧ t.out = s.out ∧
        (s.maySend ch = true → f.stalled ch = true → t.rdF .FRY_CH_ERR Fld.FRY_CH_ERR_WINSTALL ch = 1)
      else
        (∀ c : Fin 64, s.chPort c = s.chPort ch → (t.ch c).turned = (c == ch)) ∧
        (∀ a x y data next s₂, k.asks = [a] → a.fresh = false → k.tx.find? (fun t => t.num == a.stream) = some x →
          x.kept.find? (fun y => fhGroup y.hdr == a.group && fhIdx y.hdr == a.idx) = some y →
          Reads (groupData ch x y.raws y.start) ((modCh ch fun k => { k with asks := k.asks.drop 64 }).run g).2 (data, next) s₂ →
          let p := if a.idx < data.length then data.getD a.idx [] else parityOf data (a.idx - data.length)
          (t.ch ch).asks = [] ∧ (t.ch ch).level = (f.ch ch).level - 8000 * (64 + p.length) ∧
          ∃ x, Out.frame x ∈ t.out ∧ x.port = s.chPort ch ∧ x.hdr = BitVec.ofNat 512 (putBits 8 8 y.hdr.toNat 1) ∧
            x.payload = p) ∧
        (∀ x, k.asks = [] → k.sending = some x → k.tx.find? (fun t => t.num == x.num) = some x →
          (x.rest ≠ [] → streamSigns g ch x x.rest.length = true → GroupSent s ch x.rest x t) ∧
          (∀ l next lastg s₁, x.rest = [] → Reads (newGroup ch x) g (l, next, lastg) s₁ →
            streamSigns s₁ ch x l.length = true → GroupSent s ch l x t ∧
            ∃ y ∈ (t.ch ch).tx, y.num = x.num ∧ y.group = x.group + 1 ∧ y.cur = next ∧ y.ended = lastg)))

/-- Keys, ports and check engines (R274, R281, R284, R293, R339, R362, R366, R376): a write of FRY_CH_KEY gives a channel a berth and an
epoch, and its key so far becomes the old one, or retires at once where the crossing counter is past the crossing already; a
channel that a spent counter has stopped goes on. A berth that may not serve a channel sets BERTHUSE, and an epoch that
the channel holds already, or that the failed device used, changes nothing. The first port that trains in pilot service
begins the work for full service. An outer port's link goes down, and comes UP when an enabled port has trained.
A check engine's self-test records its outcome, and a failed one gives its port the fallback.
Where the spec leaves a point open the model's choice of log 30 decides it. -/
def Obligations.ChannelKeysAndPorts : Prop :=
  ∀ (s : State),
    (∀ (ch : Fin 64) val, Completes (.fryChKey ch val) s fun t =>
      let k := s.ch ch
      let b := getF Fld.FRY_CH_KEY_BERTH val
      let e := getF Fld.FRY_CH_KEY_EPOCH val
      let held (x : Option FKey) : Bool := x.map (·.epoch) == some e
      if s.wbusy (.chan ch) = true then t.rdF .FRY_CH_ERR Fld.FRY_CH_ERR_WLOST ch = 1 ∧ t.ch ch = k
      else if s.rdF .SEC_BERTH_META Fld.SEC_BERTH_META_STATE b = 0 ∨ s.rdF .SEC_BERTH_META Fld.SEC_BERTH_META_USE b ≠ 1 then
        t.rdF .SEC_ERR Fld.SEC_ERR_BERTHUSE = 1 ∧ t.ch ch = k
      else if held k.new = true ∨ held k.old = true ∨ (s.chChan ch, e) ∈ s.fw.dead then t.ch ch = k
      else
        let ctr := (match s.reservedBlock (s.chChan ch) e with | some h => h + 1 | none => 0) * ctrBlock
        (t.ch ch).new = some ⟨b, e, getF Fld.FRY_CH_KEY_FROM val, k.posted, ctr⟩ ∧
        (t.ch ch).old = (if s.chKind ch = 1 ∧ getF Fld.FRY_CH_KEY_FROM val + 2 ≤ s.chCross ch then none else k.new) ∧
        (t.ch ch).spent = false ∧ (k.spent = true → s.chState ch = 7 → t.chState ch = 3) ∧ t.rd .FRY_CH_KEY ch = val &&& regMask .FRY_CH_KEY ∧
        t.rdF .FRY_CH_STATUS Fld.FRY_CH_STATUS_EPOCH ch = e) ∧
    (∀ x : Fin 2, Completes (.outerPortLinkDown x) s fun t =>
      if s.rdF .FRY_PSTATUS Fld.FRY_PSTATUS_STATE x = 0 then t = s
      else t.rdF .FRY_PSTATUS Fld.FRY_PSTATUS_STATE x = 0 ∧ t.rdF .FRY_PERR Fld.FRY_PERR_LINKDOWN x = 1) ∧
    (∀ x : Fin 2, Completes (.outerPortTrained x) s fun t =>
      let u := (beginFull.run s).2
      (s.stage = 4 → t.stage = 5) ∧ (s.stage ≠ 4 → u = s) ∧
      if u.rdF .FRY_PCFG Fld.FRY_PCFG_EN x = 1 ∧ u.stopped (79 + x) = false then t.outerUp x = true else t = u) ∧
    (∀ (x : Fin 2) ok, Completes (.gmacSelfTest x ok) s fun t =>
      if ok = true then (t.rd .SEC_GMAC_STATUS).getLsbD (2 + x) = true
      else (t.rd .SEC_GMAC_STATUS).getLsbD x = true ∧ t.rdF .FRY_PSTATUS Fld.FRY_PSTATUS_GMACFB x = 1 ∧
        t.rdF .FRY_ERR Fld.FRY_ERR_GMACFB = 1)

/-- The frames that carry a stream and answer for it, verified at a channel (R280, R285 to R287, R291, R294 to R296): a
DATA or PARITY frame in the window of an open stream takes its place in its incomplete group; an ACK frees the groups it covers, and ends the stream where it says COMPLETE, with its token, or
DROPPED; a NACK has the frames it names sent again, or the segments it names sent raw; a DONE says which group is the
last and makes every incomplete one overdue, all of them where no frame of the stream has come.
Where the spec leaves a point open the model's choice of log 27, 29, 33 and 34 decides it. -/
def Obligations.StreamFrames : Prop :=
  ∀ (ch : Fin 64) (fr : Frame) (s : State),
    let k := s.ch ch
    let h := fr.hdr
    let num := fhStream h
    let gone (t : State) : Prop := t.rxStream ch num = none
    (∀ (i : Instr) (typ : Nat) r, (i, typ) ∈ [(Instr.data ch fr, 1), (.parity ch fr, 2)] → FrameArrives s ch typ fr →
      s.rxStream ch num = some r → inWindow r h = true → r.has (fhGroup h) = false → Completes i s fun t =>
        gone t ∨ ∃ r', t.rxStream ch num = some r' ∧
          if (r.place h fr.payload).has (fhGroup h) = true then r'.has (fhGroup h) = true
          else r'.group (fhGroup h) = (r.place h fr.payload).group (fhGroup h)) ∧
    (FrameArrives s ch 3 fr → Completes (.ack ch fr) s fun t =>
      let fl := (fr.payload.headD 0).toNat
      (fl.testBit 0 = true ∨ fl.testBit 1 = true → (t.ch ch).tx = k.tx.filter (fun x => x.num != num)) ∧
      (fl.testBit 0 = true → ∀ x, k.tx.find? (fun x => x.num == num) = some x → fdSigen x.desc = true →
        tokenCount t (fdTcl x.desc) (fdTok x.desc) = min (tokenCount s (fdTcl x.desc) (fdTok x.desc) + 1) 65535) ∧
      (fl.testBit 0 = false → fl.testBit 1 = false → (t.ch ch).tx = k.tx.map fun x =>
        if x.num = num then { x with kept := x.kept.filter fun y => decide (fhGroup h ≤ fhGroup y.hdr) } else x)) ∧
    (FrameArrives s ch 4 fr → Completes (.nack ch fr) s fun t =>
      let fl := (fr.payload.getD 8 0).toNat
      if fl.testBit 1 = true then
        ∀ x ∈ (t.ch ch).tx, x.num = num → ∀ g ∈ (chunks 4 64 (fr.payload.drop 9)).map leNat, g ∈ x.raws
      else ∀ i, i < 64 → (leNat (fr.payload.take 8)).testBit i = true → ⟨num, fhGroup h, i, fl.testBit 0⟩ ∈ (t.ch ch).asks) ∧
    (FrameArrives s ch 9 fr → ∀ r, s.rxStream ch num = some r → Completes (.done ch fr) s fun t =>
      let last := leNat ((fr.payload.drop 16).take 4)
      gone t ∨ ∃ r', t.rxStream ch num = some r' ∧ r'.doneRx = true ∧ r'.last = some (max last (r.last.getD 0)) ∧
        ∀ g, r.cum ≤ g → g ≤ last → r.has g = false → g ∈ r'.nacked) ∧
    (FrameArrives s ch 9 fr → s.rxStream ch num = none →
      ((openStream ch num (fhEpoch h) false).run (frameCounted s ch fr)).1 = true → Completes (.done ch fr) s fun t =>
        ∃ r', t.rxStream ch num = some r' ∧ r'.doneRx = true ∧ ∀ g, g ≤ leNat ((fr.payload.drop 16).take 4) → g ∈ r'.nacked)

/-- The frames that move a channel, verified at it (R280, R295, R297): an ECHO is answered with its number; an ECHOREPLY
records its round trip, and has a channel that runs measure again where it strays too far, and one that measures run
once three replies in a row give it a mean; a HOLD holds a channel and a RESUME has it go on; a JOIN is answered with the
crossing of the mooring, whose transfer begins; a JOINACK, a JOINDONE and a JOINRESTART tell a joiner which mooring
comes, that it has come, and that another comes.
Where the spec leaves a point open the model's choice of log 27, 31 and 35 decides it. -/
def Obligations.ChannelFrames : Prop :=
  ∀ (ch : Fin 64) (fr : Frame) (s : State),
    let k := s.ch ch
    let st := s.chState ch
    (FrameArrives s ch 5 fr → Completes (.echo ch fr) s fun t =>
      ∃ v, CtlSent s ch 6 0 0 (fr.payload.take 4 ++ leBytes 4 v) t) ∧
    (∀ rtt, FrameArrives s ch 6 fr → Completes (.echoreply ch fr rtt) s fun t =>
      let n := leNat (fr.payload.take 4)
      let srtt := s.rdF .FRY_CH_RTT Fld.FRY_CH_RTT_SRTT ch
      let off := max (srtt - rtt.toNat) (rtt.toNat - srtt)
      t.rdF .FRY_CH_RTT Fld.FRY_CH_RTT_LAST ch = rtt.toNat ∧
      (st = 2 → t.chState ch = (if max (srtt / 4) 500000 < off then 3 else 2)) ∧
      (st = 1 → k.mark < n → match threeReplies ((n, rtt.toNat) :: k.replies) with
        | none => t.chState ch = 1 ∧ (t.ch ch).replies = ((n, rtt.toNat) :: k.replies).take 3
        | some (x, y, z) => t.chState ch = 2 ∧
            t.rdF .FRY_CH_RTT Fld.FRY_CH_RTT_SRTT ch = (x + y + z) / 3 % 2 ^ 32)) ∧
    (FrameArrives s ch 7 fr → Completes (.hold ch fr) s fun t =>
      if st = 2 ∨ st = 3 then t.chState ch = 4 ∧ (t.ch ch).left = st else t.chState ch = st ∧ t.ch ch = k) ∧
    (FrameArrives s ch 8 fr → Completes (.resume ch fr) s fun t =>
      t.chState ch = (if st = 4 then k.left % 16 else st) ∧ t.ch ch = k) ∧
    (FrameArrives s ch 10 fr → ∀ map s₁, Reads (readMap (s.chUnit ch)) (frameCounted s ch fr) map s₁ →
      Completes (.join ch fr) s fun t =>
        let m := (s.binding (s.chBind ch)).moored
        CtlSent s₁ ch 11 0 0 (leBytes 4 m ++ leBytes 4 (mapSegs map)) t ∧ (t.ch ch).donor = some m ∧
        (k.donor ≠ some m → (t.ch ch).tx = k.tx.filter (fun x => x.src ≠ .join) ++
          [TxStream.start none (BitVec.ofNat 512 (mapSegs map * 2 ^ 80)) .join m k.started (s.chK ch) (s.chM ch)] ∧
          t.rdF .FRY_CH_STATUS Fld.FRY_CH_STATUS_STREAM ch = m % 2 ^ 32)) ∧
    (FrameArrives s ch 11 fr → Completes (.joinack ch fr) s fun t =>
      (t.ch ch).joinM = if st = 8 ∧ k.joinM = none then some (leNat (fr.payload.take 4)) else k.joinM) ∧
    (FrameArrives s ch 12 fr → Completes (.joindone ch fr) s fun t =>
      match k.joinM with
      | some m => if st = 8 then
          if m ∈ k.used then t.chState ch = 1 ∧ (t.ch ch).joinM = none ∧ Out.joined ch ∈ t.out
          else t.ch ch = { k with joinDone := true }
        else t.ch ch = k
      | none => t.ch ch = k) ∧
    (FrameArrives s ch 13 fr → Completes (.joinrestart ch fr) s fun t =>
      t.ch ch = if st = 8 then { k with joinM := some (leNat (fr.payload.take 4)), joinDone := false, rx := [] } else k)

/-- Frames that are not used (R274, R276, R280, R282, R295): whatever the command, a frame at a port that is not UP, or with
the engine off, or with more than one tag, changes nothing; one that is too long sets OVERSIZE; a datagram too short for a
header is counted as dropped; one that matches no channel sets NOCHAN and is counted; one whose check value fails is
counted at its channel and changes nothing else of it; and a verified NACK or RESUME has a PEERDEAD channel measure
again.
Where the spec leaves a point open the model's choice of log 31 decides it. -/
def Obligations.FramesThatAreNotUsed : Prop :=
  ∀ (ch : Fin 64) (fr : Frame) (rtt : BitVec 32) (s : State),
    let drops (t : State) : Prop := t.rdF .FRY_DROPCNT Fld.FRY_DROPCNT_COUNT fr.port =
      satAdd 32 (s.rdF .FRY_DROPCNT Fld.FRY_DROPCNT_COUNT fr.port) 1
    (∀ (i : Instr) (typ : Nat), (i, typ) ∈ [(Instr.data ch fr, 1), (.parity ch fr, 2), (.ack ch fr, 3), (.nack ch fr, 4),
        (.echo ch fr, 5), (.echoreply ch fr rtt, 6), (.hold ch fr, 7), (.resume ch fr, 8), (.done ch fr, 9),
        (.join ch fr, 10), (.joinack ch fr, 11), (.joindone ch fr, 12), (.joinrestart ch fr, 13)] →
      (s.outerUp fr.port = false ∨ s.fryOn = false → exec i s = .next s) ∧
      (s.outerUp fr.port = true → s.fryOn = true → 130 + 4 * fr.tags + fr.payload.length ≤ 9216 → fr.fcsOk = true →
        fr.tags ≤ 1 → fr.short = true → Completes i s fun t => drops t) ∧
      (s.outerUp fr.port = true → s.fryOn = true → fr.fcsOk = true → 130 + 4 * fr.tags + fr.payload.length ≤ 9216 →
        1 < fr.tags → exec i s = .next s) ∧
      (s.outerUp fr.port = true → s.fryOn = true → fr.short = false → 9216 < 130 + 4 * fr.tags + fr.payload.length →
        Completes i s fun t => t.rdF .FRY_PERR Fld.FRY_PERR_OVERSIZE fr.port = 1 ∧ t.ch ch = s.ch ch) ∧
      (s.outerUp fr.port = true → s.fryOn = true → 130 + 4 * fr.tags + fr.payload.length ≤ 9216 → fr.fcsOk = true →
        fr.tags ≤ 1 → fr.short = false → fr.ext = false →
        fr.dst.toNat = (s.rd .FRY_IPHI fr.port).toNat * 2 ^ 64 + (s.rd .FRY_IPLO fr.port).toNat →
        fr.dport.toNat = s.rdF .FRY_CTRL Fld.FRY_CTRL_UDPPORT → fr.sumOk = true → lengthOk fr = true →
        chanMatch s fr = none → Completes i s fun t => t.rdF .FRY_PERR Fld.FRY_PERR_NOCHAN fr.port = 1 ∧ drops t) ∧
      (FrameReaches s ch fr → fhVer fr.hdr ≠ 1 ∨ typeSuits (s.chKind ch) (fhType fr.hdr) = false →
        Completes i s fun t => drops t ∧ t.ch ch = s.ch ch) ∧
      (FrameReaches s ch fr → fhVer fr.hdr = 1 → typeSuits (s.chKind ch) (fhType fr.hdr) = true → fhType fr.hdr = typ →
        ∀ k, s.epochKey ch (fhEpoch fr.hdr) = some k →
        icvOf (s.berthKey k.berth) (bits 383 0 fr.hdr.toNat) fr.payload ≠ fhIcv fr.hdr →
        Completes i s fun t => t.ch ch = s.ch ch ∧ t.rdF .FRY_CH_ICVFAIL Fld.FRY_CH_ICVFAIL_COUNT ch =
          satAdd 32 (s.rdF .FRY_CH_ICVFAIL Fld.FRY_CH_ICVFAIL_COUNT ch) 1)) ∧
    (∀ (i : Instr) (typ : Nat), (i, typ) ∈ [(Instr.nack ch fr, 4), (.resume ch fr, 8)] → FrameVerified s ch typ fr →
      s.chState ch = 5 → Completes i s fun t => t.chState ch = 3 ∧ (t.ch ch).mark = (s.ch ch).echo)

/-- A CROSS packet at its owner (R291): a Landing Unit of the binding that its BID names writes it into the peer area of
its sender for the crossing it names, or counts it as dropped; one for a unit that the binding does not own has no effect.
Its credits go back.
Where the spec leaves a point open the model's choice of log 32 decides it. -/
def Obligations.CrossPackets : Prop :=
  ∀ (p : Packet) (s : State), Arrives p 0x1C → Completes (.cross p) s fun t =>
    let u : Nat := p.lu
    let drops : Prop := t.rdF .LND_XDROPCNT Fld.LND_XDROPCNT_COUNT u =
      satAdd 32 (s.rdF .LND_XDROPCNT Fld.LND_XDROPCNT_COUNT u) 1
    match s.bindingOf p.bid.toNat with
    | none => t = ((creditBack p (flitsOf p)).run s).2
    | some b =>
      if s.hasUnit b u = false then t = ((creditBack p (flitsOf p)).run s).2
      else
        let q := p.opid.toNat % 16
        let j := crossOf (s.binding b).cross p.opid.toNat
        (s.rdF .LND_LTAB_COUNT Fld.LND_LTAB_COUNT_COUNT u ≤ p.entry.toNat → drops ∧ ∀ a, t.byte a = s.byte a) ∧
        (∀ x s₁, p.entry.toNat < s.rdF .LND_LTAB_COUNT Fld.LND_LTAB_COUNT_COUNT u →
          Reads (readEntry u p.entry.toNat) s x s₁ →
          (x.outer = false → drops ∧ ∀ a, t.byte a = s₁.byte a) ∧
          (x.outer = true → ∀ h s₂ w s₃, Reads (readXHdr u x.cbuf) s₁ h s₂ → p.fmt = 0 →
            q ≠ (s.binding b).site → h.sites.testBit q = true → (p.payload = [] ∨ p.index.toNat < h.nseg) →
            let a := h.area x.cbuf (h.rank (s.binding b).site q) (j % h.w)
            let put (v : State) : Prog (Except Flt Unit) := vwrite (luUnit v u) (a + 2048 * (1 + p.index.toNat))
              ((padTo 2048 (p.payload.take 2048)).map fun y => (y, p.pois))
            Reads (luRecord u a 64 false) s₂ w s₃ →
            (2 ≤ areaState w ∨ (areaState w = 1 ∧ areaCross w ≠ j) → drops ∧ ∀ a, t.byte a = s₃.byte a) ∧
            (areaState w = 0 ∨ (areaState w = 1 ∧ areaCross w = j) → p.payload = [] →
              ∀ s₄, Reads (putArea u a q 2 j) s₃ () s₄ → ∀ a, t.byte a = s₄.byte a) ∧
            (areaState w = 0 → p.payload ≠ [] → ∀ s₄ s₅, Reads (putArea u a q 1 j) s₃ () s₄ → Reads (put s₄) s₄ () s₅ →
              ∀ a, t.byte a = s₅.byte a) ∧
            (areaState w = 1 → areaCross w = j → p.payload ≠ [] → ∀ s₄, Reads (put s₃) s₃ () s₄ →
              ∀ a, t.byte a = s₄.byte a)))

/-! ### The register aperture -/

/-- Accesses of BAR0 (R302 to R304, R306, R309 to R311, R373): one where no register answers is a bus error: it is logged
and answered with none. A write of an RW register replaces the bits it covers of its pending value, which
starts equal to the applied one, and changes no register but the bus log's, which records an attempt to change the
ownership field of FRY_CH_CFG; one of an RO or RC register is logged; a PW or WS register does what its own rows do. A read answers the bits it covers, and clears them
in an RC register and in no other. A read of the bus log marks its slot read. A posted write that takes effect clears
WBUSY, but for an invalidation, which ends at its own row, and a frequency that still waits for its voltage.
Where the spec leaves a point open the model's choice of log 62, 80 and 81 decides it. -/
def Obligations.RegisterAccess : Prop :=
  ∀ (req : Requester) (addr : BitVec 26) (size : Nat) (val : BitVec 64) (s : State),
    let a := addr.toNat
    let mask := halfMask a size
    let fails (kind : Nat) (t : State) : Prop :=
      Out.answer req none ∈ t.out ∧ Logged s req a kind t ∧ (t.rd .GLB_EVT).getLsbD 1 = true
    Completes (.registerWrite req addr size val) s (fun t =>
      match s.place a size true with
      | .err kind => fails kind t
      | .window => t.out = s.out ∧ ∀ i, i < size → Tab.at 0 t.boot.window (a - 0x2000000 + i) = (leBytes size val.toNat).getD i 0
      | .reg k =>
        match k.name.info.acc with
        | .ro => Logged s req a 3 t ∧ t.out = s.out
        | .rc => Logged s req a 4 t ∧ t.out = s.out
        | .rw =>
          let new := (s.pending' k &&& ~~~ mask) ||| (val <<< halfLo a &&& mask)
          let owner := getF Fld.FRY_CH_CFG_BIND (s.pending' k)
          (∀ n i j, t.rd n i j ≠ s.rd n i j → n = .BND_BLOG ∨ n = .BND_BLOGHEAD ∨ n = .BND_BLOGLOST) ∧
          (k.name ≠ .FRY_CH_CFG → t.pending' k = new &&& regMask k.name) ∧
          (k.name = .FRY_CH_CFG → t.pending' k = putF Fld.FRY_CH_CFG_BIND new owner &&& regMask k.name ∧
            (getF Fld.FRY_CH_CFG_BIND new ≠ owner → Logged s req a 7 t))
        | .pw => t = ((pwDo k val).run s).2
        | .ws => t = ((wsDo k val).run s).2) ∧
    Completes (.rcRead req addr size) s (fun t =>
      match s.place a size false with
      | .err kind => fails kind t
      | .window => Out.answer req (some (BitVec.ofNat 64
          (leNat ((List.range size).map fun i => Tab.at 0 s.boot.window (a - 0x2000000 + i))))) ∈ t.out
      | .reg k => k.name ≠ .SEC_RNG → k.name ≠ .CNT_CYCLE →
          let v := s.rd k.name k.i k.j
          Out.answer req (some ((v &&& mask) >>> halfLo a)) ∈ t.out ∧
          (k.name.info.acc = .rc → t.rd k.name k.i k.j = v &&& ~~~ mask &&& regMask k.name) ∧
          (k.name.info.acc ≠ .rc → ∀ n i j, t.rd n i j = s.rd n i j)) ∧
    (∀ slot : Fin 16, s.place (0x200100 + 8 * slot.val) 8 false = .reg ⟨.BND_BLOG, slot, 0⟩ →
      Completes (.blogRead req slot) s fun t => Out.answer req (some (s.rd .BND_BLOG slot)) ∈ t.out ∧
        Tab.at false t.unread slot = false ∧ ∀ n i j, t.rd n i j = s.rd n i j) ∧
    (∀ blk, Completes (.postedWriteTakesEffect blk) s fun t =>
      match blk with
      | .xlt _ => t = s
      | .xltAll => if s.invAll = true then t = s else t.wbusy .xltAll = false
      | .clk => if s.tel.write.any (fun c => s.rdF .CLK_CLSTAT Fld.CLK_CLSTAT_VWAIT c == 1) = true then t = s
          else t.wbusy .clk = false ∧ t.tel.write = none
      | b => t.wbusy b = false) ∧
    (∀ k, State.reset.pending' k = State.reset.rd k.name k.i k.j)

/-! ### Images and re-binding -/

/-- The loader and a re-binding (R313, R317, R319, R321, R322, R324): GO starts a load unless one is in progress. A check
rejects an image that cannot be read clean or that a code of R317 matches, and a binding being created is FREE again;
it arms a partial image, and makes a binding IDLE with a full one whose records set settings alone. A re-binding request
starts the drain of the moving units, or finds the loader or a re-binding busy; once they are drained their state is
saved and the image is loaded; a phase beyond its limit ends the re-binding FAILED, which is a failure of the device.
Where the spec leaves a point open the model's choice of log 36, 51, 60, 61 and 63 decides it. -/
def Obligations.LoaderAndRebinding : Prop :=
  ∀ (s : State),
    (∀ val, Completes (.imageLoad val) s fun t =>
      let b := getF Fld.BND_IMG_CTRL_BIND val
      if s.wbusy .bnd = true then WriteLost .bnd t ∧ t.load = s.load
      else if s.load.isSome then t.load = s.load
      else t.load = some ⟨s.rdF .BND_IMG_ADDR Fld.BND_IMG_ADDR_ADDR * 4096, b, false, none⟩ ∧
        t.rdF .BND_IMG_STATUS Fld.BND_IMG_STATUS_STATE = 1 ∧ t.rdF .BND_STATUS Fld.BND_STATUS_LOADBUSY = 1 ∧
        t.bstate b = (if s.bstate b = 0 then 1 else s.bstate b)) ∧
    (∀ params, Completes (.imageCheckDone params) s fun t =>
      match s.load with
      | none => t = s
      | some l => ∀ d s₁, (readImage l.addr).run s = (d, s₁) →
        let code := match d with | some d => imageCode s₁ l d | none => 3
        let h := part (d.getD []) 0 128
        t.load = none ∧ t.rdF .BND_STATUS Fld.BND_STATUS_LOADBUSY = 0 ∧
        (code ≠ 0 → t.rdF .BND_IMG_STATUS Fld.BND_IMG_STATUS_STATE = 4 ∧ t.rdF .BND_IMG_STATUS Fld.BND_IMG_STATUS_CODE = code ∧
          t.bstate l.bind = (if s.bstate l.bind = 1 then 0 else s.bstate l.bind)) ∧
        (code = 0 → bits 43 40 h = 2 → t.rdF .BND_IMG_STATUS Fld.BND_IMG_STATUS_STATE = 2 ∧ ∃ i, i.applyStep = bits 239 192 h ∧
          i.records = records (d.getD []) ∧ (t.binding l.bind).armed = (s.binding l.bind).armed ++ [i]) ∧
        (code = 0 → bits 43 40 h = 1 → t.rdF .BND_IMG_STATUS Fld.BND_IMG_STATUS_STATE = 3 ∧
          ((∀ e ∈ records (d.getD []), ∀ k, keyAt e.1 = some k → k.name.info.acc ≠ .pw) →
            t.bstate l.bind = 2 ∧ t.rdF .BND_JOB Fld.BND_JOB_BID l.bind = bits 79 64 h))) ∧
    (∀ val, Completes (.rebindRequest val) s fun t =>
      if s.wbusy .bnd = true then WriteLost .bnd t ∧ t.rb = s.rb
      else if s.rb.isSome ∨ s.load.isSome then
        t.rb = s.rb ∧ (s.rb = none → t.rdF .BND_RB_STATUS Fld.BND_RB_STATUS_CODE = 10)
      else ∃ x, t.rb = some x ∧ x.to' = getF Fld.BND_RB_REQ_TO val ∧ x.host = none ∧
        x.from' = (if flagF Fld.BND_RB_REQ_FROMNONE val then none else some (getF Fld.BND_RB_REQ_FROM val)) ∧
        x.save = getF Fld.BND_RB_REQ_SAVE val * 4096 ∧ x.img = s.rdF .BND_IMG_ADDR Fld.BND_IMG_ADDR_ADDR * 4096 ∧
        t.rdF .BND_RB_STATUS Fld.BND_RB_STATUS_PHASE = 1) ∧
    (∀ r, s.rb = some r → Completes .rebindDrainDone s fun t =>
      if s.rdF .BND_RB_STATUS Fld.BND_RB_STATUS_PHASE = 1 ∧ r.later = false ∧ s.load = none ∧
          (∀ i ∈ resList r.units.toNat, s.drained i = true) then
        t.rdF .BND_RB_STATUS Fld.BND_RB_STATUS_PHASE = 3 ∧ t.load = some ⟨r.img, r.to', true, r.host⟩ ∧
        ∀ i ∈ resList r.units.toNat, ∃ x ∈ t.saves, x.addr = r.save ∧ x.unit = i
      else t = s) ∧
    (∀ r final, s.rb = some r → Completes (.rebindTimeout final) s fun t =>
      if s.rdF .BND_RB_STATUS Fld.BND_RB_STATUS_PHASE = 4 ∨ r.later = true then t = s
      else if final = false then t.rdF .BND_ERR Fld.BND_ERR_RBLATE = 1 ∧ t.rb = s.rb
      else t.rb = none ∧ t.rdF .BND_RB_STATUS Fld.BND_RB_STATUS_PHASE = 6 ∧
        t.rdF .BND_RB_STATUS Fld.BND_RB_STATUS_CODE = 0x10 ∧ t.fw.self = true)

/-! ### Power, boot and service -/

/-- Power, boot and service (R351 to R353, R369, R370, R372 to R377, R391): PWR_OK latches the straps, names the leader
and starts the ROMs; its fall loses all but the fuses, the owner record and the flash, where a program or an erase is cut short. A
reset of the host interface
resets its queues, and what they run loses its completion. A half's ROM verifies the next image: the leader records
the outcome and accepts a good one, the follower tells it; a difference between the halves stops the device. JNL_HLW
submits the host load window in HOSTWAIT. Pilot service serves four vaults and the pilot ports, full service all sixteen with every
binding ended and no injection armed, and keeps no byte that pilot service wrote; a bring-up that passes a limit is STUCK. The two halves (R343, R344): a renewal that is acknowledged
clears both counts, and one that is not advances them; an unstrapped leader that misses 4 acknowledgements releases;
a half that has missed 5 renewals claims where it is the strapped one and pulls FAULT_N where it is not; a yield
hands over to a half that runs.
Where the spec leaves a point open the model's choice of log 48, 49, 50, 67 and 74 decides it. -/
def Obligations.PowerBootAndLeadership : Prop :=
  (∀ (s : State),
     (∀ straps, Completes (.pwrOkRise straps) s fun t =>
       if s.boot.on = true then t = s
       else t.boot.on = true ∧ t.boot.leadSel = straps.leadSel ∧ t.boot.bootSrc = straps.bootSrc ∧
         t.boot.recover = straps.recovery ∧ t.boot.leader = some (if straps.leadSel then .east else .west) ∧
         t.stage = (if straps.bootSrc || straps.recovery then 1 else 0) ∧ t.rd .GLB_SERIAL = Config.serial &&& regMask .GLB_SERIAL ∧
         t.rdF .SEC_STATUS Fld.SEC_STATUS_RNGOK = 1) ∧
     Completes .pwrOkFall s (fun t => t.reg = State.reset.reg ∧ t.mem = [] ∧ t.boot.on = false ∧ t.boot.arb = s.boot.arb ∧
       t.flash = ((Prog.when s.boot.on cutFlash).run s).2.flash ∧
       (s.jnlState < 2 → s.jnl.fw = none → t.flash = s.flash) ∧
       t.sec.owner = s.sec.owner ∧ t.sec.kek = none ∧ t.keys = State.reset.keys ∧ t.pending = s.pending) ∧
     (∀ i, i ∈ [Instr.perstN, .functionLevelReset] → Completes i s fun t => ∀ q, q < 17 →
       t.qstate q = 0 ∧ t.rd .HCI_QCTRL q = 0 ∧ t.rdF .HCI_QSTAT Fld.HCI_QSTAT_SQHEAD q = 0 ∧
       t.rdF .HCI_QSTAT Fld.HCI_QSTAT_CQTAIL q = 0 ∧ (t.hqueue q).cmd = (s.hqueue q).cmd ∧
       (t.hqueue q).lost = (s.hqueue q).cmd.isSome) ∧
     (∀ half, Completes (.bootVerify half) s fun t =>
       match s.candidate half with
       | none => t = s
       | some (slot, len) =>
         let out := s.verifyImage slot len
         let digest := BitVec.ofNat 384 (bits 479 96 (s.imageHdr slot))
         if s.boot.on = false ∨ (s.half half).runs = false ∨ (Config.life ≠ 3 ∧ Config.life ≠ 7) then t = s
         else if s.boot.leader = some half then
           t.rdF .SEC_BOOT Fld.SEC_BOOT_OUTCOME = out ∧
           (out = 0 → s.stage ≤ 1 → t.stage = (if s.boot.recover then 7 else 2) ∧ t.boot.slot = slot ∧
             t.rdF .GLB_FLEVEL Fld.GLB_FLEVEL_FLEVEL = bits 47 32 (s.imageHdr slot)) ∧
           (out ≠ 0 → slot = 2 → t.boot.given = none ∧ t.stage = s.stage) ∧
           (slot ≠ 2 → (t.half half).rom = ⟨slot, out, digest⟩ :: (s.half half).rom)
         else Out.handshake half out ∈ t.out ∧ (t.half half).rom = ⟨slot, out, digest⟩ :: (s.half half).rom ∧ t.stage = s.stage) ∧
     (∀ outcome digest, Completes (.followerOutcome outcome digest) s fun t =>
       match s.boot.leader.bind fun h => (s.half h).rom.find? fun r => r.outcome == 0 with
       | none => t = s
       | some r =>
         if outcome = 0 ∧ digest = r.digest then t = s
         else t.boot.halfDis = true ∧ t.boot.east.fault = true ∧ t.boot.west.fault = true ∧
           t.rdF .SEC_BOOT Fld.SEC_BOOT_OUTCOME = 7 ∧ t.rdF .GLB_STATE Fld.GLB_STATE_STATE = 6) ∧
     (∀ val, Completes (.jnlHlw val) s fun t =>
       if s.wbusy .jnl = true then WriteLost .jnl t ∧ t.boot = s.boot
       else t.wbusy .jnl = true ∧ t.boot.given =
         (if s.stage = 1 ∧ flagF Fld.JNL_HLW_GO val = true then some (min (getF Fld.JNL_HLW_LEN val) 33554432) else s.boot.given)) ∧
     Completes .pilotDeclare s (fun t =>
       if s.faultCause = 0 ∧ (s.stage = 3 ∨ (s.stage = 7 ∧ s.rdF .TEL_STATUS Fld.TEL_STATUS_LOOP = 0)) then
         t.stage = (if s.stage = 3 then 4 else s.stage) ∧ t.rdF .CLK_STATUS Fld.CLK_STATUS_PILOT = 1 ∧
         t.rdF .TEL_STATUS Fld.TEL_STATUS_LOOP = 1 ∧ (∀ v, v < 4 → t.rdF .MEM_STATUS Fld.MEM_STATUS_STATE v = 2) ∧
         (s.stage = 3 → ∀ v, 4 ≤ v → v < 16 → t.rdF .MEM_STATUS Fld.MEM_STATUS_STATE v = 1) ∧
         ∀ p ∈ s.pilotPorts, t.rdF .FAB_PSTATUS Fld.FAB_PSTATUS_STATE p = 3
       else t = s) ∧
     Completes .fullServiceDeclare s (fun t =>
       if s.faultCause = 0 ∧ s.boot.recover = false ∧ (s.stage = 4 ∨ s.stage = 5) then
         let u := ((Prog.all [beginFull, abortCommands fun c => c.binds, endAll none]).run s).2
         t.stage = 6 ∧ t.rdF .CLK_STATUS Fld.CLK_STATUS_PILOT = 0 ∧ (∀ b, b < 8 → t.bstate b = 0) ∧
         (∀ a, (∀ x ∈ u.pilotSecs, x.1 ≠ a / 64) → t.byte a = State.reset.byte a) ∧
         ∀ v, v < 16 → t.rdF .MEM_STATUS Fld.MEM_STATUS_STATE v = 3 ∧ t.rdF .MEM_INJ Fld.MEM_INJ_ARM v = 0
       else t = s) ∧
     (∀ cause, Completes (.bringupLimit cause) s fun t =>
       if s.boot.on = false ∨ s.stage = 1 ∨ 6 ≤ s.stage then t = s
       else t.stage = 8 ∧ t.rdF .JNL_BRINGUP Fld.JNL_BRINGUP_CAUSE = (if 1 ≤ cause ∧ cause ≤ 6 then cause else 6) ∧
         t.rdF .GLB_STATE Fld.GLB_STATE_STATE = 6)) ∧
  (∀ (s : State),
     let b := s.boot
     (∀ acked, Completes (.leaseRenewal acked) s fun t =>
       if b.on = false then t = s
       else match b.leader with
         | none => t.boot = { b with missed := b.missed + 1 }
         | some h =>
           if (s.half h).runs = false then t.boot = { b with missed := b.missed + 1 }
           else if acked = true ∧ (s.half (otherHalf h)).runs = true then t.boot = { b with missed := 0, unacked := 0 }
           else t.boot.missed = b.missed + 1 ∧ t.boot.unacked = b.unacked + 1 ∧
             if s.strapped ≠ h ∧ 4 ≤ b.unacked + 1 then t.boot.leader = none ∧ (t.half h).fault = true
             else t.boot.leader = some h ∧ (t.half h).fault = (s.half h).fault) ∧
     (∀ half, b.on = true → (s.half half).runs = true → b.leader ≠ some half → Completes (.leaseClaim half) s fun t =>
       if b.missed < 5 then t.boot = b
       else if s.strapped = half then t.boot.leader = some half ∧ t.boot.missed = 0 ∧ t.boot.unacked = 0 ∧
         Out.handshake half 1 ∈ t.out
       else (t.half half).fault = true ∧ t.boot.leader = b.leader) ∧
     Completes .yield s (fun t =>
       match b.leader with
       | none => t = s
       | some h =>
         if (s.half h).runs = true ∧ (s.half (otherHalf h)).runs = true then
           t.boot = { b with leader := some (otherHalf h), missed := 0, unacked := 0 } ∧ Out.handshake h 2 ∈ t.out
         else t = s))

/-! ### The security island -/

/-- Anti-rollback, ownership, berths, the cipher engine, the random source and the debug challenge (R348, R354, R358, R359,
R361 to R364, R367): each posted command is lost while another is in progress. An advance that is not between the fuses
and the running image is refused, and any other begins with its journal record. CLAIM stores the owner of an unowned
device; SETKEK its KEK; RELEASE, signed and fresh, ends every binding and erases both; a berth is loaded from a blob that
unwraps, and cleared where no channel holds it. A request at the ring's head is served with its status. A challenge that
is answered well opens debug with every key cleared; in PROD, JTAG debugs only then.
Where the spec leaves a point open the model's choice of log 5, 37, 38 and 66 decides it. -/
def Obligations.SecurityIsland : Prop :=
  ∀ (s : State),
    let err (t : State) (f : Field) : Prop := t.rdF .SEC_ERR f = 1
    let lost := s.wbusy .sec
    let st (t : State) (b : Nat) : Nat := t.rdF .SEC_BERTH_META Fld.SEC_BERTH_META_STATE b
    (∀ val, Completes (.arbCmd val) s fun t =>
      let a := getF Fld.SEC_ARB_CMD_TARGET val
      if lost = true then WriteLost .sec t ∧ t.jnl = s.jnl
      else if a ≤ s.boot.arb ∨ s.svn < a then err t Fld.SEC_ERR_ARBREF ∧ t.jnl = s.jnl
      else t.jnl.queue = s.jnl.queue ++ [⟨7, 0, false, leBytes 1 a, false⟩]) ∧
    (∀ val, Completes (.berthLoad val) s fun t =>
      let v := putF Fld.SEC_BERTH_CMD_OP val 1
      let b := getF Fld.SEC_BERTH_CMD_BERTH v
      if lost = true then WriteLost .sec t ∧ t.keys = s.keys
      else if st s b ≠ 0 then err t Fld.SEC_ERR_BUSY ∧ t.keys = s.keys
      else ∀ d s₁, (cleanRead (getF Fld.SEC_BERTH_CMD_ADDR v) 48).run (accepted .sec .SEC_BERTH_CMD v s) = (d, s₁) →
        match d.bind fun blob => s.sec.kek.bind fun k => kwUnwrap k blob with
        | none => err t Fld.SEC_ERR_UNWRAP ∧ t.keys = s.keys
        | some p => if usageOk p = false then err t Fld.SEC_ERR_UNWRAP ∧ t.keys = s.keys
          else t.berthKey b = BitVec.ofNat 256 (beNat (p.take 32)) ∧ st t b = 1 ∧
            t.rdF .SEC_BERTH_META Fld.SEC_BERTH_META_USE b = bits 3 0 (leNat (p.drop 32)) ∧
            t.rdF .SEC_BERTH_META Fld.SEC_BERTH_META_KSN b = bits 63 32 (leNat (p.drop 32))) ∧
    (∀ val, Completes (.berthClear val) s fun t =>
      let b := getF Fld.SEC_BERTH_CMD_BERTH (putF Fld.SEC_BERTH_CMD_OP val 2)
      if lost = true then WriteLost .sec t ∧ t.keys = s.keys
      else if st s b = 2 then err t Fld.SEC_ERR_BUSY ∧ t.keys = s.keys
      else st t b = 0 ∧ (st s b ≠ 0 → t.berthKey b = 0)) ∧
    (∀ val, Completes (.claim val) s fun t =>
      let v := putF Fld.SEC_OWN_CMD_OP val 1
      if lost = true then WriteLost .sec t ∧ t.sec = s.sec
      else if s.sec.owner.isSome then err t Fld.SEC_ERR_OWNREF ∧ t.sec = s.sec
      else ∀ d s₁, (cleanRead (getF Fld.SEC_OWN_CMD_ADDR v / 64 * 64) ownerLen).run (accepted .sec .SEC_OWN_CMD v s) = (d, s₁) →
        match d with
        | none => err t Fld.SEC_ERR_OWNREF ∧ t.sec = s.sec
        | some r => t.sec = { s.sec with owner := some r, tkey := some s.sec.tcount, tcount := s.sec.tcount + 1 } ∧
            t.rdF .SEC_STATUS Fld.SEC_STATUS_OWNED = 1) ∧
    (∀ val, Completes (.setkek val) s fun t =>
      let v := putF Fld.SEC_OWN_CMD_OP val 2
      if lost = true then WriteLost .sec t ∧ t.sec = s.sec
      else if s.sec.kek.isSome then err t Fld.SEC_ERR_OWNREF ∧ t.sec = s.sec
      else ∀ d s₁, (cleanRead (getF Fld.SEC_OWN_CMD_ADDR v / 64 * 64) 384).run (accepted .sec .SEC_OWN_CMD v s) = (d, s₁) →
        match d.bind fun blob => s.sec.tkey.bind fun n => transportOpen n blob with
        | none => err t Fld.SEC_ERR_OWNREF ∧ t.sec = s.sec
        | some p => if p.length ≠ 32 then err t Fld.SEC_ERR_OWNREF ∧ t.sec = s.sec
          else t.sec = { s.sec with kek := some (BitVec.ofNat 256 (beNat p)), tkey := none } ∧
            t.rdF .SEC_STATUS Fld.SEC_STATUS_KEK = 1) ∧
    (∀ val, Completes (.release val) s fun t =>
      let v := putF Fld.SEC_OWN_CMD_OP val 3
      if lost = true then WriteLost .sec t ∧ t.sec = s.sec
      else ∀ d s₁, (cleanRead (getF Fld.SEC_OWN_CMD_ADDR v / 64 * 64) (40 + rsaSigLen + slhSigLen)).run
          (accepted .sec .SEC_OWN_CMD v s) = (d, s₁) →
        match d, s.sec.owner with
        | some r, some o =>
          if leNat (r.take 8) = Config.serial.toNat ∧ nonceKnown s.sec.nonces ((r.drop 8).take 32) = true ∧
              ownerSigned o (r.take 40) ((r.drop 40).take rsaSigLen) (r.drop (40 + rsaSigLen)) = true then
            t.sec = { s.sec with owner := none, kek := none, tkey := none } ∧ (∀ b, b < 64 → st t b = 0) ∧
            (∀ b, b < 8 → t.bstate b = 0) ∧ t.rdF .SEC_STATUS Fld.SEC_STATUS_OWNED = 0
          else err t Fld.SEC_ERR_OWNREF ∧ t.sec = s.sec
        | _, _ => err t Fld.SEC_ERR_OWNREF ∧ t.sec = s.sec) ∧
    (∀ val, Completes (.secCqTail val) s fun t =>
      if lost = true then WriteLost .sec t ∧ t.rd .SEC_CQ_TAIL = s.rd .SEC_CQ_TAIL
      else t.wbusy .sec = true ∧ t.rd .SEC_CQ_TAIL = val &&& regMask .SEC_CQ_TAIL) ∧
    (∀ i op, (i, op) ∈ [(Instr.gen, 1), (.verify, 2)] → Completes i s fun t =>
      let h := s.rdF .SEC_CQ_HEAD Fld.SEC_CQ_HEAD_HEAD
      let a := (s.rd .SEC_CQ_BASE).toNat / 32 * 32 + 32 * h
      if h = s.rdF .SEC_CQ_TAIL Fld.SEC_CQ_TAIL_TAIL then t = s
      else ∀ d s₁, (cleanRead a 32).run s = (some d, s₁) →
        let r := leNat d
        if cqIllegal r = false ∧ bits 1 0 r ≠ op then t = s₁
        else t.rdF .SEC_CQ_HEAD Fld.SEC_CQ_HEAD_HEAD = (h + 1) % 32 ∧ (a + 31 < stackSize →
          (cqIllegal r = true → t.byte (a + 31) = 5) ∧
          (cqIllegal r = false → ∀ x s₂, (cqServe r).run s₁ = (x, s₂) → t.byte (a + 31) = BitVec.ofNat 8 x.1)) ∧
          (r.testBit 13 = true → tokenCount t (bits 18 14 r) (bits 24 19 r) =
            min (tokenCount s (bits 18 14 r) (bits 24 19 r) + 1) 65535)) ∧
    Completes .rngRead s (fun t =>
      if s.rdF .SEC_STATUS Fld.SEC_STATUS_RNGOK = 0 then Out.answer (.core 0) (some 0) ∈ t.out ∧ t.sec = s.sec
      else ∃ v, Out.answer (.core 0) (some v) ∈ t.out ∧ t.sec.nonces = v :: s.sec.nonces) ∧
    Completes .rngHealthTestFailure s (fun t => t.rdF .SEC_STATUS Fld.SEC_STATUS_RNGOK = 0 ∧ err t Fld.SEC_ERR_RNGFAIL) ∧
    (∀ sig, Completes (.debugChallenge sig) s fun t =>
      match sig, s.sec.dbg with
      | [], _ => if s.rdF .SEC_STATUS Fld.SEC_STATUS_RNGOK = 0 then t = s else ∃ n, t.sec.dbg = some n ∧ n.length = 32
      | _, none => t = s
      | d, some n =>
        if leniqueSigned n d = false then t.sec = { s.sec with dbg := none }
        else t.sec = { s.sec with kek := none, tkey := none, dbg := none } ∧ (∀ b, b < 64 → st t b = 0) ∧
          t.rdF .SEC_STATUS Fld.SEC_STATUS_DEBUG = 1) ∧
    (s.jtagReaches .debug = true ↔ Config.life ≠ 3 ∨ s.rdF .SEC_STATUS Fld.SEC_STATUS_DEBUG = 1) ∧
    jtagIdcode.getLsbD 0 = true ∧ jtagIdcode.extractLsb' 12 16 = 0x0096#16 ∧ jtagIdcode.extractLsb' 28 4 = 0xA#4

/-- The SPDM responder (R356, R357; the layouts are those of SPDM 1.2, log 39): a request too short or with another code is
answered with an error, and so is one before its phase; any other is answered, a negotiation entering its next phase
and a signed response beginning the transcript of its kind again. -/
def Obligations.SpdmResponder : Prop :=
  ∀ (tr : SpdmTransport) (req : List (BitVec 8)) (s : State),
    let k := s.sec.spdm
    let reply (t : State) (m : List Byte) : Prop := t.out = .spdm tr m :: s.out
    (∀ i code phase, (i, code, phase) ∈ [(Instr.getVersion tr req, 0x84, 0), (.getCapabilities tr req, 0xE1, 1),
        (.negotiateAlgorithms tr req, 0xE3, 2), (.getDigests tr req, 0x81, 3), (.getCertificate tr req, 0x82, 3),
        (.lnqGetSlhcert tr req, 0xFE, 3), (.challenge tr req, 0x83, 3), (.getMeasurements tr req, 0xE0, 3)] →
      (req.length < 4 ∨ (req.getD 1 0).toNat ≠ code → Completes i s fun t => reply t [0x12, 0x7F, 1, 0] ∧ t.sec = s.sec) ∧
      (4 ≤ req.length → (req.getD 1 0).toNat = code → k.phase < phase →
        Completes i s fun t => reply t [0x12, 0x7F, 4, 0] ∧ t.sec = s.sec)) ∧
    (4 ≤ req.length →
      let is (code : Nat) : Prop := (req.getD 1 0).toNat = code
      (is 0x84 → Completes (.getVersion tr req) s fun t =>
        let m : List Byte := [0x10, 0x04, 0, 0, 0, 1, 0, 0x12]
        reply t m ∧ t.sec.spdm = ⟨1, req ++ m, [], []⟩) ∧
      (is 0xE1 → 1 ≤ k.phase → Completes (.getCapabilities tr req) s fun t =>
        ∃ m, reply t m ∧ m.take 5 = [0x12, 0x61, 0, 0, 0] ∧ t.sec.spdm = { k with phase := 2, vca := k.vca ++ req ++ m }) ∧
      (is 0xE3 → 2 ≤ k.phase → Completes (.negotiateAlgorithms tr req) s fun t =>
        if (leNat ((req.drop 8).take 4)).testBit 2 = true ∧ (leNat ((req.drop 12).take 4)).testBit 1 = true then
          ∃ m, reply t m ∧ m.take 2 = [0x12, 0x63] ∧ t.sec.spdm = { k with phase := 3, vca := k.vca ++ req ++ m }
        else reply t [0x12, 0x7F, 1, 0] ∧ t.sec = s.sec) ∧
      (3 ≤ k.phase →
        (is 0x81 → Completes (.getDigests tr req) s fun t =>
          let m : List Byte := [0x12, 0x01, 0, 1] ++ shaBytes Config.rsaChain
          reply t m ∧ t.sec.spdm = { k with certs := k.certs ++ req ++ m }) ∧
        (is 0x82 → Completes (.getCertificate tr req) s fun t =>
          let off := leNat ((req.drop 4).take 2)
          let d := chainPart Config.rsaChain off (leNat ((req.drop 6).take 2))
          if (req.getD 2 0).toNat % 16 = 0 ∧ off < Config.rsaChain.length then
            reply t ([0x12, 0x02, 0, 0] ++ leBytes 2 d.length ++ leBytes 2 (Config.rsaChain.length - off - d.length) ++ d)
          else reply t [0x12, 0x7F, 1, 0]) ∧
        (is 0xFE → Completes (.lnqGetSlhcert tr req) s fun t =>
          let off := leNat ((req.drop 4).take 4)
          let d := chainPart Config.slhChain off (leNat ((req.drop 8).take 4))
          reply t ([0x12, 0x7E, 0, 0] ++ leBytes 4 d.length ++ leBytes 4 (Config.slhChain.length - off - d.length) ++ d)) ∧
        (is 0x83 → Completes (.challenge tr req) s fun t =>
          if (req.getD 2 0).toNat = 0 then
            (∃ m, m.take 4 = [0x12, 0x03, 0, 1] ∧ reply t (m ++ signedTail (k.vca ++ k.certs ++ req ++ m))) ∧
            t.sec.spdm = { k with certs := [], meas := [] }
          else reply t [0x12, 0x7F, 1, 0]) ∧
        (is 0xE0 → Completes (.getMeasurements tr req) s fun t =>
          let op := (req.getD 3 0).toNat
          if op ≠ 0 ∧ op ≠ 0xFF ∧ (∀ x ∈ s.blocks, x.1 ≠ op) then reply t [0x12, 0x7F, 1, 0]
          else ∃ m, m.take 2 = [0x12, 0x60] ∧
            if (req.getD 2 0).getLsbD 0 = true then
              reply t (m ++ signedTail (k.vca ++ k.meas ++ req ++ m)) ∧ t.sec.spdm = { k with meas := [] }
            else reply t m ∧ t.sec.spdm = { k with meas := k.meas ++ req ++ m })))

/-! ### The journal -/

/-- The journal and the flash (R379 to R386): replay restores what the live region holds, or makes a first region, and the
bring-up goes on; a record built in memory is handed over; the record of the highest priority is programmed and
acknowledged, or found bad, or finds no room, where a compaction starts or the journal refuses; a compaction writes the
other region, which is then live, or fails; an erased region reads FF. A firmware slot is erased, and programmed once it
is erased, unless its image runs.
Where the spec leaves a point open the model's choice of log 40 and 67 decides it. -/
def Obligations.JournalAndFlash : Prop :=
  ∀ (s : State),
    let j := s.jnl
    let seq := s.rd .JNL_SEQ
    let err (t : State) (f : Field) : Prop := t.rdF .JNL_ERR f = 1
    Completes .journalReplay s (fun t =>
      if s.stage ≠ 2 ∨ s.boot.halfDis = true then t = s
      else t.stage = 3 ∧ t.jnlState = (if regionSize * 3 / 4 < t.jnl.off ∧ t.idleOk = true then 3 else 2) ∧
        (∀ v, v < 4 → t.rdF .MEM_STATUS Fld.MEM_STATUS_STATE v = 1) ∧ match s.pickLive with
        | none => t.liveReg = 0 ∧ t.rd .JNL_CGEN = 1 ∧ t.rd .JNL_SEQ = 1 ∧ t.rd .JNL_ACKSEQ = 0
        | some (live, g) =>
          let top := (((s.region live).1 ++ (s.region (1 - live)).1).map Rec.seq).foldl max 0
          t.liveReg = live ∧ t.rd .JNL_CGEN = BitVec.ofNat 64 g &&& regMask .JNL_CGEN ∧
          t.rd .JNL_SEQ = BitVec.ofNat 64 (top + 1) ∧ t.rd .JNL_ACKSEQ = BitVec.ofNat 64 top) ∧
    (∀ val, Completes (.jnlAppend val) s fun t =>
      if s.wbusy .jnl = true then WriteLost .jnl t ∧ t.jnl = j
      else ∀ d s₁, (cleanRead (getF Fld.JNL_APPEND_ADDR val * 32) 32).run (accepted .jnl .JNL_APPEND val s) = (d, s₁) →
        match d with
        | none => t.jnl = j
        | some h => ∀ b s₂, (cleanRead (getF Fld.JNL_APPEND_ADDR val * 32 + 32) (min (bits 47 32 (leNat h)) 4064)).run s₁ = (b, s₂) →
          match b with
          | none => t.jnl = j
          | some body => t.jnl.queue = j.queue ++ [⟨bits 23 16 (leNat h), bits 223 160 (leNat h), (leNat h).testBit 24,
              if (leNat h).testBit 24 then [] else body, flagF Fld.JNL_APPEND_IRQ val⟩]) ∧
    (∀ r ok, nextReq j.queue = some r → s.jnlState = 2 ∨ s.jnlState = 3 → Completes (.recordAcknowledged ok) s fun t =>
      let x : Rec := ⟨r.typ, r.del, seq.toNat, (s.rd .JNL_CGEN).toNat, r.key, r.body⟩
      let a := regionBase s.liveReg + j.off
      if regionSize < j.off + 32 + r.body.length then
        if s.jnlState = 3 then t = s
        else if s.idleOk = true then t.jnlState = 3 ∧ t.jnl.snap = some (s.rd .JNL_ACKSEQ).toNat
        else err t Fld.JNL_ERR_FULL ∧ t.jnlState = 4 ∧ t.rdF .GLB_STATE Fld.GLB_STATE_STATE = 6
      else if ok = true then
        (∀ i, i < x.bytes.length → t.fbyte (a + i) = s.fbyte (a + i) &&& x.bytes.getD i 0) ∧
        t.rd .JNL_ACKSEQ = seq ∧ t.rd .JNL_SEQ = seq + 1 ∧ (r.irq = true → Out.journal seq.toNat ∈ t.out) ∧
        (r.typ ≠ 7 → t.jnl.queue = j.queue.erase r)
      else err t Fld.JNL_ERR_PROGRETRY ∧ t.jnl.queue = j.queue ∧ t.jnl.fails = j.fails + 1) ∧
    Completes .compact s (fun t =>
      if (s.jnlState = 2 ∨ s.jnlState = 4) ∧ s.idleOk = true then t.jnlState = 3 ∧ t.jnl.snap = some (s.rd .JNL_ACKSEQ).toNat else t = s) ∧
    (∀ snap ok, j.snap = some snap → s.jnlState = 3 → Completes (.compactionDone ok) s fun t =>
      t.jnl.snap = none ∧
      if ok = true then t.liveReg = 1 - s.liveReg ∧ t.jnlState = 2 ∧ t.idleOk = false ∧ t.rd .JNL_SEQ = seq + 2 ∧
        t.rd .JNL_CGEN = (s.rd .JNL_CGEN + 1) &&& regMask .JNL_CGEN ∧
        t.fbyte (regionBase s.liveReg) = 0 ∧ t.fbyte (regionBase s.liveReg + 1) = 0
      else err t Fld.JNL_ERR_FLASH ∧ t.jnlState = 4 ∧ t.idleOk = false ∧ t.liveReg = s.liveReg) ∧
    Completes .regionEraseDone s (fun t =>
      if (s.jnlState = 2 ∨ s.jnlState = 4) ∧ s.idleOk = false then t.idleOk = true ∧
        t.jnlState = (if s.jnlState = 2 ∧ regionSize * 3 / 4 < j.off then 3 else s.jnlState) ∧
        ∀ i, i < regionSize → t.fbyte (regionBase (1 - s.liveReg) + i) = 0xFF
      else t = s) ∧
    (∀ i val op, (i, op) ∈ [(Instr.erase val, 1), (.program val, 2)] → Completes i s fun t =>
      let v := putF Fld.JNL_FW_CMD_OP val op
      let slot := getF Fld.JNL_FW_CMD_SLOT v
      if j.fw.isSome ∨ s.wbusy .jnl = true then WriteLost .jnl t ∧ t.jnl = j
      else if (s.boot.recover = false ∧ s.boot.slot = slot) ∨
          (op = 2 ∧ j.blank.contains slot = false ∧ s.erased (slotBase slot) slotSize = false) then
        err t Fld.JNL_ERR_FWREF ∧ t.jnl = j
      else t.jnl.fw = some ⟨slot, if op = 1 then none
        else some (s.rdF .JNL_FW_SRC Fld.JNL_FW_SRC_ADDR * 64, min (getF Fld.JNL_FW_CMD_LEN v) slotSize)⟩) ∧
    (∀ c, j.fw = some c → Completes .fwCmdDone s fun t =>
      t.jnl.fw = none ∧ err t Fld.JNL_ERR_FWDONE ∧ match c.prog with
        | none => c.slot ∈ t.jnl.blank ∧ ∀ i, i < slotSize → t.fbyte (slotBase c.slot + i) = 0xFF
        | some (a, n) => c.slot ∉ t.jnl.blank ∧ ∀ d s₁, (physRead a n).run s = (d, s₁) → ∀ i, i < d.length → i < slotSize →
            t.fbyte (slotBase c.slot + i) = s.fbyte (slotBase c.slot + i) &&& (d.getD i (0, false)).1)

/-! ### The host interface -/

/-- Queues (R390 to R394, R398, R399, R402): a doorbell moves its queue's tail or head, or sets BADDB; EN enables a queue
empty, and cleared disables it once its command has completed. A command of the queue whose turn it is is accepted, and
completed at
once where R398 refuses it; one that cannot be read leaves the queue in ERROR. A completion of a read of host memory ends
a HOSTCOPY or is a fetch; one that is poisoned or does not come fails what waits for it.
Where the spec leaves a point open the model's choice of log 41 decides it. -/
def Obligations.HostQueues : Prop :=
  ∀ (q : Fin 17) (s : State),
    let k := s.hqueue q
    let f (t : State) (x : Field) : Nat := t.rdF .HCI_QSTAT x q
    let err (t : State) (x : Field) : Prop := t.rdF .HCI_ERR x = 1
    (∀ val, Completes (.sqDoorbell q val) s fun t =>
      let v := val.toNat
      let tail := f s Fld.HCI_QSTAT_SQTAIL
      if q = 16 ∧ s.wbusy .hci = true then WriteLost .hci t ∧ f t Fld.HCI_QSTAT_SQTAIL = tail
      else if s.qstate q = 0 ∨ 256 ≤ v ∨
          255 < (tail + 256 - f s Fld.HCI_QSTAT_SQHEAD) % 256 + (v + 256 - tail) % 256 then
        err t Fld.HCI_ERR_BADDB ∧ f t Fld.HCI_QSTAT_SQTAIL = tail
      else f t Fld.HCI_QSTAT_SQTAIL = v) ∧
    (∀ val, Completes (.cqDoorbell q val) s fun t =>
      let v := val.toNat
      if q = 16 ∧ s.wbusy .hci = true then WriteLost .hci t ∧ t.hqueue q = k
      else if s.qstate q = 0 ∨ 256 ≤ v ∨
          (f s Fld.HCI_QSTAT_CQTAIL + 256 - k.cqHead) % 256 < (v + 256 - k.cqHead) % 256 then
        err t Fld.HCI_ERR_BADDB ∧ t.hqueue q = k
      else t.hqueue q = { k with cqHead := v } ∧
        t.qstate q = (if s.qstate q = 2 ∧ (f s Fld.HCI_QSTAT_CQTAIL + 1) % 256 ≠ v then 1 else s.qstate q)) ∧
    (∀ val, Completes (.qctrlWrite q val) s fun t =>
      let on := flagF Fld.HCI_QCTRL_EN val
      if s.wbusy .hci = true then WriteLost .hci t ∧ t.rd .HCI_QCTRL q = s.rd .HCI_QCTRL q
      else t.rd .HCI_QCTRL q = val &&& regMask .HCI_QCTRL ∧
        (on = true → s.qstate q = 0 → t.qstate q = 1 ∧ f t Fld.HCI_QSTAT_SQHEAD = 0 ∧ f t Fld.HCI_QSTAT_SQTAIL = 0 ∧
          f t Fld.HCI_QSTAT_CQTAIL = 0 ∧ t.hqueue q = { k with cqHead := 0, phase := true }) ∧
        (on = true → s.qstate q ≠ 0 → t.qstate q = s.qstate q) ∧
        (on = false → s.qstate q ≠ 0 →
          if k.cmd.isSome ∧ k.lost = false then (t.hqueue q).ending = true ∧ t.qstate q = s.qstate q else t.qstate q = 0)) ∧
    (∀ entry e s₁, (if q = 16 then (cleanRead ((s.rd .HCI_SQ_BASE 16).toNat / 4096 * 4096 +
        64 * s.rdF .HCI_QSTAT Fld.HCI_QSTAT_SQHEAD 16) 64).run s else (entry, s)) = (e, s₁) →
      Completes (.commandFetch q entry) s fun t =>
        if s.queueTurn ≠ some q.val then t = s
        else if (e.map (·.length)) = some 64 then
          let c : HCmd := ⟨BitVec.ofNat 512 (leNat (e.getD [])), s.turns + 1, false, decide (s.stage < 6)⟩
          let head := (f s Fld.HCI_QSTAT_SQHEAD + 1) % 256
          t.turns = s.turns + 1 ∧ (t.hqueue q).last = s.turns + 1 ∧ f t Fld.HCI_QSTAT_SQHEAD = head ∧
          match c.refused s₁ with
          | none => (t.hqueue q).cmd = some c
          | some (st, d) => (t.hqueue q).cmd = none ∧ (k.lost = false → q < 16 →
              Out.hostWrite (completionAt s q) (completionBytes c.cid q st d head 0 k.phase) ∈ t.out)
        else err t Fld.HCI_ERR_DMAERR ∧ t.qstate q = 3 ∧ f t Fld.HCI_QSTAT_SQHEAD = f s Fld.HCI_QSTAT_SQHEAD) ∧
    (∀ data, Completes (.deviceReadCompletion q data false) s fun t =>
      match s.copying q with
      | some c => if data.length = c.arg 287 256 then Completed s q hcOk 0 (c.arg 287 256) t ∧
            (q < 16 → ∀ a, t.byte a = ((physPut (c.arg 231 192) data).run s).2.byte a)
          else t = s
      | none => if q = 16 then t = s else exec (.commandFetch q (some data)) s = .next t) ∧
    (∀ i, i ∈ [Instr.completionTimeout q, .deviceReadCompletion q [] true] → Completes i s fun t =>
      if q = 16 ∨ (s.copying q = none ∧ s.queueTurn ≠ some q.val) then t = s
      else err t Fld.HCI_ERR_DMAERR ∧ (if i = .completionTimeout q then Out.aer 2 else .aer 1) ∈ t.out ∧
        if (s.copying q).isSome then Completed s q hcDma 0 0 t else t.qstate q = 3)

/-- Commands of the host (R23, R297, R308, R317, R321, R323, R334, R338, R390, R397 to R399): a queue whose command is not of the
row, has begun or must wait its turn does nothing. NOP completes; HOSTCOPY copies to host memory, or reads it; a message
is answered or is not; LOAD and REBIND go to the loader; START makes a binding STEPPING, from the
mooring crossing that a late joiner's crossing devices reported, STOP and FORCETURN wait for their
turnaround; APPLY raises the strobe; END and DRAIN end one binding and all; a REWIND puts a binding back to its
generation, or leaves it FAILED.
Where the spec leaves a point open the model's choice of log 35, 41, 42, 43 and 55 decides it. -/
def Obligations.HostCommands : Prop :=
  ∀ (q : Fin 17) (join : Option (BitVec 32)) (s : State),
    (∀ i op, (i, op) ∈ [(Instr.hostNop q, 0x00), (.hostcopy q, 0x01), (.fwmsgTimeout q, 0x02), (.hostLoad q, 0x10),
        (.hostRebind q, 0x11), (.hostStart q join, 0x12), (.hostStop q, 0x13), (.hostForceturn q, 0x14), (.hostApply q, 0x15),
        (.hostEnd q, 0x16), (.rewind q, 0x17), (.rewindTimeout q, 0x17), (.drain q, 0x20)] →
      s.readyCmd q op = none → exec i s = .next s) ∧
    (∀ c, s.readyCmd q 0x00 = some c → Completes (.hostNop q) s (Completed s q hcOk 0 0)) ∧
    (∀ c, s.readyCmd q 0x01 = some c → Completes (.hostcopy q) s fun t =>
      let dev := c.arg 231 192
      let len := c.arg 287 256
      if s.stackEnd < dev + len then Completed s q hcFailed 0 0 t
      else if c.raw.getLsbD 64 = true then ∀ d s₁, (cleanRead dev len).run s = (d, s₁) → match d with
        | none => Completed s q hcFailed 0 0 t
        | some d => Completed s q hcOk 0 len t ∧ Out.hostWrite (c.arg 191 128) d ∈ t.out
      else (t.hqueue q).cmd = some { c with begun := true } ∧ Out.hostRead q (c.arg 191 128) len ∈ t.out) ∧
    (∀ c, s.readyCmd q 0x02 = some c →
      (∀ answer, Completes (.fwmsg q answer) s fun t =>
        Completed s q hcOk 0 answer.toNat t ∧ Out.fwMessage q c.message ∈ t.out) ∧
      Completes (.fwmsgTimeout q) s fun t => Completed s q hcFailed 0 0 t ∧ Out.fwMessage q c.message ∈ t.out) ∧
    (∀ c, s.readyCmd q 0x15 = some c → Completes (.hostApply q) s fun t =>
      t.await = s.freeGroups ∧ Completed s q hcOk 0 0 t) ∧
    (∀ c, s.readyCmd q 0x13 = some c → Completes (.hostStop q) s fun t =>
      if s.bstate c.bind' = 3 then (t.binding c.bind').stop = some (c.arg 111 64) ∧
        (t.hqueue q).cmd = some { c with begun := true }
      else Completed s q hcFailed 0 0 t) ∧
    (∀ c, s.readyCmd q 0x14 = some c → Completes (.hostForceturn q) s fun t =>
      if s.forceable c.bind' = true then (t.binding c.bind').turning = some none ∧
        (t.hqueue q).cmd = some { c with begun := true }
      else Completed s q hcFailed 0 0 t) ∧
    (∀ c, s.readyCmd q 0x11 = some c → Completes (.hostRebind q) s fun t =>
      if s.hostLoads = true then t = s
      else if s.rb.isSome ∨ s.load.isSome then Completed s q hcRejected 10 0 t ∧ t.rb = s.rb
      else ∃ x, t.rb = some x ∧ x.to' = c.bind' ∧ x.host = some q.val ∧
        x.from' = (if c.raw.getLsbD 67 then none else some (c.arg 66 64)) ∧ x.save = c.arg 183 144 ∧ x.img = c.arg 143 104) ∧
    (s.faultCause = 0 →
      (∀ c, s.readyCmd q 0x10 = some c → Completes (.hostLoad q) s fun t =>
        if s.hostLoads = true then t = s
        else if s.load.isSome then Completed s q hcRejected 10 0 t
        else t.load = some ⟨c.arg 103 64, c.bind', false, some q.val⟩) ∧
      (∀ c, s.readyCmd q 0x12 = some c → Completes (.hostStart q join) s fun t =>
        if s.bstate c.bind' = 2 ∧ s.lus c.bind' ≠ [] then
          t.bstate c.bind' = 3 ∧ (t.binding c.bind').halted = false ∧ Completed s q hcOk 0
            (match join with | some m => m.toNat * (s.binding c.bind').h | none => (s.binding c.bind').step) t
        else Completed s q hcFailed 0 0 t) ∧
      ((∀ r, s.rb = some r → r.host ≠ some q.val) →
        (∀ c, s.readyCmd q 0x16 = some c → Completes (.hostEnd q) s fun t =>
          t.bstate c.bind' = 0 ∧ Completed s q hcOk 0 0 t) ∧
        (∀ c, s.readyCmd q 0x20 = some c → Completes (.drain q) s fun t =>
          (∀ b, b < 8 → t.bstate b = 0) ∧ Completed s q hcOk 0 0 t)) ∧
      (∀ c, s.readyCmd q 0x17 = some c →
        let b := c.bind'
        let failed (t : State) : Prop := t.bstate b = 5 ∧ Completed s q hcFailed 0 0 t
        Completes (.rewindTimeout q) s failed ∧
        Completes (.rewind q) s fun t => ∀ m s₁, (readManifest (c.arg 103 64)).run s = (m, s₁) → match m with
          | none => failed t
          | some m =>
            if m.bid ≠ s.rdF .BND_JOB Fld.BND_JOB_BID b then failed t
            else ∀ l s₂, (Prog.mapM m.pieces (restorePiece b (c.arg 103 64))).run
                ((rewindDrain b).run s₁).2 = (l, s₂) →
              if l.all id = true then t.bstate b = 2 ∧ (t.binding b).step = m.step + 1 ∧ (t.binding b).commit = m.commit ∧
                (t.binding b).cross = m.cross ∧ (t.binding b).rewound = some m.gen ∧ Completed s q hcOk 0 (m.step + 1) t
              else failed t))

/-! ### Clocks, telemetry and counters -/

/-- Clocks and their voltage (R416, R417, R429, R435, R437, R438, R443): a frequency is clamped, and a lower one is in force
at once; a regulator's acknowledgement puts its setpoint in force, and the clocks that it carries rise; one that does not
come ends the wait. A droop halves its quadrant, until it ends. A gating request gates and ungates the domains that it
may; a lost reference stops its ports, its half or the device; a returned one has its ports train; a trip stops the
device.
Where the spec leaves a point open the model's choice of log 47 and 54 decides it. -/
def Obligations.ClocksAndVoltage : Prop :=
  ∀ (s : State),
    let cerr (t : State) (f : Field) : Prop := t.rdF .CLK_ERR f = 1
    (∀ c val, Completes (.clkClfreq c val) s fun t =>
      if s.wbusy .clk = true then WriteLost .clk t ∧ t.rd .CLK_CLFREQ c = s.rd .CLK_CLFREQ c
      else t.rdF .CLK_CLFREQ Fld.CLK_CLFREQ_MHZ c = clampMhz (getF Fld.CLK_CLFREQ_MHZ val) ∧ t.tel.write = some c.val ∧
        (s.clocked c = true → t.wanted c < s.freqOf c → t.freqOf c = t.wanted c)) ∧
    Completes .avsbusAcknowledge s (fun t =>
      match s.tel.raise with
      | none => t = s
      | some mv => t.rdF .TEL_VCORE Fld.TEL_VCORE_MV = mv % 2 ^ 11 ∧
          ∀ c, c < 32 → s.clocked c = true → s.needMv (s.wanted c) ≤ mv % 2 ^ 11 → t.freqOf c = s.wanted c) ∧
    Completes .avsTimeout s (fun t =>
      if s.tel.raise = none then t = s
      else t.tel.raise = none ∧ t.rdF .TEL_ALERT Fld.TEL_ALERT_AVSERR = 1 ∧ t.tel.freq = s.tel.freq ∧
        ∀ c, c < 32 → t.rdF .CLK_CLSTAT Fld.CLK_CLSTAT_VWAIT c = 0) ∧
    (∀ q : Fin 4, Completes (.droop q) s fun t =>
      t.rdF .TEL_DROOPCNT Fld.TEL_DROOPCNT_COUNT = satAdd 32 (s.rdF .TEL_DROOPCNT Fld.TEL_DROOPCNT_COUNT) 1 ∧
      ∀ i, i < 8 → t.rdF .CLK_CLSTAT Fld.CLK_CLSTAT_STRETCH (8 * q + i) = 1 ∧
        t.rdF .CLK_CLSTAT Fld.CLK_CLSTAT_EFF (8 * q + i) =
          (if s.clocked (8 * q + i) then s.freqOf (8 * q + i) / 2 % 2 ^ 10 else 0)) ∧
    (∀ q : Fin 4, Completes (.droopStretchEnd q) s fun t =>
      ∀ i, i < 8 → t.rdF .CLK_CLSTAT Fld.CLK_CLSTAT_STRETCH (8 * q + i) = 0 ∧
        t.rdF .CLK_CLSTAT Fld.CLK_CLSTAT_EFF (8 * q + i) =
          (if s.clocked (8 * q + i) then s.freqOf (8 * q + i) % 2 ^ 10 else 0)) ∧
    (∀ hi val, Completes (.clkGate hi val) s fun t =>
      if s.wbusy .clk = true then WriteLost .clk t ∧ ∀ d, t.gated d = s.gated d
      else ∀ i, i < (if hi then 36 else 64) →
        let d := if hi then 64 + i else i
        let owned := (domainUnit d).any fun i => s.allOwned.testBit i
        if gateable d = false then t.gated d = s.gated d ∧ (val.getLsbD i = true → cerr t Fld.CLK_ERR_GATEREF)
        else if val.getLsbD i = false then t.gated d = false
        else if s.gated d = false ∧ owned = true then t.gated d = false ∧ cerr t Fld.CLK_ERR_GATEBUSY
        else t.gated d = true) ∧
    (∀ r, Completes (.refclkLoss r) s fun t =>
      (t.rd .CLK_REF).getLsbD (refBit r) = true ∧ cerr t Fld.CLK_ERR_REFLOSS ∧
      (∀ d ∈ refPorts r, (d < 79 → t.rdF .FAB_PSTATUS Fld.FAB_PSTATUS_STATE (d - 55) = 0) ∧
        (79 ≤ d → t.rdF .FRY_PSTATUS Fld.FRY_PSTATUS_STATE (d - 79) = 0)) ∧
      (r = .sys → t.rd .CLK_LOCK = 0 ∧ t.boot.east.fault = true ∧ t.boot.west.fault = true ∧
        t.rdF .GLB_STATE Fld.GLB_STATE_STATE = 6) ∧
      (r = .aone → t.boot.east.runs = false) ∧ (r = .aonw → t.boot.west.runs = false)) ∧
    (∀ r, Completes (.refclkReturn r) s fun t =>
      (t.rd .CLK_REF).getLsbD (refBit r) = false ∧ t.boot = s.boot ∧
      ∀ d ∈ refPorts r, d < 79 → s.gated d = false → s.boot.tripped = false → s.rdF .FAB_PCFG Fld.FAB_PCFG_EN (d - 55) = 1 →
        s.rdF .FAB_PSTATUS Fld.FAB_PSTATUS_STATE (d - 55) = 0 → t.rdF .FAB_PSTATUS Fld.FAB_PSTATUS_STATE (d - 55) = 1) ∧
    (∀ i : Fin 37, Completes (.pllLossOfLock i) s fun t => (t.rd .CLK_LOCK).getLsbD i = false ∧ cerr t Fld.CLK_ERR_UNLOCK) ∧
    (∀ half, Completes (.thermtrip half) s fun t =>
      if s.boot.on = false then t = s
      else t.boot.tripped = true ∧ (t.half half).fault = true ∧ t.rdF .GLB_STATE Fld.GLB_STATE_STATE = 6 ∧
        t.pins.thermN = .low)

/-- Telemetry, counters and samples (R404, R407, R412 to R415, R419): a loop period takes the readings, and from pilot
service on sets each quadrant's cap to the lower of the two ceilings; a report is answered with what was read; CLEAR
empties the counters of a set, a wrap is marked, and the sample ring's read mark is posted.
Where the spec leaves a point open the model's choice of log 2, 46 and 53 decides it. -/
def Obligations.TelemetryAndCounters : Prop :=
  ∀ (s : State),
    (∀ r, Completes (.telemetryLoop r) s fun t =>
      if s.boot.on = false ∨ s.boot.tripped = true then t = s
      else
        (∀ i, i < 128 → t.rdF .TEL_TEMP Fld.TEL_TEMP_DEGC i = (r.temps.getD i 0).toNat) ∧
        (∀ g mv da, g < 11 → r.rails.getD g none = some (mv, da) →
          t.rdF .TEL_RAIL Fld.TEL_RAIL_MV g = mv % 2 ^ 16 ∧ t.rdF .TEL_RAIL Fld.TEL_RAIL_DA g = da % 2 ^ 32) ∧
        t.tel.die = maxInt 0 (r.temps.map sbyte) ∧
        t.rdF .TEL_POWER Fld.TEL_POWER_PKG = min (t.power / 1000) 65535 ∧
        if s.rdF .TEL_STATUS Fld.TEL_STATUS_LOOP = 1 then
          (∀ q, q < 4 → t.cap q = min t.tel.g (t.tel.h.getD q 0) ∧ 100 ≤ t.cap q ∧ t.cap q ≤ 900) ∧
          (∀ q, q < 4 → (t.tel.h.getD q 0 : Int) = nextH (s.tel.h.getD q 900)
            (maxInt 0 (((r.temps.drop (8 * q)).take 8).map sbyte)) (s.rdF .TEL_THERM Fld.TEL_THERM_TDIE))
        else t.rd .TEL_FCAP = s.rd .TEL_FCAP) ∧
    (∀ i v, (i, v) ∈ [(Instr.readTemperature1, some (codeOf 16 s.tel.die)), (.readTemperature2, some (codeOf 16 s.tel.layer)),
        (.readPin, some (s.rdF .TEL_POWER Fld.TEL_POWER_PKG)), (.pmbusInvalidCommand, none)] →
      Completes i s fun t => t = { s with out := .pmbus v :: s.out }) ∧
    Completes .statusWord s (fun t => ∃ v, v < 2 ^ 16 ∧ t.out = .pmbus (some v) :: s.out) ∧
    (∀ n, Completes (.pldmRequest n) s fun t =>
      match s.sensor n with
      | some v => t = { s with out := .pldm n v :: s.out }
      | none => t = s) ∧
    (∀ set : Fin 132, Completes (.cntClear set) s fun t => ∀ i, i < setSize set → t.rd .CNT_VAL set i = 0) ∧
    (∀ set : Fin 132, Completes (.counterWrap set) s fun t => (t.rd .CNT_OVF set).getLsbD 0 = true) ∧
    (∀ c val, Completes (.smpRead c val) s fun t =>
      if s.wbusy (.smp c) = true then WriteLost (.smp c) t ∧ t.rd .SMP_READ c = s.rd .SMP_READ c
      else t.wbusy (.smp c) = true ∧ t.rd .SMP_READ c = val &&& regMask .SMP_READ)

/-! ### Frames -/

/-- What the commands of a cluster leave alone. A schedule word, a vector instruction and the events of a sequencer change
the parts of the state and the registers listed, and no other cluster; a word takes a fault, where it takes one, in
the same parts (R240). -/
def Obligations.FrameOfClusterCommands : Prop :=
    (∀ (c : Fin 32) (w : BitVec 128), ∀ i ∈ [
        Instr.nop c w, .tload c w, .tstore c w, .temit c w, .temitSlipRelease c, .dload c w, .mma c w, .mmat c w,
        .stat c w, .tsig c w, .twait c w, .twaitRelease c, .brf c w, .seg c w, .lset c w, .endWord c w,
        .overflowDecision c, .watchCompare c, .aryResume c],
      Touches i [.reg, .mem, .mmeta, .err, .pilotSecs, .cl, .codec, .xlt, .lu, .su, .fw, .fseq, .draws, .out] ∧
      WritesRegs i [
          .ARY_ERR, .ARY_ERRADDR, .ARY_FLAGS, .ARY_PC, .ARY_STATUS, .ARY_TOKEN, .CNT_OVF, .CNT_VAL, .GLB_EVT,
          .LND_ERR, .LND_ERRENT, .LND_ERRIDX, .LND_SKIPCNT, .LND_STATUS, .MEM_CDC_ERR, .MEM_CDC_RAWCNT,
          .MEM_CDC_STALECNT, .MEM_CECNT, .MEM_ERR, .MEM_ERRADDR, .MEM_ERRINFO, .MEM_INJ, .MEM_UECNT, .SLV_ABANDONCNT,
          .SLV_ACCEPTCNT, .SLV_ERR, .SLV_EVT, .SLV_FAILCNT, .SLV_STALECNT, .SLV_STATUS, .SMP_HEAD, .SMP_LOST,
          .VEC_STATUS, .XLT_ERR, .XLT_FLOG_HEAD, .XLT_FLOG_LOST, .XLT_STATUS, .XLT_WALKCNT] ∧
      OtherClusters i c) ∧
    (∀ (c : Fin 32) (w : BitVec 64), ∀ i ∈ [
        Instr.add c w, .sub c w, .mul c w, .fma c w, .div c w, .sqrt c w, .rcp c w, .rsq c w, .max c w, .min c w,
        .neg c w, .abs c w, .exp c w, .log c w, .tanh c w, .sigm c w, .erf c w, .cmp c w, .sel c w, .cvt c w,
        .qnt c w, .cvti c w, .icvt c w, .rsum c w, .rmax c w, .rmin c w, .perm c w, .smax c w, .mov c w, .vld c w,
        .vst c w, .slpop c w, .sltag c w, .setvl c w, .setf c w, .dld c w, .vsig c w, .vwait c w, .vbr c w,
        .vlset c w, .vend c w],
      Touches i [.reg, .mem, .mmeta, .err, .pilotSecs, .cl, .codec, .xlt, .lu, .su, .fw, .fseq, .draws, .out] ∧
      WritesRegs i [
          .ARY_ERR, .ARY_PC, .ARY_STATUS, .ARY_TOKEN, .CNT_OVF, .CNT_VAL, .GLB_EVT, .LND_ERR, .LND_ERRENT,
          .LND_ERRIDX, .LND_SKIPCNT, .LND_STATUS, .MEM_CDC_ERR, .MEM_CDC_RAWCNT, .MEM_CDC_STALECNT, .MEM_CECNT,
          .MEM_ERR, .MEM_ERRADDR, .MEM_ERRINFO, .MEM_INJ, .MEM_UECNT, .SLV_ABANDONCNT, .SLV_ACCEPTCNT, .SLV_ERR,
          .SLV_EVT, .SLV_FAILCNT, .SLV_STALECNT, .SLV_STATUS, .SMP_HEAD, .SMP_LOST, .VEC_ERR, .VEC_ERRADDR, .VEC_EVT,
          .VEC_FILL, .VEC_FLAGS, .VEC_LOOPIDX, .VEC_PC, .VEC_STATUS, .XLT_ERR, .XLT_FLOG_HEAD, .XLT_FLOG_LOST,
          .XLT_STATUS, .XLT_WALKCNT] ∧
      OtherClusters i c) ∧
    (∀ (c : Fin 32), ∀ i ∈ [Instr.slpopWaitEnd c, .vwaitRelease c],
      Touches i [.reg, .mem, .mmeta, .err, .pilotSecs, .cl, .draws] ∧
      WritesRegs i [
          .ARY_PC, .ARY_STATUS, .ARY_TOKEN, .CNT_OVF, .CNT_VAL, .MEM_CECNT, .MEM_ERR, .MEM_ERRADDR, .MEM_ERRINFO,
          .MEM_INJ, .MEM_UECNT, .SMP_HEAD, .SMP_LOST, .VEC_PC, .VEC_STATUS] ∧
      OtherClusters i c) ∧
    (∀ (c : Fin 32), ∀ i ∈ [Instr.aryStart c, .aryStop c, .sequencerDrained c],
      Touches i [.reg, .cl] ∧
      WritesRegs i [.ARY_ERR, .ARY_PC, .ARY_STATUS, .CNT_OVF, .CNT_VAL] ∧
      OtherClusters i c) ∧
    (∀ (c : Fin 32), ∀ i ∈ [Instr.vecStart c, .vecStop c, .vecResume c],
      Touches i [.reg, .cl] ∧
      WritesRegs i [.VEC_ERR, .VEC_PC, .VEC_STATUS] ∧
      OtherClusters i c) ∧
    (∀ (c : Fin 32) (t : Fin 64), ∀ i ∈ [Instr.toksigInc c t],
      Touches i [.reg] ∧
      WritesRegs i [.ARY_ERR, .ARY_TOKEN])

/-- What the commands of the landing units, the solver units, the memory, the movers and the collective engines leave
alone: each changes the parts and the registers listed. -/
def Obligations.FrameOfUnitCommands : Prop :=
    (∀ (u : Fin 4) (pkt : Packet), ∀ i ∈ [Instr.tileLand u, .contrib u pkt, .statcontrib u pkt],
      Touches i [.reg, .mem, .mmeta, .err, .pilotSecs, .codec, .xlt, .lu, .ce, .fw, .fseq, .out] ∧
      WritesRegs i [
          .CNT_OVF, .CNT_VAL, .FAB_CE_ERR, .FAB_CE_ERRADDR, .FAB_CE_FLAGS, .FAB_CE_LATECNT, .FAB_CE_STATUS, .FAB_PERR,
          .GLB_EVT, .LND_ERR, .LND_ERRENT, .LND_ERRIDX, .LND_FLAGS, .LND_LATECNT, .LND_SKIPCNT, .LND_STATUS,
          .MEM_CDC_ERR, .MEM_CDC_RAWCNT, .MEM_CDC_STALECNT, .MEM_CECNT, .MEM_ERR, .MEM_ERRADDR, .MEM_ERRINFO,
          .MEM_INJ, .MEM_UECNT, .XLT_ERR, .XLT_FLOG_HEAD, .XLT_FLOG_LOST, .XLT_STATUS, .XLT_WALKCNT]) ∧
    (∀ (u : Fin 4) (entry : Nat), ∀ i ∈ [Instr.phaseBStart u entry],
      Touches i [.reg, .mem, .mmeta, .err, .pilotSecs, .cl, .codec, .xlt, .lu, .fw, .fseq, .out] ∧
      WritesRegs i [
          .ARY_DTAB_BASE, .ARY_PC, .ARY_STATUS, .CNT_OVF, .CNT_VAL, .GLB_EVT, .LND_ERR, .LND_ERRENT, .LND_ERRIDX,
          .LND_SKIPCNT, .LND_STATUS, .MEM_CDC_ERR, .MEM_CDC_STALECNT, .MEM_CECNT, .MEM_ERR, .MEM_ERRADDR,
          .MEM_ERRINFO, .MEM_INJ, .MEM_UECNT, .XLT_ERR, .XLT_FLOG_HEAD, .XLT_FLOG_LOST, .XLT_STATUS, .XLT_WALKCNT]) ∧
    (∀ (u : Fin 4) (entry : Nat) (pkt : Packet), ∀ i ∈ [
        Instr.phaseCStart u entry, .holdCopy u entry, .outerUpdate u entry, .luVote u, .cross pkt],
      Touches i [.reg, .mem, .mmeta, .err, .pilotSecs, .codec, .xlt, .lu, .fw, .fseq, .out] ∧
      WritesRegs i [
          .CNT_OVF, .CNT_VAL, .FAB_PERR, .GLB_EVT, .LND_DIFFREJ, .LND_ERR, .LND_ERRENT, .LND_ERRIDX, .LND_FLAGS,
          .LND_SKIPCNT, .LND_STATUS, .LND_WIDECNT, .LND_XDROPCNT, .MEM_CDC_ERR, .MEM_CDC_RAWCNT, .MEM_CDC_STALECNT,
          .MEM_CECNT, .MEM_ERR, .MEM_ERRADDR, .MEM_ERRINFO, .MEM_INJ, .MEM_UECNT, .XLT_ERR, .XLT_FLOG_HEAD,
          .XLT_FLOG_LOST, .XLT_STATUS, .XLT_WALKCNT]) ∧
    (∀ (u : Fin 4), ∀ i ∈ [Instr.lndAbort u, .luDrained u],
      Touches i [.reg, .lu] ∧
      WritesRegs i [.LND_ERR, .LND_ERRENT, .LND_ERRIDX, .LND_SKIPCNT, .LND_STATUS]) ∧
    (∀ (s : Fin 2), ∀ i ∈ [Instr.rootRoundStart s],
      Touches i [.reg, .su] ∧
      WritesRegs i [.SLV_STATUS]) ∧
    (∀ (s : Fin 2), ∀ i ∈ [Instr.factorBlockRead s, .newtonIterateDone s, .cycleBudgetExpiry s, .abortrnd s],
      Touches i [.reg, .mem, .mmeta, .err, .pilotSecs, .cl, .codec, .xlt, .su, .store, .fw, .fseq, .draws, .out] ∧
      WritesRegs i [
          .ARY_PC, .ARY_STATUS, .CNT_OVF, .CNT_VAL, .GLB_EVT, .MEM_CDC_ERR, .MEM_CDC_RAWCNT, .MEM_CDC_STALECNT,
          .MEM_CECNT, .MEM_ERR, .MEM_ERRADDR, .MEM_ERRINFO, .MEM_INJ, .MEM_UECNT, .SLV_ABANDONCNT, .SLV_ACCEPTCNT,
          .SLV_ERR, .SLV_EVT, .SLV_FAILCNT, .SLV_FLAGS, .SLV_REREADCNT, .SLV_STALECNT, .SLV_STATUS, .SLV_WARMREJCNT,
          .VEC_STATUS, .XLT_ERR, .XLT_FLOG_HEAD, .XLT_FLOG_LOST, .XLT_STATUS, .XLT_WALKCNT]) ∧
    (∀ (s : Fin 2), ∀ i ∈ [
        Instr.factorisationDone s, .innerSolveEnd s, .loadJob s, .solveJob s, .changeListComplete s, .abortjob s],
      Touches i [.reg, .mem, .mmeta, .err, .pilotSecs, .codec, .xlt, .su, .store, .fw, .fseq, .draws, .out] ∧
      WritesRegs i [
          .ARY_ERR, .ARY_TOKEN, .CNT_OVF, .CNT_VAL, .GLB_EVT, .MEM_CDC_ERR, .MEM_CDC_RAWCNT, .MEM_CDC_STALECNT,
          .MEM_CECNT, .MEM_ERR, .MEM_ERRADDR, .MEM_ERRINFO, .MEM_INJ, .MEM_UECNT, .SLV_ABANDONCNT, .SLV_ACCEPTCNT,
          .SLV_CURJOB, .SLV_ERR, .SLV_EVT, .SLV_FAILCNT, .SLV_FLAGS, .SLV_JQ_HEAD, .SLV_STALECNT, .SLV_STATUS,
          .XLT_ERR, .XLT_FLOG_HEAD, .XLT_FLOG_LOST, .XLT_STATUS, .XLT_WALKCNT]) ∧
    (∀ (s : Fin 2), ∀ i ∈ [Instr.slvStop s, .slvResume s],
      Touches i [.reg, .mem, .mmeta, .err, .pilotSecs, .cl, .codec, .xlt, .su, .store, .fw, .fseq, .draws, .out] ∧
      WritesRegs i [
          .ARY_ERR, .ARY_PC, .ARY_STATUS, .ARY_TOKEN, .CNT_OVF, .CNT_VAL, .GLB_EVT, .MEM_CDC_ERR, .MEM_CDC_RAWCNT,
          .MEM_CDC_STALECNT, .MEM_CECNT, .MEM_ERR, .MEM_ERRADDR, .MEM_ERRINFO, .MEM_INJ, .MEM_UECNT, .SLV_ERR,
          .SLV_EVT, .SLV_FLAGS, .SLV_STATUS, .VEC_STATUS, .XLT_ERR, .XLT_FLOG_HEAD, .XLT_FLOG_LOST, .XLT_STATUS,
          .XLT_WALKCNT]) ∧
    (∀ (addr : BitVec 40) (upset : List (Nat × BitVec 8)), ∀ i ∈ [Instr.sectorRead addr upset],
      Touches i [.reg, .err, .out] ∧
      WritesRegs i [.CNT_OVF, .CNT_VAL, .MEM_CECNT, .MEM_ERR, .MEM_ERRADDR, .MEM_ERRINFO, .MEM_UECNT]) ∧
    (∀ (addr : BitVec 40) (off : Nat) (data : List (BitVec 8)) (poison : Bool) (v : Fin 16), ∀ i ∈ [
        Instr.sectorWrite addr off data poison, .scrubPass v],
      Touches i [.reg, .mem, .mmeta, .err, .pilotSecs] ∧
      WritesRegs i [.CNT_OVF, .CNT_VAL, .MEM_CECNT, .MEM_ERR, .MEM_ERRADDR, .MEM_ERRINFO, .MEM_INJ, .MEM_UECNT]) ∧
    (∀ (v : Fin 16) (temps : List (BitVec 8)), ∀ i ∈ [Instr.refreshRateChange v temps],
      Touches i [.reg] ∧
      WritesRegs i [.MEM_ERR, .MEM_STATUS, .MEM_TEMP]) ∧
    (∀ (v : Fin 16), ∀ i ∈ [Instr.dramOvertemp v],
      Touches i [.reg, .tel] ∧
      WritesRegs i [.MEM_ERR]) ∧
    (∀ (e : Fin 40), ∀ i ∈ [Instr.bankRetire e],
      Touches i [.reg, .codec] ∧
      WritesRegs i [.MEM_CDC_STATUS]) ∧
    (∀ (e : Fin 40) (m : Fin 4) (pkt : Packet), ∀ i ∈ [Instr.tableLoadDone e, .putPacket m pkt],
      Touches i [.reg, .mem, .mmeta, .err, .pilotSecs, .codec, .xlt, .fw, .fseq, .out] ∧
      WritesRegs i [
          .CNT_OVF, .CNT_VAL, .FAB_PERR, .GLB_EVT, .MEM_CDC_ERR, .MEM_CDC_RAWCNT, .MEM_CDC_STALECNT, .MEM_CDC_STATUS,
          .MEM_CECNT, .MEM_ERR, .MEM_ERRADDR, .MEM_ERRINFO, .MEM_INJ, .MEM_UECNT, .XLT_ERR, .XLT_FLOG_HEAD,
          .XLT_FLOG_LOST, .XLT_STATUS, .XLT_WALKCNT]) ∧
    (∀ (m : Fin 4) (idx : Nat), ∀ i ∈ [
        Instr.descriptorFetch m, .descriptorComplete m idx, .movStop m, .movResume m, .movAbort m],
      Touches i [.reg, .mem, .mmeta, .err, .pilotSecs, .codec, .xlt, .mov, .fw, .fseq, .out] ∧
      WritesRegs i [
          .ARY_ERR, .ARY_TOKEN, .CNT_OVF, .CNT_VAL, .GLB_EVT, .MEM_CDC_ERR, .MEM_CDC_RAWCNT, .MEM_CDC_STALECNT,
          .MEM_CECNT, .MEM_ERR, .MEM_ERRADDR, .MEM_ERRINFO, .MEM_INJ, .MEM_UECNT, .MOV_DONECNT, .MOV_ERR,
          .MOV_ERRDESC, .MOV_HEAD, .MOV_STATUS, .XLT_ERR, .XLT_FLOG_HEAD, .XLT_FLOG_LOST, .XLT_STATUS, .XLT_WALKCNT]) ∧
    (∀ (m : Fin 4) (idx : Nat) (n : Nat) (remote : Nat), ∀ i ∈ [Instr.get m idx n remote, .fetch m idx n remote],
      Touches i [.reg, .mem, .mmeta, .err, .pilotSecs, .codec, .xlt, .mov, .port, .fw, .fseq, .draws, .out] ∧
      WritesRegs i [
          .CNT_OVF, .CNT_VAL, .FAB_DROPCNT, .FAB_HORNRES, .FAB_HORN_ERR, .FAB_HORN_STATUS, .FAB_PERR, .FAB_SRCDROPCNT,
          .GLB_EVT, .MEM_CDC_ERR, .MEM_CDC_RAWCNT, .MEM_CECNT, .MEM_ERR, .MEM_ERRADDR, .MEM_ERRINFO, .MEM_INJ,
          .MEM_UECNT, .MOV_ERR, .MOV_ERRDESC, .MOV_STATUS, .XLT_ERR, .XLT_FLOG_HEAD, .XLT_FLOG_LOST, .XLT_STATUS,
          .XLT_WALKCNT]) ∧
    (∀ (m : Fin 4), ∀ i ∈ [Instr.moverFaultStop m],
      Touches i [.reg] ∧
      WritesRegs i [.MOV_STATUS]) ∧
    (∀ (m : Fin 4) (idx : Nat) (n : Nat) (acked : List Nat) (remote : Nat), ∀ i ∈ [Instr.put m idx n acked remote],
      Touches i [
          .reg, .mem, .mmeta, .err, .pilotSecs, .codec, .xlt, .mov, .port, .pins, .sec, .fw, .fseq, .lseq, .unread,
          .draws, .out]) ∧
    (∀ (n : Fin 4) (idx : Nat), ∀ i ∈ [Instr.rsLand n idx, .rsMem n idx, .ceResume n],
      Touches i [.reg, .mem, .mmeta, .err, .pilotSecs, .codec, .xlt, .lu, .port, .ce, .fw, .fseq, .draws, .out] ∧
      WritesRegs i [
          .ARY_ERR, .ARY_TOKEN, .CNT_OVF, .CNT_VAL, .FAB_CE_ERR, .FAB_CE_ERRADDR, .FAB_CE_FLAGS, .FAB_CE_LATECNT,
          .FAB_CE_STATUS, .FAB_DROPCNT, .FAB_HORNRES, .FAB_HORN_ERR, .FAB_HORN_STATUS, .FAB_PERR, .FAB_SRCDROPCNT,
          .GLB_EVT, .LND_ERR, .LND_ERRENT, .LND_ERRIDX, .LND_LATECNT, .LND_SKIPCNT, .LND_STATUS, .MEM_CDC_ERR,
          .MEM_CDC_RAWCNT, .MEM_CDC_STALECNT, .MEM_CECNT, .MEM_ERR, .MEM_ERRADDR, .MEM_ERRINFO, .MEM_INJ, .MEM_UECNT,
          .XLT_ERR, .XLT_FLOG_HEAD, .XLT_FLOG_LOST, .XLT_STATUS, .XLT_WALKCNT]) ∧
    (∀ (n : Fin 4), ∀ i ∈ [Instr.ceStop n],
      Touches i [.reg, .ce] ∧
      WritesRegs i [.FAB_CE_STATUS])

/-- What the commands of the site fabric's ports, of the votes, of the horn and of the crossing channels leave alone: each
changes the parts and the registers listed. -/
def Obligations.FrameOfLinksAndChannels : Prop :=
    (∀ (p : Fin 24) (f : Flit) (r : RefClk), ∀ i ∈ [
        Instr.linkDown p, .flitReceived p f, .flitReplay p, .refclkReturn r],
      Touches i [.reg, .port, .draws, .out] ∧
      WritesRegs i [
          .CLK_REF, .CNT_OVF, .CNT_VAL, .FAB_DROPCNT, .FAB_HORNRES, .FAB_HORN_STATUS, .FAB_PERR, .FAB_PSTATUS,
          .FAB_REPLAYCNT, .FRY_PERR, .FRY_PSTATUS]) ∧
    (∀ (p : Fin 24) (peer : BitVec 15), ∀ i ∈ [Instr.linkTrained p peer],
      Touches i [.reg, .port, .draws] ∧
      WritesRegs i [.FAB_PERR, .FAB_PSTATUS, .FRY_PCFG, .FRY_PSTATUS, .JNL_BRINGUP]) ∧
    (∀ (p : Fin 24) (pkt : Packet) (rtt : BitVec 32), ∀ i ∈ [Instr.idleFlit p, .pong pkt rtt],
      Touches i [.reg, .out] ∧
      WritesRegs i [.CNT_OVF, .CNT_VAL, .FAB_HORN_STATUS, .FAB_PERR]) ∧
    (∀ (p : Fin 24) (e : Echo), ∀ i ∈ [Instr.echoFlit p e],
      Touches i [.reg, .draws, .out] ∧
      WritesRegs i [.CNT_OVF, .CNT_VAL, .FAB_ECHO]) ∧
    (∀ (pkt : Packet) (b : Fin 8), ∀ i ∈ [Instr.packetForward pkt, .dquery pkt, .voteRetry b, .ping pkt],
      Touches i [.reg, .port, .draws, .out] ∧
      WritesRegs i [
          .CNT_OVF, .CNT_VAL, .FAB_DROPCNT, .FAB_HORNRES, .FAB_HORN_ERR, .FAB_HORN_STATUS, .FAB_PERR, .FAB_SRCDROPCNT]) ∧
    (∀ (b : Fin 8) (pkt : Packet), ∀ i ∈ [Instr.deviceVote b, .vote pkt, .decision pkt],
      Touches i [.reg, .bnd, .port, .vote, .draws, .out] ∧
      WritesRegs i [
          .CNT_OVF, .CNT_VAL, .FAB_DROPCNT, .FAB_HORNRES, .FAB_HORN_ERR, .FAB_HORN_STATUS, .FAB_PERR, .FAB_SRCDROPCNT,
          .FAB_VOTESTAT]) ∧
    (∀ (pkt : Packet), ∀ i ∈ [Instr.heartbeat pkt, .key pkt],
      Touches i [.reg, .mem, .mmeta, .err, .pilotSecs, .hornWait, .out] ∧
      WritesRegs i [
          .CNT_OVF, .CNT_VAL, .FAB_HORN_RXHEAD, .FAB_PERR, .MEM_CECNT, .MEM_ERR, .MEM_ERRADDR, .MEM_ERRINFO, .MEM_INJ,
          .MEM_UECNT]) ∧
    (∀ (pkt : Packet), ∀ i ∈ [Instr.lead pkt],
      Touches i [.reg, .mem, .mmeta, .err, .pilotSecs, .port, .hornWait, .fw, .draws, .out] ∧
      WritesRegs i [
          .CNT_OVF, .CNT_VAL, .FAB_DROPCNT, .FAB_HORNRES, .FAB_HORN_ERR, .FAB_HORN_RXHEAD, .FAB_HORN_STATUS,
          .FAB_PERR, .FAB_SRCDROPCNT, .MEM_CECNT, .MEM_ERR, .MEM_ERRADDR, .MEM_ERRINFO, .MEM_INJ, .MEM_UECNT]) ∧
    (∀ (pkt : Packet), ∀ i ∈ [Instr.audit pkt],
      Touches i [.reg, .fw, .out] ∧
      WritesRegs i [.FAB_PERR]) ∧
    (∀ (m : Fin 4) (pkt : Packet), ∀ i ∈ [Instr.buddy m pkt],
      Touches i [.reg, .mem, .mmeta, .err, .pilotSecs, .xlt, .fw, .fseq, .out] ∧
      WritesRegs i [
          .CNT_OVF, .CNT_VAL, .FAB_PERR, .GLB_EVT, .MEM_CECNT, .MEM_ERR, .MEM_ERRADDR, .MEM_ERRINFO, .MEM_INJ,
          .MEM_UECNT, .XLT_ERR, .XLT_FLOG_HEAD, .XLT_FLOG_LOST, .XLT_STATUS, .XLT_WALKCNT]) ∧
    (∀ (m : Fin 4) (pkt : Packet), ∀ i ∈ [Instr.fetchreq m pkt, .getreq m pkt],
      Touches i [.reg, .mem, .mmeta, .err, .pilotSecs, .codec, .xlt, .port, .fw, .fseq, .draws, .out] ∧
      WritesRegs i [
          .CNT_OVF, .CNT_VAL, .FAB_DROPCNT, .FAB_HORNRES, .FAB_HORN_ERR, .FAB_HORN_STATUS, .FAB_PERR, .FAB_SRCDROPCNT,
          .GLB_EVT, .MEM_CDC_ERR, .MEM_CDC_STALECNT, .MEM_CECNT, .MEM_ERR, .MEM_ERRADDR, .MEM_ERRINFO, .MEM_INJ,
          .MEM_UECNT, .XLT_ERR, .XLT_FLOG_HEAD, .XLT_FLOG_LOST, .XLT_STATUS, .XLT_WALKCNT]) ∧
    (∀ (b : Fin 8) (gen : Nat), ∀ i ∈ [Instr.gendone b gen],
      Touches i [.reg, .bnd, .jnl] ∧
      WritesRegs i [.FRY_ERR]) ∧
    (∀ (ch : Fin 64) (since : BitVec 64), ∀ i ∈ [Instr.frameGroupSend ch since],
      Touches i [.reg, .mem, .mmeta, .err, .pilotSecs, .codec, .xlt, .chan, .jnl, .fw, .fseq, .draws, .out] ∧
      WritesRegs i [
          .CNT_OVF, .CNT_VAL, .FRY_CH_CTR, .FRY_CH_ERR, .FRY_CH_NACKCNT, .FRY_CH_RESENDCNT, .FRY_CH_STATUS, .FRY_ERR,
          .GLB_EVT, .MEM_CDC_ERR, .MEM_CDC_RAWCNT, .MEM_CDC_STALECNT, .MEM_CECNT, .MEM_ERR, .MEM_ERRADDR,
          .MEM_ERRINFO, .MEM_INJ, .MEM_UECNT, .XLT_ERR, .XLT_FLOG_HEAD, .XLT_FLOG_LOST, .XLT_STATUS, .XLT_WALKCNT]) ∧
    (∀ (ch : Fin 64) (fr : Frame), ∀ i ∈ [Instr.data ch fr, .parity ch fr, .done ch fr, .chResume ch],
      Touches i [.reg, .mem, .mmeta, .err, .pilotSecs, .codec, .xlt, .port, .chan, .jnl, .fw, .fseq, .draws, .out] ∧
      WritesRegs i [
          .ARY_ERR, .ARY_TOKEN, .CNT_OVF, .CNT_VAL, .FAB_DROPCNT, .FAB_HORNRES, .FAB_HORN_ERR, .FAB_HORN_STATUS,
          .FAB_PERR, .FAB_SRCDROPCNT, .FRY_CH_CTR, .FRY_CH_DUPCNT, .FRY_CH_ERR, .FRY_CH_ICVFAIL, .FRY_CH_LATECNT,
          .FRY_CH_NACKCNT, .FRY_CH_REPAIRCNT, .FRY_CH_STALECNT, .FRY_CH_STATUS, .FRY_DROPCNT, .FRY_ERR, .FRY_PERR,
          .FRY_STATUS, .GLB_EVT, .MEM_CDC_ERR, .MEM_CDC_RAWCNT, .MEM_CDC_STALECNT, .MEM_CECNT, .MEM_ERR, .MEM_ERRADDR,
          .MEM_ERRINFO, .MEM_INJ, .MEM_UECNT, .SEC_BERTH_META, .XLT_ERR, .XLT_FLOG_HEAD, .XLT_FLOG_LOST, .XLT_STATUS,
          .XLT_WALKCNT]) ∧
    (∀ (ch : Fin 64) (fr : Frame), ∀ i ∈ [Instr.ack ch fr, .join ch fr],
      Touches i [.reg, .mem, .mmeta, .err, .pilotSecs, .codec, .xlt, .chan, .jnl, .fw, .fseq, .out] ∧
      WritesRegs i [
          .ARY_ERR, .ARY_TOKEN, .CNT_OVF, .CNT_VAL, .FRY_CH_CTR, .FRY_CH_ERR, .FRY_CH_ICVFAIL, .FRY_CH_NACKCNT,
          .FRY_CH_STATUS, .FRY_DROPCNT, .FRY_ERR, .FRY_PERR, .GLB_EVT, .MEM_CDC_ERR, .MEM_CDC_RAWCNT,
          .MEM_CDC_STALECNT, .MEM_CECNT, .MEM_ERR, .MEM_ERRADDR, .MEM_ERRINFO, .MEM_INJ, .MEM_UECNT, .SEC_BERTH_META,
          .XLT_ERR, .XLT_FLOG_HEAD, .XLT_FLOG_LOST, .XLT_STATUS, .XLT_WALKCNT]) ∧
    (∀ (ch : Fin 64) (fr : Frame) (rtt : BitVec 32), ∀ i ∈ [
        Instr.nack ch fr, .hold ch fr, .resume ch fr, .joinack ch fr, .joinrestart ch fr, .echoreply ch fr rtt],
      Touches i [.reg, .chan] ∧
      WritesRegs i [.CNT_OVF, .CNT_VAL, .FRY_CH_ICVFAIL, .FRY_CH_RTT, .FRY_CH_STATUS, .FRY_DROPCNT, .FRY_PERR]) ∧
    (∀ (ch : Fin 64) (fr : Frame), ∀ i ∈ [Instr.echo ch fr],
      Touches i [.reg, .chan, .jnl, .draws, .out] ∧
      WritesRegs i [
          .CNT_OVF, .CNT_VAL, .FRY_CH_CTR, .FRY_CH_ERR, .FRY_CH_ICVFAIL, .FRY_CH_NACKCNT, .FRY_CH_STATUS,
          .FRY_DROPCNT, .FRY_ERR, .FRY_PERR]) ∧
    (∀ (ch : Fin 64) (fr : Frame), ∀ i ∈ [Instr.joindone ch fr],
      Touches i [.reg, .chan, .out] ∧
      WritesRegs i [.CNT_OVF, .CNT_VAL, .FRY_CH_ICVFAIL, .FRY_CH_STATUS, .FRY_DROPCNT, .FRY_PERR, .FRY_STATUS]) ∧
    (∀ (ch : Fin 64) (stream : BitVec 32) (group : BitVec 32), ∀ i ∈ [
        Instr.groupOverdue ch stream group, .nackRepeat ch stream group, .ackTimer ch, .echoInterval ch,
        .joinRepeat ch, .ivwaitRelease ch, .chJoin ch],
      Touches i [.reg, .chan, .jnl, .out] ∧
      WritesRegs i [.CNT_OVF, .CNT_VAL, .FRY_CH_CTR, .FRY_CH_ERR, .FRY_CH_NACKCNT, .FRY_CH_STATUS, .FRY_ERR]) ∧
    (∀ (ch : Fin 64), ∀ i ∈ [Instr.peerdeadExpiry ch, .chStop ch],
      Touches i [.reg] ∧
      WritesRegs i [.FRY_CH_STATUS]) ∧
    (∀ (ch : Fin 64), ∀ i ∈ [Instr.streamStart ch],
      Touches i [.reg, .mem, .mmeta, .err, .pilotSecs, .codec, .xlt, .chan, .fw, .fseq, .out] ∧
      WritesRegs i [
          .ARY_ERR, .ARY_TOKEN, .CNT_OVF, .CNT_VAL, .FRY_CH_ERR, .FRY_CH_STATUS, .FRY_ERR, .GLB_EVT, .MEM_CDC_ERR,
          .MEM_CDC_RAWCNT, .MEM_CDC_STALECNT, .MEM_CECNT, .MEM_ERR, .MEM_ERRADDR, .MEM_ERRINFO, .MEM_INJ, .MEM_UECNT,
          .XLT_ERR, .XLT_FLOG_HEAD, .XLT_FLOG_LOST, .XLT_STATUS, .XLT_WALKCNT]) ∧
    (∀ (x : Fin 2) (ok : Bool), ∀ i ∈ [Instr.gmacSelfTest x ok],
      Touches i [.reg, .draws] ∧
      WritesRegs i [.FRY_ERR, .FRY_PCFG, .FRY_PSTATUS, .JNL_BRINGUP, .SEC_GMAC_STATUS]) ∧
    (∀ (x : Fin 2), ∀ i ∈ [Instr.outerPortLinkDown x],
      Touches i [.reg] ∧
      WritesRegs i [.FRY_PERR, .FRY_PSTATUS]) ∧
    (∀ (x : Fin 2), ∀ i ∈ [Instr.outerPortTrained x],
      Touches i [.reg, .draws] ∧
      WritesRegs i [.FRY_PCFG, .FRY_PSTATUS, .JNL_BRINGUP])

/-- What the commands of the host interface, the security island, the journal, the power and the telemetry leave alone. A
posted write changes registers and the state it names; the writes of the horn and of the berths can count an error of
the memory they read. -/
def Obligations.FrameOfServices : Prop :=
    (∀ (s : Fin 2) (val : BitVec 64) (v : Fin 16) (m : Fin 4) (l : Fin 32768) (i' : Fin 512) (c : Fin 32), ∀ i ∈ [
        Instr.slvJqTail s val, .memInj v val, .flogRead val, .movTail m val, .fabRemap l val, .fabPdown i' val,
        .secCqTail val, .smpRead c val],
      Touches i [.reg]) ∧
    (∀ (e : Fin 40) (val : BitVec 64), ∀ i ∈ [Instr.dtstepLoad e val],
      Touches i [.reg, .codec]) ∧
    (∀ (x : Fin 35) (val : BitVec 64) (x' : Option (Fin 35)), ∀ i ∈ [
        Instr.xltInv x val, .xltInvall val, .invalidationDone x'],
      Touches i [.reg, .xlt, .invAll]) ∧
    (∀ (q : Fin 17) (val : BitVec 32) (val' : BitVec 64), ∀ i ∈ [
        Instr.sqDoorbell q val, .cqDoorbell q val, .qctrlWrite q val'],
      Touches i [.reg, .hq]) ∧
    (∀ (val : BitVec 64), ∀ i ∈ [Instr.jnlHlw val],
      Touches i [.reg, .boot]) ∧
    (∀ (val : BitVec 64), ∀ i ∈ [Instr.erase val, .program val, .arbCmd val],
      Touches i [.reg, .jnl]) ∧
    (∀ (val : BitVec 64), ∀ i ∈ [Instr.berthLoad val, .berthClear val, .jnlAppend val],
      Touches i [.reg, .err, .keys, .jnl]) ∧
    (∀ (ch : Fin 64) (val : BitVec 64), ∀ i ∈ [Instr.txtail ch val],
      Touches i [.reg, .chan]) ∧
    (∀ (ch : Fin 64) (val : BitVec 64), ∀ i ∈ [Instr.fryChKey ch val, .rxtail ch val],
      Touches i [.reg, .chan, .jnl, .out]) ∧
    (∀ (c : Fin 32) (val : BitVec 64) (hi : Bool), ∀ i ∈ [Instr.clkClfreq c val, .clkGate hi val],
      Touches i [.reg, .port, .tel, .draws, .out]) ∧
    (∀ (val : BitVec 64), ∀ i ∈ [Instr.hornRxread val],
      Touches i [.reg, .mem, .mmeta, .err, .pilotSecs, .hornWait, .out]) ∧
    (∀ (val : BitVec 64) (refill : Nat), ∀ i ∈ [Instr.fabHornTx val refill],
      Touches i [.reg, .mem, .mmeta, .err, .pilotSecs, .port, .fw, .draws, .out]) ∧
    (∀ (blk : PwBlock), ∀ i ∈ [Instr.postedWriteTakesEffect blk],
      Touches i [.reg, .tel]) ∧
    (∀ (t : SpdmTransport) (req : List (BitVec 8)), ∀ i ∈ [
        Instr.getVersion t req, .negotiateAlgorithms t req, .getDigests t req, .getCertificate t req],
      Touches i [.sec, .out] ∧
      WritesRegs i []) ∧
    (∀ (t : SpdmTransport) (req : List (BitVec 8)), ∀ i ∈ [
        Instr.getCapabilities t req, .challenge t req, .getMeasurements t req, .rngRead],
      Touches i [.sec, .draws, .out] ∧
      WritesRegs i []) ∧
    (∀ (sig : List (BitVec 8)), ∀ i ∈ [Instr.debugChallenge sig],
      Touches i [.reg, .keys, .jnl, .sec, .draws] ∧
      WritesRegs i [.FRY_ERR, .SEC_BERTH_META, .SEC_STATUS]) ∧
    (∀ i ∈ [Instr.gen, .verify],
      Touches i [.reg, .mem, .mmeta, .err, .pilotSecs] ∧
      WritesRegs i [
          .ARY_ERR, .ARY_TOKEN, .CNT_OVF, .CNT_VAL, .MEM_CECNT, .MEM_ERR, .MEM_ERRADDR, .MEM_ERRINFO, .MEM_INJ,
          .MEM_UECNT, .SEC_CQ_HEAD]) ∧
    (∀ i ∈ [Instr.rngHealthTestFailure],
      Touches i [.reg] ∧
      WritesRegs i [.SEC_ERR, .SEC_STATUS]) ∧
    (∀ (q : Fin 17) (entry : Option (List (BitVec 8))) (data : List (BitVec 8)) (poison : Bool), ∀ i ∈ [
        Instr.commandFetch q entry, .completionTimeout q, .deviceReadCompletion q data poison],
      Touches i [.reg, .mem, .mmeta, .err, .pilotSecs, .hq, .turns, .out] ∧
      WritesRegs i [
          .CNT_OVF, .CNT_VAL, .HCI_ERR, .HCI_QSTAT, .MEM_CECNT, .MEM_ERR, .MEM_ERRADDR, .MEM_ERRINFO, .MEM_INJ,
          .MEM_UECNT]) ∧
    (∀ (q : Fin 17) (answer : BitVec 48), ∀ i ∈ [Instr.hostNop q, .hostcopy q, .fwmsg q answer, .fwmsgTimeout q],
      Touches i [.reg, .mem, .mmeta, .err, .pilotSecs, .hq, .out] ∧
      WritesRegs i [
          .CNT_OVF, .CNT_VAL, .HCI_QSTAT, .MEM_CECNT, .MEM_ERR, .MEM_ERRADDR, .MEM_ERRINFO, .MEM_INJ, .MEM_UECNT]) ∧
    (∀ (q : Fin 17), ∀ i ∈ [Instr.hostApply q, .hostStop q],
      Touches i [.reg, .mem, .mmeta, .err, .pilotSecs, .bnd, .await, .hq, .out] ∧
      WritesRegs i [
          .CNT_OVF, .CNT_VAL, .HCI_QSTAT, .MEM_CECNT, .MEM_ERR, .MEM_ERRADDR, .MEM_ERRINFO, .MEM_INJ, .MEM_UECNT]) ∧
    (∀ (q : Fin 17), ∀ i ∈ [Instr.hostLoad q],
      Touches i [.reg, .mem, .mmeta, .err, .pilotSecs, .load, .hq, .draws, .out] ∧
      WritesRegs i [
          .BND_IMG_STATUS, .BND_STATE, .BND_STATUS, .CNT_OVF, .CNT_VAL, .GLB_EVT, .GLB_STATE, .HCI_QSTAT, .MEM_CECNT,
          .MEM_ERR, .MEM_ERRADDR, .MEM_ERRINFO, .MEM_INJ, .MEM_UECNT]) ∧
    (∀ i ∈ [Instr.perstN, .functionLevelReset],
      Touches i [.reg, .hq] ∧
      WritesRegs i [.HCI_CQ_BASE, .HCI_QCTRL, .HCI_QSTAT, .HCI_SQ_BASE, .HCI_STATUS]) ∧
    (∀ (q : Fin 17), ∀ i ∈ [Instr.rewindTimeout q],
      Touches i [.reg, .mem, .mmeta, .err, .pilotSecs, .hq, .out] ∧
      WritesRegs i [
          .BND_STATE, .CNT_OVF, .CNT_VAL, .GLB_EVT, .GLB_STATE, .HCI_QSTAT, .MEM_CECNT, .MEM_ERR, .MEM_ERRADDR,
          .MEM_ERRINFO, .MEM_INJ, .MEM_UECNT]) ∧
    (∀ i ∈ [Instr.pwrOkFall],
      Touches i [
          .reg, .pend, .mem, .mmeta, .err, .pilotSecs, .cl, .codec, .xlt, .invAll, .mov, .bnd, .lu, .su, .port, .vote,
          .ce, .store, .hornWait, .chan, .keys, .jnl, .flash, .await, .load, .rb, .saves, .hq, .turns, .boot, .pins,
          .sec, .tel, .fw, .digests, .fseq, .lseq, .unread, .draws]) ∧
    (∀ (acked : Bool) (half : Half) (outcome : Nat) (digest : BitVec 384), ∀ i ∈ [
        Instr.leaseRenewal acked, .leaseClaim half, .yield, .followerOutcome outcome digest, .thermtrip half],
      Touches i [.reg, .mem, .mmeta, .err, .pilotSecs, .hq, .boot, .pins, .out] ∧
      WritesRegs i [
          .CLK_CLSTAT, .CNT_OVF, .CNT_VAL, .GLB_EVT, .GLB_STATE, .HCI_QSTAT, .MEM_CECNT, .MEM_ERR, .MEM_ERRADDR,
          .MEM_ERRINFO, .MEM_INJ, .MEM_UECNT, .SEC_BOOT]) ∧
    (∀ (half : Half), ∀ i ∈ [Instr.bootVerify half],
      Touches i [.reg, .mem, .mmeta, .err, .pilotSecs, .hq, .boot, .pins, .fw, .draws, .out] ∧
      WritesRegs i [
          .CNT_OVF, .CNT_VAL, .FRY_ERR, .GLB_EVT, .GLB_FLEVEL, .GLB_STATE, .HCI_QSTAT, .JNL_BRINGUP, .JNL_STATUS,
          .MEM_CECNT, .MEM_ERR, .MEM_ERRADDR, .MEM_ERRINFO, .MEM_INJ, .MEM_UECNT, .SEC_BOOT, .SEC_STATUS]) ∧
    (∀ (cause : Nat) (straps : Straps), ∀ i ∈ [Instr.bringupLimit cause, .pilotDeclare, .pwrOkRise straps],
      Touches i [.reg, .mem, .mmeta, .err, .pilotSecs, .hq, .boot, .pins, .tel, .draws, .out] ∧
      WritesRegs i [
          .CLK_CLSTAT, .CLK_LOCK, .CLK_STATUS, .CLK_VF, .CNT_OVF, .CNT_VAL, .FAB_PSTATUS, .GLB_EVT, .GLB_SERIAL,
          .GLB_STATE, .HCI_QSTAT, .JNL_BRINGUP, .MEM_CECNT, .MEM_ERR, .MEM_ERRADDR, .MEM_ERRINFO, .MEM_INJ,
          .MEM_STATUS, .MEM_UECNT, .SEC_ARB, .SEC_STATUS, .TEL_STATUS]) ∧
    (∀ (r : RefClk), ∀ i ∈ [Instr.refclkLoss r],
      Touches i [.reg, .mem, .mmeta, .err, .pilotSecs, .port, .hq, .boot, .pins, .draws, .out] ∧
      WritesRegs i [
          .CLK_ERR, .CLK_LOCK, .CLK_REF, .CNT_OVF, .CNT_VAL, .FAB_DROPCNT, .FAB_HORNRES, .FAB_HORN_STATUS, .FAB_PERR,
          .FAB_PSTATUS, .FRY_PERR, .FRY_PSTATUS, .GLB_EVT, .GLB_STATE, .HCI_QSTAT, .MEM_CECNT, .MEM_ERR, .MEM_ERRADDR,
          .MEM_ERRINFO, .MEM_INJ, .MEM_UECNT]) ∧
    (∀ i ∈ [Instr.compact],
      Touches i [.reg, .mem, .mmeta, .err, .pilotSecs, .jnl, .hq, .fw, .out] ∧
      WritesRegs i [
          .CNT_OVF, .CNT_VAL, .FRY_ERR, .GLB_EVT, .GLB_STATE, .HCI_QSTAT, .JNL_STATUS, .MEM_CECNT, .MEM_ERR,
          .MEM_ERRADDR, .MEM_ERRINFO, .MEM_INJ, .MEM_UECNT]) ∧
    (∀ (ok : Bool), ∀ i ∈ [Instr.compactionDone ok],
      Touches i [.reg, .mem, .mmeta, .err, .pilotSecs, .jnl, .flash, .hq, .fw, .draws, .out] ∧
      WritesRegs i [
          .CNT_OVF, .CNT_VAL, .FRY_ERR, .GLB_EVT, .GLB_STATE, .HCI_QSTAT, .JNL_CGEN, .JNL_ERR, .JNL_SEQ, .JNL_STATUS,
          .MEM_CECNT, .MEM_ERR, .MEM_ERRADDR, .MEM_ERRINFO, .MEM_INJ, .MEM_UECNT]) ∧
    (∀ i ∈ [Instr.fwCmdDone],
      Touches i [.reg, .err, .jnl, .flash] ∧
      WritesRegs i [.CNT_OVF, .CNT_VAL, .JNL_ERR, .MEM_CECNT, .MEM_ERR, .MEM_ERRADDR, .MEM_ERRINFO, .MEM_UECNT]) ∧
    (∀ i ∈ [Instr.regionEraseDone],
      Touches i [.reg, .mem, .mmeta, .err, .pilotSecs, .jnl, .flash, .hq, .fw, .out] ∧
      WritesRegs i [
          .CNT_OVF, .CNT_VAL, .FRY_ERR, .GLB_EVT, .GLB_STATE, .HCI_QSTAT, .JNL_STATUS, .MEM_CECNT, .MEM_ERR,
          .MEM_ERRADDR, .MEM_ERRINFO, .MEM_INJ, .MEM_UECNT]) ∧
    (∀ (ok : Bool), ∀ i ∈ [Instr.recordAcknowledged ok, .journalReplay],
      Touches i [.reg, .mem, .mmeta, .err, .pilotSecs, .jnl, .flash, .hq, .boot, .sec, .fw, .draws, .out] ∧
      WritesRegs i [
          .CNT_OVF, .CNT_VAL, .FRY_ERR, .GLB_EVT, .GLB_STATE, .HCI_QSTAT, .JNL_ACKSEQ, .JNL_BRINGUP, .JNL_CGEN,
          .JNL_ERR, .JNL_SEQ, .JNL_STATUS, .MEM_CECNT, .MEM_ERR, .MEM_ERRADDR, .MEM_ERRINFO, .MEM_INJ, .MEM_STATUS,
          .MEM_UECNT, .SEC_ARB, .SEC_BERTH_META, .SEC_ERR, .SEC_STATUS]) ∧
    (∀ (r : Readings), ∀ i ∈ [Instr.telemetryLoop r],
      Touches i [.reg, .pins, .tel, .out] ∧
      WritesRegs i [
          .CLK_CLSTAT, .GLB_EVT, .MEM_ERR, .MEM_STATUS, .MEM_TEMP, .TEL_ALERT, .TEL_FCAP, .TEL_POWER, .TEL_RAIL,
          .TEL_TEMP, .TEL_THROTCNT]) ∧
    (∀ i ∈ [Instr.avsTimeout, .avsbusAcknowledge],
      Touches i [.reg, .pins, .tel, .out] ∧
      WritesRegs i [.CLK_CLSTAT, .GLB_EVT, .TEL_ALERT, .TEL_VCORE]) ∧
    (∀ (q : Fin 4) (i' : Fin 37), ∀ i ∈ [Instr.droop q, .droopStretchEnd q, .pllLossOfLock i'],
      Touches i [.reg] ∧
      WritesRegs i [.CLK_CLSTAT, .CLK_ERR, .CLK_LOCK, .TEL_DROOPCNT]) ∧
    (∀ (set : Fin 132), ∀ i ∈ [Instr.cntClear set, .counterWrap set],
      Touches i [.reg] ∧
      WritesRegs i [.CNT_OVF, .CNT_VAL]) ∧
    (∀ (t : SpdmTransport) (req : List (BitVec 8)) (sensor : Nat), ∀ i ∈ [
        Instr.lnqGetSlhcert t req, .readTemperature1, .readTemperature2, .readPin, .pmbusInvalidCommand,
        .pldmRequest sensor],
      Touches i [.out] ∧
      WritesRegs i []) ∧
    (∀ i ∈ [Instr.statusWord],
      Touches i [.draws, .out] ∧
      WritesRegs i [])

/-- What the commands that act on a whole binding or on the device leave alone: the generation and warden messages change
the firmware's part, a strobe, a turnaround, a rewind and the end of a binding the parts listed; none of them changes
the flash. -/
def Obligations.FrameOfBindings : Prop :=
    (∀ i ∈ [Instr.apply],
      Touches i [.await] ∧
      WritesRegs i []) ∧
    (∀ (b : Fin 8), ∀ i ∈ [Instr.checkpointStore b, .generationComplete b],
      Touches i [.bnd, .out] ∧
      WritesRegs i []) ∧
    (∀ (b : Fin 8) (cap : Capture), ∀ i ∈ [Instr.checkpointGeneration b cap],
      Touches i [.reg, .mem, .mmeta, .err, .pilotSecs, .codec, .xlt, .bnd, .port, .fw, .fseq, .draws, .out] ∧
      WritesRegs i [
          .CNT_OVF, .CNT_VAL, .FAB_DROPCNT, .FAB_HORNRES, .FAB_HORN_ERR, .FAB_HORN_STATUS, .FAB_PERR, .FAB_SRCDROPCNT,
          .GLB_EVT, .MEM_CDC_ERR, .MEM_CDC_RAWCNT, .MEM_CDC_STALECNT, .MEM_CECNT, .MEM_ERR, .MEM_ERRADDR,
          .MEM_ERRINFO, .MEM_INJ, .MEM_UECNT, .XLT_ERR, .XLT_FLOG_HEAD, .XLT_FLOG_LOST, .XLT_STATUS, .XLT_WALKCNT]) ∧
    (∀ (dir : Fin 6) (term : Nat) (log : BitVec 15) (relief : BitVec 15), ∀ i ∈ [
        Instr.heartbeatSend, .hbdeadExpiry dir, .leadRound, .wardenClaim, .fstopmaxExpiry, .prepare term log relief],
      Touches i [.fw, .out] ∧
      WritesRegs i []) ∧
    (∀ (term : Nat) (gen : Nat) (log : BitVec 15) (relief : BitVec 15) (dead : List (BitVec 16 × BitVec 16)), ∀ i ∈ [
        Instr.go term gen log relief dead],
      Touches i [.reg, .pend, .bnd, .fw, .out]) ∧
    (∀ (b : Fin 8), ∀ i ∈ [Instr.passPolicy b, .skipRunResponse b],
      Touches i [.reg, .pend, .err, .codec, .xlt, .bnd, .out]) ∧
    (∀ (b : Fin 8) (va : BitVec 48) (owner : BitVec 15) (again : Bool), ∀ i ∈ [Instr.replicaAudit b va owner again],
      Touches i [.reg, .mem, .mmeta, .err, .pilotSecs, .codec, .xlt, .bnd, .port, .fw, .fseq, .draws, .out] ∧
      WritesRegs i [
          .CNT_OVF, .CNT_VAL, .FAB_DROPCNT, .FAB_HORNRES, .FAB_HORN_ERR, .FAB_HORN_STATUS, .FAB_PERR, .FAB_SRCDROPCNT,
          .GLB_EVT, .MEM_CDC_ERR, .MEM_CDC_STALECNT, .MEM_CECNT, .MEM_ERR, .MEM_ERRADDR, .MEM_ERRINFO, .MEM_INJ,
          .MEM_UECNT, .XLT_ERR, .XLT_FLOG_HEAD, .XLT_FLOG_LOST, .XLT_STATUS, .XLT_WALKCNT]) ∧
    (∀ (b : Fin 8), ∀ i ∈ [Instr.strobeAcknowledged b],
      Touches i [
          .reg, .mem, .mmeta, .err, .pilotSecs, .cl, .codec, .xlt, .mov, .bnd, .lu, .su, .vote, .ce, .chan, .jnl, .rb,
          .hq, .fw, .fseq, .draws, .out] ∧
      WritesRegs i [
          .ARY_PC, .ARY_STATUS, .BND_ARMED, .BND_COMMIT, .BND_CROSS, .BND_IMG_STATUS, .BND_RB_STATUS, .BND_STATE,
          .BND_STATUS, .BND_STEP, .CNT_OVF, .CNT_VAL, .FAB_CE_ERR, .FAB_CE_ERRADDR, .FAB_CE_FLAGS, .FAB_CE_LATECNT,
          .FAB_CE_STATUS, .FAB_VOTESTAT, .FRY_CH_CTR, .FRY_CH_ERR, .FRY_CH_LATECNT, .FRY_CH_NACKCNT, .FRY_CH_STATUS,
          .FRY_ERR, .FRY_STATUS, .GLB_EVT, .GLB_STATE, .HCI_QSTAT, .LND_ERR, .LND_ERRENT, .LND_ERRIDX, .LND_LATECNT,
          .LND_SKIPCNT, .LND_STATUS, .LND_STEP, .MEM_CDC_ERR, .MEM_CDC_RAWCNT, .MEM_CDC_STALECNT, .MEM_CDC_STATUS,
          .MEM_CECNT, .MEM_ERR, .MEM_ERRADDR, .MEM_ERRINFO, .MEM_INJ, .MEM_UECNT, .MOV_ERR, .MOV_ERRDESC, .MOV_STATUS,
          .SEC_BERTH_META, .SLV_STATUS, .VEC_STATUS, .XLT_ERR, .XLT_FLOG_HEAD, .XLT_FLOG_LOST, .XLT_STATUS,
          .XLT_WALKCNT]) ∧
    (∀ (b : Fin 8) (q : Fin 17), ∀ i ∈ [Instr.turnaround b, .forceturn b, .hostForceturn q],
      Touches i [
          .reg, .pend, .mem, .mmeta, .err, .pilotSecs, .cl, .codec, .xlt, .invAll, .mov, .bnd, .lu, .su, .port, .vote,
          .ce, .hornWait, .chan, .keys, .jnl, .load, .rb, .hq, .boot, .pins, .sec, .tel, .fw, .fseq, .epochs, .draws,
          .out]) ∧
    (∀ (g : Group) (params : JobParams), ∀ i ∈ [Instr.strobeScan g, .imageCheckDone params],
      Touches i [
          .reg, .pend, .mem, .mmeta, .err, .pilotSecs, .cl, .codec, .xlt, .invAll, .mov, .bnd, .lu, .su, .port, .vote,
          .ce, .hornWait, .chan, .keys, .jnl, .await, .load, .rb, .hq, .boot, .pins, .sec, .tel, .fw, .fseq, .epochs,
          .draws, .out]) ∧
    (∀ (term : Nat), ∀ i ∈ [Instr.run term],
      Touches i [
          .reg, .mem, .mmeta, .err, .pilotSecs, .cl, .codec, .xlt, .mov, .bnd, .lu, .su, .port, .vote, .ce, .store,
          .chan, .jnl, .hq, .fw, .fseq, .draws, .out] ∧
      WritesRegs i [
          .ARY_ERR, .ARY_ERRADDR, .ARY_FLAGS, .ARY_PC, .ARY_STATUS, .ARY_TOKEN, .BND_STATE, .BND_STATUS, .CNT_OVF,
          .CNT_VAL, .FAB_CE_ERR, .FAB_CE_ERRADDR, .FAB_CE_FLAGS, .FAB_CE_LATECNT, .FAB_CE_STATUS, .FAB_DROPCNT,
          .FAB_HORNRES, .FAB_HORN_ERR, .FAB_HORN_STATUS, .FAB_PERR, .FAB_SRCDROPCNT, .FAB_VOTESTAT, .FRY_CH_CTR,
          .FRY_CH_ERR, .FRY_CH_NACKCNT, .FRY_CH_STALECNT, .FRY_CH_STATUS, .FRY_ERR, .FRY_STATUS, .GLB_EVT, .GLB_STATE,
          .HCI_QSTAT, .LND_ERR, .LND_ERRENT, .LND_ERRIDX, .LND_LATECNT, .LND_SKIPCNT, .LND_STATUS, .LND_STEP,
          .MEM_CDC_ERR, .MEM_CDC_RAWCNT, .MEM_CDC_STALECNT, .MEM_CECNT, .MEM_ERR, .MEM_ERRADDR, .MEM_ERRINFO,
          .MEM_INJ, .MEM_UECNT, .MOV_ERR, .MOV_ERRDESC, .MOV_STATUS, .SEC_BERTH_META, .SLV_ABANDONCNT, .SLV_ACCEPTCNT,
          .SLV_ERR, .SLV_EVT, .SLV_FAILCNT, .SLV_FLAGS, .SLV_STALECNT, .SLV_STATUS, .SMP_HEAD, .SMP_LOST, .VEC_ERR,
          .VEC_PC, .VEC_STATUS, .XLT_ERR, .XLT_FLOG_HEAD, .XLT_FLOG_LOST, .XLT_STATUS, .XLT_WALKCNT]) ∧
    (∀ (q : Fin 17) (join : Option (BitVec 32)), ∀ i ∈ [Instr.hostStart q join],
      Touches i [
          .reg, .mem, .mmeta, .err, .pilotSecs, .cl, .codec, .xlt, .mov, .bnd, .lu, .su, .port, .vote, .ce, .store,
          .chan, .jnl, .hq, .fw, .fseq, .draws, .out] ∧
      WritesRegs i [
          .ARY_ERR, .ARY_ERRADDR, .ARY_FLAGS, .ARY_PC, .ARY_STATUS, .ARY_TOKEN, .BND_COMMIT, .BND_CROSS, .BND_STATE,
          .BND_STATUS, .BND_STEP, .CNT_OVF, .CNT_VAL, .FAB_CE_ERR, .FAB_CE_ERRADDR, .FAB_CE_FLAGS, .FAB_CE_LATECNT,
          .FAB_CE_STATUS, .FAB_DROPCNT, .FAB_HORNRES, .FAB_HORN_ERR, .FAB_HORN_STATUS, .FAB_PERR, .FAB_SRCDROPCNT,
          .FAB_VOTESTAT, .FRY_CH_CTR, .FRY_CH_ERR, .FRY_CH_NACKCNT, .FRY_CH_STALECNT, .FRY_CH_STATUS, .FRY_ERR,
          .FRY_STATUS, .GLB_EVT, .GLB_STATE, .HCI_QSTAT, .LND_ERR, .LND_ERRENT, .LND_ERRIDX, .LND_FLAGS, .LND_LATECNT,
          .LND_SKIPCNT, .LND_STATUS, .LND_STEP, .MEM_CDC_ERR, .MEM_CDC_RAWCNT, .MEM_CDC_STALECNT, .MEM_CECNT,
          .MEM_ERR, .MEM_ERRADDR, .MEM_ERRINFO, .MEM_INJ, .MEM_UECNT, .MOV_ERR, .MOV_ERRDESC, .MOV_STATUS,
          .SEC_BERTH_META, .SLV_ABANDONCNT, .SLV_ACCEPTCNT, .SLV_ERR, .SLV_EVT, .SLV_FAILCNT, .SLV_FLAGS,
          .SLV_STALECNT, .SLV_STATUS, .SMP_HEAD, .SMP_LOST, .VEC_ERR, .VEC_PC, .VEC_STATUS, .XLT_ERR, .XLT_FLOG_HEAD,
          .XLT_FLOG_LOST, .XLT_STATUS, .XLT_WALKCNT]) ∧
    (∀ (q : Fin 17), ∀ i ∈ [Instr.rewind q],
      Touches i [
          .reg, .mem, .mmeta, .err, .pilotSecs, .cl, .codec, .xlt, .mov, .bnd, .lu, .su, .vote, .ce, .hq, .fw, .fseq,
          .draws, .out] ∧
      WritesRegs i [
          .ARY_PC, .ARY_STATUS, .ARY_TOKEN, .BND_ARMED, .BND_COMMIT, .BND_CROSS, .BND_STATE, .BND_STATUS, .BND_STEP,
          .CNT_OVF, .CNT_VAL, .FAB_CE_STATUS, .FAB_VOTESTAT, .FRY_CH_STATUS, .FRY_STATUS, .GLB_EVT, .GLB_STATE,
          .HCI_QSTAT, .LND_ERR, .LND_ERRENT, .LND_ERRIDX, .LND_SKIPCNT, .LND_STATUS, .MEM_CDC_ERR, .MEM_CDC_RAWCNT,
          .MEM_CDC_STALECNT, .MEM_CECNT, .MEM_ERR, .MEM_ERRADDR, .MEM_ERRINFO, .MEM_INJ, .MEM_UECNT, .MOV_ERR,
          .MOV_ERRDESC, .MOV_STATUS, .SLV_ABANDONCNT, .SLV_ACCEPTCNT, .SLV_ERR, .SLV_EVT, .SLV_FAILCNT, .SLV_STALECNT,
          .SLV_STATUS, .VEC_PC, .VEC_STATUS, .XLT_ERR, .XLT_FLOG_HEAD, .XLT_FLOG_LOST, .XLT_STATUS, .XLT_WALKCNT]) ∧
    (∀ (b : Fin 8) (q : Fin 17), ∀ i ∈ [Instr.bndEnd b, .hostEnd q, .drain q],
      Touches i [
          .reg, .pend, .mem, .mmeta, .err, .pilotSecs, .cl, .codec, .xlt, .mov, .bnd, .lu, .su, .vote, .ce, .chan,
          .jnl, .rb, .hq, .fw, .fseq, .epochs, .draws, .out]) ∧
    (∀ (val : BitVec 64), ∀ i ∈ [Instr.imageLoad val],
      Touches i [.reg, .mem, .mmeta, .err, .pilotSecs, .load, .hq, .draws, .out]) ∧
    (∀ (val : BitVec 64) (q : Fin 17), ∀ i ∈ [Instr.rebindRequest val, .hostRebind q],
      Touches i [
          .reg, .mem, .mmeta, .err, .pilotSecs, .cl, .codec, .xlt, .mov, .lu, .ce, .rb, .hq, .fw, .fseq, .draws, .out]) ∧
    (∀ (final : Bool), ∀ i ∈ [Instr.rebindDrainDone, .rebindTimeout final],
      Touches i [
          .reg, .mem, .mmeta, .err, .pilotSecs, .cl, .codec, .xlt, .su, .load, .rb, .saves, .hq, .fw, .fseq, .draws,
          .out]) ∧
    (∀ (phys : BitVec 15) (pkt : Packet), ∀ i ∈ [Instr.confirmExpiry phys, .flag pkt, .faildecl pkt],
      Touches i [
          .reg, .pend, .mem, .mmeta, .err, .pilotSecs, .cl, .codec, .xlt, .mov, .bnd, .lu, .su, .port, .vote, .ce,
          .hornWait, .chan, .jnl, .rb, .hq, .boot, .pins, .fw, .fseq, .epochs, .draws, .out]) ∧
    (∀ (val : BitVec 64), ∀ i ∈ [Instr.claim val, .setkek val, .release val],
      Touches i [
          .reg, .pend, .mem, .mmeta, .err, .pilotSecs, .cl, .codec, .xlt, .mov, .bnd, .lu, .su, .vote, .ce, .chan,
          .keys, .jnl, .rb, .hq, .sec, .fw, .fseq, .epochs, .draws, .out]) ∧
    (∀ i ∈ [Instr.fullServiceDeclare],
      Touches i [
          .reg, .pend, .mem, .mmeta, .err, .pilotSecs, .cl, .codec, .xlt, .mov, .bnd, .lu, .su, .vote, .ce, .chan,
          .jnl, .rb, .hq, .pins, .tel, .fw, .fseq, .epochs, .draws, .out]) ∧
    (∀ (req : Requester) (addr : BitVec 26) (size : Nat) (val : BitVec 64), ∀ i ∈ [
        Instr.registerWrite req addr size val],
      Touches i [
          .reg, .pend, .mem, .mmeta, .err, .pilotSecs, .cl, .codec, .xlt, .invAll, .mov, .bnd, .lu, .su, .port, .vote,
          .ce, .store, .hornWait, .chan, .keys, .jnl, .await, .load, .rb, .hq, .boot, .pins, .sec, .tel, .fw, .fseq,
          .lseq, .unread, .epochs, .draws, .out]) ∧
    (∀ (req : Requester) (addr : BitVec 26) (size : Nat) (slot : Fin 16), ∀ i ∈ [
        Instr.rcRead req addr size, .blogRead req slot],
      Touches i [.reg, .pins, .sec, .lseq, .unread, .draws, .out]) ∧
    (∀ (m : Fin 4) (idx : Nat) (n : Nat) (pkt : Packet), ∀ i ∈ [
        Instr.copy m idx n, .fill m idx n, .getdata m pkt, .fetchdata m pkt],
      Touches i [
          .reg, .pend, .mem, .mmeta, .err, .pilotSecs, .cl, .codec, .xlt, .invAll, .mov, .bnd, .lu, .su, .port, .vote,
          .ce, .store, .hornWait, .chan, .keys, .jnl, .await, .load, .rb, .hq, .boot, .pins, .sec, .tel, .fw,
          .digests, .fseq, .lseq, .unread, .epochs, .draws, .out])
end

