-- ==== Sys2Proof/Laws/Prog.lean ====
section
/-!
SUPPORT. Sys2Proof/Laws/Prog.lean: running programs, and what holds of every effect of a program (`Prog.All`): the
one induction from which the frames and invariants of every meaning follow.
-/

namespace Sys2Proof.Machine

namespace Prog

variable {α β ε : Type}

/-! ### Running -/

@[simp] theorem run_ret (a : α) (s : State) : (ret a : Prog α).run s = (a, s) := rfl
@[simp] theorem run_eff (e : Eff) (k : Prog α) (s : State) : (eff e k).run s = k.run (e.apply s) := rfl
@[simp] theorem run_get (k : State → Prog α) (s : State) : (get k).run s = (k s).run s := rfl
@[simp] theorem run_skip (s : State) : skip.run s = ((), s) := rfl
@[simp] theorem run_one (e : Eff) (s : State) : (one e).run s = ((), e.apply s) := rfl
@[simp] theorem run_ask (f : State → α) (s : State) : (ask f).run s = (f s, s) := rfl

@[simp] theorem run_bind (p : Prog α) (f : α → Prog β) (s : State) :
    (p.bind f).run s = (f (p.run s).1).run (p.run s).2 := by
  induction p generalizing s with
  | ret a => rfl
  | eff e k ih => exact ih (e.apply s)
  | get k ih => exact ih s s

@[simp] theorem run_seq (p : Prog Unit) (q : Prog β) (s : State) : (p.seq q).run s = q.run (p.run s).2 :=
  run_bind p _ s

@[simp] theorem run_all_nil (s : State) : (all []).run s = ((), s) := rfl
@[simp] theorem run_all_cons (p : Prog Unit) (r : List (Prog Unit)) (s : State) :
    (all (p :: r)).run s = (all r).run (p.run s).2 := run_seq p _ s

@[simp] theorem run_each_nil (f : α → Prog Unit) (s : State) : (each [] f).run s = ((), s) := rfl
@[simp] theorem run_each_cons (a : α) (r : List α) (f : α → Prog Unit) (s : State) :
    (each (a :: r) f).run s = (each r f).run ((f a).run s).2 := run_seq (f a) _ s

@[simp] theorem run_when (c : Bool) (p : Prog Unit) (s : State) :
    (Prog.when c p).run s = if c then p.run s else ((), s) := by
  unfold Prog.when; split <;> rfl

@[simp] theorem run_bindE (p : Prog (Except ε α)) (f : α → Prog (Except ε β)) (s : State) :
    (p.bindE f).run s =
      match (p.run s).1 with
      | .error e => (.error e, (p.run s).2)
      | .ok a => (f a).run (p.run s).2 := by
  unfold bindE; rw [run_bind]; split <;> simp_all

/-- A meaning's answer is always the next state. -/
theorem next_eq (p : Prog Unit) (s : State) : p.next s = .next (p.run s).2 := rfl

@[simp] theorem next_inj (p : Prog Unit) (s t : State) : p.next s = .next t ↔ t = (p.run s).2 := by
  unfold Prog.next; constructor
  · intro h; cases h; rfl
  · intro h; rw [h]

/-! ### What holds of every effect -/

variable {P Q : Eff → Prop}

/-- What holds of every effect whatever holds of every program's effects. -/
theorem All.of_forall (h : ∀ e, P e) (p : Prog α) : p.All P := by
  induction p with
  | ret a => trivial
  | eff e k ih => exact ⟨h e, ih⟩
  | get k ih => exact fun s => ih s

theorem All.imp (h : ∀ e, P e → Q e) {p : Prog α} (hp : p.All P) : p.All Q := by
  induction p with
  | ret a => trivial
  | eff e k ih => exact ⟨h e hp.1, ih hp.2⟩
  | get k ih => exact fun s => ih s (hp s)

@[simp] theorem All_ret (a : α) : (ret a : Prog α).All P ↔ True := Iff.rfl
@[simp] theorem All_eff (e : Eff) (k : Prog α) : (eff e k).All P ↔ P e ∧ k.All P := Iff.rfl
@[simp] theorem All_get (k : State → Prog α) : (get k).All P ↔ ∀ s, (k s).All P := Iff.rfl
@[simp] theorem All_skip : skip.All P ↔ True := Iff.rfl
@[simp] theorem All_one (e : Eff) : (one e).All P ↔ P e := by simp [one]

theorem All.bind {p : Prog α} {f : α → Prog β} (hp : p.All P) (hf : ∀ a, (f a).All P) : (p.bind f).All P := by
  induction p with
  | ret a => exact hf a
  | eff e k ih => exact ⟨hp.1, ih hp.2⟩
  | get k ih => exact fun s => ih s (hp s)

theorem All.seq {p : Prog Unit} {q : Prog β} (hp : p.All P) (hq : q.All P) : (p.seq q).All P := hp.bind fun _ => hq

theorem All.all {l : List (Prog Unit)} (h : ∀ p ∈ l, p.All P) : (Prog.all l).All P := by
  induction l with
  | nil => trivial
  | cons p r ih => exact (h p (by simp)).seq (ih fun q hq => h q (by simp [hq]))

theorem All.each {l : List α} {f : α → Prog Unit} (h : ∀ a ∈ l, (f a).All P) : (Prog.each l f).All P := by
  induction l with
  | nil => trivial
  | cons a r ih => exact (h a (by simp)).seq (ih fun b hb => h b (by simp [hb]))

theorem All.mapM {l : List α} {f : α → Prog β} (h : ∀ a ∈ l, (f a).All P) : (Prog.mapM l f).All P := by
  induction l with
  | nil => trivial
  | cons a r ih => exact (h a (by simp)).bind fun _ => (ih fun b hb => h b (by simp [hb])).bind fun _ => trivial

theorem All.when {c : Bool} {p : Prog Unit} (h : c = true → p.All P) : (Prog.when c p).All P := by
  unfold Prog.when; split
  · next hc => exact h hc
  · trivial

theorem All.bindE {p : Prog (Except ε α)} {f : α → Prog (Except ε β)} (hp : p.All P) (hf : ∀ a, (f a).All P) :
    (p.bindE f).All P := by
  refine hp.bind fun x => ?_
  cases x with
  | error e => trivial
  | ok a => exact hf a

theorem All.mapE {l : List α} {f : α → Prog (Except ε β)} (h : ∀ a ∈ l, (f a).All P) : (Prog.mapE l f).All P := by
  induction l with
  | nil => trivial
  | cons a r ih =>
    refine (h a (by simp)).bind fun x => ?_
    cases x with
    | error e => trivial
    | ok b =>
      refine (ih fun c hc => h c (by simp [hc])).bind fun y => ?_
      cases y <;> trivial

/-- A predicate that every effect keeps holds after the program. -/
theorem All.keeps {I : State → Prop} {p : Prog α} (hp : p.All fun e => ∀ s, I s → I (e.apply s)) {s : State}
    (hs : I s) : I (p.run s).2 := by
  induction p generalizing s with
  | ret a => exact hs
  | eff e k ih => exact ih hp.2 (hp.1 s hs)
  | get k ih => exact ih s (hp s) hs

/-- What no effect of a program changes, the program leaves alone. -/
theorem All.frame {γ : Type} {g : State → γ} {p : Prog α} (hp : p.All fun e => ∀ s, g (e.apply s) = g s)
    (s : State) : g (p.run s).2 = g s :=
  All.keeps (I := fun t => g t = g s) (All.imp (fun _ he t ht => (he t).trans ht) hp) rfl

end Prog

end Sys2Proof.Machine
end

