-- ==== Sys2Proof/Laws/SMap.lean ====
section
/-!
SUPPORT. Sys2Proof/Laws/SMap.lean: reading a table after writing it, and the canonical form that writing keeps.
-/

namespace Sys2Proof

namespace SMap

variable {κ α : Type} [DecidableEq κ] {d : κ → α} {rank : κ → Nat}

theorem get_del_same (d : κ → α) (m : SMap κ α) (k : κ) : get d (m.del k) k = d k := by
  induction m with
  | nil => rfl
  | cons e r ih =>
    obtain ⟨k', x⟩ := e
    by_cases h : k = k'
    · subst h; simpa [del] using ih
    · simpa [del, get, h] using ih

theorem get_del_ne (d : κ → α) (m : SMap κ α) {k k' : κ} (h : k' ≠ k) : get d (m.del k) k' = get d m k' := by
  induction m with
  | nil => rfl
  | cons e r ih =>
    obtain ⟨k₁, x⟩ := e
    by_cases h₁ : k = k₁
    · subst h₁; simp [del, get, h, ih]
    · by_cases h₂ : k' = k₁ <;> simp [del, get, h₁, h₂, ih]

theorem get_ins_same (d : κ → α) (m : SMap κ α) (k : κ) (x : α) (hm : ∀ e ∈ m, e.1 ≠ k) : get d (ins rank k x m) k = x := by
  induction m with
  | nil => simp [ins, get]
  | cons e r ih =>
    obtain ⟨k', y⟩ := e
    have hk : k' ≠ k := hm (k', y) (by simp)
    have hr : ∀ e ∈ r, e.1 ≠ k := fun e he => hm e (by simp [he])
    by_cases h : rank k < rank k'
    · simp [ins, get, h]
    · simp [ins, get, h, ih hr, hk.symm]

theorem get_ins_ne (d : κ → α) (m : SMap κ α) {k k' : κ} (x : α) (h : k' ≠ k) :
    get d (ins rank k x m) k' = get d m k' := by
  induction m with
  | nil => simp [ins, get, h]
  | cons e r ih =>
    obtain ⟨k₁, y⟩ := e
    by_cases h₁ : rank k < rank k₁
    · simp [ins, get, h, h₁]
    · by_cases h₂ : k' = k₁ <;> simp [ins, get, h₁, h₂, ih]

theorem mem_del {m : SMap κ α} {k : κ} {e : κ × α} (h : e ∈ m.del k) : e ∈ m ∧ e.1 ≠ k := by
  induction m with
  | nil => simp [del] at h
  | cons a r ih =>
    obtain ⟨k₁, x⟩ := a
    by_cases h₁ : k = k₁
    · simp only [del, h₁, if_true] at h
      subst h₁
      exact ⟨List.mem_cons_of_mem _ (ih h).1, (ih h).2⟩
    · simp only [del, h₁, if_false, List.mem_cons] at h
      rcases h with h | h
      · subst h; exact ⟨by simp, fun c => h₁ c.symm⟩
      · exact ⟨List.mem_cons_of_mem _ (ih h).1, (ih h).2⟩

omit [DecidableEq κ] in
theorem mem_ins {m : SMap κ α} {k : κ} {x : α} {e : κ × α} (h : e ∈ ins rank k x m) : e = (k, x) ∨ e ∈ m := by
  induction m with
  | nil => simpa [ins] using h
  | cons a r ih =>
    obtain ⟨k₁, y⟩ := a
    by_cases h₁ : rank k < rank k₁
    · simpa [ins, h₁] using h
    · simp only [ins, h₁, if_false, List.mem_cons] at h
      rcases h with h | h
      · exact .inr (by simp [h])
      · rcases ih h with h | h
        · exact .inl h
        · exact .inr (by simp [h])

/-- Reading the key just written gives the value written. -/
@[simp] theorem get_put_same [DecidableEq α] (m : SMap κ α) (k : κ) (x : α) : get d (put rank d m k x) k = x := by
  unfold put
  split
  · next h => rw [h]; exact get_del_same d m k
  · exact get_ins_same d _ k x fun e he => (mem_del he).2

/-- Writing a key leaves every other key alone. -/
theorem get_put_ne [DecidableEq α] (m : SMap κ α) {k k' : κ} (x : α) (h : k' ≠ k) :
    get d (put rank d m k x) k' = get d m k' := by
  unfold put
  split
  · exact get_del_ne d m h
  · rw [get_ins_ne d _ x h, get_del_ne d m h]

theorem del_sublist (m : SMap κ α) (k : κ) : (m.del k).Sublist m := by
  induction m with
  | nil => exact List.Sublist.slnil
  | cons e r ih =>
    obtain ⟨k', x⟩ := e
    by_cases h : k = k'
    · simpa [del, h] using ih.cons (k', x)
    · simpa [del, h] using ih.cons_cons (k', x)

theorem wf_del {m : SMap κ α} (k : κ) (h : wf rank d m) : wf rank d (m.del k) :=
  ⟨h.1.sublist (del_sublist m k), fun e he => h.2 e (mem_del he).1⟩

omit [DecidableEq κ] in
theorem pairwise_ins {m : SMap κ α} {k : κ} {x : α} (hr : ∀ e ∈ m, rank e.1 ≠ rank k)
    (h : m.Pairwise fun a b => rank a.1 < rank b.1) : (ins rank k x m).Pairwise fun a b => rank a.1 < rank b.1 := by
  induction m with
  | nil => simp [ins]
  | cons e r ih =>
    obtain ⟨k', y⟩ := e
    rw [List.pairwise_cons] at h
    by_cases h₁ : rank k < rank k'
    · simp only [ins, h₁, if_true, List.pairwise_cons]
      refine ⟨fun a ha => ?_, h⟩
      rcases List.mem_cons.1 ha with rfl | ha
      · exact h₁
      · exact h₁.trans (h.1 a ha)
    · simp only [ins, h₁, if_false, List.pairwise_cons]
      refine ⟨fun a ha => ?_, ih (fun e he => hr e (by simp [he])) h.2⟩
      rcases mem_ins ha with rfl | ha
      · exact lt_of_le_of_ne (not_lt.1 h₁) (hr (k', y) (by simp))
      · exact h.1 a ha

/-- Writing keeps the canonical form, where no two keys share a rank. -/
theorem wf_put [DecidableEq α] {m : SMap κ α} (k : κ) (x : α) (hinj : ∀ a b, rank a = rank b → a = b)
    (h : wf rank d m) : wf rank d (put rank d m k x) := by
  unfold put
  split
  · exact wf_del k h
  · next hx =>
    have hd := wf_del (d := d) k h
    refine ⟨pairwise_ins (fun e he hc => (mem_del he).2 (hinj _ _ hc)) hd.1, fun e he => ?_⟩
    rcases mem_ins he with rfl | he
    · exact hx
    · exact hd.2 e he

omit [DecidableEq κ] in
theorem wf_nil : wf rank d ([] : SMap κ α) := ⟨List.Pairwise.nil, by simp⟩

end SMap

namespace Tab

variable {α : Type} {d : α}

/-- Reading the index just written gives the value written. -/
@[simp] theorem at_upd_same [DecidableEq α] (m : Tab α) (k : Nat) (x : α) : Tab.at d (Tab.upd d m k x) k = x :=
  SMap.get_put_same m k x

/-- Writing an index leaves every other index alone. -/
theorem at_upd_ne [DecidableEq α] (m : Tab α) {k k' : Nat} (x : α) (h : k' ≠ k) :
    Tab.at d (Tab.upd d m k x) k' = Tab.at d m k' := SMap.get_put_ne m x h

/-- Both at once. -/
theorem at_upd [DecidableEq α] (m : Tab α) (k k' : Nat) (x : α) :
    Tab.at d (Tab.upd d m k x) k' = if k' = k then x else Tab.at d m k' := by
  split
  · next h => subst h; exact at_upd_same m k' x
  · next h => exact at_upd_ne m x h

@[simp] theorem at_nil (k : Nat) : Tab.at d [] k = d := rfl

/-- Writing keeps the canonical form. -/
theorem wf_upd [DecidableEq α] {m : Tab α} (k : Nat) (x : α) (h : Tab.wf d m) : Tab.wf d (Tab.upd d m k x) :=
  SMap.wf_put k x (fun _ _ h => h) h

theorem wf_nil : Tab.wf d ([] : Tab α) := SMap.wf_nil

end Tab

end Sys2Proof
end

