-- ==== Sys2Proof/Laws/State.lean ====
section
/-!
SUPPORT. Sys2Proof/Laws/State.lean: what each effect leaves in each field of the state. Generated field by field from
the definition of `Eff.apply`: the field an effect writes holds what it writes, and every other field stays.
-/

namespace Sys2Proof.Machine

variable (s : State)

/-! ### setReg -/

@[simp] theorem Eff.setReg_reg (k : RegKey) (v : Word) : ((Eff.setReg k v).apply s).reg =
    if k.name = .GLB_ID then s.reg else SMap.put RegKey.rank regDefault s.reg k (v &&& regMask k.name) := by
  dsimp only [Eff.apply]; split <;> rfl
@[simp] theorem Eff.setReg_pend (k : RegKey) (v : Word) : ((Eff.setReg k v).apply s).pend = s.pend := by dsimp only [Eff.apply]; split <;> rfl
@[simp] theorem Eff.setReg_mem (k : RegKey) (v : Word) : ((Eff.setReg k v).apply s).mem = s.mem := by dsimp only [Eff.apply]; split <;> rfl
@[simp] theorem Eff.setReg_mmeta (k : RegKey) (v : Word) : ((Eff.setReg k v).apply s).mmeta = s.mmeta := by dsimp only [Eff.apply]; split <;> rfl
@[simp] theorem Eff.setReg_err (k : RegKey) (v : Word) : ((Eff.setReg k v).apply s).err = s.err := by dsimp only [Eff.apply]; split <;> rfl
@[simp] theorem Eff.setReg_pilotSecs (k : RegKey) (v : Word) : ((Eff.setReg k v).apply s).pilotSecs = s.pilotSecs := by dsimp only [Eff.apply]; split <;> rfl
@[simp] theorem Eff.setReg_cl (k : RegKey) (v : Word) : ((Eff.setReg k v).apply s).cl = s.cl := by dsimp only [Eff.apply]; split <;> rfl
@[simp] theorem Eff.setReg_codec (k : RegKey) (v : Word) : ((Eff.setReg k v).apply s).codec = s.codec := by dsimp only [Eff.apply]; split <;> rfl
@[simp] theorem Eff.setReg_xlt (k : RegKey) (v : Word) : ((Eff.setReg k v).apply s).xlt = s.xlt := by dsimp only [Eff.apply]; split <;> rfl
@[simp] theorem Eff.setReg_invAll (k : RegKey) (v : Word) : ((Eff.setReg k v).apply s).invAll = s.invAll := by dsimp only [Eff.apply]; split <;> rfl
@[simp] theorem Eff.setReg_mov (k : RegKey) (v : Word) : ((Eff.setReg k v).apply s).mov = s.mov := by dsimp only [Eff.apply]; split <;> rfl
@[simp] theorem Eff.setReg_bnd (k : RegKey) (v : Word) : ((Eff.setReg k v).apply s).bnd = s.bnd := by dsimp only [Eff.apply]; split <;> rfl
@[simp] theorem Eff.setReg_lu (k : RegKey) (v : Word) : ((Eff.setReg k v).apply s).lu = s.lu := by dsimp only [Eff.apply]; split <;> rfl
@[simp] theorem Eff.setReg_su (k : RegKey) (v : Word) : ((Eff.setReg k v).apply s).su = s.su := by dsimp only [Eff.apply]; split <;> rfl
@[simp] theorem Eff.setReg_port (k : RegKey) (v : Word) : ((Eff.setReg k v).apply s).port = s.port := by dsimp only [Eff.apply]; split <;> rfl
@[simp] theorem Eff.setReg_vote (k : RegKey) (v : Word) : ((Eff.setReg k v).apply s).vote = s.vote := by dsimp only [Eff.apply]; split <;> rfl
@[simp] theorem Eff.setReg_ce (k : RegKey) (v : Word) : ((Eff.setReg k v).apply s).ce = s.ce := by dsimp only [Eff.apply]; split <;> rfl
@[simp] theorem Eff.setReg_store (k : RegKey) (v : Word) : ((Eff.setReg k v).apply s).store = s.store := by dsimp only [Eff.apply]; split <;> rfl
@[simp] theorem Eff.setReg_hornWait (k : RegKey) (v : Word) : ((Eff.setReg k v).apply s).hornWait = s.hornWait := by dsimp only [Eff.apply]; split <;> rfl
@[simp] theorem Eff.setReg_chan (k : RegKey) (v : Word) : ((Eff.setReg k v).apply s).chan = s.chan := by dsimp only [Eff.apply]; split <;> rfl
@[simp] theorem Eff.setReg_keys (k : RegKey) (v : Word) : ((Eff.setReg k v).apply s).keys = s.keys := by dsimp only [Eff.apply]; split <;> rfl
@[simp] theorem Eff.setReg_jnl (k : RegKey) (v : Word) : ((Eff.setReg k v).apply s).jnl = s.jnl := by dsimp only [Eff.apply]; split <;> rfl
@[simp] theorem Eff.setReg_flash (k : RegKey) (v : Word) : ((Eff.setReg k v).apply s).flash = s.flash := by dsimp only [Eff.apply]; split <;> rfl
@[simp] theorem Eff.setReg_await (k : RegKey) (v : Word) : ((Eff.setReg k v).apply s).await = s.await := by dsimp only [Eff.apply]; split <;> rfl
@[simp] theorem Eff.setReg_load (k : RegKey) (v : Word) : ((Eff.setReg k v).apply s).load = s.load := by dsimp only [Eff.apply]; split <;> rfl
@[simp] theorem Eff.setReg_rb (k : RegKey) (v : Word) : ((Eff.setReg k v).apply s).rb = s.rb := by dsimp only [Eff.apply]; split <;> rfl
@[simp] theorem Eff.setReg_saves (k : RegKey) (v : Word) : ((Eff.setReg k v).apply s).saves = s.saves := by dsimp only [Eff.apply]; split <;> rfl
@[simp] theorem Eff.setReg_hq (k : RegKey) (v : Word) : ((Eff.setReg k v).apply s).hq = s.hq := by dsimp only [Eff.apply]; split <;> rfl
@[simp] theorem Eff.setReg_turns (k : RegKey) (v : Word) : ((Eff.setReg k v).apply s).turns = s.turns := by dsimp only [Eff.apply]; split <;> rfl
@[simp] theorem Eff.setReg_boot (k : RegKey) (v : Word) : ((Eff.setReg k v).apply s).boot = s.boot := by dsimp only [Eff.apply]; split <;> rfl
@[simp] theorem Eff.setReg_pins (k : RegKey) (v : Word) : ((Eff.setReg k v).apply s).pins = s.pins := by dsimp only [Eff.apply]; split <;> rfl
@[simp] theorem Eff.setReg_sec (k : RegKey) (v : Word) : ((Eff.setReg k v).apply s).sec = s.sec := by dsimp only [Eff.apply]; split <;> rfl
@[simp] theorem Eff.setReg_tel (k : RegKey) (v : Word) : ((Eff.setReg k v).apply s).tel = s.tel := by dsimp only [Eff.apply]; split <;> rfl
@[simp] theorem Eff.setReg_fw (k : RegKey) (v : Word) : ((Eff.setReg k v).apply s).fw = s.fw := by dsimp only [Eff.apply]; split <;> rfl
@[simp] theorem Eff.setReg_digests (k : RegKey) (v : Word) : ((Eff.setReg k v).apply s).digests = s.digests := by dsimp only [Eff.apply]; split <;> rfl
@[simp] theorem Eff.setReg_fseq (k : RegKey) (v : Word) : ((Eff.setReg k v).apply s).fseq = s.fseq := by dsimp only [Eff.apply]; split <;> rfl
@[simp] theorem Eff.setReg_lseq (k : RegKey) (v : Word) : ((Eff.setReg k v).apply s).lseq = s.lseq := by dsimp only [Eff.apply]; split <;> rfl
@[simp] theorem Eff.setReg_unread (k : RegKey) (v : Word) : ((Eff.setReg k v).apply s).unread = s.unread := by dsimp only [Eff.apply]; split <;> rfl
@[simp] theorem Eff.setReg_epochs (k : RegKey) (v : Word) : ((Eff.setReg k v).apply s).epochs = s.epochs := by dsimp only [Eff.apply]; split <;> rfl
@[simp] theorem Eff.setReg_draws (k : RegKey) (v : Word) : ((Eff.setReg k v).apply s).draws = s.draws := by dsimp only [Eff.apply]; split <;> rfl
@[simp] theorem Eff.setReg_out (k : RegKey) (v : Word) : ((Eff.setReg k v).apply s).out = s.out := by dsimp only [Eff.apply]; split <;> rfl
@[simp] theorem Eff.setReg_pending (k : RegKey) (v : Word) : ((Eff.setReg k v).apply s).pending = s.pending := by dsimp only [Eff.apply]; split <;> rfl

/-! ### setPend -/

@[simp] theorem Eff.setPend_reg (k : RegKey) (v : Option Word) : ((Eff.setPend k v).apply s).reg = s.reg := rfl
@[simp] theorem Eff.setPend_pend (k : RegKey) (v : Option Word) :
    ((Eff.setPend k v).apply s).pend = SMap.put RegKey.rank (fun _ => none) s.pend k v := rfl
@[simp] theorem Eff.setPend_mem (k : RegKey) (v : Option Word) : ((Eff.setPend k v).apply s).mem = s.mem := rfl
@[simp] theorem Eff.setPend_mmeta (k : RegKey) (v : Option Word) : ((Eff.setPend k v).apply s).mmeta = s.mmeta := rfl
@[simp] theorem Eff.setPend_err (k : RegKey) (v : Option Word) : ((Eff.setPend k v).apply s).err = s.err := rfl
@[simp] theorem Eff.setPend_pilotSecs (k : RegKey) (v : Option Word) : ((Eff.setPend k v).apply s).pilotSecs = s.pilotSecs := rfl
@[simp] theorem Eff.setPend_cl (k : RegKey) (v : Option Word) : ((Eff.setPend k v).apply s).cl = s.cl := rfl
@[simp] theorem Eff.setPend_codec (k : RegKey) (v : Option Word) : ((Eff.setPend k v).apply s).codec = s.codec := rfl
@[simp] theorem Eff.setPend_xlt (k : RegKey) (v : Option Word) : ((Eff.setPend k v).apply s).xlt = s.xlt := rfl
@[simp] theorem Eff.setPend_invAll (k : RegKey) (v : Option Word) : ((Eff.setPend k v).apply s).invAll = s.invAll := rfl
@[simp] theorem Eff.setPend_mov (k : RegKey) (v : Option Word) : ((Eff.setPend k v).apply s).mov = s.mov := rfl
@[simp] theorem Eff.setPend_bnd (k : RegKey) (v : Option Word) : ((Eff.setPend k v).apply s).bnd = s.bnd := rfl
@[simp] theorem Eff.setPend_lu (k : RegKey) (v : Option Word) : ((Eff.setPend k v).apply s).lu = s.lu := rfl
@[simp] theorem Eff.setPend_su (k : RegKey) (v : Option Word) : ((Eff.setPend k v).apply s).su = s.su := rfl
@[simp] theorem Eff.setPend_port (k : RegKey) (v : Option Word) : ((Eff.setPend k v).apply s).port = s.port := rfl
@[simp] theorem Eff.setPend_vote (k : RegKey) (v : Option Word) : ((Eff.setPend k v).apply s).vote = s.vote := rfl
@[simp] theorem Eff.setPend_ce (k : RegKey) (v : Option Word) : ((Eff.setPend k v).apply s).ce = s.ce := rfl
@[simp] theorem Eff.setPend_store (k : RegKey) (v : Option Word) : ((Eff.setPend k v).apply s).store = s.store := rfl
@[simp] theorem Eff.setPend_hornWait (k : RegKey) (v : Option Word) : ((Eff.setPend k v).apply s).hornWait = s.hornWait := rfl
@[simp] theorem Eff.setPend_chan (k : RegKey) (v : Option Word) : ((Eff.setPend k v).apply s).chan = s.chan := rfl
@[simp] theorem Eff.setPend_keys (k : RegKey) (v : Option Word) : ((Eff.setPend k v).apply s).keys = s.keys := rfl
@[simp] theorem Eff.setPend_jnl (k : RegKey) (v : Option Word) : ((Eff.setPend k v).apply s).jnl = s.jnl := rfl
@[simp] theorem Eff.setPend_flash (k : RegKey) (v : Option Word) : ((Eff.setPend k v).apply s).flash = s.flash := rfl
@[simp] theorem Eff.setPend_await (k : RegKey) (v : Option Word) : ((Eff.setPend k v).apply s).await = s.await := rfl
@[simp] theorem Eff.setPend_load (k : RegKey) (v : Option Word) : ((Eff.setPend k v).apply s).load = s.load := rfl
@[simp] theorem Eff.setPend_rb (k : RegKey) (v : Option Word) : ((Eff.setPend k v).apply s).rb = s.rb := rfl
@[simp] theorem Eff.setPend_saves (k : RegKey) (v : Option Word) : ((Eff.setPend k v).apply s).saves = s.saves := rfl
@[simp] theorem Eff.setPend_hq (k : RegKey) (v : Option Word) : ((Eff.setPend k v).apply s).hq = s.hq := rfl
@[simp] theorem Eff.setPend_turns (k : RegKey) (v : Option Word) : ((Eff.setPend k v).apply s).turns = s.turns := rfl
@[simp] theorem Eff.setPend_boot (k : RegKey) (v : Option Word) : ((Eff.setPend k v).apply s).boot = s.boot := rfl
@[simp] theorem Eff.setPend_pins (k : RegKey) (v : Option Word) : ((Eff.setPend k v).apply s).pins = s.pins := rfl
@[simp] theorem Eff.setPend_sec (k : RegKey) (v : Option Word) : ((Eff.setPend k v).apply s).sec = s.sec := rfl
@[simp] theorem Eff.setPend_tel (k : RegKey) (v : Option Word) : ((Eff.setPend k v).apply s).tel = s.tel := rfl
@[simp] theorem Eff.setPend_fw (k : RegKey) (v : Option Word) : ((Eff.setPend k v).apply s).fw = s.fw := rfl
@[simp] theorem Eff.setPend_digests (k : RegKey) (v : Option Word) : ((Eff.setPend k v).apply s).digests = s.digests := rfl
@[simp] theorem Eff.setPend_fseq (k : RegKey) (v : Option Word) : ((Eff.setPend k v).apply s).fseq = s.fseq := rfl
@[simp] theorem Eff.setPend_lseq (k : RegKey) (v : Option Word) : ((Eff.setPend k v).apply s).lseq = s.lseq := rfl
@[simp] theorem Eff.setPend_unread (k : RegKey) (v : Option Word) : ((Eff.setPend k v).apply s).unread = s.unread := rfl
@[simp] theorem Eff.setPend_epochs (k : RegKey) (v : Option Word) : ((Eff.setPend k v).apply s).epochs = s.epochs := rfl
@[simp] theorem Eff.setPend_draws (k : RegKey) (v : Option Word) : ((Eff.setPend k v).apply s).draws = s.draws := rfl
@[simp] theorem Eff.setPend_out (k : RegKey) (v : Option Word) : ((Eff.setPend k v).apply s).out = s.out := rfl
@[simp] theorem Eff.setPend_pending (k : RegKey) (v : Option Word) : ((Eff.setPend k v).apply s).pending = s.pending := rfl

/-! ### memByte -/

@[simp] theorem Eff.memByte_reg (a : Nat) (b : Byte) : ((Eff.memByte a b).apply s).reg = s.reg := by dsimp only [Eff.apply]; split <;> rfl
@[simp] theorem Eff.memByte_pend (a : Nat) (b : Byte) : ((Eff.memByte a b).apply s).pend = s.pend := by dsimp only [Eff.apply]; split <;> rfl
@[simp] theorem Eff.memByte_mem (a : Nat) (b : Byte) : ((Eff.memByte a b).apply s).mem =
    if a < stackSize then Tab.upd 0 s.mem a b else s.mem := by
  dsimp only [Eff.apply]; split <;> rfl
@[simp] theorem Eff.memByte_mmeta (a : Nat) (b : Byte) : ((Eff.memByte a b).apply s).mmeta = s.mmeta := by dsimp only [Eff.apply]; split <;> rfl
@[simp] theorem Eff.memByte_err (a : Nat) (b : Byte) : ((Eff.memByte a b).apply s).err = s.err := by dsimp only [Eff.apply]; split <;> rfl
@[simp] theorem Eff.memByte_pilotSecs (a : Nat) (b : Byte) : ((Eff.memByte a b).apply s).pilotSecs = s.pilotSecs := by dsimp only [Eff.apply]; split <;> rfl
@[simp] theorem Eff.memByte_cl (a : Nat) (b : Byte) : ((Eff.memByte a b).apply s).cl = s.cl := by dsimp only [Eff.apply]; split <;> rfl
@[simp] theorem Eff.memByte_codec (a : Nat) (b : Byte) : ((Eff.memByte a b).apply s).codec = s.codec := by dsimp only [Eff.apply]; split <;> rfl
@[simp] theorem Eff.memByte_xlt (a : Nat) (b : Byte) : ((Eff.memByte a b).apply s).xlt = s.xlt := by dsimp only [Eff.apply]; split <;> rfl
@[simp] theorem Eff.memByte_invAll (a : Nat) (b : Byte) : ((Eff.memByte a b).apply s).invAll = s.invAll := by dsimp only [Eff.apply]; split <;> rfl
@[simp] theorem Eff.memByte_mov (a : Nat) (b : Byte) : ((Eff.memByte a b).apply s).mov = s.mov := by dsimp only [Eff.apply]; split <;> rfl
@[simp] theorem Eff.memByte_bnd (a : Nat) (b : Byte) : ((Eff.memByte a b).apply s).bnd = s.bnd := by dsimp only [Eff.apply]; split <;> rfl
@[simp] theorem Eff.memByte_lu (a : Nat) (b : Byte) : ((Eff.memByte a b).apply s).lu = s.lu := by dsimp only [Eff.apply]; split <;> rfl
@[simp] theorem Eff.memByte_su (a : Nat) (b : Byte) : ((Eff.memByte a b).apply s).su = s.su := by dsimp only [Eff.apply]; split <;> rfl
@[simp] theorem Eff.memByte_port (a : Nat) (b : Byte) : ((Eff.memByte a b).apply s).port = s.port := by dsimp only [Eff.apply]; split <;> rfl
@[simp] theorem Eff.memByte_vote (a : Nat) (b : Byte) : ((Eff.memByte a b).apply s).vote = s.vote := by dsimp only [Eff.apply]; split <;> rfl
@[simp] theorem Eff.memByte_ce (a : Nat) (b : Byte) : ((Eff.memByte a b).apply s).ce = s.ce := by dsimp only [Eff.apply]; split <;> rfl
@[simp] theorem Eff.memByte_store (a : Nat) (b : Byte) : ((Eff.memByte a b).apply s).store = s.store := by dsimp only [Eff.apply]; split <;> rfl
@[simp] theorem Eff.memByte_hornWait (a : Nat) (b : Byte) : ((Eff.memByte a b).apply s).hornWait = s.hornWait := by dsimp only [Eff.apply]; split <;> rfl
@[simp] theorem Eff.memByte_chan (a : Nat) (b : Byte) : ((Eff.memByte a b).apply s).chan = s.chan := by dsimp only [Eff.apply]; split <;> rfl
@[simp] theorem Eff.memByte_keys (a : Nat) (b : Byte) : ((Eff.memByte a b).apply s).keys = s.keys := by dsimp only [Eff.apply]; split <;> rfl
@[simp] theorem Eff.memByte_jnl (a : Nat) (b : Byte) : ((Eff.memByte a b).apply s).jnl = s.jnl := by dsimp only [Eff.apply]; split <;> rfl
@[simp] theorem Eff.memByte_flash (a : Nat) (b : Byte) : ((Eff.memByte a b).apply s).flash = s.flash := by dsimp only [Eff.apply]; split <;> rfl
@[simp] theorem Eff.memByte_await (a : Nat) (b : Byte) : ((Eff.memByte a b).apply s).await = s.await := by dsimp only [Eff.apply]; split <;> rfl
@[simp] theorem Eff.memByte_load (a : Nat) (b : Byte) : ((Eff.memByte a b).apply s).load = s.load := by dsimp only [Eff.apply]; split <;> rfl
@[simp] theorem Eff.memByte_rb (a : Nat) (b : Byte) : ((Eff.memByte a b).apply s).rb = s.rb := by dsimp only [Eff.apply]; split <;> rfl
@[simp] theorem Eff.memByte_saves (a : Nat) (b : Byte) : ((Eff.memByte a b).apply s).saves = s.saves := by dsimp only [Eff.apply]; split <;> rfl
@[simp] theorem Eff.memByte_hq (a : Nat) (b : Byte) : ((Eff.memByte a b).apply s).hq = s.hq := by dsimp only [Eff.apply]; split <;> rfl
@[simp] theorem Eff.memByte_turns (a : Nat) (b : Byte) : ((Eff.memByte a b).apply s).turns = s.turns := by dsimp only [Eff.apply]; split <;> rfl
@[simp] theorem Eff.memByte_boot (a : Nat) (b : Byte) : ((Eff.memByte a b).apply s).boot = s.boot := by dsimp only [Eff.apply]; split <;> rfl
@[simp] theorem Eff.memByte_pins (a : Nat) (b : Byte) : ((Eff.memByte a b).apply s).pins = s.pins := by dsimp only [Eff.apply]; split <;> rfl
@[simp] theorem Eff.memByte_sec (a : Nat) (b : Byte) : ((Eff.memByte a b).apply s).sec = s.sec := by dsimp only [Eff.apply]; split <;> rfl
@[simp] theorem Eff.memByte_tel (a : Nat) (b : Byte) : ((Eff.memByte a b).apply s).tel = s.tel := by dsimp only [Eff.apply]; split <;> rfl
@[simp] theorem Eff.memByte_fw (a : Nat) (b : Byte) : ((Eff.memByte a b).apply s).fw = s.fw := by dsimp only [Eff.apply]; split <;> rfl
@[simp] theorem Eff.memByte_digests (a : Nat) (b : Byte) : ((Eff.memByte a b).apply s).digests = s.digests := by dsimp only [Eff.apply]; split <;> rfl
@[simp] theorem Eff.memByte_fseq (a : Nat) (b : Byte) : ((Eff.memByte a b).apply s).fseq = s.fseq := by dsimp only [Eff.apply]; split <;> rfl
@[simp] theorem Eff.memByte_lseq (a : Nat) (b : Byte) : ((Eff.memByte a b).apply s).lseq = s.lseq := by dsimp only [Eff.apply]; split <;> rfl
@[simp] theorem Eff.memByte_unread (a : Nat) (b : Byte) : ((Eff.memByte a b).apply s).unread = s.unread := by dsimp only [Eff.apply]; split <;> rfl
@[simp] theorem Eff.memByte_epochs (a : Nat) (b : Byte) : ((Eff.memByte a b).apply s).epochs = s.epochs := by dsimp only [Eff.apply]; split <;> rfl
@[simp] theorem Eff.memByte_draws (a : Nat) (b : Byte) : ((Eff.memByte a b).apply s).draws = s.draws := by dsimp only [Eff.apply]; split <;> rfl
@[simp] theorem Eff.memByte_out (a : Nat) (b : Byte) : ((Eff.memByte a b).apply s).out = s.out := by dsimp only [Eff.apply]; split <;> rfl
@[simp] theorem Eff.memByte_pending (a : Nat) (b : Byte) : ((Eff.memByte a b).apply s).pending = s.pending := by dsimp only [Eff.apply]; split <;> rfl

/-! ### clearMem -/

@[simp] theorem Eff.clearMem_reg : (Eff.clearMem.apply s).reg = s.reg := rfl
@[simp] theorem Eff.clearMem_pend : (Eff.clearMem.apply s).pend = s.pend := rfl
@[simp] theorem Eff.clearMem_mem :
    (Eff.clearMem.apply s).mem = [] := rfl
@[simp] theorem Eff.clearMem_mmeta :
    (Eff.clearMem.apply s).mmeta = [] := rfl
@[simp] theorem Eff.clearMem_err :
    (Eff.clearMem.apply s).err = [] := rfl
@[simp] theorem Eff.clearMem_pilotSecs :
    (Eff.clearMem.apply s).pilotSecs = [] := rfl
@[simp] theorem Eff.clearMem_cl : (Eff.clearMem.apply s).cl = s.cl := rfl
@[simp] theorem Eff.clearMem_codec : (Eff.clearMem.apply s).codec = s.codec := rfl
@[simp] theorem Eff.clearMem_xlt : (Eff.clearMem.apply s).xlt = s.xlt := rfl
@[simp] theorem Eff.clearMem_invAll : (Eff.clearMem.apply s).invAll = s.invAll := rfl
@[simp] theorem Eff.clearMem_mov : (Eff.clearMem.apply s).mov = s.mov := rfl
@[simp] theorem Eff.clearMem_bnd : (Eff.clearMem.apply s).bnd = s.bnd := rfl
@[simp] theorem Eff.clearMem_lu : (Eff.clearMem.apply s).lu = s.lu := rfl
@[simp] theorem Eff.clearMem_su : (Eff.clearMem.apply s).su = s.su := rfl
@[simp] theorem Eff.clearMem_port : (Eff.clearMem.apply s).port = s.port := rfl
@[simp] theorem Eff.clearMem_vote : (Eff.clearMem.apply s).vote = s.vote := rfl
@[simp] theorem Eff.clearMem_ce : (Eff.clearMem.apply s).ce = s.ce := rfl
@[simp] theorem Eff.clearMem_store : (Eff.clearMem.apply s).store = s.store := rfl
@[simp] theorem Eff.clearMem_hornWait : (Eff.clearMem.apply s).hornWait = s.hornWait := rfl
@[simp] theorem Eff.clearMem_chan : (Eff.clearMem.apply s).chan = s.chan := rfl
@[simp] theorem Eff.clearMem_keys : (Eff.clearMem.apply s).keys = s.keys := rfl
@[simp] theorem Eff.clearMem_jnl : (Eff.clearMem.apply s).jnl = s.jnl := rfl
@[simp] theorem Eff.clearMem_flash : (Eff.clearMem.apply s).flash = s.flash := rfl
@[simp] theorem Eff.clearMem_await : (Eff.clearMem.apply s).await = s.await := rfl
@[simp] theorem Eff.clearMem_load : (Eff.clearMem.apply s).load = s.load := rfl
@[simp] theorem Eff.clearMem_rb : (Eff.clearMem.apply s).rb = s.rb := rfl
@[simp] theorem Eff.clearMem_saves : (Eff.clearMem.apply s).saves = s.saves := rfl
@[simp] theorem Eff.clearMem_hq : (Eff.clearMem.apply s).hq = s.hq := rfl
@[simp] theorem Eff.clearMem_turns : (Eff.clearMem.apply s).turns = s.turns := rfl
@[simp] theorem Eff.clearMem_boot : (Eff.clearMem.apply s).boot = s.boot := rfl
@[simp] theorem Eff.clearMem_pins : (Eff.clearMem.apply s).pins = s.pins := rfl
@[simp] theorem Eff.clearMem_sec : (Eff.clearMem.apply s).sec = s.sec := rfl
@[simp] theorem Eff.clearMem_tel : (Eff.clearMem.apply s).tel = s.tel := rfl
@[simp] theorem Eff.clearMem_fw : (Eff.clearMem.apply s).fw = s.fw := rfl
@[simp] theorem Eff.clearMem_digests : (Eff.clearMem.apply s).digests = s.digests := rfl
@[simp] theorem Eff.clearMem_fseq : (Eff.clearMem.apply s).fseq = s.fseq := rfl
@[simp] theorem Eff.clearMem_lseq : (Eff.clearMem.apply s).lseq = s.lseq := rfl
@[simp] theorem Eff.clearMem_unread : (Eff.clearMem.apply s).unread = s.unread := rfl
@[simp] theorem Eff.clearMem_epochs : (Eff.clearMem.apply s).epochs = s.epochs := rfl
@[simp] theorem Eff.clearMem_draws : (Eff.clearMem.apply s).draws = s.draws := rfl
@[simp] theorem Eff.clearMem_out : (Eff.clearMem.apply s).out = s.out := rfl
@[simp] theorem Eff.clearMem_pending : (Eff.clearMem.apply s).pending = s.pending := rfl

/-! ### setMeta -/

@[simp] theorem Eff.setMeta_reg (sec : Nat) (v : BitVec 32) : ((Eff.setMeta sec v).apply s).reg = s.reg := rfl
@[simp] theorem Eff.setMeta_pend (sec : Nat) (v : BitVec 32) : ((Eff.setMeta sec v).apply s).pend = s.pend := rfl
@[simp] theorem Eff.setMeta_mem (sec : Nat) (v : BitVec 32) : ((Eff.setMeta sec v).apply s).mem = s.mem := rfl
@[simp] theorem Eff.setMeta_mmeta (sec : Nat) (v : BitVec 32) :
    ((Eff.setMeta sec v).apply s).mmeta = Tab.upd 0 s.mmeta sec v := rfl
@[simp] theorem Eff.setMeta_err (sec : Nat) (v : BitVec 32) : ((Eff.setMeta sec v).apply s).err = s.err := rfl
@[simp] theorem Eff.setMeta_pilotSecs (sec : Nat) (v : BitVec 32) : ((Eff.setMeta sec v).apply s).pilotSecs = s.pilotSecs := rfl
@[simp] theorem Eff.setMeta_cl (sec : Nat) (v : BitVec 32) : ((Eff.setMeta sec v).apply s).cl = s.cl := rfl
@[simp] theorem Eff.setMeta_codec (sec : Nat) (v : BitVec 32) : ((Eff.setMeta sec v).apply s).codec = s.codec := rfl
@[simp] theorem Eff.setMeta_xlt (sec : Nat) (v : BitVec 32) : ((Eff.setMeta sec v).apply s).xlt = s.xlt := rfl
@[simp] theorem Eff.setMeta_invAll (sec : Nat) (v : BitVec 32) : ((Eff.setMeta sec v).apply s).invAll = s.invAll := rfl
@[simp] theorem Eff.setMeta_mov (sec : Nat) (v : BitVec 32) : ((Eff.setMeta sec v).apply s).mov = s.mov := rfl
@[simp] theorem Eff.setMeta_bnd (sec : Nat) (v : BitVec 32) : ((Eff.setMeta sec v).apply s).bnd = s.bnd := rfl
@[simp] theorem Eff.setMeta_lu (sec : Nat) (v : BitVec 32) : ((Eff.setMeta sec v).apply s).lu = s.lu := rfl
@[simp] theorem Eff.setMeta_su (sec : Nat) (v : BitVec 32) : ((Eff.setMeta sec v).apply s).su = s.su := rfl
@[simp] theorem Eff.setMeta_port (sec : Nat) (v : BitVec 32) : ((Eff.setMeta sec v).apply s).port = s.port := rfl
@[simp] theorem Eff.setMeta_vote (sec : Nat) (v : BitVec 32) : ((Eff.setMeta sec v).apply s).vote = s.vote := rfl
@[simp] theorem Eff.setMeta_ce (sec : Nat) (v : BitVec 32) : ((Eff.setMeta sec v).apply s).ce = s.ce := rfl
@[simp] theorem Eff.setMeta_store (sec : Nat) (v : BitVec 32) : ((Eff.setMeta sec v).apply s).store = s.store := rfl
@[simp] theorem Eff.setMeta_hornWait (sec : Nat) (v : BitVec 32) : ((Eff.setMeta sec v).apply s).hornWait = s.hornWait := rfl
@[simp] theorem Eff.setMeta_chan (sec : Nat) (v : BitVec 32) : ((Eff.setMeta sec v).apply s).chan = s.chan := rfl
@[simp] theorem Eff.setMeta_keys (sec : Nat) (v : BitVec 32) : ((Eff.setMeta sec v).apply s).keys = s.keys := rfl
@[simp] theorem Eff.setMeta_jnl (sec : Nat) (v : BitVec 32) : ((Eff.setMeta sec v).apply s).jnl = s.jnl := rfl
@[simp] theorem Eff.setMeta_flash (sec : Nat) (v : BitVec 32) : ((Eff.setMeta sec v).apply s).flash = s.flash := rfl
@[simp] theorem Eff.setMeta_await (sec : Nat) (v : BitVec 32) : ((Eff.setMeta sec v).apply s).await = s.await := rfl
@[simp] theorem Eff.setMeta_load (sec : Nat) (v : BitVec 32) : ((Eff.setMeta sec v).apply s).load = s.load := rfl
@[simp] theorem Eff.setMeta_rb (sec : Nat) (v : BitVec 32) : ((Eff.setMeta sec v).apply s).rb = s.rb := rfl
@[simp] theorem Eff.setMeta_saves (sec : Nat) (v : BitVec 32) : ((Eff.setMeta sec v).apply s).saves = s.saves := rfl
@[simp] theorem Eff.setMeta_hq (sec : Nat) (v : BitVec 32) : ((Eff.setMeta sec v).apply s).hq = s.hq := rfl
@[simp] theorem Eff.setMeta_turns (sec : Nat) (v : BitVec 32) : ((Eff.setMeta sec v).apply s).turns = s.turns := rfl
@[simp] theorem Eff.setMeta_boot (sec : Nat) (v : BitVec 32) : ((Eff.setMeta sec v).apply s).boot = s.boot := rfl
@[simp] theorem Eff.setMeta_pins (sec : Nat) (v : BitVec 32) : ((Eff.setMeta sec v).apply s).pins = s.pins := rfl
@[simp] theorem Eff.setMeta_sec (sec : Nat) (v : BitVec 32) : ((Eff.setMeta sec v).apply s).sec = s.sec := rfl
@[simp] theorem Eff.setMeta_tel (sec : Nat) (v : BitVec 32) : ((Eff.setMeta sec v).apply s).tel = s.tel := rfl
@[simp] theorem Eff.setMeta_fw (sec : Nat) (v : BitVec 32) : ((Eff.setMeta sec v).apply s).fw = s.fw := rfl
@[simp] theorem Eff.setMeta_digests (sec : Nat) (v : BitVec 32) : ((Eff.setMeta sec v).apply s).digests = s.digests := rfl
@[simp] theorem Eff.setMeta_fseq (sec : Nat) (v : BitVec 32) : ((Eff.setMeta sec v).apply s).fseq = s.fseq := rfl
@[simp] theorem Eff.setMeta_lseq (sec : Nat) (v : BitVec 32) : ((Eff.setMeta sec v).apply s).lseq = s.lseq := rfl
@[simp] theorem Eff.setMeta_unread (sec : Nat) (v : BitVec 32) : ((Eff.setMeta sec v).apply s).unread = s.unread := rfl
@[simp] theorem Eff.setMeta_epochs (sec : Nat) (v : BitVec 32) : ((Eff.setMeta sec v).apply s).epochs = s.epochs := rfl
@[simp] theorem Eff.setMeta_draws (sec : Nat) (v : BitVec 32) : ((Eff.setMeta sec v).apply s).draws = s.draws := rfl
@[simp] theorem Eff.setMeta_out (sec : Nat) (v : BitVec 32) : ((Eff.setMeta sec v).apply s).out = s.out := rfl
@[simp] theorem Eff.setMeta_pending (sec : Nat) (v : BitVec 32) : ((Eff.setMeta sec v).apply s).pending = s.pending := rfl

/-! ### setErr -/

@[simp] theorem Eff.setErr_reg (sec : Nat) (v : List (Nat × Byte)) : ((Eff.setErr sec v).apply s).reg = s.reg := rfl
@[simp] theorem Eff.setErr_pend (sec : Nat) (v : List (Nat × Byte)) : ((Eff.setErr sec v).apply s).pend = s.pend := rfl
@[simp] theorem Eff.setErr_mem (sec : Nat) (v : List (Nat × Byte)) : ((Eff.setErr sec v).apply s).mem = s.mem := rfl
@[simp] theorem Eff.setErr_mmeta (sec : Nat) (v : List (Nat × Byte)) : ((Eff.setErr sec v).apply s).mmeta = s.mmeta := rfl
@[simp] theorem Eff.setErr_err (sec : Nat) (v : List (Nat × Byte)) :
    ((Eff.setErr sec v).apply s).err = Tab.upd [] s.err sec v := rfl
@[simp] theorem Eff.setErr_pilotSecs (sec : Nat) (v : List (Nat × Byte)) : ((Eff.setErr sec v).apply s).pilotSecs = s.pilotSecs := rfl
@[simp] theorem Eff.setErr_cl (sec : Nat) (v : List (Nat × Byte)) : ((Eff.setErr sec v).apply s).cl = s.cl := rfl
@[simp] theorem Eff.setErr_codec (sec : Nat) (v : List (Nat × Byte)) : ((Eff.setErr sec v).apply s).codec = s.codec := rfl
@[simp] theorem Eff.setErr_xlt (sec : Nat) (v : List (Nat × Byte)) : ((Eff.setErr sec v).apply s).xlt = s.xlt := rfl
@[simp] theorem Eff.setErr_invAll (sec : Nat) (v : List (Nat × Byte)) : ((Eff.setErr sec v).apply s).invAll = s.invAll := rfl
@[simp] theorem Eff.setErr_mov (sec : Nat) (v : List (Nat × Byte)) : ((Eff.setErr sec v).apply s).mov = s.mov := rfl
@[simp] theorem Eff.setErr_bnd (sec : Nat) (v : List (Nat × Byte)) : ((Eff.setErr sec v).apply s).bnd = s.bnd := rfl
@[simp] theorem Eff.setErr_lu (sec : Nat) (v : List (Nat × Byte)) : ((Eff.setErr sec v).apply s).lu = s.lu := rfl
@[simp] theorem Eff.setErr_su (sec : Nat) (v : List (Nat × Byte)) : ((Eff.setErr sec v).apply s).su = s.su := rfl
@[simp] theorem Eff.setErr_port (sec : Nat) (v : List (Nat × Byte)) : ((Eff.setErr sec v).apply s).port = s.port := rfl
@[simp] theorem Eff.setErr_vote (sec : Nat) (v : List (Nat × Byte)) : ((Eff.setErr sec v).apply s).vote = s.vote := rfl
@[simp] theorem Eff.setErr_ce (sec : Nat) (v : List (Nat × Byte)) : ((Eff.setErr sec v).apply s).ce = s.ce := rfl
@[simp] theorem Eff.setErr_store (sec : Nat) (v : List (Nat × Byte)) : ((Eff.setErr sec v).apply s).store = s.store := rfl
@[simp] theorem Eff.setErr_hornWait (sec : Nat) (v : List (Nat × Byte)) : ((Eff.setErr sec v).apply s).hornWait = s.hornWait := rfl
@[simp] theorem Eff.setErr_chan (sec : Nat) (v : List (Nat × Byte)) : ((Eff.setErr sec v).apply s).chan = s.chan := rfl
@[simp] theorem Eff.setErr_keys (sec : Nat) (v : List (Nat × Byte)) : ((Eff.setErr sec v).apply s).keys = s.keys := rfl
@[simp] theorem Eff.setErr_jnl (sec : Nat) (v : List (Nat × Byte)) : ((Eff.setErr sec v).apply s).jnl = s.jnl := rfl
@[simp] theorem Eff.setErr_flash (sec : Nat) (v : List (Nat × Byte)) : ((Eff.setErr sec v).apply s).flash = s.flash := rfl
@[simp] theorem Eff.setErr_await (sec : Nat) (v : List (Nat × Byte)) : ((Eff.setErr sec v).apply s).await = s.await := rfl
@[simp] theorem Eff.setErr_load (sec : Nat) (v : List (Nat × Byte)) : ((Eff.setErr sec v).apply s).load = s.load := rfl
@[simp] theorem Eff.setErr_rb (sec : Nat) (v : List (Nat × Byte)) : ((Eff.setErr sec v).apply s).rb = s.rb := rfl
@[simp] theorem Eff.setErr_saves (sec : Nat) (v : List (Nat × Byte)) : ((Eff.setErr sec v).apply s).saves = s.saves := rfl
@[simp] theorem Eff.setErr_hq (sec : Nat) (v : List (Nat × Byte)) : ((Eff.setErr sec v).apply s).hq = s.hq := rfl
@[simp] theorem Eff.setErr_turns (sec : Nat) (v : List (Nat × Byte)) : ((Eff.setErr sec v).apply s).turns = s.turns := rfl
@[simp] theorem Eff.setErr_boot (sec : Nat) (v : List (Nat × Byte)) : ((Eff.setErr sec v).apply s).boot = s.boot := rfl
@[simp] theorem Eff.setErr_pins (sec : Nat) (v : List (Nat × Byte)) : ((Eff.setErr sec v).apply s).pins = s.pins := rfl
@[simp] theorem Eff.setErr_sec (sec : Nat) (v : List (Nat × Byte)) : ((Eff.setErr sec v).apply s).sec = s.sec := rfl
@[simp] theorem Eff.setErr_tel (sec : Nat) (v : List (Nat × Byte)) : ((Eff.setErr sec v).apply s).tel = s.tel := rfl
@[simp] theorem Eff.setErr_fw (sec : Nat) (v : List (Nat × Byte)) : ((Eff.setErr sec v).apply s).fw = s.fw := rfl
@[simp] theorem Eff.setErr_digests (sec : Nat) (v : List (Nat × Byte)) : ((Eff.setErr sec v).apply s).digests = s.digests := rfl
@[simp] theorem Eff.setErr_fseq (sec : Nat) (v : List (Nat × Byte)) : ((Eff.setErr sec v).apply s).fseq = s.fseq := rfl
@[simp] theorem Eff.setErr_lseq (sec : Nat) (v : List (Nat × Byte)) : ((Eff.setErr sec v).apply s).lseq = s.lseq := rfl
@[simp] theorem Eff.setErr_unread (sec : Nat) (v : List (Nat × Byte)) : ((Eff.setErr sec v).apply s).unread = s.unread := rfl
@[simp] theorem Eff.setErr_epochs (sec : Nat) (v : List (Nat × Byte)) : ((Eff.setErr sec v).apply s).epochs = s.epochs := rfl
@[simp] theorem Eff.setErr_draws (sec : Nat) (v : List (Nat × Byte)) : ((Eff.setErr sec v).apply s).draws = s.draws := rfl
@[simp] theorem Eff.setErr_out (sec : Nat) (v : List (Nat × Byte)) : ((Eff.setErr sec v).apply s).out = s.out := rfl
@[simp] theorem Eff.setErr_pending (sec : Nat) (v : List (Nat × Byte)) : ((Eff.setErr sec v).apply s).pending = s.pending := rfl

/-! ### setPilot -/

@[simp] theorem Eff.setPilot_reg (sec : Nat) (v : Bool) : ((Eff.setPilot sec v).apply s).reg = s.reg := rfl
@[simp] theorem Eff.setPilot_pend (sec : Nat) (v : Bool) : ((Eff.setPilot sec v).apply s).pend = s.pend := rfl
@[simp] theorem Eff.setPilot_mem (sec : Nat) (v : Bool) : ((Eff.setPilot sec v).apply s).mem = s.mem := rfl
@[simp] theorem Eff.setPilot_mmeta (sec : Nat) (v : Bool) : ((Eff.setPilot sec v).apply s).mmeta = s.mmeta := rfl
@[simp] theorem Eff.setPilot_err (sec : Nat) (v : Bool) : ((Eff.setPilot sec v).apply s).err = s.err := rfl
@[simp] theorem Eff.setPilot_pilotSecs (sec : Nat) (v : Bool) :
    ((Eff.setPilot sec v).apply s).pilotSecs = Tab.upd false s.pilotSecs sec v := rfl
@[simp] theorem Eff.setPilot_cl (sec : Nat) (v : Bool) : ((Eff.setPilot sec v).apply s).cl = s.cl := rfl
@[simp] theorem Eff.setPilot_codec (sec : Nat) (v : Bool) : ((Eff.setPilot sec v).apply s).codec = s.codec := rfl
@[simp] theorem Eff.setPilot_xlt (sec : Nat) (v : Bool) : ((Eff.setPilot sec v).apply s).xlt = s.xlt := rfl
@[simp] theorem Eff.setPilot_invAll (sec : Nat) (v : Bool) : ((Eff.setPilot sec v).apply s).invAll = s.invAll := rfl
@[simp] theorem Eff.setPilot_mov (sec : Nat) (v : Bool) : ((Eff.setPilot sec v).apply s).mov = s.mov := rfl
@[simp] theorem Eff.setPilot_bnd (sec : Nat) (v : Bool) : ((Eff.setPilot sec v).apply s).bnd = s.bnd := rfl
@[simp] theorem Eff.setPilot_lu (sec : Nat) (v : Bool) : ((Eff.setPilot sec v).apply s).lu = s.lu := rfl
@[simp] theorem Eff.setPilot_su (sec : Nat) (v : Bool) : ((Eff.setPilot sec v).apply s).su = s.su := rfl
@[simp] theorem Eff.setPilot_port (sec : Nat) (v : Bool) : ((Eff.setPilot sec v).apply s).port = s.port := rfl
@[simp] theorem Eff.setPilot_vote (sec : Nat) (v : Bool) : ((Eff.setPilot sec v).apply s).vote = s.vote := rfl
@[simp] theorem Eff.setPilot_ce (sec : Nat) (v : Bool) : ((Eff.setPilot sec v).apply s).ce = s.ce := rfl
@[simp] theorem Eff.setPilot_store (sec : Nat) (v : Bool) : ((Eff.setPilot sec v).apply s).store = s.store := rfl
@[simp] theorem Eff.setPilot_hornWait (sec : Nat) (v : Bool) : ((Eff.setPilot sec v).apply s).hornWait = s.hornWait := rfl
@[simp] theorem Eff.setPilot_chan (sec : Nat) (v : Bool) : ((Eff.setPilot sec v).apply s).chan = s.chan := rfl
@[simp] theorem Eff.setPilot_keys (sec : Nat) (v : Bool) : ((Eff.setPilot sec v).apply s).keys = s.keys := rfl
@[simp] theorem Eff.setPilot_jnl (sec : Nat) (v : Bool) : ((Eff.setPilot sec v).apply s).jnl = s.jnl := rfl
@[simp] theorem Eff.setPilot_flash (sec : Nat) (v : Bool) : ((Eff.setPilot sec v).apply s).flash = s.flash := rfl
@[simp] theorem Eff.setPilot_await (sec : Nat) (v : Bool) : ((Eff.setPilot sec v).apply s).await = s.await := rfl
@[simp] theorem Eff.setPilot_load (sec : Nat) (v : Bool) : ((Eff.setPilot sec v).apply s).load = s.load := rfl
@[simp] theorem Eff.setPilot_rb (sec : Nat) (v : Bool) : ((Eff.setPilot sec v).apply s).rb = s.rb := rfl
@[simp] theorem Eff.setPilot_saves (sec : Nat) (v : Bool) : ((Eff.setPilot sec v).apply s).saves = s.saves := rfl
@[simp] theorem Eff.setPilot_hq (sec : Nat) (v : Bool) : ((Eff.setPilot sec v).apply s).hq = s.hq := rfl
@[simp] theorem Eff.setPilot_turns (sec : Nat) (v : Bool) : ((Eff.setPilot sec v).apply s).turns = s.turns := rfl
@[simp] theorem Eff.setPilot_boot (sec : Nat) (v : Bool) : ((Eff.setPilot sec v).apply s).boot = s.boot := rfl
@[simp] theorem Eff.setPilot_pins (sec : Nat) (v : Bool) : ((Eff.setPilot sec v).apply s).pins = s.pins := rfl
@[simp] theorem Eff.setPilot_sec (sec : Nat) (v : Bool) : ((Eff.setPilot sec v).apply s).sec = s.sec := rfl
@[simp] theorem Eff.setPilot_tel (sec : Nat) (v : Bool) : ((Eff.setPilot sec v).apply s).tel = s.tel := rfl
@[simp] theorem Eff.setPilot_fw (sec : Nat) (v : Bool) : ((Eff.setPilot sec v).apply s).fw = s.fw := rfl
@[simp] theorem Eff.setPilot_digests (sec : Nat) (v : Bool) : ((Eff.setPilot sec v).apply s).digests = s.digests := rfl
@[simp] theorem Eff.setPilot_fseq (sec : Nat) (v : Bool) : ((Eff.setPilot sec v).apply s).fseq = s.fseq := rfl
@[simp] theorem Eff.setPilot_lseq (sec : Nat) (v : Bool) : ((Eff.setPilot sec v).apply s).lseq = s.lseq := rfl
@[simp] theorem Eff.setPilot_unread (sec : Nat) (v : Bool) : ((Eff.setPilot sec v).apply s).unread = s.unread := rfl
@[simp] theorem Eff.setPilot_epochs (sec : Nat) (v : Bool) : ((Eff.setPilot sec v).apply s).epochs = s.epochs := rfl
@[simp] theorem Eff.setPilot_draws (sec : Nat) (v : Bool) : ((Eff.setPilot sec v).apply s).draws = s.draws := rfl
@[simp] theorem Eff.setPilot_out (sec : Nat) (v : Bool) : ((Eff.setPilot sec v).apply s).out = s.out := rfl
@[simp] theorem Eff.setPilot_pending (sec : Nat) (v : Bool) : ((Eff.setPilot sec v).apply s).pending = s.pending := rfl

/-! ### setCl -/

@[simp] theorem Eff.setCl_reg (c : Nat) (v : Cluster) : ((Eff.setCl c v).apply s).reg = s.reg := rfl
@[simp] theorem Eff.setCl_pend (c : Nat) (v : Cluster) : ((Eff.setCl c v).apply s).pend = s.pend := rfl
@[simp] theorem Eff.setCl_mem (c : Nat) (v : Cluster) : ((Eff.setCl c v).apply s).mem = s.mem := rfl
@[simp] theorem Eff.setCl_mmeta (c : Nat) (v : Cluster) : ((Eff.setCl c v).apply s).mmeta = s.mmeta := rfl
@[simp] theorem Eff.setCl_err (c : Nat) (v : Cluster) : ((Eff.setCl c v).apply s).err = s.err := rfl
@[simp] theorem Eff.setCl_pilotSecs (c : Nat) (v : Cluster) : ((Eff.setCl c v).apply s).pilotSecs = s.pilotSecs := rfl
@[simp] theorem Eff.setCl_cl (c : Nat) (v : Cluster) :
    ((Eff.setCl c v).apply s).cl = Tab.upd clDefault s.cl c v := rfl
@[simp] theorem Eff.setCl_codec (c : Nat) (v : Cluster) : ((Eff.setCl c v).apply s).codec = s.codec := rfl
@[simp] theorem Eff.setCl_xlt (c : Nat) (v : Cluster) : ((Eff.setCl c v).apply s).xlt = s.xlt := rfl
@[simp] theorem Eff.setCl_invAll (c : Nat) (v : Cluster) : ((Eff.setCl c v).apply s).invAll = s.invAll := rfl
@[simp] theorem Eff.setCl_mov (c : Nat) (v : Cluster) : ((Eff.setCl c v).apply s).mov = s.mov := rfl
@[simp] theorem Eff.setCl_bnd (c : Nat) (v : Cluster) : ((Eff.setCl c v).apply s).bnd = s.bnd := rfl
@[simp] theorem Eff.setCl_lu (c : Nat) (v : Cluster) : ((Eff.setCl c v).apply s).lu = s.lu := rfl
@[simp] theorem Eff.setCl_su (c : Nat) (v : Cluster) : ((Eff.setCl c v).apply s).su = s.su := rfl
@[simp] theorem Eff.setCl_port (c : Nat) (v : Cluster) : ((Eff.setCl c v).apply s).port = s.port := rfl
@[simp] theorem Eff.setCl_vote (c : Nat) (v : Cluster) : ((Eff.setCl c v).apply s).vote = s.vote := rfl
@[simp] theorem Eff.setCl_ce (c : Nat) (v : Cluster) : ((Eff.setCl c v).apply s).ce = s.ce := rfl
@[simp] theorem Eff.setCl_store (c : Nat) (v : Cluster) : ((Eff.setCl c v).apply s).store = s.store := rfl
@[simp] theorem Eff.setCl_hornWait (c : Nat) (v : Cluster) : ((Eff.setCl c v).apply s).hornWait = s.hornWait := rfl
@[simp] theorem Eff.setCl_chan (c : Nat) (v : Cluster) : ((Eff.setCl c v).apply s).chan = s.chan := rfl
@[simp] theorem Eff.setCl_keys (c : Nat) (v : Cluster) : ((Eff.setCl c v).apply s).keys = s.keys := rfl
@[simp] theorem Eff.setCl_jnl (c : Nat) (v : Cluster) : ((Eff.setCl c v).apply s).jnl = s.jnl := rfl
@[simp] theorem Eff.setCl_flash (c : Nat) (v : Cluster) : ((Eff.setCl c v).apply s).flash = s.flash := rfl
@[simp] theorem Eff.setCl_await (c : Nat) (v : Cluster) : ((Eff.setCl c v).apply s).await = s.await := rfl
@[simp] theorem Eff.setCl_load (c : Nat) (v : Cluster) : ((Eff.setCl c v).apply s).load = s.load := rfl
@[simp] theorem Eff.setCl_rb (c : Nat) (v : Cluster) : ((Eff.setCl c v).apply s).rb = s.rb := rfl
@[simp] theorem Eff.setCl_saves (c : Nat) (v : Cluster) : ((Eff.setCl c v).apply s).saves = s.saves := rfl
@[simp] theorem Eff.setCl_hq (c : Nat) (v : Cluster) : ((Eff.setCl c v).apply s).hq = s.hq := rfl
@[simp] theorem Eff.setCl_turns (c : Nat) (v : Cluster) : ((Eff.setCl c v).apply s).turns = s.turns := rfl
@[simp] theorem Eff.setCl_boot (c : Nat) (v : Cluster) : ((Eff.setCl c v).apply s).boot = s.boot := rfl
@[simp] theorem Eff.setCl_pins (c : Nat) (v : Cluster) : ((Eff.setCl c v).apply s).pins = s.pins := rfl
@[simp] theorem Eff.setCl_sec (c : Nat) (v : Cluster) : ((Eff.setCl c v).apply s).sec = s.sec := rfl
@[simp] theorem Eff.setCl_tel (c : Nat) (v : Cluster) : ((Eff.setCl c v).apply s).tel = s.tel := rfl
@[simp] theorem Eff.setCl_fw (c : Nat) (v : Cluster) : ((Eff.setCl c v).apply s).fw = s.fw := rfl
@[simp] theorem Eff.setCl_digests (c : Nat) (v : Cluster) : ((Eff.setCl c v).apply s).digests = s.digests := rfl
@[simp] theorem Eff.setCl_fseq (c : Nat) (v : Cluster) : ((Eff.setCl c v).apply s).fseq = s.fseq := rfl
@[simp] theorem Eff.setCl_lseq (c : Nat) (v : Cluster) : ((Eff.setCl c v).apply s).lseq = s.lseq := rfl
@[simp] theorem Eff.setCl_unread (c : Nat) (v : Cluster) : ((Eff.setCl c v).apply s).unread = s.unread := rfl
@[simp] theorem Eff.setCl_epochs (c : Nat) (v : Cluster) : ((Eff.setCl c v).apply s).epochs = s.epochs := rfl
@[simp] theorem Eff.setCl_draws (c : Nat) (v : Cluster) : ((Eff.setCl c v).apply s).draws = s.draws := rfl
@[simp] theorem Eff.setCl_out (c : Nat) (v : Cluster) : ((Eff.setCl c v).apply s).out = s.out := rfl
@[simp] theorem Eff.setCl_pending (c : Nat) (v : Cluster) : ((Eff.setCl c v).apply s).pending = s.pending := rfl

/-! ### setCodec -/

@[simp] theorem Eff.setCodec_reg (e : Nat) (v : Codec) : ((Eff.setCodec e v).apply s).reg = s.reg := rfl
@[simp] theorem Eff.setCodec_pend (e : Nat) (v : Codec) : ((Eff.setCodec e v).apply s).pend = s.pend := rfl
@[simp] theorem Eff.setCodec_mem (e : Nat) (v : Codec) : ((Eff.setCodec e v).apply s).mem = s.mem := rfl
@[simp] theorem Eff.setCodec_mmeta (e : Nat) (v : Codec) : ((Eff.setCodec e v).apply s).mmeta = s.mmeta := rfl
@[simp] theorem Eff.setCodec_err (e : Nat) (v : Codec) : ((Eff.setCodec e v).apply s).err = s.err := rfl
@[simp] theorem Eff.setCodec_pilotSecs (e : Nat) (v : Codec) : ((Eff.setCodec e v).apply s).pilotSecs = s.pilotSecs := rfl
@[simp] theorem Eff.setCodec_cl (e : Nat) (v : Codec) : ((Eff.setCodec e v).apply s).cl = s.cl := rfl
@[simp] theorem Eff.setCodec_codec (e : Nat) (v : Codec) :
    ((Eff.setCodec e v).apply s).codec = Tab.upd Codec.init s.codec e v := rfl
@[simp] theorem Eff.setCodec_xlt (e : Nat) (v : Codec) : ((Eff.setCodec e v).apply s).xlt = s.xlt := rfl
@[simp] theorem Eff.setCodec_invAll (e : Nat) (v : Codec) : ((Eff.setCodec e v).apply s).invAll = s.invAll := rfl
@[simp] theorem Eff.setCodec_mov (e : Nat) (v : Codec) : ((Eff.setCodec e v).apply s).mov = s.mov := rfl
@[simp] theorem Eff.setCodec_bnd (e : Nat) (v : Codec) : ((Eff.setCodec e v).apply s).bnd = s.bnd := rfl
@[simp] theorem Eff.setCodec_lu (e : Nat) (v : Codec) : ((Eff.setCodec e v).apply s).lu = s.lu := rfl
@[simp] theorem Eff.setCodec_su (e : Nat) (v : Codec) : ((Eff.setCodec e v).apply s).su = s.su := rfl
@[simp] theorem Eff.setCodec_port (e : Nat) (v : Codec) : ((Eff.setCodec e v).apply s).port = s.port := rfl
@[simp] theorem Eff.setCodec_vote (e : Nat) (v : Codec) : ((Eff.setCodec e v).apply s).vote = s.vote := rfl
@[simp] theorem Eff.setCodec_ce (e : Nat) (v : Codec) : ((Eff.setCodec e v).apply s).ce = s.ce := rfl
@[simp] theorem Eff.setCodec_store (e : Nat) (v : Codec) : ((Eff.setCodec e v).apply s).store = s.store := rfl
@[simp] theorem Eff.setCodec_hornWait (e : Nat) (v : Codec) : ((Eff.setCodec e v).apply s).hornWait = s.hornWait := rfl
@[simp] theorem Eff.setCodec_chan (e : Nat) (v : Codec) : ((Eff.setCodec e v).apply s).chan = s.chan := rfl
@[simp] theorem Eff.setCodec_keys (e : Nat) (v : Codec) : ((Eff.setCodec e v).apply s).keys = s.keys := rfl
@[simp] theorem Eff.setCodec_jnl (e : Nat) (v : Codec) : ((Eff.setCodec e v).apply s).jnl = s.jnl := rfl
@[simp] theorem Eff.setCodec_flash (e : Nat) (v : Codec) : ((Eff.setCodec e v).apply s).flash = s.flash := rfl
@[simp] theorem Eff.setCodec_await (e : Nat) (v : Codec) : ((Eff.setCodec e v).apply s).await = s.await := rfl
@[simp] theorem Eff.setCodec_load (e : Nat) (v : Codec) : ((Eff.setCodec e v).apply s).load = s.load := rfl
@[simp] theorem Eff.setCodec_rb (e : Nat) (v : Codec) : ((Eff.setCodec e v).apply s).rb = s.rb := rfl
@[simp] theorem Eff.setCodec_saves (e : Nat) (v : Codec) : ((Eff.setCodec e v).apply s).saves = s.saves := rfl
@[simp] theorem Eff.setCodec_hq (e : Nat) (v : Codec) : ((Eff.setCodec e v).apply s).hq = s.hq := rfl
@[simp] theorem Eff.setCodec_turns (e : Nat) (v : Codec) : ((Eff.setCodec e v).apply s).turns = s.turns := rfl
@[simp] theorem Eff.setCodec_boot (e : Nat) (v : Codec) : ((Eff.setCodec e v).apply s).boot = s.boot := rfl
@[simp] theorem Eff.setCodec_pins (e : Nat) (v : Codec) : ((Eff.setCodec e v).apply s).pins = s.pins := rfl
@[simp] theorem Eff.setCodec_sec (e : Nat) (v : Codec) : ((Eff.setCodec e v).apply s).sec = s.sec := rfl
@[simp] theorem Eff.setCodec_tel (e : Nat) (v : Codec) : ((Eff.setCodec e v).apply s).tel = s.tel := rfl
@[simp] theorem Eff.setCodec_fw (e : Nat) (v : Codec) : ((Eff.setCodec e v).apply s).fw = s.fw := rfl
@[simp] theorem Eff.setCodec_digests (e : Nat) (v : Codec) : ((Eff.setCodec e v).apply s).digests = s.digests := rfl
@[simp] theorem Eff.setCodec_fseq (e : Nat) (v : Codec) : ((Eff.setCodec e v).apply s).fseq = s.fseq := rfl
@[simp] theorem Eff.setCodec_lseq (e : Nat) (v : Codec) : ((Eff.setCodec e v).apply s).lseq = s.lseq := rfl
@[simp] theorem Eff.setCodec_unread (e : Nat) (v : Codec) : ((Eff.setCodec e v).apply s).unread = s.unread := rfl
@[simp] theorem Eff.setCodec_epochs (e : Nat) (v : Codec) : ((Eff.setCodec e v).apply s).epochs = s.epochs := rfl
@[simp] theorem Eff.setCodec_draws (e : Nat) (v : Codec) : ((Eff.setCodec e v).apply s).draws = s.draws := rfl
@[simp] theorem Eff.setCodec_out (e : Nat) (v : Codec) : ((Eff.setCodec e v).apply s).out = s.out := rfl
@[simp] theorem Eff.setCodec_pending (e : Nat) (v : Codec) : ((Eff.setCodec e v).apply s).pending = s.pending := rfl

/-! ### setXlt -/

@[simp] theorem Eff.setXlt_reg (x : Nat) (v : List XEnt) : ((Eff.setXlt x v).apply s).reg = s.reg := rfl
@[simp] theorem Eff.setXlt_pend (x : Nat) (v : List XEnt) : ((Eff.setXlt x v).apply s).pend = s.pend := rfl
@[simp] theorem Eff.setXlt_mem (x : Nat) (v : List XEnt) : ((Eff.setXlt x v).apply s).mem = s.mem := rfl
@[simp] theorem Eff.setXlt_mmeta (x : Nat) (v : List XEnt) : ((Eff.setXlt x v).apply s).mmeta = s.mmeta := rfl
@[simp] theorem Eff.setXlt_err (x : Nat) (v : List XEnt) : ((Eff.setXlt x v).apply s).err = s.err := rfl
@[simp] theorem Eff.setXlt_pilotSecs (x : Nat) (v : List XEnt) : ((Eff.setXlt x v).apply s).pilotSecs = s.pilotSecs := rfl
@[simp] theorem Eff.setXlt_cl (x : Nat) (v : List XEnt) : ((Eff.setXlt x v).apply s).cl = s.cl := rfl
@[simp] theorem Eff.setXlt_codec (x : Nat) (v : List XEnt) : ((Eff.setXlt x v).apply s).codec = s.codec := rfl
@[simp] theorem Eff.setXlt_xlt (x : Nat) (v : List XEnt) :
    ((Eff.setXlt x v).apply s).xlt = Tab.upd [] s.xlt x v := rfl
@[simp] theorem Eff.setXlt_invAll (x : Nat) (v : List XEnt) : ((Eff.setXlt x v).apply s).invAll = s.invAll := rfl
@[simp] theorem Eff.setXlt_mov (x : Nat) (v : List XEnt) : ((Eff.setXlt x v).apply s).mov = s.mov := rfl
@[simp] theorem Eff.setXlt_bnd (x : Nat) (v : List XEnt) : ((Eff.setXlt x v).apply s).bnd = s.bnd := rfl
@[simp] theorem Eff.setXlt_lu (x : Nat) (v : List XEnt) : ((Eff.setXlt x v).apply s).lu = s.lu := rfl
@[simp] theorem Eff.setXlt_su (x : Nat) (v : List XEnt) : ((Eff.setXlt x v).apply s).su = s.su := rfl
@[simp] theorem Eff.setXlt_port (x : Nat) (v : List XEnt) : ((Eff.setXlt x v).apply s).port = s.port := rfl
@[simp] theorem Eff.setXlt_vote (x : Nat) (v : List XEnt) : ((Eff.setXlt x v).apply s).vote = s.vote := rfl
@[simp] theorem Eff.setXlt_ce (x : Nat) (v : List XEnt) : ((Eff.setXlt x v).apply s).ce = s.ce := rfl
@[simp] theorem Eff.setXlt_store (x : Nat) (v : List XEnt) : ((Eff.setXlt x v).apply s).store = s.store := rfl
@[simp] theorem Eff.setXlt_hornWait (x : Nat) (v : List XEnt) : ((Eff.setXlt x v).apply s).hornWait = s.hornWait := rfl
@[simp] theorem Eff.setXlt_chan (x : Nat) (v : List XEnt) : ((Eff.setXlt x v).apply s).chan = s.chan := rfl
@[simp] theorem Eff.setXlt_keys (x : Nat) (v : List XEnt) : ((Eff.setXlt x v).apply s).keys = s.keys := rfl
@[simp] theorem Eff.setXlt_jnl (x : Nat) (v : List XEnt) : ((Eff.setXlt x v).apply s).jnl = s.jnl := rfl
@[simp] theorem Eff.setXlt_flash (x : Nat) (v : List XEnt) : ((Eff.setXlt x v).apply s).flash = s.flash := rfl
@[simp] theorem Eff.setXlt_await (x : Nat) (v : List XEnt) : ((Eff.setXlt x v).apply s).await = s.await := rfl
@[simp] theorem Eff.setXlt_load (x : Nat) (v : List XEnt) : ((Eff.setXlt x v).apply s).load = s.load := rfl
@[simp] theorem Eff.setXlt_rb (x : Nat) (v : List XEnt) : ((Eff.setXlt x v).apply s).rb = s.rb := rfl
@[simp] theorem Eff.setXlt_saves (x : Nat) (v : List XEnt) : ((Eff.setXlt x v).apply s).saves = s.saves := rfl
@[simp] theorem Eff.setXlt_hq (x : Nat) (v : List XEnt) : ((Eff.setXlt x v).apply s).hq = s.hq := rfl
@[simp] theorem Eff.setXlt_turns (x : Nat) (v : List XEnt) : ((Eff.setXlt x v).apply s).turns = s.turns := rfl
@[simp] theorem Eff.setXlt_boot (x : Nat) (v : List XEnt) : ((Eff.setXlt x v).apply s).boot = s.boot := rfl
@[simp] theorem Eff.setXlt_pins (x : Nat) (v : List XEnt) : ((Eff.setXlt x v).apply s).pins = s.pins := rfl
@[simp] theorem Eff.setXlt_sec (x : Nat) (v : List XEnt) : ((Eff.setXlt x v).apply s).sec = s.sec := rfl
@[simp] theorem Eff.setXlt_tel (x : Nat) (v : List XEnt) : ((Eff.setXlt x v).apply s).tel = s.tel := rfl
@[simp] theorem Eff.setXlt_fw (x : Nat) (v : List XEnt) : ((Eff.setXlt x v).apply s).fw = s.fw := rfl
@[simp] theorem Eff.setXlt_digests (x : Nat) (v : List XEnt) : ((Eff.setXlt x v).apply s).digests = s.digests := rfl
@[simp] theorem Eff.setXlt_fseq (x : Nat) (v : List XEnt) : ((Eff.setXlt x v).apply s).fseq = s.fseq := rfl
@[simp] theorem Eff.setXlt_lseq (x : Nat) (v : List XEnt) : ((Eff.setXlt x v).apply s).lseq = s.lseq := rfl
@[simp] theorem Eff.setXlt_unread (x : Nat) (v : List XEnt) : ((Eff.setXlt x v).apply s).unread = s.unread := rfl
@[simp] theorem Eff.setXlt_epochs (x : Nat) (v : List XEnt) : ((Eff.setXlt x v).apply s).epochs = s.epochs := rfl
@[simp] theorem Eff.setXlt_draws (x : Nat) (v : List XEnt) : ((Eff.setXlt x v).apply s).draws = s.draws := rfl
@[simp] theorem Eff.setXlt_out (x : Nat) (v : List XEnt) : ((Eff.setXlt x v).apply s).out = s.out := rfl
@[simp] theorem Eff.setXlt_pending (x : Nat) (v : List XEnt) : ((Eff.setXlt x v).apply s).pending = s.pending := rfl

/-! ### setInvAll -/

@[simp] theorem Eff.setInvAll_reg (v : Bool) : ((Eff.setInvAll v).apply s).reg = s.reg := rfl
@[simp] theorem Eff.setInvAll_pend (v : Bool) : ((Eff.setInvAll v).apply s).pend = s.pend := rfl
@[simp] theorem Eff.setInvAll_mem (v : Bool) : ((Eff.setInvAll v).apply s).mem = s.mem := rfl
@[simp] theorem Eff.setInvAll_mmeta (v : Bool) : ((Eff.setInvAll v).apply s).mmeta = s.mmeta := rfl
@[simp] theorem Eff.setInvAll_err (v : Bool) : ((Eff.setInvAll v).apply s).err = s.err := rfl
@[simp] theorem Eff.setInvAll_pilotSecs (v : Bool) : ((Eff.setInvAll v).apply s).pilotSecs = s.pilotSecs := rfl
@[simp] theorem Eff.setInvAll_cl (v : Bool) : ((Eff.setInvAll v).apply s).cl = s.cl := rfl
@[simp] theorem Eff.setInvAll_codec (v : Bool) : ((Eff.setInvAll v).apply s).codec = s.codec := rfl
@[simp] theorem Eff.setInvAll_xlt (v : Bool) : ((Eff.setInvAll v).apply s).xlt = s.xlt := rfl
@[simp] theorem Eff.setInvAll_invAll (v : Bool) :
    ((Eff.setInvAll v).apply s).invAll = v := rfl
@[simp] theorem Eff.setInvAll_mov (v : Bool) : ((Eff.setInvAll v).apply s).mov = s.mov := rfl
@[simp] theorem Eff.setInvAll_bnd (v : Bool) : ((Eff.setInvAll v).apply s).bnd = s.bnd := rfl
@[simp] theorem Eff.setInvAll_lu (v : Bool) : ((Eff.setInvAll v).apply s).lu = s.lu := rfl
@[simp] theorem Eff.setInvAll_su (v : Bool) : ((Eff.setInvAll v).apply s).su = s.su := rfl
@[simp] theorem Eff.setInvAll_port (v : Bool) : ((Eff.setInvAll v).apply s).port = s.port := rfl
@[simp] theorem Eff.setInvAll_vote (v : Bool) : ((Eff.setInvAll v).apply s).vote = s.vote := rfl
@[simp] theorem Eff.setInvAll_ce (v : Bool) : ((Eff.setInvAll v).apply s).ce = s.ce := rfl
@[simp] theorem Eff.setInvAll_store (v : Bool) : ((Eff.setInvAll v).apply s).store = s.store := rfl
@[simp] theorem Eff.setInvAll_hornWait (v : Bool) : ((Eff.setInvAll v).apply s).hornWait = s.hornWait := rfl
@[simp] theorem Eff.setInvAll_chan (v : Bool) : ((Eff.setInvAll v).apply s).chan = s.chan := rfl
@[simp] theorem Eff.setInvAll_keys (v : Bool) : ((Eff.setInvAll v).apply s).keys = s.keys := rfl
@[simp] theorem Eff.setInvAll_jnl (v : Bool) : ((Eff.setInvAll v).apply s).jnl = s.jnl := rfl
@[simp] theorem Eff.setInvAll_flash (v : Bool) : ((Eff.setInvAll v).apply s).flash = s.flash := rfl
@[simp] theorem Eff.setInvAll_await (v : Bool) : ((Eff.setInvAll v).apply s).await = s.await := rfl
@[simp] theorem Eff.setInvAll_load (v : Bool) : ((Eff.setInvAll v).apply s).load = s.load := rfl
@[simp] theorem Eff.setInvAll_rb (v : Bool) : ((Eff.setInvAll v).apply s).rb = s.rb := rfl
@[simp] theorem Eff.setInvAll_saves (v : Bool) : ((Eff.setInvAll v).apply s).saves = s.saves := rfl
@[simp] theorem Eff.setInvAll_hq (v : Bool) : ((Eff.setInvAll v).apply s).hq = s.hq := rfl
@[simp] theorem Eff.setInvAll_turns (v : Bool) : ((Eff.setInvAll v).apply s).turns = s.turns := rfl
@[simp] theorem Eff.setInvAll_boot (v : Bool) : ((Eff.setInvAll v).apply s).boot = s.boot := rfl
@[simp] theorem Eff.setInvAll_pins (v : Bool) : ((Eff.setInvAll v).apply s).pins = s.pins := rfl
@[simp] theorem Eff.setInvAll_sec (v : Bool) : ((Eff.setInvAll v).apply s).sec = s.sec := rfl
@[simp] theorem Eff.setInvAll_tel (v : Bool) : ((Eff.setInvAll v).apply s).tel = s.tel := rfl
@[simp] theorem Eff.setInvAll_fw (v : Bool) : ((Eff.setInvAll v).apply s).fw = s.fw := rfl
@[simp] theorem Eff.setInvAll_digests (v : Bool) : ((Eff.setInvAll v).apply s).digests = s.digests := rfl
@[simp] theorem Eff.setInvAll_fseq (v : Bool) : ((Eff.setInvAll v).apply s).fseq = s.fseq := rfl
@[simp] theorem Eff.setInvAll_lseq (v : Bool) : ((Eff.setInvAll v).apply s).lseq = s.lseq := rfl
@[simp] theorem Eff.setInvAll_unread (v : Bool) : ((Eff.setInvAll v).apply s).unread = s.unread := rfl
@[simp] theorem Eff.setInvAll_epochs (v : Bool) : ((Eff.setInvAll v).apply s).epochs = s.epochs := rfl
@[simp] theorem Eff.setInvAll_draws (v : Bool) : ((Eff.setInvAll v).apply s).draws = s.draws := rfl
@[simp] theorem Eff.setInvAll_out (v : Bool) : ((Eff.setInvAll v).apply s).out = s.out := rfl
@[simp] theorem Eff.setInvAll_pending (v : Bool) : ((Eff.setInvAll v).apply s).pending = s.pending := rfl

/-! ### setMov -/

@[simp] theorem Eff.setMov_reg (m : Nat) (v : Mover) : ((Eff.setMov m v).apply s).reg = s.reg := rfl
@[simp] theorem Eff.setMov_pend (m : Nat) (v : Mover) : ((Eff.setMov m v).apply s).pend = s.pend := rfl
@[simp] theorem Eff.setMov_mem (m : Nat) (v : Mover) : ((Eff.setMov m v).apply s).mem = s.mem := rfl
@[simp] theorem Eff.setMov_mmeta (m : Nat) (v : Mover) : ((Eff.setMov m v).apply s).mmeta = s.mmeta := rfl
@[simp] theorem Eff.setMov_err (m : Nat) (v : Mover) : ((Eff.setMov m v).apply s).err = s.err := rfl
@[simp] theorem Eff.setMov_pilotSecs (m : Nat) (v : Mover) : ((Eff.setMov m v).apply s).pilotSecs = s.pilotSecs := rfl
@[simp] theorem Eff.setMov_cl (m : Nat) (v : Mover) : ((Eff.setMov m v).apply s).cl = s.cl := rfl
@[simp] theorem Eff.setMov_codec (m : Nat) (v : Mover) : ((Eff.setMov m v).apply s).codec = s.codec := rfl
@[simp] theorem Eff.setMov_xlt (m : Nat) (v : Mover) : ((Eff.setMov m v).apply s).xlt = s.xlt := rfl
@[simp] theorem Eff.setMov_invAll (m : Nat) (v : Mover) : ((Eff.setMov m v).apply s).invAll = s.invAll := rfl
@[simp] theorem Eff.setMov_mov (m : Nat) (v : Mover) :
    ((Eff.setMov m v).apply s).mov = Tab.upd Mover.init s.mov m v := rfl
@[simp] theorem Eff.setMov_bnd (m : Nat) (v : Mover) : ((Eff.setMov m v).apply s).bnd = s.bnd := rfl
@[simp] theorem Eff.setMov_lu (m : Nat) (v : Mover) : ((Eff.setMov m v).apply s).lu = s.lu := rfl
@[simp] theorem Eff.setMov_su (m : Nat) (v : Mover) : ((Eff.setMov m v).apply s).su = s.su := rfl
@[simp] theorem Eff.setMov_port (m : Nat) (v : Mover) : ((Eff.setMov m v).apply s).port = s.port := rfl
@[simp] theorem Eff.setMov_vote (m : Nat) (v : Mover) : ((Eff.setMov m v).apply s).vote = s.vote := rfl
@[simp] theorem Eff.setMov_ce (m : Nat) (v : Mover) : ((Eff.setMov m v).apply s).ce = s.ce := rfl
@[simp] theorem Eff.setMov_store (m : Nat) (v : Mover) : ((Eff.setMov m v).apply s).store = s.store := rfl
@[simp] theorem Eff.setMov_hornWait (m : Nat) (v : Mover) : ((Eff.setMov m v).apply s).hornWait = s.hornWait := rfl
@[simp] theorem Eff.setMov_chan (m : Nat) (v : Mover) : ((Eff.setMov m v).apply s).chan = s.chan := rfl
@[simp] theorem Eff.setMov_keys (m : Nat) (v : Mover) : ((Eff.setMov m v).apply s).keys = s.keys := rfl
@[simp] theorem Eff.setMov_jnl (m : Nat) (v : Mover) : ((Eff.setMov m v).apply s).jnl = s.jnl := rfl
@[simp] theorem Eff.setMov_flash (m : Nat) (v : Mover) : ((Eff.setMov m v).apply s).flash = s.flash := rfl
@[simp] theorem Eff.setMov_await (m : Nat) (v : Mover) : ((Eff.setMov m v).apply s).await = s.await := rfl
@[simp] theorem Eff.setMov_load (m : Nat) (v : Mover) : ((Eff.setMov m v).apply s).load = s.load := rfl
@[simp] theorem Eff.setMov_rb (m : Nat) (v : Mover) : ((Eff.setMov m v).apply s).rb = s.rb := rfl
@[simp] theorem Eff.setMov_saves (m : Nat) (v : Mover) : ((Eff.setMov m v).apply s).saves = s.saves := rfl
@[simp] theorem Eff.setMov_hq (m : Nat) (v : Mover) : ((Eff.setMov m v).apply s).hq = s.hq := rfl
@[simp] theorem Eff.setMov_turns (m : Nat) (v : Mover) : ((Eff.setMov m v).apply s).turns = s.turns := rfl
@[simp] theorem Eff.setMov_boot (m : Nat) (v : Mover) : ((Eff.setMov m v).apply s).boot = s.boot := rfl
@[simp] theorem Eff.setMov_pins (m : Nat) (v : Mover) : ((Eff.setMov m v).apply s).pins = s.pins := rfl
@[simp] theorem Eff.setMov_sec (m : Nat) (v : Mover) : ((Eff.setMov m v).apply s).sec = s.sec := rfl
@[simp] theorem Eff.setMov_tel (m : Nat) (v : Mover) : ((Eff.setMov m v).apply s).tel = s.tel := rfl
@[simp] theorem Eff.setMov_fw (m : Nat) (v : Mover) : ((Eff.setMov m v).apply s).fw = s.fw := rfl
@[simp] theorem Eff.setMov_digests (m : Nat) (v : Mover) : ((Eff.setMov m v).apply s).digests = s.digests := rfl
@[simp] theorem Eff.setMov_fseq (m : Nat) (v : Mover) : ((Eff.setMov m v).apply s).fseq = s.fseq := rfl
@[simp] theorem Eff.setMov_lseq (m : Nat) (v : Mover) : ((Eff.setMov m v).apply s).lseq = s.lseq := rfl
@[simp] theorem Eff.setMov_unread (m : Nat) (v : Mover) : ((Eff.setMov m v).apply s).unread = s.unread := rfl
@[simp] theorem Eff.setMov_epochs (m : Nat) (v : Mover) : ((Eff.setMov m v).apply s).epochs = s.epochs := rfl
@[simp] theorem Eff.setMov_draws (m : Nat) (v : Mover) : ((Eff.setMov m v).apply s).draws = s.draws := rfl
@[simp] theorem Eff.setMov_out (m : Nat) (v : Mover) : ((Eff.setMov m v).apply s).out = s.out := rfl
@[simp] theorem Eff.setMov_pending (m : Nat) (v : Mover) : ((Eff.setMov m v).apply s).pending = s.pending := rfl

/-! ### setBnd -/

@[simp] theorem Eff.setBnd_reg (b : Nat) (v : Binding) : ((Eff.setBnd b v).apply s).reg = s.reg := rfl
@[simp] theorem Eff.setBnd_pend (b : Nat) (v : Binding) : ((Eff.setBnd b v).apply s).pend = s.pend := rfl
@[simp] theorem Eff.setBnd_mem (b : Nat) (v : Binding) : ((Eff.setBnd b v).apply s).mem = s.mem := rfl
@[simp] theorem Eff.setBnd_mmeta (b : Nat) (v : Binding) : ((Eff.setBnd b v).apply s).mmeta = s.mmeta := rfl
@[simp] theorem Eff.setBnd_err (b : Nat) (v : Binding) : ((Eff.setBnd b v).apply s).err = s.err := rfl
@[simp] theorem Eff.setBnd_pilotSecs (b : Nat) (v : Binding) : ((Eff.setBnd b v).apply s).pilotSecs = s.pilotSecs := rfl
@[simp] theorem Eff.setBnd_cl (b : Nat) (v : Binding) : ((Eff.setBnd b v).apply s).cl = s.cl := rfl
@[simp] theorem Eff.setBnd_codec (b : Nat) (v : Binding) : ((Eff.setBnd b v).apply s).codec = s.codec := rfl
@[simp] theorem Eff.setBnd_xlt (b : Nat) (v : Binding) : ((Eff.setBnd b v).apply s).xlt = s.xlt := rfl
@[simp] theorem Eff.setBnd_invAll (b : Nat) (v : Binding) : ((Eff.setBnd b v).apply s).invAll = s.invAll := rfl
@[simp] theorem Eff.setBnd_mov (b : Nat) (v : Binding) : ((Eff.setBnd b v).apply s).mov = s.mov := rfl
@[simp] theorem Eff.setBnd_bnd (b : Nat) (v : Binding) :
    ((Eff.setBnd b v).apply s).bnd = Tab.upd Binding.init s.bnd b v := rfl
@[simp] theorem Eff.setBnd_lu (b : Nat) (v : Binding) : ((Eff.setBnd b v).apply s).lu = s.lu := rfl
@[simp] theorem Eff.setBnd_su (b : Nat) (v : Binding) : ((Eff.setBnd b v).apply s).su = s.su := rfl
@[simp] theorem Eff.setBnd_port (b : Nat) (v : Binding) : ((Eff.setBnd b v).apply s).port = s.port := rfl
@[simp] theorem Eff.setBnd_vote (b : Nat) (v : Binding) : ((Eff.setBnd b v).apply s).vote = s.vote := rfl
@[simp] theorem Eff.setBnd_ce (b : Nat) (v : Binding) : ((Eff.setBnd b v).apply s).ce = s.ce := rfl
@[simp] theorem Eff.setBnd_store (b : Nat) (v : Binding) : ((Eff.setBnd b v).apply s).store = s.store := rfl
@[simp] theorem Eff.setBnd_hornWait (b : Nat) (v : Binding) : ((Eff.setBnd b v).apply s).hornWait = s.hornWait := rfl
@[simp] theorem Eff.setBnd_chan (b : Nat) (v : Binding) : ((Eff.setBnd b v).apply s).chan = s.chan := rfl
@[simp] theorem Eff.setBnd_keys (b : Nat) (v : Binding) : ((Eff.setBnd b v).apply s).keys = s.keys := rfl
@[simp] theorem Eff.setBnd_jnl (b : Nat) (v : Binding) : ((Eff.setBnd b v).apply s).jnl = s.jnl := rfl
@[simp] theorem Eff.setBnd_flash (b : Nat) (v : Binding) : ((Eff.setBnd b v).apply s).flash = s.flash := rfl
@[simp] theorem Eff.setBnd_await (b : Nat) (v : Binding) : ((Eff.setBnd b v).apply s).await = s.await := rfl
@[simp] theorem Eff.setBnd_load (b : Nat) (v : Binding) : ((Eff.setBnd b v).apply s).load = s.load := rfl
@[simp] theorem Eff.setBnd_rb (b : Nat) (v : Binding) : ((Eff.setBnd b v).apply s).rb = s.rb := rfl
@[simp] theorem Eff.setBnd_saves (b : Nat) (v : Binding) : ((Eff.setBnd b v).apply s).saves = s.saves := rfl
@[simp] theorem Eff.setBnd_hq (b : Nat) (v : Binding) : ((Eff.setBnd b v).apply s).hq = s.hq := rfl
@[simp] theorem Eff.setBnd_turns (b : Nat) (v : Binding) : ((Eff.setBnd b v).apply s).turns = s.turns := rfl
@[simp] theorem Eff.setBnd_boot (b : Nat) (v : Binding) : ((Eff.setBnd b v).apply s).boot = s.boot := rfl
@[simp] theorem Eff.setBnd_pins (b : Nat) (v : Binding) : ((Eff.setBnd b v).apply s).pins = s.pins := rfl
@[simp] theorem Eff.setBnd_sec (b : Nat) (v : Binding) : ((Eff.setBnd b v).apply s).sec = s.sec := rfl
@[simp] theorem Eff.setBnd_tel (b : Nat) (v : Binding) : ((Eff.setBnd b v).apply s).tel = s.tel := rfl
@[simp] theorem Eff.setBnd_fw (b : Nat) (v : Binding) : ((Eff.setBnd b v).apply s).fw = s.fw := rfl
@[simp] theorem Eff.setBnd_digests (b : Nat) (v : Binding) : ((Eff.setBnd b v).apply s).digests = s.digests := rfl
@[simp] theorem Eff.setBnd_fseq (b : Nat) (v : Binding) : ((Eff.setBnd b v).apply s).fseq = s.fseq := rfl
@[simp] theorem Eff.setBnd_lseq (b : Nat) (v : Binding) : ((Eff.setBnd b v).apply s).lseq = s.lseq := rfl
@[simp] theorem Eff.setBnd_unread (b : Nat) (v : Binding) : ((Eff.setBnd b v).apply s).unread = s.unread := rfl
@[simp] theorem Eff.setBnd_epochs (b : Nat) (v : Binding) : ((Eff.setBnd b v).apply s).epochs = s.epochs := rfl
@[simp] theorem Eff.setBnd_draws (b : Nat) (v : Binding) : ((Eff.setBnd b v).apply s).draws = s.draws := rfl
@[simp] theorem Eff.setBnd_out (b : Nat) (v : Binding) : ((Eff.setBnd b v).apply s).out = s.out := rfl
@[simp] theorem Eff.setBnd_pending (b : Nat) (v : Binding) : ((Eff.setBnd b v).apply s).pending = s.pending := rfl

/-! ### setLu -/

@[simp] theorem Eff.setLu_reg (u : Nat) (v : Lu) : ((Eff.setLu u v).apply s).reg = s.reg := rfl
@[simp] theorem Eff.setLu_pend (u : Nat) (v : Lu) : ((Eff.setLu u v).apply s).pend = s.pend := rfl
@[simp] theorem Eff.setLu_mem (u : Nat) (v : Lu) : ((Eff.setLu u v).apply s).mem = s.mem := rfl
@[simp] theorem Eff.setLu_mmeta (u : Nat) (v : Lu) : ((Eff.setLu u v).apply s).mmeta = s.mmeta := rfl
@[simp] theorem Eff.setLu_err (u : Nat) (v : Lu) : ((Eff.setLu u v).apply s).err = s.err := rfl
@[simp] theorem Eff.setLu_pilotSecs (u : Nat) (v : Lu) : ((Eff.setLu u v).apply s).pilotSecs = s.pilotSecs := rfl
@[simp] theorem Eff.setLu_cl (u : Nat) (v : Lu) : ((Eff.setLu u v).apply s).cl = s.cl := rfl
@[simp] theorem Eff.setLu_codec (u : Nat) (v : Lu) : ((Eff.setLu u v).apply s).codec = s.codec := rfl
@[simp] theorem Eff.setLu_xlt (u : Nat) (v : Lu) : ((Eff.setLu u v).apply s).xlt = s.xlt := rfl
@[simp] theorem Eff.setLu_invAll (u : Nat) (v : Lu) : ((Eff.setLu u v).apply s).invAll = s.invAll := rfl
@[simp] theorem Eff.setLu_mov (u : Nat) (v : Lu) : ((Eff.setLu u v).apply s).mov = s.mov := rfl
@[simp] theorem Eff.setLu_bnd (u : Nat) (v : Lu) : ((Eff.setLu u v).apply s).bnd = s.bnd := rfl
@[simp] theorem Eff.setLu_lu (u : Nat) (v : Lu) :
    ((Eff.setLu u v).apply s).lu = Tab.upd Lu.init s.lu u v := rfl
@[simp] theorem Eff.setLu_su (u : Nat) (v : Lu) : ((Eff.setLu u v).apply s).su = s.su := rfl
@[simp] theorem Eff.setLu_port (u : Nat) (v : Lu) : ((Eff.setLu u v).apply s).port = s.port := rfl
@[simp] theorem Eff.setLu_vote (u : Nat) (v : Lu) : ((Eff.setLu u v).apply s).vote = s.vote := rfl
@[simp] theorem Eff.setLu_ce (u : Nat) (v : Lu) : ((Eff.setLu u v).apply s).ce = s.ce := rfl
@[simp] theorem Eff.setLu_store (u : Nat) (v : Lu) : ((Eff.setLu u v).apply s).store = s.store := rfl
@[simp] theorem Eff.setLu_hornWait (u : Nat) (v : Lu) : ((Eff.setLu u v).apply s).hornWait = s.hornWait := rfl
@[simp] theorem Eff.setLu_chan (u : Nat) (v : Lu) : ((Eff.setLu u v).apply s).chan = s.chan := rfl
@[simp] theorem Eff.setLu_keys (u : Nat) (v : Lu) : ((Eff.setLu u v).apply s).keys = s.keys := rfl
@[simp] theorem Eff.setLu_jnl (u : Nat) (v : Lu) : ((Eff.setLu u v).apply s).jnl = s.jnl := rfl
@[simp] theorem Eff.setLu_flash (u : Nat) (v : Lu) : ((Eff.setLu u v).apply s).flash = s.flash := rfl
@[simp] theorem Eff.setLu_await (u : Nat) (v : Lu) : ((Eff.setLu u v).apply s).await = s.await := rfl
@[simp] theorem Eff.setLu_load (u : Nat) (v : Lu) : ((Eff.setLu u v).apply s).load = s.load := rfl
@[simp] theorem Eff.setLu_rb (u : Nat) (v : Lu) : ((Eff.setLu u v).apply s).rb = s.rb := rfl
@[simp] theorem Eff.setLu_saves (u : Nat) (v : Lu) : ((Eff.setLu u v).apply s).saves = s.saves := rfl
@[simp] theorem Eff.setLu_hq (u : Nat) (v : Lu) : ((Eff.setLu u v).apply s).hq = s.hq := rfl
@[simp] theorem Eff.setLu_turns (u : Nat) (v : Lu) : ((Eff.setLu u v).apply s).turns = s.turns := rfl
@[simp] theorem Eff.setLu_boot (u : Nat) (v : Lu) : ((Eff.setLu u v).apply s).boot = s.boot := rfl
@[simp] theorem Eff.setLu_pins (u : Nat) (v : Lu) : ((Eff.setLu u v).apply s).pins = s.pins := rfl
@[simp] theorem Eff.setLu_sec (u : Nat) (v : Lu) : ((Eff.setLu u v).apply s).sec = s.sec := rfl
@[simp] theorem Eff.setLu_tel (u : Nat) (v : Lu) : ((Eff.setLu u v).apply s).tel = s.tel := rfl
@[simp] theorem Eff.setLu_fw (u : Nat) (v : Lu) : ((Eff.setLu u v).apply s).fw = s.fw := rfl
@[simp] theorem Eff.setLu_digests (u : Nat) (v : Lu) : ((Eff.setLu u v).apply s).digests = s.digests := rfl
@[simp] theorem Eff.setLu_fseq (u : Nat) (v : Lu) : ((Eff.setLu u v).apply s).fseq = s.fseq := rfl
@[simp] theorem Eff.setLu_lseq (u : Nat) (v : Lu) : ((Eff.setLu u v).apply s).lseq = s.lseq := rfl
@[simp] theorem Eff.setLu_unread (u : Nat) (v : Lu) : ((Eff.setLu u v).apply s).unread = s.unread := rfl
@[simp] theorem Eff.setLu_epochs (u : Nat) (v : Lu) : ((Eff.setLu u v).apply s).epochs = s.epochs := rfl
@[simp] theorem Eff.setLu_draws (u : Nat) (v : Lu) : ((Eff.setLu u v).apply s).draws = s.draws := rfl
@[simp] theorem Eff.setLu_out (u : Nat) (v : Lu) : ((Eff.setLu u v).apply s).out = s.out := rfl
@[simp] theorem Eff.setLu_pending (u : Nat) (v : Lu) : ((Eff.setLu u v).apply s).pending = s.pending := rfl

/-! ### setSu -/

@[simp] theorem Eff.setSu_reg (u : Nat) (v : Su) : ((Eff.setSu u v).apply s).reg = s.reg := rfl
@[simp] theorem Eff.setSu_pend (u : Nat) (v : Su) : ((Eff.setSu u v).apply s).pend = s.pend := rfl
@[simp] theorem Eff.setSu_mem (u : Nat) (v : Su) : ((Eff.setSu u v).apply s).mem = s.mem := rfl
@[simp] theorem Eff.setSu_mmeta (u : Nat) (v : Su) : ((Eff.setSu u v).apply s).mmeta = s.mmeta := rfl
@[simp] theorem Eff.setSu_err (u : Nat) (v : Su) : ((Eff.setSu u v).apply s).err = s.err := rfl
@[simp] theorem Eff.setSu_pilotSecs (u : Nat) (v : Su) : ((Eff.setSu u v).apply s).pilotSecs = s.pilotSecs := rfl
@[simp] theorem Eff.setSu_cl (u : Nat) (v : Su) : ((Eff.setSu u v).apply s).cl = s.cl := rfl
@[simp] theorem Eff.setSu_codec (u : Nat) (v : Su) : ((Eff.setSu u v).apply s).codec = s.codec := rfl
@[simp] theorem Eff.setSu_xlt (u : Nat) (v : Su) : ((Eff.setSu u v).apply s).xlt = s.xlt := rfl
@[simp] theorem Eff.setSu_invAll (u : Nat) (v : Su) : ((Eff.setSu u v).apply s).invAll = s.invAll := rfl
@[simp] theorem Eff.setSu_mov (u : Nat) (v : Su) : ((Eff.setSu u v).apply s).mov = s.mov := rfl
@[simp] theorem Eff.setSu_bnd (u : Nat) (v : Su) : ((Eff.setSu u v).apply s).bnd = s.bnd := rfl
@[simp] theorem Eff.setSu_lu (u : Nat) (v : Su) : ((Eff.setSu u v).apply s).lu = s.lu := rfl
@[simp] theorem Eff.setSu_su (u : Nat) (v : Su) :
    ((Eff.setSu u v).apply s).su = Tab.upd Su.init s.su u v := rfl
@[simp] theorem Eff.setSu_port (u : Nat) (v : Su) : ((Eff.setSu u v).apply s).port = s.port := rfl
@[simp] theorem Eff.setSu_vote (u : Nat) (v : Su) : ((Eff.setSu u v).apply s).vote = s.vote := rfl
@[simp] theorem Eff.setSu_ce (u : Nat) (v : Su) : ((Eff.setSu u v).apply s).ce = s.ce := rfl
@[simp] theorem Eff.setSu_store (u : Nat) (v : Su) : ((Eff.setSu u v).apply s).store = s.store := rfl
@[simp] theorem Eff.setSu_hornWait (u : Nat) (v : Su) : ((Eff.setSu u v).apply s).hornWait = s.hornWait := rfl
@[simp] theorem Eff.setSu_chan (u : Nat) (v : Su) : ((Eff.setSu u v).apply s).chan = s.chan := rfl
@[simp] theorem Eff.setSu_keys (u : Nat) (v : Su) : ((Eff.setSu u v).apply s).keys = s.keys := rfl
@[simp] theorem Eff.setSu_jnl (u : Nat) (v : Su) : ((Eff.setSu u v).apply s).jnl = s.jnl := rfl
@[simp] theorem Eff.setSu_flash (u : Nat) (v : Su) : ((Eff.setSu u v).apply s).flash = s.flash := rfl
@[simp] theorem Eff.setSu_await (u : Nat) (v : Su) : ((Eff.setSu u v).apply s).await = s.await := rfl
@[simp] theorem Eff.setSu_load (u : Nat) (v : Su) : ((Eff.setSu u v).apply s).load = s.load := rfl
@[simp] theorem Eff.setSu_rb (u : Nat) (v : Su) : ((Eff.setSu u v).apply s).rb = s.rb := rfl
@[simp] theorem Eff.setSu_saves (u : Nat) (v : Su) : ((Eff.setSu u v).apply s).saves = s.saves := rfl
@[simp] theorem Eff.setSu_hq (u : Nat) (v : Su) : ((Eff.setSu u v).apply s).hq = s.hq := rfl
@[simp] theorem Eff.setSu_turns (u : Nat) (v : Su) : ((Eff.setSu u v).apply s).turns = s.turns := rfl
@[simp] theorem Eff.setSu_boot (u : Nat) (v : Su) : ((Eff.setSu u v).apply s).boot = s.boot := rfl
@[simp] theorem Eff.setSu_pins (u : Nat) (v : Su) : ((Eff.setSu u v).apply s).pins = s.pins := rfl
@[simp] theorem Eff.setSu_sec (u : Nat) (v : Su) : ((Eff.setSu u v).apply s).sec = s.sec := rfl
@[simp] theorem Eff.setSu_tel (u : Nat) (v : Su) : ((Eff.setSu u v).apply s).tel = s.tel := rfl
@[simp] theorem Eff.setSu_fw (u : Nat) (v : Su) : ((Eff.setSu u v).apply s).fw = s.fw := rfl
@[simp] theorem Eff.setSu_digests (u : Nat) (v : Su) : ((Eff.setSu u v).apply s).digests = s.digests := rfl
@[simp] theorem Eff.setSu_fseq (u : Nat) (v : Su) : ((Eff.setSu u v).apply s).fseq = s.fseq := rfl
@[simp] theorem Eff.setSu_lseq (u : Nat) (v : Su) : ((Eff.setSu u v).apply s).lseq = s.lseq := rfl
@[simp] theorem Eff.setSu_unread (u : Nat) (v : Su) : ((Eff.setSu u v).apply s).unread = s.unread := rfl
@[simp] theorem Eff.setSu_epochs (u : Nat) (v : Su) : ((Eff.setSu u v).apply s).epochs = s.epochs := rfl
@[simp] theorem Eff.setSu_draws (u : Nat) (v : Su) : ((Eff.setSu u v).apply s).draws = s.draws := rfl
@[simp] theorem Eff.setSu_out (u : Nat) (v : Su) : ((Eff.setSu u v).apply s).out = s.out := rfl
@[simp] theorem Eff.setSu_pending (u : Nat) (v : Su) : ((Eff.setSu u v).apply s).pending = s.pending := rfl

/-! ### setPort -/

@[simp] theorem Eff.setPort_reg (p : Nat) (v : Port) : ((Eff.setPort p v).apply s).reg = s.reg := rfl
@[simp] theorem Eff.setPort_pend (p : Nat) (v : Port) : ((Eff.setPort p v).apply s).pend = s.pend := rfl
@[simp] theorem Eff.setPort_mem (p : Nat) (v : Port) : ((Eff.setPort p v).apply s).mem = s.mem := rfl
@[simp] theorem Eff.setPort_mmeta (p : Nat) (v : Port) : ((Eff.setPort p v).apply s).mmeta = s.mmeta := rfl
@[simp] theorem Eff.setPort_err (p : Nat) (v : Port) : ((Eff.setPort p v).apply s).err = s.err := rfl
@[simp] theorem Eff.setPort_pilotSecs (p : Nat) (v : Port) : ((Eff.setPort p v).apply s).pilotSecs = s.pilotSecs := rfl
@[simp] theorem Eff.setPort_cl (p : Nat) (v : Port) : ((Eff.setPort p v).apply s).cl = s.cl := rfl
@[simp] theorem Eff.setPort_codec (p : Nat) (v : Port) : ((Eff.setPort p v).apply s).codec = s.codec := rfl
@[simp] theorem Eff.setPort_xlt (p : Nat) (v : Port) : ((Eff.setPort p v).apply s).xlt = s.xlt := rfl
@[simp] theorem Eff.setPort_invAll (p : Nat) (v : Port) : ((Eff.setPort p v).apply s).invAll = s.invAll := rfl
@[simp] theorem Eff.setPort_mov (p : Nat) (v : Port) : ((Eff.setPort p v).apply s).mov = s.mov := rfl
@[simp] theorem Eff.setPort_bnd (p : Nat) (v : Port) : ((Eff.setPort p v).apply s).bnd = s.bnd := rfl
@[simp] theorem Eff.setPort_lu (p : Nat) (v : Port) : ((Eff.setPort p v).apply s).lu = s.lu := rfl
@[simp] theorem Eff.setPort_su (p : Nat) (v : Port) : ((Eff.setPort p v).apply s).su = s.su := rfl
@[simp] theorem Eff.setPort_port (p : Nat) (v : Port) :
    ((Eff.setPort p v).apply s).port = Tab.upd Port.init s.port p v := rfl
@[simp] theorem Eff.setPort_vote (p : Nat) (v : Port) : ((Eff.setPort p v).apply s).vote = s.vote := rfl
@[simp] theorem Eff.setPort_ce (p : Nat) (v : Port) : ((Eff.setPort p v).apply s).ce = s.ce := rfl
@[simp] theorem Eff.setPort_store (p : Nat) (v : Port) : ((Eff.setPort p v).apply s).store = s.store := rfl
@[simp] theorem Eff.setPort_hornWait (p : Nat) (v : Port) : ((Eff.setPort p v).apply s).hornWait = s.hornWait := rfl
@[simp] theorem Eff.setPort_chan (p : Nat) (v : Port) : ((Eff.setPort p v).apply s).chan = s.chan := rfl
@[simp] theorem Eff.setPort_keys (p : Nat) (v : Port) : ((Eff.setPort p v).apply s).keys = s.keys := rfl
@[simp] theorem Eff.setPort_jnl (p : Nat) (v : Port) : ((Eff.setPort p v).apply s).jnl = s.jnl := rfl
@[simp] theorem Eff.setPort_flash (p : Nat) (v : Port) : ((Eff.setPort p v).apply s).flash = s.flash := rfl
@[simp] theorem Eff.setPort_await (p : Nat) (v : Port) : ((Eff.setPort p v).apply s).await = s.await := rfl
@[simp] theorem Eff.setPort_load (p : Nat) (v : Port) : ((Eff.setPort p v).apply s).load = s.load := rfl
@[simp] theorem Eff.setPort_rb (p : Nat) (v : Port) : ((Eff.setPort p v).apply s).rb = s.rb := rfl
@[simp] theorem Eff.setPort_saves (p : Nat) (v : Port) : ((Eff.setPort p v).apply s).saves = s.saves := rfl
@[simp] theorem Eff.setPort_hq (p : Nat) (v : Port) : ((Eff.setPort p v).apply s).hq = s.hq := rfl
@[simp] theorem Eff.setPort_turns (p : Nat) (v : Port) : ((Eff.setPort p v).apply s).turns = s.turns := rfl
@[simp] theorem Eff.setPort_boot (p : Nat) (v : Port) : ((Eff.setPort p v).apply s).boot = s.boot := rfl
@[simp] theorem Eff.setPort_pins (p : Nat) (v : Port) : ((Eff.setPort p v).apply s).pins = s.pins := rfl
@[simp] theorem Eff.setPort_sec (p : Nat) (v : Port) : ((Eff.setPort p v).apply s).sec = s.sec := rfl
@[simp] theorem Eff.setPort_tel (p : Nat) (v : Port) : ((Eff.setPort p v).apply s).tel = s.tel := rfl
@[simp] theorem Eff.setPort_fw (p : Nat) (v : Port) : ((Eff.setPort p v).apply s).fw = s.fw := rfl
@[simp] theorem Eff.setPort_digests (p : Nat) (v : Port) : ((Eff.setPort p v).apply s).digests = s.digests := rfl
@[simp] theorem Eff.setPort_fseq (p : Nat) (v : Port) : ((Eff.setPort p v).apply s).fseq = s.fseq := rfl
@[simp] theorem Eff.setPort_lseq (p : Nat) (v : Port) : ((Eff.setPort p v).apply s).lseq = s.lseq := rfl
@[simp] theorem Eff.setPort_unread (p : Nat) (v : Port) : ((Eff.setPort p v).apply s).unread = s.unread := rfl
@[simp] theorem Eff.setPort_epochs (p : Nat) (v : Port) : ((Eff.setPort p v).apply s).epochs = s.epochs := rfl
@[simp] theorem Eff.setPort_draws (p : Nat) (v : Port) : ((Eff.setPort p v).apply s).draws = s.draws := rfl
@[simp] theorem Eff.setPort_out (p : Nat) (v : Port) : ((Eff.setPort p v).apply s).out = s.out := rfl
@[simp] theorem Eff.setPort_pending (p : Nat) (v : Port) : ((Eff.setPort p v).apply s).pending = s.pending := rfl

/-! ### setVote -/

@[simp] theorem Eff.setVote_reg (b : Nat) (v : Vote) : ((Eff.setVote b v).apply s).reg = s.reg := rfl
@[simp] theorem Eff.setVote_pend (b : Nat) (v : Vote) : ((Eff.setVote b v).apply s).pend = s.pend := rfl
@[simp] theorem Eff.setVote_mem (b : Nat) (v : Vote) : ((Eff.setVote b v).apply s).mem = s.mem := rfl
@[simp] theorem Eff.setVote_mmeta (b : Nat) (v : Vote) : ((Eff.setVote b v).apply s).mmeta = s.mmeta := rfl
@[simp] theorem Eff.setVote_err (b : Nat) (v : Vote) : ((Eff.setVote b v).apply s).err = s.err := rfl
@[simp] theorem Eff.setVote_pilotSecs (b : Nat) (v : Vote) : ((Eff.setVote b v).apply s).pilotSecs = s.pilotSecs := rfl
@[simp] theorem Eff.setVote_cl (b : Nat) (v : Vote) : ((Eff.setVote b v).apply s).cl = s.cl := rfl
@[simp] theorem Eff.setVote_codec (b : Nat) (v : Vote) : ((Eff.setVote b v).apply s).codec = s.codec := rfl
@[simp] theorem Eff.setVote_xlt (b : Nat) (v : Vote) : ((Eff.setVote b v).apply s).xlt = s.xlt := rfl
@[simp] theorem Eff.setVote_invAll (b : Nat) (v : Vote) : ((Eff.setVote b v).apply s).invAll = s.invAll := rfl
@[simp] theorem Eff.setVote_mov (b : Nat) (v : Vote) : ((Eff.setVote b v).apply s).mov = s.mov := rfl
@[simp] theorem Eff.setVote_bnd (b : Nat) (v : Vote) : ((Eff.setVote b v).apply s).bnd = s.bnd := rfl
@[simp] theorem Eff.setVote_lu (b : Nat) (v : Vote) : ((Eff.setVote b v).apply s).lu = s.lu := rfl
@[simp] theorem Eff.setVote_su (b : Nat) (v : Vote) : ((Eff.setVote b v).apply s).su = s.su := rfl
@[simp] theorem Eff.setVote_port (b : Nat) (v : Vote) : ((Eff.setVote b v).apply s).port = s.port := rfl
@[simp] theorem Eff.setVote_vote (b : Nat) (v : Vote) :
    ((Eff.setVote b v).apply s).vote = Tab.upd Vote.init s.vote b v := rfl
@[simp] theorem Eff.setVote_ce (b : Nat) (v : Vote) : ((Eff.setVote b v).apply s).ce = s.ce := rfl
@[simp] theorem Eff.setVote_store (b : Nat) (v : Vote) : ((Eff.setVote b v).apply s).store = s.store := rfl
@[simp] theorem Eff.setVote_hornWait (b : Nat) (v : Vote) : ((Eff.setVote b v).apply s).hornWait = s.hornWait := rfl
@[simp] theorem Eff.setVote_chan (b : Nat) (v : Vote) : ((Eff.setVote b v).apply s).chan = s.chan := rfl
@[simp] theorem Eff.setVote_keys (b : Nat) (v : Vote) : ((Eff.setVote b v).apply s).keys = s.keys := rfl
@[simp] theorem Eff.setVote_jnl (b : Nat) (v : Vote) : ((Eff.setVote b v).apply s).jnl = s.jnl := rfl
@[simp] theorem Eff.setVote_flash (b : Nat) (v : Vote) : ((Eff.setVote b v).apply s).flash = s.flash := rfl
@[simp] theorem Eff.setVote_await (b : Nat) (v : Vote) : ((Eff.setVote b v).apply s).await = s.await := rfl
@[simp] theorem Eff.setVote_load (b : Nat) (v : Vote) : ((Eff.setVote b v).apply s).load = s.load := rfl
@[simp] theorem Eff.setVote_rb (b : Nat) (v : Vote) : ((Eff.setVote b v).apply s).rb = s.rb := rfl
@[simp] theorem Eff.setVote_saves (b : Nat) (v : Vote) : ((Eff.setVote b v).apply s).saves = s.saves := rfl
@[simp] theorem Eff.setVote_hq (b : Nat) (v : Vote) : ((Eff.setVote b v).apply s).hq = s.hq := rfl
@[simp] theorem Eff.setVote_turns (b : Nat) (v : Vote) : ((Eff.setVote b v).apply s).turns = s.turns := rfl
@[simp] theorem Eff.setVote_boot (b : Nat) (v : Vote) : ((Eff.setVote b v).apply s).boot = s.boot := rfl
@[simp] theorem Eff.setVote_pins (b : Nat) (v : Vote) : ((Eff.setVote b v).apply s).pins = s.pins := rfl
@[simp] theorem Eff.setVote_sec (b : Nat) (v : Vote) : ((Eff.setVote b v).apply s).sec = s.sec := rfl
@[simp] theorem Eff.setVote_tel (b : Nat) (v : Vote) : ((Eff.setVote b v).apply s).tel = s.tel := rfl
@[simp] theorem Eff.setVote_fw (b : Nat) (v : Vote) : ((Eff.setVote b v).apply s).fw = s.fw := rfl
@[simp] theorem Eff.setVote_digests (b : Nat) (v : Vote) : ((Eff.setVote b v).apply s).digests = s.digests := rfl
@[simp] theorem Eff.setVote_fseq (b : Nat) (v : Vote) : ((Eff.setVote b v).apply s).fseq = s.fseq := rfl
@[simp] theorem Eff.setVote_lseq (b : Nat) (v : Vote) : ((Eff.setVote b v).apply s).lseq = s.lseq := rfl
@[simp] theorem Eff.setVote_unread (b : Nat) (v : Vote) : ((Eff.setVote b v).apply s).unread = s.unread := rfl
@[simp] theorem Eff.setVote_epochs (b : Nat) (v : Vote) : ((Eff.setVote b v).apply s).epochs = s.epochs := rfl
@[simp] theorem Eff.setVote_draws (b : Nat) (v : Vote) : ((Eff.setVote b v).apply s).draws = s.draws := rfl
@[simp] theorem Eff.setVote_out (b : Nat) (v : Vote) : ((Eff.setVote b v).apply s).out = s.out := rfl
@[simp] theorem Eff.setVote_pending (b : Nat) (v : Vote) : ((Eff.setVote b v).apply s).pending = s.pending := rfl

/-! ### setCe -/

@[simp] theorem Eff.setCe_reg (n : Nat) (v : Ce) : ((Eff.setCe n v).apply s).reg = s.reg := rfl
@[simp] theorem Eff.setCe_pend (n : Nat) (v : Ce) : ((Eff.setCe n v).apply s).pend = s.pend := rfl
@[simp] theorem Eff.setCe_mem (n : Nat) (v : Ce) : ((Eff.setCe n v).apply s).mem = s.mem := rfl
@[simp] theorem Eff.setCe_mmeta (n : Nat) (v : Ce) : ((Eff.setCe n v).apply s).mmeta = s.mmeta := rfl
@[simp] theorem Eff.setCe_err (n : Nat) (v : Ce) : ((Eff.setCe n v).apply s).err = s.err := rfl
@[simp] theorem Eff.setCe_pilotSecs (n : Nat) (v : Ce) : ((Eff.setCe n v).apply s).pilotSecs = s.pilotSecs := rfl
@[simp] theorem Eff.setCe_cl (n : Nat) (v : Ce) : ((Eff.setCe n v).apply s).cl = s.cl := rfl
@[simp] theorem Eff.setCe_codec (n : Nat) (v : Ce) : ((Eff.setCe n v).apply s).codec = s.codec := rfl
@[simp] theorem Eff.setCe_xlt (n : Nat) (v : Ce) : ((Eff.setCe n v).apply s).xlt = s.xlt := rfl
@[simp] theorem Eff.setCe_invAll (n : Nat) (v : Ce) : ((Eff.setCe n v).apply s).invAll = s.invAll := rfl
@[simp] theorem Eff.setCe_mov (n : Nat) (v : Ce) : ((Eff.setCe n v).apply s).mov = s.mov := rfl
@[simp] theorem Eff.setCe_bnd (n : Nat) (v : Ce) : ((Eff.setCe n v).apply s).bnd = s.bnd := rfl
@[simp] theorem Eff.setCe_lu (n : Nat) (v : Ce) : ((Eff.setCe n v).apply s).lu = s.lu := rfl
@[simp] theorem Eff.setCe_su (n : Nat) (v : Ce) : ((Eff.setCe n v).apply s).su = s.su := rfl
@[simp] theorem Eff.setCe_port (n : Nat) (v : Ce) : ((Eff.setCe n v).apply s).port = s.port := rfl
@[simp] theorem Eff.setCe_vote (n : Nat) (v : Ce) : ((Eff.setCe n v).apply s).vote = s.vote := rfl
@[simp] theorem Eff.setCe_ce (n : Nat) (v : Ce) :
    ((Eff.setCe n v).apply s).ce = Tab.upd Ce.init s.ce n v := rfl
@[simp] theorem Eff.setCe_store (n : Nat) (v : Ce) : ((Eff.setCe n v).apply s).store = s.store := rfl
@[simp] theorem Eff.setCe_hornWait (n : Nat) (v : Ce) : ((Eff.setCe n v).apply s).hornWait = s.hornWait := rfl
@[simp] theorem Eff.setCe_chan (n : Nat) (v : Ce) : ((Eff.setCe n v).apply s).chan = s.chan := rfl
@[simp] theorem Eff.setCe_keys (n : Nat) (v : Ce) : ((Eff.setCe n v).apply s).keys = s.keys := rfl
@[simp] theorem Eff.setCe_jnl (n : Nat) (v : Ce) : ((Eff.setCe n v).apply s).jnl = s.jnl := rfl
@[simp] theorem Eff.setCe_flash (n : Nat) (v : Ce) : ((Eff.setCe n v).apply s).flash = s.flash := rfl
@[simp] theorem Eff.setCe_await (n : Nat) (v : Ce) : ((Eff.setCe n v).apply s).await = s.await := rfl
@[simp] theorem Eff.setCe_load (n : Nat) (v : Ce) : ((Eff.setCe n v).apply s).load = s.load := rfl
@[simp] theorem Eff.setCe_rb (n : Nat) (v : Ce) : ((Eff.setCe n v).apply s).rb = s.rb := rfl
@[simp] theorem Eff.setCe_saves (n : Nat) (v : Ce) : ((Eff.setCe n v).apply s).saves = s.saves := rfl
@[simp] theorem Eff.setCe_hq (n : Nat) (v : Ce) : ((Eff.setCe n v).apply s).hq = s.hq := rfl
@[simp] theorem Eff.setCe_turns (n : Nat) (v : Ce) : ((Eff.setCe n v).apply s).turns = s.turns := rfl
@[simp] theorem Eff.setCe_boot (n : Nat) (v : Ce) : ((Eff.setCe n v).apply s).boot = s.boot := rfl
@[simp] theorem Eff.setCe_pins (n : Nat) (v : Ce) : ((Eff.setCe n v).apply s).pins = s.pins := rfl
@[simp] theorem Eff.setCe_sec (n : Nat) (v : Ce) : ((Eff.setCe n v).apply s).sec = s.sec := rfl
@[simp] theorem Eff.setCe_tel (n : Nat) (v : Ce) : ((Eff.setCe n v).apply s).tel = s.tel := rfl
@[simp] theorem Eff.setCe_fw (n : Nat) (v : Ce) : ((Eff.setCe n v).apply s).fw = s.fw := rfl
@[simp] theorem Eff.setCe_digests (n : Nat) (v : Ce) : ((Eff.setCe n v).apply s).digests = s.digests := rfl
@[simp] theorem Eff.setCe_fseq (n : Nat) (v : Ce) : ((Eff.setCe n v).apply s).fseq = s.fseq := rfl
@[simp] theorem Eff.setCe_lseq (n : Nat) (v : Ce) : ((Eff.setCe n v).apply s).lseq = s.lseq := rfl
@[simp] theorem Eff.setCe_unread (n : Nat) (v : Ce) : ((Eff.setCe n v).apply s).unread = s.unread := rfl
@[simp] theorem Eff.setCe_epochs (n : Nat) (v : Ce) : ((Eff.setCe n v).apply s).epochs = s.epochs := rfl
@[simp] theorem Eff.setCe_draws (n : Nat) (v : Ce) : ((Eff.setCe n v).apply s).draws = s.draws := rfl
@[simp] theorem Eff.setCe_out (n : Nat) (v : Ce) : ((Eff.setCe n v).apply s).out = s.out := rfl
@[simp] theorem Eff.setCe_pending (n : Nat) (v : Ce) : ((Eff.setCe n v).apply s).pending = s.pending := rfl

/-! ### storeByte -/

@[simp] theorem Eff.storeByte_reg (a : Nat) (v : Byte) : ((Eff.storeByte a v).apply s).reg = s.reg := rfl
@[simp] theorem Eff.storeByte_pend (a : Nat) (v : Byte) : ((Eff.storeByte a v).apply s).pend = s.pend := rfl
@[simp] theorem Eff.storeByte_mem (a : Nat) (v : Byte) : ((Eff.storeByte a v).apply s).mem = s.mem := rfl
@[simp] theorem Eff.storeByte_mmeta (a : Nat) (v : Byte) : ((Eff.storeByte a v).apply s).mmeta = s.mmeta := rfl
@[simp] theorem Eff.storeByte_err (a : Nat) (v : Byte) : ((Eff.storeByte a v).apply s).err = s.err := rfl
@[simp] theorem Eff.storeByte_pilotSecs (a : Nat) (v : Byte) : ((Eff.storeByte a v).apply s).pilotSecs = s.pilotSecs := rfl
@[simp] theorem Eff.storeByte_cl (a : Nat) (v : Byte) : ((Eff.storeByte a v).apply s).cl = s.cl := rfl
@[simp] theorem Eff.storeByte_codec (a : Nat) (v : Byte) : ((Eff.storeByte a v).apply s).codec = s.codec := rfl
@[simp] theorem Eff.storeByte_xlt (a : Nat) (v : Byte) : ((Eff.storeByte a v).apply s).xlt = s.xlt := rfl
@[simp] theorem Eff.storeByte_invAll (a : Nat) (v : Byte) : ((Eff.storeByte a v).apply s).invAll = s.invAll := rfl
@[simp] theorem Eff.storeByte_mov (a : Nat) (v : Byte) : ((Eff.storeByte a v).apply s).mov = s.mov := rfl
@[simp] theorem Eff.storeByte_bnd (a : Nat) (v : Byte) : ((Eff.storeByte a v).apply s).bnd = s.bnd := rfl
@[simp] theorem Eff.storeByte_lu (a : Nat) (v : Byte) : ((Eff.storeByte a v).apply s).lu = s.lu := rfl
@[simp] theorem Eff.storeByte_su (a : Nat) (v : Byte) : ((Eff.storeByte a v).apply s).su = s.su := rfl
@[simp] theorem Eff.storeByte_port (a : Nat) (v : Byte) : ((Eff.storeByte a v).apply s).port = s.port := rfl
@[simp] theorem Eff.storeByte_vote (a : Nat) (v : Byte) : ((Eff.storeByte a v).apply s).vote = s.vote := rfl
@[simp] theorem Eff.storeByte_ce (a : Nat) (v : Byte) : ((Eff.storeByte a v).apply s).ce = s.ce := rfl
@[simp] theorem Eff.storeByte_store (a : Nat) (v : Byte) :
    ((Eff.storeByte a v).apply s).store = Tab.upd none s.store a (some v) := rfl
@[simp] theorem Eff.storeByte_hornWait (a : Nat) (v : Byte) : ((Eff.storeByte a v).apply s).hornWait = s.hornWait := rfl
@[simp] theorem Eff.storeByte_chan (a : Nat) (v : Byte) : ((Eff.storeByte a v).apply s).chan = s.chan := rfl
@[simp] theorem Eff.storeByte_keys (a : Nat) (v : Byte) : ((Eff.storeByte a v).apply s).keys = s.keys := rfl
@[simp] theorem Eff.storeByte_jnl (a : Nat) (v : Byte) : ((Eff.storeByte a v).apply s).jnl = s.jnl := rfl
@[simp] theorem Eff.storeByte_flash (a : Nat) (v : Byte) : ((Eff.storeByte a v).apply s).flash = s.flash := rfl
@[simp] theorem Eff.storeByte_await (a : Nat) (v : Byte) : ((Eff.storeByte a v).apply s).await = s.await := rfl
@[simp] theorem Eff.storeByte_load (a : Nat) (v : Byte) : ((Eff.storeByte a v).apply s).load = s.load := rfl
@[simp] theorem Eff.storeByte_rb (a : Nat) (v : Byte) : ((Eff.storeByte a v).apply s).rb = s.rb := rfl
@[simp] theorem Eff.storeByte_saves (a : Nat) (v : Byte) : ((Eff.storeByte a v).apply s).saves = s.saves := rfl
@[simp] theorem Eff.storeByte_hq (a : Nat) (v : Byte) : ((Eff.storeByte a v).apply s).hq = s.hq := rfl
@[simp] theorem Eff.storeByte_turns (a : Nat) (v : Byte) : ((Eff.storeByte a v).apply s).turns = s.turns := rfl
@[simp] theorem Eff.storeByte_boot (a : Nat) (v : Byte) : ((Eff.storeByte a v).apply s).boot = s.boot := rfl
@[simp] theorem Eff.storeByte_pins (a : Nat) (v : Byte) : ((Eff.storeByte a v).apply s).pins = s.pins := rfl
@[simp] theorem Eff.storeByte_sec (a : Nat) (v : Byte) : ((Eff.storeByte a v).apply s).sec = s.sec := rfl
@[simp] theorem Eff.storeByte_tel (a : Nat) (v : Byte) : ((Eff.storeByte a v).apply s).tel = s.tel := rfl
@[simp] theorem Eff.storeByte_fw (a : Nat) (v : Byte) : ((Eff.storeByte a v).apply s).fw = s.fw := rfl
@[simp] theorem Eff.storeByte_digests (a : Nat) (v : Byte) : ((Eff.storeByte a v).apply s).digests = s.digests := rfl
@[simp] theorem Eff.storeByte_fseq (a : Nat) (v : Byte) : ((Eff.storeByte a v).apply s).fseq = s.fseq := rfl
@[simp] theorem Eff.storeByte_lseq (a : Nat) (v : Byte) : ((Eff.storeByte a v).apply s).lseq = s.lseq := rfl
@[simp] theorem Eff.storeByte_unread (a : Nat) (v : Byte) : ((Eff.storeByte a v).apply s).unread = s.unread := rfl
@[simp] theorem Eff.storeByte_epochs (a : Nat) (v : Byte) : ((Eff.storeByte a v).apply s).epochs = s.epochs := rfl
@[simp] theorem Eff.storeByte_draws (a : Nat) (v : Byte) : ((Eff.storeByte a v).apply s).draws = s.draws := rfl
@[simp] theorem Eff.storeByte_out (a : Nat) (v : Byte) : ((Eff.storeByte a v).apply s).out = s.out := rfl
@[simp] theorem Eff.storeByte_pending (a : Nat) (v : Byte) : ((Eff.storeByte a v).apply s).pending = s.pending := rfl

/-! ### clearStore -/

@[simp] theorem Eff.clearStore_reg (u : Nat) : ((Eff.clearStore u).apply s).reg = s.reg := rfl
@[simp] theorem Eff.clearStore_pend (u : Nat) : ((Eff.clearStore u).apply s).pend = s.pend := rfl
@[simp] theorem Eff.clearStore_mem (u : Nat) : ((Eff.clearStore u).apply s).mem = s.mem := rfl
@[simp] theorem Eff.clearStore_mmeta (u : Nat) : ((Eff.clearStore u).apply s).mmeta = s.mmeta := rfl
@[simp] theorem Eff.clearStore_err (u : Nat) : ((Eff.clearStore u).apply s).err = s.err := rfl
@[simp] theorem Eff.clearStore_pilotSecs (u : Nat) : ((Eff.clearStore u).apply s).pilotSecs = s.pilotSecs := rfl
@[simp] theorem Eff.clearStore_cl (u : Nat) : ((Eff.clearStore u).apply s).cl = s.cl := rfl
@[simp] theorem Eff.clearStore_codec (u : Nat) : ((Eff.clearStore u).apply s).codec = s.codec := rfl
@[simp] theorem Eff.clearStore_xlt (u : Nat) : ((Eff.clearStore u).apply s).xlt = s.xlt := rfl
@[simp] theorem Eff.clearStore_invAll (u : Nat) : ((Eff.clearStore u).apply s).invAll = s.invAll := rfl
@[simp] theorem Eff.clearStore_mov (u : Nat) : ((Eff.clearStore u).apply s).mov = s.mov := rfl
@[simp] theorem Eff.clearStore_bnd (u : Nat) : ((Eff.clearStore u).apply s).bnd = s.bnd := rfl
@[simp] theorem Eff.clearStore_lu (u : Nat) : ((Eff.clearStore u).apply s).lu = s.lu := rfl
@[simp] theorem Eff.clearStore_su (u : Nat) : ((Eff.clearStore u).apply s).su = s.su := rfl
@[simp] theorem Eff.clearStore_port (u : Nat) : ((Eff.clearStore u).apply s).port = s.port := rfl
@[simp] theorem Eff.clearStore_vote (u : Nat) : ((Eff.clearStore u).apply s).vote = s.vote := rfl
@[simp] theorem Eff.clearStore_ce (u : Nat) : ((Eff.clearStore u).apply s).ce = s.ce := rfl
@[simp] theorem Eff.clearStore_store (u : Nat) :
    ((Eff.clearStore u).apply s).store = s.store.filter fun p => p.1 / 2 ^ 24 != u := rfl
@[simp] theorem Eff.clearStore_hornWait (u : Nat) : ((Eff.clearStore u).apply s).hornWait = s.hornWait := rfl
@[simp] theorem Eff.clearStore_chan (u : Nat) : ((Eff.clearStore u).apply s).chan = s.chan := rfl
@[simp] theorem Eff.clearStore_keys (u : Nat) : ((Eff.clearStore u).apply s).keys = s.keys := rfl
@[simp] theorem Eff.clearStore_jnl (u : Nat) : ((Eff.clearStore u).apply s).jnl = s.jnl := rfl
@[simp] theorem Eff.clearStore_flash (u : Nat) : ((Eff.clearStore u).apply s).flash = s.flash := rfl
@[simp] theorem Eff.clearStore_await (u : Nat) : ((Eff.clearStore u).apply s).await = s.await := rfl
@[simp] theorem Eff.clearStore_load (u : Nat) : ((Eff.clearStore u).apply s).load = s.load := rfl
@[simp] theorem Eff.clearStore_rb (u : Nat) : ((Eff.clearStore u).apply s).rb = s.rb := rfl
@[simp] theorem Eff.clearStore_saves (u : Nat) : ((Eff.clearStore u).apply s).saves = s.saves := rfl
@[simp] theorem Eff.clearStore_hq (u : Nat) : ((Eff.clearStore u).apply s).hq = s.hq := rfl
@[simp] theorem Eff.clearStore_turns (u : Nat) : ((Eff.clearStore u).apply s).turns = s.turns := rfl
@[simp] theorem Eff.clearStore_boot (u : Nat) : ((Eff.clearStore u).apply s).boot = s.boot := rfl
@[simp] theorem Eff.clearStore_pins (u : Nat) : ((Eff.clearStore u).apply s).pins = s.pins := rfl
@[simp] theorem Eff.clearStore_sec (u : Nat) : ((Eff.clearStore u).apply s).sec = s.sec := rfl
@[simp] theorem Eff.clearStore_tel (u : Nat) : ((Eff.clearStore u).apply s).tel = s.tel := rfl
@[simp] theorem Eff.clearStore_fw (u : Nat) : ((Eff.clearStore u).apply s).fw = s.fw := rfl
@[simp] theorem Eff.clearStore_digests (u : Nat) : ((Eff.clearStore u).apply s).digests = s.digests := rfl
@[simp] theorem Eff.clearStore_fseq (u : Nat) : ((Eff.clearStore u).apply s).fseq = s.fseq := rfl
@[simp] theorem Eff.clearStore_lseq (u : Nat) : ((Eff.clearStore u).apply s).lseq = s.lseq := rfl
@[simp] theorem Eff.clearStore_unread (u : Nat) : ((Eff.clearStore u).apply s).unread = s.unread := rfl
@[simp] theorem Eff.clearStore_epochs (u : Nat) : ((Eff.clearStore u).apply s).epochs = s.epochs := rfl
@[simp] theorem Eff.clearStore_draws (u : Nat) : ((Eff.clearStore u).apply s).draws = s.draws := rfl
@[simp] theorem Eff.clearStore_out (u : Nat) : ((Eff.clearStore u).apply s).out = s.out := rfl
@[simp] theorem Eff.clearStore_pending (u : Nat) : ((Eff.clearStore u).apply s).pending = s.pending := rfl

/-! ### setHornWait -/

@[simp] theorem Eff.setHornWait_reg (v : List Packet) : ((Eff.setHornWait v).apply s).reg = s.reg := rfl
@[simp] theorem Eff.setHornWait_pend (v : List Packet) : ((Eff.setHornWait v).apply s).pend = s.pend := rfl
@[simp] theorem Eff.setHornWait_mem (v : List Packet) : ((Eff.setHornWait v).apply s).mem = s.mem := rfl
@[simp] theorem Eff.setHornWait_mmeta (v : List Packet) : ((Eff.setHornWait v).apply s).mmeta = s.mmeta := rfl
@[simp] theorem Eff.setHornWait_err (v : List Packet) : ((Eff.setHornWait v).apply s).err = s.err := rfl
@[simp] theorem Eff.setHornWait_pilotSecs (v : List Packet) : ((Eff.setHornWait v).apply s).pilotSecs = s.pilotSecs := rfl
@[simp] theorem Eff.setHornWait_cl (v : List Packet) : ((Eff.setHornWait v).apply s).cl = s.cl := rfl
@[simp] theorem Eff.setHornWait_codec (v : List Packet) : ((Eff.setHornWait v).apply s).codec = s.codec := rfl
@[simp] theorem Eff.setHornWait_xlt (v : List Packet) : ((Eff.setHornWait v).apply s).xlt = s.xlt := rfl
@[simp] theorem Eff.setHornWait_invAll (v : List Packet) : ((Eff.setHornWait v).apply s).invAll = s.invAll := rfl
@[simp] theorem Eff.setHornWait_mov (v : List Packet) : ((Eff.setHornWait v).apply s).mov = s.mov := rfl
@[simp] theorem Eff.setHornWait_bnd (v : List Packet) : ((Eff.setHornWait v).apply s).bnd = s.bnd := rfl
@[simp] theorem Eff.setHornWait_lu (v : List Packet) : ((Eff.setHornWait v).apply s).lu = s.lu := rfl
@[simp] theorem Eff.setHornWait_su (v : List Packet) : ((Eff.setHornWait v).apply s).su = s.su := rfl
@[simp] theorem Eff.setHornWait_port (v : List Packet) : ((Eff.setHornWait v).apply s).port = s.port := rfl
@[simp] theorem Eff.setHornWait_vote (v : List Packet) : ((Eff.setHornWait v).apply s).vote = s.vote := rfl
@[simp] theorem Eff.setHornWait_ce (v : List Packet) : ((Eff.setHornWait v).apply s).ce = s.ce := rfl
@[simp] theorem Eff.setHornWait_store (v : List Packet) : ((Eff.setHornWait v).apply s).store = s.store := rfl
@[simp] theorem Eff.setHornWait_hornWait (v : List Packet) :
    ((Eff.setHornWait v).apply s).hornWait = v := rfl
@[simp] theorem Eff.setHornWait_chan (v : List Packet) : ((Eff.setHornWait v).apply s).chan = s.chan := rfl
@[simp] theorem Eff.setHornWait_keys (v : List Packet) : ((Eff.setHornWait v).apply s).keys = s.keys := rfl
@[simp] theorem Eff.setHornWait_jnl (v : List Packet) : ((Eff.setHornWait v).apply s).jnl = s.jnl := rfl
@[simp] theorem Eff.setHornWait_flash (v : List Packet) : ((Eff.setHornWait v).apply s).flash = s.flash := rfl
@[simp] theorem Eff.setHornWait_await (v : List Packet) : ((Eff.setHornWait v).apply s).await = s.await := rfl
@[simp] theorem Eff.setHornWait_load (v : List Packet) : ((Eff.setHornWait v).apply s).load = s.load := rfl
@[simp] theorem Eff.setHornWait_rb (v : List Packet) : ((Eff.setHornWait v).apply s).rb = s.rb := rfl
@[simp] theorem Eff.setHornWait_saves (v : List Packet) : ((Eff.setHornWait v).apply s).saves = s.saves := rfl
@[simp] theorem Eff.setHornWait_hq (v : List Packet) : ((Eff.setHornWait v).apply s).hq = s.hq := rfl
@[simp] theorem Eff.setHornWait_turns (v : List Packet) : ((Eff.setHornWait v).apply s).turns = s.turns := rfl
@[simp] theorem Eff.setHornWait_boot (v : List Packet) : ((Eff.setHornWait v).apply s).boot = s.boot := rfl
@[simp] theorem Eff.setHornWait_pins (v : List Packet) : ((Eff.setHornWait v).apply s).pins = s.pins := rfl
@[simp] theorem Eff.setHornWait_sec (v : List Packet) : ((Eff.setHornWait v).apply s).sec = s.sec := rfl
@[simp] theorem Eff.setHornWait_tel (v : List Packet) : ((Eff.setHornWait v).apply s).tel = s.tel := rfl
@[simp] theorem Eff.setHornWait_fw (v : List Packet) : ((Eff.setHornWait v).apply s).fw = s.fw := rfl
@[simp] theorem Eff.setHornWait_digests (v : List Packet) : ((Eff.setHornWait v).apply s).digests = s.digests := rfl
@[simp] theorem Eff.setHornWait_fseq (v : List Packet) : ((Eff.setHornWait v).apply s).fseq = s.fseq := rfl
@[simp] theorem Eff.setHornWait_lseq (v : List Packet) : ((Eff.setHornWait v).apply s).lseq = s.lseq := rfl
@[simp] theorem Eff.setHornWait_unread (v : List Packet) : ((Eff.setHornWait v).apply s).unread = s.unread := rfl
@[simp] theorem Eff.setHornWait_epochs (v : List Packet) : ((Eff.setHornWait v).apply s).epochs = s.epochs := rfl
@[simp] theorem Eff.setHornWait_draws (v : List Packet) : ((Eff.setHornWait v).apply s).draws = s.draws := rfl
@[simp] theorem Eff.setHornWait_out (v : List Packet) : ((Eff.setHornWait v).apply s).out = s.out := rfl
@[simp] theorem Eff.setHornWait_pending (v : List Packet) : ((Eff.setHornWait v).apply s).pending = s.pending := rfl

/-! ### setChan -/

@[simp] theorem Eff.setChan_reg (c : Nat) (v : Chan) : ((Eff.setChan c v).apply s).reg = s.reg := rfl
@[simp] theorem Eff.setChan_pend (c : Nat) (v : Chan) : ((Eff.setChan c v).apply s).pend = s.pend := rfl
@[simp] theorem Eff.setChan_mem (c : Nat) (v : Chan) : ((Eff.setChan c v).apply s).mem = s.mem := rfl
@[simp] theorem Eff.setChan_mmeta (c : Nat) (v : Chan) : ((Eff.setChan c v).apply s).mmeta = s.mmeta := rfl
@[simp] theorem Eff.setChan_err (c : Nat) (v : Chan) : ((Eff.setChan c v).apply s).err = s.err := rfl
@[simp] theorem Eff.setChan_pilotSecs (c : Nat) (v : Chan) : ((Eff.setChan c v).apply s).pilotSecs = s.pilotSecs := rfl
@[simp] theorem Eff.setChan_cl (c : Nat) (v : Chan) : ((Eff.setChan c v).apply s).cl = s.cl := rfl
@[simp] theorem Eff.setChan_codec (c : Nat) (v : Chan) : ((Eff.setChan c v).apply s).codec = s.codec := rfl
@[simp] theorem Eff.setChan_xlt (c : Nat) (v : Chan) : ((Eff.setChan c v).apply s).xlt = s.xlt := rfl
@[simp] theorem Eff.setChan_invAll (c : Nat) (v : Chan) : ((Eff.setChan c v).apply s).invAll = s.invAll := rfl
@[simp] theorem Eff.setChan_mov (c : Nat) (v : Chan) : ((Eff.setChan c v).apply s).mov = s.mov := rfl
@[simp] theorem Eff.setChan_bnd (c : Nat) (v : Chan) : ((Eff.setChan c v).apply s).bnd = s.bnd := rfl
@[simp] theorem Eff.setChan_lu (c : Nat) (v : Chan) : ((Eff.setChan c v).apply s).lu = s.lu := rfl
@[simp] theorem Eff.setChan_su (c : Nat) (v : Chan) : ((Eff.setChan c v).apply s).su = s.su := rfl
@[simp] theorem Eff.setChan_port (c : Nat) (v : Chan) : ((Eff.setChan c v).apply s).port = s.port := rfl
@[simp] theorem Eff.setChan_vote (c : Nat) (v : Chan) : ((Eff.setChan c v).apply s).vote = s.vote := rfl
@[simp] theorem Eff.setChan_ce (c : Nat) (v : Chan) : ((Eff.setChan c v).apply s).ce = s.ce := rfl
@[simp] theorem Eff.setChan_store (c : Nat) (v : Chan) : ((Eff.setChan c v).apply s).store = s.store := rfl
@[simp] theorem Eff.setChan_hornWait (c : Nat) (v : Chan) : ((Eff.setChan c v).apply s).hornWait = s.hornWait := rfl
@[simp] theorem Eff.setChan_chan (c : Nat) (v : Chan) :
    ((Eff.setChan c v).apply s).chan = Tab.upd Chan.init s.chan c v := rfl
@[simp] theorem Eff.setChan_keys (c : Nat) (v : Chan) : ((Eff.setChan c v).apply s).keys = s.keys := rfl
@[simp] theorem Eff.setChan_jnl (c : Nat) (v : Chan) : ((Eff.setChan c v).apply s).jnl = s.jnl := rfl
@[simp] theorem Eff.setChan_flash (c : Nat) (v : Chan) : ((Eff.setChan c v).apply s).flash = s.flash := rfl
@[simp] theorem Eff.setChan_await (c : Nat) (v : Chan) : ((Eff.setChan c v).apply s).await = s.await := rfl
@[simp] theorem Eff.setChan_load (c : Nat) (v : Chan) : ((Eff.setChan c v).apply s).load = s.load := rfl
@[simp] theorem Eff.setChan_rb (c : Nat) (v : Chan) : ((Eff.setChan c v).apply s).rb = s.rb := rfl
@[simp] theorem Eff.setChan_saves (c : Nat) (v : Chan) : ((Eff.setChan c v).apply s).saves = s.saves := rfl
@[simp] theorem Eff.setChan_hq (c : Nat) (v : Chan) : ((Eff.setChan c v).apply s).hq = s.hq := rfl
@[simp] theorem Eff.setChan_turns (c : Nat) (v : Chan) : ((Eff.setChan c v).apply s).turns = s.turns := rfl
@[simp] theorem Eff.setChan_boot (c : Nat) (v : Chan) : ((Eff.setChan c v).apply s).boot = s.boot := rfl
@[simp] theorem Eff.setChan_pins (c : Nat) (v : Chan) : ((Eff.setChan c v).apply s).pins = s.pins := rfl
@[simp] theorem Eff.setChan_sec (c : Nat) (v : Chan) : ((Eff.setChan c v).apply s).sec = s.sec := rfl
@[simp] theorem Eff.setChan_tel (c : Nat) (v : Chan) : ((Eff.setChan c v).apply s).tel = s.tel := rfl
@[simp] theorem Eff.setChan_fw (c : Nat) (v : Chan) : ((Eff.setChan c v).apply s).fw = s.fw := rfl
@[simp] theorem Eff.setChan_digests (c : Nat) (v : Chan) : ((Eff.setChan c v).apply s).digests = s.digests := rfl
@[simp] theorem Eff.setChan_fseq (c : Nat) (v : Chan) : ((Eff.setChan c v).apply s).fseq = s.fseq := rfl
@[simp] theorem Eff.setChan_lseq (c : Nat) (v : Chan) : ((Eff.setChan c v).apply s).lseq = s.lseq := rfl
@[simp] theorem Eff.setChan_unread (c : Nat) (v : Chan) : ((Eff.setChan c v).apply s).unread = s.unread := rfl
@[simp] theorem Eff.setChan_epochs (c : Nat) (v : Chan) : ((Eff.setChan c v).apply s).epochs = s.epochs := rfl
@[simp] theorem Eff.setChan_draws (c : Nat) (v : Chan) : ((Eff.setChan c v).apply s).draws = s.draws := rfl
@[simp] theorem Eff.setChan_out (c : Nat) (v : Chan) : ((Eff.setChan c v).apply s).out = s.out := rfl
@[simp] theorem Eff.setChan_pending (c : Nat) (v : Chan) : ((Eff.setChan c v).apply s).pending = s.pending := rfl

/-! ### setKey -/

@[simp] theorem Eff.setKey_reg (b : Nat) (v : BitVec 256) : ((Eff.setKey b v).apply s).reg = s.reg := rfl
@[simp] theorem Eff.setKey_pend (b : Nat) (v : BitVec 256) : ((Eff.setKey b v).apply s).pend = s.pend := rfl
@[simp] theorem Eff.setKey_mem (b : Nat) (v : BitVec 256) : ((Eff.setKey b v).apply s).mem = s.mem := rfl
@[simp] theorem Eff.setKey_mmeta (b : Nat) (v : BitVec 256) : ((Eff.setKey b v).apply s).mmeta = s.mmeta := rfl
@[simp] theorem Eff.setKey_err (b : Nat) (v : BitVec 256) : ((Eff.setKey b v).apply s).err = s.err := rfl
@[simp] theorem Eff.setKey_pilotSecs (b : Nat) (v : BitVec 256) : ((Eff.setKey b v).apply s).pilotSecs = s.pilotSecs := rfl
@[simp] theorem Eff.setKey_cl (b : Nat) (v : BitVec 256) : ((Eff.setKey b v).apply s).cl = s.cl := rfl
@[simp] theorem Eff.setKey_codec (b : Nat) (v : BitVec 256) : ((Eff.setKey b v).apply s).codec = s.codec := rfl
@[simp] theorem Eff.setKey_xlt (b : Nat) (v : BitVec 256) : ((Eff.setKey b v).apply s).xlt = s.xlt := rfl
@[simp] theorem Eff.setKey_invAll (b : Nat) (v : BitVec 256) : ((Eff.setKey b v).apply s).invAll = s.invAll := rfl
@[simp] theorem Eff.setKey_mov (b : Nat) (v : BitVec 256) : ((Eff.setKey b v).apply s).mov = s.mov := rfl
@[simp] theorem Eff.setKey_bnd (b : Nat) (v : BitVec 256) : ((Eff.setKey b v).apply s).bnd = s.bnd := rfl
@[simp] theorem Eff.setKey_lu (b : Nat) (v : BitVec 256) : ((Eff.setKey b v).apply s).lu = s.lu := rfl
@[simp] theorem Eff.setKey_su (b : Nat) (v : BitVec 256) : ((Eff.setKey b v).apply s).su = s.su := rfl
@[simp] theorem Eff.setKey_port (b : Nat) (v : BitVec 256) : ((Eff.setKey b v).apply s).port = s.port := rfl
@[simp] theorem Eff.setKey_vote (b : Nat) (v : BitVec 256) : ((Eff.setKey b v).apply s).vote = s.vote := rfl
@[simp] theorem Eff.setKey_ce (b : Nat) (v : BitVec 256) : ((Eff.setKey b v).apply s).ce = s.ce := rfl
@[simp] theorem Eff.setKey_store (b : Nat) (v : BitVec 256) : ((Eff.setKey b v).apply s).store = s.store := rfl
@[simp] theorem Eff.setKey_hornWait (b : Nat) (v : BitVec 256) : ((Eff.setKey b v).apply s).hornWait = s.hornWait := rfl
@[simp] theorem Eff.setKey_chan (b : Nat) (v : BitVec 256) : ((Eff.setKey b v).apply s).chan = s.chan := rfl
@[simp] theorem Eff.setKey_keys (b : Nat) (v : BitVec 256) :
    ((Eff.setKey b v).apply s).keys = Tab.upd 0 s.keys b v := rfl
@[simp] theorem Eff.setKey_jnl (b : Nat) (v : BitVec 256) : ((Eff.setKey b v).apply s).jnl = s.jnl := rfl
@[simp] theorem Eff.setKey_flash (b : Nat) (v : BitVec 256) : ((Eff.setKey b v).apply s).flash = s.flash := rfl
@[simp] theorem Eff.setKey_await (b : Nat) (v : BitVec 256) : ((Eff.setKey b v).apply s).await = s.await := rfl
@[simp] theorem Eff.setKey_load (b : Nat) (v : BitVec 256) : ((Eff.setKey b v).apply s).load = s.load := rfl
@[simp] theorem Eff.setKey_rb (b : Nat) (v : BitVec 256) : ((Eff.setKey b v).apply s).rb = s.rb := rfl
@[simp] theorem Eff.setKey_saves (b : Nat) (v : BitVec 256) : ((Eff.setKey b v).apply s).saves = s.saves := rfl
@[simp] theorem Eff.setKey_hq (b : Nat) (v : BitVec 256) : ((Eff.setKey b v).apply s).hq = s.hq := rfl
@[simp] theorem Eff.setKey_turns (b : Nat) (v : BitVec 256) : ((Eff.setKey b v).apply s).turns = s.turns := rfl
@[simp] theorem Eff.setKey_boot (b : Nat) (v : BitVec 256) : ((Eff.setKey b v).apply s).boot = s.boot := rfl
@[simp] theorem Eff.setKey_pins (b : Nat) (v : BitVec 256) : ((Eff.setKey b v).apply s).pins = s.pins := rfl
@[simp] theorem Eff.setKey_sec (b : Nat) (v : BitVec 256) : ((Eff.setKey b v).apply s).sec = s.sec := rfl
@[simp] theorem Eff.setKey_tel (b : Nat) (v : BitVec 256) : ((Eff.setKey b v).apply s).tel = s.tel := rfl
@[simp] theorem Eff.setKey_fw (b : Nat) (v : BitVec 256) : ((Eff.setKey b v).apply s).fw = s.fw := rfl
@[simp] theorem Eff.setKey_digests (b : Nat) (v : BitVec 256) : ((Eff.setKey b v).apply s).digests = s.digests := rfl
@[simp] theorem Eff.setKey_fseq (b : Nat) (v : BitVec 256) : ((Eff.setKey b v).apply s).fseq = s.fseq := rfl
@[simp] theorem Eff.setKey_lseq (b : Nat) (v : BitVec 256) : ((Eff.setKey b v).apply s).lseq = s.lseq := rfl
@[simp] theorem Eff.setKey_unread (b : Nat) (v : BitVec 256) : ((Eff.setKey b v).apply s).unread = s.unread := rfl
@[simp] theorem Eff.setKey_epochs (b : Nat) (v : BitVec 256) : ((Eff.setKey b v).apply s).epochs = s.epochs := rfl
@[simp] theorem Eff.setKey_draws (b : Nat) (v : BitVec 256) : ((Eff.setKey b v).apply s).draws = s.draws := rfl
@[simp] theorem Eff.setKey_out (b : Nat) (v : BitVec 256) : ((Eff.setKey b v).apply s).out = s.out := rfl
@[simp] theorem Eff.setKey_pending (b : Nat) (v : BitVec 256) : ((Eff.setKey b v).apply s).pending = s.pending := rfl

/-! ### setJnl -/

@[simp] theorem Eff.setJnl_reg (v : Jnl) : ((Eff.setJnl v).apply s).reg = s.reg := rfl
@[simp] theorem Eff.setJnl_pend (v : Jnl) : ((Eff.setJnl v).apply s).pend = s.pend := rfl
@[simp] theorem Eff.setJnl_mem (v : Jnl) : ((Eff.setJnl v).apply s).mem = s.mem := rfl
@[simp] theorem Eff.setJnl_mmeta (v : Jnl) : ((Eff.setJnl v).apply s).mmeta = s.mmeta := rfl
@[simp] theorem Eff.setJnl_err (v : Jnl) : ((Eff.setJnl v).apply s).err = s.err := rfl
@[simp] theorem Eff.setJnl_pilotSecs (v : Jnl) : ((Eff.setJnl v).apply s).pilotSecs = s.pilotSecs := rfl
@[simp] theorem Eff.setJnl_cl (v : Jnl) : ((Eff.setJnl v).apply s).cl = s.cl := rfl
@[simp] theorem Eff.setJnl_codec (v : Jnl) : ((Eff.setJnl v).apply s).codec = s.codec := rfl
@[simp] theorem Eff.setJnl_xlt (v : Jnl) : ((Eff.setJnl v).apply s).xlt = s.xlt := rfl
@[simp] theorem Eff.setJnl_invAll (v : Jnl) : ((Eff.setJnl v).apply s).invAll = s.invAll := rfl
@[simp] theorem Eff.setJnl_mov (v : Jnl) : ((Eff.setJnl v).apply s).mov = s.mov := rfl
@[simp] theorem Eff.setJnl_bnd (v : Jnl) : ((Eff.setJnl v).apply s).bnd = s.bnd := rfl
@[simp] theorem Eff.setJnl_lu (v : Jnl) : ((Eff.setJnl v).apply s).lu = s.lu := rfl
@[simp] theorem Eff.setJnl_su (v : Jnl) : ((Eff.setJnl v).apply s).su = s.su := rfl
@[simp] theorem Eff.setJnl_port (v : Jnl) : ((Eff.setJnl v).apply s).port = s.port := rfl
@[simp] theorem Eff.setJnl_vote (v : Jnl) : ((Eff.setJnl v).apply s).vote = s.vote := rfl
@[simp] theorem Eff.setJnl_ce (v : Jnl) : ((Eff.setJnl v).apply s).ce = s.ce := rfl
@[simp] theorem Eff.setJnl_store (v : Jnl) : ((Eff.setJnl v).apply s).store = s.store := rfl
@[simp] theorem Eff.setJnl_hornWait (v : Jnl) : ((Eff.setJnl v).apply s).hornWait = s.hornWait := rfl
@[simp] theorem Eff.setJnl_chan (v : Jnl) : ((Eff.setJnl v).apply s).chan = s.chan := rfl
@[simp] theorem Eff.setJnl_keys (v : Jnl) : ((Eff.setJnl v).apply s).keys = s.keys := rfl
@[simp] theorem Eff.setJnl_jnl (v : Jnl) :
    ((Eff.setJnl v).apply s).jnl = v := rfl
@[simp] theorem Eff.setJnl_flash (v : Jnl) : ((Eff.setJnl v).apply s).flash = s.flash := rfl
@[simp] theorem Eff.setJnl_await (v : Jnl) : ((Eff.setJnl v).apply s).await = s.await := rfl
@[simp] theorem Eff.setJnl_load (v : Jnl) : ((Eff.setJnl v).apply s).load = s.load := rfl
@[simp] theorem Eff.setJnl_rb (v : Jnl) : ((Eff.setJnl v).apply s).rb = s.rb := rfl
@[simp] theorem Eff.setJnl_saves (v : Jnl) : ((Eff.setJnl v).apply s).saves = s.saves := rfl
@[simp] theorem Eff.setJnl_hq (v : Jnl) : ((Eff.setJnl v).apply s).hq = s.hq := rfl
@[simp] theorem Eff.setJnl_turns (v : Jnl) : ((Eff.setJnl v).apply s).turns = s.turns := rfl
@[simp] theorem Eff.setJnl_boot (v : Jnl) : ((Eff.setJnl v).apply s).boot = s.boot := rfl
@[simp] theorem Eff.setJnl_pins (v : Jnl) : ((Eff.setJnl v).apply s).pins = s.pins := rfl
@[simp] theorem Eff.setJnl_sec (v : Jnl) : ((Eff.setJnl v).apply s).sec = s.sec := rfl
@[simp] theorem Eff.setJnl_tel (v : Jnl) : ((Eff.setJnl v).apply s).tel = s.tel := rfl
@[simp] theorem Eff.setJnl_fw (v : Jnl) : ((Eff.setJnl v).apply s).fw = s.fw := rfl
@[simp] theorem Eff.setJnl_digests (v : Jnl) : ((Eff.setJnl v).apply s).digests = s.digests := rfl
@[simp] theorem Eff.setJnl_fseq (v : Jnl) : ((Eff.setJnl v).apply s).fseq = s.fseq := rfl
@[simp] theorem Eff.setJnl_lseq (v : Jnl) : ((Eff.setJnl v).apply s).lseq = s.lseq := rfl
@[simp] theorem Eff.setJnl_unread (v : Jnl) : ((Eff.setJnl v).apply s).unread = s.unread := rfl
@[simp] theorem Eff.setJnl_epochs (v : Jnl) : ((Eff.setJnl v).apply s).epochs = s.epochs := rfl
@[simp] theorem Eff.setJnl_draws (v : Jnl) : ((Eff.setJnl v).apply s).draws = s.draws := rfl
@[simp] theorem Eff.setJnl_out (v : Jnl) : ((Eff.setJnl v).apply s).out = s.out := rfl
@[simp] theorem Eff.setJnl_pending (v : Jnl) : ((Eff.setJnl v).apply s).pending = s.pending := rfl

/-! ### flashByte -/

@[simp] theorem Eff.flashByte_reg (a : Nat) (v : Byte) : ((Eff.flashByte a v).apply s).reg = s.reg := by dsimp only [Eff.apply]; split <;> rfl
@[simp] theorem Eff.flashByte_pend (a : Nat) (v : Byte) : ((Eff.flashByte a v).apply s).pend = s.pend := by dsimp only [Eff.apply]; split <;> rfl
@[simp] theorem Eff.flashByte_mem (a : Nat) (v : Byte) : ((Eff.flashByte a v).apply s).mem = s.mem := by dsimp only [Eff.apply]; split <;> rfl
@[simp] theorem Eff.flashByte_mmeta (a : Nat) (v : Byte) : ((Eff.flashByte a v).apply s).mmeta = s.mmeta := by dsimp only [Eff.apply]; split <;> rfl
@[simp] theorem Eff.flashByte_err (a : Nat) (v : Byte) : ((Eff.flashByte a v).apply s).err = s.err := by dsimp only [Eff.apply]; split <;> rfl
@[simp] theorem Eff.flashByte_pilotSecs (a : Nat) (v : Byte) : ((Eff.flashByte a v).apply s).pilotSecs = s.pilotSecs := by dsimp only [Eff.apply]; split <;> rfl
@[simp] theorem Eff.flashByte_cl (a : Nat) (v : Byte) : ((Eff.flashByte a v).apply s).cl = s.cl := by dsimp only [Eff.apply]; split <;> rfl
@[simp] theorem Eff.flashByte_codec (a : Nat) (v : Byte) : ((Eff.flashByte a v).apply s).codec = s.codec := by dsimp only [Eff.apply]; split <;> rfl
@[simp] theorem Eff.flashByte_xlt (a : Nat) (v : Byte) : ((Eff.flashByte a v).apply s).xlt = s.xlt := by dsimp only [Eff.apply]; split <;> rfl
@[simp] theorem Eff.flashByte_invAll (a : Nat) (v : Byte) : ((Eff.flashByte a v).apply s).invAll = s.invAll := by dsimp only [Eff.apply]; split <;> rfl
@[simp] theorem Eff.flashByte_mov (a : Nat) (v : Byte) : ((Eff.flashByte a v).apply s).mov = s.mov := by dsimp only [Eff.apply]; split <;> rfl
@[simp] theorem Eff.flashByte_bnd (a : Nat) (v : Byte) : ((Eff.flashByte a v).apply s).bnd = s.bnd := by dsimp only [Eff.apply]; split <;> rfl
@[simp] theorem Eff.flashByte_lu (a : Nat) (v : Byte) : ((Eff.flashByte a v).apply s).lu = s.lu := by dsimp only [Eff.apply]; split <;> rfl
@[simp] theorem Eff.flashByte_su (a : Nat) (v : Byte) : ((Eff.flashByte a v).apply s).su = s.su := by dsimp only [Eff.apply]; split <;> rfl
@[simp] theorem Eff.flashByte_port (a : Nat) (v : Byte) : ((Eff.flashByte a v).apply s).port = s.port := by dsimp only [Eff.apply]; split <;> rfl
@[simp] theorem Eff.flashByte_vote (a : Nat) (v : Byte) : ((Eff.flashByte a v).apply s).vote = s.vote := by dsimp only [Eff.apply]; split <;> rfl
@[simp] theorem Eff.flashByte_ce (a : Nat) (v : Byte) : ((Eff.flashByte a v).apply s).ce = s.ce := by dsimp only [Eff.apply]; split <;> rfl
@[simp] theorem Eff.flashByte_store (a : Nat) (v : Byte) : ((Eff.flashByte a v).apply s).store = s.store := by dsimp only [Eff.apply]; split <;> rfl
@[simp] theorem Eff.flashByte_hornWait (a : Nat) (v : Byte) : ((Eff.flashByte a v).apply s).hornWait = s.hornWait := by dsimp only [Eff.apply]; split <;> rfl
@[simp] theorem Eff.flashByte_chan (a : Nat) (v : Byte) : ((Eff.flashByte a v).apply s).chan = s.chan := by dsimp only [Eff.apply]; split <;> rfl
@[simp] theorem Eff.flashByte_keys (a : Nat) (v : Byte) : ((Eff.flashByte a v).apply s).keys = s.keys := by dsimp only [Eff.apply]; split <;> rfl
@[simp] theorem Eff.flashByte_jnl (a : Nat) (v : Byte) : ((Eff.flashByte a v).apply s).jnl = s.jnl := by dsimp only [Eff.apply]; split <;> rfl
@[simp] theorem Eff.flashByte_flash (a : Nat) (v : Byte) : ((Eff.flashByte a v).apply s).flash =
    if a < 0x8000000 then Tab.upd 0xFF s.flash a v else s.flash := by
  dsimp only [Eff.apply]; split <;> rfl
@[simp] theorem Eff.flashByte_await (a : Nat) (v : Byte) : ((Eff.flashByte a v).apply s).await = s.await := by dsimp only [Eff.apply]; split <;> rfl
@[simp] theorem Eff.flashByte_load (a : Nat) (v : Byte) : ((Eff.flashByte a v).apply s).load = s.load := by dsimp only [Eff.apply]; split <;> rfl
@[simp] theorem Eff.flashByte_rb (a : Nat) (v : Byte) : ((Eff.flashByte a v).apply s).rb = s.rb := by dsimp only [Eff.apply]; split <;> rfl
@[simp] theorem Eff.flashByte_saves (a : Nat) (v : Byte) : ((Eff.flashByte a v).apply s).saves = s.saves := by dsimp only [Eff.apply]; split <;> rfl
@[simp] theorem Eff.flashByte_hq (a : Nat) (v : Byte) : ((Eff.flashByte a v).apply s).hq = s.hq := by dsimp only [Eff.apply]; split <;> rfl
@[simp] theorem Eff.flashByte_turns (a : Nat) (v : Byte) : ((Eff.flashByte a v).apply s).turns = s.turns := by dsimp only [Eff.apply]; split <;> rfl
@[simp] theorem Eff.flashByte_boot (a : Nat) (v : Byte) : ((Eff.flashByte a v).apply s).boot = s.boot := by dsimp only [Eff.apply]; split <;> rfl
@[simp] theorem Eff.flashByte_pins (a : Nat) (v : Byte) : ((Eff.flashByte a v).apply s).pins = s.pins := by dsimp only [Eff.apply]; split <;> rfl
@[simp] theorem Eff.flashByte_sec (a : Nat) (v : Byte) : ((Eff.flashByte a v).apply s).sec = s.sec := by dsimp only [Eff.apply]; split <;> rfl
@[simp] theorem Eff.flashByte_tel (a : Nat) (v : Byte) : ((Eff.flashByte a v).apply s).tel = s.tel := by dsimp only [Eff.apply]; split <;> rfl
@[simp] theorem Eff.flashByte_fw (a : Nat) (v : Byte) : ((Eff.flashByte a v).apply s).fw = s.fw := by dsimp only [Eff.apply]; split <;> rfl
@[simp] theorem Eff.flashByte_digests (a : Nat) (v : Byte) : ((Eff.flashByte a v).apply s).digests = s.digests := by dsimp only [Eff.apply]; split <;> rfl
@[simp] theorem Eff.flashByte_fseq (a : Nat) (v : Byte) : ((Eff.flashByte a v).apply s).fseq = s.fseq := by dsimp only [Eff.apply]; split <;> rfl
@[simp] theorem Eff.flashByte_lseq (a : Nat) (v : Byte) : ((Eff.flashByte a v).apply s).lseq = s.lseq := by dsimp only [Eff.apply]; split <;> rfl
@[simp] theorem Eff.flashByte_unread (a : Nat) (v : Byte) : ((Eff.flashByte a v).apply s).unread = s.unread := by dsimp only [Eff.apply]; split <;> rfl
@[simp] theorem Eff.flashByte_epochs (a : Nat) (v : Byte) : ((Eff.flashByte a v).apply s).epochs = s.epochs := by dsimp only [Eff.apply]; split <;> rfl
@[simp] theorem Eff.flashByte_draws (a : Nat) (v : Byte) : ((Eff.flashByte a v).apply s).draws = s.draws := by dsimp only [Eff.apply]; split <;> rfl
@[simp] theorem Eff.flashByte_out (a : Nat) (v : Byte) : ((Eff.flashByte a v).apply s).out = s.out := by dsimp only [Eff.apply]; split <;> rfl
@[simp] theorem Eff.flashByte_pending (a : Nat) (v : Byte) : ((Eff.flashByte a v).apply s).pending = s.pending := by dsimp only [Eff.apply]; split <;> rfl

/-! ### setAwait -/

@[simp] theorem Eff.setAwait_reg (v : List Group) : ((Eff.setAwait v).apply s).reg = s.reg := rfl
@[simp] theorem Eff.setAwait_pend (v : List Group) : ((Eff.setAwait v).apply s).pend = s.pend := rfl
@[simp] theorem Eff.setAwait_mem (v : List Group) : ((Eff.setAwait v).apply s).mem = s.mem := rfl
@[simp] theorem Eff.setAwait_mmeta (v : List Group) : ((Eff.setAwait v).apply s).mmeta = s.mmeta := rfl
@[simp] theorem Eff.setAwait_err (v : List Group) : ((Eff.setAwait v).apply s).err = s.err := rfl
@[simp] theorem Eff.setAwait_pilotSecs (v : List Group) : ((Eff.setAwait v).apply s).pilotSecs = s.pilotSecs := rfl
@[simp] theorem Eff.setAwait_cl (v : List Group) : ((Eff.setAwait v).apply s).cl = s.cl := rfl
@[simp] theorem Eff.setAwait_codec (v : List Group) : ((Eff.setAwait v).apply s).codec = s.codec := rfl
@[simp] theorem Eff.setAwait_xlt (v : List Group) : ((Eff.setAwait v).apply s).xlt = s.xlt := rfl
@[simp] theorem Eff.setAwait_invAll (v : List Group) : ((Eff.setAwait v).apply s).invAll = s.invAll := rfl
@[simp] theorem Eff.setAwait_mov (v : List Group) : ((Eff.setAwait v).apply s).mov = s.mov := rfl
@[simp] theorem Eff.setAwait_bnd (v : List Group) : ((Eff.setAwait v).apply s).bnd = s.bnd := rfl
@[simp] theorem Eff.setAwait_lu (v : List Group) : ((Eff.setAwait v).apply s).lu = s.lu := rfl
@[simp] theorem Eff.setAwait_su (v : List Group) : ((Eff.setAwait v).apply s).su = s.su := rfl
@[simp] theorem Eff.setAwait_port (v : List Group) : ((Eff.setAwait v).apply s).port = s.port := rfl
@[simp] theorem Eff.setAwait_vote (v : List Group) : ((Eff.setAwait v).apply s).vote = s.vote := rfl
@[simp] theorem Eff.setAwait_ce (v : List Group) : ((Eff.setAwait v).apply s).ce = s.ce := rfl
@[simp] theorem Eff.setAwait_store (v : List Group) : ((Eff.setAwait v).apply s).store = s.store := rfl
@[simp] theorem Eff.setAwait_hornWait (v : List Group) : ((Eff.setAwait v).apply s).hornWait = s.hornWait := rfl
@[simp] theorem Eff.setAwait_chan (v : List Group) : ((Eff.setAwait v).apply s).chan = s.chan := rfl
@[simp] theorem Eff.setAwait_keys (v : List Group) : ((Eff.setAwait v).apply s).keys = s.keys := rfl
@[simp] theorem Eff.setAwait_jnl (v : List Group) : ((Eff.setAwait v).apply s).jnl = s.jnl := rfl
@[simp] theorem Eff.setAwait_flash (v : List Group) : ((Eff.setAwait v).apply s).flash = s.flash := rfl
@[simp] theorem Eff.setAwait_await (v : List Group) :
    ((Eff.setAwait v).apply s).await = v := rfl
@[simp] theorem Eff.setAwait_load (v : List Group) : ((Eff.setAwait v).apply s).load = s.load := rfl
@[simp] theorem Eff.setAwait_rb (v : List Group) : ((Eff.setAwait v).apply s).rb = s.rb := rfl
@[simp] theorem Eff.setAwait_saves (v : List Group) : ((Eff.setAwait v).apply s).saves = s.saves := rfl
@[simp] theorem Eff.setAwait_hq (v : List Group) : ((Eff.setAwait v).apply s).hq = s.hq := rfl
@[simp] theorem Eff.setAwait_turns (v : List Group) : ((Eff.setAwait v).apply s).turns = s.turns := rfl
@[simp] theorem Eff.setAwait_boot (v : List Group) : ((Eff.setAwait v).apply s).boot = s.boot := rfl
@[simp] theorem Eff.setAwait_pins (v : List Group) : ((Eff.setAwait v).apply s).pins = s.pins := rfl
@[simp] theorem Eff.setAwait_sec (v : List Group) : ((Eff.setAwait v).apply s).sec = s.sec := rfl
@[simp] theorem Eff.setAwait_tel (v : List Group) : ((Eff.setAwait v).apply s).tel = s.tel := rfl
@[simp] theorem Eff.setAwait_fw (v : List Group) : ((Eff.setAwait v).apply s).fw = s.fw := rfl
@[simp] theorem Eff.setAwait_digests (v : List Group) : ((Eff.setAwait v).apply s).digests = s.digests := rfl
@[simp] theorem Eff.setAwait_fseq (v : List Group) : ((Eff.setAwait v).apply s).fseq = s.fseq := rfl
@[simp] theorem Eff.setAwait_lseq (v : List Group) : ((Eff.setAwait v).apply s).lseq = s.lseq := rfl
@[simp] theorem Eff.setAwait_unread (v : List Group) : ((Eff.setAwait v).apply s).unread = s.unread := rfl
@[simp] theorem Eff.setAwait_epochs (v : List Group) : ((Eff.setAwait v).apply s).epochs = s.epochs := rfl
@[simp] theorem Eff.setAwait_draws (v : List Group) : ((Eff.setAwait v).apply s).draws = s.draws := rfl
@[simp] theorem Eff.setAwait_out (v : List Group) : ((Eff.setAwait v).apply s).out = s.out := rfl
@[simp] theorem Eff.setAwait_pending (v : List Group) : ((Eff.setAwait v).apply s).pending = s.pending := rfl

/-! ### setLoad -/

@[simp] theorem Eff.setLoad_reg (v : Option Load) : ((Eff.setLoad v).apply s).reg = s.reg := rfl
@[simp] theorem Eff.setLoad_pend (v : Option Load) : ((Eff.setLoad v).apply s).pend = s.pend := rfl
@[simp] theorem Eff.setLoad_mem (v : Option Load) : ((Eff.setLoad v).apply s).mem = s.mem := rfl
@[simp] theorem Eff.setLoad_mmeta (v : Option Load) : ((Eff.setLoad v).apply s).mmeta = s.mmeta := rfl
@[simp] theorem Eff.setLoad_err (v : Option Load) : ((Eff.setLoad v).apply s).err = s.err := rfl
@[simp] theorem Eff.setLoad_pilotSecs (v : Option Load) : ((Eff.setLoad v).apply s).pilotSecs = s.pilotSecs := rfl
@[simp] theorem Eff.setLoad_cl (v : Option Load) : ((Eff.setLoad v).apply s).cl = s.cl := rfl
@[simp] theorem Eff.setLoad_codec (v : Option Load) : ((Eff.setLoad v).apply s).codec = s.codec := rfl
@[simp] theorem Eff.setLoad_xlt (v : Option Load) : ((Eff.setLoad v).apply s).xlt = s.xlt := rfl
@[simp] theorem Eff.setLoad_invAll (v : Option Load) : ((Eff.setLoad v).apply s).invAll = s.invAll := rfl
@[simp] theorem Eff.setLoad_mov (v : Option Load) : ((Eff.setLoad v).apply s).mov = s.mov := rfl
@[simp] theorem Eff.setLoad_bnd (v : Option Load) : ((Eff.setLoad v).apply s).bnd = s.bnd := rfl
@[simp] theorem Eff.setLoad_lu (v : Option Load) : ((Eff.setLoad v).apply s).lu = s.lu := rfl
@[simp] theorem Eff.setLoad_su (v : Option Load) : ((Eff.setLoad v).apply s).su = s.su := rfl
@[simp] theorem Eff.setLoad_port (v : Option Load) : ((Eff.setLoad v).apply s).port = s.port := rfl
@[simp] theorem Eff.setLoad_vote (v : Option Load) : ((Eff.setLoad v).apply s).vote = s.vote := rfl
@[simp] theorem Eff.setLoad_ce (v : Option Load) : ((Eff.setLoad v).apply s).ce = s.ce := rfl
@[simp] theorem Eff.setLoad_store (v : Option Load) : ((Eff.setLoad v).apply s).store = s.store := rfl
@[simp] theorem Eff.setLoad_hornWait (v : Option Load) : ((Eff.setLoad v).apply s).hornWait = s.hornWait := rfl
@[simp] theorem Eff.setLoad_chan (v : Option Load) : ((Eff.setLoad v).apply s).chan = s.chan := rfl
@[simp] theorem Eff.setLoad_keys (v : Option Load) : ((Eff.setLoad v).apply s).keys = s.keys := rfl
@[simp] theorem Eff.setLoad_jnl (v : Option Load) : ((Eff.setLoad v).apply s).jnl = s.jnl := rfl
@[simp] theorem Eff.setLoad_flash (v : Option Load) : ((Eff.setLoad v).apply s).flash = s.flash := rfl
@[simp] theorem Eff.setLoad_await (v : Option Load) : ((Eff.setLoad v).apply s).await = s.await := rfl
@[simp] theorem Eff.setLoad_load (v : Option Load) :
    ((Eff.setLoad v).apply s).load = v := rfl
@[simp] theorem Eff.setLoad_rb (v : Option Load) : ((Eff.setLoad v).apply s).rb = s.rb := rfl
@[simp] theorem Eff.setLoad_saves (v : Option Load) : ((Eff.setLoad v).apply s).saves = s.saves := rfl
@[simp] theorem Eff.setLoad_hq (v : Option Load) : ((Eff.setLoad v).apply s).hq = s.hq := rfl
@[simp] theorem Eff.setLoad_turns (v : Option Load) : ((Eff.setLoad v).apply s).turns = s.turns := rfl
@[simp] theorem Eff.setLoad_boot (v : Option Load) : ((Eff.setLoad v).apply s).boot = s.boot := rfl
@[simp] theorem Eff.setLoad_pins (v : Option Load) : ((Eff.setLoad v).apply s).pins = s.pins := rfl
@[simp] theorem Eff.setLoad_sec (v : Option Load) : ((Eff.setLoad v).apply s).sec = s.sec := rfl
@[simp] theorem Eff.setLoad_tel (v : Option Load) : ((Eff.setLoad v).apply s).tel = s.tel := rfl
@[simp] theorem Eff.setLoad_fw (v : Option Load) : ((Eff.setLoad v).apply s).fw = s.fw := rfl
@[simp] theorem Eff.setLoad_digests (v : Option Load) : ((Eff.setLoad v).apply s).digests = s.digests := rfl
@[simp] theorem Eff.setLoad_fseq (v : Option Load) : ((Eff.setLoad v).apply s).fseq = s.fseq := rfl
@[simp] theorem Eff.setLoad_lseq (v : Option Load) : ((Eff.setLoad v).apply s).lseq = s.lseq := rfl
@[simp] theorem Eff.setLoad_unread (v : Option Load) : ((Eff.setLoad v).apply s).unread = s.unread := rfl
@[simp] theorem Eff.setLoad_epochs (v : Option Load) : ((Eff.setLoad v).apply s).epochs = s.epochs := rfl
@[simp] theorem Eff.setLoad_draws (v : Option Load) : ((Eff.setLoad v).apply s).draws = s.draws := rfl
@[simp] theorem Eff.setLoad_out (v : Option Load) : ((Eff.setLoad v).apply s).out = s.out := rfl
@[simp] theorem Eff.setLoad_pending (v : Option Load) : ((Eff.setLoad v).apply s).pending = s.pending := rfl

/-! ### setRb -/

@[simp] theorem Eff.setRb_reg (v : Option Rebind) : ((Eff.setRb v).apply s).reg = s.reg := rfl
@[simp] theorem Eff.setRb_pend (v : Option Rebind) : ((Eff.setRb v).apply s).pend = s.pend := rfl
@[simp] theorem Eff.setRb_mem (v : Option Rebind) : ((Eff.setRb v).apply s).mem = s.mem := rfl
@[simp] theorem Eff.setRb_mmeta (v : Option Rebind) : ((Eff.setRb v).apply s).mmeta = s.mmeta := rfl
@[simp] theorem Eff.setRb_err (v : Option Rebind) : ((Eff.setRb v).apply s).err = s.err := rfl
@[simp] theorem Eff.setRb_pilotSecs (v : Option Rebind) : ((Eff.setRb v).apply s).pilotSecs = s.pilotSecs := rfl
@[simp] theorem Eff.setRb_cl (v : Option Rebind) : ((Eff.setRb v).apply s).cl = s.cl := rfl
@[simp] theorem Eff.setRb_codec (v : Option Rebind) : ((Eff.setRb v).apply s).codec = s.codec := rfl
@[simp] theorem Eff.setRb_xlt (v : Option Rebind) : ((Eff.setRb v).apply s).xlt = s.xlt := rfl
@[simp] theorem Eff.setRb_invAll (v : Option Rebind) : ((Eff.setRb v).apply s).invAll = s.invAll := rfl
@[simp] theorem Eff.setRb_mov (v : Option Rebind) : ((Eff.setRb v).apply s).mov = s.mov := rfl
@[simp] theorem Eff.setRb_bnd (v : Option Rebind) : ((Eff.setRb v).apply s).bnd = s.bnd := rfl
@[simp] theorem Eff.setRb_lu (v : Option Rebind) : ((Eff.setRb v).apply s).lu = s.lu := rfl
@[simp] theorem Eff.setRb_su (v : Option Rebind) : ((Eff.setRb v).apply s).su = s.su := rfl
@[simp] theorem Eff.setRb_port (v : Option Rebind) : ((Eff.setRb v).apply s).port = s.port := rfl
@[simp] theorem Eff.setRb_vote (v : Option Rebind) : ((Eff.setRb v).apply s).vote = s.vote := rfl
@[simp] theorem Eff.setRb_ce (v : Option Rebind) : ((Eff.setRb v).apply s).ce = s.ce := rfl
@[simp] theorem Eff.setRb_store (v : Option Rebind) : ((Eff.setRb v).apply s).store = s.store := rfl
@[simp] theorem Eff.setRb_hornWait (v : Option Rebind) : ((Eff.setRb v).apply s).hornWait = s.hornWait := rfl
@[simp] theorem Eff.setRb_chan (v : Option Rebind) : ((Eff.setRb v).apply s).chan = s.chan := rfl
@[simp] theorem Eff.setRb_keys (v : Option Rebind) : ((Eff.setRb v).apply s).keys = s.keys := rfl
@[simp] theorem Eff.setRb_jnl (v : Option Rebind) : ((Eff.setRb v).apply s).jnl = s.jnl := rfl
@[simp] theorem Eff.setRb_flash (v : Option Rebind) : ((Eff.setRb v).apply s).flash = s.flash := rfl
@[simp] theorem Eff.setRb_await (v : Option Rebind) : ((Eff.setRb v).apply s).await = s.await := rfl
@[simp] theorem Eff.setRb_load (v : Option Rebind) : ((Eff.setRb v).apply s).load = s.load := rfl
@[simp] theorem Eff.setRb_rb (v : Option Rebind) :
    ((Eff.setRb v).apply s).rb = v := rfl
@[simp] theorem Eff.setRb_saves (v : Option Rebind) : ((Eff.setRb v).apply s).saves = s.saves := rfl
@[simp] theorem Eff.setRb_hq (v : Option Rebind) : ((Eff.setRb v).apply s).hq = s.hq := rfl
@[simp] theorem Eff.setRb_turns (v : Option Rebind) : ((Eff.setRb v).apply s).turns = s.turns := rfl
@[simp] theorem Eff.setRb_boot (v : Option Rebind) : ((Eff.setRb v).apply s).boot = s.boot := rfl
@[simp] theorem Eff.setRb_pins (v : Option Rebind) : ((Eff.setRb v).apply s).pins = s.pins := rfl
@[simp] theorem Eff.setRb_sec (v : Option Rebind) : ((Eff.setRb v).apply s).sec = s.sec := rfl
@[simp] theorem Eff.setRb_tel (v : Option Rebind) : ((Eff.setRb v).apply s).tel = s.tel := rfl
@[simp] theorem Eff.setRb_fw (v : Option Rebind) : ((Eff.setRb v).apply s).fw = s.fw := rfl
@[simp] theorem Eff.setRb_digests (v : Option Rebind) : ((Eff.setRb v).apply s).digests = s.digests := rfl
@[simp] theorem Eff.setRb_fseq (v : Option Rebind) : ((Eff.setRb v).apply s).fseq = s.fseq := rfl
@[simp] theorem Eff.setRb_lseq (v : Option Rebind) : ((Eff.setRb v).apply s).lseq = s.lseq := rfl
@[simp] theorem Eff.setRb_unread (v : Option Rebind) : ((Eff.setRb v).apply s).unread = s.unread := rfl
@[simp] theorem Eff.setRb_epochs (v : Option Rebind) : ((Eff.setRb v).apply s).epochs = s.epochs := rfl
@[simp] theorem Eff.setRb_draws (v : Option Rebind) : ((Eff.setRb v).apply s).draws = s.draws := rfl
@[simp] theorem Eff.setRb_out (v : Option Rebind) : ((Eff.setRb v).apply s).out = s.out := rfl
@[simp] theorem Eff.setRb_pending (v : Option Rebind) : ((Eff.setRb v).apply s).pending = s.pending := rfl

/-! ### setSaves -/

@[simp] theorem Eff.setSaves_reg (v : List Saved) : ((Eff.setSaves v).apply s).reg = s.reg := rfl
@[simp] theorem Eff.setSaves_pend (v : List Saved) : ((Eff.setSaves v).apply s).pend = s.pend := rfl
@[simp] theorem Eff.setSaves_mem (v : List Saved) : ((Eff.setSaves v).apply s).mem = s.mem := rfl
@[simp] theorem Eff.setSaves_mmeta (v : List Saved) : ((Eff.setSaves v).apply s).mmeta = s.mmeta := rfl
@[simp] theorem Eff.setSaves_err (v : List Saved) : ((Eff.setSaves v).apply s).err = s.err := rfl
@[simp] theorem Eff.setSaves_pilotSecs (v : List Saved) : ((Eff.setSaves v).apply s).pilotSecs = s.pilotSecs := rfl
@[simp] theorem Eff.setSaves_cl (v : List Saved) : ((Eff.setSaves v).apply s).cl = s.cl := rfl
@[simp] theorem Eff.setSaves_codec (v : List Saved) : ((Eff.setSaves v).apply s).codec = s.codec := rfl
@[simp] theorem Eff.setSaves_xlt (v : List Saved) : ((Eff.setSaves v).apply s).xlt = s.xlt := rfl
@[simp] theorem Eff.setSaves_invAll (v : List Saved) : ((Eff.setSaves v).apply s).invAll = s.invAll := rfl
@[simp] theorem Eff.setSaves_mov (v : List Saved) : ((Eff.setSaves v).apply s).mov = s.mov := rfl
@[simp] theorem Eff.setSaves_bnd (v : List Saved) : ((Eff.setSaves v).apply s).bnd = s.bnd := rfl
@[simp] theorem Eff.setSaves_lu (v : List Saved) : ((Eff.setSaves v).apply s).lu = s.lu := rfl
@[simp] theorem Eff.setSaves_su (v : List Saved) : ((Eff.setSaves v).apply s).su = s.su := rfl
@[simp] theorem Eff.setSaves_port (v : List Saved) : ((Eff.setSaves v).apply s).port = s.port := rfl
@[simp] theorem Eff.setSaves_vote (v : List Saved) : ((Eff.setSaves v).apply s).vote = s.vote := rfl
@[simp] theorem Eff.setSaves_ce (v : List Saved) : ((Eff.setSaves v).apply s).ce = s.ce := rfl
@[simp] theorem Eff.setSaves_store (v : List Saved) : ((Eff.setSaves v).apply s).store = s.store := rfl
@[simp] theorem Eff.setSaves_hornWait (v : List Saved) : ((Eff.setSaves v).apply s).hornWait = s.hornWait := rfl
@[simp] theorem Eff.setSaves_chan (v : List Saved) : ((Eff.setSaves v).apply s).chan = s.chan := rfl
@[simp] theorem Eff.setSaves_keys (v : List Saved) : ((Eff.setSaves v).apply s).keys = s.keys := rfl
@[simp] theorem Eff.setSaves_jnl (v : List Saved) : ((Eff.setSaves v).apply s).jnl = s.jnl := rfl
@[simp] theorem Eff.setSaves_flash (v : List Saved) : ((Eff.setSaves v).apply s).flash = s.flash := rfl
@[simp] theorem Eff.setSaves_await (v : List Saved) : ((Eff.setSaves v).apply s).await = s.await := rfl
@[simp] theorem Eff.setSaves_load (v : List Saved) : ((Eff.setSaves v).apply s).load = s.load := rfl
@[simp] theorem Eff.setSaves_rb (v : List Saved) : ((Eff.setSaves v).apply s).rb = s.rb := rfl
@[simp] theorem Eff.setSaves_saves (v : List Saved) :
    ((Eff.setSaves v).apply s).saves = v := rfl
@[simp] theorem Eff.setSaves_hq (v : List Saved) : ((Eff.setSaves v).apply s).hq = s.hq := rfl
@[simp] theorem Eff.setSaves_turns (v : List Saved) : ((Eff.setSaves v).apply s).turns = s.turns := rfl
@[simp] theorem Eff.setSaves_boot (v : List Saved) : ((Eff.setSaves v).apply s).boot = s.boot := rfl
@[simp] theorem Eff.setSaves_pins (v : List Saved) : ((Eff.setSaves v).apply s).pins = s.pins := rfl
@[simp] theorem Eff.setSaves_sec (v : List Saved) : ((Eff.setSaves v).apply s).sec = s.sec := rfl
@[simp] theorem Eff.setSaves_tel (v : List Saved) : ((Eff.setSaves v).apply s).tel = s.tel := rfl
@[simp] theorem Eff.setSaves_fw (v : List Saved) : ((Eff.setSaves v).apply s).fw = s.fw := rfl
@[simp] theorem Eff.setSaves_digests (v : List Saved) : ((Eff.setSaves v).apply s).digests = s.digests := rfl
@[simp] theorem Eff.setSaves_fseq (v : List Saved) : ((Eff.setSaves v).apply s).fseq = s.fseq := rfl
@[simp] theorem Eff.setSaves_lseq (v : List Saved) : ((Eff.setSaves v).apply s).lseq = s.lseq := rfl
@[simp] theorem Eff.setSaves_unread (v : List Saved) : ((Eff.setSaves v).apply s).unread = s.unread := rfl
@[simp] theorem Eff.setSaves_epochs (v : List Saved) : ((Eff.setSaves v).apply s).epochs = s.epochs := rfl
@[simp] theorem Eff.setSaves_draws (v : List Saved) : ((Eff.setSaves v).apply s).draws = s.draws := rfl
@[simp] theorem Eff.setSaves_out (v : List Saved) : ((Eff.setSaves v).apply s).out = s.out := rfl
@[simp] theorem Eff.setSaves_pending (v : List Saved) : ((Eff.setSaves v).apply s).pending = s.pending := rfl

/-! ### setHq -/

@[simp] theorem Eff.setHq_reg (q : Nat) (v : HQueue) : ((Eff.setHq q v).apply s).reg = s.reg := rfl
@[simp] theorem Eff.setHq_pend (q : Nat) (v : HQueue) : ((Eff.setHq q v).apply s).pend = s.pend := rfl
@[simp] theorem Eff.setHq_mem (q : Nat) (v : HQueue) : ((Eff.setHq q v).apply s).mem = s.mem := rfl
@[simp] theorem Eff.setHq_mmeta (q : Nat) (v : HQueue) : ((Eff.setHq q v).apply s).mmeta = s.mmeta := rfl
@[simp] theorem Eff.setHq_err (q : Nat) (v : HQueue) : ((Eff.setHq q v).apply s).err = s.err := rfl
@[simp] theorem Eff.setHq_pilotSecs (q : Nat) (v : HQueue) : ((Eff.setHq q v).apply s).pilotSecs = s.pilotSecs := rfl
@[simp] theorem Eff.setHq_cl (q : Nat) (v : HQueue) : ((Eff.setHq q v).apply s).cl = s.cl := rfl
@[simp] theorem Eff.setHq_codec (q : Nat) (v : HQueue) : ((Eff.setHq q v).apply s).codec = s.codec := rfl
@[simp] theorem Eff.setHq_xlt (q : Nat) (v : HQueue) : ((Eff.setHq q v).apply s).xlt = s.xlt := rfl
@[simp] theorem Eff.setHq_invAll (q : Nat) (v : HQueue) : ((Eff.setHq q v).apply s).invAll = s.invAll := rfl
@[simp] theorem Eff.setHq_mov (q : Nat) (v : HQueue) : ((Eff.setHq q v).apply s).mov = s.mov := rfl
@[simp] theorem Eff.setHq_bnd (q : Nat) (v : HQueue) : ((Eff.setHq q v).apply s).bnd = s.bnd := rfl
@[simp] theorem Eff.setHq_lu (q : Nat) (v : HQueue) : ((Eff.setHq q v).apply s).lu = s.lu := rfl
@[simp] theorem Eff.setHq_su (q : Nat) (v : HQueue) : ((Eff.setHq q v).apply s).su = s.su := rfl
@[simp] theorem Eff.setHq_port (q : Nat) (v : HQueue) : ((Eff.setHq q v).apply s).port = s.port := rfl
@[simp] theorem Eff.setHq_vote (q : Nat) (v : HQueue) : ((Eff.setHq q v).apply s).vote = s.vote := rfl
@[simp] theorem Eff.setHq_ce (q : Nat) (v : HQueue) : ((Eff.setHq q v).apply s).ce = s.ce := rfl
@[simp] theorem Eff.setHq_store (q : Nat) (v : HQueue) : ((Eff.setHq q v).apply s).store = s.store := rfl
@[simp] theorem Eff.setHq_hornWait (q : Nat) (v : HQueue) : ((Eff.setHq q v).apply s).hornWait = s.hornWait := rfl
@[simp] theorem Eff.setHq_chan (q : Nat) (v : HQueue) : ((Eff.setHq q v).apply s).chan = s.chan := rfl
@[simp] theorem Eff.setHq_keys (q : Nat) (v : HQueue) : ((Eff.setHq q v).apply s).keys = s.keys := rfl
@[simp] theorem Eff.setHq_jnl (q : Nat) (v : HQueue) : ((Eff.setHq q v).apply s).jnl = s.jnl := rfl
@[simp] theorem Eff.setHq_flash (q : Nat) (v : HQueue) : ((Eff.setHq q v).apply s).flash = s.flash := rfl
@[simp] theorem Eff.setHq_await (q : Nat) (v : HQueue) : ((Eff.setHq q v).apply s).await = s.await := rfl
@[simp] theorem Eff.setHq_load (q : Nat) (v : HQueue) : ((Eff.setHq q v).apply s).load = s.load := rfl
@[simp] theorem Eff.setHq_rb (q : Nat) (v : HQueue) : ((Eff.setHq q v).apply s).rb = s.rb := rfl
@[simp] theorem Eff.setHq_saves (q : Nat) (v : HQueue) : ((Eff.setHq q v).apply s).saves = s.saves := rfl
@[simp] theorem Eff.setHq_hq (q : Nat) (v : HQueue) :
    ((Eff.setHq q v).apply s).hq = Tab.upd HQueue.init s.hq q v := rfl
@[simp] theorem Eff.setHq_turns (q : Nat) (v : HQueue) : ((Eff.setHq q v).apply s).turns = s.turns := rfl
@[simp] theorem Eff.setHq_boot (q : Nat) (v : HQueue) : ((Eff.setHq q v).apply s).boot = s.boot := rfl
@[simp] theorem Eff.setHq_pins (q : Nat) (v : HQueue) : ((Eff.setHq q v).apply s).pins = s.pins := rfl
@[simp] theorem Eff.setHq_sec (q : Nat) (v : HQueue) : ((Eff.setHq q v).apply s).sec = s.sec := rfl
@[simp] theorem Eff.setHq_tel (q : Nat) (v : HQueue) : ((Eff.setHq q v).apply s).tel = s.tel := rfl
@[simp] theorem Eff.setHq_fw (q : Nat) (v : HQueue) : ((Eff.setHq q v).apply s).fw = s.fw := rfl
@[simp] theorem Eff.setHq_digests (q : Nat) (v : HQueue) : ((Eff.setHq q v).apply s).digests = s.digests := rfl
@[simp] theorem Eff.setHq_fseq (q : Nat) (v : HQueue) : ((Eff.setHq q v).apply s).fseq = s.fseq := rfl
@[simp] theorem Eff.setHq_lseq (q : Nat) (v : HQueue) : ((Eff.setHq q v).apply s).lseq = s.lseq := rfl
@[simp] theorem Eff.setHq_unread (q : Nat) (v : HQueue) : ((Eff.setHq q v).apply s).unread = s.unread := rfl
@[simp] theorem Eff.setHq_epochs (q : Nat) (v : HQueue) : ((Eff.setHq q v).apply s).epochs = s.epochs := rfl
@[simp] theorem Eff.setHq_draws (q : Nat) (v : HQueue) : ((Eff.setHq q v).apply s).draws = s.draws := rfl
@[simp] theorem Eff.setHq_out (q : Nat) (v : HQueue) : ((Eff.setHq q v).apply s).out = s.out := rfl
@[simp] theorem Eff.setHq_pending (q : Nat) (v : HQueue) : ((Eff.setHq q v).apply s).pending = s.pending := rfl

/-! ### setTurns -/

@[simp] theorem Eff.setTurns_reg (v : Nat) : ((Eff.setTurns v).apply s).reg = s.reg := rfl
@[simp] theorem Eff.setTurns_pend (v : Nat) : ((Eff.setTurns v).apply s).pend = s.pend := rfl
@[simp] theorem Eff.setTurns_mem (v : Nat) : ((Eff.setTurns v).apply s).mem = s.mem := rfl
@[simp] theorem Eff.setTurns_mmeta (v : Nat) : ((Eff.setTurns v).apply s).mmeta = s.mmeta := rfl
@[simp] theorem Eff.setTurns_err (v : Nat) : ((Eff.setTurns v).apply s).err = s.err := rfl
@[simp] theorem Eff.setTurns_pilotSecs (v : Nat) : ((Eff.setTurns v).apply s).pilotSecs = s.pilotSecs := rfl
@[simp] theorem Eff.setTurns_cl (v : Nat) : ((Eff.setTurns v).apply s).cl = s.cl := rfl
@[simp] theorem Eff.setTurns_codec (v : Nat) : ((Eff.setTurns v).apply s).codec = s.codec := rfl
@[simp] theorem Eff.setTurns_xlt (v : Nat) : ((Eff.setTurns v).apply s).xlt = s.xlt := rfl
@[simp] theorem Eff.setTurns_invAll (v : Nat) : ((Eff.setTurns v).apply s).invAll = s.invAll := rfl
@[simp] theorem Eff.setTurns_mov (v : Nat) : ((Eff.setTurns v).apply s).mov = s.mov := rfl
@[simp] theorem Eff.setTurns_bnd (v : Nat) : ((Eff.setTurns v).apply s).bnd = s.bnd := rfl
@[simp] theorem Eff.setTurns_lu (v : Nat) : ((Eff.setTurns v).apply s).lu = s.lu := rfl
@[simp] theorem Eff.setTurns_su (v : Nat) : ((Eff.setTurns v).apply s).su = s.su := rfl
@[simp] theorem Eff.setTurns_port (v : Nat) : ((Eff.setTurns v).apply s).port = s.port := rfl
@[simp] theorem Eff.setTurns_vote (v : Nat) : ((Eff.setTurns v).apply s).vote = s.vote := rfl
@[simp] theorem Eff.setTurns_ce (v : Nat) : ((Eff.setTurns v).apply s).ce = s.ce := rfl
@[simp] theorem Eff.setTurns_store (v : Nat) : ((Eff.setTurns v).apply s).store = s.store := rfl
@[simp] theorem Eff.setTurns_hornWait (v : Nat) : ((Eff.setTurns v).apply s).hornWait = s.hornWait := rfl
@[simp] theorem Eff.setTurns_chan (v : Nat) : ((Eff.setTurns v).apply s).chan = s.chan := rfl
@[simp] theorem Eff.setTurns_keys (v : Nat) : ((Eff.setTurns v).apply s).keys = s.keys := rfl
@[simp] theorem Eff.setTurns_jnl (v : Nat) : ((Eff.setTurns v).apply s).jnl = s.jnl := rfl
@[simp] theorem Eff.setTurns_flash (v : Nat) : ((Eff.setTurns v).apply s).flash = s.flash := rfl
@[simp] theorem Eff.setTurns_await (v : Nat) : ((Eff.setTurns v).apply s).await = s.await := rfl
@[simp] theorem Eff.setTurns_load (v : Nat) : ((Eff.setTurns v).apply s).load = s.load := rfl
@[simp] theorem Eff.setTurns_rb (v : Nat) : ((Eff.setTurns v).apply s).rb = s.rb := rfl
@[simp] theorem Eff.setTurns_saves (v : Nat) : ((Eff.setTurns v).apply s).saves = s.saves := rfl
@[simp] theorem Eff.setTurns_hq (v : Nat) : ((Eff.setTurns v).apply s).hq = s.hq := rfl
@[simp] theorem Eff.setTurns_turns (v : Nat) :
    ((Eff.setTurns v).apply s).turns = v := rfl
@[simp] theorem Eff.setTurns_boot (v : Nat) : ((Eff.setTurns v).apply s).boot = s.boot := rfl
@[simp] theorem Eff.setTurns_pins (v : Nat) : ((Eff.setTurns v).apply s).pins = s.pins := rfl
@[simp] theorem Eff.setTurns_sec (v : Nat) : ((Eff.setTurns v).apply s).sec = s.sec := rfl
@[simp] theorem Eff.setTurns_tel (v : Nat) : ((Eff.setTurns v).apply s).tel = s.tel := rfl
@[simp] theorem Eff.setTurns_fw (v : Nat) : ((Eff.setTurns v).apply s).fw = s.fw := rfl
@[simp] theorem Eff.setTurns_digests (v : Nat) : ((Eff.setTurns v).apply s).digests = s.digests := rfl
@[simp] theorem Eff.setTurns_fseq (v : Nat) : ((Eff.setTurns v).apply s).fseq = s.fseq := rfl
@[simp] theorem Eff.setTurns_lseq (v : Nat) : ((Eff.setTurns v).apply s).lseq = s.lseq := rfl
@[simp] theorem Eff.setTurns_unread (v : Nat) : ((Eff.setTurns v).apply s).unread = s.unread := rfl
@[simp] theorem Eff.setTurns_epochs (v : Nat) : ((Eff.setTurns v).apply s).epochs = s.epochs := rfl
@[simp] theorem Eff.setTurns_draws (v : Nat) : ((Eff.setTurns v).apply s).draws = s.draws := rfl
@[simp] theorem Eff.setTurns_out (v : Nat) : ((Eff.setTurns v).apply s).out = s.out := rfl
@[simp] theorem Eff.setTurns_pending (v : Nat) : ((Eff.setTurns v).apply s).pending = s.pending := rfl

/-! ### setBoot -/

@[simp] theorem Eff.setBoot_reg (v : Boot) : ((Eff.setBoot v).apply s).reg = s.reg := rfl
@[simp] theorem Eff.setBoot_pend (v : Boot) : ((Eff.setBoot v).apply s).pend = s.pend := rfl
@[simp] theorem Eff.setBoot_mem (v : Boot) : ((Eff.setBoot v).apply s).mem = s.mem := rfl
@[simp] theorem Eff.setBoot_mmeta (v : Boot) : ((Eff.setBoot v).apply s).mmeta = s.mmeta := rfl
@[simp] theorem Eff.setBoot_err (v : Boot) : ((Eff.setBoot v).apply s).err = s.err := rfl
@[simp] theorem Eff.setBoot_pilotSecs (v : Boot) : ((Eff.setBoot v).apply s).pilotSecs = s.pilotSecs := rfl
@[simp] theorem Eff.setBoot_cl (v : Boot) : ((Eff.setBoot v).apply s).cl = s.cl := rfl
@[simp] theorem Eff.setBoot_codec (v : Boot) : ((Eff.setBoot v).apply s).codec = s.codec := rfl
@[simp] theorem Eff.setBoot_xlt (v : Boot) : ((Eff.setBoot v).apply s).xlt = s.xlt := rfl
@[simp] theorem Eff.setBoot_invAll (v : Boot) : ((Eff.setBoot v).apply s).invAll = s.invAll := rfl
@[simp] theorem Eff.setBoot_mov (v : Boot) : ((Eff.setBoot v).apply s).mov = s.mov := rfl
@[simp] theorem Eff.setBoot_bnd (v : Boot) : ((Eff.setBoot v).apply s).bnd = s.bnd := rfl
@[simp] theorem Eff.setBoot_lu (v : Boot) : ((Eff.setBoot v).apply s).lu = s.lu := rfl
@[simp] theorem Eff.setBoot_su (v : Boot) : ((Eff.setBoot v).apply s).su = s.su := rfl
@[simp] theorem Eff.setBoot_port (v : Boot) : ((Eff.setBoot v).apply s).port = s.port := rfl
@[simp] theorem Eff.setBoot_vote (v : Boot) : ((Eff.setBoot v).apply s).vote = s.vote := rfl
@[simp] theorem Eff.setBoot_ce (v : Boot) : ((Eff.setBoot v).apply s).ce = s.ce := rfl
@[simp] theorem Eff.setBoot_store (v : Boot) : ((Eff.setBoot v).apply s).store = s.store := rfl
@[simp] theorem Eff.setBoot_hornWait (v : Boot) : ((Eff.setBoot v).apply s).hornWait = s.hornWait := rfl
@[simp] theorem Eff.setBoot_chan (v : Boot) : ((Eff.setBoot v).apply s).chan = s.chan := rfl
@[simp] theorem Eff.setBoot_keys (v : Boot) : ((Eff.setBoot v).apply s).keys = s.keys := rfl
@[simp] theorem Eff.setBoot_jnl (v : Boot) : ((Eff.setBoot v).apply s).jnl = s.jnl := rfl
@[simp] theorem Eff.setBoot_flash (v : Boot) : ((Eff.setBoot v).apply s).flash = s.flash := rfl
@[simp] theorem Eff.setBoot_await (v : Boot) : ((Eff.setBoot v).apply s).await = s.await := rfl
@[simp] theorem Eff.setBoot_load (v : Boot) : ((Eff.setBoot v).apply s).load = s.load := rfl
@[simp] theorem Eff.setBoot_rb (v : Boot) : ((Eff.setBoot v).apply s).rb = s.rb := rfl
@[simp] theorem Eff.setBoot_saves (v : Boot) : ((Eff.setBoot v).apply s).saves = s.saves := rfl
@[simp] theorem Eff.setBoot_hq (v : Boot) : ((Eff.setBoot v).apply s).hq = s.hq := rfl
@[simp] theorem Eff.setBoot_turns (v : Boot) : ((Eff.setBoot v).apply s).turns = s.turns := rfl
@[simp] theorem Eff.setBoot_boot (v : Boot) :
    ((Eff.setBoot v).apply s).boot = v := rfl
@[simp] theorem Eff.setBoot_pins (v : Boot) : ((Eff.setBoot v).apply s).pins = s.pins := rfl
@[simp] theorem Eff.setBoot_sec (v : Boot) : ((Eff.setBoot v).apply s).sec = s.sec := rfl
@[simp] theorem Eff.setBoot_tel (v : Boot) : ((Eff.setBoot v).apply s).tel = s.tel := rfl
@[simp] theorem Eff.setBoot_fw (v : Boot) : ((Eff.setBoot v).apply s).fw = s.fw := rfl
@[simp] theorem Eff.setBoot_digests (v : Boot) : ((Eff.setBoot v).apply s).digests = s.digests := rfl
@[simp] theorem Eff.setBoot_fseq (v : Boot) : ((Eff.setBoot v).apply s).fseq = s.fseq := rfl
@[simp] theorem Eff.setBoot_lseq (v : Boot) : ((Eff.setBoot v).apply s).lseq = s.lseq := rfl
@[simp] theorem Eff.setBoot_unread (v : Boot) : ((Eff.setBoot v).apply s).unread = s.unread := rfl
@[simp] theorem Eff.setBoot_epochs (v : Boot) : ((Eff.setBoot v).apply s).epochs = s.epochs := rfl
@[simp] theorem Eff.setBoot_draws (v : Boot) : ((Eff.setBoot v).apply s).draws = s.draws := rfl
@[simp] theorem Eff.setBoot_out (v : Boot) : ((Eff.setBoot v).apply s).out = s.out := rfl
@[simp] theorem Eff.setBoot_pending (v : Boot) : ((Eff.setBoot v).apply s).pending = s.pending := rfl

/-! ### setPins -/

@[simp] theorem Eff.setPins_reg (v : Pins) : ((Eff.setPins v).apply s).reg = s.reg := rfl
@[simp] theorem Eff.setPins_pend (v : Pins) : ((Eff.setPins v).apply s).pend = s.pend := rfl
@[simp] theorem Eff.setPins_mem (v : Pins) : ((Eff.setPins v).apply s).mem = s.mem := rfl
@[simp] theorem Eff.setPins_mmeta (v : Pins) : ((Eff.setPins v).apply s).mmeta = s.mmeta := rfl
@[simp] theorem Eff.setPins_err (v : Pins) : ((Eff.setPins v).apply s).err = s.err := rfl
@[simp] theorem Eff.setPins_pilotSecs (v : Pins) : ((Eff.setPins v).apply s).pilotSecs = s.pilotSecs := rfl
@[simp] theorem Eff.setPins_cl (v : Pins) : ((Eff.setPins v).apply s).cl = s.cl := rfl
@[simp] theorem Eff.setPins_codec (v : Pins) : ((Eff.setPins v).apply s).codec = s.codec := rfl
@[simp] theorem Eff.setPins_xlt (v : Pins) : ((Eff.setPins v).apply s).xlt = s.xlt := rfl
@[simp] theorem Eff.setPins_invAll (v : Pins) : ((Eff.setPins v).apply s).invAll = s.invAll := rfl
@[simp] theorem Eff.setPins_mov (v : Pins) : ((Eff.setPins v).apply s).mov = s.mov := rfl
@[simp] theorem Eff.setPins_bnd (v : Pins) : ((Eff.setPins v).apply s).bnd = s.bnd := rfl
@[simp] theorem Eff.setPins_lu (v : Pins) : ((Eff.setPins v).apply s).lu = s.lu := rfl
@[simp] theorem Eff.setPins_su (v : Pins) : ((Eff.setPins v).apply s).su = s.su := rfl
@[simp] theorem Eff.setPins_port (v : Pins) : ((Eff.setPins v).apply s).port = s.port := rfl
@[simp] theorem Eff.setPins_vote (v : Pins) : ((Eff.setPins v).apply s).vote = s.vote := rfl
@[simp] theorem Eff.setPins_ce (v : Pins) : ((Eff.setPins v).apply s).ce = s.ce := rfl
@[simp] theorem Eff.setPins_store (v : Pins) : ((Eff.setPins v).apply s).store = s.store := rfl
@[simp] theorem Eff.setPins_hornWait (v : Pins) : ((Eff.setPins v).apply s).hornWait = s.hornWait := rfl
@[simp] theorem Eff.setPins_chan (v : Pins) : ((Eff.setPins v).apply s).chan = s.chan := rfl
@[simp] theorem Eff.setPins_keys (v : Pins) : ((Eff.setPins v).apply s).keys = s.keys := rfl
@[simp] theorem Eff.setPins_jnl (v : Pins) : ((Eff.setPins v).apply s).jnl = s.jnl := rfl
@[simp] theorem Eff.setPins_flash (v : Pins) : ((Eff.setPins v).apply s).flash = s.flash := rfl
@[simp] theorem Eff.setPins_await (v : Pins) : ((Eff.setPins v).apply s).await = s.await := rfl
@[simp] theorem Eff.setPins_load (v : Pins) : ((Eff.setPins v).apply s).load = s.load := rfl
@[simp] theorem Eff.setPins_rb (v : Pins) : ((Eff.setPins v).apply s).rb = s.rb := rfl
@[simp] theorem Eff.setPins_saves (v : Pins) : ((Eff.setPins v).apply s).saves = s.saves := rfl
@[simp] theorem Eff.setPins_hq (v : Pins) : ((Eff.setPins v).apply s).hq = s.hq := rfl
@[simp] theorem Eff.setPins_turns (v : Pins) : ((Eff.setPins v).apply s).turns = s.turns := rfl
@[simp] theorem Eff.setPins_boot (v : Pins) : ((Eff.setPins v).apply s).boot = s.boot := rfl
@[simp] theorem Eff.setPins_pins (v : Pins) :
    ((Eff.setPins v).apply s).pins = v := rfl
@[simp] theorem Eff.setPins_sec (v : Pins) : ((Eff.setPins v).apply s).sec = s.sec := rfl
@[simp] theorem Eff.setPins_tel (v : Pins) : ((Eff.setPins v).apply s).tel = s.tel := rfl
@[simp] theorem Eff.setPins_fw (v : Pins) : ((Eff.setPins v).apply s).fw = s.fw := rfl
@[simp] theorem Eff.setPins_digests (v : Pins) : ((Eff.setPins v).apply s).digests = s.digests := rfl
@[simp] theorem Eff.setPins_fseq (v : Pins) : ((Eff.setPins v).apply s).fseq = s.fseq := rfl
@[simp] theorem Eff.setPins_lseq (v : Pins) : ((Eff.setPins v).apply s).lseq = s.lseq := rfl
@[simp] theorem Eff.setPins_unread (v : Pins) : ((Eff.setPins v).apply s).unread = s.unread := rfl
@[simp] theorem Eff.setPins_epochs (v : Pins) : ((Eff.setPins v).apply s).epochs = s.epochs := rfl
@[simp] theorem Eff.setPins_draws (v : Pins) : ((Eff.setPins v).apply s).draws = s.draws := rfl
@[simp] theorem Eff.setPins_out (v : Pins) : ((Eff.setPins v).apply s).out = s.out := rfl
@[simp] theorem Eff.setPins_pending (v : Pins) : ((Eff.setPins v).apply s).pending = s.pending := rfl

/-! ### setSec -/

@[simp] theorem Eff.setSec_reg (v : Sec) : ((Eff.setSec v).apply s).reg = s.reg := rfl
@[simp] theorem Eff.setSec_pend (v : Sec) : ((Eff.setSec v).apply s).pend = s.pend := rfl
@[simp] theorem Eff.setSec_mem (v : Sec) : ((Eff.setSec v).apply s).mem = s.mem := rfl
@[simp] theorem Eff.setSec_mmeta (v : Sec) : ((Eff.setSec v).apply s).mmeta = s.mmeta := rfl
@[simp] theorem Eff.setSec_err (v : Sec) : ((Eff.setSec v).apply s).err = s.err := rfl
@[simp] theorem Eff.setSec_pilotSecs (v : Sec) : ((Eff.setSec v).apply s).pilotSecs = s.pilotSecs := rfl
@[simp] theorem Eff.setSec_cl (v : Sec) : ((Eff.setSec v).apply s).cl = s.cl := rfl
@[simp] theorem Eff.setSec_codec (v : Sec) : ((Eff.setSec v).apply s).codec = s.codec := rfl
@[simp] theorem Eff.setSec_xlt (v : Sec) : ((Eff.setSec v).apply s).xlt = s.xlt := rfl
@[simp] theorem Eff.setSec_invAll (v : Sec) : ((Eff.setSec v).apply s).invAll = s.invAll := rfl
@[simp] theorem Eff.setSec_mov (v : Sec) : ((Eff.setSec v).apply s).mov = s.mov := rfl
@[simp] theorem Eff.setSec_bnd (v : Sec) : ((Eff.setSec v).apply s).bnd = s.bnd := rfl
@[simp] theorem Eff.setSec_lu (v : Sec) : ((Eff.setSec v).apply s).lu = s.lu := rfl
@[simp] theorem Eff.setSec_su (v : Sec) : ((Eff.setSec v).apply s).su = s.su := rfl
@[simp] theorem Eff.setSec_port (v : Sec) : ((Eff.setSec v).apply s).port = s.port := rfl
@[simp] theorem Eff.setSec_vote (v : Sec) : ((Eff.setSec v).apply s).vote = s.vote := rfl
@[simp] theorem Eff.setSec_ce (v : Sec) : ((Eff.setSec v).apply s).ce = s.ce := rfl
@[simp] theorem Eff.setSec_store (v : Sec) : ((Eff.setSec v).apply s).store = s.store := rfl
@[simp] theorem Eff.setSec_hornWait (v : Sec) : ((Eff.setSec v).apply s).hornWait = s.hornWait := rfl
@[simp] theorem Eff.setSec_chan (v : Sec) : ((Eff.setSec v).apply s).chan = s.chan := rfl
@[simp] theorem Eff.setSec_keys (v : Sec) : ((Eff.setSec v).apply s).keys = s.keys := rfl
@[simp] theorem Eff.setSec_jnl (v : Sec) : ((Eff.setSec v).apply s).jnl = s.jnl := rfl
@[simp] theorem Eff.setSec_flash (v : Sec) : ((Eff.setSec v).apply s).flash = s.flash := rfl
@[simp] theorem Eff.setSec_await (v : Sec) : ((Eff.setSec v).apply s).await = s.await := rfl
@[simp] theorem Eff.setSec_load (v : Sec) : ((Eff.setSec v).apply s).load = s.load := rfl
@[simp] theorem Eff.setSec_rb (v : Sec) : ((Eff.setSec v).apply s).rb = s.rb := rfl
@[simp] theorem Eff.setSec_saves (v : Sec) : ((Eff.setSec v).apply s).saves = s.saves := rfl
@[simp] theorem Eff.setSec_hq (v : Sec) : ((Eff.setSec v).apply s).hq = s.hq := rfl
@[simp] theorem Eff.setSec_turns (v : Sec) : ((Eff.setSec v).apply s).turns = s.turns := rfl
@[simp] theorem Eff.setSec_boot (v : Sec) : ((Eff.setSec v).apply s).boot = s.boot := rfl
@[simp] theorem Eff.setSec_pins (v : Sec) : ((Eff.setSec v).apply s).pins = s.pins := rfl
@[simp] theorem Eff.setSec_sec (v : Sec) :
    ((Eff.setSec v).apply s).sec = v := rfl
@[simp] theorem Eff.setSec_tel (v : Sec) : ((Eff.setSec v).apply s).tel = s.tel := rfl
@[simp] theorem Eff.setSec_fw (v : Sec) : ((Eff.setSec v).apply s).fw = s.fw := rfl
@[simp] theorem Eff.setSec_digests (v : Sec) : ((Eff.setSec v).apply s).digests = s.digests := rfl
@[simp] theorem Eff.setSec_fseq (v : Sec) : ((Eff.setSec v).apply s).fseq = s.fseq := rfl
@[simp] theorem Eff.setSec_lseq (v : Sec) : ((Eff.setSec v).apply s).lseq = s.lseq := rfl
@[simp] theorem Eff.setSec_unread (v : Sec) : ((Eff.setSec v).apply s).unread = s.unread := rfl
@[simp] theorem Eff.setSec_epochs (v : Sec) : ((Eff.setSec v).apply s).epochs = s.epochs := rfl
@[simp] theorem Eff.setSec_draws (v : Sec) : ((Eff.setSec v).apply s).draws = s.draws := rfl
@[simp] theorem Eff.setSec_out (v : Sec) : ((Eff.setSec v).apply s).out = s.out := rfl
@[simp] theorem Eff.setSec_pending (v : Sec) : ((Eff.setSec v).apply s).pending = s.pending := rfl

/-! ### setTel -/

@[simp] theorem Eff.setTel_reg (v : Tel) : ((Eff.setTel v).apply s).reg = s.reg := rfl
@[simp] theorem Eff.setTel_pend (v : Tel) : ((Eff.setTel v).apply s).pend = s.pend := rfl
@[simp] theorem Eff.setTel_mem (v : Tel) : ((Eff.setTel v).apply s).mem = s.mem := rfl
@[simp] theorem Eff.setTel_mmeta (v : Tel) : ((Eff.setTel v).apply s).mmeta = s.mmeta := rfl
@[simp] theorem Eff.setTel_err (v : Tel) : ((Eff.setTel v).apply s).err = s.err := rfl
@[simp] theorem Eff.setTel_pilotSecs (v : Tel) : ((Eff.setTel v).apply s).pilotSecs = s.pilotSecs := rfl
@[simp] theorem Eff.setTel_cl (v : Tel) : ((Eff.setTel v).apply s).cl = s.cl := rfl
@[simp] theorem Eff.setTel_codec (v : Tel) : ((Eff.setTel v).apply s).codec = s.codec := rfl
@[simp] theorem Eff.setTel_xlt (v : Tel) : ((Eff.setTel v).apply s).xlt = s.xlt := rfl
@[simp] theorem Eff.setTel_invAll (v : Tel) : ((Eff.setTel v).apply s).invAll = s.invAll := rfl
@[simp] theorem Eff.setTel_mov (v : Tel) : ((Eff.setTel v).apply s).mov = s.mov := rfl
@[simp] theorem Eff.setTel_bnd (v : Tel) : ((Eff.setTel v).apply s).bnd = s.bnd := rfl
@[simp] theorem Eff.setTel_lu (v : Tel) : ((Eff.setTel v).apply s).lu = s.lu := rfl
@[simp] theorem Eff.setTel_su (v : Tel) : ((Eff.setTel v).apply s).su = s.su := rfl
@[simp] theorem Eff.setTel_port (v : Tel) : ((Eff.setTel v).apply s).port = s.port := rfl
@[simp] theorem Eff.setTel_vote (v : Tel) : ((Eff.setTel v).apply s).vote = s.vote := rfl
@[simp] theorem Eff.setTel_ce (v : Tel) : ((Eff.setTel v).apply s).ce = s.ce := rfl
@[simp] theorem Eff.setTel_store (v : Tel) : ((Eff.setTel v).apply s).store = s.store := rfl
@[simp] theorem Eff.setTel_hornWait (v : Tel) : ((Eff.setTel v).apply s).hornWait = s.hornWait := rfl
@[simp] theorem Eff.setTel_chan (v : Tel) : ((Eff.setTel v).apply s).chan = s.chan := rfl
@[simp] theorem Eff.setTel_keys (v : Tel) : ((Eff.setTel v).apply s).keys = s.keys := rfl
@[simp] theorem Eff.setTel_jnl (v : Tel) : ((Eff.setTel v).apply s).jnl = s.jnl := rfl
@[simp] theorem Eff.setTel_flash (v : Tel) : ((Eff.setTel v).apply s).flash = s.flash := rfl
@[simp] theorem Eff.setTel_await (v : Tel) : ((Eff.setTel v).apply s).await = s.await := rfl
@[simp] theorem Eff.setTel_load (v : Tel) : ((Eff.setTel v).apply s).load = s.load := rfl
@[simp] theorem Eff.setTel_rb (v : Tel) : ((Eff.setTel v).apply s).rb = s.rb := rfl
@[simp] theorem Eff.setTel_saves (v : Tel) : ((Eff.setTel v).apply s).saves = s.saves := rfl
@[simp] theorem Eff.setTel_hq (v : Tel) : ((Eff.setTel v).apply s).hq = s.hq := rfl
@[simp] theorem Eff.setTel_turns (v : Tel) : ((Eff.setTel v).apply s).turns = s.turns := rfl
@[simp] theorem Eff.setTel_boot (v : Tel) : ((Eff.setTel v).apply s).boot = s.boot := rfl
@[simp] theorem Eff.setTel_pins (v : Tel) : ((Eff.setTel v).apply s).pins = s.pins := rfl
@[simp] theorem Eff.setTel_sec (v : Tel) : ((Eff.setTel v).apply s).sec = s.sec := rfl
@[simp] theorem Eff.setTel_tel (v : Tel) :
    ((Eff.setTel v).apply s).tel = v := rfl
@[simp] theorem Eff.setTel_fw (v : Tel) : ((Eff.setTel v).apply s).fw = s.fw := rfl
@[simp] theorem Eff.setTel_digests (v : Tel) : ((Eff.setTel v).apply s).digests = s.digests := rfl
@[simp] theorem Eff.setTel_fseq (v : Tel) : ((Eff.setTel v).apply s).fseq = s.fseq := rfl
@[simp] theorem Eff.setTel_lseq (v : Tel) : ((Eff.setTel v).apply s).lseq = s.lseq := rfl
@[simp] theorem Eff.setTel_unread (v : Tel) : ((Eff.setTel v).apply s).unread = s.unread := rfl
@[simp] theorem Eff.setTel_epochs (v : Tel) : ((Eff.setTel v).apply s).epochs = s.epochs := rfl
@[simp] theorem Eff.setTel_draws (v : Tel) : ((Eff.setTel v).apply s).draws = s.draws := rfl
@[simp] theorem Eff.setTel_out (v : Tel) : ((Eff.setTel v).apply s).out = s.out := rfl
@[simp] theorem Eff.setTel_pending (v : Tel) : ((Eff.setTel v).apply s).pending = s.pending := rfl

/-! ### setFw -/

@[simp] theorem Eff.setFw_reg (v : Fw) : ((Eff.setFw v).apply s).reg = s.reg := rfl
@[simp] theorem Eff.setFw_pend (v : Fw) : ((Eff.setFw v).apply s).pend = s.pend := rfl
@[simp] theorem Eff.setFw_mem (v : Fw) : ((Eff.setFw v).apply s).mem = s.mem := rfl
@[simp] theorem Eff.setFw_mmeta (v : Fw) : ((Eff.setFw v).apply s).mmeta = s.mmeta := rfl
@[simp] theorem Eff.setFw_err (v : Fw) : ((Eff.setFw v).apply s).err = s.err := rfl
@[simp] theorem Eff.setFw_pilotSecs (v : Fw) : ((Eff.setFw v).apply s).pilotSecs = s.pilotSecs := rfl
@[simp] theorem Eff.setFw_cl (v : Fw) : ((Eff.setFw v).apply s).cl = s.cl := rfl
@[simp] theorem Eff.setFw_codec (v : Fw) : ((Eff.setFw v).apply s).codec = s.codec := rfl
@[simp] theorem Eff.setFw_xlt (v : Fw) : ((Eff.setFw v).apply s).xlt = s.xlt := rfl
@[simp] theorem Eff.setFw_invAll (v : Fw) : ((Eff.setFw v).apply s).invAll = s.invAll := rfl
@[simp] theorem Eff.setFw_mov (v : Fw) : ((Eff.setFw v).apply s).mov = s.mov := rfl
@[simp] theorem Eff.setFw_bnd (v : Fw) : ((Eff.setFw v).apply s).bnd = s.bnd := rfl
@[simp] theorem Eff.setFw_lu (v : Fw) : ((Eff.setFw v).apply s).lu = s.lu := rfl
@[simp] theorem Eff.setFw_su (v : Fw) : ((Eff.setFw v).apply s).su = s.su := rfl
@[simp] theorem Eff.setFw_port (v : Fw) : ((Eff.setFw v).apply s).port = s.port := rfl
@[simp] theorem Eff.setFw_vote (v : Fw) : ((Eff.setFw v).apply s).vote = s.vote := rfl
@[simp] theorem Eff.setFw_ce (v : Fw) : ((Eff.setFw v).apply s).ce = s.ce := rfl
@[simp] theorem Eff.setFw_store (v : Fw) : ((Eff.setFw v).apply s).store = s.store := rfl
@[simp] theorem Eff.setFw_hornWait (v : Fw) : ((Eff.setFw v).apply s).hornWait = s.hornWait := rfl
@[simp] theorem Eff.setFw_chan (v : Fw) : ((Eff.setFw v).apply s).chan = s.chan := rfl
@[simp] theorem Eff.setFw_keys (v : Fw) : ((Eff.setFw v).apply s).keys = s.keys := rfl
@[simp] theorem Eff.setFw_jnl (v : Fw) : ((Eff.setFw v).apply s).jnl = s.jnl := rfl
@[simp] theorem Eff.setFw_flash (v : Fw) : ((Eff.setFw v).apply s).flash = s.flash := rfl
@[simp] theorem Eff.setFw_await (v : Fw) : ((Eff.setFw v).apply s).await = s.await := rfl
@[simp] theorem Eff.setFw_load (v : Fw) : ((Eff.setFw v).apply s).load = s.load := rfl
@[simp] theorem Eff.setFw_rb (v : Fw) : ((Eff.setFw v).apply s).rb = s.rb := rfl
@[simp] theorem Eff.setFw_saves (v : Fw) : ((Eff.setFw v).apply s).saves = s.saves := rfl
@[simp] theorem Eff.setFw_hq (v : Fw) : ((Eff.setFw v).apply s).hq = s.hq := rfl
@[simp] theorem Eff.setFw_turns (v : Fw) : ((Eff.setFw v).apply s).turns = s.turns := rfl
@[simp] theorem Eff.setFw_boot (v : Fw) : ((Eff.setFw v).apply s).boot = s.boot := rfl
@[simp] theorem Eff.setFw_pins (v : Fw) : ((Eff.setFw v).apply s).pins = s.pins := rfl
@[simp] theorem Eff.setFw_sec (v : Fw) : ((Eff.setFw v).apply s).sec = s.sec := rfl
@[simp] theorem Eff.setFw_tel (v : Fw) : ((Eff.setFw v).apply s).tel = s.tel := rfl
@[simp] theorem Eff.setFw_fw (v : Fw) :
    ((Eff.setFw v).apply s).fw = v := rfl
@[simp] theorem Eff.setFw_digests (v : Fw) : ((Eff.setFw v).apply s).digests = s.digests := rfl
@[simp] theorem Eff.setFw_fseq (v : Fw) : ((Eff.setFw v).apply s).fseq = s.fseq := rfl
@[simp] theorem Eff.setFw_lseq (v : Fw) : ((Eff.setFw v).apply s).lseq = s.lseq := rfl
@[simp] theorem Eff.setFw_unread (v : Fw) : ((Eff.setFw v).apply s).unread = s.unread := rfl
@[simp] theorem Eff.setFw_epochs (v : Fw) : ((Eff.setFw v).apply s).epochs = s.epochs := rfl
@[simp] theorem Eff.setFw_draws (v : Fw) : ((Eff.setFw v).apply s).draws = s.draws := rfl
@[simp] theorem Eff.setFw_out (v : Fw) : ((Eff.setFw v).apply s).out = s.out := rfl
@[simp] theorem Eff.setFw_pending (v : Fw) : ((Eff.setFw v).apply s).pending = s.pending := rfl

/-! ### powerLost -/

@[simp] theorem Eff.powerLost_reg : (Eff.powerLost.apply s).reg = State.reset.reg := rfl
@[simp] theorem Eff.powerLost_pend : (Eff.powerLost.apply s).pend = State.reset.pend := rfl
@[simp] theorem Eff.powerLost_mem : (Eff.powerLost.apply s).mem = State.reset.mem := rfl
@[simp] theorem Eff.powerLost_mmeta : (Eff.powerLost.apply s).mmeta = State.reset.mmeta := rfl
@[simp] theorem Eff.powerLost_err : (Eff.powerLost.apply s).err = State.reset.err := rfl
@[simp] theorem Eff.powerLost_pilotSecs : (Eff.powerLost.apply s).pilotSecs = State.reset.pilotSecs := rfl
@[simp] theorem Eff.powerLost_cl : (Eff.powerLost.apply s).cl = State.reset.cl := rfl
@[simp] theorem Eff.powerLost_codec : (Eff.powerLost.apply s).codec = State.reset.codec := rfl
@[simp] theorem Eff.powerLost_xlt : (Eff.powerLost.apply s).xlt = State.reset.xlt := rfl
@[simp] theorem Eff.powerLost_invAll : (Eff.powerLost.apply s).invAll = State.reset.invAll := rfl
@[simp] theorem Eff.powerLost_mov : (Eff.powerLost.apply s).mov = State.reset.mov := rfl
@[simp] theorem Eff.powerLost_bnd : (Eff.powerLost.apply s).bnd = State.reset.bnd := rfl
@[simp] theorem Eff.powerLost_lu : (Eff.powerLost.apply s).lu = State.reset.lu := rfl
@[simp] theorem Eff.powerLost_su : (Eff.powerLost.apply s).su = State.reset.su := rfl
@[simp] theorem Eff.powerLost_port : (Eff.powerLost.apply s).port = State.reset.port := rfl
@[simp] theorem Eff.powerLost_vote : (Eff.powerLost.apply s).vote = State.reset.vote := rfl
@[simp] theorem Eff.powerLost_ce : (Eff.powerLost.apply s).ce = State.reset.ce := rfl
@[simp] theorem Eff.powerLost_store : (Eff.powerLost.apply s).store = State.reset.store := rfl
@[simp] theorem Eff.powerLost_hornWait : (Eff.powerLost.apply s).hornWait = State.reset.hornWait := rfl
@[simp] theorem Eff.powerLost_chan : (Eff.powerLost.apply s).chan = State.reset.chan := rfl
@[simp] theorem Eff.powerLost_keys : (Eff.powerLost.apply s).keys = State.reset.keys := rfl
@[simp] theorem Eff.powerLost_jnl : (Eff.powerLost.apply s).jnl = State.reset.jnl := rfl
@[simp] theorem Eff.powerLost_flash : (Eff.powerLost.apply s).flash = s.flash := rfl
@[simp] theorem Eff.powerLost_await : (Eff.powerLost.apply s).await = State.reset.await := rfl
@[simp] theorem Eff.powerLost_load : (Eff.powerLost.apply s).load = State.reset.load := rfl
@[simp] theorem Eff.powerLost_rb : (Eff.powerLost.apply s).rb = State.reset.rb := rfl
@[simp] theorem Eff.powerLost_saves : (Eff.powerLost.apply s).saves = State.reset.saves := rfl
@[simp] theorem Eff.powerLost_hq : (Eff.powerLost.apply s).hq = State.reset.hq := rfl
@[simp] theorem Eff.powerLost_turns : (Eff.powerLost.apply s).turns = State.reset.turns := rfl
@[simp] theorem Eff.powerLost_boot : (Eff.powerLost.apply s).boot = { Boot.init with arb := s.boot.arb } := rfl
@[simp] theorem Eff.powerLost_pins : (Eff.powerLost.apply s).pins = State.reset.pins := rfl
@[simp] theorem Eff.powerLost_sec : (Eff.powerLost.apply s).sec = { Sec.init with owner := s.sec.owner, tcount := s.sec.tcount } := rfl
@[simp] theorem Eff.powerLost_tel : (Eff.powerLost.apply s).tel = State.reset.tel := rfl
@[simp] theorem Eff.powerLost_fw : (Eff.powerLost.apply s).fw = State.reset.fw := rfl
@[simp] theorem Eff.powerLost_digests : (Eff.powerLost.apply s).digests = State.reset.digests := rfl
@[simp] theorem Eff.powerLost_fseq : (Eff.powerLost.apply s).fseq = State.reset.fseq := rfl
@[simp] theorem Eff.powerLost_lseq : (Eff.powerLost.apply s).lseq = State.reset.lseq := rfl
@[simp] theorem Eff.powerLost_unread : (Eff.powerLost.apply s).unread = State.reset.unread := rfl
@[simp] theorem Eff.powerLost_epochs : (Eff.powerLost.apply s).epochs = s.epochs := rfl
@[simp] theorem Eff.powerLost_draws : (Eff.powerLost.apply s).draws = s.draws := rfl
@[simp] theorem Eff.powerLost_out : (Eff.powerLost.apply s).out = s.out := rfl
@[simp] theorem Eff.powerLost_pending : (Eff.powerLost.apply s).pending = s.pending := rfl

/-! ### setDigests -/

@[simp] theorem Eff.setDigests_reg (v : List ((Nat × Nat) × (Nat × Nat))) : ((Eff.setDigests v).apply s).reg = s.reg := rfl
@[simp] theorem Eff.setDigests_pend (v : List ((Nat × Nat) × (Nat × Nat))) : ((Eff.setDigests v).apply s).pend = s.pend := rfl
@[simp] theorem Eff.setDigests_mem (v : List ((Nat × Nat) × (Nat × Nat))) : ((Eff.setDigests v).apply s).mem = s.mem := rfl
@[simp] theorem Eff.setDigests_mmeta (v : List ((Nat × Nat) × (Nat × Nat))) : ((Eff.setDigests v).apply s).mmeta = s.mmeta := rfl
@[simp] theorem Eff.setDigests_err (v : List ((Nat × Nat) × (Nat × Nat))) : ((Eff.setDigests v).apply s).err = s.err := rfl
@[simp] theorem Eff.setDigests_pilotSecs (v : List ((Nat × Nat) × (Nat × Nat))) : ((Eff.setDigests v).apply s).pilotSecs = s.pilotSecs := rfl
@[simp] theorem Eff.setDigests_cl (v : List ((Nat × Nat) × (Nat × Nat))) : ((Eff.setDigests v).apply s).cl = s.cl := rfl
@[simp] theorem Eff.setDigests_codec (v : List ((Nat × Nat) × (Nat × Nat))) : ((Eff.setDigests v).apply s).codec = s.codec := rfl
@[simp] theorem Eff.setDigests_xlt (v : List ((Nat × Nat) × (Nat × Nat))) : ((Eff.setDigests v).apply s).xlt = s.xlt := rfl
@[simp] theorem Eff.setDigests_invAll (v : List ((Nat × Nat) × (Nat × Nat))) : ((Eff.setDigests v).apply s).invAll = s.invAll := rfl
@[simp] theorem Eff.setDigests_mov (v : List ((Nat × Nat) × (Nat × Nat))) : ((Eff.setDigests v).apply s).mov = s.mov := rfl
@[simp] theorem Eff.setDigests_bnd (v : List ((Nat × Nat) × (Nat × Nat))) : ((Eff.setDigests v).apply s).bnd = s.bnd := rfl
@[simp] theorem Eff.setDigests_lu (v : List ((Nat × Nat) × (Nat × Nat))) : ((Eff.setDigests v).apply s).lu = s.lu := rfl
@[simp] theorem Eff.setDigests_su (v : List ((Nat × Nat) × (Nat × Nat))) : ((Eff.setDigests v).apply s).su = s.su := rfl
@[simp] theorem Eff.setDigests_port (v : List ((Nat × Nat) × (Nat × Nat))) : ((Eff.setDigests v).apply s).port = s.port := rfl
@[simp] theorem Eff.setDigests_vote (v : List ((Nat × Nat) × (Nat × Nat))) : ((Eff.setDigests v).apply s).vote = s.vote := rfl
@[simp] theorem Eff.setDigests_ce (v : List ((Nat × Nat) × (Nat × Nat))) : ((Eff.setDigests v).apply s).ce = s.ce := rfl
@[simp] theorem Eff.setDigests_store (v : List ((Nat × Nat) × (Nat × Nat))) : ((Eff.setDigests v).apply s).store = s.store := rfl
@[simp] theorem Eff.setDigests_hornWait (v : List ((Nat × Nat) × (Nat × Nat))) : ((Eff.setDigests v).apply s).hornWait = s.hornWait := rfl
@[simp] theorem Eff.setDigests_chan (v : List ((Nat × Nat) × (Nat × Nat))) : ((Eff.setDigests v).apply s).chan = s.chan := rfl
@[simp] theorem Eff.setDigests_keys (v : List ((Nat × Nat) × (Nat × Nat))) : ((Eff.setDigests v).apply s).keys = s.keys := rfl
@[simp] theorem Eff.setDigests_jnl (v : List ((Nat × Nat) × (Nat × Nat))) : ((Eff.setDigests v).apply s).jnl = s.jnl := rfl
@[simp] theorem Eff.setDigests_flash (v : List ((Nat × Nat) × (Nat × Nat))) : ((Eff.setDigests v).apply s).flash = s.flash := rfl
@[simp] theorem Eff.setDigests_await (v : List ((Nat × Nat) × (Nat × Nat))) : ((Eff.setDigests v).apply s).await = s.await := rfl
@[simp] theorem Eff.setDigests_load (v : List ((Nat × Nat) × (Nat × Nat))) : ((Eff.setDigests v).apply s).load = s.load := rfl
@[simp] theorem Eff.setDigests_rb (v : List ((Nat × Nat) × (Nat × Nat))) : ((Eff.setDigests v).apply s).rb = s.rb := rfl
@[simp] theorem Eff.setDigests_saves (v : List ((Nat × Nat) × (Nat × Nat))) : ((Eff.setDigests v).apply s).saves = s.saves := rfl
@[simp] theorem Eff.setDigests_hq (v : List ((Nat × Nat) × (Nat × Nat))) : ((Eff.setDigests v).apply s).hq = s.hq := rfl
@[simp] theorem Eff.setDigests_turns (v : List ((Nat × Nat) × (Nat × Nat))) : ((Eff.setDigests v).apply s).turns = s.turns := rfl
@[simp] theorem Eff.setDigests_boot (v : List ((Nat × Nat) × (Nat × Nat))) : ((Eff.setDigests v).apply s).boot = s.boot := rfl
@[simp] theorem Eff.setDigests_pins (v : List ((Nat × Nat) × (Nat × Nat))) : ((Eff.setDigests v).apply s).pins = s.pins := rfl
@[simp] theorem Eff.setDigests_sec (v : List ((Nat × Nat) × (Nat × Nat))) : ((Eff.setDigests v).apply s).sec = s.sec := rfl
@[simp] theorem Eff.setDigests_tel (v : List ((Nat × Nat) × (Nat × Nat))) : ((Eff.setDigests v).apply s).tel = s.tel := rfl
@[simp] theorem Eff.setDigests_fw (v : List ((Nat × Nat) × (Nat × Nat))) : ((Eff.setDigests v).apply s).fw = s.fw := rfl
@[simp] theorem Eff.setDigests_digests (v : List ((Nat × Nat) × (Nat × Nat))) :
    ((Eff.setDigests v).apply s).digests = v := rfl
@[simp] theorem Eff.setDigests_fseq (v : List ((Nat × Nat) × (Nat × Nat))) : ((Eff.setDigests v).apply s).fseq = s.fseq := rfl
@[simp] theorem Eff.setDigests_lseq (v : List ((Nat × Nat) × (Nat × Nat))) : ((Eff.setDigests v).apply s).lseq = s.lseq := rfl
@[simp] theorem Eff.setDigests_unread (v : List ((Nat × Nat) × (Nat × Nat))) : ((Eff.setDigests v).apply s).unread = s.unread := rfl
@[simp] theorem Eff.setDigests_epochs (v : List ((Nat × Nat) × (Nat × Nat))) : ((Eff.setDigests v).apply s).epochs = s.epochs := rfl
@[simp] theorem Eff.setDigests_draws (v : List ((Nat × Nat) × (Nat × Nat))) : ((Eff.setDigests v).apply s).draws = s.draws := rfl
@[simp] theorem Eff.setDigests_out (v : List ((Nat × Nat) × (Nat × Nat))) : ((Eff.setDigests v).apply s).out = s.out := rfl
@[simp] theorem Eff.setDigests_pending (v : List ((Nat × Nat) × (Nat × Nat))) : ((Eff.setDigests v).apply s).pending = s.pending := rfl

/-! ### setFseq -/

@[simp] theorem Eff.setFseq_reg (v : Nat) : ((Eff.setFseq v).apply s).reg = s.reg := rfl
@[simp] theorem Eff.setFseq_pend (v : Nat) : ((Eff.setFseq v).apply s).pend = s.pend := rfl
@[simp] theorem Eff.setFseq_mem (v : Nat) : ((Eff.setFseq v).apply s).mem = s.mem := rfl
@[simp] theorem Eff.setFseq_mmeta (v : Nat) : ((Eff.setFseq v).apply s).mmeta = s.mmeta := rfl
@[simp] theorem Eff.setFseq_err (v : Nat) : ((Eff.setFseq v).apply s).err = s.err := rfl
@[simp] theorem Eff.setFseq_pilotSecs (v : Nat) : ((Eff.setFseq v).apply s).pilotSecs = s.pilotSecs := rfl
@[simp] theorem Eff.setFseq_cl (v : Nat) : ((Eff.setFseq v).apply s).cl = s.cl := rfl
@[simp] theorem Eff.setFseq_codec (v : Nat) : ((Eff.setFseq v).apply s).codec = s.codec := rfl
@[simp] theorem Eff.setFseq_xlt (v : Nat) : ((Eff.setFseq v).apply s).xlt = s.xlt := rfl
@[simp] theorem Eff.setFseq_invAll (v : Nat) : ((Eff.setFseq v).apply s).invAll = s.invAll := rfl
@[simp] theorem Eff.setFseq_mov (v : Nat) : ((Eff.setFseq v).apply s).mov = s.mov := rfl
@[simp] theorem Eff.setFseq_bnd (v : Nat) : ((Eff.setFseq v).apply s).bnd = s.bnd := rfl
@[simp] theorem Eff.setFseq_lu (v : Nat) : ((Eff.setFseq v).apply s).lu = s.lu := rfl
@[simp] theorem Eff.setFseq_su (v : Nat) : ((Eff.setFseq v).apply s).su = s.su := rfl
@[simp] theorem Eff.setFseq_port (v : Nat) : ((Eff.setFseq v).apply s).port = s.port := rfl
@[simp] theorem Eff.setFseq_vote (v : Nat) : ((Eff.setFseq v).apply s).vote = s.vote := rfl
@[simp] theorem Eff.setFseq_ce (v : Nat) : ((Eff.setFseq v).apply s).ce = s.ce := rfl
@[simp] theorem Eff.setFseq_store (v : Nat) : ((Eff.setFseq v).apply s).store = s.store := rfl
@[simp] theorem Eff.setFseq_hornWait (v : Nat) : ((Eff.setFseq v).apply s).hornWait = s.hornWait := rfl
@[simp] theorem Eff.setFseq_chan (v : Nat) : ((Eff.setFseq v).apply s).chan = s.chan := rfl
@[simp] theorem Eff.setFseq_keys (v : Nat) : ((Eff.setFseq v).apply s).keys = s.keys := rfl
@[simp] theorem Eff.setFseq_jnl (v : Nat) : ((Eff.setFseq v).apply s).jnl = s.jnl := rfl
@[simp] theorem Eff.setFseq_flash (v : Nat) : ((Eff.setFseq v).apply s).flash = s.flash := rfl
@[simp] theorem Eff.setFseq_await (v : Nat) : ((Eff.setFseq v).apply s).await = s.await := rfl
@[simp] theorem Eff.setFseq_load (v : Nat) : ((Eff.setFseq v).apply s).load = s.load := rfl
@[simp] theorem Eff.setFseq_rb (v : Nat) : ((Eff.setFseq v).apply s).rb = s.rb := rfl
@[simp] theorem Eff.setFseq_saves (v : Nat) : ((Eff.setFseq v).apply s).saves = s.saves := rfl
@[simp] theorem Eff.setFseq_hq (v : Nat) : ((Eff.setFseq v).apply s).hq = s.hq := rfl
@[simp] theorem Eff.setFseq_turns (v : Nat) : ((Eff.setFseq v).apply s).turns = s.turns := rfl
@[simp] theorem Eff.setFseq_boot (v : Nat) : ((Eff.setFseq v).apply s).boot = s.boot := rfl
@[simp] theorem Eff.setFseq_pins (v : Nat) : ((Eff.setFseq v).apply s).pins = s.pins := rfl
@[simp] theorem Eff.setFseq_sec (v : Nat) : ((Eff.setFseq v).apply s).sec = s.sec := rfl
@[simp] theorem Eff.setFseq_tel (v : Nat) : ((Eff.setFseq v).apply s).tel = s.tel := rfl
@[simp] theorem Eff.setFseq_fw (v : Nat) : ((Eff.setFseq v).apply s).fw = s.fw := rfl
@[simp] theorem Eff.setFseq_digests (v : Nat) : ((Eff.setFseq v).apply s).digests = s.digests := rfl
@[simp] theorem Eff.setFseq_fseq (v : Nat) :
    ((Eff.setFseq v).apply s).fseq = v := rfl
@[simp] theorem Eff.setFseq_lseq (v : Nat) : ((Eff.setFseq v).apply s).lseq = s.lseq := rfl
@[simp] theorem Eff.setFseq_unread (v : Nat) : ((Eff.setFseq v).apply s).unread = s.unread := rfl
@[simp] theorem Eff.setFseq_epochs (v : Nat) : ((Eff.setFseq v).apply s).epochs = s.epochs := rfl
@[simp] theorem Eff.setFseq_draws (v : Nat) : ((Eff.setFseq v).apply s).draws = s.draws := rfl
@[simp] theorem Eff.setFseq_out (v : Nat) : ((Eff.setFseq v).apply s).out = s.out := rfl
@[simp] theorem Eff.setFseq_pending (v : Nat) : ((Eff.setFseq v).apply s).pending = s.pending := rfl

/-! ### setLseq -/

@[simp] theorem Eff.setLseq_reg (v : Nat) : ((Eff.setLseq v).apply s).reg = s.reg := rfl
@[simp] theorem Eff.setLseq_pend (v : Nat) : ((Eff.setLseq v).apply s).pend = s.pend := rfl
@[simp] theorem Eff.setLseq_mem (v : Nat) : ((Eff.setLseq v).apply s).mem = s.mem := rfl
@[simp] theorem Eff.setLseq_mmeta (v : Nat) : ((Eff.setLseq v).apply s).mmeta = s.mmeta := rfl
@[simp] theorem Eff.setLseq_err (v : Nat) : ((Eff.setLseq v).apply s).err = s.err := rfl
@[simp] theorem Eff.setLseq_pilotSecs (v : Nat) : ((Eff.setLseq v).apply s).pilotSecs = s.pilotSecs := rfl
@[simp] theorem Eff.setLseq_cl (v : Nat) : ((Eff.setLseq v).apply s).cl = s.cl := rfl
@[simp] theorem Eff.setLseq_codec (v : Nat) : ((Eff.setLseq v).apply s).codec = s.codec := rfl
@[simp] theorem Eff.setLseq_xlt (v : Nat) : ((Eff.setLseq v).apply s).xlt = s.xlt := rfl
@[simp] theorem Eff.setLseq_invAll (v : Nat) : ((Eff.setLseq v).apply s).invAll = s.invAll := rfl
@[simp] theorem Eff.setLseq_mov (v : Nat) : ((Eff.setLseq v).apply s).mov = s.mov := rfl
@[simp] theorem Eff.setLseq_bnd (v : Nat) : ((Eff.setLseq v).apply s).bnd = s.bnd := rfl
@[simp] theorem Eff.setLseq_lu (v : Nat) : ((Eff.setLseq v).apply s).lu = s.lu := rfl
@[simp] theorem Eff.setLseq_su (v : Nat) : ((Eff.setLseq v).apply s).su = s.su := rfl
@[simp] theorem Eff.setLseq_port (v : Nat) : ((Eff.setLseq v).apply s).port = s.port := rfl
@[simp] theorem Eff.setLseq_vote (v : Nat) : ((Eff.setLseq v).apply s).vote = s.vote := rfl
@[simp] theorem Eff.setLseq_ce (v : Nat) : ((Eff.setLseq v).apply s).ce = s.ce := rfl
@[simp] theorem Eff.setLseq_store (v : Nat) : ((Eff.setLseq v).apply s).store = s.store := rfl
@[simp] theorem Eff.setLseq_hornWait (v : Nat) : ((Eff.setLseq v).apply s).hornWait = s.hornWait := rfl
@[simp] theorem Eff.setLseq_chan (v : Nat) : ((Eff.setLseq v).apply s).chan = s.chan := rfl
@[simp] theorem Eff.setLseq_keys (v : Nat) : ((Eff.setLseq v).apply s).keys = s.keys := rfl
@[simp] theorem Eff.setLseq_jnl (v : Nat) : ((Eff.setLseq v).apply s).jnl = s.jnl := rfl
@[simp] theorem Eff.setLseq_flash (v : Nat) : ((Eff.setLseq v).apply s).flash = s.flash := rfl
@[simp] theorem Eff.setLseq_await (v : Nat) : ((Eff.setLseq v).apply s).await = s.await := rfl
@[simp] theorem Eff.setLseq_load (v : Nat) : ((Eff.setLseq v).apply s).load = s.load := rfl
@[simp] theorem Eff.setLseq_rb (v : Nat) : ((Eff.setLseq v).apply s).rb = s.rb := rfl
@[simp] theorem Eff.setLseq_saves (v : Nat) : ((Eff.setLseq v).apply s).saves = s.saves := rfl
@[simp] theorem Eff.setLseq_hq (v : Nat) : ((Eff.setLseq v).apply s).hq = s.hq := rfl
@[simp] theorem Eff.setLseq_turns (v : Nat) : ((Eff.setLseq v).apply s).turns = s.turns := rfl
@[simp] theorem Eff.setLseq_boot (v : Nat) : ((Eff.setLseq v).apply s).boot = s.boot := rfl
@[simp] theorem Eff.setLseq_pins (v : Nat) : ((Eff.setLseq v).apply s).pins = s.pins := rfl
@[simp] theorem Eff.setLseq_sec (v : Nat) : ((Eff.setLseq v).apply s).sec = s.sec := rfl
@[simp] theorem Eff.setLseq_tel (v : Nat) : ((Eff.setLseq v).apply s).tel = s.tel := rfl
@[simp] theorem Eff.setLseq_fw (v : Nat) : ((Eff.setLseq v).apply s).fw = s.fw := rfl
@[simp] theorem Eff.setLseq_digests (v : Nat) : ((Eff.setLseq v).apply s).digests = s.digests := rfl
@[simp] theorem Eff.setLseq_fseq (v : Nat) : ((Eff.setLseq v).apply s).fseq = s.fseq := rfl
@[simp] theorem Eff.setLseq_lseq (v : Nat) :
    ((Eff.setLseq v).apply s).lseq = v := rfl
@[simp] theorem Eff.setLseq_unread (v : Nat) : ((Eff.setLseq v).apply s).unread = s.unread := rfl
@[simp] theorem Eff.setLseq_epochs (v : Nat) : ((Eff.setLseq v).apply s).epochs = s.epochs := rfl
@[simp] theorem Eff.setLseq_draws (v : Nat) : ((Eff.setLseq v).apply s).draws = s.draws := rfl
@[simp] theorem Eff.setLseq_out (v : Nat) : ((Eff.setLseq v).apply s).out = s.out := rfl
@[simp] theorem Eff.setLseq_pending (v : Nat) : ((Eff.setLseq v).apply s).pending = s.pending := rfl

/-! ### setUnread -/

@[simp] theorem Eff.setUnread_reg (i : Nat) (v : Bool) : ((Eff.setUnread i v).apply s).reg = s.reg := rfl
@[simp] theorem Eff.setUnread_pend (i : Nat) (v : Bool) : ((Eff.setUnread i v).apply s).pend = s.pend := rfl
@[simp] theorem Eff.setUnread_mem (i : Nat) (v : Bool) : ((Eff.setUnread i v).apply s).mem = s.mem := rfl
@[simp] theorem Eff.setUnread_mmeta (i : Nat) (v : Bool) : ((Eff.setUnread i v).apply s).mmeta = s.mmeta := rfl
@[simp] theorem Eff.setUnread_err (i : Nat) (v : Bool) : ((Eff.setUnread i v).apply s).err = s.err := rfl
@[simp] theorem Eff.setUnread_pilotSecs (i : Nat) (v : Bool) : ((Eff.setUnread i v).apply s).pilotSecs = s.pilotSecs := rfl
@[simp] theorem Eff.setUnread_cl (i : Nat) (v : Bool) : ((Eff.setUnread i v).apply s).cl = s.cl := rfl
@[simp] theorem Eff.setUnread_codec (i : Nat) (v : Bool) : ((Eff.setUnread i v).apply s).codec = s.codec := rfl
@[simp] theorem Eff.setUnread_xlt (i : Nat) (v : Bool) : ((Eff.setUnread i v).apply s).xlt = s.xlt := rfl
@[simp] theorem Eff.setUnread_invAll (i : Nat) (v : Bool) : ((Eff.setUnread i v).apply s).invAll = s.invAll := rfl
@[simp] theorem Eff.setUnread_mov (i : Nat) (v : Bool) : ((Eff.setUnread i v).apply s).mov = s.mov := rfl
@[simp] theorem Eff.setUnread_bnd (i : Nat) (v : Bool) : ((Eff.setUnread i v).apply s).bnd = s.bnd := rfl
@[simp] theorem Eff.setUnread_lu (i : Nat) (v : Bool) : ((Eff.setUnread i v).apply s).lu = s.lu := rfl
@[simp] theorem Eff.setUnread_su (i : Nat) (v : Bool) : ((Eff.setUnread i v).apply s).su = s.su := rfl
@[simp] theorem Eff.setUnread_port (i : Nat) (v : Bool) : ((Eff.setUnread i v).apply s).port = s.port := rfl
@[simp] theorem Eff.setUnread_vote (i : Nat) (v : Bool) : ((Eff.setUnread i v).apply s).vote = s.vote := rfl
@[simp] theorem Eff.setUnread_ce (i : Nat) (v : Bool) : ((Eff.setUnread i v).apply s).ce = s.ce := rfl
@[simp] theorem Eff.setUnread_store (i : Nat) (v : Bool) : ((Eff.setUnread i v).apply s).store = s.store := rfl
@[simp] theorem Eff.setUnread_hornWait (i : Nat) (v : Bool) : ((Eff.setUnread i v).apply s).hornWait = s.hornWait := rfl
@[simp] theorem Eff.setUnread_chan (i : Nat) (v : Bool) : ((Eff.setUnread i v).apply s).chan = s.chan := rfl
@[simp] theorem Eff.setUnread_keys (i : Nat) (v : Bool) : ((Eff.setUnread i v).apply s).keys = s.keys := rfl
@[simp] theorem Eff.setUnread_jnl (i : Nat) (v : Bool) : ((Eff.setUnread i v).apply s).jnl = s.jnl := rfl
@[simp] theorem Eff.setUnread_flash (i : Nat) (v : Bool) : ((Eff.setUnread i v).apply s).flash = s.flash := rfl
@[simp] theorem Eff.setUnread_await (i : Nat) (v : Bool) : ((Eff.setUnread i v).apply s).await = s.await := rfl
@[simp] theorem Eff.setUnread_load (i : Nat) (v : Bool) : ((Eff.setUnread i v).apply s).load = s.load := rfl
@[simp] theorem Eff.setUnread_rb (i : Nat) (v : Bool) : ((Eff.setUnread i v).apply s).rb = s.rb := rfl
@[simp] theorem Eff.setUnread_saves (i : Nat) (v : Bool) : ((Eff.setUnread i v).apply s).saves = s.saves := rfl
@[simp] theorem Eff.setUnread_hq (i : Nat) (v : Bool) : ((Eff.setUnread i v).apply s).hq = s.hq := rfl
@[simp] theorem Eff.setUnread_turns (i : Nat) (v : Bool) : ((Eff.setUnread i v).apply s).turns = s.turns := rfl
@[simp] theorem Eff.setUnread_boot (i : Nat) (v : Bool) : ((Eff.setUnread i v).apply s).boot = s.boot := rfl
@[simp] theorem Eff.setUnread_pins (i : Nat) (v : Bool) : ((Eff.setUnread i v).apply s).pins = s.pins := rfl
@[simp] theorem Eff.setUnread_sec (i : Nat) (v : Bool) : ((Eff.setUnread i v).apply s).sec = s.sec := rfl
@[simp] theorem Eff.setUnread_tel (i : Nat) (v : Bool) : ((Eff.setUnread i v).apply s).tel = s.tel := rfl
@[simp] theorem Eff.setUnread_fw (i : Nat) (v : Bool) : ((Eff.setUnread i v).apply s).fw = s.fw := rfl
@[simp] theorem Eff.setUnread_digests (i : Nat) (v : Bool) : ((Eff.setUnread i v).apply s).digests = s.digests := rfl
@[simp] theorem Eff.setUnread_fseq (i : Nat) (v : Bool) : ((Eff.setUnread i v).apply s).fseq = s.fseq := rfl
@[simp] theorem Eff.setUnread_lseq (i : Nat) (v : Bool) : ((Eff.setUnread i v).apply s).lseq = s.lseq := rfl
@[simp] theorem Eff.setUnread_unread (i : Nat) (v : Bool) :
    ((Eff.setUnread i v).apply s).unread = Tab.upd false s.unread i v := rfl
@[simp] theorem Eff.setUnread_epochs (i : Nat) (v : Bool) : ((Eff.setUnread i v).apply s).epochs = s.epochs := rfl
@[simp] theorem Eff.setUnread_draws (i : Nat) (v : Bool) : ((Eff.setUnread i v).apply s).draws = s.draws := rfl
@[simp] theorem Eff.setUnread_out (i : Nat) (v : Bool) : ((Eff.setUnread i v).apply s).out = s.out := rfl
@[simp] theorem Eff.setUnread_pending (i : Nat) (v : Bool) : ((Eff.setUnread i v).apply s).pending = s.pending := rfl

/-! ### setEpochs -/

@[simp] theorem Eff.setEpochs_reg (v : Nat) : ((Eff.setEpochs v).apply s).reg = s.reg := rfl
@[simp] theorem Eff.setEpochs_pend (v : Nat) : ((Eff.setEpochs v).apply s).pend = s.pend := rfl
@[simp] theorem Eff.setEpochs_mem (v : Nat) : ((Eff.setEpochs v).apply s).mem = s.mem := rfl
@[simp] theorem Eff.setEpochs_mmeta (v : Nat) : ((Eff.setEpochs v).apply s).mmeta = s.mmeta := rfl
@[simp] theorem Eff.setEpochs_err (v : Nat) : ((Eff.setEpochs v).apply s).err = s.err := rfl
@[simp] theorem Eff.setEpochs_pilotSecs (v : Nat) : ((Eff.setEpochs v).apply s).pilotSecs = s.pilotSecs := rfl
@[simp] theorem Eff.setEpochs_cl (v : Nat) : ((Eff.setEpochs v).apply s).cl = s.cl := rfl
@[simp] theorem Eff.setEpochs_codec (v : Nat) : ((Eff.setEpochs v).apply s).codec = s.codec := rfl
@[simp] theorem Eff.setEpochs_xlt (v : Nat) : ((Eff.setEpochs v).apply s).xlt = s.xlt := rfl
@[simp] theorem Eff.setEpochs_invAll (v : Nat) : ((Eff.setEpochs v).apply s).invAll = s.invAll := rfl
@[simp] theorem Eff.setEpochs_mov (v : Nat) : ((Eff.setEpochs v).apply s).mov = s.mov := rfl
@[simp] theorem Eff.setEpochs_bnd (v : Nat) : ((Eff.setEpochs v).apply s).bnd = s.bnd := rfl
@[simp] theorem Eff.setEpochs_lu (v : Nat) : ((Eff.setEpochs v).apply s).lu = s.lu := rfl
@[simp] theorem Eff.setEpochs_su (v : Nat) : ((Eff.setEpochs v).apply s).su = s.su := rfl
@[simp] theorem Eff.setEpochs_port (v : Nat) : ((Eff.setEpochs v).apply s).port = s.port := rfl
@[simp] theorem Eff.setEpochs_vote (v : Nat) : ((Eff.setEpochs v).apply s).vote = s.vote := rfl
@[simp] theorem Eff.setEpochs_ce (v : Nat) : ((Eff.setEpochs v).apply s).ce = s.ce := rfl
@[simp] theorem Eff.setEpochs_store (v : Nat) : ((Eff.setEpochs v).apply s).store = s.store := rfl
@[simp] theorem Eff.setEpochs_hornWait (v : Nat) : ((Eff.setEpochs v).apply s).hornWait = s.hornWait := rfl
@[simp] theorem Eff.setEpochs_chan (v : Nat) : ((Eff.setEpochs v).apply s).chan = s.chan := rfl
@[simp] theorem Eff.setEpochs_keys (v : Nat) : ((Eff.setEpochs v).apply s).keys = s.keys := rfl
@[simp] theorem Eff.setEpochs_jnl (v : Nat) : ((Eff.setEpochs v).apply s).jnl = s.jnl := rfl
@[simp] theorem Eff.setEpochs_flash (v : Nat) : ((Eff.setEpochs v).apply s).flash = s.flash := rfl
@[simp] theorem Eff.setEpochs_await (v : Nat) : ((Eff.setEpochs v).apply s).await = s.await := rfl
@[simp] theorem Eff.setEpochs_load (v : Nat) : ((Eff.setEpochs v).apply s).load = s.load := rfl
@[simp] theorem Eff.setEpochs_rb (v : Nat) : ((Eff.setEpochs v).apply s).rb = s.rb := rfl
@[simp] theorem Eff.setEpochs_saves (v : Nat) : ((Eff.setEpochs v).apply s).saves = s.saves := rfl
@[simp] theorem Eff.setEpochs_hq (v : Nat) : ((Eff.setEpochs v).apply s).hq = s.hq := rfl
@[simp] theorem Eff.setEpochs_turns (v : Nat) : ((Eff.setEpochs v).apply s).turns = s.turns := rfl
@[simp] theorem Eff.setEpochs_boot (v : Nat) : ((Eff.setEpochs v).apply s).boot = s.boot := rfl
@[simp] theorem Eff.setEpochs_pins (v : Nat) : ((Eff.setEpochs v).apply s).pins = s.pins := rfl
@[simp] theorem Eff.setEpochs_sec (v : Nat) : ((Eff.setEpochs v).apply s).sec = s.sec := rfl
@[simp] theorem Eff.setEpochs_tel (v : Nat) : ((Eff.setEpochs v).apply s).tel = s.tel := rfl
@[simp] theorem Eff.setEpochs_fw (v : Nat) : ((Eff.setEpochs v).apply s).fw = s.fw := rfl
@[simp] theorem Eff.setEpochs_digests (v : Nat) : ((Eff.setEpochs v).apply s).digests = s.digests := rfl
@[simp] theorem Eff.setEpochs_fseq (v : Nat) : ((Eff.setEpochs v).apply s).fseq = s.fseq := rfl
@[simp] theorem Eff.setEpochs_lseq (v : Nat) : ((Eff.setEpochs v).apply s).lseq = s.lseq := rfl
@[simp] theorem Eff.setEpochs_unread (v : Nat) : ((Eff.setEpochs v).apply s).unread = s.unread := rfl
@[simp] theorem Eff.setEpochs_epochs (v : Nat) :
    ((Eff.setEpochs v).apply s).epochs = v := rfl
@[simp] theorem Eff.setEpochs_draws (v : Nat) : ((Eff.setEpochs v).apply s).draws = s.draws := rfl
@[simp] theorem Eff.setEpochs_out (v : Nat) : ((Eff.setEpochs v).apply s).out = s.out := rfl
@[simp] theorem Eff.setEpochs_pending (v : Nat) : ((Eff.setEpochs v).apply s).pending = s.pending := rfl

/-! ### setDraws -/

@[simp] theorem Eff.setDraws_reg (v : Nat) : ((Eff.setDraws v).apply s).reg = s.reg := rfl
@[simp] theorem Eff.setDraws_pend (v : Nat) : ((Eff.setDraws v).apply s).pend = s.pend := rfl
@[simp] theorem Eff.setDraws_mem (v : Nat) : ((Eff.setDraws v).apply s).mem = s.mem := rfl
@[simp] theorem Eff.setDraws_mmeta (v : Nat) : ((Eff.setDraws v).apply s).mmeta = s.mmeta := rfl
@[simp] theorem Eff.setDraws_err (v : Nat) : ((Eff.setDraws v).apply s).err = s.err := rfl
@[simp] theorem Eff.setDraws_pilotSecs (v : Nat) : ((Eff.setDraws v).apply s).pilotSecs = s.pilotSecs := rfl
@[simp] theorem Eff.setDraws_cl (v : Nat) : ((Eff.setDraws v).apply s).cl = s.cl := rfl
@[simp] theorem Eff.setDraws_codec (v : Nat) : ((Eff.setDraws v).apply s).codec = s.codec := rfl
@[simp] theorem Eff.setDraws_xlt (v : Nat) : ((Eff.setDraws v).apply s).xlt = s.xlt := rfl
@[simp] theorem Eff.setDraws_invAll (v : Nat) : ((Eff.setDraws v).apply s).invAll = s.invAll := rfl
@[simp] theorem Eff.setDraws_mov (v : Nat) : ((Eff.setDraws v).apply s).mov = s.mov := rfl
@[simp] theorem Eff.setDraws_bnd (v : Nat) : ((Eff.setDraws v).apply s).bnd = s.bnd := rfl
@[simp] theorem Eff.setDraws_lu (v : Nat) : ((Eff.setDraws v).apply s).lu = s.lu := rfl
@[simp] theorem Eff.setDraws_su (v : Nat) : ((Eff.setDraws v).apply s).su = s.su := rfl
@[simp] theorem Eff.setDraws_port (v : Nat) : ((Eff.setDraws v).apply s).port = s.port := rfl
@[simp] theorem Eff.setDraws_vote (v : Nat) : ((Eff.setDraws v).apply s).vote = s.vote := rfl
@[simp] theorem Eff.setDraws_ce (v : Nat) : ((Eff.setDraws v).apply s).ce = s.ce := rfl
@[simp] theorem Eff.setDraws_store (v : Nat) : ((Eff.setDraws v).apply s).store = s.store := rfl
@[simp] theorem Eff.setDraws_hornWait (v : Nat) : ((Eff.setDraws v).apply s).hornWait = s.hornWait := rfl
@[simp] theorem Eff.setDraws_chan (v : Nat) : ((Eff.setDraws v).apply s).chan = s.chan := rfl
@[simp] theorem Eff.setDraws_keys (v : Nat) : ((Eff.setDraws v).apply s).keys = s.keys := rfl
@[simp] theorem Eff.setDraws_jnl (v : Nat) : ((Eff.setDraws v).apply s).jnl = s.jnl := rfl
@[simp] theorem Eff.setDraws_flash (v : Nat) : ((Eff.setDraws v).apply s).flash = s.flash := rfl
@[simp] theorem Eff.setDraws_await (v : Nat) : ((Eff.setDraws v).apply s).await = s.await := rfl
@[simp] theorem Eff.setDraws_load (v : Nat) : ((Eff.setDraws v).apply s).load = s.load := rfl
@[simp] theorem Eff.setDraws_rb (v : Nat) : ((Eff.setDraws v).apply s).rb = s.rb := rfl
@[simp] theorem Eff.setDraws_saves (v : Nat) : ((Eff.setDraws v).apply s).saves = s.saves := rfl
@[simp] theorem Eff.setDraws_hq (v : Nat) : ((Eff.setDraws v).apply s).hq = s.hq := rfl
@[simp] theorem Eff.setDraws_turns (v : Nat) : ((Eff.setDraws v).apply s).turns = s.turns := rfl
@[simp] theorem Eff.setDraws_boot (v : Nat) : ((Eff.setDraws v).apply s).boot = s.boot := rfl
@[simp] theorem Eff.setDraws_pins (v : Nat) : ((Eff.setDraws v).apply s).pins = s.pins := rfl
@[simp] theorem Eff.setDraws_sec (v : Nat) : ((Eff.setDraws v).apply s).sec = s.sec := rfl
@[simp] theorem Eff.setDraws_tel (v : Nat) : ((Eff.setDraws v).apply s).tel = s.tel := rfl
@[simp] theorem Eff.setDraws_fw (v : Nat) : ((Eff.setDraws v).apply s).fw = s.fw := rfl
@[simp] theorem Eff.setDraws_digests (v : Nat) : ((Eff.setDraws v).apply s).digests = s.digests := rfl
@[simp] theorem Eff.setDraws_fseq (v : Nat) : ((Eff.setDraws v).apply s).fseq = s.fseq := rfl
@[simp] theorem Eff.setDraws_lseq (v : Nat) : ((Eff.setDraws v).apply s).lseq = s.lseq := rfl
@[simp] theorem Eff.setDraws_unread (v : Nat) : ((Eff.setDraws v).apply s).unread = s.unread := rfl
@[simp] theorem Eff.setDraws_epochs (v : Nat) : ((Eff.setDraws v).apply s).epochs = s.epochs := rfl
@[simp] theorem Eff.setDraws_draws (v : Nat) :
    ((Eff.setDraws v).apply s).draws = v := rfl
@[simp] theorem Eff.setDraws_out (v : Nat) : ((Eff.setDraws v).apply s).out = s.out := rfl
@[simp] theorem Eff.setDraws_pending (v : Nat) : ((Eff.setDraws v).apply s).pending = s.pending := rfl

/-! ### emit -/

@[simp] theorem Eff.emit_reg (o : Out) : ((Eff.emit o).apply s).reg = s.reg := rfl
@[simp] theorem Eff.emit_pend (o : Out) : ((Eff.emit o).apply s).pend = s.pend := rfl
@[simp] theorem Eff.emit_mem (o : Out) : ((Eff.emit o).apply s).mem = s.mem := rfl
@[simp] theorem Eff.emit_mmeta (o : Out) : ((Eff.emit o).apply s).mmeta = s.mmeta := rfl
@[simp] theorem Eff.emit_err (o : Out) : ((Eff.emit o).apply s).err = s.err := rfl
@[simp] theorem Eff.emit_pilotSecs (o : Out) : ((Eff.emit o).apply s).pilotSecs = s.pilotSecs := rfl
@[simp] theorem Eff.emit_cl (o : Out) : ((Eff.emit o).apply s).cl = s.cl := rfl
@[simp] theorem Eff.emit_codec (o : Out) : ((Eff.emit o).apply s).codec = s.codec := rfl
@[simp] theorem Eff.emit_xlt (o : Out) : ((Eff.emit o).apply s).xlt = s.xlt := rfl
@[simp] theorem Eff.emit_invAll (o : Out) : ((Eff.emit o).apply s).invAll = s.invAll := rfl
@[simp] theorem Eff.emit_mov (o : Out) : ((Eff.emit o).apply s).mov = s.mov := rfl
@[simp] theorem Eff.emit_bnd (o : Out) : ((Eff.emit o).apply s).bnd = s.bnd := rfl
@[simp] theorem Eff.emit_lu (o : Out) : ((Eff.emit o).apply s).lu = s.lu := rfl
@[simp] theorem Eff.emit_su (o : Out) : ((Eff.emit o).apply s).su = s.su := rfl
@[simp] theorem Eff.emit_port (o : Out) : ((Eff.emit o).apply s).port = s.port := rfl
@[simp] theorem Eff.emit_vote (o : Out) : ((Eff.emit o).apply s).vote = s.vote := rfl
@[simp] theorem Eff.emit_ce (o : Out) : ((Eff.emit o).apply s).ce = s.ce := rfl
@[simp] theorem Eff.emit_store (o : Out) : ((Eff.emit o).apply s).store = s.store := rfl
@[simp] theorem Eff.emit_hornWait (o : Out) : ((Eff.emit o).apply s).hornWait = s.hornWait := rfl
@[simp] theorem Eff.emit_chan (o : Out) : ((Eff.emit o).apply s).chan = s.chan := rfl
@[simp] theorem Eff.emit_keys (o : Out) : ((Eff.emit o).apply s).keys = s.keys := rfl
@[simp] theorem Eff.emit_jnl (o : Out) : ((Eff.emit o).apply s).jnl = s.jnl := rfl
@[simp] theorem Eff.emit_flash (o : Out) : ((Eff.emit o).apply s).flash = s.flash := rfl
@[simp] theorem Eff.emit_await (o : Out) : ((Eff.emit o).apply s).await = s.await := rfl
@[simp] theorem Eff.emit_load (o : Out) : ((Eff.emit o).apply s).load = s.load := rfl
@[simp] theorem Eff.emit_rb (o : Out) : ((Eff.emit o).apply s).rb = s.rb := rfl
@[simp] theorem Eff.emit_saves (o : Out) : ((Eff.emit o).apply s).saves = s.saves := rfl
@[simp] theorem Eff.emit_hq (o : Out) : ((Eff.emit o).apply s).hq = s.hq := rfl
@[simp] theorem Eff.emit_turns (o : Out) : ((Eff.emit o).apply s).turns = s.turns := rfl
@[simp] theorem Eff.emit_boot (o : Out) : ((Eff.emit o).apply s).boot = s.boot := rfl
@[simp] theorem Eff.emit_pins (o : Out) : ((Eff.emit o).apply s).pins = s.pins := rfl
@[simp] theorem Eff.emit_sec (o : Out) : ((Eff.emit o).apply s).sec = s.sec := rfl
@[simp] theorem Eff.emit_tel (o : Out) : ((Eff.emit o).apply s).tel = s.tel := rfl
@[simp] theorem Eff.emit_fw (o : Out) : ((Eff.emit o).apply s).fw = s.fw := rfl
@[simp] theorem Eff.emit_digests (o : Out) : ((Eff.emit o).apply s).digests = s.digests := rfl
@[simp] theorem Eff.emit_fseq (o : Out) : ((Eff.emit o).apply s).fseq = s.fseq := rfl
@[simp] theorem Eff.emit_lseq (o : Out) : ((Eff.emit o).apply s).lseq = s.lseq := rfl
@[simp] theorem Eff.emit_unread (o : Out) : ((Eff.emit o).apply s).unread = s.unread := rfl
@[simp] theorem Eff.emit_epochs (o : Out) : ((Eff.emit o).apply s).epochs = s.epochs := rfl
@[simp] theorem Eff.emit_draws (o : Out) : ((Eff.emit o).apply s).draws = s.draws := rfl
@[simp] theorem Eff.emit_out (o : Out) :
    ((Eff.emit o).apply s).out = o :: s.out := rfl
@[simp] theorem Eff.emit_pending (o : Out) : ((Eff.emit o).apply s).pending = s.pending := rfl

end Sys2Proof.Machine
end

