-- ==== Sys2Proof/Laws/Ops.lean ====
section
/-!
SUPPORT. Sys2Proof/Laws/Ops.lean: fields of words, registers read after they are written, the stack's canonical form, and
what every effect keeps.
-/

namespace Sys2Proof.Machine

/-! ### Fields -/

theorem testBit_fieldMask (f : Field) (i : Nat) (h : f.lo + f.w ≤ 64) :
    (fieldMask f).getLsbD i = (decide (f.lo ≤ i) && decide (i < f.lo + f.w)) := by
  unfold fieldMask
  have hlt : (2 ^ f.w - 1) * 2 ^ f.lo < 2 ^ 64 := by
    calc (2 ^ f.w - 1) * 2 ^ f.lo < 2 ^ f.w * 2 ^ f.lo :=
          Nat.mul_lt_mul_of_pos_right (Nat.sub_lt (Nat.two_pow_pos _) one_pos) (Nat.two_pow_pos _)
      _ = 2 ^ (f.lo + f.w) := by rw [Nat.pow_add, Nat.mul_comm]
      _ ≤ 2 ^ 64 := Nat.pow_le_pow_right (by decide) h
  rw [BitVec.getLsbD_ofNat, Nat.mul_comm, Nat.testBit_two_pow_mul, Nat.testBit_two_pow_sub_one]
  by_cases h₁ : f.lo ≤ i <;> by_cases h₂ : i < f.lo + f.w
  · have : i < 64 := by omega
    simp [h₁, h₂, this]; omega
  · simp [h₁, h₂]; omega
  · simp [h₁]
  · simp [h₁]

theorem getLsbD_putF (f : Field) (v : Word) (x i : Nat) (h : f.lo + f.w ≤ 64) :
    (putF f v x).getLsbD i =
      if f.lo ≤ i ∧ i < f.lo + f.w then x.testBit (i - f.lo) else v.getLsbD i := by
  unfold putF
  rw [BitVec.getLsbD_or, BitVec.getLsbD_and, BitVec.getLsbD_not, testBit_fieldMask f i h]
  have hx : (BitVec.ofNat 64 (x % 2 ^ f.w * 2 ^ f.lo)).getLsbD i =
      (decide (i < 64) && (decide (f.lo ≤ i) && (decide (i - f.lo < f.w) && x.testBit (i - f.lo)))) := by
    rw [BitVec.getLsbD_ofNat, Nat.mul_comm, Nat.testBit_two_pow_mul, Nat.testBit_mod_two_pow]
  rw [hx]
  by_cases h₁ : f.lo ≤ i <;> by_cases h₂ : i < f.lo + f.w
  · have h₃ : i < 64 := by omega
    have h₄ : i - f.lo < f.w := by omega
    simp [h₁, h₂, h₃, h₄]
  · have h₄ : ¬ i - f.lo < f.w := by omega
    simp only [h₁, h₂, h₄]
    simp
    intro hv
    exact BitVec.lt_of_getLsbD hv
  · simp [h₁]
    intro hv
    exact BitVec.lt_of_getLsbD hv
  · simp [h₁]
    intro hv
    exact BitVec.lt_of_getLsbD hv

theorem testBit_getF (f : Field) (v : Word) (i : Nat) :
    (getF f v).testBit i = (decide (i < f.w) && v.getLsbD (f.lo + i)) := by
  unfold getF
  rw [Nat.testBit_mod_two_pow, Nat.testBit_div_two_pow, Nat.add_comm]
  rfl

/-- A field just set reads as what was set, cut to its width, whatever bits outside it a mask clears. -/
theorem getF_putF_mask (f : Field) (v m : Word) (x : Nat) (h : f.lo + f.w ≤ 64) (hm : fieldMask f &&& m = fieldMask f) :
    getF f (putF f v x &&& m) = x % 2 ^ f.w := by
  apply Nat.eq_of_testBit_eq
  intro i
  rw [testBit_getF, BitVec.getLsbD_and, getLsbD_putF f v x _ h, Nat.testBit_mod_two_pow]
  by_cases hi : i < f.w
  · have h₁ : f.lo ≤ f.lo + i ∧ f.lo + i < f.lo + f.w := by omega
    have h₂ : m.getLsbD (f.lo + i) = true := by
      have := congrArg (fun z : Word => z.getLsbD (f.lo + i)) hm
      simp only [BitVec.getLsbD_and, testBit_fieldMask f _ h, h₁] at this
      simpa using this
    simp [hi, h₁, h₂]
  · simp [hi]

/-- Setting a field leaves a field apart from it alone. -/
theorem getF_putF_ne (f g : Field) (v : Word) (x : Nat) (h : f.lo + f.w ≤ 64)
    (hd : f.lo + f.w ≤ g.lo ∨ g.lo + g.w ≤ f.lo) : getF g (putF f v x) = getF g v := by
  apply Nat.eq_of_testBit_eq
  intro i
  rw [testBit_getF, testBit_getF, getLsbD_putF f v x _ h]
  by_cases hi : i < g.w
  · have : ¬ (f.lo ≤ g.lo + i ∧ g.lo + i < f.lo + f.w) := by omega
    simp [this]
  · simp [hi]

/-- A field within a register's implemented bits reads alike with and without the mask. -/
theorem getF_mask (g : Field) (v m : Word) (hg : g.lo + g.w ≤ 64) (hm : fieldMask g &&& m = fieldMask g) :
    getF g (v &&& m) = getF g v := by
  apply Nat.eq_of_testBit_eq
  intro i
  rw [testBit_getF, testBit_getF, BitVec.getLsbD_and]
  by_cases hi : i < g.w
  · have h₂ : m.getLsbD (g.lo + i) = true := by
      have := congrArg (fun z : Word => z.getLsbD (g.lo + i)) hm
      have h₁ : g.lo ≤ g.lo + i ∧ g.lo + i < g.lo + g.w := by omega
      simp only [BitVec.getLsbD_and, testBit_fieldMask g _ hg, h₁] at this
      simpa using this
    simp [h₂]
  · simp [hi]

/-! ### Registers -/

/-- No two registers share a place in the file. -/
theorem RegKey.rank_inj (a b : RegKey) (h : a.rank = b.rank) : a = b := by
  unfold RegKey.rank at h
  rw [Nat.pair_eq_pair, Nat.pair_eq_pair] at h
  obtain ⟨na, ia, ja⟩ := a
  obtain ⟨nb, ib, jb⟩ := b
  obtain ⟨h₁, h₂, h₃⟩ := h
  have hn : na = nb := by
    rw [← RegName.ofNat_ctorIdx na, ← RegName.ofNat_ctorIdx nb]
    exact congrArg RegName.ofNat h₁
  simp_all

theorem State.rd_setReg (s : State) (k : RegKey) (v : Word) (n : RegName) (i j : Nat) :
    ((Eff.setReg k v).apply s).rd n i j =
      if (⟨n, i, j⟩ : RegKey) = k ∧ n ≠ .GLB_ID then v &&& regMask n else s.rd n i j := by
  unfold State.rd
  rw [Eff.setReg_reg]
  by_cases hg : k.name = .GLB_ID
  · have : ¬ ((⟨n, i, j⟩ : RegKey) = k ∧ n ≠ .GLB_ID) := by
      rintro ⟨rfl, h⟩; exact h hg
    simp [hg, this]
  · by_cases hk : (⟨n, i, j⟩ : RegKey) = k
    · subst hk
      simp [show n ≠ .GLB_ID from hg]
    · simp only [hg, hk, if_false, false_and]
      exact SMap.get_put_ne _ _ hk

/-- A register just set reads as what was set, in its implemented bits. -/
theorem State.rd_setReg_same (s : State) (n : RegName) (i j : Nat) (v : Word) (hn : n ≠ .GLB_ID) :
    ((Eff.setReg ⟨n, i, j⟩ v).apply s).rd n i j = v &&& regMask n := by
  simp [State.rd_setReg, hn]

/-- Setting a register leaves every other register alone. -/
theorem State.rd_setReg_ne (s : State) (k : RegKey) (v : Word) (n : RegName) (i j : Nat)
    (h : (⟨n, i, j⟩ : RegKey) ≠ k) : ((Eff.setReg k v).apply s).rd n i j = s.rd n i j := by
  simp [State.rd_setReg, h]

/-- The registers depend on the register file alone. -/
theorem State.rd_congr {s t : State} (h : t.reg = s.reg) (n : RegName) (i j : Nat) : t.rd n i j = s.rd n i j := by
  unfold State.rd; rw [h]

@[simp] theorem run_wr (n : RegName) (v : Word) (i j : Nat) (s : State) :
    (wr n v i j).run s = ((), (Eff.setReg ⟨n, i, j⟩ v).apply s) := rfl

@[simp] theorem run_wrF (n : RegName) (f : Field) (x i j : Nat) (s : State) :
    (wrF n f x i j).run s = ((), (Eff.setReg ⟨n, i, j⟩ (putF f (s.rd n i j) x)).apply s) := rfl

@[simp] theorem run_setF (n : RegName) (f : Field) (i j : Nat) (s : State) :
    (setF n f i j).run s = ((), (Eff.setReg ⟨n, i, j⟩ (putF f (s.rd n i j) 1)).apply s) := rfl

@[simp] theorem run_bumpF (n : RegName) (f : Field) (b i j : Nat) (s : State) :
    (bumpF n f b i j).run s =
      ((), (Eff.setReg ⟨n, i, j⟩ (putF f (s.rd n i j) (satAdd f.w (s.rdF n f i j) b))).apply s) := rfl

/-- A field set by an effect reads as what was set, cut to its width. -/
theorem State.rdF_setReg_putF (s : State) (n : RegName) (f : Field) (i j x : Nat) (hn : n ≠ .GLB_ID)
    (h : f.lo + f.w ≤ 64) (hm : fieldMask f &&& regMask n = fieldMask f) :
    ((Eff.setReg ⟨n, i, j⟩ (putF f (s.rd n i j) x)).apply s).rdF n f i j = x % 2 ^ f.w := by
  unfold State.rdF
  rw [State.rd_setReg_same s n i j _ hn]
  exact getF_putF_mask f _ _ x h hm

/-! ### The canonical forms -/

/-- The stack's form, as the tables say it. -/
theorem Memory.wf_iff (m : List Host.Cell) : Memory.wf m = true ↔ Tab.wf 0 m ∧ ∀ e ∈ m, e.1 < stackSize := by
  unfold Memory.wf Tab.wf SMap.wf
  simp only [Bool.and_eq_true, decide_eq_true_eq, List.all_eq_true, bne_iff_ne, id]
  constructor
  · rintro ⟨h₁, h₂⟩
    exact ⟨⟨h₁, fun e he => (h₂ e he).1⟩, fun e he => (h₂ e he).2⟩
  · rintro ⟨⟨h₁, h₂⟩, h₃⟩
    exact ⟨h₁, fun e he => ⟨h₂ e he, h₃ e he⟩⟩

theorem Tab.mem_upd {α : Type} [DecidableEq α] {d : α} {m : Tab α} {k : Nat} {x : α} {e : Nat × α}
    (h : e ∈ Tab.upd d m k x) : e.1 = k ∨ e ∈ m := by
  unfold Tab.upd SMap.put at h
  split at h
  · exact .inr (SMap.mem_del h).1
  · rcases SMap.mem_ins h with rfl | h
    · exact .inl rfl
    · exact .inr (SMap.mem_del h).1

/-- Writing a byte of the stack keeps its form. -/
theorem Memory.wf_upd {m : Tab Byte} {a : Nat} (b : Byte) (ha : a < stackSize) (h : Memory.wf m = true) :
    Memory.wf (Tab.upd 0 m a b) = true := by
  rw [Memory.wf_iff] at h ⊢
  refine ⟨Tab.wf_upd a b h.1, fun e he => ?_⟩
  rcases Tab.mem_upd he with he | he
  · exact he ▸ ha
  · exact h.2 e he

/-! ### What every effect keeps -/

/-- No effect touches the queue of commands. -/
@[simp] theorem Eff.apply_pending (e : Eff) (s : State) : (e.apply s).pending = s.pending := by
  cases e <;> simp

/-- Every effect keeps the stack's form. -/
theorem Eff.apply_mem_wf (e : Eff) {s : State} (h : Memory.wf s.mem = true) : Memory.wf (e.apply s).mem = true := by
  cases e with
  | memByte a b =>
    rw [Eff.memByte_mem]
    split
    · next ha => exact Memory.wf_upd b ha h
    · exact h
  | _ => first | exact h | (simpa using h) | rfl

/-- No program touches the queue of commands. -/
@[simp] theorem Prog.run_pending {α : Type} (p : Prog α) (s : State) : (p.run s).2.pending = s.pending :=
  Prog.All.frame (g := fun t => t.pending) (Prog.All.of_forall (fun e s => Eff.apply_pending e s) p) s

/-- Every program keeps the stack's form. -/
theorem Prog.run_mem_wf {α : Type} (p : Prog α) {s : State} (h : Memory.wf s.mem = true) :
    Memory.wf (p.run s).2.mem = true :=
  Prog.All.keeps (I := fun t => Memory.wf t.mem = true) (Prog.All.of_forall (fun e _ hs => Eff.apply_mem_wf e hs) p) h

end Sys2Proof.Machine
end

