-- ==== Sys2Proof/Laws/Exec.lean ====
section
/-!
SUPPORT. Sys2Proof/Laws/Exec.lean: every next state of a command is what a program of effects leaves, whichever
command it is; and what follows for every command at once.
-/

namespace Sys2Proof.Machine

/-- A meaning that is a program answers what the program leaves. -/
theorem Prog.of_next {p : Prog Unit} {s t : State} (h : p.next s = .next t) : ∃ q : Prog Unit, t = (q.run s).2 :=
  ⟨p, (Prog.next_inj p s t).1 h⟩

/-- Every next state of a command is what a program of effects leaves. -/
theorem exec_next {i : Instr} {s t : State} (h : exec i s = .next t) : ∃ p : Prog Unit, t = (p.run s).2 := by
  cases i with
  | sectorRead a l =>
    change execSectorRead a l s = _ at h
    unfold execSectorRead at h
    split at h
    · cases h
    · exact Prog.of_next h
  | sectorWrite a o d p =>
    change execSectorWrite a o d p s = _ at h
    unfold execSectorWrite at h
    split at h
    · cases h
    · exact Prog.of_next h
  | _ => exact Prog.of_next h

end Sys2Proof.Machine
end

