-- ==== Sys2Proof/Laws/Frame.lean ====
section
/-!
SUPPORT. Sys2Proof/Laws/Frame.lean: which parts of the state and which registers an effect changes, and what a program
whose effects stay within them leaves alone.
-/

namespace Sys2Proof.Machine

/-- The parts that an effect changes are among those listed. -/
def Eff.PartsIn (l : List Part) : Eff → Prop
  | .setReg _ _ => Part.reg ∈ l
  | .setPend _ _ => Part.pend ∈ l
  | .memByte _ _ => Part.mem ∈ l
  | .clearMem => Part.mem ∈ l ∧ Part.mmeta ∈ l ∧ Part.err ∈ l ∧ Part.pilotSecs ∈ l
  | .setMeta _ _ => Part.mmeta ∈ l
  | .setErr _ _ => Part.err ∈ l
  | .setPilot _ _ => Part.pilotSecs ∈ l
  | .setCl _ _ => Part.cl ∈ l
  | .setCodec _ _ => Part.codec ∈ l
  | .setXlt _ _ => Part.xlt ∈ l
  | .setInvAll _ => Part.invAll ∈ l
  | .setMov _ _ => Part.mov ∈ l
  | .setBnd _ _ => Part.bnd ∈ l
  | .setLu _ _ => Part.lu ∈ l
  | .setSu _ _ => Part.su ∈ l
  | .setPort _ _ => Part.port ∈ l
  | .setVote _ _ => Part.vote ∈ l
  | .setCe _ _ => Part.ce ∈ l
  | .storeByte _ _ => Part.store ∈ l
  | .clearStore _ => Part.store ∈ l
  | .setHornWait _ => Part.hornWait ∈ l
  | .setChan _ _ => Part.chan ∈ l
  | .setKey _ _ => Part.keys ∈ l
  | .setJnl _ => Part.jnl ∈ l
  | .flashByte _ _ => Part.flash ∈ l
  | .setAwait _ => Part.await ∈ l
  | .setLoad _ => Part.load ∈ l
  | .setRb _ => Part.rb ∈ l
  | .setSaves _ => Part.saves ∈ l
  | .setHq _ _ => Part.hq ∈ l
  | .setTurns _ => Part.turns ∈ l
  | .setBoot _ => Part.boot ∈ l
  | .setPins _ => Part.pins ∈ l
  | .setSec _ => Part.sec ∈ l
  | .setTel _ => Part.tel ∈ l
  | .setFw _ => Part.fw ∈ l
  | .powerLost =>
    Part.reg ∈ l ∧ Part.pend ∈ l ∧ Part.mem ∈ l ∧ Part.mmeta ∈ l ∧ Part.err ∈ l ∧ Part.pilotSecs ∈ l ∧ Part.cl ∈ l ∧ Part.codec ∈ l ∧
    Part.xlt ∈ l ∧ Part.invAll ∈ l ∧ Part.mov ∈ l ∧ Part.bnd ∈ l ∧ Part.lu ∈ l ∧ Part.su ∈ l ∧ Part.port ∈ l ∧
    Part.vote ∈ l ∧ Part.ce ∈ l ∧ Part.store ∈ l ∧ Part.hornWait ∈ l ∧ Part.chan ∈ l ∧ Part.keys ∈ l ∧ Part.jnl ∈ l ∧
    Part.await ∈ l ∧ Part.load ∈ l ∧ Part.rb ∈ l ∧ Part.saves ∈ l ∧ Part.hq ∈ l ∧ Part.turns ∈ l ∧ Part.boot ∈ l ∧
    Part.pins ∈ l ∧ Part.sec ∈ l ∧ Part.tel ∈ l ∧ Part.fw ∈ l ∧ Part.digests ∈ l ∧ Part.fseq ∈ l ∧ Part.lseq ∈ l ∧
    Part.unread ∈ l
  | .setDigests _ => Part.digests ∈ l
  | .setFseq _ => Part.fseq ∈ l
  | .setLseq _ => Part.lseq ∈ l
  | .setUnread _ _ => Part.unread ∈ l
  | .setEpochs _ => Part.epochs ∈ l
  | .setDraws _ => Part.draws ∈ l
  | .emit _ => Part.out ∈ l

/-- The registers that an effect may change, by name; all where the power is lost. -/
def Eff.NamesIn (n : List RegName) : Eff → Prop
  | .setReg k _ => k.name ∈ n
  | .powerLost => False
  | _ => True

/-- An effect leaves every other part alone. -/
theorem Eff.same_of_not_mem (e : Eff) {l : List Part} (he : e.PartsIn l) (p : Part) (h : p ∉ l) (s : State) :
    p.Same s (e.apply s) := by
  cases p <;> simp only [Part.Same] <;> intros <;> cases e <;> first
    | rfl
    | exact absurd he h
    | (simp only [Eff.PartsIn] at he; simp_all; done)
    | (dsimp only [Eff.apply]; split <;> rfl)

/-- An effect leaves every register of another name alone. -/
theorem Eff.rd_of_names (e : Eff) (l : List RegName) (h : e.NamesIn l) (n : RegName) (hn : n ∉ l) (i j : Nat) (s : State) :
    (e.apply s).rd n i j = s.rd n i j := by
  cases e with
  | setReg k v =>
    refine State.rd_setReg_ne s k v n i j ?_
    rintro rfl
    exact hn h
  | powerLost => exact h.elim
  | _ => exact State.rd_congr (by simp) n i j

/-- Every effect of a program stays within some parts and registers. -/
def Prog.Within {α : Type} (l : List Part) (n : List RegName) (p : Prog α) : Prop :=
  p.All fun e => e.PartsIn l ∧ e.NamesIn n

namespace Prog

variable {α β ε : Type} {l l' : List Part} {n n' : List RegName}

theorem Part.same_refl (p : Part) (s : State) : p.Same s s := by cases p <;> simp [Part.Same]

theorem Part.same_trans (p : Part) {s t u : State} (h : p.Same s t) (h' : p.Same t u) : p.Same s u := by
  cases p <;> simp only [Part.Same] at * <;> simp_all

/-- What a program within some parts leaves alone. -/
theorem Within.same {p : Prog α} (h : p.Within l n) (q : Part) (hq : q ∉ l) (s : State) : q.Same s (p.run s).2 :=
  All.keeps (I := fun t => q.Same s t)
    (All.imp (fun e he t ht => Part.same_trans q ht (e.same_of_not_mem he.1 q hq t)) h)
    (Part.same_refl q s)

/-- The registers that a program within some names leaves alone. -/
theorem Within.rd {p : Prog α} (h : p.Within l n) (r : RegName) (hr : r ∉ n) (i j : Nat) (s : State) :
    (p.run s).2.rd r i j = s.rd r i j :=
  All.frame (g := fun t => t.rd r i j) (All.imp (fun e he t => e.rd_of_names n he.2 r hr i j t) h) s

theorem Within.mono {p : Prog α} (h : p.Within l n) (hl : l ⊆ l') (hn : n ⊆ n') : p.Within l' n' := by
  refine All.imp (fun e he => ⟨?_, ?_⟩) h
  · obtain ⟨he, -⟩ := he
    cases e <;> first
      | exact hl he
      | (simp only [Eff.PartsIn] at he ⊢; simp only [hl he.1, true_and]; simp_all [List.subset_def])
  · cases e <;> first | exact hn he.2 | trivial | exact he.2

@[simp] theorem Within.ret (a : α) : (Prog.ret a).Within l n := trivial
@[simp] theorem Within.skip : Prog.skip.Within l n := trivial
@[simp] theorem Within.get {k : State → Prog α} (h : ∀ s, (k s).Within l n) : (Prog.get k).Within l n := h
theorem Within.eff {e : Eff} {k : Prog α} (h₁ : e.PartsIn l) (h₂ : e.NamesIn n) (hk : k.Within l n) :
    (Prog.eff e k).Within l n := ⟨⟨h₁, h₂⟩, hk⟩
theorem Within.one {e : Eff} (h₁ : e.PartsIn l) (h₂ : e.NamesIn n) : (Prog.one e).Within l n :=
  ⟨⟨h₁, h₂⟩, trivial⟩
@[simp] theorem Within.bind {p : Prog α} {f : α → Prog β} (hp : p.Within l n) (hf : ∀ a, (f a).Within l n) :
    (p.bind f).Within l n := All.bind hp hf
@[simp] theorem Within.seq {p : Prog Unit} {q : Prog β} (hp : p.Within l n) (hq : q.Within l n) : (p.seq q).Within l n :=
  All.seq hp hq
@[simp] theorem Within.bindE {p : Prog (Except ε α)} {f : α → Prog (Except ε β)} (hp : p.Within l n)
    (hf : ∀ a, (f a).Within l n) : (p.bindE f).Within l n := All.bindE hp hf
theorem Within.all {ps : List (Prog Unit)} (h : ∀ p ∈ ps, p.Within l n) : (Prog.all ps).Within l n := All.all h
@[simp] theorem Within.all_nil : (Prog.all []).Within l n := trivial
@[simp] theorem Within.all_cons {p : Prog Unit} {ps : List (Prog Unit)} (h : p.Within l n) (hs : (Prog.all ps).Within l n) :
    (Prog.all (p :: ps)).Within l n := All.seq h hs
@[simp] theorem Within.each {xs : List α} {f : α → Prog Unit} (h : ∀ a, (f a).Within l n) : (Prog.each xs f).Within l n :=
  All.each fun a _ => h a
@[simp] theorem Within.mapM {xs : List α} {f : α → Prog β} (h : ∀ a, (f a).Within l n) : (Prog.mapM xs f).Within l n :=
  All.mapM fun a _ => h a
@[simp] theorem Within.mapE {xs : List α} {f : α → Prog (Except ε β)} (h : ∀ a, (f a).Within l n) :
    (Prog.mapE xs f).Within l n := All.mapE fun a _ => h a
@[simp] theorem Within.when {c : Bool} {p : Prog Unit} (h : p.Within l n) : (Prog.when c p).Within l n := All.when fun _ => h
@[simp] theorem Within.ite {c : Prop} [Decidable c] {p q : Prog α} (hp : p.Within l n) (hq : q.Within l n) :
    (if c then p else q).Within l n := by split <;> assumption
theorem Within.ask {f : State → α} : (Prog.ask f).Within l n := fun _ => trivial

@[simp] theorem Within.wr {r : RegName} {v : Word} {i j : Nat} (h : Part.reg ∈ l) (hr : r ∈ n) : (wr r v i j).Within l n :=
  Within.one h hr
@[simp] theorem Within.wrF {r : RegName} {f : Field} {x i j : Nat} (h : Part.reg ∈ l) (hr : r ∈ n) : (wrF r f x i j).Within l n :=
  fun _ => Within.wr h hr
@[simp] theorem Within.setF {r : RegName} {f : Field} {i j : Nat} (h : Part.reg ∈ l) (hr : r ∈ n) : (setF r f i j).Within l n :=
  Within.wrF h hr
@[simp] theorem Within.bumpF {r : RegName} {f : Field} {x i j : Nat} (h : Part.reg ∈ l) (hr : r ∈ n) :
    (bumpF r f x i j).Within l n := fun _ => Within.wrF h hr
@[simp] theorem Within.addFlags {r : RegName} {x i : Nat} (h : Part.reg ∈ l) (hr : r ∈ n) : (addFlags r x i).Within l n :=
  fun _ => Within.wr h hr

/-! ### One effect -/

@[simp] theorem Within.setPend {x y} (h : Part.pend ∈ l) : (Prog.one (Eff.setPend x y)).Within l n := .one h trivial
@[simp] theorem Within.memByte {x y} (h : Part.mem ∈ l) : (Prog.one (Eff.memByte x y)).Within l n := .one h trivial
@[simp] theorem Within.setMeta {x y} (h : Part.mmeta ∈ l) : (Prog.one (Eff.setMeta x y)).Within l n := .one h trivial
@[simp] theorem Within.setPilot {x y} (h : Part.pilotSecs ∈ l) : (Prog.one (Eff.setPilot x y)).Within l n := .one h trivial
@[simp] theorem Within.setErr {x y} (h : Part.err ∈ l) : (Prog.one (Eff.setErr x y)).Within l n := .one h trivial
@[simp] theorem Within.setCl {x y} (h : Part.cl ∈ l) : (Prog.one (Eff.setCl x y)).Within l n := .one h trivial
@[simp] theorem Within.setCodec {x y} (h : Part.codec ∈ l) : (Prog.one (Eff.setCodec x y)).Within l n := .one h trivial
@[simp] theorem Within.setXlt {x y} (h : Part.xlt ∈ l) : (Prog.one (Eff.setXlt x y)).Within l n := .one h trivial
@[simp] theorem Within.setInvAll {x} (h : Part.invAll ∈ l) : (Prog.one (Eff.setInvAll x)).Within l n := .one h trivial
@[simp] theorem Within.setMov {x y} (h : Part.mov ∈ l) : (Prog.one (Eff.setMov x y)).Within l n := .one h trivial
@[simp] theorem Within.setBnd {x y} (h : Part.bnd ∈ l) : (Prog.one (Eff.setBnd x y)).Within l n := .one h trivial
@[simp] theorem Within.setLu {x y} (h : Part.lu ∈ l) : (Prog.one (Eff.setLu x y)).Within l n := .one h trivial
@[simp] theorem Within.setSu {x y} (h : Part.su ∈ l) : (Prog.one (Eff.setSu x y)).Within l n := .one h trivial
@[simp] theorem Within.setPort {x y} (h : Part.port ∈ l) : (Prog.one (Eff.setPort x y)).Within l n := .one h trivial
@[simp] theorem Within.setVote {x y} (h : Part.vote ∈ l) : (Prog.one (Eff.setVote x y)).Within l n := .one h trivial
@[simp] theorem Within.setCe {x y} (h : Part.ce ∈ l) : (Prog.one (Eff.setCe x y)).Within l n := .one h trivial
@[simp] theorem Within.storeByte {x y} (h : Part.store ∈ l) : (Prog.one (Eff.storeByte x y)).Within l n := .one h trivial
@[simp] theorem Within.clearStore {x} (h : Part.store ∈ l) : (Prog.one (Eff.clearStore x)).Within l n := .one h trivial
@[simp] theorem Within.setHornWait {x} (h : Part.hornWait ∈ l) : (Prog.one (Eff.setHornWait x)).Within l n := .one h trivial
@[simp] theorem Within.setChan {x y} (h : Part.chan ∈ l) : (Prog.one (Eff.setChan x y)).Within l n := .one h trivial
@[simp] theorem Within.setKey {x y} (h : Part.keys ∈ l) : (Prog.one (Eff.setKey x y)).Within l n := .one h trivial
@[simp] theorem Within.setJnl {x} (h : Part.jnl ∈ l) : (Prog.one (Eff.setJnl x)).Within l n := .one h trivial
@[simp] theorem Within.flashByte {x y} (h : Part.flash ∈ l) : (Prog.one (Eff.flashByte x y)).Within l n := .one h trivial
@[simp] theorem Within.setAwait {x} (h : Part.await ∈ l) : (Prog.one (Eff.setAwait x)).Within l n := .one h trivial
@[simp] theorem Within.setLoad {x} (h : Part.load ∈ l) : (Prog.one (Eff.setLoad x)).Within l n := .one h trivial
@[simp] theorem Within.setRb {x} (h : Part.rb ∈ l) : (Prog.one (Eff.setRb x)).Within l n := .one h trivial
@[simp] theorem Within.setSaves {x} (h : Part.saves ∈ l) : (Prog.one (Eff.setSaves x)).Within l n := .one h trivial
@[simp] theorem Within.setHq {x y} (h : Part.hq ∈ l) : (Prog.one (Eff.setHq x y)).Within l n := .one h trivial
@[simp] theorem Within.setTurns {x} (h : Part.turns ∈ l) : (Prog.one (Eff.setTurns x)).Within l n := .one h trivial
@[simp] theorem Within.setBoot {x} (h : Part.boot ∈ l) : (Prog.one (Eff.setBoot x)).Within l n := .one h trivial
@[simp] theorem Within.setPins {x} (h : Part.pins ∈ l) : (Prog.one (Eff.setPins x)).Within l n := .one h trivial
@[simp] theorem Within.setSec {x} (h : Part.sec ∈ l) : (Prog.one (Eff.setSec x)).Within l n := .one h trivial
@[simp] theorem Within.setTel {x} (h : Part.tel ∈ l) : (Prog.one (Eff.setTel x)).Within l n := .one h trivial
@[simp] theorem Within.setFw {x} (h : Part.fw ∈ l) : (Prog.one (Eff.setFw x)).Within l n := .one h trivial
@[simp] theorem Within.setDigests {x} (h : Part.digests ∈ l) : (Prog.one (Eff.setDigests x)).Within l n := .one h trivial
@[simp] theorem Within.setFseq {x} (h : Part.fseq ∈ l) : (Prog.one (Eff.setFseq x)).Within l n := .one h trivial
@[simp] theorem Within.setLseq {x} (h : Part.lseq ∈ l) : (Prog.one (Eff.setLseq x)).Within l n := .one h trivial
@[simp] theorem Within.setUnread {x y} (h : Part.unread ∈ l) : (Prog.one (Eff.setUnread x y)).Within l n := .one h trivial
@[simp] theorem Within.setEpochs {x} (h : Part.epochs ∈ l) : (Prog.one (Eff.setEpochs x)).Within l n := .one h trivial
@[simp] theorem Within.setDraws {x} (h : Part.draws ∈ l) : (Prog.one (Eff.setDraws x)).Within l n := .one h trivial
@[simp] theorem Within.emit {x} (h : Part.out ∈ l) : (Prog.one (Eff.emit x)).Within l n := .one h trivial

end Prog

end Sys2Proof.Machine
end

