-- ==== Sys2Proof/Laws/Mem.lean ====
section
/-!
SUPPORT. Sys2Proof/Laws/Mem.lean: what sectors, translations and a unit's accesses change: no cluster, no binding and
no register but those of the memory, the translation units and the counters.
-/

namespace Sys2Proof.Machine

/-- The registers of the memory path. -/
def memNames : List RegName :=
  [.CNT_OVF, .CNT_VAL, .MEM_CDC_ERR, .MEM_CDC_RAWCNT, .MEM_CDC_STALECNT, .MEM_CECNT, .MEM_ERR, .MEM_ERRADDR, .MEM_ERRINFO,
   .MEM_INJ, .MEM_UECNT, .XLT_STATUS, .XLT_WALKCNT]

/-- The parts of the memory path that a read changes. -/
def readParts : List Part := [.reg, .err, .codec, .xlt, .out]

/-- The parts of the memory path. -/
def memParts : List Part := [.reg, .err, .codec, .xlt, .out, .mem, .mmeta, .pilotSecs]

@[simp] theorem mem_memNames (n : RegName) : n ∈ memNames ↔
    n = .CNT_OVF ∨ n = .CNT_VAL ∨ n = .MEM_CDC_ERR ∨ n = .MEM_CDC_RAWCNT ∨ n = .MEM_CDC_STALECNT ∨ n = .MEM_CECNT ∨
    n = .MEM_ERR ∨ n = .MEM_ERRADDR ∨ n = .MEM_ERRINFO ∨ n = .MEM_INJ ∨ n = .MEM_UECNT ∨ n = .XLT_STATUS ∨
    n = .XLT_WALKCNT := by simp (maxDischargeDepth := 30) [memNames]

@[simp] theorem mem_readParts (p : Part) : p ∈ readParts ↔ p = .reg ∨ p = .err ∨ p = .codec ∨ p = .xlt ∨ p = .out := by
  simp (maxDischargeDepth := 30) [readParts]

@[simp] theorem mem_memParts (p : Part) : p ∈ memParts ↔
    p = .reg ∨ p = .err ∨ p = .codec ∨ p = .xlt ∨ p = .out ∨ p = .mem ∨ p = .mmeta ∨
    p = .pilotSecs := by
  simp (maxDischargeDepth := 30) [memParts]

open Prog

variable {α : Type} {l : List Part} {n : List RegName}

theorem Prog.Within.toMem {p : Prog α} (h : p.Within readParts memNames) : p.Within memParts memNames :=
  h.mono (by decide) (fun _ h => h)

theorem count_within (set ev k : Nat) (t : Tags) : (count set ev k t).Within readParts memNames := by simp (maxDischargeDepth := 30) [count]

theorem secRead_within (sec : Nat) (b : Bool) : (secRead sec b).Within readParts memNames := by
  unfold secRead
  refine Within.get fun s => Within.bind (count_within _ _ _ _) fun _ => Within.get fun s => ?_
  dsimp only
  cases rsDecode (s.errOf sec) <;> simp (maxDischargeDepth := 30)

theorem wrBytes_within (a : Nat) (d : List Byte) : (wrBytes a d).Within memParts memNames := by
  induction d generalizing a with
  | nil => exact Within.skip
  | cons b r ih => exact Within.eff (by simp [Eff.PartsIn]) trivial (ih _)

theorem secStore_within (sec : Nat) (d : List Byte) (m : Nat) : (secStore sec d m).Within memParts memNames := by
  simp (maxDischargeDepth := 30) [secStore, inject, wrBytes_within, (count_within _ _ _ _).toMem]

theorem secWrite_within (sec off : Nat) (d : List Byte) (p : Bool) (t : Nat) :
    (secWrite sec off d p t).Within memParts memNames := by
  simp (maxDischargeDepth := 30) [secWrite, secStore_within, (secRead_within _ _).toMem]

theorem physRead_within (a k : Nat) : (physRead a k).Within readParts memNames := by
  simp (maxDischargeDepth := 30) [physRead, secRead_within]

theorem physWrite_within (a : Nat) (d : List (Byte × Bool)) : (physWrite a d).Within memParts memNames := by
  simp (maxDischargeDepth := 30) [physWrite, secWrite_within]

theorem physPut_within (a : Nat) (d : List Byte) : (physPut a d).Within memParts memNames := physWrite_within _ _

theorem cacheAdd_within (x b lvl va : Nat) (p : BitVec 64) : (cacheAdd x b lvl va p).Within readParts memNames := by
  simp (maxDischargeDepth := 30) [cacheAdd, showCached]

theorem walk_within (u : Unit') (acc : Acc) (va fuel lvl table : Nat) (rd : Bool) :
    (walk u acc va fuel lvl table rd).Within readParts memNames := by
  induction fuel generalizing lvl table rd with
  | zero => exact Within.ret _
  | succ fuel ih =>
    simp only [walk]
    refine Within.get fun s => ?_
    split
    · simp (maxDischargeDepth := 30) [ih]
    · simp (maxDischargeDepth := 30) [ih, physRead_within, cacheAdd_within]

theorem translate_within (u : Unit') (acc : Acc) (va : Nat) : (translate u acc va).Within readParts memNames := by
  simp only [translate]
  refine Within.get fun s => ?_
  split
  · exact Within.ret _
  · split
    · simp
    · simp (maxDischargeDepth := 30) [walk_within, count_within]

theorem plainRead_within (u : Unit') (va k : Nat) (f : Nat → Nat → Flt) :
    (plainRead u va k f).Within readParts memNames := by
  simp (maxDischargeDepth := 30) [plainRead, translate_within, physRead_within]

theorem fetchRegion_within (u : Unit') (e cri va pa : Nat) (acc : Acc) :
    (fetchRegion u e cri va pa acc).Within readParts memNames := by
  simp (maxDischargeDepth := 30) [fetchRegion, plainRead_within]

theorem baseBlock_within (u : Unit') (e : Nat) (r : Region) (va : Nat) :
    (baseBlock u e r va).Within readParts memNames := by
  simp only [baseBlock]
  refine Within.get fun s => ?_
  split
  · exact Within.ret _
  · split <;> simp (maxDischargeDepth := 30) [modCodec, plainRead_within]

theorem expandBlock_within (u : Unit') (e : Nat) (r : Region) (va pa : Nat) :
    (expandBlock u e r va pa).Within readParts memNames := by
  simp only [expandBlock]
  refine Within.bind (secRead_within _ _) fun s0 => Within.bind (Within.mapM fun _ => secRead_within _ _) fun rest =>
    Within.get fun s => ?_
  repeat' first
    | exact baseBlock_within _ _ _ _
    | split
    | simp (maxDischargeDepth := 30)
    | refine Within.bindE ?_ fun _ => ?_

theorem compressBlock_within (u : Unit') (e : Nat) (r : Region) (va pa : Nat) (b : List (Byte × Bool)) :
    (compressBlock u e r va pa b).Within memParts memNames := by
  simp (maxDischargeDepth := 30) [compressBlock, (baseBlock_within _ _ _ _).toMem, secWrite_within]

theorem vread_within (u : Unit') (va k : Nat) (acc : Acc) : (vread u va k acc).Within readParts memNames := by
  simp only [vread]
  refine Within.bindE (Within.mapE fun p => Within.bindE (translate_within _ _ _) fun t => ?_) fun _ => Within.ret _
  split
  · split
    · split
      · exact Within.ret _
      · refine Within.bindE (fetchRegion_within _ _ _ _ _ _) fun r => Within.bindE (expandBlock_within _ _ _ _ _) fun x => ?_
        split <;> simp (maxDischargeDepth := 30)
    · exact Within.bind (physRead_within _ _) fun _ => Within.ret _
  · exact Within.ret _

theorem vwrite_within (u : Unit') (va : Nat) (d : List (Byte × Bool)) : (vwrite u va d).Within memParts memNames := by
  simp only [vwrite]
  refine Within.bindE (Within.mapE fun p => Within.bindE (translate_within _ _ _).toMem fun t => ?_) fun _ => Within.ret _
  split
  · split
    · split
      · exact Within.ret _
      · simp (maxDischargeDepth := 30) [(fetchRegion_within _ _ _ _ _ _).toMem, compressBlock_within]
    · simp (maxDischargeDepth := 30) [physWrite_within]
  · exact Within.ret _

theorem poisonAt_within (u : Unit') (acc : Acc) (va : Nat) : (poisonAt u acc va).Within readParts memNames := by
  simp only [poisonAt]
  refine Within.bind (translate_within _ _ _) fun r => ?_
  split <;> exact Within.ret _

/-- A unit's read of bytes. -/
theorem vget_within (u : Unit') (va k : Nat) (acc : Acc) : (vget u va k acc).Within readParts memNames := by
  simp only [vget]
  refine Within.bindE (vread_within _ _ _ _) fun d => ?_
  split
  · exact Within.bind (poisonAt_within _ _ _) fun _ => Within.ret _
  · exact Within.ret _

/-- A unit's write of bytes. -/
theorem vput_within (u : Unit') (va : Nat) (d : List Byte) : (vput u va d).Within memParts memNames := vwrite_within _ _ _

end Sys2Proof.Machine
end

