-- ==== Sys2Proof/Laws/Seq.lean ====
section
/-!
SUPPORT. Sys2Proof/Laws/Seq.lean: what the issue of a word comes to where the fetch answers, what a retirement changes,
and what the sequencer's advance leaves.
-/

namespace Sys2Proof.Machine
open Prog

/-- A fetch leaves every cluster alone. -/
theorem fetch_cluster (s : State) (c : Nat) (a : Nat) : ((seqFetch s c).2).cluster a = s.cluster a :=
  (vget_within _ _ _ _).same .cl (by decide) s a

/-- A fetch leaves every register alone but those of the memory path. -/
theorem fetch_rd (s : State) (c : Nat) (n : RegName) (h : n ∉ memNames) (i j : Nat) :
    ((seqFetch s c).2).rd n i j = s.rd n i j :=
  (vget_within _ _ _ _).rd n h i j s

/-- A word that issues comes to its own effect on the state after the fetch, and the registers shown. -/
theorem issue_run {s : State} {c op : Nat} {w : BitVec 128} (spec : Bool) {legal : State → Cluster → Bool}
    {body : State → Cluster → Prog Unit} (h : SeqIssues s c op w)
    (hl : legal (seqFetch s c).2 (s.cluster c) = true) :
    (issue c op spec w legal body).run s =
      (showSeq c).run ((body (seqFetch s c).2 (s.cluster c)).run (seqFetch s c).2).2 := by
  obtain ⟨hr, hc, hd, d, hf⟩ := h
  have hcl := fetch_cluster s c c
  have e : (vget (seqUnit s c) (s.cluster c).ipc.toNat 16 .exec).run s = (.ok d, (seqFetch s c).2) := Prod.ext hf rfl
  unfold issue
  simp only [run_get, hr, Bool.not_true, Bool.false_eq_true, if_false, hc, ne_eq, not_true_eq_false, false_and,
    run_bind, e,
    hcl, hd, Cluster.watched', hl]
  simp

/-- What changes of the cluster at a retirement: the sample count alone. -/
theorem count_cluster (set ev k : Nat) (t : Tags) (s : State) (c : Nat) :
    ((count set ev k t).run s).2.cluster c = s.cluster c :=
  (count_within _ _ _ _).same .cl (by decide) s c

@[simp] theorem cluster_setCl (s : State) (c : Nat) (v : Cluster) (a : Nat) :
    ((Eff.setCl c v).apply s).cluster a = if a = c then v else s.cluster a := by
  unfold State.cluster
  rw [Eff.setCl_cl]
  simp [Tab.at_upd, eq_comm]

theorem sampleWrite_within (c : Nat) (r : Retire) :
    (sampleWrite c r).Within (.draws :: memParts) (.SMP_HEAD :: .SMP_LOST :: memNames) := by
  unfold sampleWrite
  have h (a : Nat) (d : List Byte) : (physPut a d).Within (.draws :: memParts) (.SMP_HEAD :: .SMP_LOST :: memNames) :=
    (physPut_within a d).mono (by simp) (by intro x; simp +contextual)
  have f : freeVal.Within (.draws :: memParts) (.SMP_HEAD :: .SMP_LOST :: memNames) :=
    fun s => ⟨⟨by simp [Eff.PartsIn], trivial⟩, trivial⟩
  simp (maxDischargeDepth := 30) [h, f]

/-- A retirement changes one count of the cluster. -/
theorem retire_cluster (c : Nat) (r : Retire) (s : State) (a : Nat) :
    ((retire c r).run s).2.cluster a = { s.cluster a with sampled := (((retire c r).run s).2.cluster a).sampled } := by
  have hs (s : State) : ((sampleWrite c r).run s).2.cluster a = s.cluster a :=
    (sampleWrite_within c r).same .cl (by simp) s a
  unfold retire
  simp only [run_get, run_seq]
  have hk : ∀ p : Prog Unit, p = (if r.vec then count (setVec c) 0x20 1 { ltag := r.ltag }
      else count (setCluster c) 0x11 1 { ltag := r.ltag }) →
      (p.run s).2.cluster a = s.cluster a := by
    rintro p rfl
    split <;> exact count_cluster _ _ _ _ _ _
  generalize hp : (if r.vec then _ else _ : Prog Unit) = p at *
  have hk := hk p rfl
  generalize (p.run s).2 = u at *
  split
  · split
    · simp only [run_seq, hs, modCl, run_get, run_one, cluster_setCl]
      split <;> simp_all
    · simp only [modCl, run_get, run_one, cluster_setCl]
      split <;> simp_all
  · simp [hk]


theorem retire_within (c : Nat) (r : Retire) :
    (retire c r).Within (.draws :: .cl :: memParts) (.SMP_HEAD :: .SMP_LOST :: memNames) := by
  have h := (sampleWrite_within c r).mono (l' := .draws :: .cl :: memParts) (by simp +contextual) (List.Subset.refl _)
  have k (set ev k : Nat) (t : Tags) :
      (count set ev k t).Within (.draws :: .cl :: memParts) (.SMP_HEAD :: .SMP_LOST :: memNames) :=
    (count_within set ev k t).mono (by intro x; simp +contextual; tauto) (by intro x; simp +contextual)
  unfold retire
  simp (maxDischargeDepth := 30) [h, k, modCl]

theorem retire_seqState (c : Nat) (r : Retire) (s : State) (a : Nat) :
    seqState ((retire c r).run s).2 a = seqState s a := by
  unfold seqState State.rdF
  rw [(retire_within c r).rd .ARY_STATUS (by simp)]

/-- A retirement that nothing holds back happens at once. -/
theorem hold_retire (c : Nat) (r : Retire) (s : State) (hd : (s.cluster c).decs = []) (ho : (s.cluster c).out = [])
    (h3 : seqState s c ≠ 3) (h5 : seqState s c ≠ 5) :
    (hold c [.retire r]).run s = (retire c r).run
      ((Eff.setCl c (s.cluster c)).apply ((Eff.setCl c { s.cluster c with out := [.retire r] }).apply s)) := by
  unfold hold
  simp only [run_get]
  rw [show (s.cluster c).decs.reverse = [] by simp [hd]]
  simp only [run_get, run_seq, modCl, run_one, ho, List.nil_append]
  unfold releaseAll
  have hs (v : Cluster) (t : State) : seqState ((Eff.setCl c v).apply t) c = seqState t c := rfl
  simp only [run_get, cluster_setCl, if_true, List.length_cons, List.length_nil, hs, beq_eq_false_iff_ne.mpr h5,
    Bool.false_eq_true, if_false]
  unfold release
  simp only [run_get, cluster_setCl, if_true, run_seq]
  unfold release
  simp only [run_get]
  have hk : ({ s.cluster c with out := [] } : Cluster) = s.cluster c := by rw [← ho]
  simp only [modCl, run_get, run_one, cluster_setCl, if_true, hk]
  rw [retire_cluster]
  simp only [cluster_setCl, if_true, ho, retire_seqState, run_when]
  rw [if_neg]
  simpa [seqState, State.rdF, State.rd, Eff.setCl_reg] using h3

/-- An advance with nothing speculative puts the word in the log, moves the sequencer on and changes no register but
those of the counters, the sample ring and the memory path. -/
theorem advance_run (c : Nat) (w : BitVec 128) (a : BitVec 48) (s : State) (hd : (s.cluster c).decs = [])
    (ho : (s.cluster c).out = []) (h3 : seqState s c ≠ 3) (h5 : seqState s c ≠ 5) :
    (∃ n, (((advance c w a).run s).2).cluster c = { (s.cluster c).issued w a with sampled := n }) ∧
      ∀ q, q ∉ RegName.SMP_HEAD :: .SMP_LOST :: memNames → ∀ i j, (((advance c w a).run s).2).rd q i j = s.rd q i j := by
  unfold advance
  simp only [run_get, run_seq, modCl, run_one]
  rw [hold_retire _ _ _ (by simp [Cluster.issued, hd]) (by simp [Cluster.issued, ho])
    (by simpa [seqState, State.rdF, State.rd, Eff.setCl_reg] using h3)
    (by simpa [seqState, State.rdF, State.rd, Eff.setCl_reg] using h5)]
  generalize hu : Eff.apply _ (Eff.apply _ (Eff.apply _ s)) = u
  have hc : u.cluster c = (s.cluster c).issued w a := by rw [← hu]; simp only [cluster_setCl, if_true]
  constructor
  · exact ⟨(((retire c (retireOf (s.cluster c) w)).run u).2.cluster c).sampled, by rw [retire_cluster, hc]⟩
  · intro q hq i j
    rw [(retire_within _ _).rd _ hq, ← hu]
    rfl

theorem showSeq_within (c : Nat) : (showSeq c).Within [.reg] [.ARY_STATUS, .ARY_PC] := by
  unfold showSeq
  simp (maxDischargeDepth := 30)

/-- A meaning that is a program completes with what the program leaves. -/
theorem Completes.of_next {i : Instr} {p : Prog Unit} {s : State} {P : State → Prop} (h : exec i s = p.next s)
    (hP : P (p.run s).2) : Completes i s P := ⟨_, h, hP⟩

end Sys2Proof.Machine
end

