-- ==== Sys2Proof/Tests/Slice0.lean ====
section
/-!
SUPPORT. Sys2Proof/Tests/Slice0.lean: worked examples of the spec, ill-formed commands that the checks refuse, and states
that meet the hypotheses of the statements. A witness of a statement's clause is named after the statement.
-/

namespace Sys2Proof.Machine.Tests

open Sys2Proof Sys2Proof.Machine

-- One theorem at a time: so many kernel evaluations side by side would need more threads than the memory limit allows.
set_option Elab.async false

/-! ### Helpers -/

/-- A leaf that maps the first GiB of a binding's addresses to itself, readable, writable and executable (R223). -/
def leaf (b : Nat) : XEnt := ⟨b, 2, 0, 0x1F⟩

/-- The roots of those units, valid. -/
def roots : List (RegName × Nat × Nat × Nat) := [0, 32, 33, 34].map fun x => (.XLT_ROOT, x, 0, 2 ^ Fld.XLT_ROOT_VALID.lo)

/-- The state after reset with some registers written, and with the translation units of cluster 0 and of the units
holding a leaf of binding 0. -/
def wired (l : List (RegName × Nat × Nat × Nat)) : State :=
  { (roots ++ l).foldl (fun s e => (Eff.setReg ⟨e.1, e.2.1, e.2.2.1⟩ (BitVec.ofNat 64 e.2.2.2)).apply s) State.reset with
    xlt := [(0, [leaf 0]), (32, [leaf 0]), (33, [leaf 0]), (34, [leaf 0])] }

/-- A program that answers a value. -/
def answers {ε α : Type} (p : Prog (Except ε α)) (s : State) : Bool :=
  match (p.run s).1 with
  | .ok _ => true
  | .error _ => false

/-- The value of a program that answers one. -/
def got {ε α : Type} (p : Prog (Except ε α)) (d : α) (s : State) : α :=
  match (p.run s).1 with
  | .ok x => x
  | .error _ => d

/-- The state that a program leaves. -/
def left {α : Type} (p : Prog α) (s : State) : State := (p.run s).2

theorem reads_got {ε α : Type} (p : Prog (Except ε α)) (d : α) (s : State) (h : answers p s = true) :
    Reads p s (got p d s) (left p s) := by
  unfold answers at h
  unfold Reads got left
  cases hp : p.run s with
  | mk r t => cases r <;> simp_all

/-- A program answers a value and leaves a state of which a check holds: nested, the hypotheses `Reads` of a statement
together, as `gives_reads` says. -/
def gives {ε α : Type} (p : Prog (Except ε α)) (s : State) (f : α → State → Bool) : Bool :=
  match p.run s with
  | (.ok x, t) => f x t
  | (.error _, _) => false

theorem gives_reads {ε α : Type} (p : Prog (Except ε α)) (s : State) (f : α → State → Bool) (h : gives p s f = true) :
    ∃ x t, Reads p s x t ∧ f x t = true := by
  unfold gives at h
  unfold Reads
  cases hp : p.run s with
  | mk r t => cases r <;> simp_all

theorem ok_of_answers {ε α : Type} (p : Prog (Except ε α)) (s : State) (h : answers p s = true) : ∃ x, (p.run s).1 = .ok x := by
  unfold answers at h
  cases hp : (p.run s).1 with
  | error e => simp [hp] at h
  | ok x => exact ⟨x, rfl⟩

/-- Every clause of a word that issues, as one check. -/
def issuesB (s : State) (c op : Nat) (w : BitVec 128) : Bool :=
  seqReady s c && wOp w == op && (s.cluster c).decs.isEmpty && answers (vget (seqUnit s c) (s.cluster c).ipc.toNat 16 .exec) s

theorem seq_issues (s : State) (c op : Nat) (w : BitVec 128) (h : issuesB s c op w = true) : SeqIssues s c op w := by
  simp only [issuesB, Bool.and_eq_true, beq_iff_eq, List.isEmpty_iff] at h
  obtain ⟨⟨⟨h1, h2⟩, h3⟩, h4⟩ := h
  exact ⟨h1, h2, h3, got _ [] s, congrArg Prod.fst (reads_got _ [] s h4)⟩

/-- Every clause of a vector instruction that issues, as one check. -/
def vissuesB (s : State) (c op : Nat) (w : BitVec 64) : Bool :=
  vecReady s c && vOp w == op && answers (vget (vecUnit s c) (s.cluster c).vpc.toNat 8 .exec) s

theorem vec_issues (s : State) (c op : Nat) (w : BitVec 64) (h : vissuesB s c op w = true) : VecIssues s c op w := by
  simp only [vissuesB, Bool.and_eq_true, beq_iff_eq] at h
  obtain ⟨⟨h1, h2⟩, h3⟩ := h
  exact ⟨h1, h2, got _ [] s, congrArg Prod.fst (reads_got _ [] s h3)⟩

/-- A schedule word of an operation with some bits. -/
def sw (op rest : Nat) : BitVec 128 := BitVec.ofNat 128 (op * 2 ^ 122 + rest)

/-- A vector instruction of an operation with some bits. -/
def vw (op rest : Nat) : BitVec 64 := BitVec.ofNat 64 (op * 2 ^ 57 + rest)

/-- A number made of fields, each given by its value and its lowest bit. -/
def packed (l : List (Nat × Nat)) : Nat := l.foldl (fun x e => x + e.1 * 2 ^ e.2) 0

/-- A descriptor of one dimension at an address (R99). -/
def flat (base fmt n : Nat) : BitVec 512 := BitVec.ofNat 512 (packed [(base, 0), (fmt, 48), (1, 52), (n, 64), (1, 88)])

/-- Cluster 0 owned by binding 0, its sequencer and its vector engine in RUN. -/
def clS : State := wired [(.ARY_STATUS, 0, 0, 1), (.VEC_STATUS, 0, 0, 1), (.BND_CLMASK, 0, 0, 1), (.BND_STATE, 0, 0, 3)]

/-- The same with cluster 0 changed. -/
def clWith (f : Cluster → Cluster) : State := { clS with cl := [(0, f clDefault)] }

/-! ### Witnesses: schedule words -/

theorem wit_PlainScheduleWords_nop : SeqIssues clS 0 opNop (sw 0 0) ∧ wf 121 0 (sw 0 0) = 0 :=
  ⟨seq_issues _ _ _ _ (by decide +kernel), by decide⟩
theorem wit_PlainScheduleWords_tsig : SeqIssues clS 0 opTsig (sw 0x10 (2 ^ 100)) ∧ wf 99 0 (sw 0x10 (2 ^ 100)) = 0 ∧
    wCount (sw 0x10 (2 ^ 100)) ≠ 0 := ⟨seq_issues _ _ _ _ (by decide +kernel), by decide, by decide⟩
theorem wit_PlainScheduleWords_twait : SeqIssues clS 0 opTwait (sw 0x11 0) ∧ wf 98 0 (sw 0x11 0) = 0 ∧
    wCount (sw 0x11 0) ≤ tokenCount clS 0 (wF6 (sw 0x11 0)) := ⟨seq_issues _ _ _ _ (by decide +kernel), by decide, by decide +kernel⟩
theorem wit_PlainScheduleWords_twait_waits : SeqIssues clS 0 opTwait (sw 0x11 (2 ^ 100)) ∧ wf 98 0 (sw 0x11 (2 ^ 100)) = 0 ∧
    ¬ wCount (sw 0x11 (2 ^ 100)) ≤ tokenCount clS 0 (wF6 (sw 0x11 (2 ^ 100))) ∧ seqState clS 0 = 1 :=
  ⟨seq_issues _ _ _ _ (by decide +kernel), by decide, by decide +kernel, by decide +kernel⟩
theorem wit_PlainScheduleWords_seg : SeqIssues clS 0 opSeg (sw 0x19 (2 ^ 101)) ∧ wf 100 0 (sw 0x19 (2 ^ 101)) = 0 ∧
    wf 101 101 (sw 0x19 (2 ^ 101)) = 1 := ⟨seq_issues _ _ _ _ (by decide +kernel), by decide, by decide⟩
theorem wit_PlainScheduleWords_lset : SeqIssues clS 0 opLset (sw 0x1A (5 * 2 ^ 80)) ∧ wf 121 114 (sw 0x1A (5 * 2 ^ 80)) = 0 ∧
    wf 79 0 (sw 0x1A (5 * 2 ^ 80)) = 0 := ⟨seq_issues _ _ _ _ (by decide +kernel), by decide, by decide⟩
theorem wit_PlainScheduleWords_end : SeqIssues clS 0 opEnd (sw 0x1F 0) ∧ wf 121 0 (sw 0x1F 0) = 0 ∧ seqState clS 0 = 1 :=
  ⟨seq_issues _ _ _ _ (by decide +kernel), by decide, by decide +kernel⟩

/-- Cluster 0 lent, with its run begun. -/
def lentS : State := { wired [(.ARY_STATUS, 0, 0, 7), (.BND_CLMASK, 0, 0, 1)] with cl := [(0, { clDefault with lentRun := true })] }

theorem wit_PlainScheduleWords_end_lent : SeqIssues lentS 0 opEnd (sw 0x1F 0) ∧ wf 121 0 (sw 0x1F 0) = 0 ∧ seqState lentS 0 = 7 :=
  ⟨seq_issues _ _ _ _ (by decide +kernel), by decide, by decide +kernel⟩
theorem wit_PlainScheduleWords_dload : SeqIssues clS 0 opDload (sw 4 0) ∧ wf 91 0 (sw 4 0) = 0 ∧
    ∃ d, ((vget (seqUnit clS 0) (((clS.rd .ARY_DTAB_BASE 0).toNat + 64 * wIndex (sw 4 0)) % 2 ^ 48) 64).run (seqFetch clS 0).2).1 =
      .ok d := ⟨seq_issues _ _ _ _ (by decide +kernel), by decide, _, congrArg Prod.fst (reads_got _ [] _ (by decide +kernel))⟩

/-- BRF with each condition: the target is the word itself. -/
theorem wit_BranchFollowsItsCondition : (∀ n < 4, issuesB clS 0 opBrf (sw 0x18 (n * 2 ^ 118)) = true ∧ brfOk (sw 0x18 (n * 2 ^ 118)) = true ∧
    wCond (sw 0x18 (n * 2 ^ 118)) = n) ∧ SeqIssues clS 0 opBrf (sw 0x18 (3 * 2 ^ 118)) :=
  ⟨by decide +kernel, seq_issues _ _ _ _ (by decide +kernel)⟩

/-- A cluster whose slot 0 describes 64 elements of E4M3, and whose accumulators hold zeros. -/
def loadS : State := clWith fun k => { k with slots := [(0, some (flat 0 3 64))] }
def loadW : BitVec 128 := sw 1 (2 ^ 104 + 2 ^ 61)

theorem wit_LoadAndMultiplyWords_tload : SeqIssues loadS 0 opTload loadW ∧
    tloadOk loadW (seqFetch loadS 0).2 0 (loadS.cluster 0) = true ∧
    Tab.at none (loadS.cluster 0).slots (wDslot loadW) = some (flat 0 3 64) ∧ wSigen loadW = true ∧
    answers (loadPanel 0 loadW (descOf (flat 0 3 64)) (loadS.cluster 0)) (seqFetch loadS 0).2 = true :=
  ⟨seq_issues _ _ _ _ (by decide +kernel), by decide +kernel, by decide +kernel, by decide, by decide +kernel⟩

def mulW (op : Nat) : BitVec 128 := sw op (2 ^ 120 + 3 * 2 ^ 116 + 3 * 2 ^ 112 + 2 ^ 104 + 2 ^ 103 + 2 * 2 ^ 74 + 2 * 2 ^ 61)

theorem wit_LoadAndMultiplyWords_mma : SeqIssues clS 0 opMma (mulW 8) ∧ mulOk (seqFetch clS 0).2 0 (mulW 8) = true :=
  ⟨seq_issues _ _ _ _ (by decide +kernel), by decide +kernel⟩

theorem wit_LoadAndMultiplyWords_mmat : SeqIssues clS 0 opMmat (sw 9 (2 ^ 120 + 3 * 2 ^ 116 + 3 * 2 ^ 112 + 2 ^ 104 + 2 ^ 103 + 64 * 2 ^ 74 + 64 * 2 ^ 61 + 2 ^ 23)) ∧
    mulOk (seqFetch clS 0).2 0 (sw 9 (2 ^ 120 + 3 * 2 ^ 116 + 3 * 2 ^ 112 + 2 ^ 104 + 2 ^ 103 + 64 * 2 ^ 74 + 64 * 2 ^ 61 + 2 ^ 23)) = true :=
  ⟨seq_issues _ _ _ _ (by decide +kernel), by decide +kernel⟩

/-- A cluster after one NOP, whose slot 0 describes a tile of E4M3. -/
def storeS : State := clWith fun k => { k with ipc := 16, log := [⟨0, sw 0 0⟩], slots := [(0, some (flat 0x10000 3 4096))] }
/-- A store or emit of array 0 as E4M3 over a range of one word, with an overflow decision or with NOCHK. -/
def storeW (op nochk : Nat) : BitVec 128 := sw op (3 * 2 ^ 116 + nochk * 2 ^ 115 + 2 ^ 104 + 2 ^ 23)

theorem wit_StoreAndEmitWords_checked : (SeqIssues storeS 0 opTstore (storeW 2 0) ∧ storeOk (storeW 2 0) (storeS.cluster 0) = true ∧
    wNochk (storeW 2 0) = false) ∧ SeqIssues storeS 0 opTemit (storeW 3 0) ∧ storeOk (storeW 3 0) (storeS.cluster 0) = true ∧
    wNochk (storeW 3 0) = false :=
  ⟨⟨seq_issues _ _ _ _ (by decide +kernel), by decide +kernel, by decide⟩, seq_issues _ _ _ _ (by decide +kernel),
    by decide +kernel, by decide⟩
theorem wit_StoreAndEmitWords_store : SeqIssues storeS 0 opTstore (storeW 2 1) ∧ storeOk (storeW 2 1) (storeS.cluster 0) = true ∧
    wNochk (storeW 2 1) = true ∧ flagF Fld.SMP_CTRL_EN (storeS.rd .SMP_CTRL 0) = false :=
  ⟨seq_issues _ _ _ _ (by decide +kernel), by decide +kernel, by decide, by decide +kernel⟩
theorem wit_StoreAndEmitWords_emit : SeqIssues storeS 0 opTemit (storeW 3 1) ∧ storeOk (storeW 3 1) (storeS.cluster 0) = true ∧
    wNochk (storeW 3 1) = true ∧ granules (wOfmt (storeW 3 1)) * 1 ≤ (storeS.cluster 0).slipFree :=
  ⟨seq_issues _ _ _ _ (by decide +kernel), by decide +kernel, by decide, by decide +kernel⟩

/-- The range of each reads well. -/
theorem wit_StoreAndEmitWords_range : (∀ e ∈ [(2, 0), (2, 1), (3, 0), (3, 1)], let w := storeW e.1 e.2
      let s₁ := (seqFetch storeS 0).2
      gives (rangeWords (seqUnit s₁ 0) (storeS.cluster 0).log ((rangeAddrs (storeS.cluster 0).start (storeS.cluster 0).ipc w).getD [])) s₁
        (fun range _ => range.all fun i => rangeWord i.word) = true) := by
  decide +kernel

/-- A tile of an E4M3 store of array 0, overflowed or not. -/
def tileOf (ovf : Bool) : Tile := (outTile clDefault (storeW 3 0) 16 0 0 0 false 0).1 |> fun t => { t with ovf := ovf }

/-- A cluster with one open decision. -/
def decS (kind : DecKind) (held : List Held) (watch : Bool) : State := clWith fun k => { k with
  ipc := 32, log := [⟨16, storeW 3 0⟩, ⟨0, sw 0 0⟩]
  decs := [{ kind := kind, addr := 16, word := storeW 3 0, logLen := 2, shadow := ⟨[], [], [], [], []⟩, range := [], depth := 0, watch := watch,
             held := held }] }

theorem wit_OverflowAndWatchDecisions : ((decS (.overflow 0) [] false).cluster 0).out = [] ∧
    (∀ w : Bool, canResolve (decS (.overflow 0) [] w) 0 = true) ∧ canResolve (decS (.watch none) [] false) 0 = true ∧
    maskArrays (wAmask (storeW 3 0)) = [0] := by decide +kernel

/-! ### Witnesses: the commands of a cluster -/

/-- Whether a list of booleans of a state all hold. -/
def all (l : List Bool) : Bool := l.all id

/-- A sequencer that waits for a token, and one that waits for granules. -/
def waitS : State := { wired [(.ARY_STATUS, 0, 0, 2), (.BND_CLMASK, 0, 0, 1)] with cl := [(0, { clDefault with twait := some (sw 0x11 0) })] }
def slipS (x : Tile) : State := { wired [(.ARY_STATUS, 0, 0, 3), (.BND_CLMASK, 0, 0, 1)] with cl := [(0, { clDefault with out := [.tile x] })] }
/-- A bare tile of an emit. -/
def bareTile : Tile :=
  { array := 0, addr := 0, word := storeW 3 1, codes := [], flags := 0, ovf := false, sat := false, place := 0, desc := 0, last := true }

theorem wit_ClusterCommands_twait : (waitS.cluster 0).twait = some (sw 0x11 0) ∧ (waitS.cluster 0).out = [] ∧
    (waitS.cluster 0).decs = [] ∧ seqState waitS 0 = 2 ∧ wCount (sw 0x11 0) ≤ tokenCount waitS 0 (wF6 (sw 0x11 0)) := by decide +kernel
theorem wit_ClusterCommands_slip : ((slipS bareTile).cluster 0).out = [.tile bareTile] ∧ wOp bareTile.word = opTemit ∧
    seqState (slipS bareTile) 0 = 3 ∧ granules (wOfmt bareTile.word) ≤ ((slipS bareTile).cluster 0).slipFree := by decide +kernel
theorem wit_ClusterCommands_resume : (clS.cluster 0).out = [] ∧ (clS.cluster 0).decs = [] ∧ seqState clS 0 ≠ 4 ∧
    seqState (wired [(.ARY_STATUS, 0, 0, 4)]) 0 = 4 := by decide +kernel
theorem wit_ClusterCommands_start : seqState (wired [(.BND_CLMASK, 0, 0, 1)]) 0 = 0 ∧
    ((wired [(.BND_CLMASK, 0, 0, 1)]).ownerCl 0).isSome = true ∧ (State.reset.ownerCl 0).isSome = false := by decide +kernel
/-- An engine that waits for a token that holds its count. -/
def vwaitS : State := { wired [(.VEC_STATUS, 0, 0, 2), (.BND_CLMASK, 0, 0, 1)] with cl := [(0, { clDefault with vwait := some (vw 0x74 0) })] }
theorem wit_ClusterCommands_vwait : (vwaitS.cluster 0).vwait = some (vw 0x74 0) ∧ vecState vwaitS 0 = 2 ∧
    vf 21 6 (vw 0x74 0) ≤ tokenCount vwaitS 0 (vf 5 0 (vw 0x74 0)) := by decide +kernel

theorem wit_ReservedOpcodesHalt_seq : SeqIssues clS 0 (wOp (sw 0x3F 0)) (sw 0x3F 0) ∧ opcodes.contains (wOp (sw 0x3F 0)) = false ∧
    clS.lentLu 0 = none ∧ clS.lentSu 0 = none :=
  ⟨seq_issues _ _ _ _ (by decide +kernel), by decide, by decide +kernel, by decide +kernel⟩
theorem wit_ReservedOpcodesHalt_vec : VecIssues clS 0 (vOp (vw 0 0)) (vw 0 0) ∧ vopcodes.contains (vOp (vw 0 0)) = false :=
  ⟨vec_issues _ _ _ _ (by decide +kernel), by decide⟩

/-! ### Witnesses: vector instructions -/

/-- ADD D2, A4, B6 as binary64 toward zero: the checks of the register form. -/
def addW : BitVec 64 := vw 0x01 (2 ^ 53 + 2 ^ 48 + 2 * 2 ^ 42 + 4 * 2 ^ 36 + 6 * 2 ^ 30)
theorem wit_ElementwiseRegisterForm : VecIssues clS 0 0x01 addW ∧ vT addW = false ∧ vRm addW = 1 ∧
    (binOp 0x01 true fun f rm a b => f.add rm a b).ext addW = true ∧ (binOp 0x01 true fun f rm a b => f.add rm a b).src addW = some 6 ∧
    (binOp 0x01 true fun f rm a b => f.add rm a b).dst addW = some 6 ∧ regOk 6 (vD addW) = true ∧
    ∀ r ∈ srcsOf 2 addW, regOk 6 r = true :=
  ⟨vec_issues _ _ _ _ (by decide +kernel), by decide, by decide, by decide, by decide, by decide, by decide, by decide⟩
/-- The other arities and ICVT to binary64. -/
theorem wit_ElementwiseRegisterForm_rows : ∀ e ∈ [(0x04, 0), (0x0B, 2 ^ 53), (0x10, 2 * 2 ^ 53), (0x20, 3), (0x22, 3 * 2 ^ 53),
    (0x23, 2 * 2 ^ 48 + 6)], vissuesB clS 0 e.1 (vw e.1 e.2) = true ∧ vT (vw e.1 e.2) = false ∧ vRm (vw e.1 e.2) ≤ 3 := by decide +kernel

/-- A cluster whose slots D00 and D01 describe one binary32 element each. -/
def tenS : State := clWith fun k => { k with vslots := [(0, some (flat 0x1000 0 1)), (1, some (flat 0x2000 0 1))] }
/-- NEG in tensor form from D01 to D00. -/
def negW : BitVec 64 := vw 0x0B (2 ^ 56 + 1 * 2 ^ 36)
def negOp : VOp := unOp 0x0B false fun f _ a => f.neg a
/-- What a part of NEG in tensor form does. -/
def negPart : Nat → Nat → Prog TEnd :=
  let d := descOf (flat 0x1000 0 1)
  runPart (vecUnit (vecFetch tenS 0).2 0) 1 (elemCalc 0 negOp 0 d.fmt negW d [descOf (flat 0x2000 0 1)])
    fun lin codes => .ret [plainOut d lin codes]
theorem wit_TensorFormWritesEveryElement : VecIssues tenS 0 0x0B negW ∧ vT negW = true ∧ (tenS.cluster 0).vslot (vD negW) = some (descOf (flat 0x1000 0 1)) ∧
    (tenS.cluster 0).vchunk = 0 ∧ flagF Fld.SMP_CTRL_EN (tenS.rd .SMP_CTRL 0) = false ∧ elemOk negOp negW (tenS.cluster 0) = true ∧
    negOp.src negW = some 0 ∧ vslots (tenS.cluster 0) (srcsOf 1 negW) = some [descOf (flat 0x2000 0 1)] ∧
    ((negPart 0 (descOf (flat 0x1000 0 1)).count).run (vecFetch tenS 0).2).1 = .done :=
  ⟨vec_issues _ _ _ _ (by decide +kernel), by decide, by decide +kernel, by decide +kernel, by decide +kernel, by decide +kernel,
    by decide +kernel, by decide +kernel, by decide +kernel⟩
theorem wit_TensorFormWritesEveryElement_forms : ∀ e ∈ [(0x20, 0), (0x38, 0), (0x31, 0), (0x28, 0), (0x29, 0), (0x2A, 0)],
    let w := vw e.1 (e.2 + 2 ^ 56 + 1 * 2 ^ 36)
    vissuesB tenS 0 e.1 w = true ∧ vRm w ≤ 4 ∧ vTy w ≤ 1 ∧ vMsel w = 0 ∧ vExt w = 0 ∧ cvtDst (cvtFmt w) = true ∧
    cvtTensorOk (cvtFmt w) w (tenS.cluster 0) = true ∧ smaxOk w (tenS.cluster 0) = true ∧ dstFits (descOf (flat 0x1000 0 1)) = true ∧
    srcOk (descOf (flat 0x1000 0 1)) (descOf (flat 0x2000 0 1)) = true ∧
    (descOf (flat 0x1000 0 1)).apart (descOf (flat 0x2000 0 1)) = true ∧ (descOf (flat 0x1000 0 1)).sizes.headD 0 = 1 := by decide +kernel
/-- The parts of CVT, MOV, SMAX, RSUM and QNT end well: of the others the reads and writes are RSUM's. -/
theorem wit_TensorFormWritesEveryElement_parts : let d := descOf (flat 0x1000 0 1); let a := descOf (flat 0x2000 0 1)
    let w (op : Nat) := vw op (2 ^ 56 + 1 * 2 ^ 36); let s₁ := (vecFetch tenS 0).2; let u := vecUnit s₁ 0
    ((runPart u 1 (cvtCalc 0 (w 0x20) d a) (cvtOut 0 (w 0x20) d) 0 1).run s₁).1 = .done ∧
    ((runPart u 1 (copyCalc 0 d a) (fun lin codes => .ret [plainOut d lin codes]) 0 1).run s₁).1 = .done ∧
    ((smaxPart 0 (w 0x31) d a none 0 1).run s₁).1 = .done ∧
    ((runPart u 1 (fun lin => .get fun s => (Prog.mapE (List.range (a.sizes.headD 0)) fun n =>
        readElem (vecUnit s 0) a (n :: (unlin d.sizes lin).drop 1)).bindE fun l =>
          (tree (combine 0 (w 0x28) true fun f rm a b => f.add rm a b) 32 (l.map (·.1))).bind fun r => .ret (.ok (r.getD 0)))
      (fun lin codes => .ret [plainOut d lin codes]) 0 1).run s₁).1 = .done := by decide +kernel
/-- QNT of 32 elements to MXFP4. -/
def qntS : State := clWith fun k => { k with vslots := [(0, some (flat 0x1000 5 32)), (1, some (flat 0x2000 0 32))] }
def qntW : BitVec 64 := vw 0x21 (2 ^ 56 + 1 * 2 ^ 36)
theorem wit_TensorFormWritesEveryElement_qnt : let d := descOf (flat 0x1000 5 32); let a := descOf (flat 0x2000 0 32)
    let s₁ := (vecFetch qntS 0).2
    vissuesB qntS 0 0x21 qntW = true ∧ qntOk qntW (qntS.cluster 0) = true ∧ vExt qntW = 0 ∧
    ((runPart (vecUnit s₁ 0) 1 (copyCalc 0 d a) (residOut 0 qntW d none) 0 32).run s₁).1 = .done := by decide +kernel

/-- CMP, SEL, MOV and PERM of D1 in register form. -/
theorem wit_CompareSelectMovePermute : ∀ op ∈ [0x18, 0x19, 0x38, 0x30], let w := vw op (1 * 2 ^ 42)
    vissuesB clS 0 op w = true ∧ vT w = false ∧ vRm w ≤ 4 ∧ vTy w ≤ 1 ∧ vExt w = 0 ∧ 1 ≤ vD w ∧ vD w ≤ 7 ∧
    regOk (tyFmt (vTy w)) (vA w) = true ∧ regOk (tyFmt (vTy w)) (vB w) = true ∧ regOk (tyFmt (vTy w)) (vD w) = true := by decide +kernel
theorem wit_ReductionsAndSoftmax : ∀ op ∈ [0x28, 0x29, 0x2A, 0x31], let w := vw op (1 * 2 ^ 42)
    vissuesB clS 0 op w = true ∧ vT w = false ∧ vRm w ≤ 4 ∧ vExt w = 0 ∧ vTy w = 0 ∧
    regOk (tyFmt (vTy w)) (vD w) = true ∧ regOk (tyFmt (vTy w)) (vA w) = true := by decide +kernel
/-- The slipway holds an entry, popped 15 times, and a waiting SLPOP. -/
def entryS (n : Nat) : State := { wired [(.VEC_STATUS, 0, 0, n), (.BND_CLMASK, 0, 0, 1)] with
  cl := [(0, { clDefault with slip := [⟨0, 0, 0, false, [], 15⟩], vslots := [(0, some (flat 0x1000 0 1))]
                              vwait := if n = 3 then some (vw 0x48 0) else none })] }
theorem wit_VectorLoadsStoresAndSlipway_vld : VecIssues tenS 0 0x40 (vw 0x40 0) ∧ vT (vw 0x40 0) = false ∧ vRm (vw 0x40 0) ≤ 4 ∧ vTy (vw 0x40 0) ≤ 2 ∧
    (tenS.cluster 0).vslot (vA (vw 0x40 0)) = some (descOf (flat 0x1000 0 1)) ∧ ldFmt 0 0 = true ∧
    ∃ l, ((Prog.mapE (ldLanes (tenS.cluster 0) (vecVl tenS 0) (vw 0x40 0) (descOf (flat 0x1000 0 1)))
      (vldLane 0 (vw 0x40 0) (descOf (flat 0x1000 0 1)))).run (vecFetch tenS 0).2).1 = .ok l :=
  ⟨vec_issues _ _ _ _ (by decide +kernel), by decide, by decide, by decide, by decide +kernel, by decide, ok_of_answers _ _ (by decide +kernel)⟩
theorem wit_VectorLoadsStoresAndSlipway_vst : VecIssues tenS 0 0x41 (vw 0x41 0) ∧ (tenS.cluster 0).vslot (vD (vw 0x41 0)) = some (descOf (flat 0x1000 0 1)) ∧
    (let d := descOf (flat 0x1000 0 1)
     let l := (Prog.mapM (ldLanes (tenS.cluster 0) (vecVl tenS 0) (vw 0x41 0) d) (vstLane 0 (vw 0x41 0) d (tenS.cluster 0))).run (vecFetch tenS 0).2
     answers (scatter (vecUnit tenS 0) (joinRuns (l.1.map fun p => (d.addr (d.off (vExt (vw 0x41 0) + p.1)), elemBytes d.fmt)))
        (l.1.flatMap fun p => leBytes (elemBytes d.fmt) p.2)) l.2 = true) :=
  ⟨vec_issues _ _ _ _ (by decide +kernel), by decide +kernel, by decide +kernel⟩
theorem wit_VectorLoadsStoresAndSlipway_slip : vissuesB (entryS 1) 0 0x48 (vw 0x48 0) = true ∧ vissuesB (entryS 1) 0 0x49 (vw 0x49 (2 * 2 ^ 48)) = true ∧
    vTy (vw 0x48 0) = 0 ∧ vTy (vw 0x49 (2 * 2 ^ 48)) = 2 ∧ ((entryS 3).cluster 0).vwait = some (vw 0x48 0) ∧ vecState (entryS 3) 0 = 3 := by decide +kernel
theorem wit_VectorLoadsStoresAndSlipway_dld : VecIssues clS 0 0x72 (vw 0x72 0) ∧ vf 56 48 (vw 0x72 0) = 0 ∧ vf 41 24 (vw 0x72 0) = 0 ∧
    ∃ d, ((vget (vecUnit clS 0) (((clS.rd .VEC_DTAB_BASE 0).toNat + 64 * vExt (vw 0x72 0)) % 2 ^ 48) 64).run (vecFetch clS 0).2).1 = .ok d :=
  ⟨vec_issues _ _ _ _ (by decide +kernel), by decide, by decide, ok_of_answers _ _ (by decide +kernel)⟩
/-- SETVL 256, SETF, VSIG 1, VWAIT 1, VBR by each condition, VLSET and VEND. -/
theorem wit_VectorControlInstructions : ∀ e ∈ [(0x70, 256 * 2 ^ 39), (0x71, 0), (0x73, 2 ^ 6), (0x74, 2 ^ 6), (0x75, 0), (0x75, 1 * 2 ^ 48),
    (0x75, 2 * 2 ^ 48 + 2 ^ 26), (0x76, 5), (0x7F, 0)], vissuesB clS 0 e.1 (vw e.1 e.2) = true ∧ vf 56 52 (vw e.1 e.2) = 0 := by decide +kernel

/-! ### Witnesses: Landing Units -/

/-- Bytes placed in the stack, in rising order of address. -/
def placed (l : List (Nat × List Byte)) (s : State) : State :=
  { s with mem := l.flatMap fun e => (e.2.zipIdx e.1).filterMap fun p => if p.1 = 0 then none else some (p.2, p.1) }

/-- Unit 0 of its kind works for a binding 0 that steps: Landing Unit, solver unit, collective engine and mover 0. -/
def unitRegs : List (RegName × Nat × Nat × Nat) :=
  [(.BND_UNITS, 0, 0, 0x3FFF), (.BND_STATE, 0, 0, 3), (.BND_CLMASK, 0, 0, 1), (.BND_JOB, 0, 0, 7)]
def luRegs : List (RegName × Nat × Nat × Nat) := unitRegs ++ [(.LND_STATUS, 0, 0, 1), (.LND_LTAB_BASE, 0, 0, 0x100), (.LND_LTAB_COUNT, 0, 0, 1)]
/-- A layer entry of one element, of an update rule, with other bits. -/
def layer (opt rest : Nat) : List Byte := leBytes 128 (packed [(0x1000, 0), (0x2000, 48), (1, 240), (1, 280), (0x3F800000, 384), (0x7F0000007F000000, 448), (opt, 272), (rest, 0)])
def landWith (opt rest : Nat) (k : Lu) : State := { placed [(0x100, layer opt rest)] (wired luRegs) with lu := [(0, k)] }
/-- A tile of entry 0. -/
def tileFor (poison : Bool) : LandTile := ⟨0, 0, 0, [0x3F800000], poison⟩
def tileS (poison : Bool) : State := landWith 0 0 { Lu.init with buf := [tileFor poison] }
theorem wit_LandingTakesTilesAndVotes_vote : luLands (wired luRegs) 0 = true ∧
    Reads (entriesDone 0) (wired luRegs) (got (entriesDone 0) false (wired luRegs)) (left (entriesDone 0) (wired luRegs)) :=
  ⟨by decide +kernel, reads_got _ _ _ (by decide +kernel)⟩
theorem wit_LandingTakesTilesAndVotes_none : ((wired luRegs).engine 0).held = [] ∧ luActive (wired []) 0 = false ∧
    takeTile (luStep (wired luRegs) 0) ((wired luRegs).landing 0).buf = none := by decide +kernel
theorem wit_LandingTakesTilesAndVotes_discard : let s := landWith 0 0 { Lu.init with buf := [tileFor true], caused := true }
    luActive s 0 = true ∧ takeTile (luStep s 0) (s.landing 0).buf = some (tileFor true, []) ∧ luLands s 0 = false := by decide +kernel
theorem wit_LandingTakesTilesAndVotes_poison : luActive (tileS true) 0 = true ∧ luLands (tileS true) 0 = true ∧
    takeTile (luStep (tileS true) 0) ((tileS true).landing 0).buf = some (tileFor true, []) ∧ (tileFor true).poison = true := by decide +kernel
theorem wit_LandingTakesTilesAndVotes_land : luLands (tileS false) 0 = true ∧
    takeTile (luStep (tileS false) 0) ((tileS false).landing 0).buf = some (tileFor false, []) ∧
    gives (readEntry 0 0) (tileS false) (fun x s₁ => gives (beginEntry 0 0 x) s₁ fun _ s₂ =>
      x.opt == 0 && gives (landTile 0 x (tileFor false)) s₂ fun _ _ => true) = true := by decide +kernel

/-- An entry that has begun, and more. -/
def begunE : LuEntry := { LuEntry.init with begun := true, landed := [0], c1 := 0x3F800000, c2 := 0x3F800000 }
/-- A unit that an entry's phases work on: with a lent cluster, an outer update due, and the entry in a state. -/
def phaseS (opt rest : Nat) (lent : Bool) (e : LuEntry) (phaseB : Option Nat) : State :=
  { placed [(0x100, layer opt rest)] (wired (luRegs ++ [(.LND_LENT, 0, 0, if lent then 0x20 else 0)])) with
    lu := [(0, { Lu.init with entries := [(0, e)], phaseB := phaseB })] }

theorem wit_LandingPhasesOfAnEntry_b : let s := phaseS 2 0 true begunE none
    luLands s 0 = true ∧ (s.landing 0).phaseB = none ∧ s.rdF .LND_LENT Fld.LND_LENT_VALID 0 = 1 ∧
    (s.cluster (s.rdF .LND_LENT Fld.LND_LENT_CLUSTER 0)).lentRun = false ∧
    gives (readEntry 0 0) s (fun x s₁ => x.opt == 2 && decide (x.tiles ≤ 1) && gives (luRecord 0 x.prec 64 false) s₁ fun _ _ => true) = true := by
  decide +kernel
theorem wit_LandingPhasesOfAnEntry_c : let s := phaseS 2 0 true begunE (some 0)
    luLands s 0 = true ∧ (s.landing 0).phaseB = some 0 ∧
    gives (readEntry 0 0) s (fun x s₁ => x.opt == 2 && gives (luRecord 0 x.prec 64 false) s₁ fun prec s₂ =>
      gives (Prog.mapE (List.range x.tiles) fun t => phaseCTile 0 0 x (bits 143 96 prec) t) s₂ fun _ s₃ =>
      gives (closeEntry 0 0 x) s₃ fun _ _ => true) = true := by decide +kernel
theorem wit_LandingPhasesOfAnEntry_hold : let s := phaseS 0 (packed [(1, 276)]) false LuEntry.init none
    luLands s 0 = true ∧ gives (readEntry 0 0) s (fun x s₁ => x.hold && gives (entryOk 0 x) s₁ fun ok s₂ => ok &&
      gives (readHeader 0 x) s₂ fun hdr s₃ => gives (Prog.mapE x.parts (copyPart 0 (x.slot (vptr s 0)) (x.slot (1 - vptr s 0)))) s₃ fun _ s₄ =>
      gives (luWrite 0 (x.slot (1 - vptr s 0)) (leBytes 64 (headerWord (bits 127 0 hdr * 256 + 0x80) (hvalid hdr) (luStep s 0) 0
        (decide (hvalid hdr < 16)) (outerDue s 0 x))) fun _ => noElement) s₄ fun _ _ => true) = true := by decide +kernel
/-- An entry that is done, of OUTER with a crossing buffer of its own site alone at 0x4000. -/
def outerS : State := { placed [(0x100, layer 0 (packed [(1, 275), (0x4000, 640), (0x3000, 96)])),
    (0x4000, leBytes 128 (packed [(9, 0), (1, 4), (1, 40), (1, 46), (0x3F800000, 128), (0x3F800000, 160)]))]
    (wired (luRegs ++ [(.LND_STATUS, 0, 0, 1 + 2 ^ Fld.LND_STATUS_OUTERDUE.lo)])) with
  lu := [(0, { Lu.init with entries := [(0, { begunE with done := true })] })] }
theorem wit_LandingPhasesOfAnEntry_outer : luLands outerS 0 = true ∧ outerS.rdF .LND_STATUS Fld.LND_STATUS_OUTERDUE 0 = 1 ∧
    gives (readEntry 0 0) outerS (fun x s₁ => x.outer && gives (readXHdr 0 x.cbuf) s₁ fun h s₂ =>
      gives (takeDiffs 0 x h 0) s₂ fun diffs s₃ =>
      gives (Prog.mapE (List.range ((x.cnt + 4096 * x.group - 1) / (4096 * x.group))) fun q =>
        outerRange 0 x h false diffs (4096 * x.group * q) (min x.cnt (4096 * x.group * (q + 1)))) s₃ fun _ _ => true) = true := by
  decide +kernel

/-! ### Witnesses: solver units -/

/-- Solver unit 0 in a state with a round or a job in hand, of a root table of one entry at 0x100 and a job queue of two
descriptors at 0x400. -/
def suWith (st : Nat) (mem : List (Nat × List Byte)) (k : Su) : State :=
  { placed mem (wired (unitRegs ++ [(.SLV_STATUS, 0, 0, st), (.SLV_RTAB_BASE, 0, 0, 0x100), (.SLV_RTAB_COUNT, 0, 0, 1),
      (.SLV_CADENCE, 0, 0, 2 ^ Fld.SLV_CADENCE_CYCBUD.lo), (.SLV_JQ_CTRL, 0, 0, 2 * 2 ^ Fld.SLV_JQ_CTRL_SIZE.lo),
      (.SLV_JQ_BASE, 0, 0, 0x400), (.SLV_JQ_TAIL, 0, 0, 1)])) with su := [(0, k)] }
/-- A factor block of a width, and its copy, whose entries are 1. -/
def blockHdr (seq w : Nat) : Nat := packed [(seq, 0), (0x3000, 64), (w, 128), (0x3F800000, 160), (1, 192)]
def copyOf (seq w : Nat) : FacCopy := ⟨BitVec.ofNat 512 (blockHdr seq w), [List.replicate 4096 0x3F800000]⟩
/-- A root table entry of it, with other bits. -/
def rootEntry (rest : List (Nat × Nat)) : Nat := packed ([(0x800, 0), (0x1000, 48), (0x2000, 96), (1, 304), (1, 308), (0x3F800000, 324)] ++ rest)
def roundOf (stage : Nat) (reading copy : Option FacCopy) : Round :=
  { Round.start 1 9 with stage := stage, reading := reading, copy := copy, formed := true }
def suRound (st stage : Nat) (rest : List (Nat × Nat)) (reading copy : Option FacCopy) : State :=
  suWith st [(0x100, leBytes 128 (rootEntry rest)), (0x800, leBytes 64 (blockHdr 4 0))]
    { Su.init with round := some (roundOf stage reading copy) }
def reqDesc : Nat := packed [(2, 0), (0x800, 32), (0xC80, 80), (0xD00, 128), (0xE00, 176), (0x4000, 224), (0xF00, 272), (0x1800, 320), (1, 416), (1, 640), (2, 656)]
def reqJob (phase : JobPhase) : Job := { Job.start 0x400 reqDesc with phase := phase }
def suJob (st : Nat) (phase : JobPhase) (mem : List (Nat × List Byte)) : State := suWith st mem { Su.init with job := some (reqJob phase) }
/-- A structure of a row and a column, with other bits, its ROWPTR and COLIDX at 0xA00 and 0xB00. -/
def structure' (rest : List (Nat × Nat)) : List (Nat × List Byte) :=
  [(0x800, leBytes 64 (packed ([(1, 0), (1, 32), (0xA00, 64), (0xB00, 112), (0xC00, 160), (1, 208)] ++ rest))),
   (0xA00, leBytes 16 (2 ^ 64)), (0xC00, leBytes 8 0x3FF0000000000000)]
/-- A job queue whose head is a descriptor, with that structure. -/
def queueS (d loaded : Nat) : State := suWith 1 ((0x400, leBytes 128 d) :: structure' [(loaded, 320)]) Su.init

theorem wit_SolverCommandsAndBudgets_job : (suJob 4 .inner []).jobOf 0 = some (reqJob .inner) ∧
    JobDesc.cycbud (reqJob .inner).desc.toNat ≠ 0 := by decide +kernel
theorem wit_SolverCommandsAndBudgets_round : let s := suRound 2 1 [] none none
    s.jobOf 0 = none ∧ (s.solver 0).round = some (roundOf 1 none none) ∧ s.rdF .SLV_CADENCE Fld.SLV_CADENCE_CYCBUD 0 ≠ 0 := by
  decide +kernel

theorem wit_SolverRoundWorksOnItsBlocks_read : let s := suRound 1 0 [] none none
    suState s 0 = 1 ∧ (roundOf 0 none none).cur < rtabCount s 0 ∧ gives (suGet 0 (rtabAddr s 0 0) 128) s (fun x s₁ =>
      gives (suGet 0 (RootEntry.hdr x) 64) s₁ fun hw s₂ => gives (readTable 0) s₂ fun tab s₃ =>
      RootEntry.ok x (facHdr hw).width (!(lentOf s 0).isEmpty) (sameTables tab x) && decide ((facHdr hw).seq % 2 = 0) &&
      gives (readTiles 0 (facHdr hw)) s₃ fun _ _ => true) = true := by decide +kernel
/-- The second reading agrees with the copy, or does not; the copy may be worked on. -/
theorem wit_SolverRoundWorksOnItsBlocks_again : (∀ q ∈ [3, 4], let s := suRound 1 0 [] (some (copyOf q 1)) none
    suState s 0 = 1 ∧ (roundOf 0 none none).cur < rtabCount s 0 ∧ gives (suGet 0 (rtabAddr s 0 0) 128) s (fun x s₁ =>
      gives (suGet 0 (RootEntry.hdr x) 64) s₁ fun hw _ => decide ((facHdr hw).seq = 4)) = true) ∧ (copyOf 4 1).code = 0 ∧
    (copyOf 4 1).h.width ≤ 512 := by decide +kernel
/-- A factorisation whose library answers a root; an empty one. -/
theorem wit_SolverRoundWorksOnItsBlocks_factorised (h : (copyOf 4 0).root 1 3 ((copyOf 4 0).delta 0x3F800000) = some []) :
    let s := suRound 2 1 [] none (some (copyOf 4 0))
    let x : RootEntry := got (suGet 0 (rtabAddr s 0 0) 128) 0 s
    suState s 0 = 2 ∧ (s.solver 0).spoilt = false ∧ answers (suGet 0 (rtabAddr s 0 0) 128) s = true ∧
    (copyOf 4 0).root x.p 3 ((copyOf 4 0).delta x.damp) = some [] ∧
    answers (suPut 0 (x.root (1 - x.inforce)) (rootBytes (copyOf 4 0).h.width [])) (left (suGet 0 (rtabAddr s 0 0) 128) s) = true := by
  intro s x
  have hx : RootEntry.p x = 1 ∧ RootEntry.damp x = 0x3F800000 := by decide +kernel
  rw [hx.1, hx.2]
  exact ⟨by decide +kernel, by decide +kernel, by decide +kernel, h, by decide +kernel⟩
/-- An iterate of a block of width 1, ACCEPT being a number. -/
def iterS (accept : Nat) : State := suRound 3 2 [(0xBF800000, 356), (accept, 388), (0x1800, 468)] none (some (copyOf 4 1))
def iterX (accept : Nat) : RootEntry := got (suGet 0 (rtabAddr (iterS accept) 0 0) 128) 0 (iterS accept)
theorem reads_nil {α β : Type} (f : α → Prog (Except Flt β)) (s : State) : Reads (Prog.mapE [] f) s [] s := rfl
/-- Clusters that leave no partial sums: the residual is 0, with ACCEPT below it or met. -/
theorem wit_SolverRoundWorksOnItsBlocks_iterated (h : Config.workSums (copyOf 4 1).h.width = []) :
    suState (iterS 0xBF800000) 0 = 3 ∧ lentOf (iterS 0xBF800000) 0 = [] ∧ ((iterS 0xBF800000).solver 0).spoilt = false ∧
    answers (suGet 0 (rtabAddr (iterS 0xBF800000) 0 0) 128) (iterS 0xBF800000) = true ∧
    (∀ x s₁, Reads (Prog.mapE (Config.workSums (copyOf 4 1).h.width) fun o => suGet 0 (x + o) 8) s₁ [] s₁) ∧
    fle b32 (residualFrom (copyOf 4 1).h.width []).1 (iterX 0xBF800000).accept = false ∧
    fle b32 (residualFrom (copyOf 4 1).h.width []).1 (iterX 0).accept = true :=
  ⟨by decide +kernel, by decide +kernel, by decide +kernel, by decide +kernel, fun _ _ => h ▸ reads_nil _ _, by decide +kernel,
    by decide +kernel⟩

theorem wit_SolverTakesJobs_illegal : let s := queueS 7 0
    suState s 0 = 1 ∧ (s.solver 0).round = none ∧ (s.solver 0).job = none ∧ s.jobNext 0 = some (2, 0, 0x400) ∧
    gives (suGet 0 0x400 128) s (fun d _ => !JobDesc.ok d) = true := by decide +kernel
/-- A LOAD of a good structure, and of one of two rows of which the second ends before the first. -/
theorem wit_SolverTakesJobs_load : ∀ e ∈ [(0, 0, true), (2, 1, false)], let s := queueS (packed [(1, 0), (0x800, 32), (0xF00, 272)]) 0
    gives (suGet 0 0x400 128) s (fun d s₁ => JobDesc.ok d && JobDesc.kind d == 1 &&
      gives (suGet 0 (JobDesc.struct' d) 64) ((jobTake 0 2 0 0x400 d).run s₁).2 fun y s₃ =>
      let x := y + e.1
      gives (vget (suUnit s₁ 0) (structOf x).rowptr (8 * ((structOf x).m + 1))) s₃ fun rb s₄ =>
      gives (vget (suUnit s₁ 0) (structOf x).colidx (4 * (structOf x).nnz)) s₄ fun cb s₅ =>
      (structOk (structOf x) (JobDesc.struct' d) (!bit 255 x && bits 511 321 x == 0) ((chunks 8 ((structOf x).m + 2) rb).map leNat)
        ((chunks 4 ((structOf x).nnz + 1) cb).map leNat)) == e.2.2 &&
      gives (suPut 0 (JobDesc.struct' d) (leBytes 64 (putBits 320 320 x e.2.1))) s₅ fun _ _ => true) = true := by decide +kernel
/-- A SOLVE of a structure that is not loaded, and of one that is, of a machine whose WORK has its parts 0x100 apart, whose
preconditioner is empty and whose free values are 0. -/
theorem wit_SolverTakesJobs_unloaded : gives (suGet 0 0x400 128) (queueS reqDesc 0) (fun d s₁ => JobDesc.ok d && JobDesc.kind d == 2 &&
    gives (suGet 0 (JobDesc.struct' d) 64) ((jobTake 0 2 0 0x400 d).run s₁).2 fun x _ => !(structOf x).loaded) = true := by decide +kernel
theorem wit_SolverTakesJobs_solve (h : ∀ m n i, Config.jobWork m n i = 0x100 * i) (hp : ∀ d r c v, Config.precondition d r c v = [])
    (hf : ∀ n, Config.freeValue n = 0) :
    gives (suGet 0 0x400 128) (queueS reqDesc 1) (fun d s₁ => JobDesc.ok d && JobDesc.kind d == 2 &&
    gives (suGet 0 (JobDesc.struct' d) 64) ((jobTake 0 2 0 0x400 d).run s₁).2 fun x s₃ => (structOf x).loaded &&
      gives (suGet 0 (jobWorkAt d (structOf x) 0) 8) s₃ fun _ _ => gives (setupRun 0 d) ((jobTake 0 2 0 0x400 d).run s₁).2 fun _ _ => true) = true := by
  simp only [setupRun, jobWorkAt, suFlags, freeVal, h, hp, hf]
  decide +kernel

/-- A job with its structure, whose change list is of an evaluation and of a fingerprint, the structure's being 0. -/
def listS (st : Nat) (phase : JobPhase) (seq fprint : Nat) : State :=
  suJob st phase (structure' [] ++ [(0xE00, leBytes 64 (packed [(seq, 0), (fprint, 104)]))])
/-- An inner solve that takes no step, of that WORK. -/
theorem wit_SolverOuterIterates_inner (h : ∀ m n i, Config.jobWork m n i = 0x100 * i) (hp : ∀ d r c v, Config.precondition d r c v = []) :
    let s := listS 4 .inner 0 0
    let d : JobDesc := (reqJob .inner).desc.toNat
    let delta : List (BitVec 64) := [0]
    s.jobOf 0 = some (reqJob .inner) ∧ suState s 0 = 4 ∧ (s.solver 0).spoilt = false ∧
    gives (suGet 0 d.struct' 64) s (fun y s₁ => gives (readCsr 0 (structOf y)) s₁ fun a s₂ => gives (suList 0 d.rbase 8 (structOf y).m) s₂ fun _ s₃ =>
      gives (suList 0 d.xbase 8 (structOf y).n) s₃ fun x s₄ =>
      gives (suList 0 (jobWorkAt d (structOf y) 2) 8 (Config.precondition (reqJob .inner).desc a.rows a.cols a.vals).length) s₄ fun _ s₅ =>
      gives (suPut 0 (jobWorkAt d (structOf y) 1) ((List.range (structOf y).n).flatMap fun i => leBytes 8 (delta.getD i 0).toNat)) s₅ fun _ s₇ =>
      gives (statMod 0 d.stat fun y => putBits 95 80 y 0) s₇ fun _ s₈ =>
      gives (suPut 0 d.xbase ((stepBy (words64 x) delta (structOf y).n).flatMap fun y => leBytes 8 y.1)) s₈ fun _ s₉ =>
      gives (requestEval 0 d) s₉ fun _ _ => true) = true := by
  simp only [jobWorkAt, h, hp]
  exact ⟨by decide +kernel, by decide +kernel, by decide +kernel, by decide +kernel⟩
/-- A change list of another evaluation, of another structure, and one without entries, of a gradient whose norm is 1, with the free
values 0. -/
theorem wit_SolverOuterIterates_list (h : ∀ l, Config.norm2 l = 0x3FF0000000000000) (hf : ∀ n, Config.freeValue n = 0) : ∀ e ∈ [(0, 0), (0, 1), (1, 0)], let s := listS 5 .waiting e.1 e.2
    s.jobOf 0 = some (reqJob .waiting) ∧ suState s 0 = 5 ∧ (let d : JobDesc := (reqJob .waiting).desc.toNat
      gives (suGet 0 d.clbase 64) s (fun h s₁ => decide (bits 63 0 h = e.1) && gives (suGet 0 d.struct' 64) s₁ fun x s₂ =>
        decide (bits 167 104 h = e.2) && decide ((structOf x).fprint = 0) && gives (suList 0 (d.clbase + 64) 16 (bits 103 64 h)) s₂ fun es s₃ =>
        gives (applyChanges 0 (structOf x) es) s₃ fun skips s₄ => gives (readCsr 0 (structOf x)) s₄ fun a s₆ =>
        gives (suList 0 d.rbase 8 (structOf x).m) s₆ fun r s₇ =>
        let g := Config.norm2 (Config.gradient (structOf x).n a.rows a.cols a.vals (words64 r))
        let j₀ := { reqJob .waiting with g0 := g }
        let rho := rhoOf j₀.g0.toNat g.toNat
        gives (judgeIterate 0 j₀ (structOf x) rho.1 skips) ((suFlags 0 rho.2).run s₇).2 fun _ _ => true)) = true := by
  simp only [suFlags, freeVal, h, hf]
  decide +kernel

/-! ### Witnesses: turnarounds, policies, memory, movers -/

/-- Binding 0 steps with Landing Unit 0, and is changed. -/
def bndWith (f : Binding → Binding) : State := { wired luRegs with bnd := [(0, f Binding.init)] }

theorem wit_TurnaroundsFollowTheDecision_decided : ∀ d : Bool, let s := bndWith fun k => { k with decision := some d }
    (s.binding 0).decision = some d ∧ (s.binding 0).turning = none ∧ s.bstate 0 = 3 ∧ (s.binding 0).taken = [] ∧ s.lus 0 ≠ [] := by
  decide +kernel
theorem wit_TurnaroundsFollowTheDecision_none : ((wired luRegs).binding 0).decision = none ∧ ((wired luRegs).binding 0).turning = none := by
  decide +kernel
theorem wit_TurnaroundsFollowTheDecision_acknowledged : let s := bndWith fun k => { k with turning := some (some true), h := 1, step := 1 }
    (s.binding 0).turning = some (some true) ∧ (s.binding 0).await = [] ∧ ((s.binding 0).cross + 1) * (s.binding 0).h ≤ (s.binding 0).step := by
  decide +kernel

theorem wit_StrobesApplyPendingValues : let s := bndWith fun k => { k with turning := some none, await := [.cluster 0] }
    firstFrom (fun b => (s.binding b).turning.isSome && (s.binding b).await.contains (.cluster 0)) 8 0 = some 0 ∧ (s.binding 0).taken = [] ∧
    firstFrom (fun b => (s.binding b).turning.isSome && (s.binding b).await.contains (.cluster 1)) 8 0 = none := by decide +kernel

theorem wit_FirmwareFollowsCountsAndSkips : (wired luRegs).bound 0 = true ∧ State.reset.bound 0 = false ∧
    (wired luRegs).lus 0 = [0, 1, 2, 3] ∧ (wired luRegs).clusters 0 = [0] ∧ State.reset.lus 0 = [] := by decide +kernel

/-- The last address of the mapping before full service and of the whole stack. -/
theorem wit_SectorsAndVaults : (∃ a : BitVec 40, a.toNat < State.reset.stackEnd) ∧ (∃ a : BitVec 40, State.reset.stackEnd ≤ a.toNat) ∧
    State.reset.errOf 0 = [] ∧ (scrubWork State.reset 0).Nodup :=
  ⟨⟨0, by decide +kernel⟩, ⟨0xFFFFFFFFFF, by decide +kernel⟩, by decide +kernel, by decide +kernel⟩

theorem wit_TablesAndTranslations : State.reset.rdF .MEM_CDC_STATUS Fld.MEM_CDC_STATUS_OTHSTATE 0 ≠ 1 ∧
    (wired [(.MEM_CDC_STATUS, 0, 0, 2 ^ Fld.MEM_CDC_STATUS_OTHSTATE.lo)]).rdF .MEM_CDC_STATUS Fld.MEM_CDC_STATUS_OTHSTATE 0 = 1 := by
  decide +kernel

/-- A mover's descriptor of an operation over two elements of 8 bytes, from 0x1000 to 0x2000, with other bits. -/
def moveDesc (op rest : Nat) : BitVec 512 :=
  BitVec.ofNat 512 (packed [(op, 0), (if 3 ≤ op then 1 else 0, 8), (if op = 2 then 0 else 0x1000, 32), (0x2000, 80), (3, 128),
    (2, 136), (1, 160), (1, 184), (rest, 0)])
/-- Mover 0 with such a descriptor in flight. -/
def movS (op : Nat) : State := { wired (unitRegs ++ [(.MOV_RING_CTRL, 0, 0, 1 + 4 * 2 ^ Fld.MOV_RING_CTRL_LOG2.lo)]) with
  mov := [(0, { Mover.init with flights := [⟨0, moveDesc op 0, 0, 0, [], 1, false⟩] })] }
/-- A ring with one descriptor. -/
def ringS : State := placed [(0, leBytes 64 (moveDesc 3 0).toNat)]
  (wired (unitRegs ++ [(.MOV_RING_CTRL, 0, 0, 2 ^ Fld.MOV_RING_CTRL_EN.lo + 4 * 2 ^ Fld.MOV_RING_CTRL_LOG2.lo), (.MOV_TAIL, 0, 0, 1)]))

theorem wit_MoverRingAndCommands_fetch : movState ringS 0 ≤ 1 ∧ (ringS.mover 0).stopped = false ∧
    ringS.rdF .MOV_RING_CTRL Fld.MOV_RING_CTRL_EN 0 = 1 ∧ ringS.rdF .MOV_HEAD Fld.MOV_HEAD_HEAD 0 ≠ ringS.rdF .MOV_TAIL Fld.MOV_TAIL_TAIL 0 ∧
    (ringS.ownerUnit 10).isSome ∧ (ringS.mover 0).flights = [] ∧
    gives (vget { movUnit ringS 0 with codec := none } (ringS.ringAddr 0 0) 64) ringS
      (fun d _ => mdOk (BitVec.ofNat 512 (leNat d)) && mdOp (BitVec.ofNat 512 (leNat d)) == 3) = true ∧
    mdOk (BitVec.ofNat 512 0) = false := by decide +kernel
theorem wit_MoverRingAndCommands_complete : ((movS 1).flight 0 0).isSome = true ∧ movState (movS 1) 0 ≠ 4 := by decide +kernel

theorem wit_MoverMovesElements_local : ((movS 1).flight 0 0).isSome = true ∧ 0 < mdCount (moveDesc 1 0) ∧
    (let f : Flight := ⟨0, moveDesc 1 0, 0, 1, [], 1, false⟩
     let s₁ := ((modFlight 0 0 fun x => { x with sent := 1 }).run (movS 1)).2
     gives (movRead 0 (mdFrom f.desc 0) (mdSize f.desc)) s₁ (fun x s₂ => !x.any (·.2) &&
      gives (movWrite 0 (mdTo f.desc 0) x) s₂ fun _ s₃ => s₃.flight 0 0 == some f) = true) ∧
    (let f : Flight := ⟨0, moveDesc 2 0, 0, 1, [], 1, false⟩
     let s₁ := ((modFlight 0 0 fun x => { x with sent := 1 }).run (movS 2)).2
     gives (movWrite 0 (mdTo f.desc 0) ((fillBytes f.desc 0).map fun b => (b, false))) s₁ (fun _ s₃ => s₃.flight 0 0 == some f) = true) := by
  decide +kernel
theorem wit_MoverMovesElements_peer : (let f : Flight := ⟨0, moveDesc 3 0, 0, 1, [], 1, false⟩
     let s₁ := ((modFlight 0 0 fun x => { x with sent := 1 }).run (movS 3)).2
     gives (translate (movUnit s₁ 0) .read (mdFrom f.desc 0)) s₁ (fun tr s₂ => !(tr.cmp && mdCls f.desc == 3 && mdEsz f.desc == 5) &&
      gives (movRead 0 (mdFrom f.desc 0) (mdSize f.desc)) s₂ fun x s₃ => !x.any (·.2) && s₃.flight 0 0 == some f) = true) ∧
    ∀ op ∈ [3, 4, 5], mdOp (moveDesc op 0) = op ∧ ((movS op).flight 0 0).map (·.st) = some 1 ∧ 0 < mdCount (moveDesc op 0) := by
  decide +kernel
/-- A block of a compressed page, of one sector, that a PUT of class 3 moves; and an element that has been sent. -/
def blockDesc : BitVec 512 := BitVec.ofNat 512 (packed [(3, 0), (3, 8), (0x1000, 32), (0x2000, 80), (5, 128), (1, 136), (1, 160), (1, 184)])
def blockS : State := { wired unitRegs with
  mov := [(0, { Mover.init with flights := [⟨0, blockDesc, 0, 0, [], 1, false⟩] })]
  xlt := [(32, [⟨0, 2, 0, 0x3F⟩])]
  mmeta := [(0x1000 / 64, 1)] }
theorem wit_MoverMovesElements_block : let f : Flight := ⟨0, blockDesc, 0, 1, [], 1, false⟩
    let s₁ := ((modFlight 0 0 fun x => { x with sent := 1 }).run blockS).2
    gives (translate (movUnit s₁ 0) .read (mdFrom f.desc 0)) s₁ (fun tr s₂ => tr.cmp && mdCls f.desc == 3 && mdEsz f.desc == 5 &&
      ((blockAsStored tr.pa).run s₂).1.isSome && ((blockAsStored tr.pa).run s₂).2.flight 0 0 == some f) = true := by decide +kernel
theorem wit_MoverMovesElements_acked : let s := left (modFlight 0 0 fun x => { x with sent := 1 }) (movS 3)
    (s.flight 0 0).map (fun f => (f.st, f.sent, mdOp f.desc)) = some (1, 1, 3) := by decide +kernel

/-- A packet of a type for binding 7, whole. -/
def pktOf (cls typ : Nat) (payload : List Byte) : Packet :=
  { blankPacket with cls := BitVec.ofNat 2 cls, typ := BitVec.ofNat 6 typ, bid := 7, payload := payload, pcrcOk := true }
theorem arrives (p : Packet) (typ : Nat) (h : typeOk p.cls.toNat p.typ.toNat && p.typ.toNat == typ && decide (p.payload.length ≤ 4096) &&
    p.pcrcOk) : Arrives p typ := by
  simp only [Bool.and_eq_true, beq_iff_eq, decide_eq_true_eq] at h
  exact ⟨h.1.1.1, h.1.1.2, h.1.2, h.2⟩

theorem wit_MoverPackets_peer : (wired unitRegs).bindingOf 7 = some 0 ∧
    Arrives (pktOf 1 0x19 (leBytes 16 0x1000)) 0x19 ∧ Arrives (pktOf 1 0x1A (leBytes 8 0x8000000001000)) 0x1A ∧
    Arrives (pktOf 3 0x20 (leBytes 76 0x1000)) 0x20 ∧ Arrives (pktOf 1 0x11 (leBytes 8 0x8000000001000)) 0x11 :=
  ⟨by decide +kernel, arrives _ _ (by decide), arrives _ _ (by decide), arrives _ _ (by decide), arrives _ _ (by decide)⟩
theorem wit_MoverPackets_put : gives (vwrite (peerUnit 0 0) 0x1000 (List.replicate 8 (1, false))) (wired unitRegs) (fun _ _ => true) = true ∧
    gives (vget (peerUnit 0 0) 0x1000 8) (wired unitRegs) (fun _ _ => true) = true ∧
    gives (translate (peerUnit 0 0) .write 0x1000)
      { wired unitRegs with xlt := [(32, [⟨0, 2, 0, 0x3F⟩])] } (fun tr _ => tr.cmp) = true ∧
    ((findOwner 0x1000 ((wired unitRegs).lus 0)).run (wired unitRegs)).1 = none := by decide +kernel
theorem wit_MoverPackets_home : ∀ op ∈ [4, 5], ((movS op).flight 0 0).isSome = true ∧
    gives (movWrite 0 0x2000 (List.replicate 8 (1, false))) (movS op) (fun _ s₁ => s₁.flight 0 0 == (movS op).flight 0 0) = true := by
  decide +kernel
/-- A working copy of one element at 0x2800, whose block a FETCHREQ asks for. -/
def ownerS : State := landWith 0 0 Lu.init
theorem wit_MoverPackets_owner : (ownerS.bindingOf 7 = some 0 ∧ (pktOf 1 0x11 (leBytes 8 (0x2800 + 2048 * 2 ^ 48))).lu = 0) ∧
    Arrives (pktOf 1 0x11 (leBytes 8 (0x2800 + 2048 * 2 ^ 48))) 0x11 ∧
    (match (findOwner 0x2800 (ownerS.lus 0)).run ownerS with
     | (some (u, x, off), s₁) => off % 2048 == 0 && gives (vget (peerUnit 0 0) (x.slot (vptr s₁ u) + off) 2048) s₁ fun _ s₂ =>
         gives (vget (peerUnit 0 0) (x.slot (1 - vptr s₁ u) + off) 2048) s₂ fun _ s₃ =>
         gives (vget (peerUnit 0 0) (x.slot (vptr s₁ u) + (x.map.digest + 4 * ((off - x.map.wc) / 2048))) 4) s₃ fun _ s₄ =>
           s₄.curBank 36 == s₁.curBank 36
     | _ => false) = true :=
  ⟨⟨by decide +kernel, rfl⟩, arrives _ _ (by decide), by decide +kernel⟩
/-- An element sent and its data: of a GET, of a FETCH raw, of a FETCH coded by the fixed table, and coded by one that
the codec does not hold. -/
def sentS (op : Nat) : State := left (modFlight 0 0 fun x => { x with sent := 1 }) (movS op)
def rawPkt : Packet := { pktOf 1 0x12 (leBytes 24 1) with raw := true }
def codedPkt : Packet := pktOf 1 0x12 (leBytes 4 (15 * 2 ^ 6) ++ (codeBlock ⟨0, 0, 0, 0, 0, true, true⟩ none (List.replicate 2048 0) (List.replicate 2048 0)).1 ++ leBytes 12 0)
theorem wit_MoverPackets_home_arrives : (Arrives (pktOf 1 0x1B (leBytes 8 1)) 0x1B ∧ Arrives rawPkt 0x12 ∧ Arrives codedPkt 0x12 ∧
    Arrives (pktOf 1 0x12 (leBytes 18 1)) 0x12) ∧ (∀ op ∈ [4, 5], ((sentS op).flight 0 0).map (fun f => (f.st, f.sent)) = some (1, 1)) ∧
    (sentS 5).bankFor 36 0 = none :=
  ⟨⟨arrives _ _ (by decide), arrives _ _ (by decide), arrives _ _ (by decide +kernel), arrives _ _ (by decide)⟩, by decide +kernel, by decide +kernel⟩
theorem wit_MoverPackets_coded : let n := codedPkt.payload.length - 16
    16 ≤ codedPkt.payload.length ∧ codedPkt.raw = false ∧ codedPkt.pois = false ∧ bits 9 6 (leNat (codedPkt.payload.take 4)) = 15 ∧
    leNat ((codedPkt.payload.drop (4 + n)).drop 6) = 0 ∧
    ∃ diff, decodeStream none 1 ((codedPkt.payload.drop 4).take n) = some diff ∧
      gives (vget (movUnit (sentS 5) 0) 0x2000 2048) (sentS 5) (fun base s₁ =>
        gives (movWrite 0 0x2000 ((xorBytes diff base).map fun b => (b, false))) s₁ fun _ s₂ => s₂.flight 0 0 == (sentS 5).flight 0 0) = true :=
  ⟨by decide +kernel, by decide +kernel, by decide +kernel, by decide +kernel, by decide +kernel, List.replicate 2048 0, by decide +kernel, by decide +kernel⟩

/-! ### Witnesses: the fabric, the vote and job-control firmware -/

/-- The horn engine on, with a binding that steps and votes for 7. -/
def hornRegs : List (RegName × Nat × Nat × Nat) :=
  luRegs ++ [(.FAB_HORN_CTRL, 0, 0, 2 ^ Fld.FAB_HORN_CTRL_EN.lo), (.FAB_VOTE, 0, 0, 7 * 2 ^ Fld.FAB_VOTE_BID.lo)]
theorem horn_arrives (s : State) (p : Packet) (typ : Nat) (hs : s.hornOn = true) (h : typeOk p.cls.toNat p.typ.toNat && p.typ.toNat == typ &&
    decide (p.payload.length ≤ 4096) && p.pcrcOk && decide (p.payload.length ≤ 224)) : HornArrives s p typ := by
  rw [Bool.and_eq_true, decide_eq_true_eq] at h
  exact ⟨hs, h.2, arrives p typ h.1⟩

/-- A message of each type that a statement takes, of the most bytes it may have. -/
theorem wit_FirmwareMessages : ∀ typ, typ ∈ [4, 5, 6, 7, 9] → HornArrives (wired hornRegs) (pktOf 0 typ (leBytes 224 1)) typ := by
  have on : (wired hornRegs).hornOn = true := by decide +kernel
  intro typ h
  simp only [List.mem_cons, List.not_mem_nil, or_false] at h
  obtain rfl | rfl | rfl | rfl | rfl := h <;> exact horn_arrives _ _ _ on (by decide +kernel)
theorem wit_VotesAndDecisions_messages : (∀ typ, typ ∈ [1, 2, 3] → HornArrives (wired hornRegs) (pktOf 0 typ []) typ) ∧
    (wired hornRegs).voteBinding 7 = some 0 ∧ (wired hornRegs).voteBinding 8 = none := by
  have on : (wired hornRegs).hornOn = true := by decide +kernel
  refine ⟨fun typ h => ?_, by decide +kernel, by decide +kernel⟩
  simp only [List.mem_cons, List.not_mem_nil, or_false] at h
  obtain rfl | rfl | rfl := h <;> exact horn_arrives _ _ _ on (by decide)
theorem wit_VotesAndDecisions_retry : (({ wired hornRegs with vote := [(0, { Vote.init with sent := some (true, 1) })] } : State).votes 0).sent =
    some (true, 1) := by decide
/-- A lone device that has voted: ready to decide. -/
def votedS : State := wired (hornRegs ++ [(.BND_UNITS, 0, 0, 1), (.LND_STATUS, 0, 0, 4 + 2 ^ Fld.LND_STATUS_VOTED.lo),
  (.FAB_VOTE, 0, 0, 7 * 2 ^ Fld.FAB_VOTE_BID.lo + 2 ^ Fld.FAB_VOTE_ROOT.lo)])
theorem wit_VotesAndDecisions_vote : votedS.steps 0 = true ∧ (votedS.lus 0).all (fun u => votedS.rdF .LND_STATUS Fld.LND_STATUS_VOTED u == 1) = true ∧
    (votedS.votes 0).sent = none ∧ (votedS.votes 0).decided 0 = none ∧ ((votedS.votes 0).kidsAt 0).length = votedS.rdF .FAB_VOTE Fld.FAB_VOTE_NCHILD 0 ∧
    votedS.rdF .FAB_VOTE Fld.FAB_VOTE_ROOT 0 = 1 := by decide +kernel

theorem wit_WardenHoldsOffice : HornArrives (wired hornRegs) (pktOf 0 8 (leBytes 16 1)) 8 :=
  horn_arrives _ _ _ (by decide +kernel) (by decide)
theorem wit_FailuresAreFoundAndDeclared : HornArrives (wired hornRegs) (pktOf 0 0x0A (leBytes 16 1)) 0x0A ∧ 16 ≤ (leBytes 16 1).length ∧
    Arrives (pktOf 3 0x21 (leBytes 8 0)) 0x21 :=
  ⟨horn_arrives _ _ _ (by decide +kernel) (by decide), by decide, arrives _ _ (by decide)⟩
/-- A replica's block with its digest at 0x1000, and the owner's own block. -/
def auditS : State := { wired hornRegs with digests := [((0, 0), (0x1000, 2048))] }
theorem wit_FailuresAreFoundAndDeclared_audit : auditS.bound 0 = true ∧ ((digestPlace 0 false 0).run auditS).1 = some (0x1000, 2048) ∧
    gives (vget (auditS.fwUnit 0) 0 2048) auditS (fun _ s₂ => gives (vget (auditS.fwUnit 0) 0x1000 4) s₂ fun _ _ => true) = true ∧
    (match (digestPlace 0 true 0x2800).run ownerS with
     | (some (place, _), s₁) => gives (vget (ownerS.fwUnit 0) 0x2800 2048) s₁ fun _ s₂ => gives (vget (ownerS.fwUnit 0) place 4) s₂ fun _ _ => true
     | _ => false) = true := by decide +kernel
/-- A capture without pieces, of generation 0, by mover 0. -/
def emptyCapture : Capture := ⟨0, 0x100000, 0x8000, 0, 0x100000, []⟩
def captureS : State := { bndWith fun k => { k with step := 1, ckpt := 1 } with vote := [(0, { Vote.init with decs := [⟨0, true, 1⟩] })] }
theorem wit_TakeoversAndGenerations_capture : captureS.bstate 0 = 3 ∧ (captureS.binding 0).genRun = none ∧
    ((captureS.votes 0).decided ((captureS.binding 0).step - 1)).any (fun d => d.dec) = true ∧ captureS.hasUnit 0 10 = true ∧
    captureS.storing 0 = false ∧ gives (factorsEven (movUnit captureS 0) emptyCapture) captureS (fun even s₁ => even &&
      gives (captureAll 0 emptyCapture (manifestHeader captureS 0 0 0)) s₁ fun _ _ => true) = true := by decide +kernel
theorem wit_TakeoversAndGenerations : let s := bndWith fun k => { k with genRun := some ⟨1, 1, 0⟩ }
    (s.binding 0).genRun = some ⟨1, 1, 0⟩ := by decide +kernel

/-! ### Witnesses: collective engines -/

/-- A record of two devices, of one tile a piece, staged at 0x1000; kind 1 lands, kind 2 is summed in memory. -/
def opRec (kind : Nat) : List Byte := leBytes 64 (packed [(kind, 0), (kind, 4), (5, 16), (0x1000, 32), (0x1100, 80), (2, 128), (1, 160),
  (if kind = 1 then 0 else 0x10000, 240), (1, 293), (2, 299), (0x1200, 305)])
/-- Engine 0 with such a record, a descriptor of its tensor (good or not), and a token that holds 1. -/
def ceS (kind : Nat) (good : Bool) (k : Ce) : State := { placed [(0x100, opRec kind),
    (0x1000, leBytes 64 (if good then (flat 0x40000 0 (4096 * (3 - kind))).toNat else 0))]
  (wired (unitRegs ++ [(.FAB_CE_OPBASE, 0, 0, 0x100), (.FAB_CE_OPCOUNT, 0, 0, 1), (.ARY_TOKEN, 0, 1, 1)])) with ce := [(0, k)] }
/-- Its operation is read, its token taken and its descriptor read. -/
def startsB (kind : Nat) (good : Bool) : Bool := let s := ceS kind good Ce.init
  s.ceOwner 0 == some 0 && decide (ceState s 0 ≤ 2) && decide (0 < s.rdF .FAB_CE_OPCOUNT Fld.FAB_CE_OPCOUNT_COUNT 0) &&
  gives (vget (ceUnit s 0) (s.opAddr 0 0) 64) s fun rd s₁ => let r := BitVec.ofNat 512 (leNat rd)
    opKind r == kind && tokenCount s (opTcl r) (opStok r) == 1 &&
    gives (vget (ceUnit s 0) (opStage r) 64) (((tokenTake (opTcl r) (opStok r) 1 false).bind fun _ => (modCe 0 fun k =>
      { k with started := [(0, 0)] })).run s₁).2 fun dd _ => opOk r (BitVec.ofNat 512 (leNat dd)) == good
theorem wit_CollectiveEngines_start : (∀ kind ∈ [1, 2], ∀ good, startsB kind good = true) ∧ Ce.init.drain = false ∧
    ((ceS 2 true Ce.init).binding 0).step % max 1 (bits 14 8 ((ceS 2 true Ce.init).binding 0).params.toNat) = 0 := by decide +kernel
/-- A contribution, poisoned for want of data, to tile 0 of operation 5. -/
def ceP (cls typ : Nat) : Packet := { pktOf cls typ [] with opid := 5 }
theorem wit_CollectiveEngines_contrib : Arrives (ceP 1 0x10) 0x10 ∧ (ceS 1 true Ce.init).ceOwner 0 = some 0 ∧
    (ceS 1 true Ce.init).rdF .BND_JOB Fld.BND_JOB_BID 0 = 7 ∧ sumHeld (ceS 1 true Ce.init) 0 1 5 = false ∧
    sumHeld (ceS 2 true { Ce.init with stopped := [(1, 5)] }) 0 1 5 = true ∧ (ceP 1 0x10).step.toNat = ((ceS 1 true Ce.init).binding 0).step ∧
    gives (findOp 0 0 1 5) (ceS 1 true Ce.init) (fun r _ => r.isSome) = true :=
  ⟨arrives _ _ (by decide), by decide +kernel, by decide +kernel, by decide +kernel, by decide +kernel, by decide +kernel, by decide +kernel⟩
/-- A sum in SUMBUF that lacks one contribution, of a tile that the decay in progress has applied already. -/
def statS : State := ceS 2 true { Ce.init with
  sums := [{ Sum.init true (ceP 2 0x18) with got := [1, 1, 1, 1] }], decays := [⟨0x1200, 0, [0]⟩] }
theorem wit_CollectiveEngines_statcontrib : Arrives (ceP 2 0x18) 0x18 ∧ (statS.engine 0).held = [] ∧ sumHeld statS 0 2 5 = false ∧
    gives (findOp 0 0 2 5) statS (fun r s₁ => let x := { Sum.init true (ceP 2 0x18) with got := [1, 1, 1, 1] }
      gives (statAdd 0 (r.getD (0, 0)).1 (ceP 2 0x18) x) s₁ fun fl s₂ =>
        let s₃ := ((Prog.all [addFlags .FAB_CE_FLAGS fl.toNat 0, count (setCe 0) 0x78, putSum 0 x (some (countIn (ceP 2 0x18) x).1)]).run s₂).2
        gives (findOp 0 0 2 5) s₃ fun r' s₄ => mayApply s₄ 0 (r'.getD (0, 0)).1 (countIn (ceP 2 0x18) x).1 &&
          gives (applyTile 0 0 (r'.getD (0, 0)).1 (countIn (ceP 2 0x18) x).1) s₄ fun _ _ => true) = true :=
  ⟨arrives _ _ (by decide), by decide +kernel, by decide +kernel, by decide +kernel⟩

/-! ### Witnesses: the Ferry Engine -/

/-- A frame whose ICV is that of the key 0: its header below the ICV is `h`. -/
def frameOf (h : Nat) (payload : List Byte) : Frame :=
  { hdr := signHeader 0 h payload, payload := payload, port := 0, src := 0, sport := 0, dst := 0, dport := 0, ext := false, sumOk := true,
    fcsOk := true, tags := 0, short := false }

/-- Below the ICV a signed header is what was signed, and above it is the ICV. -/
theorem signed_bits (h n lo hi : Nat) (hhi : hi < 384) :
    bits hi lo (h + n * 2 ^ 384) = bits hi lo h := by
  unfold bits
  rcases Nat.lt_or_ge hi lo with hl | hl
  · have : hi + 1 - lo = 0 := by omega
    simp [this, Nat.mod_one]
  · have e : n * 2 ^ 384 = 2 ^ lo * (2 ^ (hi + 1 - lo) * (n * 2 ^ (383 - hi))) := by
      rw [show (384 : Nat) = lo + ((hi + 1 - lo) + (383 - hi)) by omega, Nat.pow_add, Nat.pow_add]; ring
    rw [e, Nat.add_mul_div_left _ _ (Nat.two_pow_pos lo), Nat.add_mul_mod_self_left]

theorem signHeader_toNat (h : Nat) (p : List Byte) (hh : h < 2 ^ 384) :
    (signHeader 0 h p).toNat = h + (icvOf 0 h p).toNat * 2 ^ 384 := by
  have h1 : bits 383 0 h = h := by unfold bits; simp; omega
  have h2 := (icvOf 0 h p).isLt
  simp only [signHeader, h1, BitVec.toNat_ofNat]
  omega

theorem signed_low (h : Nat) (p : List Byte) (hi lo : Nat) (hh : h < 2 ^ 384) (hhi : hi < 384) :
    bits hi lo (signHeader 0 h p).toNat = bits hi lo h := by
  rw [signHeader_toNat h p hh, signed_bits h _ lo hi hhi]

theorem signed_icv (h : Nat) (p : List Byte) (hh : h < 2 ^ 384) : fhIcv (signHeader 0 h p) = icvOf 0 h p := by
  have h2 := (icvOf 0 h p).isLt
  apply BitVec.eq_of_toNat_eq
  simp only [fhIcv, signHeader_toNat h p hh, bits, BitVec.toNat_ofNat]
  omega

/-- The Ferry Engine on with port 0 UP, and channel 0 a crossing channel in a state with a key of epoch 0 whose counter
block is on record. -/
def fryS (st : Nat) (k : Chan) : State := { wired (unitRegs ++ [(.FRY_CTRL, 0, 0, 2 ^ Fld.FRY_CTRL_EN.lo),
    (.FRY_PSTATUS, 0, 0, 2 * 2 ^ Fld.FRY_PSTATUS_STATE.lo), (.FRY_CH_STATUS, 0, 0, st * 2 ^ Fld.FRY_CH_STATUS_STATE.lo),
    (.FRY_CH_CFG, 0, 0, 2 ^ Fld.FRY_CH_CFG_KIND.lo), (.FRY_CH_RATE, 0, 0, 2 ^ Fld.FRY_CH_RATE_MBPS.lo)]) with
  chan := [(0, { k with new := some ⟨0, 0, 0, 0, 0⟩ })], jnl := { Jnl.init with ivres := [((0, 0), 0)] } }

/-- What a frame must pass that does not concern its ICV, as one check of its header below the ICV. -/
def reachesB (s : State) (h : Nat) (n : Nat) : Bool :=
  s.outerUp 0 && s.fryOn && decide (n ≤ 8896) && (s.rd .FRY_IPHI 0).toNat == 0 && (s.rd .FRY_IPLO 0).toNat == 0 &&
  s.rdF .FRY_CTRL Fld.FRY_CTRL_UDPPORT == 0 && bits 3 0 h == 1 && decide (bits 7 4 h ≠ 2 ∨ bits 203 198 h ≤ 1) && n == bits 223 210 h &&
  bits 31 16 h == 0 && bits 47 32 h == 0 && decide (h < 2 ^ 384) && s.chState 0 != 0 && s.chPort 0 == 0 &&
  (s.rd .FRY_CH_PEERHI 0).toNat == 0 && (s.rd .FRY_CH_PEERLO 0).toNat == 0 && s.rdF .FRY_CH_CFG Fld.FRY_CH_CFG_PPORT 0 == 0 &&
  s.chChan 0 == 0 && typeSuits (s.chKind 0) (bits 7 4 h) && s.epochKey 0 0 == some ⟨0, 0, 0, 0, 0⟩ && s.berthKey 0 == 0

theorem frame_verified (s : State) (h typ : Nat) (p : List Byte) (hb : (reachesB s h p.length && bits 7 4 h == typ) = true) :
    FrameVerified s 0 typ (frameOf h p) := by
  rw [Bool.and_eq_true, beq_iff_eq] at hb
  obtain ⟨hb, rfl⟩ := hb
  simp only [reachesB, Bool.and_eq_true, beq_iff_eq, bne_iff_ne, decide_eq_true_eq] at hb
  obtain ⟨⟨⟨⟨⟨⟨⟨⟨⟨⟨⟨⟨⟨⟨⟨⟨⟨⟨⟨⟨up, on⟩, n⟩, ih⟩, il⟩, ud⟩, ver⟩, ty⟩, dl⟩, ch⟩, ep⟩, sz⟩, st⟩, po⟩, ph⟩, pl⟩, pp⟩, cc⟩, su⟩, ek⟩, bk⟩ := hb
  have low := fun hi lo => signed_low h p hi lo sz
  have hty : fhType (frameOf h p).hdr = bits 7 4 h := low 7 4 (by omega)
  have hep : fhEpoch (frameOf h p).hdr = 0 := (low 47 32 (by omega)).trans ep
  refine ⟨⟨up, on, ?_, by simp [frameOf], rfl, rfl, ?_, rfl, ?_, rfl, ?_, ?_⟩, (low 3 0 (by omega)).trans ver, ?_, hty, ?_⟩
  · simp only [frameOf]; omega
  · simp [frameOf, ih, il]
  · simp [frameOf, ud]
  · have : fhDlen (frameOf h p).hdr = bits 223 210 h := low 223 210 (by omega)
    have hk : fhK (frameOf h p).hdr = bits 203 198 h := low 203 198 (by omega)
    simp only [lengthOk, hty, hk, this, Bool.and_eq_true, decide_eq_true_eq]
    refine ⟨n, ?_⟩
    split
    · rename_i t
      rw [if_pos (ty.resolve_left fun x => x t)]
      simpa [frameOf] using dl
    · simpa [frameOf] using dl
  · have hc : fhChan (frameOf h p).hdr = 0 := (low 31 16 (by omega)).trans ch
    have hp : s.chPort 0 = 0 := po
    simp only [chanMatch, hc]
    rw [show List.range 64 = 0 :: (List.range 63).map Nat.succ by decide, List.find?_cons_of_pos]
    simp [frameOf, st, po, ph, pl, pp, cc]
  · rw [hty]; exact su
  · refine ⟨⟨0, 0, 0, 0, 0⟩, ?_, ?_⟩
    · rw [hep]; exact ek
    · have h0 : bits 383 0 (frameOf h p).hdr.toNat = h := by
        refine (low 383 0 (by omega)).trans ?_
        unfold bits; simp; omega
      rw [h0, show s.berthKey (0 : Nat) = 0 from bk]
      exact (signed_icv h p sz).symm

/-- A frame of a type for stream 0 with a payload. -/
def hdrOf (typ : Nat) (p : List Byte) : Nat := packed [(1, 0), (typ, 4), (1, 198), (1, 204), (p.length, 210)]

/-- Frames that carry a stream, at a channel that runs with the stream open. -/
def openS : State := fryS 2 { Chan.init with rx := [RxStream.start 0 0 0 0] }
theorem wit_StreamFrames : ∀ typ, typ ∈ [1, 2, 3, 4, 9] → FrameArrives openS 0 typ (frameOf (hdrOf typ (leBytes 20 0)) (leBytes 20 0)) := by
  intro typ h
  simp only [List.mem_cons, List.not_mem_nil, or_false] at h
  obtain rfl | rfl | rfl | rfl | rfl := h <;>
    exact ⟨frame_verified openS _ _ (leBytes 20 0) (by decide +kernel), by decide +kernel⟩
theorem wit_StreamFrames_window : openS.rxStream 0 0 = some (RxStream.start 0 0 0 0) ∧ (RxStream.start 0 0 0 0).has 0 = false ∧
    inWindow (RxStream.start 0 0 0 0) 0 = true := by decide +kernel
/-- A DONE of a stream none of whose frames has come. -/
theorem wit_StreamFrames_unknown : FrameArrives (fryS 2 Chan.init) 0 9 (frameOf (hdrOf 9 (leBytes 20 0)) (leBytes 20 0)) ∧
    (fryS 2 Chan.init).rxStream 0 0 = none ∧
    ∀ fr : Frame, fr.port = 0 → ((openStream 0 0 0 false).run (frameCounted (fryS 2 Chan.init) 0 fr)).1 = true := by
  refine ⟨⟨frame_verified _ _ _ (leBytes 20 0) (by decide +kernel), by decide +kernel⟩, by decide +kernel, fun fr h => ?_⟩
  simp only [frameCounted, h]
  decide +kernel
theorem wit_ChannelFrames : ∀ typ, typ ∈ [5, 6, 7, 8, 10, 11, 12, 13] → FrameArrives (fryS 1 Chan.init) 0 typ (frameOf (hdrOf typ (leBytes 4 1)) (leBytes 4 1)) := by
  intro typ h
  simp only [List.mem_cons, List.not_mem_nil, or_false] at h
  obtain rfl | rfl | rfl | rfl | rfl | rfl | rfl | rfl := h <;>
    exact ⟨frame_verified (fryS 1 Chan.init) _ _ (leBytes 4 1) (by decide +kernel), by decide +kernel⟩
theorem wit_ChannelFrames_map : gives (readMap ((fryS 2 Chan.init).chUnit 0)) (frameCounted (fryS 2 Chan.init) 0 (frameOf 0 [])) (fun _ _ => true) = true := by
  decide +kernel
theorem wit_FramesThatAreNotUsed : FrameVerified (fryS 5 Chan.init) 0 4 (frameOf (hdrOf 4 []) []) ∧ FrameVerified (fryS 5 Chan.init) 0 8 (frameOf (hdrOf 8 []) []) ∧
    (fryS 5 Chan.init).chState 0 = 5 ∧ State.reset.fryOn = false :=
  ⟨frame_verified _ (hdrOf 4 []) 4 [] (by decide +kernel), frame_verified _ (hdrOf 8 []) 8 [] (by decide +kernel), by decide +kernel,
    by decide +kernel⟩

theorem wit_ChannelCommandsAndTimers : ctlSigns (fryS 1 Chan.init) 0 = true := by decide +kernel
/-- A posted stream of 16 bytes at 0x1000 on a channel that runs. -/
def sendS (k : Chan) : State := let s := fryS 2 k
  { placed [(0x100, leBytes 64 (packed [(0x1000, 32), (16, 80)]))] s with
    reg := (wired (unitRegs ++ [(.FRY_CTRL, 0, 0, 2 ^ Fld.FRY_CTRL_EN.lo), (.FRY_PSTATUS, 0, 0, 2 * 2 ^ Fld.FRY_PSTATUS_STATE.lo),
      (.FRY_CH_STATUS, 0, 0, 2 * 2 ^ Fld.FRY_CH_STATUS_STATE.lo), (.FRY_CH_CFG, 0, 0, 3 * 2 ^ Fld.FRY_CH_CFG_KIND.lo),
      (.FRY_CH_RATE, 0, 0, 2 ^ Fld.FRY_CH_RATE_MBPS.lo), (.FRY_CH_TXRING, 0, 0, 0x1000000000100), (.FRY_CH_TXTAIL, 0, 0, 1)])).reg }
theorem wit_ChannelsSendStreams_start : (sendS Chan.init).fryOn = true ∧ (sendS Chan.init).chState 0 ≠ 0 ∧ (sendS Chan.init).chKind 0 = 3 ∧
    (sendS Chan.init).rdF .FRY_CH_TXTAIL Fld.FRY_CH_TXTAIL_TAIL 0 = 1 ∧
    gives (vget ((sendS Chan.init).chUnit 0) (ringEntry (sendS Chan.init) .FRY_CH_TXRING 0 0) 64) (sendS Chan.init) (fun _ _ => true) = true := by
  decide +kernel
/-- The stream, begun. -/
def streamOf (kept : List Kept) : TxStream :=
  { TxStream.start (some 0) (BitVec.ofNat 512 (packed [(0x1000, 32), (16, 80)])) .bytes 0 0 1 1 with kept := kept }
/-- A channel whose bucket is full and whose turn it is, with something to send. -/
def turnS (k : Chan) : State := sendS { k with level := bucketSize }
theorem wit_ChannelsSendStreams_new : let s := turnS { Chan.init with tx := [streamOf []] }
    let f := bucketsFilled s 0 0
    f.portTurn 0 = some 0 ∧ (s.ch 0).sending = some (streamOf []) ∧ (streamOf []).rest = [] ∧
    gives (newGroup 0 (streamOf [])) ((takeTurn 0).run f).2 (fun r s₁ => streamSigns s₁ 0 (streamOf []) r.1.length) = true := by decide +kernel
/-- A group in hand whose last frame is not yet sent. -/
theorem wit_ChannelsSendStreams_rest : let u : Unsent := ⟨⟨1, true, true, 0, 0, 0, 1, 1, 0, 0⟩, [], ⟨0, [], []⟩, []⟩
    let x := { streamOf [] with rest := [u] }
    let s := turnS { Chan.init with tx := [x] }
    let f := bucketsFilled s 0 0
    f.portTurn 0 = some 0 ∧ (s.ch 0).sending = some x ∧ streamSigns ((takeTurn 0).run f).2 0 x 1 = true := by decide +kernel
theorem wit_ChannelsSendStreams_again : let y : Kept := ⟨0, ⟨0, [], []⟩, []⟩
    let s := turnS { Chan.init with tx := [streamOf [y]], asks := [⟨0, 0, 0, false⟩] }
    let f := bucketsFilled s 0 0
    f.portTurn 0 = some 0 ∧ (s.ch 0).tx.find? (fun t => t.num == 0) = some (streamOf [y]) ∧
    gives (groupData 0 (streamOf [y]) [] ⟨0, [], []⟩) ((modCh 0 fun k => { k with asks := k.asks.drop 64 }).run ((takeTurn 0).run f).2).2
      (fun _ _ => true) = true := by decide +kernel

/-- A crossing buffer of sites 0 and 1 at 0x4000, with an area in a state for crossing 0. -/
def crossS (st : Nat) : State := placed [(0x100, layer 0 (packed [(1, 275), (0x4000, 640), (0x3000, 96)])),
    (0x4000, leBytes 128 (packed [(9, 0), (1, 4), (1, 36), (1, 40), (3, 46), (0x3F800000, 128), (0x3F800000, 160)])),
    (0x4000 + 4096, leBytes 64 (areaWord 1 st 0))] (wired luRegs)
def crossP (payload : List Byte) : Packet := { pktOf 2 0x1C payload with opid := 1 }
theorem wit_CrossPackets_opid : crossOf ((wired luRegs).binding 0).cross (crossP []).opid.toNat = 0 ∧ (crossP []).opid.toNat % 16 = 1 ∧
    ((wired luRegs).binding 0).site = 0 := by decide +kernel
theorem wit_CrossPackets : Arrives (crossP []) 0x1C ∧ Arrives (crossP (leBytes 4 1)) 0x1C ∧ (wired luRegs).bindingOf 7 = some 0 ∧
    (wired luRegs).hasUnit 0 0 = true := ⟨arrives _ _ (by decide), arrives _ _ (by decide), by decide +kernel, by decide +kernel⟩
theorem wit_CrossPackets_area : ∀ st ∈ [0, 1, 2], gives (readEntry 0 0) (crossS st) (fun x s₁ => x.outer && gives (readXHdr 0 x.cbuf) s₁ fun h s₂ =>
    h.sites.testBit 1 && decide (0 < h.nseg) && gives (luRecord 0 (h.area x.cbuf (h.rank 0 1) 0) 64 false) s₂ fun w s₃ => areaState w == st && areaCross w == 0 &&
    gives (putArea 0 (h.area x.cbuf (h.rank 0 1) 0) 1 (if st = 0 then 1 else 2) 0) s₃ fun _ s₄ =>
    gives (vwrite (luUnit s₄ 0) (h.area x.cbuf (h.rank 0 1) 0 + 2048) ((padTo 2048 (leBytes 4 1)).map fun y => (y, false))) s₄ fun _ _ => true) = true := by
  decide +kernel

/-! ### Witnesses: the machine as a whole and the frames -/

/-- Whether a command answers a next state. -/
def completes (i : Instr) (s : State) : Bool :=
  match exec i s with
  | .next _ => true
  | _ => false

theorem wit_FrameOfClusterCommands : completes (.nop 0 (sw 0 0)) clS = true ∧ completes (.setvl 0 (vw 0x70 0x8000000000)) clS = true ∧
    completes (.vwaitRelease 0) clS = true ∧ completes (.aryStart 0) clS = true ∧ completes (.vecStart 0) clS = true ∧
    completes (.toksigInc 0 63) clS = true := by decide +kernel
theorem wit_FrameOfUnitCommands : completes (.lndAbort 0) clS = true ∧ completes (.slvStop 0) clS = true ∧ completes (.movStop 0) clS = true := by
  decide +kernel
theorem wit_FrameOfLinksAndChannels : completes (.linkDown 0) clS = true ∧ completes (.chStop 0) clS = true := by decide +kernel
theorem wit_FrameOfServices : completes .yield clS = true ∧ completes .compact clS = true ∧ completes (.thermtrip .east) clS = true := by
  decide +kernel
theorem wit_FrameOfBindings : completes (.bndEnd 0) clS = true ∧ completes (.forceturn 0) clS = true ∧ completes .apply clS = true := by
  decide +kernel

/-- Every register's default is within its implemented bits, whichever variant is fitted. -/
theorem default_masked (n : RegName) (i j : Nat) : regDefault ⟨n, i, j⟩ &&& ~~~ regMask n = 0 := by
  have v : ∀ v : BitVec 1, (BitVec.ofNat 64 0xA0096 ||| v.zeroExtend 64 <<< 20) &&& ~~~ BitVec.ofNat 64 0x1FFFFF = 0 := by decide
  by_cases hn : n = .GLB_ID
  · subst hn
    exact v Config.variant
  · have e : regDefault ⟨n, i, j⟩ = BitVec.ofNat 64 n.info.reset := if_neg hn
    rw [e]
    show BitVec.ofNat 64 n.info.reset &&& ~~~ BitVec.ofNat 64 n.info.mask = 0
    cases n <;> rfl

/-- A state that keeps the invariant and whose step answers one. -/
theorem wit_EveryStepKeepsInvariant : let s : State := { State.reset with draws := 1 }
    s.Inv ∧ step s = .next s := by
  refine ⟨⟨by decide, ⟨?_, ?_⟩, ?_, ?_, ?_⟩, rfl⟩
  · exact ⟨List.Pairwise.nil, fun _ h => nomatch h⟩
  · exact ⟨List.Pairwise.nil, fun _ h => nomatch h⟩
  · exact default_masked
  · intro i j; rfl
  · exact ⟨⟨List.Pairwise.nil, fun _ h => nomatch h⟩, fun _ h => nomatch h⟩

/-! ### Witnesses: registers, images, power, security, the journal and the host -/

/-- The bus log's first and last slot are registers at their addresses, in full service. -/
def servedS : State := { wired [(.JNL_BRINGUP, 0, 0, 6)] with boot := { Boot.init with on := true } }
theorem wit_RegisterAccess : ∀ slot ∈ [(0 : Nat), 15], servedS.place (0x200100 + 8 * slot) 8 false = .reg ⟨.BND_BLOG, slot, 0⟩ := by
  decide +kernel
theorem wit_RegisterAccess_named : RegName.TEL_PCAP ≠ .SEC_RNG ∧ RegName.TEL_PCAP ≠ .CNT_CYCLE ∧ RegName.TEL_PCAP ≠ .FRY_CH_CFG := by decide

/-- A re-binding of cluster 3 that drains. -/
def rbS : State := { wired [(.BND_RB_STATUS, 0, 0, 1)] with rb := some ⟨none, 1, 0, 0x1000, false, 8, none⟩ }
theorem wit_LoaderAndRebinding : rbS.rb.isSome = true ∧ rbS.rdF .BND_RB_STATUS Fld.BND_RB_STATUS_PHASE = 1 ∧
    resList 8 = [3] ∧ rbS.drained 3 = true := by decide +kernel

/-- A half that follows and has seen the leader miss its renewals. -/
theorem wit_PowerBootAndLeadership : let s : State := { State.reset with boot := { Boot.init with on := true, missed := 5, leader := some .east } }
    s.boot.on = true ∧ (s.half .west).runs = true ∧ s.boot.leader ≠ some .west ∧ ¬ s.boot.missed < 5 := by decide

/-- A request at the ring's head: 4 bytes of tag under a berth that does not hold a key. -/
def cqS : State := placed [(0, leBytes 32 0x401)] (wired [(.SEC_CQ_TAIL, 0, 0, 1)])
theorem wit_SecurityIsland : cqS.rdF .SEC_CQ_HEAD Fld.SEC_CQ_HEAD_HEAD ≠ cqS.rdF .SEC_CQ_TAIL Fld.SEC_CQ_TAIL_TAIL ∧
    ((cleanRead 0 32).run cqS).1 = some (leBytes 32 0x401) ∧ cqIllegal 0x401 = false ∧ cqIllegal 0 = true := by decide +kernel

/-- A request of SPDM's GET_VERSION, and a short one. -/
theorem wit_SpdmResponder : 4 ≤ ([0x10, 0x84, 0, 0] : List Byte).length ∧ (([0x10, 0x84, 0, 0] : List Byte).getD 1 0).toNat = 0x84 ∧
    ([] : List Byte).length < 4 := by decide
/-- The phases of a negotiation can each be reached by State. -/
theorem wit_SpdmResponder_phase : ∀ n ≤ 3, ({ Sec.init with spdm := ⟨n, [], [], []⟩ } : Sec).spdm.phase = n := fun _ _ => rfl

/-- The journal live with one record waiting, and in compaction; a firmware slot being erased. -/
theorem wit_JournalAndFlash : let r : JReq := ⟨2, 0, false, [], true⟩
    let s : State := { wired [(.JNL_STATUS, 0, 0, 2)] with jnl := { Jnl.init with queue := [r], fw := some ⟨1, none⟩ } }
    nextReq s.jnl.queue = some r ∧ s.jnlState = 2 ∧ s.jnl.fw = some ⟨1, none⟩ ∧
    (let s : State := { wired [(.JNL_STATUS, 0, 0, 3)] with jnl := { Jnl.init with snap := some 0 } }
     s.jnl.snap = some 0 ∧ s.jnlState = 3) := by decide +kernel

/-- Queue 0 enabled with a command of an opcode taken from it and not begun. -/
def cmdS (op rest : Nat) : State := { wired (luRegs ++ [(.HCI_QSTAT, 0, 0, 2 ^ Fld.HCI_QSTAT_STATE.lo)]) with
  hq := [(0, { HQueue.init with cmd := some ⟨BitVec.ofNat 512 (packed [(op, 0), (rest, 64)]), 0, false, false⟩ })] }
theorem wit_HostCommands : ∀ op ∈ [0x00, 0x01, 0x02, 0x10, 0x11, 0x12, 0x13, 0x14, 0x15, 0x16, 0x17, 0x20],
    ((cmdS op 0).readyCmd 0 op).isSome = true ∧ (cmdS op 0).readyCmd 0 0x99 = none ∧ (cmdS op 0).faultCause = 0 ∧ (cmdS op 0).rb = none := by
  decide +kernel
theorem wit_HostQueues : ((cmdS 0x12 0).hqueue 0).cmd.isSome = true ∧ State.reset.copying 0 = none ∧ State.reset.fetchable 0 = false := by
  decide +kernel

theorem wit_QueueIsFirstInFirstOut : State.reset.pending = [] := rfl

/-! ### Worked examples of the spec -/

/-- Exact subtraction in range: 2⁻¹⁰⁶ less 1.875 × 2⁻¹¹² × 2⁻¹⁷ (the example of 05_landing_unit.md). -/
theorem test_scaledSub_example : (scaledSub false (fl 0x0A800000) (fl 0x07F00000) (-17)).1 = 0x0A7FFFFC := by decide +kernel

/-- A tie made by dropped bits: two products and an accumulator (the example of 02_cell_arithmetic.md). -/
theorem test_cell_tie_example : ((cellCycle false [(e4m3.dec 0x77, e4m3.dec 0x6B), (e4m3.dec 0x1D, e4m3.dec 0x01)] 0
    ⟨{ Cell.zero with val := 0x3F802000 }, 0, Flags.none⟩).cell.val) = 0x46A50200 := by decide +kernel

/-- One product in passes: the halves of 1/3 (the example of 02_cell_arithmetic.md). -/
theorem test_split_example : splitHalves 0x3EAAAAAB = (0x3EAB, 0xBA2B, false) := by decide +kernel

/-- A broadcast bias over a tail: the descriptor's first word, the encoding of ADD D00, D00, D01, and the bias element of
lane 33 of the second chunk's row (the example of 03_arrays_vector_engine.md). -/
theorem test_broadcast_example : vf 63 57 0x0300000040000000 = 0x01 ∧ vT 0x0300000040000000 = true ∧ vD 0x0300000040000000 = 0 ∧
    vA 0x0300000040000000 = 0 ∧ vB 0x0300000040000000 = 1 ∧ bits 54 52 0x0020001234000000 = 2 ∧
    unlin [96, 3] 256 = [64, 2] ∧ unlin [96, 3] 287 = [95, 2] := by decide

/-- The completions of a forced turnaround refused and of a stop (the example of 16_host_control.md). -/
theorem test_completion_words : leNat ((completionBytes 0x41 2 0 0 0x1F 0 true).take 8) = 0x801F000000020041 ∧
    leNat ((completionBytes 0x42 2 2 1 0x20 0 true).take 8) = 0x8020000102020042 := by decide

/-! ### Ill-formed commands, one for each check -/

theorem test_wfPacket_refuses : (Instr.vote (pktOf 0 2 [])).wfPacket = false := by decide
theorem test_wfFrame_refuses : (Instr.ack 0 { frameOf 0 [] with hdr := 0 }).wfFrame = false := by decide +kernel
theorem test_wfSector_refuses : (Instr.sectorWrite 0 60 [1, 2, 3, 4, 5] false).wfSector = false := by decide
theorem test_wfUpset_refuses : (Instr.sectorRead 0 [(72, 1)]).wfUpset = false := by decide
theorem test_wfCommand_refuses : (Instr.commandFetch 0 (some [1])).wfCommand = false := by decide
theorem test_wfReadings_refuses : (Instr.telemetryLoop ⟨[], [], []⟩).wfReadings = false := by decide
theorem test_wfAccess_refuses : (Instr.registerWrite .host 0 2 0).wfAccess = false := by decide
theorem test_wfCause_refuses : (Instr.bringupLimit 7).wfCause = false := by decide

/-! ### One step -/

/-- A write of TEL_PCAP's block takes the command from the front of the queue, and a NOP that cannot be taken changes nothing else. -/
theorem test_step_takes_front : (match step { State.reset with pending := [.yield, .yield] } with
    | .next t => t.pending
    | _ => []) = [.yield] := by decide +kernel
theorem test_sector_outside_faults : (match exec (.sectorRead 0xFFFFFFFFFF []) State.reset with
    | .fault .noSuchAddress => true
    | _ => false) = true := by decide +kernel
theorem test_decode_no_bits : decodeTableWord 32 0 = none := rfl

end Sys2Proof.Machine.Tests
end

/-! ### The invariant of the block: after reset and along every step -/

namespace Sys2Proof.Machine

/-- What the invariant says of registers rests on the register file and the pending values alone. -/
theorem State.Inv.of_regs_eq {s t : State} (h : s.Inv) (hreg : t.reg = s.reg) (hpend : t.pend = s.pend)
    (hmem : Memory.wf t.mem = true) (hflash : t.flashOk) : t.Inv where
  mem := hmem
  regs := ⟨hreg ▸ h.regs.1, hpend ▸ h.regs.2⟩
  reserved := fun n i j => State.rd_congr hreg n i j ▸ h.reserved n i j
  ident := fun i j => State.rd_congr hreg .GLB_ID i j ▸ h.ident i j
  flash := hflash

/-! ### One rule for each part of the invariant that an effect writes -/

/-- A register takes no value in its unimplemented bits (R10). -/
theorem State.reservedZero_setReg {s : State} (h : s.reservedZero) (k : RegKey) (v : Word) :
    ((Eff.setReg k v).apply s).reservedZero := by
  intro n i j
  rw [State.rd_setReg]
  split
  · rw [BitVec.and_assoc, BitVec.and_not_self]
    exact BitVec.and_zero
  · exact h n i j

/-- No setting of a register reaches GLB_ID (R401). -/
theorem State.idFixed_setReg {s : State} (h : s.idFixed) (k : RegKey) (v : Word) :
    ((Eff.setReg k v).apply s).idFixed := by
  intro i j
  rw [State.rd_setReg, if_neg fun hk => hk.2 rfl]
  exact h i j

theorem State.regsCanonical_setReg {s : State} (h : s.regsCanonical) (k : RegKey) (v : Word) :
    ((Eff.setReg k v).apply s).regsCanonical := by
  obtain ⟨hreg, hpend⟩ := h
  unfold State.regsCanonical
  rw [Eff.setReg_reg, Eff.setReg_pend]
  split
  · exact ⟨hreg, hpend⟩
  · exact ⟨SMap.wf_put k _ RegKey.rank_inj hreg, hpend⟩

theorem State.regsCanonical_setPend {s : State} (h : s.regsCanonical) (k : RegKey) (v : Option Word) :
    ((Eff.setPend k v).apply s).regsCanonical :=
  ⟨h.1, SMap.wf_put k v RegKey.rank_inj h.2⟩

/-- A byte of the flash is written within its 128 MiB alone (R379). -/
theorem State.flashOk_flashByte {s : State} (h : s.flashOk) (a : Nat) (v : Byte) :
    ((Eff.flashByte a v).apply s).flashOk := by
  unfold State.flashOk
  rw [Eff.flashByte_flash]
  split
  · next ha =>
    refine ⟨Tab.wf_upd a v h.1, fun e he => ?_⟩
    rcases Tab.mem_upd he with hk | hm
    · exact hk ▸ ha
    · exact h.2 e hm
  · exact h

/-- Every effect keeps the flash's form. -/
theorem Eff.apply_flashOk (e : Eff) {s : State} (h : s.flashOk) : (e.apply s).flashOk := by
  cases e with
  | flashByte a v => exact State.flashOk_flashByte h a v
  | _ => simpa [State.flashOk] using h

/-! ### Reset -/

/-- A state in which no register, pending value or byte of the stack has been set keeps the invariant: every register
reads its default, which lies within its implemented bits (R9, R10). -/
theorem State.Inv.of_nothing_set {s : State} (hreg : s.reg = []) (hpend : s.pend = []) (hmem : s.mem = [])
    (hflash : s.flashOk) : s.Inv := by
  have hrd (n : RegName) (i j : Nat) : s.rd n i j = regDefault ⟨n, i, j⟩ := by
    unfold State.rd
    rw [hreg, SMap.get]
  refine ⟨?_, ⟨hreg ▸ SMap.wf_nil, hpend ▸ SMap.wf_nil⟩, fun n i j => ?_, hrd .GLB_ID, hflash⟩
  · rw [hmem]
    rfl
  · rw [hrd]
    exact Tests.default_masked n i j

/-- Settles O3: after reset nothing has been set, and the flash lists no byte. -/
theorem resetKeepsInvariant : Obligations.ResetKeepsInvariant :=
  .of_nothing_set rfl rfl rfl ⟨Tab.wf_nil, fun _ he => nomatch he⟩

/-! ### Effects, programs and steps -/

/-- Every effect keeps the invariant. The registers change by `setReg`, `setPend` and the loss of power alone. -/
theorem Eff.apply_inv (e : Eff) {s : State} (h : s.Inv) : (e.apply s).Inv := by
  have hmem := e.apply_mem_wf h.mem
  have hflash := e.apply_flashOk h.flash
  cases e with
  | setReg k v =>
    exact ⟨hmem, State.regsCanonical_setReg h.regs k v, State.reservedZero_setReg h.reserved k v,
      State.idFixed_setReg h.ident k v, hflash⟩
  | setPend k v => exact ⟨hmem, State.regsCanonical_setPend h.regs k v, h.reserved, h.ident, hflash⟩
  | powerLost => exact .of_nothing_set rfl rfl rfl hflash
  | _ => exact h.of_regs_eq (by simp) (by simp) hmem hflash

/-- Every program keeps the invariant. -/
theorem Prog.run_inv {α : Type} (p : Prog α) {s : State} (h : s.Inv) : (p.run s).2.Inv :=
  Prog.All.keeps (Prog.All.of_forall (fun e _ hs => e.apply_inv hs) p) h

/-- Every command keeps the invariant. -/
theorem exec_inv {i : Instr} {s t : State} (he : exec i s = .next t) (h : s.Inv) : t.Inv := by
  obtain ⟨p, rfl⟩ := exec_next he
  exact p.run_inv h

/-- Settles O4: a step idles, or runs the front command on the state with the queue's rest, and the invariant says
nothing of the queue. -/
theorem everyStepKeepsInvariant : Obligations.EveryStepKeepsInvariant := by
  intro s t h hs
  unfold step at hs
  split at hs
  · cases hs
    exact h
  · exact exec_inv hs (h.of_regs_eq rfl rfl h.mem h.flash)

end Sys2Proof.Machine

/-! ### Reading the state after an effect -/

namespace Sys2Proof.Machine
open Prog

/-- A field lies within a register's implemented bits, and the register can be set. -/
def fieldFits (f : Field) (n : RegName) : Bool :=
  decide (f.lo + f.w ≤ 64) && (fieldMask f &&& regMask n == fieldMask f) && n != .GLB_ID

/-- Two fields have no bit in common. -/
def fieldsApart (f g : Field) : Bool := decide (f.lo + f.w ≤ g.lo) || decide (g.lo + g.w ≤ f.lo)

theorem fieldFits_iff {f : Field} {n : RegName} :
    fieldFits f n = true ↔ f.lo + f.w ≤ 64 ∧ fieldMask f &&& regMask n = fieldMask f ∧ n ≠ .GLB_ID := by
  simp [fieldFits, and_assoc]

section Reading
variable (s : State)

/-- A register of another name is not the one set. -/
theorem State.rd_setReg_name_ne {n m : RegName} (h : n ≠ m) (v : Word) (a b i j : Nat) :
    ((Eff.setReg ⟨m, a, b⟩ v).apply s).rd n i j = s.rd n i j :=
  State.rd_setReg_ne s _ v n i j (by simp [h])

theorem State.rdF_setReg_name_ne {n m : RegName} (h : n ≠ m) (v : Word) (f : Field) (a b i j : Nat) :
    ((Eff.setReg ⟨m, a, b⟩ v).apply s).rdF n f i j = s.rdF n f i j :=
  congrArg (getF f) (s.rd_setReg_name_ne h v a b i j)

/-- A field just set reads as what was set, cut to its width. -/
theorem State.rdF_setReg_field {n : RegName} {f : Field} (h : fieldFits f n = true) (i j x : Nat) :
    ((Eff.setReg ⟨n, i, j⟩ (putF f (s.rd n i j) x)).apply s).rdF n f i j = x % 2 ^ f.w := by
  obtain ⟨hw, hm, hn⟩ := fieldFits_iff.1 h
  exact State.rdF_setReg_putF s n f i j x hn hw hm

/-- Setting a field leaves a field apart from it alone, at every place of the register. -/
theorem State.rdF_setReg_apart {n : RegName} {f g : Field} (hf : fieldFits f n = true) (hg : fieldFits g n = true)
    (hd : fieldsApart f g = true) (a b x i j : Nat) :
    ((Eff.setReg ⟨n, a, b⟩ (putF f (s.rd n a b) x)).apply s).rdF n g i j = s.rdF n g i j := by
  obtain ⟨hfw, -, -⟩ := fieldFits_iff.1 hf
  obtain ⟨hgw, hgm, -⟩ := fieldFits_iff.1 hg
  unfold State.rdF
  rw [State.rd_setReg]
  split
  · next h =>
    obtain ⟨h, -⟩ := h
    cases h
    rw [getF_mask g _ _ hgw hgm, getF_putF_ne f g _ x hfw (by simpa [fieldsApart] using hd)]
  · rfl

@[simp] theorem landing_setLu (u : Nat) (v : Lu) (a : Nat) :
    ((Eff.setLu u v).apply s).landing a = if a = u then v else s.landing a := by
  unfold State.landing; rw [Eff.setLu_lu, Tab.at_upd]

@[simp] theorem landing_setReg (k : RegKey) (v : Word) (a : Nat) :
    ((Eff.setReg k v).apply s).landing a = s.landing a := by
  unfold State.landing; rw [Eff.setReg_lu]

@[simp] theorem rd_setLu (u : Nat) (v : Lu) (n : RegName) (i j : Nat) :
    ((Eff.setLu u v).apply s).rd n i j = s.rd n i j := rfl

@[simp] theorem rdF_setLu (u : Nat) (v : Lu) (n : RegName) (f : Field) (i j : Nat) :
    ((Eff.setLu u v).apply s).rdF n f i j = s.rdF n f i j := rfl

@[simp] theorem run_modLu (u : Nat) (f : Lu → Lu) :
    (modLu u f).run s = ((), (Eff.setLu u (f (s.landing u))).apply s) := rfl

end Reading

/-! ### Changes of one part -/

section Changes
variable {l : List Part} {n : List RegName}

@[simp] theorem modLu_within {u : Nat} {f : Lu → Lu} (h : Part.lu ∈ l) : (modLu u f).Within l n := fun _ => Within.setLu h
@[simp] theorem modCh_within {c : Nat} {f : Chan → Chan} (h : Part.chan ∈ l) : (modCh c f).Within l n :=
  fun _ => Within.setChan h
@[simp] theorem modJnl_within {f : Jnl → Jnl} (h : Part.jnl ∈ l) : (modJnl f).Within l n := fun _ => Within.setJnl h

end Changes

/-! ### Programs that answer -/

section Answering
variable {α β ε : Type} {s t : State} {b : β}

theorem Reads.run_eq {p : Prog (Except ε α)} {x : α} (h : Reads p s x t) : p.run s = (.ok x, t) := h

/-- A program that goes on from a result answers where both of its parts do. -/
theorem reads_bindE {p : Prog (Except ε α)} {f : α → Prog (Except ε β)} :
    Reads (p.bindE f) s b t ↔ ∃ a m, Reads p s a m ∧ Reads (f a) m b t := by
  unfold Reads
  rw [run_bindE]
  constructor
  · intro h
    split at h
    · cases h
    · next a ha => exact ⟨a, _, Prod.ext ha rfl, h⟩
  · rintro ⟨a, m, hp, hf⟩
    rw [hp]
    exact hf

theorem reads_bind {p : Prog α} {f : α → Prog (Except ε β)} :
    Reads (p.bind f) s b t ↔ Reads (f (p.run s).1) (p.run s).2 b t := by
  unfold Reads
  rw [run_bind]

theorem reads_seq {p : Prog Unit} {q : Prog (Except ε β)} : Reads (p.seq q) s b t ↔ Reads q (p.run s).2 b t :=
  reads_bind

theorem reads_get {k : State → Prog (Except ε β)} : Reads (Prog.get k) s b t ↔ Reads (k s) s b t := Iff.rfl

theorem reads_ret {x : Except ε β} : Reads (Prog.ret x) s b t ↔ x = .ok b ∧ t = s := by
  unfold Reads
  rw [run_ret, Prod.mk.injEq, eq_comm (a := s)]

/-- What a program that answers leaves alone. -/
theorem Reads.same {p : Prog (Except ε α)} {x : α} {l : List Part} {n : List RegName} (h : Reads p s x t)
    (hp : p.Within l n) (q : Part) (hq : q ∉ l) : q.Same s t := by
  have := hp.same q hq s
  rwa [Reads.run_eq h] at this

end Answering

end Sys2Proof.Machine

/-! ### The causes, the vote and the lanes of a Landing Unit -/

namespace Sys2Proof.Machine
open Prog

/-! ### Causes (R153, R154) -/

/-- The registers that a cause of a Landing Unit writes. -/
def causeNames : List RegName := [.LND_ERR, .LND_ERRENT, .LND_ERRIDX, .LND_STATUS, .LND_SKIPCNT]

@[simp] theorem mem_causeNames (n : RegName) : n ∈ causeNames ↔
    n = .LND_ERR ∨ n = .LND_ERRENT ∨ n = .LND_ERRIDX ∨ n = .LND_STATUS ∨ n = .LND_SKIPCNT := by simp [causeNames]

/-- What the first cause of a step writes before the vote (R154). -/
def noteCause (u : Nat) (c : Cause) (entry idx : Nat) : Prog Unit := .get fun s => Prog.all [
  wr .LND_ERR (s.rd .LND_ERR u ||| BitVec.ofNat 64 (2 ^ c.bit)) u, modLu u fun k => { k with caused := true },
  wrF .LND_ERRENT Fld.LND_ERRENT_ENTRY entry u, setF .LND_ERRENT Fld.LND_ERRENT_VALID u,
  wr .LND_ERRIDX (BitVec.ofNat 64 idx) u]

theorem voteSkip_within (u : Nat) : (voteSkip u).Within [.reg] [.LND_STATUS, .LND_SKIPCNT] := by
  simp (maxDischargeDepth := 30) [voteSkip]

theorem luCause_within (u : Nat) (c : Cause) (entry idx : Nat) :
    (luCause u c entry idx).Within [.reg, .lu] causeNames := by
  have hv : (voteSkip u).Within [.reg, .lu] causeNames := (voteSkip_within u).mono (by simp) (by decide)
  simp (maxDischargeDepth := 30) [luCause, hv]

section Causes
variable {u : Nat} {s : State} (c : Cause) (entry idx : Nat)

/-- The first cause of a step is noted, and then votes. -/
theorem luCause_run_first (hc : (s.landing u).caused = false) :
    ((luCause u c entry idx).run s).2 = ((voteSkip u).run ((noteCause u c entry idx).run s).2).2 := by
  simp [luCause, noteCause, hc]

/-- A later cause adds its bit alone. -/
theorem luCause_run_later (hc : (s.landing u).caused = true) : ((luCause u c entry idx).run s).2 =
    (Eff.setReg ⟨.LND_ERR, u, 0⟩ (s.rd .LND_ERR u ||| BitVec.ofNat 64 (2 ^ c.bit))).apply s := by
  simp [luCause, hc]

theorem noteCause_run : ((noteCause u c entry idx).run s).2 =
    let s₁ := (Eff.setReg ⟨.LND_ERR, u, 0⟩ (s.rd .LND_ERR u ||| BitVec.ofNat 64 (2 ^ c.bit))).apply s
    let s₂ := (Eff.setLu u { s.landing u with caused := true }).apply s₁
    let s₃ := (Eff.setReg ⟨.LND_ERRENT, u, 0⟩ (putF Fld.LND_ERRENT_ENTRY (s₂.rd .LND_ERRENT u) entry)).apply s₂
    let s₄ := (Eff.setReg ⟨.LND_ERRENT, u, 0⟩ (putF Fld.LND_ERRENT_VALID (s₃.rd .LND_ERRENT u) 1)).apply s₃
    (Eff.setReg ⟨.LND_ERRIDX, u, 0⟩ (BitVec.ofNat 64 idx)).apply s₄ := by
  simp only [noteCause, run_get, run_all_cons, run_all_nil, run_wr, run_modLu, run_wrF, run_setF, landing_setReg]

/-- A bit of LND_ERR set reads 1, whatever stood there (R153). -/
theorem cause_bit_implemented (v : Word) :
    ((v ||| BitVec.ofNat 64 (2 ^ c.bit)) &&& regMask .LND_ERR).getLsbD c.bit = true := by
  have hbit : (BitVec.ofNat 64 (2 ^ c.bit)).getLsbD c.bit = true ∧ (regMask .LND_ERR).getLsbD c.bit = true := by
    cases c <;> decide
  simp only [BitVec.getLsbD_and, BitVec.getLsbD_or, hbit, Bool.or_true, Bool.and_true]

/-- A cause stands in LND_ERR, whichever it is (R153). -/
theorem luCause_err : (((luCause u c entry idx).run s).2.rd .LND_ERR u).getLsbD c.bit = true := by
  have hbit := cause_bit_implemented c (s.rd .LND_ERR u)
  cases hc : (s.landing u).caused with
  | true =>
    rw [luCause_run_later c entry idx hc, State.rd_setReg_same _ _ _ _ _ (by decide)]
    exact hbit
  | false =>
    rw [luCause_run_first c entry idx hc, (voteSkip_within u).rd .LND_ERR (by decide), noteCause_run]
    simp (disch := decide) only [State.rd_setReg_name_ne, rd_setLu, State.rd_setReg_same, hbit]

section First
variable (hc : (s.landing u).caused = false)
include hc

/-- The first cause of a step is noted in the unit (R154). -/
theorem luCause_landing : ((luCause u c entry idx).run s).2.landing u = { s.landing u with caused := true } := by
  rw [luCause_run_first c entry idx hc, (voteSkip_within u).same .lu (by decide), noteCause_run]
  simp only [landing_setReg, landing_setLu, if_true]

/-- The first cause of a step names its entry and its element (R154). -/
theorem luCause_names : ((luCause u c entry idx).run s).2.rdF .LND_ERRENT Fld.LND_ERRENT_VALID u = 1 ∧
    ((luCause u c entry idx).run s).2.rdF .LND_ERRENT Fld.LND_ERRENT_ENTRY u = entry % 2 ^ 16 ∧
    ((luCause u c entry idx).run s).2.rd .LND_ERRIDX u = BitVec.ofNat 64 idx &&& regMask .LND_ERRIDX := by
  have hv (f : Field) : ((luCause u c entry idx).run s).2.rdF .LND_ERRENT f u =
      ((noteCause u c entry idx).run s).2.rdF .LND_ERRENT f u := by
    rw [luCause_run_first c entry idx hc]
    exact congrArg (getF f) ((voteSkip_within u).rd .LND_ERRENT (by decide) _ _ _)
  rw [hv, hv, luCause_run_first c entry idx hc, (voteSkip_within u).rd .LND_ERRIDX (by decide), noteCause_run]
  refine ⟨?_, ?_, ?_⟩
  · simp (disch := decide) only [State.rdF_setReg_name_ne, State.rdF_setReg_field, Nat.one_mod_two_pow]
  · simp (disch := decide) only [State.rdF_setReg_name_ne, State.rdF_setReg_apart, State.rdF_setReg_field]
  · simp (disch := decide) only [State.rd_setReg_same]

/-- The first cause of a step, before the vote, votes skip (R154). -/
theorem luCause_votes_skip (hv : luVoted s u = false) :
    ((luCause u c entry idx).run s).2.rdF .LND_STATUS Fld.LND_STATUS_VOTED u = 1 ∧
    ((luCause u c entry idx).run s).2.rdF .LND_STATUS Fld.LND_STATUS_VOTE u = 0 ∧
    ((luCause u c entry idx).run s).2.rdF .LND_STATUS Fld.LND_STATUS_STATE u = 4 := by
  have hs : (((noteCause u c entry idx).run s).2.rdF .LND_STATUS Fld.LND_STATUS_VOTED u == 1) = false := by
    rw [noteCause_run]
    simp (disch := decide) only [State.rdF_setReg_name_ne, rdF_setLu]
    exact hv
  rw [luCause_run_first c entry idx hc]
  generalize ((noteCause u c entry idx).run s).2 = m at hs ⊢
  simp only [voteSkip, run_get, hs, Bool.false_eq_true, if_false, run_all_cons, run_all_nil, run_setF, run_wrF, run_bumpF]
  refine ⟨?_, ?_, ?_⟩ <;>
    simp (disch := decide) [State.rdF_setReg_name_ne, State.rdF_setReg_apart, State.rdF_setReg_field]

end First

end Causes

/-! ### What the accesses of a unit change -/

/-- The parts and the registers that the lanes change as they land. -/
def laneParts : List Part := .lu :: memParts
/-- See `laneParts`. -/
def laneNames : List RegName := .LND_FLAGS :: memNames

@[simp] theorem mem_laneParts (p : Part) : p ∈ laneParts ↔ p = .lu ∨ p ∈ memParts := List.mem_cons
@[simp] theorem mem_laneNames (n : RegName) : n ∈ laneNames ↔ n = .LND_FLAGS ∨ n ∈ memNames := List.mem_cons

variable {α : Type} {x : LayerEntry} (u : Nat)

theorem Prog.Within.toLanes {p : Prog α} (h : p.Within memParts memNames) : p.Within laneParts laneNames :=
  h.mono (List.subset_cons_self _ _) (List.subset_cons_self _ _)

theorem luRead_within (va n : Nat) (keep : Bool) (f : Nat → Nat) : (luRead u va n keep f).Within readParts memNames := by
  refine Within.get fun s => Within.bind (vget_within _ _ _ _) fun r => ?_
  cases r <;> exact Within.ret _

theorem luWrite_within (va : Nat) (d : List Byte) (f : Nat → Nat) : (luWrite u va d f).Within memParts memNames := by
  refine Within.get fun s => Within.bind (vput_within _ _ _) fun r => ?_
  cases r <;> simp (maxDischargeDepth := 30)

theorem luRecord_within (va n : Nat) (keep : Bool) : (luRecord u va n keep).Within readParts memNames :=
  Within.bindE (luRead_within _ _ _ _ _) fun _ => Within.ret _

theorem luElems_within (base size i n : Nat) (keep : Bool) : (luElems u base size i n keep).Within readParts memNames :=
  Within.bindE (luRead_within _ _ _ _ _) fun _ => Within.ret _

theorem luPut_within (base size i : Nat) (l : List Nat) : (luPut u base size i l).Within memParts memNames :=
  luWrite_within _ _ _ _

theorem readEntry_within (i : Nat) : (readEntry u i).Within readParts memNames := Within.get fun _ => luRecord_within _ _ _ _

theorem readHeader_within (x : LayerEntry) : (readHeader u x).Within readParts memNames :=
  Within.get fun _ => luRecord_within _ _ _ _

theorem addFlags_lanes_within (f : Nat) : (addFlags .LND_FLAGS f u).Within laneParts laneNames := by
  simp

theorem modEntry_within (i : Nat) (f : LuEntry → LuEntry) : (modEntry u i f).Within laneParts laneNames := by
  simp [modEntry]

theorem emitCopy_within (x : LayerEntry) (base lo : Nat) (l : List Nat) :
    (emitCopy u x base lo l).Within memParts laneNames := by
  have hw (va d f) : (luWrite u va d f).Within memParts laneNames :=
    (luWrite_within _ _ _ _).mono (List.Subset.refl _) (List.subset_cons_self _ _)
  simp (maxDischargeDepth := 30) [emitCopy, luPut, hw]

/-- Forming the working copy leaves what the unit knows of its entries alone. -/
theorem emitGroup_within (i : Nat) (x : LayerEntry) (base t : Nat) : (emitGroup u i x base t).Within memParts laneNames := by
  have hr (base size i n keep) : (luElems u base size i n keep).Within memParts laneNames :=
    (luElems_within _ _ _ _ _ _).toMem.mono (List.Subset.refl _) (List.subset_cons_self _ _)
  simp (maxDischargeDepth := 30) [emitGroup, hr, emitCopy_within]

theorem countLanded_within (n : Nat) (wide : Bool) : (countLanded u n wide).Within memParts memNames := by
  simp (maxDischargeDepth := 30) [countLanded, (count_within _ _ _ _).toMem]

theorem closeEntry_within (i : Nat) (x : LayerEntry) : (closeEntry u i x).Within laneParts laneNames := by
  simp (maxDischargeDepth := 30) [closeEntry, (readHeader_within _ _).toMem.toLanes, (luWrite_within _ _ _ _).toLanes,
    modEntry_within]

theorem beginEntry_within (i : Nat) (x : LayerEntry) : (beginEntry u i x).Within laneParts laneNames := by
  unfold beginEntry
  refine Within.get fun s => Within.ite (Within.ret _) (Within.bindE (readHeader_within _ _).toMem.toLanes fun hdr =>
    Within.bindE (Within.ite (luRecord_within _ _ _ _).toMem.toLanes (Within.ret _)) fun prec =>
      Within.seq (addFlags_lanes_within _ _) ?_)
  split
  · exact Within.ret _
  · exact Within.seq (modEntry_within _ _ _) (Within.ret _)

theorem landTile_within (x : LayerEntry) (t : LandTile) : (landTile u x t).Within laneParts laneNames := by
  have hr (base size i n keep) : (luElems u base size i n keep).Within laneParts laneNames :=
    (luElems_within _ _ _ _ _ _).toMem.toLanes
  have hp (base size i l) : (luPut u base size i l).Within laneParts laneNames := (luPut_within _ _ _ _ _).toLanes
  have hg {i x base t} : (emitGroup u i x base t).Within laneParts laneNames :=
    (emitGroup_within _ _ _ _ _).mono (List.subset_cons_self _ _) (List.Subset.refl _)
  unfold landTile
  refine Within.get fun s => ?_
  dsimp only
  refine Within.bindE (hr _ _ _ _ _) fun w => Within.bindE (hr _ _ _ _ _) fun m1 =>
    Within.bindE (Within.ite (Within.ret _) (hr _ _ _ _ _)) fun m2 => Within.bind (addFlags_lanes_within _ _) fun _ => ?_
  split
  · exact Within.ret _
  · simp (maxDischargeDepth := 30) only [hp, hg, Within.bindE, Within.bind, Within.ite, Within.ret, modEntry_within, (countLanded_within _ _ _).toLanes,
      closeEntry_within, implies_true]

theorem phaseATile_within (x : LayerEntry) (t : LandTile) : (phaseATile u x t).Within laneParts laneNames := by
  have hr (base size i n keep) : (luElems u base size i n keep).Within laneParts laneNames :=
    (luElems_within _ _ _ _ _ _).toMem.toLanes
  have hp (base size i l) : (luPut u base size i l).Within laneParts laneNames := (luPut_within _ _ _ _ _).toLanes
  unfold phaseATile
  refine Within.get fun s => ?_
  dsimp only
  refine Within.bindE (hr _ _ _ _ _) fun m1 => Within.bindE (hr _ _ _ _ _) fun m2 =>
    Within.bind (addFlags_lanes_within _ _) fun _ => ?_
  split
  · exact Within.ret _
  · simp (maxDischargeDepth := 30) only [hp, Within.bindE, Within.bind, Within.ret, modEntry_within, implies_true]

/-! ### A tile landed -/

section Landed
variable {u : Nat} {s t : State} {tl : LandTile}

theorem luEntry_of_landing_eq (h : t.landing u = s.landing u) (i : Nat) : t.luEntry u i = s.luEntry u i := by
  unfold State.luEntry; rw [h]

@[simp] theorem run_modEntry_luEntry (i : Nat) (f : LuEntry → LuEntry) (j : Nat) :
    ((modEntry u i f).run s).2.luEntry u j = if j = i then f (s.luEntry u i) else s.luEntry u j := by
  unfold State.luEntry modEntry
  simp [Tab.at_upd]

/-- Closing an entry keeps the tiles that have landed. -/
theorem closeEntry_landed {i : Nat} (h : Reads (closeEntry u i x) s () t) : (t.luEntry u i).landed = (s.luEntry u i).landed := by
  unfold closeEntry at h
  rw [reads_get] at h
  dsimp only at h
  split at h
  · obtain ⟨-, rfl⟩ := reads_ret.1 h
    rfl
  · obtain ⟨hdr, m, hhdr, h⟩ := reads_bindE.1 h
    obtain ⟨_, m', hput, h⟩ := reads_bindE.1 h
    rw [reads_seq, reads_ret] at h
    obtain ⟨-, rfl⟩ := h
    have e : m'.landing u = s.landing u :=
      (hput.same (luWrite_within _ _ _ _) .lu (by decide) u).trans (hhdr.same (readHeader_within _ _) .lu (by decide) u)
    rw [run_modEntry_luEntry, if_pos rfl, luEntry_of_landing_eq e]

/-- A tile that the lanes land is among the tiles landed (R143). -/
theorem landTile_landed (h : Reads (landTile u x tl) s () t) : tl.tile ∈ (t.luEntry u tl.entry).landed := by
  unfold landTile at h
  rw [reads_get] at h
  dsimp only at h
  obtain ⟨w, _, -, h⟩ := reads_bindE.1 h
  obtain ⟨m1, _, -, h⟩ := reads_bindE.1 h
  obtain ⟨m2, _, -, h⟩ := reads_bindE.1 h
  rw [reads_bind] at h
  split at h
  · exact absurd (reads_ret.1 h).1 (by simp)
  · obtain ⟨_, _, -, h⟩ := reads_bindE.1 h
    obtain ⟨_, _, -, h⟩ := reads_bindE.1 h
    obtain ⟨_, m, -, h⟩ := reads_bindE.1 h
    rw [reads_bind, reads_bind] at h
    obtain ⟨_, m', hgroup, hclose⟩ := reads_bindE.1 h
    rw [closeEntry_landed hclose, luEntry_of_landing_eq (hgroup.same (emitGroup_within _ _ _ _ _) .lu (by decide) u),
      luEntry_of_landing_eq ((countLanded_within _ _ _).same .lu (by decide) _ u), run_modEntry_luEntry, if_pos rfl]
    exact List.mem_append_right _ (List.mem_singleton_self _)

/-- A tile of an OPT 2 entry through phase A is among the tiles landed (R145). -/
theorem phaseATile_landed (h : Reads (phaseATile u x tl) s () t) : tl.tile ∈ (t.luEntry u tl.entry).landed := by
  unfold phaseATile at h
  rw [reads_get] at h
  dsimp only at h
  obtain ⟨m1, _, -, h⟩ := reads_bindE.1 h
  obtain ⟨m2, _, -, h⟩ := reads_bindE.1 h
  rw [reads_bind] at h
  split at h
  · exact absurd (reads_ret.1 h).1 (by simp)
  · obtain ⟨_, _, -, h⟩ := reads_bindE.1 h
    obtain ⟨_, m, -, h⟩ := reads_bindE.1 h
    rw [reads_bind, reads_ret] at h
    obtain ⟨-, rfl⟩ := h
    rw [run_modEntry_luEntry, if_pos rfl]
    exact List.mem_append_right _ (List.mem_singleton_self _)

end Landed

end Sys2Proof.Machine

/-! ### Landing takes tiles and votes -/

namespace Sys2Proof.Machine
open Prog

variable {s : State} {u : Nat}

/-- With no contribution held there is none to offer again (R268). -/
theorem ceRetry_run {n : Nat} (h : (s.engine n).held = []) : (ceRetry n).run s = ((), s) := by
  simp [ceRetry, h, offerHeld]

theorem luShow_within (u : Nat) : (luShow u).Within [.reg] [.LND_STATUS] := by
  simp (maxDischargeDepth := 30) [luShow]

/-- A unit that has voted shows its vote, whatever it holds (R158). -/
theorem luShow_run_voted (h : luVoted s u = true) : (luShow u).run s = ((), s) := by
  simp [luShow, h]

/-! #### The lanes take a tile (R136, R137) -/

/-- The state once the lanes have taken a tile and left the rest of the buffer. -/
def State.popped (s : State) (u : Nat) (tl : LandTile) (r : List LandTile) : State :=
  (Eff.setLu u { s.landing u with buf := r, inHand := some tl.entry }).apply s

@[simp] theorem landing_popped (tl : LandTile) (r : List LandTile) :
    (s.popped u tl r).landing u = { s.landing u with buf := r, inHand := some tl.entry } := by
  simp [State.popped]

/-- A unit that works on no step, or holds no tile of it, lands nothing. -/
theorem tileLand_run_idle (h : luActive s u = false ∨ takeTile (luStep s u) (s.landing u).buf = none) :
    (tileLand u).run s = ((), s) := by
  unfold tileLand
  rcases h with h | h
  · simp [h]
  · cases luActive s u <;> simp [h]

section Takes
variable {tl : LandTile} {r : List LandTile} (ha : luActive s u = true)
  (ht : takeTile (luStep s u) (s.landing u).buf = some (tl, r))
include ha ht

/-- A unit that has voted or met a cause discards the tile. -/
theorem tileLand_run_discard (hl : luLands s u = false) : (tileLand u).run s = (luShow u).run (s.popped u tl r) := by
  simp [tileLand, ha, ht, hl, State.popped]

/-- A tile that came poisoned is a cause (R269). -/
theorem tileLand_run_poison (hl : luLands s u = true) (hp : tl.poison = true) : (tileLand u).run s =
    (luShow u).run ((luCause u .poison tl.entry (4096 * tl.tile)).run (s.popped u tl r)).2 := by
  simp [tileLand, ha, ht, hl, hp, State.popped]

/-- A tile that the lanes land well leaves the buffer after its landing. -/
theorem tileLand_run_lands {x : LayerEntry} {s₁ s₂ s₃ : State} (hl : luLands s u = true) (hp : tl.poison = false)
    (hr : Reads (readEntry u tl.entry) s x s₁) (hb : Reads (beginEntry u tl.entry x) s₁ () s₂)
    (hd : Reads (if x.opt = 2 then phaseATile u x tl else landTile u x tl) s₂ () s₃) :
    (tileLand u).run s = (luShow u).run (s₃.popped u tl r) := by
  have h : Reads ((readEntry u tl.entry).bindE fun x => (beginEntry u tl.entry x).bindE fun _ =>
      if x.opt = 2 then phaseATile u x tl else landTile u x tl) s () s₃ :=
    reads_bindE.2 ⟨x, s₁, hr, reads_bindE.2 ⟨(), s₂, hb, hd⟩⟩
  simp [tileLand, ha, ht, hl, hp, State.popped, h.run_eq]

end Takes

/-- Landing a tile or taking it through phase A keeps to the parts of the lanes, and lands the tile. -/
theorem landOrPhaseA_landed {x : LayerEntry} {tl : LandTile} {t : State}
    (h : Reads (if x.opt = 2 then phaseATile u x tl else landTile u x tl) s () t) :
    tl.tile ∈ (t.luEntry u tl.entry).landed := by
  split at h
  · exact phaseATile_landed h
  · exact landTile_landed h

/-- TILE_LAND leaves what the lanes leave, where no contribution waits for the slot. -/
theorem completes_tileLand {u : Fin 4} {t : State} {P : State → Prop} (hrun : ((tileLand u).run s).2 = t)
    (hheld : (t.engine u).held = []) (hP : P t) : Completes (.tileLand u) s P := by
  refine Completes.of_next (p := (tileLand u).seq (ceRetry u)) rfl ?_
  rw [run_seq, hrun, ceRetry_run hheld]
  exact hP

/-! #### The commands -/

/-- LND_CMD.ABORT before the vote is the cause FORCED, and casts the skip vote where it is the first; else it sets
CMDIGN (R153, R154, R158). -/
theorem lndAbort_completes (u : Fin 4) (s : State) : Completes (.lndAbort u) s fun t =>
    if luActive s u = true ∧ luVoted s u = false then
      (t.rd .LND_ERR u).getLsbD 8 = true ∧ ((s.landing u).caused = false →
        (t.landing u).caused = true ∧ t.rdF .LND_STATUS Fld.LND_STATUS_VOTED u = 1 ∧
        t.rdF .LND_STATUS Fld.LND_STATUS_VOTE u = 0 ∧ t.rdF .LND_STATUS Fld.LND_STATUS_STATE u = 4 ∧
        t.rdF .LND_ERRENT Fld.LND_ERRENT_VALID u = 1 ∧
        t.rdF .LND_ERRENT Fld.LND_ERRENT_ENTRY u = (s.landing u).inHand.getD 0 % 2 ^ 16 ∧ t.rd .LND_ERRIDX u = 0xFFFFFFFF)
    else t.rdF .LND_ERR Fld.LND_ERR_CMDIGN u = 1 ∧ t.landing u = s.landing u := by
  refine Completes.of_next (p := lndAbortDo u) rfl ?_
  unfold lndAbortDo
  rw [run_get]
  by_cases h : luActive s u = true ∧ luVoted s u = false
  · rw [if_pos h, if_neg (by simp [h])]
    refine ⟨luCause_err .forced _ _, fun hc => ?_⟩
    obtain ⟨hvoted, hvote, hstate⟩ := luCause_votes_skip .forced ((s.landing u).inHand.getD 0) noElement hc h.2
    obtain ⟨hvalid, hentry, hidx⟩ := luCause_names .forced ((s.landing u).inHand.getD 0) noElement hc
    refine ⟨?_, hvoted, hvote, hstate, hvalid, hentry, hidx⟩
    rw [luCause_landing .forced _ _ hc]
  · rw [if_neg h, if_pos (by revert h; cases luActive s u <;> cases luVoted s u <;> decide), run_setF]
    exact ⟨by rw [State.rdF_setReg_field _ (by decide)]; rfl, landing_setReg _ _ _ _⟩

/-- A unit whose entries are all complete votes commit, and one with an entry incomplete does nothing (R157). -/
theorem luVote_completes (u : Fin 4) {s s₁ : State} {ok : Bool} (hl : luLands s u = true)
    (h : Reads (entriesDone u) s ok s₁) : Completes (.luVote u) s fun t =>
      if ok then t.rdF .LND_STATUS Fld.LND_STATUS_VOTED u = 1 ∧ t.rdF .LND_STATUS Fld.LND_STATUS_VOTE u = 1 ∧
        t.rdF .LND_STATUS Fld.LND_STATUS_STATE u = 4
      else t = s₁ := by
  refine ⟨_, rfl, ?_⟩
  simp only [run_get, hl, Bool.not_true, Bool.false_eq_true, if_false, run_bind, h.run_eq]
  cases ok with
  | false => exact rfl
  | true =>
    simp only [if_true, run_all_cons, run_all_nil, run_setF, run_wrF]
    refine ⟨?_, ?_, ?_⟩ <;>
      simp (disch := decide) [State.rdF_setReg_name_ne, State.rdF_setReg_apart, State.rdF_setReg_field]

/-- A unit that drains and has voted enters DRAINED, and any other stays as it is (R155). -/
theorem luDrained_completes (u : Fin 4) (s : State) : Completes (.luDrained u) s fun t =>
    if (s.landing u).drain = true ∧ luVoted s u = true then
      t.rdF .LND_STATUS Fld.LND_STATUS_STATE u = 6 ∧ t.landing u = { s.landing u with drain := false }
    else t = s := by
  refine ⟨_, rfl, ?_⟩
  rw [run_get]
  by_cases h : (s.landing u).drain = true ∧ luVoted s u = true
  · dsimp only
    rw [if_pos h, if_pos (by simp [h])]
    simp only [run_seq, run_wrF, run_modLu, landing_setReg, landing_setLu, if_true, and_true]
    rw [rdF_setLu, State.rdF_setReg_field _ (by decide)]
    rfl
  · dsimp only
    rw [if_neg h, if_neg (by simpa using h)]
    rfl

/-- Settles O18: the commands each by what they leave of the unit and its registers, and the lanes by the case of the
tile; a step of the lanes that lands is the landing itself, and then the tile's leaving of the buffer. -/
theorem landingTakesTilesAndVotes : Obligations.LandingTakesTilesAndVotes := by
  refine ⟨fun u s => ⟨lndAbort_completes u s, fun ok s₁ => luVote_completes u, luDrained_completes u s⟩,
    fun u s hheld => ⟨fun h => ?_, fun tl r ha ht => ⟨fun hl => ?_, fun hl hp => ?_, fun x s₁ s₂ s₃ hl hp hr hb hd => ?_⟩⟩⟩
  case _ => exact completes_tileLand (by rw [tileLand_run_idle h]) hheld ⟨rfl, fun _ => rfl⟩
  case _ =>
    have hw := luShow_within u
    have hlu := hw.same .lu (by decide) (s.popped u tl r) u
    refine completes_tileLand (t := ((luShow u).run (s.popped u tl r)).2) (by rw [tileLand_run_discard ha ht hl]) ?_
      ⟨?_, ?_, hw.same .mem (by decide) (s.popped u tl r)⟩
    · rw [hw.same .ce (by decide)]
      exact hheld
    · rw [hlu, landing_popped]
    · rw [hlu, landing_popped]
  case _ =>
    obtain ⟨⟨-, hv⟩, hc⟩ : (luActive s u = true ∧ luVoted s u = false) ∧ (s.landing u).caused = false := by
      simpa [luLands, and_assoc] using hl
    have hw := luCause_within u .poison tl.entry (4096 * tl.tile)
    have hcp : ((s.popped u tl r).landing u).caused = false := by rw [landing_popped]; exact hc
    obtain ⟨hvoted, hvote, -⟩ := luCause_votes_skip .poison tl.entry (4096 * tl.tile) hcp hv
    have hshow : luVoted ((luCause u .poison tl.entry (4096 * tl.tile)).run (s.popped u tl r)).2 u = true := by
      simp [luVoted, hvoted]
    refine completes_tileLand (t := ((luCause u .poison tl.entry (4096 * tl.tile)).run (s.popped u tl r)).2)
      (by rw [tileLand_run_poison ha ht hl hp, luShow_run_voted hshow]) ?_
      ⟨?_, ?_, luCause_err .poison _ _, hvoted, hvote, hw.same .mem (by decide) (s.popped u tl r)⟩
    · rw [hw.same .ce (by decide)]
      exact hheld
    · rw [luCause_landing .poison _ _ hcp, landing_popped]
    · rw [luCause_landing .poison _ _ hcp]
  case _ =>
    have hw := luShow_within u
    have hlu := hw.same .lu (by decide) (s₃.popped u tl r) u
    have hdw : (if x.opt = 2 then phaseATile u x tl else landTile u x tl).Within laneParts laneNames :=
      Within.ite (phaseATile_within _ _ _) (landTile_within _ _ _)
    refine completes_tileLand (t := ((luShow u).run (s₃.popped u tl r)).2)
      (by rw [tileLand_run_lands ha ht hl hp hr hb hd]) ?_
      ⟨?_, ?_, hw.same .mem (by decide) (s₃.popped u tl r)⟩
    · have hce : s₃.engine u = s.engine u := (hd.same hdw .ce (by decide) u).trans
        ((hb.same (beginEntry_within _ _ _) .ce (by decide) u).trans (hr.same (readEntry_within _ _) .ce (by decide) u))
      rw [hw.same .ce (by decide)]
      exact hce ▸ hheld
    · rw [hlu, landing_popped]
    · have := landOrPhaseA_landed hd
      unfold State.luEntry at this ⊢
      rwa [hlu, landing_popped]

end Sys2Proof.Machine

/-! ### What a program keeps -/

namespace Sys2Proof.Machine
namespace Prog

/-- A program leaves what `g` reads of the state. -/
def Keeps {α β : Type} (g : State → β) (p : Prog α) : Prop := ∀ s, g (p.run s).2 = g s

section
variable {α β γ δ ε : Type} {g : State → β} {l : List Part} {n : List RegName}

@[simp] theorem Keeps.ret (a : α) : (Prog.ret a).Keeps g := fun _ => rfl

@[simp] theorem Keeps.skip : Prog.skip.Keeps g := fun _ => rfl

@[simp] theorem Keeps.get {k : State → Prog α} (h : ∀ s, (k s).Keeps g) : (Prog.get k).Keeps g := fun s => h s s

@[simp] theorem Keeps.bind {p : Prog α} {f : α → Prog γ} (hp : p.Keeps g) (hf : ∀ a, (f a).Keeps g) :
    (p.bind f).Keeps g := fun s => by rw [run_bind, hf, hp]

@[simp] theorem Keeps.seq {p : Prog Unit} {q : Prog γ} (hp : p.Keeps g) (hq : q.Keeps g) : (p.seq q).Keeps g :=
  hp.bind fun _ => hq

@[simp] theorem Keeps.ite {c : Prop} [Decidable c] {p q : Prog α} (hp : p.Keeps g) (hq : q.Keeps g) :
    (if c then p else q).Keeps g := by split <;> assumption

@[simp] theorem Keeps.when {c : Bool} {p : Prog Unit} (hp : p.Keeps g) : (Prog.when c p).Keeps g := Keeps.ite hp .skip

@[simp] theorem Keeps.all_nil : (Prog.all []).Keeps g := .skip

@[simp] theorem Keeps.all_cons {p : Prog Unit} {r : List (Prog Unit)} (hp : p.Keeps g) (hr : (Prog.all r).Keeps g) :
    (Prog.all (p :: r)).Keeps g := hp.seq hr

theorem Keeps.each_mem {xs : List α} {f : α → Prog Unit} (h : ∀ a ∈ xs, (f a).Keeps g) : (Prog.each xs f).Keeps g := by
  induction xs with
  | nil => exact .skip
  | cons a r ih => exact (h a (by simp)).seq (ih fun b hb => h b (by simp [hb]))

@[simp] theorem Keeps.each {xs : List α} {f : α → Prog Unit} (h : ∀ a, (f a).Keeps g) : (Prog.each xs f).Keeps g :=
  .each_mem fun a _ => h a

/-- An effect that leaves what `g` reads. -/
theorem Keeps.one {e : Eff} (h : ∀ s, g (e.apply s) = g s) : (Prog.one e).Keeps g := h

/-- What a program keeps, a function of it is kept too. -/
theorem Keeps.comp {p : Prog α} (h : p.Keeps g) (f : β → γ) : p.Keeps fun s => f (g s) := fun s => congrArg f (h s)

end

end Prog
end Sys2Proof.Machine

/-! ### Host commands: a forced turnaround of a device at fault

A register record of an image that is due starts a load as the turnaround begins (R315); the state that the load
gives its binding shows the device's fault, and the fault ends every command that runs (R399). -/

namespace Sys2Proof.Machine
open Prog

variable {s : State} {q : Nat}

/-- The command that a queue holds. -/
def State.cmdOf (s : State) (q : Nat) : Option HCmd := (s.hqueue q).cmd

theorem cmdOf_setHq (r : Nat) (v : HQueue) : ((Eff.setHq r v).apply s).cmdOf q = if q = r then v.cmd else s.cmdOf q := by
  unfold State.cmdOf State.hqueue
  rw [Eff.setHq_hq, Tab.at_upd]
  split <;> rfl

theorem Prog.Within.keeps_cmd {α : Type} {p : Prog α} {l : List Part} {n : List RegName} (h : p.Within l n)
    (hq : Part.hq ∉ l) : p.Keeps fun s => s.cmdOf q := fun s => congrArg HQueue.cmd (h.same .hq hq s q)

theorem modHq_keeps_cmd {r : Nat} {f : HQueue → HQueue} (h : ∀ k, (f k).cmd = k.cmd) :
    (modHq r f).Keeps fun s => s.cmdOf q := fun s => by
  unfold modHq
  rw [run_get, run_one]
  dsimp only
  rw [cmdOf_setHq, h]
  split
  · next e => rw [e]; rfl
  · rfl

theorem cmdOf_run_modBnd (b : Nat) (f : Binding → Binding) : ((modBnd b f).run s).2.cmdOf q = s.cmdOf q := rfl

/-- The entry in the completion ring leaves the command of every queue. -/
theorem writeCompletion_keeps_cmd (r cid status detail result : Nat) (irq : Bool) :
    (writeCompletion r cid status detail result irq).Keeps fun s => s.cmdOf q := by
  unfold writeCompletion
  refine .get fun s => .all_cons (.ite ((physPut_within _ _).keeps_cmd (by decide)) (.one fun _ => rfl)) <|
    .all_cons (Within.keeps_cmd (l := [.reg]) (n := [.HCI_QSTAT]) (by simp) (by decide)) <|
    .all_cons (modHq_keeps_cmd fun _ => rfl) <|
    .all_cons (.get fun s => .when (Within.keeps_cmd (l := [.reg]) (n := [.HCI_QSTAT]) (by simp [setQstate]) (by decide))) <|
    .all_cons (.ite (.one fun _ => rfl) (.when (.one fun _ => rfl))) .all_nil

/-- A completion leaves its queue without a command, and the other queues as they are. -/
theorem complete_cmd (r status detail result : Nat) :
    ((complete r status detail result).run s).2.cmdOf q = if q = r then none else s.cmdOf q := by
  unfold complete
  rw [run_get]
  dsimp only
  cases h : (s.hqueue r).cmd with
  | none =>
    dsimp only [run_skip]
    split
    · next e => rw [e]; exact h
    · rfl
  | some c =>
    have h : ((Prog.when (!(s.hqueue r).lost) (writeCompletion r c.cid status detail result c.irq)).seq
        (Prog.when ((s.hqueue r).ending && !(s.hqueue r).lost) (setQstate r 0))).Keeps fun s => s.cmdOf q :=
      .seq (.when (writeCompletion_keeps_cmd _ _ _ _ _ _))
        (Within.keeps_cmd (l := [.reg]) (n := [.HCI_QSTAT]) (by simp [setQstate]) (by decide))
    have hs : _ = s.cmdOf q := h s
    rw [run_seq] at hs
    simp only [run_all_cons, run_all_nil, modHq, run_get, run_one, cmdOf_setHq]
    exact congrArg (if q = r then none else ·) hs

/-- Every command of a queue ends where all are aborted (R399). -/
theorem abortCommands_cmd (hq : q < 17) : ((abortCommands fun _ => true).run s).2.cmdOf q = none := by
  have ends : ∀ (l : List Nat) (s : State), s.cmdOf q = none ∨ q ∈ l →
      ((each l fun r => complete r hcAborted 0 0).run s).2.cmdOf q = none := by
    intro l
    induction l with
    | nil => simp
    | cons r l ih =>
      intro s h
      rw [run_each_cons]
      refine ih _ ?_
      rw [complete_cmd]
      by_cases e : q = r
      · simp [e]
      · simpa [e] using h
  refine ends _ s ?_
  cases h : s.cmdOf q with
  | none => exact .inl rfl
  | some c =>
    unfold State.cmdOf at h
    exact .inr (by simp [State.queuesWith, hq, h])

/-- A device that is at fault and does not show it yet ends every command as it comes to show it (R398, R399). -/
theorem showDevice_cmd (hq : q < 17) (hf : s.faultCause ≠ 0) (hs : s.rdF .GLB_STATE Fld.GLB_STATE_STATE ≠ 6) :
    (showDevice.run s).2.cmdOf q = none := by
  have hd : s.devState = 6 := by simp [State.devState, hf]
  unfold showDevice
  simp only [run_get, run_all_cons, run_all_nil, hd, beq_self_eq_true, Bool.true_and, bne_iff_ne, ne_eq, hs,
    not_false_eq_true, Prog.when, if_true]
  exact abortCommands_cmd hq

/-- A device whose bring-up stopped at stage 8, and that does not show its fault yet. -/
def State.hidesFault (s : State) : Prop := s.stage = 8 ∧ s.rdF .GLB_STATE Fld.GLB_STATE_STATE ≠ 6

theorem State.hidesFault.cause (h : s.hidesFault) : s.faultCause ≠ 0 := by simp [State.faultCause, h.1]

theorem Prog.Within.hidesFault {p : Prog Unit} {l : List Part} {n : List RegName} (hp : p.Within l n)
    (hb : RegName.JNL_BRINGUP ∉ n) (hg : RegName.GLB_STATE ∉ n) (h : s.hidesFault) : (p.run s).2.hidesFault := by
  unfold State.hidesFault State.stage State.rdF
  rw [hp.rd _ hb, hp.rd _ hg]
  exact h

/-- Where a binding's state changes, a fault not shown yet ends every command. -/
theorem setBstate_cmd (hq : q < 17) (h : s.hidesFault) {b st : Nat} (hb : s.bstate b ≠ st) :
    ((setBstate b st).run s).2.cmdOf q = none := by
  have hw : ((wrF .BND_STATE Fld.BND_STATE_STATE st b).seq (glbEvent 2)).Within [.reg, .out] [.BND_STATE, .GLB_EVT] := by
    simp (maxDischargeDepth := 30) [glbEvent]
  have ht := hw.hidesFault (by decide) (by decide) h
  unfold setBstate
  rw [run_get, if_neg hb, run_all_cons, run_all_cons, run_all_cons, run_all_nil, ← run_seq]
  exact showDevice_cmd hq ht.cause ht.2

/-- What a load writes before the state of its binding. -/
def loadStarts (b addr : Nat) (rb : Bool) (host : Option Nat) : Prog Unit := Prog.all [
  .one (.setLoad (some ⟨addr, b, rb, host⟩)),
  wr .BND_IMG_STATUS 1, freeVal.bind fun v => wrF .BND_IMG_STATUS Fld.BND_IMG_STATUS_PROGRESS v.toNat,
  wrF .BND_STATUS Fld.BND_STATUS_LOADBUSY 1]

theorem loadStarts_within (b a : Nat) (rb : Bool) (host : Option Nat) :
    (loadStarts b a rb host).Within [.load, .draws, .reg] [.BND_IMG_STATUS, .BND_STATUS] := by
  refine .all_cons (by simp) <| .all_cons (by simp) <| .all_cons (.bind ?_ (by simp)) (by simp)
  exact .get fun s => .eff (by simp [Eff.PartsIn]) trivial (.ret _)

/-- A load that finds no other and a free binding. -/
theorem imageLoadDo_run_free (hl : s.load = none) {b : Nat} (hb : s.bstate b = 0) (a : Nat) (rb : Bool) (host : Option Nat) :
    (imageLoadDo b a rb host).run s = (setBstate b 1).run ((loadStarts b a rb host).run s).2 := by
  unfold imageLoadDo loadStarts
  simp [hl, hb, Prog.when]

/-- A load that gives a free binding the state LOADING ends every command of a device that hides a fault. -/
theorem imageLoadDo_cmd (hq : q < 17) (h : s.hidesFault) (hl : s.load = none) {b : Nat} (hb : s.bstate b = 0)
    (a : Nat) (rb : Bool) (host : Option Nat) : ((imageLoadDo b a rb host).run s).2.cmdOf q = none := by
  have hw := loadStarts_within b a rb host
  rw [imageLoadDo_run_free hl hb]
  refine setBstate_cmd hq (hw.hidesFault (by decide) (by decide) h) ?_
  unfold State.bstate State.rdF at hb ⊢
  rw [hw.rd .BND_STATE (by decide), hb]
  decide

/-! #### A forced turnaround that takes one image -/

/-- What a turnaround that has taken one image does before the image's records of posted registers. -/
def strobeTakes (b : Nat) (d : Option Bool) (i : Image) : Prog Unit := Prog.all [
  modBnd b fun k => { k with turning := some d, decision := none }, showTurn b, takeImage b i]

theorem run_all_each_one {α : Type} (p₁ p₂ p₃ : Prog Unit) (f g : α → Prog Unit) (i : α) :
    (Prog.all [p₁, p₂, Prog.each [i] f, Prog.each [i] g, p₃]).run s =
      p₃.run ((g i).run ((Prog.all [p₁, p₂, f i]).run s).2).2 := by simp

theorem raiseStrobe_cmd {b : Nat} {i : Image} (h : (s.binding b).taken = [i]) (d : Option Bool) :
    ((raiseStrobe b d).run s).2.cmdOf q =
      ((looseRecords b i.records).run ((strobeTakes b d i).run s).2).2.cmdOf q := by
  unfold raiseStrobe
  rw [run_get, h, run_all_each_one, run_get, cmdOf_run_modBnd]
  rfl

/-- One record of a posted register of no group of the binding is written. -/
theorem looseRecords_run_one {b off : Nat} {v : Word} {k : RegKey} (hk : keyAt off = some k) (hp : k.name.info.acc = .pw)
    (ho : s.groupOwner (keyGroup k) ≠ some b) : (looseRecords b [(off, v)]).run s = (pwRecord k v).run s := by
  simp [looseRecords, hk, hp, ho]

/-- A load that a record of BND_IMG_CTRL starts. -/
theorem pwRecord_imgCtrl_run {v : Word} (hb : ((setBusy .bnd false).run s).2.wbusy .bnd = false)
    (hg : flagF Fld.BND_IMG_CTRL_GO v = true) : (pwRecord ⟨.BND_IMG_CTRL, 0, 0⟩ v).run s =
      (imageLoadDo (getF Fld.BND_IMG_CTRL_BIND v) (((setBusy .bnd true).run ((setBusy .bnd false).run s).2).2.rdF .BND_IMG_ADDR Fld.BND_IMG_ADDR_ADDR * 4096) false none).run
        (((setBusy .bnd false).seq ((setBusy .bnd true).seq (wr .BND_IMG_CTRL v))).run s).2 := by
  unfold pwRecord
  simp only [pwBlock, run_seq, pwDo, imgCtrlDo, posted, run_get, hb, hg]
  rfl

/-- A forced turnaround of a binding that steps takes the images that are due. -/
theorem beginForced_run_steps {b : Nat} (h : (s.lus b).isEmpty = false) : (beginForced b).run s =
    (raiseStrobe b none).run ((modBnd b fun k => { k with
      taken := k.armed.filter fun i => i.due (s.binding b).step
      armed := k.armed.filter fun i => !i.due (s.binding b).step }).run s).2 := by
  unfold beginForced
  rw [run_get, h, run_seq, run_seq]
  rfl

/-! #### The counterexample -/

/-- A partial image that is due at once, whose one record starts the load of an image for binding 0. -/
def loadingImage : Image where
  applyStep := 0
  resources := none
  records := [(keyOffset ⟨.BND_IMG_CTRL, 0, 0⟩, putF Fld.BND_IMG_CTRL_GO 0 1)]
  params := none
  restores := []
  bid := 0
  flevel := 0
  rb := false

/-- FORCETURN of binding 1, at the front of a queue. -/
def forceCmd : HCmd := ⟨BitVec.ofNat 512 (0x14 + 1 * 2 ^ 32), 0, false, false⟩

/-- Binding 1 IDLE with Landing Unit 0 and the image armed, the bring-up stopped at stage 8, and the command in
queue 0. -/
def forcedAtFault : State := { State.reset with
  reg := [(⟨.BND_STATE, 1, 0⟩, putF Fld.BND_STATE_STATE 0 2), (⟨.BND_UNITS, 1, 0⟩, 1),
    (⟨.JNL_BRINGUP, 0, 0⟩, putF Fld.JNL_BRINGUP_STAGE 0 8)]
  bnd := [(1, { Binding.init with armed := [loadingImage] })]
  hq := [(0, { HQueue.init with cmd := some forceCmd })] }

/-- The command has begun and the image is taken. -/
def forcedTurns : State := ((modBnd 1 fun k => { k with
  taken := k.armed.filter fun i => i.due (((begin' 0).run forcedAtFault).2.binding 1).step
  armed := k.armed.filter fun i => !i.due (((begin' 0).run forcedAtFault).2.binding 1).step }).run
    ((begin' 0).run forcedAtFault).2).2

/-- The image's record is about to be written. -/
def forcedWrites : State := ((strobeTakes 1 none loadingImage).run forcedTurns).2

/-- The load that the record asks for is about to start. -/
def forcedLoads : State := (((setBusy .bnd false).seq ((setBusy .bnd true).seq
  (wr .BND_IMG_CTRL (putF Fld.BND_IMG_CTRL_GO 0 1)))).run forcedWrites).2

theorem forcedAtFault_runs : forcedAtFault.readyCmd 0 0x14 = some forceCmd ∧ forceCmd.bind' = 1 ∧
    forcedAtFault.forceable 1 = true ∧ forceCmd.bindOk forcedAtFault = true ∧
    (((begin' 0).run forcedAtFault).2.lus 1).isEmpty = false := by decide +kernel

theorem forcedTurns_taken : (forcedTurns.binding 1).taken = [loadingImage] := by decide +kernel

theorem forcedWrites_writes : keyAt (keyOffset ⟨.BND_IMG_CTRL, 0, 0⟩) = some ⟨.BND_IMG_CTRL, 0, 0⟩ ∧
    forcedWrites.groupOwner (keyGroup ⟨.BND_IMG_CTRL, 0, 0⟩) ≠ some 1 ∧
    ((setBusy .bnd false).run forcedWrites).2.wbusy .bnd = false := by decide +kernel

theorem forcedLoads_loads : forcedLoads.hidesFault ∧ forcedLoads.load = none ∧ forcedLoads.bstate 0 = 0 := by
  unfold State.hidesFault
  decide +kernel

/-- The begun command is gone as the turnaround has begun. -/
theorem beginForced_cmd_forced : ((beginForced 1).run ((begin' 0).run forcedAtFault).2).2.cmdOf 0 = none := by
  obtain ⟨-, -, -, -, hlus⟩ := forcedAtFault_runs
  obtain ⟨hk, ho, hb⟩ := forcedWrites_writes
  obtain ⟨hf, hl, hst⟩ := forcedLoads_loads
  rw [beginForced_run_steps hlus]
  change ((raiseStrobe 1 none).run forcedTurns).2.cmdOf 0 = none
  rw [raiseStrobe_cmd forcedTurns_taken]
  change ((looseRecords 1 [(_, _)]).run forcedWrites).2.cmdOf 0 = none
  rw [looseRecords_run_one hk rfl ho, pwRecord_imgCtrl_run hb (by decide)]
  exact imageLoadDo_cmd (by decide) hf hl hst _ _ _

/-- What O53 says of a FORCETURN that may begin: the command has begun. -/
theorem forceturn_begins_of_hostCommands (h : Obligations.HostCommands) (q : Fin 17) {c : HCmd} (hc : s.readyCmd q 0x14 = some c)
    (hf : s.forceable c.bind' = true) : Completes (.hostForceturn q) s fun t => t.cmdOf q = some { c with begun := true } := by
  obtain ⟨-, -, -, -, -, -, hclause, -⟩ := h q none s
  obtain ⟨t, ht, hP⟩ := hclause c hc
  rw [if_pos hf] at hP
  exact ⟨t, ht, hP.2⟩

/-- FORCETURN of a binding that may be forced. -/
theorem exec_hostForceturn (q : Fin 17) {c : HCmd} (hc : s.readyCmd q 0x14 = some c) (hok : c.bindOk s = true) :
    exec (.hostForceturn q) s = .next ((beginForced c.bind').run ((begin' q).run s).2).2 := by
  change Host.Outcome.next _ = _
  simp only [runCmd, run_get, hc, hok, Bool.not_true, Bool.false_eq_true, if_false, run_seq]

/-- Refutes O53: with the device at fault and the fault not yet shown, a register record of the image that a FORCETURN
takes starts a load, the state of whose binding shows the fault; the fault ends the command that the clause expects to
have begun. -/
theorem not_hostCommands : ¬ Obligations.HostCommands := by
  intro h
  obtain ⟨hready, hbind, hforce, hok, -⟩ := forcedAtFault_runs
  obtain ⟨t, ht, hP⟩ := forceturn_begins_of_hostCommands h 0 hready (hbind ▸ hforce)
  obtain rfl : _ = t := Host.Outcome.next.inj ((exec_hostForceturn 0 hready hok).symm.trans ht)
  rw [hbind] at hP
  exact absurd (beginForced_cmd_forced.symm.trans hP) (by simp)

end Sys2Proof.Machine

/-! ### The channels of the Ferry Engine -/

namespace Sys2Proof.Machine
open Prog

/-! #### A channel after an effect -/

section Effects
variable (s : State)

@[simp] theorem ch_setChan (a : Nat) (v : Chan) (c : Nat) :
    ((Eff.setChan a v).apply s).ch c = if c = a then v else s.ch c := by
  unfold State.ch; rw [Eff.setChan_chan, Tab.at_upd]

@[simp] theorem ch_setReg (k : RegKey) (v : Word) (c : Nat) : ((Eff.setReg k v).apply s).ch c = s.ch c := by
  unfold State.ch; rw [Eff.setReg_chan]

@[simp] theorem rd_setChan (a : Nat) (v : Chan) (n : RegName) (i j : Nat) :
    ((Eff.setChan a v).apply s).rd n i j = s.rd n i j := rfl

@[simp] theorem run_modCh (c : Nat) (f : Chan → Chan) :
    (modCh c f).run s = ((), (Eff.setChan c (f (s.ch c))).apply s) := rfl

end Effects

/-- An output once made stays (R400). -/
theorem Prog.run_out_mem {α : Type} (p : Prog α) {s : State} {o : Out} (h : o ∈ s.out) : o ∈ (p.run s).2.out := by
  refine All.keeps (I := fun t => o ∈ t.out) (All.of_forall (fun e t ht => ?_) p) h
  cases e with
  | emit x => exact List.mem_cons_of_mem x ht
  | setReg k v => rwa [Eff.setReg_out]
  | memByte a b => rwa [Eff.memByte_out]
  | storeByte a v => rwa [Eff.storeByte_out]
  | flashByte a v => rwa [Eff.flashByte_out]
  | _ => exact ht

/-! #### What programs keep of a channel -/

section Keeping
variable {α β : Type} {l : List Part} {n : List RegName} {c : Nat}

theorem Prog.Within.keeps_ch {p : Prog α} (h : p.Within l n) (hc : Part.chan ∉ l) (F : Chan → β) :
    p.Keeps fun s => F (s.ch c) := fun s => congrArg F (h.same .chan hc s c)

theorem modCh_keeps {F : Chan → β} {a : Nat} {f : Chan → Chan} (h : ∀ k, F (f k) = F k) :
    (modCh a f).Keeps fun s => F (s.ch c) := fun s => by
  rw [run_modCh]
  dsimp only
  rw [ch_setChan]
  split
  · next e => rw [e, h]
  · rfl

end Keeping

/-! #### The parts and the registers of sending -/

/-- The parts that the Ferry Engine changes as it sends, apart from its channels. -/
def ferryParts : List Part := .fseq :: .fw :: .draws :: .jnl :: memParts

/-- The registers that the Ferry Engine changes as it sends. -/
def ferryNames : List RegName := [.FRY_CH_STATUS, .FRY_CH_ERR, .FRY_CH_CTR, .FRY_CH_NACKCNT, .FRY_CH_RESENDCNT, .FRY_ERR,
  .XLT_FLOG_HEAD, .XLT_FLOG_LOST, .XLT_ERR, .GLB_EVT, .ARY_TOKEN, .ARY_ERR] ++ memNames

@[simp] theorem mem_ferryParts (p : Part) :
    p ∈ ferryParts ↔ p = .fseq ∨ p = .fw ∨ p = .draws ∨ p = .jnl ∨ p ∈ memParts := by simp [ferryParts]

@[simp] theorem mem_ferryNames (n : RegName) : n ∈ ferryNames ↔ n = .FRY_CH_STATUS ∨ n = .FRY_CH_ERR ∨
    n = .FRY_CH_CTR ∨ n = .FRY_CH_NACKCNT ∨ n = .FRY_CH_RESENDCNT ∨ n = .FRY_ERR ∨ n = .XLT_FLOG_HEAD ∨
    n = .XLT_FLOG_LOST ∨ n = .XLT_ERR ∨ n = .GLB_EVT ∨ n = .ARY_TOKEN ∨ n = .ARY_ERR ∨ n ∈ memNames := by
  simp (maxDischargeDepth := 30) [ferryNames]

section Within
variable {α : Type} (ch : Nat)

theorem Prog.Within.toFerry {p : Prog α} (h : p.Within memParts memNames) : p.Within ferryParts ferryNames :=
  h.mono (by decide) (List.subset_append_right _ _)

theorem Prog.Within.toChan {p : Prog α} (h : p.Within ferryParts ferryNames) : p.Within (.chan :: ferryParts) ferryNames :=
  h.mono (List.subset_cons_self _ _) (List.Subset.refl _)

theorem modFw_within {f : Fw → Fw} {l : List Part} {n : List RegName} (h : Part.fw ∈ l) : (modFw f).Within l n :=
  fun _ => Within.setFw h

theorem selfFailure_within (why : Nat) : (selfFailure why).Within ferryParts ferryNames := by
  simp (maxDischargeDepth := 30) [selfFailure, modFw_within]

theorem logFault_within (u : Unit') (f : Flt) : (logFault u f).Within ferryParts ferryNames := by
  simp (maxDischargeDepth := 30) [logFault, errEvent, glbEvent, selfFailure_within, (physPut_within _ _).toFerry]

theorem setChState_within (st : Nat) : (setChState ch st).Within ferryParts ferryNames := by
  simp (maxDischargeDepth := 30) [setChState]

theorem chanFault_within (f : Flt) : (chanFault ch f).Within ferryParts ferryNames := by
  simp (maxDischargeDepth := 30) [chanFault, logFault_within, setChState_within]

theorem putDesc_within (ring : RegName) (idx off : Nat) (d : List Byte) :
    (putDesc ring ch idx off d).Within ferryParts ferryNames := by
  unfold putDesc
  refine .get fun s => .bind (vput_within _ _ _).toFerry fun r => ?_
  cases r with
  | ok _ => exact .skip
  | error f => exact chanFault_within _ _

theorem putTxState_within (t : TxStream) (st : Nat) : (putTxState ch t st).Within ferryParts ferryNames := by
  unfold putTxState
  split
  · exact putDesc_within _ _ _ _ _
  · exact .skip

theorem fdSignal_within (d : BitVec 512) : (fdSignal d).Within ferryParts ferryNames := by
  simp (maxDischargeDepth := 30) [fdSignal, tokenAdd]

theorem reserveBlock_within (chan epoch b : Nat) : (reserveBlock chan epoch b).Within [.jnl, .reg] [.FRY_ERR] := by
  simp (maxDischargeDepth := 30) [reserveBlock, jnlHand]

theorem transmit_within (h : BitVec 512) (p : List Byte) : (transmit ch h p).Within memParts memNames := by
  simp (maxDischargeDepth := 30) [transmit, (count_within _ _ _ _).toMem]

theorem useCtr_within (newest : Bool) (k : FKey) : (useCtr ch newest k).Within [.chan, .jnl, .reg] [.FRY_CH_CTR, .FRY_ERR] := by
  have h (chan epoch b : Nat) := (reserveBlock_within chan epoch b).mono (l' := [.chan, .jnl, .reg])
    (n' := [.FRY_CH_CTR, .FRY_ERR]) (by decide) (by decide)
  simp (maxDischargeDepth := 30) [useCtr, h]

theorem sendFrame_within (key : Option (Bool × FKey)) (d : FrameDesc) (p : List Byte) :
    (sendFrame ch key d p).Within (.chan :: ferryParts) ferryNames := by
  unfold sendFrame
  refine .get fun s => ?_
  split
  · exact .ret _
  · refine .ite (.ret _) ?_
    split
    · simp (maxDischargeDepth := 30)
    · simp (maxDischargeDepth := 30) [(setChState_within _ _).toChan]
    · simp (maxDischargeDepth := 30) [(useCtr_within _ _ _).mono (l' := .chan :: ferryParts) (n' := ferryNames)
        (by decide) (by decide), (transmit_within _ _ _).toFerry.toChan]

theorem sendCtl_within (typ stream group : Nat) (body : List Byte) :
    (sendCtl ch typ stream group body).Within (.chan :: ferryParts) ferryNames := by
  unfold sendCtl
  refine .get fun s => .ite .skip (.bind (sendFrame_within _ _ _ _) fun r => ?_)
  split <;> simp (maxDischargeDepth := 30)

end Within

end Sys2Proof.Machine

/-! ### Channels send streams: what a signed frame leaves of its channel -/

namespace Sys2Proof.Machine
open Prog

/-- A channel without what signing a frame may change: its keys' counters, and what waits for a counter block. -/
def Chan.unsigned (k : Chan) : Chan := { k with new := none, old := none, ivwait := false, spent := false, ctl := [] }

section Unsigned
variable (ch : Nat) {c : Nat}

theorem useCtr_keeps_unsigned (newest : Bool) (k : FKey) : (useCtr ch newest k).Keeps fun s => (s.ch c).unsigned := by
  unfold useCtr
  have hw : (Prog.when newest (wr .FRY_CH_CTR (BitVec.ofNat 64 (k.ctr + 1)) ch)).Within ferryParts ferryNames := by simp
  refine .get fun s => .all_cons (modCh_keeps fun x => ?_) (.all_cons (hw.keeps_ch (by decide) _)
    (.all_cons (.when ((reserveBlock_within _ _ _).keeps_ch (by decide) _)) .all_nil))
  cases newest <;> rfl

theorem sendFrame_keeps_unsigned (key : Option (Bool × FKey)) (d : FrameDesc) (p : List Byte) :
    (sendFrame ch key d p).Keeps fun s => (s.ch c).unsigned := by
  have hwait : (setF .FRY_CH_ERR Fld.FRY_CH_ERR_IVWAIT ch).Within ferryParts ferryNames := by simp
  have hend : (setF .FRY_CH_ERR Fld.FRY_CH_ERR_CTREND ch).Within ferryParts ferryNames := by simp
  unfold sendFrame
  refine .get fun s => ?_
  split
  · exact .ret _
  · refine .ite (.ret _) ?_
    split
    · exact .seq (.seq (hwait.keeps_ch (by decide) _) (modCh_keeps fun _ => rfl)) (.ret _)
    · exact .seq (.all_cons (hend.keeps_ch (by decide) _) (.all_cons ((setChState_within _ _).keeps_ch (by decide) _)
        (.all_cons (modCh_keeps fun _ => rfl) .all_nil))) (.ret _)
    · exact .seq (.seq (useCtr_keeps_unsigned _ _ _) ((transmit_within _ _ _).keeps_ch (by decide) _)) (.ret _)

theorem sendCtl_keeps_unsigned (typ stream group : Nat) (body : List Byte) :
    (sendCtl ch typ stream group body).Keeps fun s => (s.ch c).unsigned := by
  have hnack : (Prog.when (typ == 4) (bumpF .FRY_CH_NACKCNT Fld.FRY_CH_NACKCNT_COUNT 1 ch)).Within ferryParts ferryNames := by
    simp
  unfold sendCtl
  refine .get fun s => .ite .skip (.bind (sendFrame_keeps_unsigned _ _ _ _) fun r => ?_)
  split
  · exact hnack.keeps_ch (by decide) _
  · exact modCh_keeps fun _ => rfl
  · exact .skip

end Unsigned

/-! #### Posted writes of the rings (R296, R310) -/

section Posted
variable {s : State} (ch : Fin 64)

/-- A posted write that finds another in progress is lost, and its channel stays as it is. -/
theorem posted_chan_lost (p : Prog Unit) (h : s.wbusy (.chan ch) = true) :
    ((posted (.chan ch) p).run s).2.rdF .FRY_CH_ERR Fld.FRY_CH_ERR_WLOST ch = 1 ∧
      ((posted (.chan ch) p).run s).2.ch ch = s.ch ch := by
  have hw : (dropWrite (.chan ch)).Within ferryParts ferryNames := by
    simp (maxDischargeDepth := 30) [dropWrite, lostBit, lostSet, (count_within _ _ _ _).toMem.toFerry]
  unfold posted
  rw [run_get, if_pos h]
  refine ⟨?_, hw.same .chan (by decide) s ch⟩
  unfold dropWrite
  rw [run_seq]
  simp only [lostSet, State.rdF]
  rw [(count_within _ _ _ _).rd .FRY_CH_ERR (by decide)]
  simp only [lostBit, setF, wrF, wr, run_get, run_one]
  exact State.rdF_setReg_field s (by decide) _ _ _

/-- The state with a posted write of a channel in progress. -/
def State.chBusy (s : State) (ch : Fin 64) : State := ((setBusy (.chan ch) true).run s).2

theorem posted_chan_run (p : Prog Unit) (h : s.wbusy (.chan ch) = false) :
    (posted (.chan ch) p).run s = p.run (s.chBusy ch) := by
  unfold posted
  rw [run_get, h]
  exact run_seq _ _ _

@[simp] theorem ch_chBusy (c : Nat) : (s.chBusy ch).ch c = s.ch c := ch_setReg _ _ _ _

theorem rd_chBusy {n : RegName} (h : n ≠ .FRY_CH_STATUS) (i j : Nat) : (s.chBusy ch).rd n i j = s.rd n i j :=
  State.rd_setReg_name_ne _ h _ _ _ _ _

theorem wbusy_chBusy : (s.chBusy ch).wbusy (.chan ch) = true := by
  have h : (s.chBusy ch).rdF .FRY_CH_STATUS Fld.FRY_CH_STATUS_WBUSY ch = 1 :=
    State.rdF_setReg_field s (n := .FRY_CH_STATUS) (f := Fld.FRY_CH_STATUS_WBUSY) (by decide) _ _ _
  exact beq_iff_eq.2 h

theorem postTail_chBusy {ring tail : RegName} (hr : ring ≠ .FRY_CH_STATUS) (ht : tail ≠ .FRY_CH_STATUS) (head x : Nat) :
    postTail (s.chBusy ch) ring tail ch head x = postTail s ring tail ch head x := by
  unfold postTail ringLen
  rw [rd_chBusy ch hr, rd_chBusy ch ht]

/-- A tail that is refused sets BADTAIL alone (R229). -/
theorem badTail_run {tail : RegName} (ht : tail ≠ .FRY_CH_STATUS) (he : tail ≠ .FRY_CH_ERR) :
    let t := ((setF .FRY_CH_ERR Fld.FRY_CH_ERR_BADTAIL ch).run (s.chBusy ch)).2
    t.rdF .FRY_CH_ERR Fld.FRY_CH_ERR_BADTAIL ch = 1 ∧ t.rd tail ch = s.rd tail ch ∧ t.ch ch = s.ch ch := by
  dsimp only
  rw [run_setF, State.rdF_setReg_field _ (by decide), State.rd_setReg_name_ne _ he, rd_chBusy ch ht, ch_setReg, ch_chBusy]
  exact ⟨rfl, rfl, rfl⟩

end Posted

/-! #### Held streams (R291, R296) -/

section Held
variable {s : State} {ch : Nat}

theorem sendCtl_keeps_held (typ stream group : Nat) (body : List Byte) :
    (sendCtl ch typ stream group body).Keeps fun s => (s.ch ch).held :=
  (sendCtl_keeps_unsigned ch typ stream group body).comp Chan.held

theorem Prog.Within.keeps_wbusy {α : Type} {p : Prog α} {l : List Part} {n : List RegName} (h : p.Within l n)
    (hn : RegName.FRY_CH_STATUS ∉ n) (ch : Fin 64) : p.Keeps fun s => s.wbusy (.chan ch) := fun s => by
  unfold State.wbusy State.rdF
  simp only [busyBit, h.rd _ hn]

/-- A change of STATE leaves WBUSY, which stands in the same register (R298). -/
theorem setChState_keeps_wbusy (c st : Nat) (ch : Fin 64) : (setChState c st).Keeps fun s => s.wbusy (.chan ch) := fun s =>
  congrArg (· == 1) (State.rdF_setReg_apart s (n := .FRY_CH_STATUS) (f := Fld.FRY_CH_STATUS_STATE)
    (g := Fld.FRY_CH_STATUS_WBUSY) (by decide) (by decide) (by decide) _ _ _ _ _)

theorem sendFrame_keeps_wbusy (c : Nat) (key : Option (Bool × FKey)) (d : FrameDesc) (p : List Byte) (ch : Fin 64) :
    (sendFrame c key d p).Keeps fun s => s.wbusy (.chan ch) := by
  have hwait : (setF .FRY_CH_ERR Fld.FRY_CH_ERR_IVWAIT c).Within [.reg] [.FRY_CH_ERR] := by simp
  have hend : (setF .FRY_CH_ERR Fld.FRY_CH_ERR_CTREND c).Within [.reg] [.FRY_CH_ERR] := by simp
  unfold sendFrame
  refine .get fun s => ?_
  split
  · exact .ret _
  · refine .ite (.ret _) ?_
    split
    · exact .seq (.seq (hwait.keeps_wbusy (by decide) _) fun _ => rfl) (.ret _)
    · exact .seq (.all_cons (hend.keeps_wbusy (by decide) _) (.all_cons (setChState_keeps_wbusy _ _ _)
        (.all_cons (fun _ => rfl) .all_nil))) (.ret _)
    · exact .seq (.seq ((useCtr_within _ _ _).keeps_wbusy (by decide) _) ((transmit_within _ _ _).keeps_wbusy (by decide) _))
        (.ret _)

theorem sendCtl_keeps_wbusy (c typ stream group : Nat) (body : List Byte) (ch : Fin 64) :
    (sendCtl c typ stream group body).Keeps fun s => s.wbusy (.chan ch) := by
  have hnack : (Prog.when (typ == 4) (bumpF .FRY_CH_NACKCNT Fld.FRY_CH_NACKCNT_COUNT 1 c)).Within [.reg]
    [.FRY_CH_NACKCNT] := by simp
  unfold sendCtl
  refine .get fun s => .ite .skip (.bind (sendFrame_keeps_wbusy _ _ _ _ _) fun r => ?_)
  split
  · exact hnack.keeps_wbusy (by decide) _
  · exact fun _ => rfl
  · exact .skip

/-- A release of held streams leaves the other registers of the channel's rings, and WBUSY. -/
theorem releaseHeld_within (c : Nat) (free : Nat → Bool) :
    (releaseHeld c free).Within (.chan :: ferryParts) ferryNames := by
  simp (maxDischargeDepth := 30) [releaseHeld, sendCtl_within]

theorem releaseHeld_keeps_wbusy (c : Nat) (free : Nat → Bool) (ch : Fin 64) :
    (releaseHeld c free).Keeps fun s => s.wbusy (.chan ch) :=
  .get fun _ => .each fun _ => .seq (sendCtl_keeps_wbusy _ _ _ _ _ _) fun _ => rfl

/-- Streams released leave the list of those held. -/
theorem each_release_held (l : List Nat) (s : State) :
    (((each l fun j => (sendCtl ch 8 j 0 []).seq (modCh ch fun k => { k with held := k.held.filter (· != j) })).run s).2.ch
      ch).held = (s.ch ch).held.filter fun j => !l.contains j := by
  induction l generalizing s with
  | nil => simp
  | cons j l ih =>
    have hk : _ = (s.ch ch).held := sendCtl_keeps_held 8 j 0 [] s
    simp only [run_each_cons, run_seq, run_modCh, ih, ch_setChan, if_true, hk, List.filter_filter, List.contains_cons,
      Bool.not_or]
    exact List.filter_congr fun x _ => by rw [Bool.and_comm]; rfl

/-- Every held stream is released where every one may come. -/
theorem releaseHeld_held (s : State) : (((releaseHeld ch fun _ => true).run s).2.ch ch).held = [] := by
  unfold releaseHeld
  rw [run_get, List.filter_true, each_release_held]
  exact List.filter_eq_nil_iff.2 fun j hj => by simpa using hj

end Held

end Sys2Proof.Machine

/-! #### The next posted stream (R31, R277, R296) -/

namespace Sys2Proof.Machine
open Prog

section Starts
variable {s s₁ : State} {ch : Fin 64} {d : List Byte}

/-- A channel moves past a descriptor of its ring, with the streams that begin. -/
def pastDesc (s : State) (ch : Nat) (l : List TxStream) (k : Chan) : Chan :=
  { k with txhead := (k.txhead + 1) % ringLen s .FRY_CH_TXRING ch, started := k.started + 1, tx := k.tx ++ l }

/-- The number of the stream that a descriptor's bytes name. -/
def descNum (d : List Byte) : Nat := bits 31 0 (BitVec.ofNat 512 (leNat d)).toNat

/-- The stream that a descriptor's bytes begin. -/
def startedBy (s : State) (ch : Nat) (d : List Byte) : TxStream :=
  TxStream.start (some (s.ch ch).txhead) (BitVec.ofNat 512 (leNat d)) (if s.chKind ch = 1 then .segs else .bytes) (descNum d)
    (s.ch ch).started (s.chK ch) (s.chM ch)

/-- What a channel does with the descriptor that it has read. -/
def takeDesc (s : State) (ch : Nat) (d : List Byte) : Prog Unit :=
  if s.chKind ch = 1 && (s.ch ch).tx.any (fun x => x.num == descNum d) then .skip
  else match (if s.chKind ch = 1 then (s.ch ch).ended.find? fun e => e.1 == descNum d else none) with
    | some e => Prog.all [modCh ch (pastDesc s ch []), putTxState ch (startedBy s ch d) e.2,
        Prog.when (e.2 == 1) (fdSignal (BitVec.ofNat 512 (leNat d)))]
    | none => (modCh ch (pastDesc s ch [startedBy s ch d])).seq
        (wrF .FRY_CH_STATUS Fld.FRY_CH_STATUS_STREAM (descNum d) ch)

theorem exec_streamStart (hon : s.fryOn = true) (hst : s.chState ch ≠ 0) (hkind : s.chKind ch = 1 ∨ s.chKind ch = 3)
    (hhead : (s.ch ch).txhead ≠ s.rdF .FRY_CH_TXTAIL Fld.FRY_CH_TXTAIL_TAIL ch)
    (hended : ∀ x ∈ (s.ch ch).tx, x.ended = true)
    (hd : Reads (vget (s.chUnit ch) (ringEntry s .FRY_CH_TXRING ch (s.ch ch).txhead) 64) s d s₁) :
    exec (.streamStart ch) s = .next ((takeDesc s ch d).run s₁).2 := by
  have hany : (s.ch ch).tx.any (fun t => !t.ended) = false := by
    rw [List.any_eq_false]
    intro x hx
    simp [hended x hx]
  have hk : s.chKind ch ≠ 0 ∧ s.chKind ch ≠ 2 := by omega
  change Host.Outcome.next _ = _
  congr 2
  simp only [hon, hst, hk, hhead, hany, Bool.not_true, Bool.false_eq_true, decide_false, Bool.or_false, if_false,
    run_bind, hd.run_eq]
  rfl

/-- A crossing that is still being sent leaves the channel alone. -/
theorem takeDesc_run_sending (hkind : s.chKind ch = 1) (h : ∃ x ∈ (s.ch ch).tx, x.num = descNum d) (t : State) :
    (takeDesc s ch d).run t = ((), t) := by
  have hany : (s.ch ch).tx.any (fun x => x.num == descNum d) = true := by simpa using h
  simp [takeDesc, hkind, hany]

/-- A crossing that has been sent already passes, and its descriptor ends as the first did (R31). -/
theorem takeDesc_ch_ended (hkind : s.chKind ch = 1) (hnew : ¬ ∃ x ∈ (s.ch ch).tx, x.num = descNum d)
    (h : ∃ e ∈ (s.ch ch).ended, e.1 = descNum d) (t : State) :
    ((takeDesc s ch d).run t).2.ch ch = pastDesc s ch [] (t.ch ch) := by
  have hany : (s.ch ch).tx.any (fun x => x.num == descNum d) = false := by simpa using hnew
  obtain ⟨e, he⟩ : ∃ e, (s.ch ch).ended.find? (fun e => e.1 == descNum d) = some e := by
    rw [← Option.isSome_iff_exists, List.find?_isSome]
    simpa using h
  have hsignal : (Prog.when (e.2 == 1) (fdSignal (BitVec.ofNat 512 (leNat d)))).Within ferryParts ferryNames :=
    .when (fdSignal_within _)
  unfold takeDesc
  simp only [hkind, hany, decide_true, Bool.and_false, Bool.false_eq_true, if_false, if_true, he, run_all_cons, run_all_nil]
  rw [hsignal.same .chan (by decide) _ ch, (putTxState_within _ _ _).same .chan (by decide) _ ch, run_modCh, ch_setChan,
    if_pos rfl]

/-- Any other descriptor begins a stream, whose number the channel shows. -/
theorem takeDesc_starts (hnew : ¬ (s.chKind ch = 1 ∧ ∃ x ∈ (s.ch ch).tx, x.num = descNum d))
    (h : ¬ (s.chKind ch = 1 ∧ ∃ e ∈ (s.ch ch).ended, e.1 = descNum d)) (t : State) :
    ((takeDesc s ch d).run t).2.ch ch = pastDesc s ch [startedBy s ch d] (t.ch ch) ∧
      ((takeDesc s ch d).run t).2.rdF .FRY_CH_STATUS Fld.FRY_CH_STATUS_STREAM ch = descNum d := by
  have hany : (decide (s.chKind ch = 1) && (s.ch ch).tx.any (fun x => x.num == descNum d)) = false := by
    simpa using hnew
  have hfind : (if s.chKind ch = 1 then (s.ch ch).ended.find? fun e => e.1 == descNum d else none) = none := by
    split
    · next hk => exact List.find?_eq_none.2 fun e he hn => h ⟨hk, e, he, by simpa using hn⟩
    · rfl
  unfold takeDesc
  rw [hany, hfind]
  simp only [Bool.false_eq_true, if_false, run_seq, run_modCh, run_wrF, ch_setReg, ch_setChan, if_true, true_and]
  rw [State.rdF_setReg_field _ (by decide)]
  exact Nat.mod_eq_of_lt (Nat.mod_lt _ (by decide))

end Starts

end Sys2Proof.Machine

/-! #### What the sources of a stream's groups change (R288, R289, R297) -/

namespace Sys2Proof.Machine
open Prog

theorem Prog.Within.readsFerry {α : Type} {p : Prog α} (h : p.Within readParts memNames) : p.Within ferryParts ferryNames :=
  h.toMem.toFerry

theorem storedBlock_within (u : Unit') (va : Nat) : (storedBlock u va).Within readParts memNames := by
  unfold storedBlock
  refine .bindE (translate_within _ _ _) fun t => ?_
  simp (maxDischargeDepth := 30) [secRead_within]

theorem dirTable_within (u : Unit') (tid : Nat) : (dirTable u tid).Within readParts memNames :=
  .get fun _ => vget_within _ _ _ _

theorem segRecord_within (u : Unit') (base seg : Nat) (tids : List Nat) :
    (segRecord u base seg tids).Within readParts memNames :=
  .bindE (storedBlock_within _ _) fun _ => .ite (.ret _) (.ite (.ret _) (.bindE (dirTable_within _ _) fun _ => .ret _))

theorem rawRecord_within (u : Unit') (base seg : Nat) : (rawRecord u base seg).Within readParts memNames := by
  unfold rawRecord
  refine .bindE (storedBlock_within _ _) fun b => .ite (.ret _) (.bindE (.ite (.ret _) (dirTable_within _ _)) fun t => ?_)
  split <;> exact .ret _

theorem rawBytes_within (u : Unit') (va n : Nat) : (rawBytes u va n).Within readParts memNames := by
  simp (maxDischargeDepth := 30) [rawBytes, translate_within, physRead_within]

theorem readMap_within (u : Unit') : (readMap u).Within readParts memNames :=
  .get fun _ => .bindE (vget_within _ _ _ _) fun _ => .ret _

theorem readXHdr_within (u cb : Nat) : (readXHdr u cb).Within readParts memNames := by
  simp (maxDischargeDepth := 30) [readXHdr, luRecord_within]

theorem joinPiece_within (u entry seg n : Nat) : (joinPiece u entry seg n).Within readParts memNames :=
  .get fun _ => .bindE (readEntry_within _ _) fun _ => .bindE (readXHdr_within _ _) fun _ =>
    .bindE (luElems_within _ _ _ _ _ _) fun _ => .ret _

theorem freeBytes_within (n : Nat) : (freeBytes n).Within [.draws] [] := by
  induction n with
  | zero => exact .ret _
  | succ n ih => exact .bind (.get fun s => .eff (by simp [Eff.PartsIn]) trivial (.ret _)) fun v => .bind ih fun l => .ret _

theorem joinRecords_within (ch : Nat) (map : List MapRec) (fmt seg : Nat) :
    (joinRecords ch map fmt seg).Within ferryParts ferryNames := by
  unfold joinRecords
  refine .get fun s => ?_
  split
  · exact .ret _
  · refine .bindE (.mapE fun n => .bindE (.ite (.bind (joinPiece_within _ _ _ _).readsFerry fun x => ?_) ?_) fun d => .ret _)
      fun l => .ret _
    · split <;> exact .ret _
    · exact .bind ((freeBytes_within _).mono (by decide) (List.nil_subset _)) fun d => .ret _

theorem fillFrom_within (ch : Nat) (t : TxStream) (map : List MapRec) (fmt fuel need : Nat) (c : Cursor) :
    (fillFrom ch t map fmt fuel need c).Within ferryParts ferryNames := by
  induction fuel generalizing c with
  | zero => exact .ret _
  | succ fuel ih =>
    refine .get fun s => .ite (.ret _) ?_
    split
    · exact .bindE (segRecord_within _ _ _ _).readsFerry fun r => ih _
    · exact .bindE (joinRecords_within _ _ _ _) fun d => ih _
    · exact .bindE (rawBytes_within _ _ _).readsFerry fun d => .ret _

theorem groupData_within (ch : Nat) (t : TxStream) (raws : List Nat) (start : Cursor) :
    (groupData ch t raws start).Within ferryParts ferryNames := by
  refine .get fun s => .ite ?_ ?_
  · exact .bindE (.mapE fun g => (rawRecord_within _ _ _).readsFerry) fun l => .ret _
  · exact .bindE (.ite (readMap_within _).readsFerry (.ret _)) fun m => .bindE (fillFrom_within _ _ _ _ _ _ _) fun c => .ret _

theorem newGroup_within (ch : Nat) (t : TxStream) : (newGroup ch t).Within ferryParts ferryNames :=
  .get fun _ => .bindE (groupData_within _ _ _ _) fun _ => .ret _

theorem askFrame_within (ch : Nat) (a : Ask) : (askFrame ch a).Within ferryParts ferryNames := by
  unfold askFrame
  refine .get fun s => ?_
  split
  · exact .ret _
  · split
    · exact .ret _
    · exact .bind (groupData_within _ _ _ _) fun r => .ret _

end Sys2Proof.Machine

/-! #### Buckets and turns (R278) -/

namespace Sys2Proof.Machine
open Prog

/-- Each of some channels changes once, and no other. -/
theorem each_modCh_ch {l : List Nat} (hl : l.Nodup) (f : Nat → Chan → Chan) (s : State) (a : Nat) :
    ((each l fun c => modCh c (f c)).run s).2.ch a = if a ∈ l then f a (s.ch a) else s.ch a := by
  induction l generalizing s with
  | nil => simp
  | cons c l ih =>
    obtain ⟨hc, hl⟩ := List.nodup_cons.1 hl
    rw [run_each_cons, run_modCh, ih hl, ch_setChan]
    by_cases h : a = c
    · simp [h, hc]
    · simp [h]

/-- The channels of a port. -/
def State.portChans (s : State) (x : Nat) : List Nat := (List.range 64).filter fun c => s.chPort c == x

theorem portChans_nodup (s : State) (x : Nat) : (s.portChans x).Nodup := List.nodup_range.filter _

theorem mem_portChans {s : State} {x : Nat} (c : Fin 64) : (c : Nat) ∈ s.portChans x ↔ s.chPort c = x := by
  simp [State.portChans]

section Turns
variable {s : State}

theorem fillBuckets_within (x since : Nat) : (fillBuckets x since).Within [.chan] [] :=
  .get fun _ => .each fun _ => modCh_within (by decide)

theorem fillBuckets_ch (x since a : Nat) : ((fillBuckets x since).run s).2.ch a = if a ∈ s.portChans x then
    { s.ch a with level := min bucketSize ((s.ch a).level + s.refill a since) } else s.ch a :=
  each_modCh_ch (portChans_nodup s x) (fun c k => { k with level := min bucketSize (k.level + s.refill c since) }) s a

/-- A bucket that fills leaves the rest of its channel. -/
theorem fillBuckets_keeps {β : Type} {F : Chan → β} (hF : ∀ k n, F { k with level := n } = F k) (x since a : Nat) :
    (fillBuckets x since).Keeps fun s => F (s.ch a) := fun s => by
  dsimp only
  rw [fillBuckets_ch]
  split
  · exact hF _ _
  · rfl

theorem takeTurn_within (ch : Nat) : (takeTurn ch).Within [.chan] [] :=
  .get fun _ => .each fun _ => modCh_within (by decide)

theorem takeTurn_ch (ch a : Nat) : ((takeTurn ch).run s).2.ch a = if a ∈ s.portChans (s.chPort ch) then
    { s.ch a with turned := a == ch } else s.ch a :=
  each_modCh_ch (portChans_nodup s _) (fun c k => { k with turned := c == ch }) s a

/-- A turn taken leaves the rest of a channel. -/
theorem takeTurn_keeps {β : Type} {F : Chan → β} (hF : ∀ k b, F { k with turned := b } = F k) (ch a : Nat) :
    (takeTurn ch).Keeps fun s => F (s.ch a) := fun s => by
  dsimp only
  rw [takeTurn_ch]
  split
  · exact hF _ _
  · rfl

/-- What a channel sends in its turn: frames again, or one group. -/
def turnSends (s : State) (ch : Nat) : Prog Unit :=
  if !(s.ch ch).asks.isEmpty then
    (modCh ch fun k => { k with asks := k.asks.drop 64 }).seq (Prog.each ((s.ch ch).asks.take 64) (resendFrame ch))
  else match (s.ch ch).sending with
    | some t => sendGroup ch t
    | none => .skip

/-- A channel that the round robin has not come to sends nothing. -/
theorem exec_frameGroupSend_waits (ch : Fin 64) (since : BitVec 64)
    (h : (bucketsFilled s ch since.toNat).portTurn (s.chPort ch) ≠ some ch.val) :
    exec (.frameGroupSend ch since) s = .next ((Prog.when ((bucketsFilled s ch since.toNat).maySend ch &&
      (bucketsFilled s ch since.toNat).stalled ch) (setF .FRY_CH_ERR Fld.FRY_CH_ERR_WINSTALL ch)).run
        (bucketsFilled s ch since.toNat)).2 := by
  change Host.Outcome.next _ = _
  rw [run_seq, run_get]
  exact congrArg (fun p => Host.Outcome.next (Prog.run p (bucketsFilled s ch since.toNat)).2) (if_pos h)

/-- A channel that the round robin has come to takes its turn, and sends. -/
theorem exec_frameGroupSend_turn (ch : Fin 64) (since : BitVec 64)
    (h : (bucketsFilled s ch since.toNat).portTurn (s.chPort ch) = some ch.val) :
    exec (.frameGroupSend ch since) s = .next ((turnSends (bucketsFilled s ch since.toNat) ch).run
      ((takeTurn ch).run (bucketsFilled s ch since.toNat)).2).2 := by
  change Host.Outcome.next _ = _
  rw [run_seq, run_get]
  refine (congrArg (fun p => Host.Outcome.next (Prog.run p (bucketsFilled s ch since.toNat)).2) (if_neg (not_not.2 h))).trans ?_
  rw [run_seq]
  rfl

end Turns

end Sys2Proof.Machine

/-! #### Sending leaves the turns alone (R278) -/

namespace Sys2Proof.Machine
open Prog

section Turned
variable {c : Nat} (ch : Nat)

theorem sendFrame_keeps_turned (key : Option (Bool × FKey)) (d : FrameDesc) (p : List Byte) :
    (sendFrame ch key d p).Keeps fun s => (s.ch c).turned := (sendFrame_keeps_unsigned ch key d p).comp Chan.turned

theorem sendCtl_keeps_turned (typ stream group : Nat) (body : List Byte) :
    (sendCtl ch typ stream group body).Keeps fun s => (s.ch c).turned :=
  (sendCtl_keeps_unsigned ch typ stream group body).comp Chan.turned

theorem modTx_keeps {β : Type} {F : Chan → β} (hF : ∀ k l, F { k with tx := l } = F k) (num : Nat) (f : TxStream → TxStream) :
    (modTx ch num f).Keeps fun s => F (s.ch c) := modCh_keeps fun k => hF k _

theorem drawTokens_keeps {β : Type} {F : Chan → β} (hF : ∀ k n, F { k with level := n } = F k) (n : Nat) :
    (drawTokens ch n).Keeps fun s => F (s.ch c) := modCh_keeps fun k => hF k _

theorem modTx_keeps_turned (num : Nat) (f : TxStream → TxStream) : (modTx ch num f).Keeps fun s => (s.ch c).turned :=
  modTx_keeps ch (fun _ _ => rfl) num f

theorem drawTokens_keeps_turned (n : Nat) : (drawTokens ch n).Keeps fun s => (s.ch c).turned :=
  drawTokens_keeps ch (fun _ _ => rfl) n

/-- A fault of a stream's source stops the channel and shows in its descriptor. -/
theorem streamFault_within (f : Flt) (t : TxStream) :
    ((chanFault ch f).seq (putTxState ch t 2)).Within ferryParts ferryNames :=
  .seq (chanFault_within _ _) (putTxState_within _ _ _)

theorem sendRest_keeps_turned (num fuel : Nat) : (sendRest ch num fuel).Keeps fun s => (s.ch c).turned := by
  induction fuel with
  | zero => exact .skip
  | succ fuel ih =>
    refine .get fun s => ?_
    split
    · exact .skip
    · split
      · exact .when (.seq (sendCtl_keeps_turned _ _ _ _ _) (.when (sendCtl_keeps_turned _ _ _ _ _)))
      · refine .bind (sendFrame_keeps_turned _ _ _ _) fun x => ?_
        split
        · exact .skip
        · exact .all_cons (modTx_keeps_turned _ _ _) (.all_cons (drawTokens_keeps_turned _ _) (.all_cons ih .all_nil))

theorem sendGroup_keeps_turned (t : TxStream) : (sendGroup ch t).Keeps fun s => (s.ch c).turned := by
  refine .ite (sendRest_keeps_turned _ _ _) (.bind ((newGroup_within _ _).keeps_ch (by decide) _) fun r => ?_)
  split
  · exact (streamFault_within _ _ _).keeps_ch (by decide) _
  · exact .all_cons (modCh_keeps fun _ => rfl) (.all_cons (modTx_keeps_turned _ _ _)
      (.all_cons (sendRest_keeps_turned _ _ _) .all_nil))

theorem resent_keeps_turned (n : Nat) :
    ((drawTokens ch n).seq (bumpF .FRY_CH_RESENDCNT Fld.FRY_CH_RESENDCNT_COUNT 1 ch)).Keeps fun s => (s.ch c).turned := by
  have h : (bumpF .FRY_CH_RESENDCNT Fld.FRY_CH_RESENDCNT_COUNT 1 ch).Within ferryParts ferryNames := by simp
  exact .seq (drawTokens_keeps_turned _ _) (h.keeps_ch (by decide) _)

theorem resendFrame_keeps_turned (a : Ask) : (resendFrame ch a).Keeps fun s => (s.ch c).turned := by
  refine .bind ((askFrame_within _ _).keeps_ch (by decide) _) fun x => ?_
  split
  · exact .skip
  · exact (streamFault_within _ _ _).keeps_ch (by decide) _
  · refine .ite (.get fun s => .bind (sendFrame_keeps_turned _ _ _ _) fun x => ?_)
      (.seq (resent_keeps_turned _ _) ((transmit_within _ _ _).keeps_ch (by decide) _))
    split
    · exact .seq (resent_keeps_turned _ _) (modTx_keeps_turned _ _ _)
    · exact modCh_keeps fun _ => rfl
    · exact .skip

theorem turnSends_keeps_turned (s : State) : (turnSends s ch).Keeps fun s => (s.ch c).turned := by
  refine .ite (.seq (modCh_keeps fun _ => rfl) (.each fun a => resendFrame_keeps_turned _ _)) ?_
  split
  · exact sendGroup_keeps_turned _ _
  · exact .skip

end Turned

/-! #### A frame sent again as kept (R283, R287) -/

section Resent
variable {s s₂ : State} {ch : Nat} {a : Ask} {x : TxStream} {y : Kept} {data : List (List Byte)} {next : Cursor}

/-- What leaves the configurations of the channels leaves a channel at its port. -/
theorem Prog.Within.chPort {α : Type} {p : Prog α} {l : List Part} {n : List RegName} (h : p.Within l n)
    (hn : RegName.FRY_CH_CFG ∉ n) (s : State) (c : Nat) : (p.run s).2.chPort c = s.chPort c :=
  congrArg (getF _) (h.rd _ hn _ _ s)

/-- A frame transmitted leaves by its channel's port. -/
theorem transmit_out (h : BitVec 512) (p : List Byte) :
    ∃ f, Out.frame f ∈ ((transmit ch h p).run s).2.out ∧ f.port = s.chPort ch ∧ f.hdr = h ∧ f.payload = p := by
  unfold transmit
  simp only [run_get, run_all_cons, run_all_nil, run_one]
  refine ⟨_, run_out_mem _ (run_out_mem _ (List.mem_cons_self ..)), rfl, rfl, rfl⟩

/-- The payload of a frame of a group, from the group's data payloads (R285). -/
def payloadAt (data : List (List Byte)) (i : Nat) : List Byte :=
  if i < data.length then data.getD i [] else parityOf data (i - data.length)

theorem askFrame_run (hx : (s.ch ch).tx.find? (fun t => t.num == a.stream) = some x)
    (hy : x.kept.find? (fun y => fhGroup y.hdr == a.group && fhIdx y.hdr == a.idx) = some y)
    (hd : Reads (groupData ch x y.raws y.start) s (data, next) s₂) :
    (askFrame ch a).run s = (some (x, y, .ok (payloadAt data a.idx)), s₂) := by
  unfold askFrame
  simp only [run_get, hx, hy, run_bind, hd.run_eq]
  rfl

/-- A frame sent again as kept: RESEND set, its tokens drawn, nothing else of its channel changed. -/
theorem resendFrame_kept (hf : a.fresh = false) (hx : (s.ch ch).tx.find? (fun t => t.num == a.stream) = some x)
    (hy : x.kept.find? (fun y => fhGroup y.hdr == a.group && fhIdx y.hdr == a.idx) = some y)
    (hd : Reads (groupData ch x y.raws y.start) s (data, next) s₂) :
    let p := payloadAt data a.idx
    let t := ((resendFrame ch a).run s).2
    t.ch ch = { s.ch ch with level := (s.ch ch).level - 8000 * (64 + p.length) } ∧
      ∃ f, Out.frame f ∈ t.out ∧ f.port = s.chPort ch ∧ f.hdr = BitVec.ofNat 512 (putBits 8 8 y.hdr.toNat 1) ∧ f.payload = p := by
  have hw := groupData_within ch x y.raws y.start
  have hch : s₂.ch ch = s.ch ch := hd.same hw .chan (by decide) ch
  have hport : s₂.chPort ch = s.chPort ch := by
    rw [← hw.chPort (by decide) s ch, hd.run_eq]
  have hsent : ((drawTokens ch (payloadAt data a.idx).length).seq
      (bumpF .FRY_CH_RESENDCNT Fld.FRY_CH_RESENDCNT_COUNT 1 ch)).Within [.chan, .reg] [.FRY_CH_RESENDCNT] := by
    simp [drawTokens]
  unfold resendFrame
  simp only [run_bind, askFrame_run hx hy hd, hf, Bool.false_eq_true, if_false]
  rw [run_seq]
  refine ⟨?_, ?_⟩
  · rw [(transmit_within _ _ _).same .chan (by decide) _ ch, run_seq, run_bumpF, ch_setReg, drawTokens, run_modCh, ch_setChan,
      if_pos rfl, hch]
  · obtain ⟨f, hmem, hp, hh, hpay⟩ := transmit_out (s := (((drawTokens ch (payloadAt data a.idx).length).seq
      (bumpF .FRY_CH_RESENDCNT Fld.FRY_CH_RESENDCNT_COUNT 1 ch)).run s₂).2) (ch := ch)
      (BitVec.ofNat 512 (putBits 8 8 y.hdr.toNat 1)) (payloadAt data a.idx)
    exact ⟨f, hmem, by rw [hp, hsent.chPort (by decide), hport], hh, hpay⟩

end Resent

end Sys2Proof.Machine

/-! #### A group's frames signed one after another (R278, R283, R284) -/

namespace Sys2Proof.Machine
open Prog

section Header

theorem bits_low (x : Nat) : bits 7 4 x = x % 2 ^ 8 / 2 ^ 4 := by
  unfold bits
  omega

/-- A header with its ICV keeps the header's low bits (R279). -/
theorem bits_low_signHeader (key : BitVec 256) (h : Nat) (p : List Byte) :
    bits 7 4 (signHeader key h p).toNat = bits 7 4 h := by
  obtain ⟨c, hc⟩ : 2 ^ 8 ∣ 2 ^ 384 := Nat.pow_dvd_pow 2 (show 8 ≤ 384 by decide)
  have hb : bits 383 0 h = h % 2 ^ 384 := by unfold bits; rw [Nat.pow_zero, Nat.div_one]
  unfold signHeader
  rw [bits_low, bits_low, BitVec.toNat_ofNat, Nat.mod_mod_of_dvd _ (Nat.pow_dvd_pow 2 (show 8 ≤ 512 by decide)), hb, hc,
    Nat.mul_left_comm, Nat.add_mul_mod_self_left, Nat.mod_mod_of_dvd _ (Nat.dvd_mul_right _ _)]

/-- The header of a signed frame names the frame's type (R279). -/
theorem fhType_signHeader (key : BitVec 256) (s : State) (ch epoch ctr : Nat) (d : FrameDesc) (p : List Byte) :
    fhType (signHeader key (headerOf s ch epoch ctr d) p) = d.typ % 16 := by
  unfold fhType
  rw [bits_low_signHeader]
  unfold headerOf bits
  split <;> split <;> omega

end Header

section Signing
variable {s t : State} {ch num order : Nat} {newest : Bool} {k : FKey}

/-- A key whose counter has moved on. -/
def FKey.next (k : FKey) (n : Nat) : FKey := { k with ctr := k.ctr + n }

theorem streamSigns_iff {x : TxStream} {n : Nat} : streamSigns s ch x n = true ↔
    ∃ newest k, s.streamKey ch x.num x.order = some (newest, k) ∧ s.fw.dead.contains (s.chChan ch, k.epoch) = false ∧
      ∀ i < n, signable s ch (k.next i) = none := by
  unfold streamSigns
  cases s.streamKey ch x.num x.order with
  | none => simp
  | some e => simp [FKey.next, Prod.ext_iff]

/-- Which key a stream's frames take does not hang on the counters (R293). -/
theorem streamKey_used {k' : FKey} (hk : s.streamKey ch num order = some (newest, k))
    (hfrom : k'.from' = k.from') (hsince : k'.since = k.since)
    (hnew : (t.ch ch).new = if newest then some k' else (s.ch ch).new)
    (hold : (t.ch ch).old = if newest then (s.ch ch).old else some k')
    (hkind : t.chKind ch = s.chKind ch) (hcross : t.chCross ch = s.chCross ch) :
    t.streamKey ch num order = some (newest, k') := by
  unfold State.streamKey at hk ⊢
  dsimp only at hk ⊢
  rw [hnew, hold, hkind, hcross]
  cases hn : (s.ch ch).new with
  | none => rw [hn] at hk; cases hk
  | some n =>
    rw [hn] at hk
    dsimp only at hk
    by_cases hc : if s.chKind ch = 1 then n.from' ≤ num else n.since ≤ order
    · rw [if_pos hc] at hk
      cases hk
      simp only [if_true, hfrom, hsince, hc]
    · rw [if_neg hc] at hk
      cases ho : (s.ch ch).old with
      | some o =>
        rw [ho] at hk
        cases hk
        simp [hc]
      | none =>
        rw [ho] at hk
        dsimp only at hk
        split at hk
        · next hlate =>
          cases hk
          simp only [if_true, hfrom, hsince, if_neg hc, if_pos hlate]
        · cases hk

theorem useCtr_ch : ((useCtr ch newest k).run s).2.ch ch =
    if newest then { s.ch ch with new := some (k.next 1) } else { s.ch ch with old := some (k.next 1) } := by
  have hctr : (Prog.when newest (wr .FRY_CH_CTR (BitVec.ofNat 64 (k.ctr + 1)) ch)).Within ferryParts ferryNames := by simp
  have hask : (Prog.when (decide ((k.ctr + 1) % ctrBlock = ctrAsk))
      (reserveBlock (s.chChan ch) k.epoch (k.ctr / ctrBlock + 1))).Within [.jnl, .reg] [.FRY_ERR] :=
    .when (reserveBlock_within _ _ _)
  unfold useCtr
  rw [run_get, run_all_cons, run_all_cons, run_all_cons, run_all_nil, hask.same .chan (by decide) _ ch,
    hctr.same .chan (by decide) _ ch, run_modCh, ch_setChan, if_pos rfl]
  rfl

/-- The reservations on record stay as a counter moves on: a new one waits for its acknowledgement (R284). -/
theorem useCtr_keeps_ivres : (useCtr ch newest k).Keeps fun s => s.jnl.ivres := by
  have hctr : (Prog.when newest (wr .FRY_CH_CTR (BitVec.ofNat 64 (k.ctr + 1)) ch)).Within [.reg] [.FRY_CH_CTR] := by simp
  have herr (c : Bool) : (Prog.when c (setF .FRY_ERR Fld.FRY_ERR_IVJNL)).Within [.reg] [.FRY_ERR] := by simp
  refine .get fun s => .all_cons (fun _ => rfl) (.all_cons (fun s => congrArg Jnl.ivres (hctr.same .jnl (by decide) s)) (.all_cons (.when ?_) .all_nil))
  exact .get fun s => .seq (fun _ => rfl) fun s => congrArg Jnl.ivres ((herr _).same .jnl (by decide) s)

end Signing

end Sys2Proof.Machine

/-! #### The loop over a group in hand (R278, R287) -/

namespace Sys2Proof.Machine
open Prog

variable {s t : State} {ch : Nat}

/-- What the check of a stream's key reads: the channels' configuration, the bindings, the pairs of a failed device and the
reservations on record. -/
structure State.SignsAs (s t : State) : Prop where
  cfg : ∀ i j, t.rd .FRY_CH_CFG i j = s.rd .FRY_CH_CFG i j
  bnd : ∀ b, t.binding b = s.binding b
  dead : t.fw.dead = s.fw.dead
  ivres : t.jnl.ivres = s.jnl.ivres

namespace State.SignsAs

theorem chPort (h : s.SignsAs t) (c : Nat) : t.chPort c = s.chPort c := congrArg (getF _) (h.cfg c 0)
theorem chKind (h : s.SignsAs t) (c : Nat) : t.chKind c = s.chKind c := congrArg (getF _) (h.cfg c 0)
theorem chChan (h : s.SignsAs t) (c : Nat) : t.chChan c = s.chChan c := congrArg (getF _) (h.cfg c 0)

theorem chCross (h : s.SignsAs t) (c : Nat) : t.chCross c = s.chCross c := by
  unfold State.chCross State.chBind State.rdF
  rw [h.bnd, h.cfg]

theorem signable (h : s.SignsAs t) (k : FKey) : Machine.signable t ch k = Machine.signable s ch k := by
  unfold Machine.signable State.hasBlock State.reservedBlock
  rw [h.ivres, h.chChan]

theorem trans {u : State} (h : s.SignsAs t) (h' : t.SignsAs u) : s.SignsAs u :=
  ⟨fun i j => (h'.cfg i j).trans (h.cfg i j), fun b => (h'.bnd b).trans (h.bnd b), h'.dead.trans h.dead, h'.ivres.trans h.ivres⟩

/-- A program of other parts and registers leaves all of it. -/
theorem of_within {α : Type} {p : Prog α} {l : List Part} {n : List RegName} (hp : p.Within l n) (hcfg : RegName.FRY_CH_CFG ∉ n)
    (hbnd : Part.bnd ∉ l) (hfw : Part.fw ∉ l) (hjnl : Part.jnl ∉ l) (s : State) : s.SignsAs (p.run s).2 :=
  ⟨fun i j => hp.rd _ hcfg i j s, hp.same .bnd hbnd s, congrArg Fw.dead (hp.same .fw hfw s), congrArg Jnl.ivres (hp.same .jnl hjnl s)⟩

/-- A counter that moves on leaves all of it. -/
theorem of_useCtr (newest : Bool) (k : FKey) (s : State) : s.SignsAs ((useCtr ch newest k).run s).2 :=
  have hw := useCtr_within ch newest k
  ⟨fun i j => hw.rd _ (by decide) i j s, hw.same .bnd (by decide) s, congrArg Fw.dead (hw.same .fw (by decide) s),
    useCtr_keeps_ivres s⟩

end State.SignsAs

/-- A frame of a group in hand has left by its channel's port. -/
def FrameLeft (port : Nat) (u : Unsent) (t : State) : Prop :=
  ∃ f, Out.frame f ∈ t.out ∧ f.port = port ∧ f.payload = u.payload ∧ fhType f.hdr = u.desc.typ % 16

theorem FrameLeft.run {α : Type} {port : Nat} {u : Unsent} (h : FrameLeft port u s) (p : Prog α) : FrameLeft port u (p.run s).2 := by
  obtain ⟨f, hf, h⟩ := h
  exact ⟨f, p.run_out_mem hf, h⟩

/-- A frame that can be signed is sent, and its key's counter moves on (R283, R284). -/
theorem sendFrame_signs {newest : Bool} {k : FKey} (hdead : s.fw.dead.contains (s.chChan ch, k.epoch) = false)
    (hsign : signable s ch k = none) (u : Unsent) :
    ∃ h t, (sendFrame ch (some (newest, k)) u.desc u.payload).run s = (.ok h, t) ∧ s.SignsAs t ∧
      FrameLeft (s.chPort ch) u t ∧ t.ch ch =
        if newest then { s.ch ch with new := some (k.next 1) } else { s.ch ch with old := some (k.next 1) } := by
  have hu := State.SignsAs.of_useCtr (ch := ch) newest k s
  obtain ⟨f, hf, hport, hh, hp⟩ := transmit_out (s := ((useCtr ch newest k).run s).2) (ch := ch)
    (signHeader (s.berthKey k.berth) (headerOf s ch k.epoch k.ctr u.desc) u.payload) u.payload
  refine ⟨signHeader (s.berthKey k.berth) (headerOf s ch k.epoch k.ctr u.desc) u.payload, _, ?_, hu.trans (.of_within (transmit_within ch _ _) (by decide) (by decide) (by decide) (by decide) _),
    ⟨f, hf, hport.trans (hu.chPort ch), hp, hh ▸ fhType_signHeader ..⟩,
    ((transmit_within ch _ _).same .chan (by decide) _ ch).trans useCtr_ch⟩
  unfold sendFrame
  rw [run_get]
  dsimp only
  rw [hdead, hsign]
  simp

/-- A change to a stream finds it changed. -/
theorem modTx_find (num : Nat) {f : TxStream → TxStream} (hf : ∀ t, (f t).num = t.num) (s : State) :
    (((modTx ch num f).run s).2.ch ch).tx.find? (fun t => t.num == num) =
      ((s.ch ch).tx.find? fun t => t.num == num).map f := by
  unfold modTx
  rw [run_modCh, ch_setChan, if_pos rfl, List.find?_map]
  have hg : (fun t : TxStream => t.num == num) ∘ (fun t => if t.num = num then f t else t) = fun t => t.num == num := by
    funext t
    by_cases h : t.num = num <;> simp [h, hf]
  rw [hg]
  cases hfind : (s.ch ch).tx.find? fun t => t.num == num with
  | none => rfl
  | some x => simp [show x.num = num by simpa using List.find?_some hfind]

/-- A signed frame is kept, the rest of its group stays in hand, and its tokens are drawn (R278, R287). -/
def keepSigned (ch num : Nat) (u : Unsent) (r : List Unsent) (h : BitVec 512) : Prog Unit :=
  (modTx ch num fun t => { t with rest := r, kept := t.kept ++ [⟨h, u.start, u.raws⟩] }).seq (drawTokens ch u.payload.length)

section Keep
variable {num : Nat} {u : Unsent} {r : List Unsent} {h : BitVec 512}

theorem keepSigned_signsAs (s : State) : s.SignsAs ((keepSigned ch num u r h).run s).2 :=
  .of_within (l := [.chan]) (n := []) (.seq (modCh_within (by decide)) (modCh_within (by decide)))
    (by decide) (by decide) (by decide) (by decide) s

theorem keepSigned_new (s : State) : (((keepSigned ch num u r h).run s).2.ch ch).new = (s.ch ch).new := by
  unfold keepSigned
  rw [run_seq]
  exact (drawTokens_keeps ch (F := Chan.new) (fun _ _ => rfl) _ _).trans (modTx_keeps ch (F := Chan.new) (fun _ _ => rfl) num _ s)

theorem keepSigned_old (s : State) : (((keepSigned ch num u r h).run s).2.ch ch).old = (s.ch ch).old := by
  unfold keepSigned
  rw [run_seq]
  exact (drawTokens_keeps ch (F := Chan.old) (fun _ _ => rfl) _ _).trans (modTx_keeps ch (F := Chan.old) (fun _ _ => rfl) num _ s)

theorem keepSigned_find {x : TxStream} (hx : (s.ch ch).tx.find? (fun t => t.num == num) = some x) :
    (((keepSigned ch num u r h).run s).2.ch ch).tx.find? (fun t => t.num == num) =
      some { x with rest := r, kept := x.kept ++ [⟨h, u.start, u.raws⟩] } := by
  have htx (s : State) : (((drawTokens ch u.payload.length).run s).2.ch ch).tx = (s.ch ch).tx :=
    drawTokens_keeps ch (F := Chan.tx) (fun _ _ => rfl) _ s
  unfold keepSigned
  rw [run_seq, htx, modTx_find, hx]
  · rfl
  · exact fun _ => rfl

end Keep

/-- The next frame of a group in hand is signed, sent and kept, and the loop goes on with the rest. -/
theorem sendRest_run_step {num fuel : Nat} {x : TxStream} {u : Unsent} {r : List Unsent}
    (hx : (s.ch ch).tx.find? (fun t => t.num == num) = some x) (hr : x.rest = u :: r)
    (hs : streamSigns s ch x (r.length + 1) = true) :
    ∃ t z, (sendRest ch num (fuel + 1)).run s = (sendRest ch num fuel).run t ∧ s.SignsAs t ∧
      (t.ch ch).tx.find? (fun t => t.num == num) = some { x with rest := r, kept := x.kept ++ [z] } ∧
      streamSigns t ch x r.length = true ∧ FrameLeft (s.chPort ch) u t := by
  obtain ⟨newest, k, hkey, hdead, hsign⟩ := streamSigns_iff.1 hs
  have hnum : x.num = num := by simpa using List.find?_some hx
  obtain ⟨h, s₁, hrun, hs₁, hleft, hch⟩ := sendFrame_signs (newest := newest) hdead (hsign 0 (by omega)) u
  have ht := hs₁.trans (keepSigned_signsAs (ch := ch) (num := num) (u := u) (r := r) (h := h) s₁)
  have hfind : (s₁.ch ch).tx.find? (fun t => t.num == num) = some x := by
    rw [hch, ← hx]
    cases newest <;> rfl
  refine ⟨((keepSigned ch num u r h).run s₁).2, ⟨h, u.start, u.raws⟩, ?_, ht, keepSigned_find hfind,
    streamSigns_iff.2 ⟨newest, k.next 1, ?_, ?_, fun i hi => ?_⟩, hleft.run _⟩
  · have hkey' : s.streamKey ch num x.order = some (newest, k) := hnum ▸ hkey
    rw [sendRest, run_get, hx]
    dsimp only
    rw [hr]
    dsimp only
    rw [hkey', run_bind, hrun]
    simp only [run_all_cons, run_all_nil, keepSigned, run_seq]
  · refine streamKey_used hkey rfl rfl ?_ ?_ (ht.chKind ch) (ht.chCross ch)
    · rw [keepSigned_new, hch]
      cases newest <;> rfl
    · rw [keepSigned_old, hch]
      cases newest <;> rfl
  · rw [ht.dead, ht.chChan]
    exact hdead
  · rw [ht.signable, ← hsign (i + 1) (by omega)]
    unfold FKey.next
    rw [Nat.add_assoc, Nat.add_comm 1]

end Sys2Proof.Machine

/-! #### A group formed and sent -/

namespace Sys2Proof.Machine
open Prog

variable {s : State} {ch : Nat}

/-- With nothing in hand the loop leaves the streams alone, DONE or not. -/
theorem sendRest_tx_done {num fuel : Nat} {x : TxStream} (hx : (s.ch ch).tx.find? (fun t => t.num == num) = some x)
    (hr : x.rest = []) : (((sendRest ch num (fuel + 1)).run s).2.ch ch).tx = (s.ch ch).tx := by
  have hctl (typ stream group : Nat) (body : List Byte) : (sendCtl ch typ stream group body).Keeps fun s => (s.ch ch).tx :=
    (sendCtl_keeps_unsigned ch typ stream group body).comp Chan.tx
  have hdone (a b : Bool) (body : List Byte) : (Prog.when a ((sendCtl ch 9 num 0 body).seq
      (Prog.when b (sendCtl ch 12 0 0 [])))).Keeps fun s => (s.ch ch).tx := .when (.seq (hctl _ _ _ _) (.when (hctl _ _ _ _)))
  rw [sendRest, run_get, hx]
  dsimp only
  rw [hr]
  exact hdone _ _ _ s

/-- A stream as the loop leaves it: nothing in hand, every frame kept, its place in the source and its groups as before. -/
structure SentFrom (x y : TxStream) : Prop where
  num : y.num = x.num
  rest : y.rest = []
  kept : y.kept.length = x.kept.length + x.rest.length
  group : y.group = x.group
  cur : y.cur = x.cur
  ended : y.ended = x.ended

/-- A group in hand that can be signed is sent and kept whole, by induction on the fuel. -/
theorem sendRest_sends {num fuel : Nat} {x : TxStream} (hx : (s.ch ch).tx.find? (fun t => t.num == num) = some x)
    (hfuel : x.rest.length < fuel) (hs : streamSigns s ch x x.rest.length = true) :
    (∀ u ∈ x.rest, FrameLeft (s.chPort ch) u ((sendRest ch num fuel).run s).2) ∧
      ∃ y ∈ (((sendRest ch num fuel).run s).2.ch ch).tx, SentFrom x y := by
  induction fuel generalizing s x with
  | zero => omega
  | succ fuel ih =>
    cases hr : x.rest with
    | nil =>
      rw [sendRest_tx_done hx hr]
      exact ⟨fun u hu => absurd hu List.not_mem_nil, x, List.mem_of_find?_eq_some hx, rfl, hr, by rw [hr]; rfl, rfl, rfl, rfl⟩
    | cons u r =>
      rw [hr] at hfuel hs
      obtain ⟨t, z, hrun, hst, hfind, hsign, hleft⟩ := sendRest_run_step (fuel := fuel) hx hr hs
      obtain ⟨hout, y, hy, hsent⟩ := ih hfind (Nat.lt_of_succ_lt_succ hfuel) hsign
      rw [hrun]
      rw [hst.chPort] at hout
      refine ⟨fun v hv => ?_, y, hy, hsent.num, hsent.rest, ?_, hsent.group, hsent.cur, hsent.ended⟩
      · rcases List.mem_cons.1 hv with rfl | hv
        · exact hleft.run _
        · exact hout v hv
      · rw [hsent.kept, hr]
        simp only [List.length_append, List.length_cons, List.length_nil]
        omega

/-- Whether a stream's frames can be signed hangs on the keys and what `SignsAs` names. -/
theorem streamSigns_congr {t : State} (h : s.SignsAs t) (hnew : (t.ch ch).new = (s.ch ch).new)
    (hold : (t.ch ch).old = (s.ch ch).old) (x : TxStream) (n : Nat) : streamSigns t ch x n = streamSigns s ch x n := by
  have hkey : t.streamKey ch x.num x.order = s.streamKey ch x.num x.order := by
    unfold State.streamKey
    dsimp only
    rw [hnew, hold, h.chKind, h.chCross]
  unfold streamSigns
  simp only [hkey, h.dead, h.chChan, h.signable]

/-- A group in hand that can be signed is sent. -/
theorem sendGroup_sends_rest {x : TxStream} (hx : (s.ch ch).tx.find? (fun t => t.num == x.num) = some x)
    (hr : x.rest ≠ []) (hs : streamSigns s ch x x.rest.length = true) :
    (∀ u ∈ x.rest, FrameLeft (s.chPort ch) u ((sendGroup ch x).run s).2) ∧
      ∃ y ∈ (((sendGroup ch x).run s).2.ch ch).tx, SentFrom x y := by
  unfold sendGroup
  rw [if_pos (by simpa using hr)]
  exact sendRest_sends hx (Nat.lt_succ_self _) hs

/-- A stream that has formed its next group and holds it in hand. -/
def TxStream.formed (t : TxStream) (l : List Unsent) (next : Cursor) (lastg : Bool) : TxStream :=
  { t with
    group := t.group + 1
    cur := next
    raws := if t.ended then [] else t.raws
    ended := lastg
    frames := t.frames + (l.filter fun u => u.desc.typ == 1).length
    bytes := t.bytes + ((l.filter fun u => u.desc.typ == 1).map fun u => u.payload.length).sum
    rest := l }

/-- A group formed is taken in hand. -/
def takeInHand (ch : Nat) (x : TxStream) (l : List Unsent) (next : Cursor) (lastg : Bool) : Prog Unit :=
  (modCh ch fun k => { k with seq := k.seq + BitVec.ofNat 32 l.length }).seq
    (modTx ch x.num fun t => t.formed l next lastg)

section InHand
variable {x : TxStream} {l : List Unsent} {next : Cursor} {lastg : Bool}

theorem takeInHand_signsAs (s : State) : s.SignsAs ((takeInHand ch x l next lastg).run s).2 :=
  .of_within (l := [.chan]) (n := []) (.seq (modCh_within (by decide)) (modCh_within (by decide)))
    (by decide) (by decide) (by decide) (by decide) s

theorem takeInHand_keeps {β : Type} {F : Chan → β} (hseq : ∀ k n, F { k with seq := n } = F k)
    (htx : ∀ k l, F { k with tx := l } = F k) : (takeInHand ch x l next lastg).Keeps fun s => F (s.ch ch) :=
  .seq (modCh_keeps fun k => hseq k _) (modTx_keeps ch htx _ _)

theorem takeInHand_find (hx : (s.ch ch).tx.find? (fun t => t.num == x.num) = some x) :
    (((takeInHand ch x l next lastg).run s).2.ch ch).tx.find? (fun t => t.num == x.num) = some (x.formed l next lastg) := by
  unfold takeInHand
  rw [run_seq, modTx_find x.num (f := fun t => t.formed l next lastg) fun _ => rfl, run_modCh]
  dsimp only
  rw [ch_setChan, if_pos rfl, hx]
  rfl

theorem sendGroup_run_new {s₁ : State} (hr : x.rest = []) (hg : Reads (newGroup ch x) s (l, next, lastg) s₁) :
    (sendGroup ch x).run s = (sendRest ch x.num (l.length + 1)).run ((takeInHand ch x l next lastg).run s₁).2 := by
  unfold sendGroup
  rw [hr, if_neg (by decide), run_bind, hg.run_eq]
  simp only [run_all_cons, run_all_nil, takeInHand, run_seq]
  rfl

/-- A new group that can be signed is sent, and its stream moves on. -/
theorem sendGroup_sends_new {s₁ : State} (hx : (s.ch ch).tx.find? (fun t => t.num == x.num) = some x) (hr : x.rest = [])
    (hg : Reads (newGroup ch x) s (l, next, lastg) s₁) (hs : streamSigns s₁ ch x l.length = true) :
    (∀ u ∈ l, FrameLeft (s.chPort ch) u ((sendGroup ch x).run s).2) ∧
      ∃ y ∈ (((sendGroup ch x).run s).2.ch ch).tx, SentFrom (x.formed l next lastg) y := by
  have hw := newGroup_within ch x
  have hport : s₁.chPort ch = s.chPort ch := by rw [← hw.chPort (by decide) s ch, hg.run_eq]
  have hch : s₁.ch ch = s.ch ch := hg.same hw .chan (by decide) ch
  have hhand := takeInHand_signsAs (ch := ch) (x := x) (l := l) (next := next) (lastg := lastg) s₁
  rw [sendGroup_run_new hr hg, ← hport, ← hhand.chPort]
  refine sendRest_sends (takeInHand_find (hch ▸ hx)) (Nat.lt_succ_self _) ?_
  exact (streamSigns_congr hhand (takeInHand_keeps (F := Chan.new) (fun _ _ => rfl) (fun _ _ => rfl) s₁)
    (takeInHand_keeps (F := Chan.old) (fun _ _ => rfl) (fun _ _ => rfl) s₁) x l.length).trans hs

end InHand

end Sys2Proof.Machine

/-! #### A turn (R278) -/

namespace Sys2Proof.Machine
open Prog

section Turn
variable {s : State} {ch : Fin 64} {since : Nat}

/-- The channel has its turn once the buckets have filled. -/
def turnTaken (s : State) (ch since : Nat) : State := ((takeTurn ch).run (bucketsFilled s ch since)).2

/-- Filling the buckets and taking the turn leave the rest of a channel. -/
theorem turnTaken_ch {β : Type} (F : Chan → β) (hlevel : ∀ k n, F { k with level := n } = F k)
    (hturned : ∀ k b, F { k with turned := b } = F k) (c : Nat) : F ((turnTaken s ch since).ch c) = F (s.ch c) :=
  (takeTurn_keeps hturned ch c _).trans (fillBuckets_keeps hlevel _ _ c s)

theorem turnTaken_asks : ((turnTaken s ch since).ch ch).asks = (s.ch ch).asks :=
  turnTaken_ch Chan.asks (fun _ _ => rfl) (fun _ _ => rfl) ch

theorem turnTaken_tx : ((turnTaken s ch since).ch ch).tx = (s.ch ch).tx :=
  turnTaken_ch Chan.tx (fun _ _ => rfl) (fun _ _ => rfl) ch

theorem turnTaken_level : ((turnTaken s ch since).ch ch).level = ((bucketsFilled s ch since).ch ch).level :=
  takeTurn_keeps (F := Chan.level) (fun _ _ => rfl) ch ch (bucketsFilled s ch since)

theorem bucketsFilled_chPort (c : Nat) : (bucketsFilled s ch since).chPort c = s.chPort c :=
  (fillBuckets_within _ _).chPort (by decide) s c

theorem turnTaken_chPort (c : Nat) : (turnTaken s ch since).chPort c = s.chPort c :=
  ((takeTurn_within ch).chPort (by decide) _ c).trans (bucketsFilled_chPort c)

theorem bucketsFilled_level {c : Fin 64} (h : s.chPort c = s.chPort ch) :
    ((bucketsFilled s ch since).ch c).level = min bucketSize ((s.ch c).level + s.refill c since) := by
  unfold bucketsFilled
  rw [fillBuckets_ch, if_pos ((mem_portChans c).2 h)]

theorem turnTaken_turned {c : Fin 64} (h : s.chPort c = s.chPort ch) :
    ((turnTaken s ch since).ch c).turned = (c == ch) := by
  unfold turnTaken
  rw [takeTurn_ch, if_pos ((mem_portChans c).2 (by rw [bucketsFilled_chPort, bucketsFilled_chPort, h])), Bool.eq_iff_iff]
  simp [Fin.ext_iff]

theorem bucketsFilled_maySend : (bucketsFilled s ch since).maySend ch = s.maySend ch := by
  have hw := fillBuckets_within (s.chPort ch) since
  have hiv : ((bucketsFilled s ch since).ch ch).ivwait = (s.ch ch).ivwait :=
    fillBuckets_keeps (F := Chan.ivwait) (fun _ _ => rfl) _ _ ch s
  have hrd (n : RegName) (i j : Nat) : (bucketsFilled s ch since).rd n i j = s.rd n i j := hw.rd n (by simp) i j s
  unfold State.maySend State.fryOn State.outerUp State.chState State.chPort State.rdF
  simp only [hiv, hrd]

/-- In a turn with one frame asked for, that frame is what the channel sends. -/
theorem turnSends_run_ask {a : Ask} (h : (s.ch ch).asks = [a]) :
    (turnSends (bucketsFilled s ch since) ch).run (turnTaken s ch since) =
      (resendFrame ch a).run ((modCh ch fun k => { k with asks := k.asks.drop 64 }).run (turnTaken s ch since)).2 := by
  have ha : ((bucketsFilled s ch since).ch ch).asks = [a] :=
    (fillBuckets_keeps (F := Chan.asks) (fun _ _ => rfl) _ _ ch s).trans h
  unfold turnSends
  rw [ha]
  simp only [List.isEmpty_cons, Bool.not_false, if_true, run_seq, List.take_succ_cons, List.take_nil, run_each_cons, run_each_nil]

/-- In a turn with nothing asked for, the channel sends a group of its stream. -/
theorem turnSends_group {x : TxStream} (h : (s.ch ch).asks = []) (hx : (s.ch ch).sending = some x) :
    turnSends (bucketsFilled s ch since) ch = sendGroup ch x := by
  have ha : ((bucketsFilled s ch since).ch ch).asks = [] :=
    (fillBuckets_keeps (F := Chan.asks) (fun _ _ => rfl) _ _ ch s).trans h
  have hs : ((bucketsFilled s ch since).ch ch).sending = some x :=
    (fillBuckets_keeps (F := Chan.sending) (fun _ _ => rfl) _ _ ch s).trans hx
  unfold turnSends
  rw [ha, hs, if_neg (by decide)]

/-- A frame asked for once is sent again as kept (R283, R287). -/
theorem turn_resends {a : Ask} {x : TxStream} {y : Kept} {data : List (List Byte)} {next : Cursor} {s₂ : State}
    (ha : (s.ch ch).asks = [a]) (hf : a.fresh = false) (hx : (s.ch ch).tx.find? (fun t => t.num == a.stream) = some x)
    (hy : x.kept.find? (fun y => fhGroup y.hdr == a.group && fhIdx y.hdr == a.idx) = some y)
    (hd : Reads (groupData ch x y.raws y.start)
      ((modCh ch fun k => { k with asks := k.asks.drop 64 }).run (turnTaken s ch since)).2 (data, next) s₂) :
    let p := payloadAt data a.idx
    let t := ((turnSends (bucketsFilled s ch since) ch).run (turnTaken s ch since)).2
    (t.ch ch).asks = [] ∧ (t.ch ch).level = ((bucketsFilled s ch since).ch ch).level - 8000 * (64 + p.length) ∧
      ∃ f, Out.frame f ∈ t.out ∧ f.port = s.chPort ch ∧ f.hdr = BitVec.ofNat 512 (putBits 8 8 y.hdr.toNat 1) ∧ f.payload = p := by
  have hch : ((modCh ch fun k => { k with asks := k.asks.drop 64 }).run (turnTaken s ch since)).2.ch ch =
      { (turnTaken s ch since).ch ch with asks := ((turnTaken s ch since).ch ch).asks.drop 64 } := by
    rw [run_modCh, ch_setChan, if_pos rfl]
  have hport : ((modCh ch fun k => { k with asks := k.asks.drop 64 }).run (turnTaken s ch since)).2.chPort ch = s.chPort ch :=
    turnTaken_chPort ch
  have hx' : (((modCh ch fun k => { k with asks := k.asks.drop 64 }).run (turnTaken s ch since)).2.ch ch).tx.find?
      (fun t => t.num == a.stream) = some x := by rw [hch, turnTaken_tx, hx]
  obtain ⟨ht, f, hmem, hp, hh, hpay⟩ := resendFrame_kept hf hx' hy hd
  dsimp only
  rw [turnSends_run_ask ha]
  refine ⟨?_, ?_, f, hmem, hp.trans hport, hh, hpay⟩
  · rw [ht, hch, turnTaken_asks, ha]
    rfl
  · rw [ht, hch, turnTaken_level]

/-- A channel that the turn has not come to sends nothing; WINSTALL shows where only its retention log holds it (R287). -/
theorem turn_waits :
    let f := bucketsFilled s ch since
    let t := ((Prog.when (f.maySend ch && f.stalled ch) (setF .FRY_CH_ERR Fld.FRY_CH_ERR_WINSTALL ch)).run f).2
    (∀ c : Fin 64, t.ch c = f.ch c) ∧ t.out = s.out ∧
      (s.maySend ch = true → f.stalled ch = true → t.rdF .FRY_CH_ERR Fld.FRY_CH_ERR_WINSTALL ch = 1) := by
  have hw (b : Bool) : (Prog.when b (setF .FRY_CH_ERR Fld.FRY_CH_ERR_WINSTALL ch)).Within [.reg] [.FRY_CH_ERR] := by simp
  refine ⟨fun c => (hw _).same .chan (by decide) _ c,
    ((hw _).same .out (by decide) _).trans ((fillBuckets_within _ _).same .out (by decide) s), fun hmay hstall => ?_⟩
  rw [bucketsFilled_maySend, hmay, hstall]
  exact State.rdF_setReg_field _ (n := .FRY_CH_ERR) (f := Fld.FRY_CH_ERR_WINSTALL) (by decide) _ _ _

/-- A group of the channel's stream goes out, from what is in hand or newly formed. -/
theorem turn_sends_group {x : TxStream} (ha : (s.ch ch).asks = []) (hsend : (s.ch ch).sending = some x)
    (hx : (s.ch ch).tx.find? (fun t => t.num == x.num) = some x) :
    let g := turnTaken s ch since
    let t := ((turnSends (bucketsFilled s ch since) ch).run g).2
    (x.rest ≠ [] → streamSigns g ch x x.rest.length = true → GroupSent s ch x.rest x t) ∧
      ∀ l next lastg s₁, x.rest = [] → Reads (newGroup ch x) g (l, next, lastg) s₁ → streamSigns s₁ ch x l.length = true →
        GroupSent s ch l x t ∧ ∃ y ∈ (t.ch ch).tx, y.num = x.num ∧ y.group = x.group + 1 ∧ y.cur = next ∧ y.ended = lastg := by
  have hfind : ((turnTaken s ch since).ch ch).tx.find? (fun t => t.num == x.num) = some x := by rw [turnTaken_tx, hx]
  dsimp only
  rw [turnSends_group ha hsend]
  refine ⟨fun hr hs => ?_, fun l next lastg s₁ hr hg hs => ?_⟩
  · obtain ⟨hout, y, hy, hsent⟩ := sendGroup_sends_rest hfind hr hs
    rw [turnTaken_chPort] at hout
    exact ⟨hout, y, hy, hsent.num, hsent.rest, hsent.kept⟩
  · obtain ⟨hout, y, hy, hsent⟩ := sendGroup_sends_new hfind hr hg hs
    rw [turnTaken_chPort] at hout
    exact ⟨⟨hout, y, hy, hsent.num, hsent.rest, hsent.kept⟩, y, hy, hsent.num, hsent.group, hsent.cur, hsent.ended⟩

end Turn

/-! #### The rings' tails -/

section Tails
variable {s : State} {ch : Fin 64} {val : Word}

theorem txtailDo_run (h : s.wbusy (.chan ch) = false) : (txtailDo ch val).run s =
    match postTail s .FRY_CH_TXRING .FRY_CH_TXTAIL ch (s.ch ch).txhead (getF Fld.FRY_CH_TXTAIL_TAIL val) with
    | none => (setF .FRY_CH_ERR Fld.FRY_CH_ERR_BADTAIL ch).run (s.chBusy ch)
    | some n => ((wr .FRY_CH_TXTAIL val ch).seq (modCh ch fun k => { k with posted := k.posted + n })).run (s.chBusy ch) := by
  unfold txtailDo
  rw [posted_chan_run ch _ h, run_get, ch_chBusy, postTail_chBusy ch (by decide) (by decide)]
  cases postTail s .FRY_CH_TXRING .FRY_CH_TXTAIL ch (s.ch ch).txhead (getF Fld.FRY_CH_TXTAIL_TAIL val) <;> rfl

theorem rxtailDo_run (h : s.wbusy (.chan ch) = false) : (rxtailDo ch val).run s =
    match postTail s .FRY_CH_RXRING .FRY_CH_RXTAIL ch (s.ch ch).rxhead (getF Fld.FRY_CH_RXTAIL_TAIL val) with
    | none => (setF .FRY_CH_ERR Fld.FRY_CH_ERR_BADTAIL ch).run (s.chBusy ch)
    | some n => ((wr .FRY_CH_RXTAIL val ch).seq (Prog.when (decide (0 < n) && s.chKind ch != 1)
        (releaseHeld ch fun _ => true))).run (s.chBusy ch) := by
  have hkind : (s.chBusy ch).chKind ch = s.chKind ch := congrArg (getF _) (rd_chBusy ch (by decide) _ _)
  unfold rxtailDo
  rw [posted_chan_run ch _ h, run_get, ch_chBusy, postTail_chBusy ch (by decide) (by decide), hkind]
  cases postTail s .FRY_CH_RXRING .FRY_CH_RXTAIL ch (s.ch ch).rxhead (getF Fld.FRY_CH_RXTAIL_TAIL val) <;> rfl

/-- A tail of the ring to send from that is taken posts its descriptors. -/
theorem txtail_posts (n : Nat) :
    let t := (((wr .FRY_CH_TXTAIL val ch).seq (modCh ch fun k => { k with posted := k.posted + n })).run (s.chBusy ch)).2
    t.wbusy (.chan ch) = true ∧ t.rd .FRY_CH_TXTAIL ch = val &&& regMask .FRY_CH_TXTAIL ∧
      t.ch ch = { s.ch ch with posted := (s.ch ch).posted + n } := by
  have hw : ((wr .FRY_CH_TXTAIL val ch).seq (modCh ch fun k => { k with posted := k.posted + n })).Within [.reg, .chan]
    [.FRY_CH_TXTAIL] := by simp
  refine ⟨(hw.keeps_wbusy (by decide) ch _).trans (wbusy_chBusy ch), ?_, ?_⟩
  · rw [run_seq, run_modCh, run_wr, rd_setChan, State.rd_setReg, if_pos ⟨rfl, by decide⟩]
  · rw [run_seq, run_modCh, run_wr, ch_setChan, if_pos rfl, ch_setReg, ch_chBusy]

/-- A tail of the ring to receive into that is taken releases the held streams of a channel that carries no crossings. -/
theorem rxtail_posts (n : Nat) :
    let t := (((wr .FRY_CH_RXTAIL val ch).seq (Prog.when (decide (0 < n) && s.chKind ch != 1)
        (releaseHeld ch fun _ => true))).run (s.chBusy ch)).2
    t.wbusy (.chan ch) = true ∧ t.rd .FRY_CH_RXTAIL ch = val &&& regMask .FRY_CH_RXTAIL ∧
      (t.ch ch).held = if 0 < n ∧ s.chKind ch ≠ 1 then [] else (s.ch ch).held := by
  have hwr : (wr .FRY_CH_RXTAIL val ch).Within [.reg] [.FRY_CH_RXTAIL] := by simp
  have hfree : (Prog.when (decide (0 < n) && s.chKind ch != 1) (releaseHeld ch fun _ => true)).Within
    (.chan :: ferryParts) ferryNames := .when (releaseHeld_within _ _)
  have hbusy : (Prog.when (decide (0 < n) && s.chKind ch != 1) (releaseHeld ch fun _ => true)).Keeps fun s =>
    s.wbusy (.chan ch) := .when (releaseHeld_keeps_wbusy _ _ _)
  dsimp only
  rw [run_seq]
  refine ⟨((hbusy _).trans (hwr.keeps_wbusy (by decide) ch _)).trans (wbusy_chBusy ch), ?_, ?_⟩
  · rw [hfree.rd _ (by decide), run_wr, State.rd_setReg, if_pos ⟨rfl, by decide⟩]
  · rw [run_when]
    by_cases h : 0 < n ∧ s.chKind ch ≠ 1
    · rw [if_pos h, if_pos (by simpa using h), releaseHeld_held]
    · rw [if_neg h, if_neg (by simpa using h), run_wr, ch_setReg, ch_chBusy]

end Tails

/-- Settles O40: the rings' posted writes by what a tail posts, the next stream by what its descriptor names, and a turn by
what the channel has to send; a group goes out by induction over the frames in hand. -/
theorem channelsSendStreams : Obligations.ChannelsSendStreams := by
  intro ch s
  refine ⟨fun val => ?tx, fun val => ?rx, fun d s₁ hon hst hkind hhead hended hd => ?start, fun since => ?turn⟩
  case tx =>
    refine ⟨_, rfl, ?_⟩
    dsimp only
    split
    · next hb => exact posted_chan_lost ch _ hb
    · next hb =>
      rw [txtailDo_run (by simpa using hb)]
      cases postTail s .FRY_CH_TXRING .FRY_CH_TXTAIL ch (s.ch ch).txhead (getF Fld.FRY_CH_TXTAIL_TAIL val) with
      | none => exact badTail_run ch (by decide) (by decide)
      | some n => exact txtail_posts n
  case rx =>
    refine ⟨_, rfl, ?_⟩
    dsimp only
    split
    · next hb => exact posted_chan_lost ch _ hb
    · next hb =>
      rw [rxtailDo_run (by simpa using hb)]
      cases postTail s .FRY_CH_RXRING .FRY_CH_RXTAIL ch (s.ch ch).rxhead (getF Fld.FRY_CH_RXTAIL_TAIL val) with
      | none => exact badTail_run ch (by decide) (by decide)
      | some n => exact rxtail_posts n
  case start =>
    have hch : s₁.ch ch = s.ch ch := hd.same (vget_within _ _ _ _) .chan (by decide) ch
    refine ⟨_, exec_streamStart hon hst hkind hhead hended hd, ?_⟩
    dsimp only
    split
    · next h => rw [takeDesc_run_sending h.1 h.2, hch]
    · next hnew =>
      split
      · next h =>
        rw [takeDesc_ch_ended h.1 (fun hx => hnew ⟨h.1, hx⟩) h.2, hch]
        simp [pastDesc]
      · next h =>
        obtain ⟨ht, hnum⟩ := takeDesc_starts hnew h s₁
        rw [hch] at ht
        exact ⟨ht, hnum⟩
  case turn =>
    by_cases hturn : (bucketsFilled s ch since.toNat).portTurn (s.chPort ch) ≠ some ch.val
    · refine ⟨_, exec_frameGroupSend_waits ch since hturn, fun c hc => bucketsFilled_level hc, ?_⟩
      rw [if_pos hturn]
      exact turn_waits
    · refine ⟨_, exec_frameGroupSend_turn ch since (not_not.1 hturn), fun c hc => bucketsFilled_level hc, ?_⟩
      rw [if_neg hturn]
      refine ⟨fun c hc => ?_, fun a x y data next s₂ ha hf hx hy hd => ?_, fun x ha hsend hx => turn_sends_group ha hsend hx⟩
      · exact (turnSends_keeps_turned ch _ _).trans (turnTaken_turned hc)
      · exact turn_resends ha hf hx hy hd

end Sys2Proof.Machine
/-! ### The clusters after an effect -/

namespace Sys2Proof.Machine
open Prog

section Effects
variable (s : State) {l : List Part} {n : List RegName}

@[simp] theorem cluster_setReg (k : RegKey) (v : Word) (c : Nat) :
    ((Eff.setReg k v).apply s).cluster c = s.cluster c := by
  unfold State.cluster
  rw [Eff.setReg_cl]

@[simp] theorem rd_setCl (c : Nat) (v : Cluster) (r : RegName) (i j : Nat) :
    ((Eff.setCl c v).apply s).rd r i j = s.rd r i j := rfl

@[simp] theorem seqState_setCl (c : Nat) (v : Cluster) (a : Nat) : seqState ((Eff.setCl c v).apply s) a = seqState s a := rfl

@[simp] theorem tokenCount_setCl (c : Nat) (v : Cluster) (a x : Nat) :
    tokenCount ((Eff.setCl c v).apply s) a x = tokenCount s a x := rfl

@[simp] theorem run_modCl (c : Nat) (f : Cluster → Cluster) :
    (modCl c f).run s = ((), (Eff.setCl c (f (s.cluster c))).apply s) := rfl

end Effects

/-- A program that leaves ARY_STATUS leaves the state of every sequencer. -/
theorem Prog.Within.seqState {α : Type} {p : Prog α} {l : List Part} {n : List RegName} (h : p.Within l n)
    (hn : RegName.ARY_STATUS ∉ n) (s : State) (c : Nat) : seqState (p.run s).2 c = Machine.seqState s c :=
  congrArg (getF _) (h.rd _ hn c 0 s)

/-- A program that leaves ARY_TOKEN leaves the count of every token. -/
theorem Prog.Within.tokenCount {α : Type} {p : Prog α} {l : List Part} {n : List RegName} (h : p.Within l n)
    (hn : RegName.ARY_TOKEN ∉ n) (s : State) (c x : Nat) : tokenCount (p.run s).2 c x = Machine.tokenCount s c x :=
  congrArg BitVec.toNat (h.rd _ hn c x s)

end Sys2Proof.Machine

/-! ### Stretches of a table -/

namespace Sys2Proof.SMap

variable {κ α : Type} [DecidableEq κ] {d : κ → α}

theorem get_of_not_mem {m : SMap κ α} {x : κ} (h : ∀ e ∈ m, e.1 ≠ x) : get d m x = d x := by
  induction m with
  | nil => rfl
  | cons e r ih =>
    obtain ⟨he, hr⟩ := List.forall_mem_cons.1 h
    rw [get, if_neg he.symm, ih hr]

theorem get_append_of_not_mem_left {m r : SMap κ α} {x : κ} (h : ∀ e ∈ m, e.1 ≠ x) : get d (m ++ r) x = get d r x := by
  induction m with
  | nil => rfl
  | cons e m ih =>
    obtain ⟨he, hm⟩ := List.forall_mem_cons.1 h
    rw [List.cons_append, get, if_neg he.symm, ih hm]

theorem get_append_of_not_mem_right {m r : SMap κ α} {x : κ} (h : ∀ e ∈ r, e.1 ≠ x) : get d (m ++ r) x = get d m x := by
  induction m with
  | nil => exact get_of_not_mem h
  | cons e m ih => rw [List.cons_append, get, get, ih]

theorem get_filter {m : SMap κ α} {x : κ} {p : κ → Bool} (h : p x = true) :
    get d (m.filter fun e => p e.1) x = get d m x := by
  induction m with
  | nil => rfl
  | cons e m ih =>
    by_cases hx : x = e.1
    · rw [List.filter_cons_of_pos (by rw [← hx]; exact h), get, get, if_pos hx, if_pos hx]
    · rw [get, if_neg hx, ← ih, List.filter_cons]
      split
      · rw [get, if_neg hx]
      · rfl

end Sys2Proof.SMap

namespace Sys2Proof.Machine

/-- Replacing a stretch of a table leaves what lies outside it. -/
theorem at_replaceRange_outside {α : Type} [DecidableEq α] {d : α} (m : Tab α) {lo hi x : Nat} {vals : List (Nat × α)}
    (hle : lo ≤ hi) (hv : ∀ e ∈ vals, lo ≤ e.1 ∧ e.1 < hi) (hx : x < lo ∨ hi ≤ x) :
    Tab.at d (replaceRange d m lo hi vals) x = Tab.at d m x := by
  unfold Tab.at replaceRange
  have hmid : ∀ e ∈ vals.filter (fun e => decide (e.2 ≠ d)), e.1 ≠ x := fun e he => by
    have := hv e (List.mem_filter.1 he).1
    omega
  rcases hx with hx | hx
  · have hhigh : ∀ e ∈ m.filter (fun e => decide (hi ≤ e.1)), e.1 ≠ x := fun e he => by
      have := of_decide_eq_true (List.mem_filter.1 he).2
      omega
    rw [SMap.get_append_of_not_mem_right hhigh, SMap.get_append_of_not_mem_right hmid,
      SMap.get_filter (p := fun i => decide (i < lo)) (decide_eq_true hx)]
  · have hlow : ∀ e ∈ m.filter (fun e => decide (e.1 < lo)), e.1 ≠ x := fun e he => by
      have := of_decide_eq_true (List.mem_filter.1 he).2
      omega
    rw [List.append_assoc, SMap.get_append_of_not_mem_left hlow, SMap.get_append_of_not_mem_left hmid,
      SMap.get_filter (p := fun i => decide (hi ≤ i)) (decide_eq_true hx)]

theorem mem_maskArrays {m a : Nat} : a ∈ maskArrays m ↔ a < 8 ∧ m.testBit a = true := by
  simp [maskArrays]

/-- Bytes put into one array's buffer, within it, leave every other array's buffer. -/
theorem at_bufPut_other (buf : Tab Byte) {a a' off b : Nat} {d : List Byte} (ha : a' ≠ a) (hb : b < 262144)
    (hd : off + d.length ≤ 262144) : Tab.at 0 (bufPut buf a off d) (262144 * a' + b) = Tab.at 0 buf (262144 * a' + b) := by
  unfold bufPut bufBytes
  refine at_replaceRange_outside buf (by omega) (fun e he => ?_) (by omega)
  obtain ⟨⟨y, i⟩, hp, rfl⟩ := List.mem_map.1 he
  have := (List.mem_zipIdx hp).2.1
  dsimp only
  omega

/-! ### What an accumulating word leaves (R44, R46, R87) -/

section Multiply
variable (w : BitVec 128) (passes : Nat) (scale : Int)

/-- A cluster's next word, its decisions, what waits to leave and its issue shadow are as in another. -/
structure SameSequencer (k k' : Cluster) : Prop where
  ipc     : k'.ipc = k.ipc
  decs    : k'.decs = k.decs
  out     : k'.out = k.out
  ishadow : k'.ishadow = k.ishadow

theorem mulArray_same (k : Cluster) (a : Nat) : SameSequencer k (mulArray w passes scale k a).1 := ⟨rfl, rfl, rfl, rfl⟩

/-- A multiply word in one array leaves the accumulators of every other. -/
theorem mulArray_cell_other (k : Cluster) {a a' n : Nat} (ha : a' ≠ a) (hn : n < 4096) :
    (mulArray w passes scale k a).1.cell (4096 * a' + n) = k.cell (4096 * a' + n) := by
  unfold Cluster.cell mulArray
  refine at_replaceRange_outside k.acc (by omega) (fun e he => ?_) (by omega)
  simp only [List.map_map, List.mem_map, List.mem_range, Function.comp_apply] at he
  obtain ⟨i, hi, rfl⟩ := he
  dsimp only
  omega

/-- One array of a word after another. -/
def mulStep (p : Cluster × Flags) (a : Nat) : Cluster × Flags :=
  ((mulArray w passes scale p.1 a).1, p.2.or (mulArray w passes scale p.1 a).2)

theorem mulStep_fst (p : Cluster × Flags) (a : Nat) :
    (mulStep w passes scale p a).1 = (mulArray w passes scale p.1 a).1 := rfl

theorem foldl_mulStep_same (l : List Nat) (p : Cluster × Flags) :
    SameSequencer p.1 (l.foldl (mulStep w passes scale) p).1 := by
  induction l generalizing p with
  | nil => exact ⟨rfl, rfl, rfl, rfl⟩
  | cons a l ih =>
    obtain ⟨hi, hd, ho, hs⟩ := ih (mulStep w passes scale p a)
    exact ⟨hi, hd, ho, hs⟩

theorem foldl_mulStep_cell (l : List Nat) (p : Cluster × Flags) {a n : Nat} (ha : a ∉ l) (hn : n < 4096) :
    (l.foldl (mulStep w passes scale) p).1.cell (4096 * a + n) = p.1.cell (4096 * a + n) := by
  induction l generalizing p with
  | nil => rfl
  | cons b l ih =>
    rw [List.mem_cons, not_or] at ha
    rw [List.foldl_cons, ih _ ha.2, mulStep_fst, mulArray_cell_other w passes scale p.1 ha.1 hn]

variable (s : State) (c : Nat) (k : Cluster)

/-- The cluster as a multiply word starts: the issue shadow taken, and the rounding modes that CLR sets (R44, R80, R87). -/
def mulStart : Cluster :=
  { k with
    ishadow := k.acc
    long := if wClr w && wOp w != opStat then (maskArrays (wAmask w)).foldl
        (fun m a => Tab.upd false m a (decide (2 ^ s.rdF .ARY_LONGEXP Fld.ARY_LONGEXP_T c ≤ wRlen w))) k.long
      else k.long }

theorem mulWord_eq : mulWord s c w passes scale k =
    (maskArrays (wAmask w)).foldl (mulStep w passes scale) (mulStart w s c k, Flags.none) := rfl

/-- A multiply word leaves the sequencer, and takes the accumulators before it into the issue shadow (R87). -/
theorem mulWord_same : SameSequencer { k with ishadow := k.acc } (mulWord s c w passes scale k).1 := by
  rw [mulWord_eq]
  obtain ⟨hi, hd, ho, hs⟩ := foldl_mulStep_same w passes scale (maskArrays (wAmask w)) (mulStart w s c k, Flags.none)
  exact ⟨hi, hd, ho, hs⟩

/-- A multiply word leaves the accumulators of every array that AMASK does not select (R78). -/
theorem mulWord_cell_other {a n : Nat} (ha : (wAmask w).testBit a = false) (hn : n < 4096) :
    (mulWord s c w passes scale k).1.cell (4096 * a + n) = k.cell (4096 * a + n) := by
  rw [mulWord_eq]
  exact foldl_mulStep_cell w passes scale _ _ (by simp [mem_maskArrays, ha]) hn

end Multiply

end Sys2Proof.Machine

/-! ### A word that goes on to the next (R75, R86) -/

namespace Sys2Proof.Machine
open Prog

section Issues
variable {s : State} {c op : Nat} {w : BitVec 128}

theorem fetch_seqState (s : State) (c a : Nat) : seqState (seqFetch s c).2 a = seqState s a :=
  (vget_within _ _ _ _).seqState (by decide) s a

/-- The flags of the arrays are one register (R71). -/
theorem aryFlags_within (c x : Nat) : (addFlags .ARY_FLAGS x c).Within [.reg] [.ARY_FLAGS] := by
  simp

/-- A sequencer can go on: it speculates on nothing, nothing waits to leave, and it waits for no granules and stands at
no fault. -/
structure GoesOn (s : State) (c : Nat) : Prop where
  decs    : (s.cluster c).decs = []
  out     : (s.cluster c).out = []
  noWait  : seqState s c ≠ 3
  noFault : seqState s c ≠ 5

/-- A sequencer that takes a word with no decision open can go on (R86, R89, R91). -/
theorem SeqIssues.goesOn (h : SeqIssues s c op w) : GoesOn s c := by
  have hr := h.ready
  simp only [seqReady, seqRuns, Bool.and_eq_true, Bool.or_eq_true, beq_iff_eq, List.isEmpty_iff] at hr
  obtain ⟨⟨⟨hrun, -⟩, hout⟩, -⟩ := hr
  exact ⟨h.sure, hout, by omega, by omega⟩

/-- What leaves the decisions, what waits to leave and the sequencer's state leaves it able to go on. -/
theorem GoesOn.of_same {t : State} (h : GoesOn s c) {k : Cluster} (hk : t.cluster c = k)
    (hd : k.decs = (s.cluster c).decs) (ho : k.out = (s.cluster c).out) (hs : seqState t c = seqState s c) : GoesOn t c :=
  ⟨hk ▸ hd.trans h.decs, hk ▸ ho.trans h.out, hs ▸ h.noWait, hs ▸ h.noFault⟩

/-- What an advance leaves once the registers show it: the word in the log, the sequencer at the next, and the tokens. -/
theorem GoesOn.advance_shown (h : GoesOn s c) (w : BitVec 128) (a : BitVec 48) :
    let t := ((showSeq c).run ((advance c w a).run s).2).2
    (∃ n, t.cluster c = { (s.cluster c).issued w a with sampled := n }) ∧ ∀ x, tokenCount t c x = tokenCount s c x := by
  obtain ⟨⟨n, hn⟩, hrd⟩ := advance_run c w a s h.decs h.out h.noWait h.noFault
  refine ⟨⟨n, ((showSeq_within c).same .cl (by decide) _ c).trans hn⟩, fun x => ?_⟩
  exact ((showSeq_within c).tokenCount (by decide) _ c x).trans (congrArg BitVec.toNat (hrd .ARY_TOKEN (by decide) c x))

/-! ### Signals (R83, R86) -/

theorem tokenAdd_within (x n : Nat) : (tokenAdd c x n).Within [.reg] [.ARY_TOKEN, .ARY_ERR] := by
  simp (maxDischargeDepth := 30) [tokenAdd]

/-- A signal adds to its token, up to 65535 (R83). -/
theorem tokenAdd_tokenCount (x n : Nat) (s : State) :
    tokenCount ((tokenAdd c x n).run s).2 c x = min (tokenCount s c x + n) 65535 := by
  have hovf (b : Bool) : (Prog.when b (setF .ARY_ERR Fld.ARY_ERR_TOKOVF c)).Within [.reg] [.ARY_ERR] := by simp
  have hmask (m : Nat) (hm : m ≤ 65535) : (BitVec.ofNat 64 m &&& regMask .ARY_TOKEN).toNat = m := by
    have : (regMask .ARY_TOKEN).toNat = 2 ^ 16 - 1 := rfl
    rw [BitVec.toNat_and, this, Nat.and_two_pow_sub_one_eq_mod, BitVec.toNat_ofNat]
    omega
  unfold tokenAdd
  rw [run_get, run_seq, (hovf _).tokenCount (by decide), run_wr]
  unfold tokenCount
  rw [State.rd_setReg_same _ _ _ _ _ (by decide), hmask _ (Nat.min_le_right _ _)]

/-- A signal that nothing holds back happens at once: its token takes it, and the cluster is as before. -/
theorem GoesOn.signal (h : GoesOn s c) (x n : Nat) :
    let t := ((hold c [.signal x n]).run s).2
    t.cluster c = s.cluster c ∧ seqState t c = seqState s c ∧
      tokenCount t c x = min (tokenCount s c x + n) 65535 := by
  obtain ⟨hd, ho, h3, h5⟩ := h
  have hk : ({ s.cluster c with decs := [], out := [] } : Cluster) = s.cluster c := by
    rw [← hd, ← ho]
  have hrun : (hold c [.signal x n]).run s = (tokenAdd c x n).run
      ((Eff.setCl c (s.cluster c)).apply ((Eff.setCl c { s.cluster c with out := [.signal x n] }).apply s)) := by
    have hcl (t : State) : ((tokenAdd c x n).run t).2.cluster c = t.cluster c :=
      (tokenAdd_within x n).same .cl (by decide) t c
    have hst (t : State) : seqState ((tokenAdd c x n).run t).2 c = seqState t c :=
      (tokenAdd_within x n).seqState (by decide) t c
    simp only [hold, run_get, hd, List.reverse_nil, run_seq, run_modCl, ho, List.nil_append, releaseAll, cluster_setCl, if_true,
      seqState_setCl, beq_eq_false_iff_ne.mpr h5, Bool.false_eq_true, if_false, List.length_cons, List.length_nil, release, hk,
      hcl, hst, run_when, beq_eq_false_iff_ne.mpr h3]
  dsimp only
  rw [hrun]
  refine ⟨?_, ?_, ?_⟩
  · rw [(tokenAdd_within x n).same .cl (by decide), cluster_setCl, if_pos rfl]
  · rw [(tokenAdd_within x n).seqState (by decide), seqState_setCl, seqState_setCl]
  · rw [tokenAdd_tokenCount, tokenCount_setCl, tokenCount_setCl]

end Issues

/-! ### The multiply words complete (R78, R86, R87) -/

theorem exec_multiply {c : Fin 32} {w : BitVec 128} (s : State) :
    ∀ p ∈ [(Instr.mma c w, opMma), (.mmat c w, opMmat), (.stat c w, opStat)], exec p.1 s = (multiply c p.2 w).next s := by
  simp only [List.forall_mem_cons]
  exact ⟨rfl, rfl, rfl, fun _ h => nomatch h⟩

/-- A multiply word with no decision open leaves what its products accumulate to, and goes on. -/
theorem multiply_run {s : State} {c op : Nat} {w : BitVec 128} (h : SeqIssues s c op w)
    (hok : mulOk (seqFetch s c).2 c w = true) :
    let s₁ := (seqFetch s c).2
    ∃ n, ((multiply c op w).run s).2.cluster c =
      { (mulWord s₁ c w (passesOf s₁ c w) 0 (s.cluster c)).1.issued w ((s.cluster c).ipc + 16) with sampled := n } := by
  intro s₁
  have hsame := mulWord_same w (passesOf s₁ c w) 0 s₁ c (s.cluster c)
  unfold multiply
  rw [issue_run true h hok]
  generalize mulWord s₁ c w (passesOf s₁ c w) 0 (s.cluster c) = r at hsame ⊢
  obtain ⟨k', fl⟩ := r
  have hdecs : k'.decs = [] := hsame.decs.trans h.sure
  have hself : ({ k' with decs := [] } : Cluster) = k' := by rw [← hdecs]
  simp only [h.sure, List.isEmpty_nil, Bool.not_true, Bool.false_and, Bool.false_eq_true, if_false, hdecs, List.reverse_nil,
    run_all_cons, run_all_nil, run_modCl, hself]
  generalize hm : ((addFlags .ARY_FLAGS fl.toNat c).run _).2 = m
  have hcl : m.cluster c = k' := by
    rw [← hm, (aryFlags_within _ _).same .cl (by decide), cluster_setCl, if_pos rfl]
  have hst : seqState m c = seqState s c := by
    rw [← hm, (aryFlags_within _ _).seqState (by decide), seqState_setCl, fetch_seqState]
  obtain ⟨n, hn⟩ := ((h.goesOn.of_same hcl hsame.decs hsame.out hst).advance_shown w ((s.cluster c).ipc + 16)).1
  exact ⟨n, by rw [hn, hcl]⟩

end Sys2Proof.Machine

/-! ### How much a unit reads (R228) -/

namespace Sys2Proof.Machine
open Prog

section Lengths
variable {α β ε : Type} {s t : State} {l : List β}

/-- A program that answers a list answers at most a number of elements. -/
def Prog.AtMost (n : Nat) (p : Prog (Except ε (List β))) : Prop := ∀ {s l t}, Reads p s l t → l.length ≤ n

theorem atMost_error (n : Nat) (e : ε) : (Prog.ret (.error e) : Prog (Except ε (List β))).AtMost n := fun h =>
  nomatch (reads_ret.1 h).1

theorem atMost_ok {n : Nat} (h : l.length ≤ n) : (Prog.ret (.ok l) : Prog (Except ε (List β))).AtMost n := fun hr => by
  obtain ⟨hl, -⟩ := reads_ret.1 hr
  cases hl
  exact h

theorem Prog.AtMost.bind {n : Nat} {p : Prog α} {f : α → Prog (Except ε (List β))} (h : ∀ s, (f (p.run s).1).AtMost n) :
    (p.bind f).AtMost n := fun hr => h _ (reads_bind.1 hr)

theorem Prog.AtMost.bindE {n : Nat} {p : Prog (Except ε α)} {f : α → Prog (Except ε (List β))} (h : ∀ a, (f a).AtMost n) :
    (p.bindE f).AtMost n := fun hr => by
  obtain ⟨a, _, -, hf⟩ := reads_bindE.1 hr
  exact h a hf

/-- A list of programs that may stop goes on from its first. -/
theorem mapE_cons (a : α) (xs : List α) (f : α → Prog (Except ε β)) :
    Prog.mapE (a :: xs) f = (f a).bindE fun b => (Prog.mapE xs f).bindE fun bs => .ret (.ok (b :: bs)) := by
  rw [Prog.mapE, Prog.bindE]
  congr 1
  funext x
  cases x with
  | error e => rfl
  | ok b =>
    dsimp only
    rw [Prog.bindE]
    congr 1
    funext y
    cases y <;> rfl

/-- Programs for some elements, each of which answers at most so many, answer at most their sum. -/
theorem length_flatten_mapE {xs : List α} {len : α → Nat} {f : α → Prog (Except ε (List β))} (hf : ∀ a, (f a).AtMost (len a))
    {ls : List (List β)} (h : Reads (Prog.mapE xs f) s ls t) : ls.flatten.length ≤ (xs.map len).sum := by
  induction xs generalizing s ls t with
  | nil =>
    obtain ⟨hl, -⟩ := reads_ret.1 h
    cases hl
    exact le_rfl
  | cons a xs ih =>
    rw [mapE_cons] at h
    obtain ⟨b, m, ha, h⟩ := reads_bindE.1 h
    obtain ⟨bs, m', hs, h⟩ := reads_bindE.1 h
    obtain ⟨hl, -⟩ := reads_ret.1 h
    cases hl
    simpa using Nat.add_le_add (hf a ha) (ih hs)

theorem length_flatten_mapM {xs : List α} {len : α → Nat} {f : α → Prog (List β)}
    (hf : ∀ a s, ((f a).run s).1.length ≤ len a) (s : State) :
    ((Prog.mapM xs f).run s).1.flatten.length ≤ (xs.map len).sum := by
  induction xs generalizing s with
  | nil => exact le_rfl
  | cons a xs ih =>
    simp only [Prog.mapM, run_bind, run_ret, List.flatten_cons, List.length_append, List.map_cons, List.sum_cons]
    exact Nat.add_le_add (hf a s) (ih _)

/-- The pieces of a stretch are no longer than it. -/
theorem sum_pieces_le (size fuel a n : Nat) : ((pieces size fuel a n).map (·.2)).sum ≤ n := by
  induction fuel generalizing a n with
  | zero => exact Nat.zero_le n
  | succ fuel ih =>
    unfold pieces
    split
    · exact Nat.zero_le n
    · have := ih (a + min n (size - a % size)) (n - min n (size - a % size))
      simp only [List.map_cons, List.sum_cons]
      omega

theorem length_physRead_le (a n : Nat) (s : State) : ((physRead a n).run s).1.length ≤ n := by
  unfold physRead
  rw [run_bind]
  refine (length_flatten_mapM (len := (·.2)) (fun p s => ?_) s).trans (sum_pieces_le _ _ _ _)
  simp only [run_bind, run_ret, List.length_map, List.length_take]
  exact Nat.min_le_left _ _

theorem vread_atMost (u : Unit') (va n : Nat) (acc : Acc) : (vread u va n acc).AtMost n := by
  intro s l t h
  obtain ⟨ls, m, hs, h⟩ := reads_bindE.1 h
  obtain ⟨hl, -⟩ := reads_ret.1 h
  cases hl
  refine (length_flatten_mapE (len := (·.2)) (fun p => ?_) hs).trans (sum_pieces_le _ _ _ _)
  refine AtMost.bindE fun tr => ?_
  dsimp only
  split
  case h_1 =>
    split
    case isTrue =>
      split
      case h_1 => exact atMost_error _ _
      case h_2 e _ =>
        refine AtMost.bindE fun r => AtMost.bindE fun x => ?_
        cases x with
        | data d => exact atMost_ok (by simp)
        | poisoned => exact atMost_ok (by simp)
        | stale => exact atMost_error _ _
    case isFalse => exact AtMost.bind fun s => atMost_ok (length_physRead_le _ _ _)
  case h_2 => exact atMost_error _ _

/-- A unit reads no more bytes than it asks for. -/
theorem vget_atMost (u : Unit') (va n : Nat) (acc : Acc) : (vget u va n acc).AtMost n := by
  intro s l t h
  obtain ⟨d, m, hd, h⟩ := reads_bindE.1 h
  split at h
  · exact AtMost.bind (fun s => atMost_error n _) h
  · exact atMost_ok (by simpa using vread_atMost u va n acc hd) h

theorem gather_atMost (u : Unit') (rs : List (Nat × Nat)) : (gather u rs).AtMost (rs.map (·.2)).sum := by
  intro s l t h
  induction rs generalizing s l t with
  | nil => exact atMost_ok le_rfl h
  | cons r rs ih =>
    obtain ⟨d, m, hd, h⟩ := reads_bindE.1 h
    obtain ⟨e, m', he, h⟩ := reads_bindE.1 h
    refine atMost_ok ?_ h
    simpa using Nat.add_le_add (vget_atMost u _ _ _ hd) (ih he)

theorem gather_within (u : Unit') (rs : List (Nat × Nat)) : (gather u rs).Within readParts memNames := by
  induction rs with
  | nil => exact Within.ret _
  | cons r rs ih => exact Within.bindE (vget_within _ _ _ _) fun _ => Within.bindE ih fun _ => Within.ret _

theorem sum_joinRuns (rs : List (Nat × Nat)) : ((joinRuns rs).map (·.2)).sum = (rs.map (·.2)).sum := by
  induction rs with
  | nil => rfl
  | cons r rs ih =>
    obtain ⟨a, n⟩ := r
    rw [List.map_cons, List.sum_cons, ← ih, joinRuns]
    cases joinRuns rs with
    | nil => rfl
    | cons q rest =>
      dsimp only
      split <;> simp [Nat.add_assoc]

/-- The bytes of a tensor's elements. -/
theorem sum_runs (d : Desc) (eoff : Int) :
    ((d.runs eoff).map (·.2)).sum = d.count / (fmtUnit d.fmt).1 * (fmtUnit d.fmt).2 := by
  simp [Desc.runs, Function.comp_def]

/-- A list of at most `m` pieces' length is cut into at most `m` pieces. -/
theorem length_chunks_le {n m fuel : Nat} {l : List β} (h : l.length ≤ n * m) : (chunks n fuel l).length ≤ m := by
  induction fuel generalizing l m with
  | zero => exact Nat.zero_le _
  | succ fuel ih =>
    cases l with
    | nil => exact Nat.zero_le _
    | cons b l =>
      cases m with
      | zero => exact absurd h (by simp)
      | succ m =>
        rw [chunks.eq_3 _ _ _ (by simp), List.length_cons]
        refine Nat.add_le_add_right (ih ?_) 1
        rw [List.length_drop]
        rw [Nat.mul_succ] at h
        omega

theorem length_leBytes (n x : Nat) : (leBytes n x).length = n := by
  induction n generalizing x with
  | zero => rfl
  | succ n ih => rw [leBytes, List.length_cons, ih]

/-- The two halves of each binary32 of a panel take the four bytes of the binary32 (R53). -/
theorem length_splitBytes_le {data : List Byte} {fuel m : Nat} (h : data.length ≤ 4 * m) :
    (((chunks 4 fuel data).map fun b => splitHalves (leNat b)).flatMap fun p => leBytes 2 p.1 ++ leBytes 2 p.2.1).length ≤
      4 * m := by
  have := length_chunks_le (fuel := fuel) h
  simp only [List.length_flatMap, List.map_map, Function.comp_def, List.length_append, length_leBytes, List.map_const',
    List.sum_replicate, smul_eq_mul]
  omega

end Lengths

/-! ### A TLOAD's tensor in the operand buffers (R81, R444) -/

section Load
variable {c : Nat} (w : BitVec 128) (d : Desc)

/-- The operand buffers with a tensor's bytes and scales in those of one array (R81, R444). -/
def panelFill (data scales : List Byte) (buf : Tab Byte) (a : Nat) : Tab Byte :=
  if d.fmt = 5 then bufPut (bufPut buf a (64 * wDoff w) data) a (64 * wSdoff w) scales else bufPut buf a (64 * wDoff w) data

theorem loadPanel_within (k : Cluster) : (loadPanel c w d k).Within readParts memNames := by
  unfold loadPanel
  exact Within.get fun s => Within.bindE (gather_within _ _) fun _ =>
    Within.bindE (Within.ite (vget_within _ _ _ _) (Within.ret _)) fun _ => Within.ret _

/-- What a TLOAD that reads well brings: bytes and scales that fit their lines, in the buffer of each array of AMASK. -/
theorem loadPanel_fills {k k' : Cluster} {fl : Flags} {s t : State} (h : Reads (loadPanel c w d k) s (k', fl) t) :
    ∃ data scales : List Byte, data.length ≤ 64 * d.lines ∧ scales.length ≤ 64 * d.scaleLines ∧
      k' = { k with buf := (maskArrays (wAmask w)).foldl (panelFill w d data scales) k.buf } := by
  unfold loadPanel at h
  rw [reads_get] at h
  obtain ⟨raw, m, hraw, h⟩ := reads_bindE.1 h
  obtain ⟨sc, m', hsc, h⟩ := reads_bindE.1 h
  obtain ⟨hk, -⟩ := reads_ret.1 h
  cases hk
  have hlen := gather_atMost _ _ hraw
  rw [sum_joinRuns, sum_runs] at hlen
  refine ⟨_, sc, ?_, ?_, rfl⟩
  · unfold Desc.lines
    split
    · next h0 =>
      rw [h0] at hlen ⊢
      have := length_splitBytes_le (fuel := d.count + 1) (m := d.count) (data := raw)
        (by simpa [fmtUnit, Nat.mul_comm] using hlen)
      simp only [fmtUnit, Nat.div_one]
      omega
    · omega
  · unfold Desc.scaleLines
    split at hsc
    · next h5 =>
      have := vget_atMost _ _ _ _ hsc
      rw [if_pos h5]
      omega
    · exact atMost_ok (Nat.zero_le _) hsc

/-- Tensors put into some arrays' buffers, within them, leave every other array's buffer. -/
theorem foldl_panelFill_other {data scales : List Byte} (hdata : 64 * wDoff w + data.length ≤ 262144)
    (hscales : 64 * wSdoff w + scales.length ≤ 262144) {l : List Nat} (buf : Tab Byte) {a b : Nat} (ha : a ∉ l)
    (hb : b < 262144) : Tab.at 0 (l.foldl (panelFill w d data scales) buf) (262144 * a + b) = Tab.at 0 buf (262144 * a + b) := by
  induction l generalizing buf with
  | nil => rfl
  | cons a' l ih =>
    rw [List.mem_cons, not_or] at ha
    rw [List.foldl_cons, ih _ ha.2, panelFill]
    split
    · rw [at_bufPut_other _ ha.1 hb hscales, at_bufPut_other _ ha.1 hb hdata]
    · exact at_bufPut_other _ ha.1 hb hdata

/-- The lines of a legal TLOAD lie in the operand buffer (R80, R444). -/
theorem tloadOk_lines {s : State} {k : Cluster} {desc : BitVec 512} (h : tloadOk w s c k = true)
    (hd : Tab.at none k.slots (wDslot w) = some desc) :
    wDoff w + (descOf desc).lines ≤ 4096 ∧ wSdoff w + (descOf desc).scaleLines ≤ 4096 := by
  have hw : windowStart s c ≤ 4096 := Nat.sub_le _ _
  simp only [tloadOk, hd, Bool.and_eq_true, decide_eq_true_eq] at h
  obtain ⟨-, ⟨⟨-, hdoff⟩, hsdoff⟩, -⟩ := h
  exact ⟨hdoff.trans hw, hsdoff.trans hw⟩

/-- A legal TLOAD that reads well leaves the buffer of every array that AMASK does not select (R81). -/
theorem loadPanel_buf_other {k k' : Cluster} {fl : Flags} {s₀ s t : State} {desc : BitVec 512} (hok : tloadOk w s₀ c k = true)
    (hd : Tab.at none k.slots (wDslot w) = some desc) (h : Reads (loadPanel c w (descOf desc) k) s (k', fl) t) {a b : Nat}
    (ha : (wAmask w).testBit a = false) (hb : b < 262144) :
    Tab.at 0 k'.buf (262144 * a + b) = Tab.at 0 k.buf (262144 * a + b) := by
  obtain ⟨hlines, hscaleLines⟩ := tloadOk_lines w hok hd
  obtain ⟨data, scales, hdata, hscales, rfl⟩ := loadPanel_fills w (descOf desc) h
  exact foldl_panelFill_other w (descOf desc) (by omega) (by omega) k.buf (by simp [mem_maskArrays, ha]) hb

end Load

end Sys2Proof.Machine

/-! ### TLOAD completes (R81, R86, R444) -/

namespace Sys2Proof.Machine
open Prog

section Tload
variable {c : Nat} {w : BitVec 128} {s : State}

/-- The state once a TLOAD has filled the buffers, set its flags and counted its bytes. -/
def tloadFilled (s : State) (c : Nat) (w : BitVec 128) (d : Desc) (k' : Cluster) (fl : Flags) : State :=
  ((Prog.all [modCl c fun _ => k', addFlags .ARY_FLAGS fl.toNat c, count (setCluster c) 0x1C (64 * d.lines)]).run
    ((loadPanel c w d (s.cluster c)).run (seqFetch s c).2).2).2

section Filled
variable (s : State) (c : Nat) (w : BitVec 128) (d : Desc) (k' : Cluster) (fl : Flags)

theorem tloadFilled_cluster : (tloadFilled s c w d k' fl).cluster c = k' := by
  simp only [tloadFilled, run_all_cons, run_all_nil]
  rw [count_cluster, (aryFlags_within _ _).same .cl (by decide), run_modCl, cluster_setCl, if_pos rfl]

theorem tloadFilled_rd {n : RegName} (hn : n ∉ RegName.ARY_FLAGS :: memNames) (i j : Nat) :
    (tloadFilled s c w d k' fl).rd n i j = s.rd n i j := by
  rw [List.mem_cons, not_or] at hn
  simp only [tloadFilled, run_all_cons, run_all_nil]
  rw [(count_within _ _ _ _).rd n hn.2, (aryFlags_within _ _).rd n (by simpa using hn.1), run_modCl, rd_setCl,
    (loadPanel_within w d _).rd n hn.2, fetch_rd s c n hn.2]

theorem tloadFilled_seqState : seqState (tloadFilled s c w d k' fl) c = seqState s c :=
  congrArg (getF _) (tloadFilled_rd s c w d k' fl (by decide) c 0)

theorem tloadFilled_tokenCount (x : Nat) : tokenCount (tloadFilled s c w d k' fl) c x = tokenCount s c x :=
  congrArg BitVec.toNat (tloadFilled_rd s c w d k' fl (by decide) c x)

end Filled

/-- A signal under SIGEN with nothing held back: the cluster is as before, and the token has taken it (R81, R83). -/
theorem GoesOn.signal_when (h : GoesOn s c) (b : Bool) (x : Nat) :
    let t := ((Prog.when b (hold c [.signal x 1])).run s).2
    t.cluster c = s.cluster c ∧ seqState t c = seqState s c ∧
      (b = true → tokenCount t c x = min (tokenCount s c x + 1) 65535) := by
  cases b with
  | false => exact ⟨rfl, rfl, fun hb => absurd hb (by decide)⟩
  | true =>
    obtain ⟨hcl, hst, htok⟩ := h.signal x 1
    exact ⟨hcl, hst, fun _ => htok⟩

/-- A TLOAD whose tensor reads well fills the buffers, signals, and goes on. -/
theorem exec_tload {c : Fin 32} {desc : BitVec 512} {k' : Cluster} {fl : Flags} (h : SeqIssues s c opTload w)
    (hok : tloadOk w (seqFetch s c).2 c (s.cluster c) = true)
    (hd : Tab.at none (s.cluster c).slots (wDslot w) = some desc)
    (hr : ((loadPanel c w (descOf desc) (s.cluster c)).run (seqFetch s c).2).1 = .ok (k', fl)) :
    exec (.tload c w) s = .next ((showSeq c).run ((advance c w ((s.cluster c).ipc + 16)).run
      ((Prog.when (wSigen w) (hold c [.signal (wTok w) 1])).run (tloadFilled s c w (descOf desc) k' fl)).2).2).2 := by
  have hp : protectedBy (s.cluster c) w (descOf desc) = false := by
    rw [protectedBy, h.sure]
    rfl
  change execTload c w s = _
  unfold execTload tloadFilled
  rw [next_eq, issue_run true h hok]
  simp only [hd, hp, Bool.false_eq_true, if_false, run_bind, hr, run_all_cons, run_all_nil]

end Tload

/-- Settles O7: a TLOAD by the bytes it puts within the buffers of the arrays selected, and a multiply word by its
arrays one after another, each of which leaves the accumulators of the others. -/
theorem loadAndMultiplyWords : Obligations.LoadAndMultiplyWords := by
  intro c w s
  refine ⟨fun desc k' fl h hok hd hr => ?load, fun i op hi h hok => ?multiply⟩
  case load =>
    obtain ⟨data, scales, -, -, hk'⟩ := loadPanel_fills w (descOf desc) (Prod.ext hr rfl)
    have hst := tloadFilled_seqState s c w (descOf desc) k' fl
    have hcl := tloadFilled_cluster s c w (descOf desc) k' fl
    have hgo : GoesOn _ c := h.goesOn.of_same hcl (by rw [hk']) (by rw [hk']) hst
    obtain ⟨hcl', hst', htok⟩ := hgo.signal_when (wSigen w) (wTok w)
    obtain ⟨⟨n, hn⟩, htok'⟩ := (hgo.of_same hcl' rfl rfl hst').advance_shown w ((s.cluster c).ipc + 16)
    rw [hcl', hcl] at hn
    rw [tloadFilled_tokenCount] at htok
    refine ⟨_, exec_tload h hok hd hr, ?_, ?_, fun a b ha hb => ?_, fun hsig => (htok' _).trans (htok hsig)⟩
    · rw [hn]
      rfl
    · rw [hn]
      rfl
    · rw [hn]
      exact loadPanel_buf_other w hok hd (Prod.ext hr rfl) ha hb
  case multiply =>
    have hsame := mulWord_same w (passesOf (seqFetch s c).2 c w) 0 (seqFetch s c).2 c (s.cluster c)
    obtain ⟨n, hn⟩ := multiply_run h hok
    refine Completes.of_next (exec_multiply s (i, op) hi) ?_
    rw [hn]
    refine ⟨rfl, hsame.ishadow, fun a n ha hn => ?_, fun a n _ _ => rfl⟩
    exact mulWord_cell_other w _ 0 _ c (s.cluster c) ha hn

end Sys2Proof.Machine

/-! ### The state of a vector engine after an effect -/

namespace Sys2Proof.Machine
open Prog

/-- A program that leaves VEC_STATUS leaves the state of every vector engine. -/
theorem Prog.Within.vecState {α : Type} {p : Prog α} {l : List Part} {n : List RegName} (h : p.Within l n)
    (hn : RegName.VEC_STATUS ∉ n) (s : State) (c : Nat) : vecState (p.run s).2 c = Machine.vecState s c :=
  congrArg (getF _) (h.rd _ hn c 0 s)

@[simp] theorem vecState_setCl (s : State) (c : Nat) (v : Cluster) (a : Nat) :
    vecState ((Eff.setCl c v).apply s) a = vecState s a := rfl

/-! ### A vector instruction that issues (R94, R98) -/

section Issues
variable {s : State} {c : Nat}

theorem vecFetch_cluster (s : State) (c a : Nat) : (vecFetch s c).2.cluster a = s.cluster a :=
  (vget_within _ _ _ _).same .cl (by decide) s a

theorem vecFetch_vecState (s : State) (c a : Nat) : vecState (vecFetch s c).2 a = vecState s a :=
  (vget_within _ _ _ _).vecState (by decide) s a

theorem vecFetch_vecVl (s : State) (c a : Nat) : vecVl (vecFetch s c).2 a = vecVl s a :=
  congrArg (fun x => min (getF Fld.VEC_STATUS_VL x) 256) ((vget_within _ _ _ _).rd .VEC_STATUS (by decide) a 0 s)

theorem VecIssues.runs {op : Nat} {w : BitVec 64} (h : VecIssues s c op w) : vecState s c = 1 := by
  have hr := h.ready
  simp only [vecReady, Bool.and_eq_true, beq_iff_eq] at hr
  exact hr.1

/-- An instruction that issues comes to its own effect on the state after the fetch, and the address shown. -/
theorem vissue_run {op : Nat} {w : BitVec 64} {legal : State → Cluster → Bool} {body : State → Cluster → Prog Unit}
    (h : VecIssues s c op w) (hl : legal (vecFetch s c).2 (s.cluster c) = true) :
    (vissue c op w legal body).run s =
      (showVec c).run ((body (vecFetch s c).2 (s.cluster c)).run (vecFetch s c).2).2 := by
  obtain ⟨hr, hc, d, hf⟩ := h
  have e : (vget (vecUnit s c) (s.cluster c).vpc.toNat 8 .exec).run s = (.ok d, (vecFetch s c).2) := Prod.ext hf rfl
  unfold vissue
  simp only [run_get, hr, Bool.not_true, Bool.false_eq_true, if_false, hc, ne_eq, not_true_eq_false, false_and, run_bind, e,
    vecFetch_cluster, hl]
  simp

theorem showVec_within (c : Nat) : (showVec c).Within [.reg] [.VEC_PC] := by
  unfold showVec
  simp

theorem vecFlags_within (c : Nat) (f : Flags) : (vecFlags c f).Within [.reg] [.VEC_FLAGS] := by
  unfold vecFlags
  simp

/-- An instruction that completes leaves its cluster at the next instruction, 8 bytes on. -/
theorem vecDone_cluster (c cls daddr : Nat) (s : State) :
    ∃ n, ((vecDone c cls daddr).run s).2.cluster c = { s.cluster c with
      vpc := (s.cluster c).vpc + 8, vchunk := 0, vrow := [], vagain := false, vwait := none, sampled := n } := by
  simp only [vecDone, vecNext, run_get, run_seq, run_modCl]
  rw [retire_cluster, cluster_setCl, if_pos rfl]
  exact ⟨_, rfl⟩

theorem vecDone_vecState (c cls daddr : Nat) (s : State) : vecState ((vecDone c cls daddr).run s).2 c = vecState s c := by
  simp only [vecDone, vecNext, run_get, run_seq, run_modCl]
  rw [(retire_within _ _).vecState (by decide), vecState_setCl]

end Issues

/-! ### Lanes (R93) -/

namespace Cluster
variable (k : Cluster) {f r r' l l' x : Nat}

theorem lane_setLane_same : (k.setLane r l x).lane r l = x % 2 ^ 32 := by
  rw [lane, setLane, Tab.at_upd_same, BitVec.toNat_ofNat]

/-- Writing a lane of a register leaves every other lane and every other register. -/
theorem lane_setLane_ne (hl : l < 256) (hl' : l' < 256) (h : l' ≠ l ∨ r' ≠ r) : (k.setLane r l x).lane r' l' = k.lane r' l' := by
  rw [lane, setLane, Tab.at_upd_ne _ _ (by omega), lane]

/-- Writing an operand leaves every other lane, and every register but its own. -/
theorem lane_setOperand_ne (hl : l < 256) (hl' : l' < 256) (h : l' ≠ l ∨ r' ≠ r ∧ (f = 6 → r' ≠ r + 1)) :
    (k.setOperand f r l x).lane r' l' = k.lane r' l' := by
  unfold setOperand
  split
  · rw [lane_setLane_ne _ hl hl' (by tauto), lane_setLane_ne _ hl hl' (by tauto)]
  · rw [lane_setLane_ne _ hl hl' (by tauto)]

/-- An operand depends on the lane of its registers alone. -/
theorem operand_congr {k k' : Cluster} (h : ∀ r, k'.lane r l = k.lane r l) (f r : Nat) : k'.operand f r l = k.operand f r l := by
  unfold operand
  rw [h, h]

/-- A format whose values a register, or a pair of them for binary64, holds whole (R93). -/
def fitsRegister (f : Nat) : Prop := f = 6 ∨ 8 * (fmtUnit f).2 ≤ 32

/-- An operand just written reads as what was written, cut to its format. -/
theorem operand_setOperand_same (hf : fitsRegister f) (hl : l < 256) :
    (k.setOperand f r l x).operand f r l = x % 2 ^ (8 * (fmtUnit f).2) := by
  unfold operand setOperand
  by_cases h6 : f = 6
  · subst h6
    simp only [if_true, lane_setLane_same, lane_setLane_ne _ hl hl (.inr (Nat.succ_ne_self r).symm)]
    simp only [fmtUnit]
    omega
  · rw [if_neg h6, if_neg h6, lane_setLane_same]
    exact Nat.mod_mod_of_dvd _ (Nat.pow_dvd_pow 2 (hf.resolve_left h6))

end Cluster

/-! ### The register form lane by lane (R96) -/

section RegForm
variable (o : VOp) (sf df : Nat) (w : BitVec 64)

theorem draw_plain (k : Cluster) (rounds : Bool) {rm : Nat} (l : Nat) (h : rm ≤ 3) : k.draw rounds rm l = (plainRm rm, k) := by
  unfold Cluster.draw plainRm
  interval_cases rm <;> rfl

/-- The operation's result on one lane of the sources. -/
def laneResult (k : Cluster) (l : Nat) : Nat :=
  (o.fn w (plainRm (vRm w)) ((srcsOf o.arity w).map fun r => k.operand sf r l)).1

theorem laneStep_fst (hrm : vRm w ≤ 3) (x : Cluster × Flags) (l : Nat) :
    (laneStep o sf df w x l).1 = x.1.setOperand df (vD w) l (laneResult o sf w x.1 l) := by
  simp only [laneStep, draw_plain _ _ _ hrm, laneResult]

theorem laneResult_congr {k k' : Cluster} {l : Nat} (h : ∀ r, k'.lane r l = k.lane r l) :
    laneResult o sf w k' l = laneResult o sf w k l := by
  simp only [laneResult, Cluster.operand_congr h]

/-- What some lanes of the register form leave: the result on each of them, and every other lane and register. -/
structure LanesDone (lanes : List Nat) (k k' : Cluster) : Prop where
  vpc    : k'.vpc = k.vpc
  result : ∀ l ∈ lanes, k'.operand df (vD w) l = laneResult o sf w k l % 2 ^ (8 * (fmtUnit df).2)
  lane   : ∀ r l, l < 256 → l ∉ lanes → k'.lane r l = k.lane r l
  reg    : ∀ r l, l < 256 → r ≠ vD w → (df = 6 → r ≠ vD w + 1) → k'.lane r l = k.lane r l

theorem setOperand_vpc (k : Cluster) (f r l x : Nat) : (k.setOperand f r l x).vpc = k.vpc := by
  unfold Cluster.setOperand
  split <;> rfl

/-- The lanes one after another: no lane reads what another has written. -/
theorem foldl_laneStep_done (hrm : vRm w ≤ 3) (hf : Cluster.fitsRegister df) {lanes : List Nat} (hnd : lanes.Nodup)
    (hlt : ∀ l ∈ lanes, l < 256) (x : Cluster × Flags) :
    LanesDone o sf df w lanes x.1 (lanes.foldl (laneStep o sf df w) x).1 := by
  induction lanes generalizing x with
  | nil => exact ⟨rfl, fun _ h => (nomatch h), fun _ _ _ _ => rfl, fun _ _ _ _ _ => rfl⟩
  | cons a lanes ih =>
    obtain ⟨ha, hnd⟩ := List.nodup_cons.1 hnd
    obtain ⟨halt, hlt⟩ := List.forall_mem_cons.1 hlt
    obtain ⟨hvpc, hresult, hlane, hreg⟩ := ih hnd hlt (laneStep o sf df w x a)
    have hstep := laneStep_fst o sf df w hrm x a
    have hother (r l : Nat) (hl : l < 256) (h : l ≠ a ∨ r ≠ vD w ∧ (df = 6 → r ≠ vD w + 1)) :
        (laneStep o sf df w x a).1.lane r l = x.1.lane r l := by
      rw [hstep, Cluster.lane_setOperand_ne _ halt hl h]
    refine ⟨?_, fun l hl => ?_, fun r l hl hn => ?_, fun r l hl h₁ h₂ => ?_⟩
    · rw [List.foldl_cons, hvpc, hstep, setOperand_vpc]
    · rcases List.mem_cons.1 hl with rfl | hl
      · rw [List.foldl_cons, Cluster.operand_congr fun r => hlane r l halt ha, hstep,
          Cluster.operand_setOperand_same _ hf halt]
      · have hne : l ≠ a := fun h => ha (h ▸ hl)
        rw [List.foldl_cons, hresult l hl, laneResult_congr o sf w fun r => hother r l (hlt l hl) (.inl hne)]
    · rw [List.mem_cons, not_or] at hn
      rw [List.foldl_cons, hlane r l hl hn.2, hother r l hl (.inl hn.1)]
    · rw [List.foldl_cons, hreg r l hl h₁ h₂, hother r l hl (.inr ⟨h₁, h₂⟩)]

theorem mem_activeLanes {k : Cluster} {vl m l : Nat} : l ∈ activeLanes k vl m ↔ l < vl ∧ k.mask m l = true := by
  simp [activeLanes]

/-- The register form leaves the result on the lanes below VL whose mask bit is 1 (R96). -/
theorem regForm_done (hrm : vRm w ≤ 3) (hf : Cluster.fitsRegister df) {vl : Nat} (hvl : vl ≤ 256) (k : Cluster) :
    LanesDone o sf df w (activeLanes k vl (vMsel w)) k (regForm o sf df w vl k).1 :=
  foldl_laneStep_done o sf df w hrm hf (List.nodup_range.filter _)
    (fun _ hl => (mem_activeLanes.1 hl).1.trans_le hvl) (k, Flags.none)

end RegForm

/-! ### The elementwise instructions (R95) -/

section Rows
variable (c : Fin 32) (w : BitVec 64)

theorem exec_elementwise (hT : vT w = false) (s : State) :
    ∀ p ∈ (Instr.cvt c w, cvtOp) :: elementwiseRows c w, exec p.1 s = (elementwise c p.2 w).next s := by
  have hcvt : exec (.cvt c w) s = (elementwise c cvtOp w).next s := by
    change execCvt c w s = _
    rw [execCvt, hT]
    rfl
  simp only [elementwiseRows, List.forall_mem_cons]
  exact ⟨hcvt, rfl, rfl, rfl, rfl, rfl, rfl, rfl, rfl, rfl, rfl, rfl, rfl, rfl, rfl, rfl, rfl, rfl, rfl, rfl, fun _ h => nomatch h⟩

theorem tyFmt_fits (ty : Nat) : Cluster.fitsRegister (tyFmt ty) := by
  unfold tyFmt Cluster.fitsRegister
  split <;> decide

variable {w}

theorem srcB_fits {df : Nat} (h : srcB w = some df) : Cluster.fitsRegister df := by
  obtain ⟨-, ⟨⟩⟩ := Option.ite_none_right_eq_some.1 h
  exact tyFmt_fits _

theorem srcB32_fits {df : Nat} (h : srcB32 w = some df) : Cluster.fitsRegister df := by
  obtain ⟨-, ⟨⟩⟩ := Option.ite_none_right_eq_some.1 h
  exact tyFmt_fits 0

theorem cvtOp_dst_fits {df : Nat} (h : cvtOp.dst w = some df) : Cluster.fitsRegister df := by
  obtain ⟨hf, ⟨⟩⟩ := Option.ite_none_right_eq_some.1 h
  rcases hf with hf | hf
  · right
    interval_cases cvtFmt w <;> decide
  · exact .inl hf

/-- Every elementwise instruction's result is of a format that a register, or a pair of them, holds (R93, R95). -/
theorem elementwise_dst_fits : ∀ p ∈ (Instr.cvt c w, cvtOp) :: elementwiseRows c w,
    ∀ df, p.2.dst w = some df → Cluster.fitsRegister df := by
  have hcvti (df : Nat) (h : some 7 = some df) : Cluster.fitsRegister df := Option.some.inj h ▸ tyFmt_fits 2
  have hicvt (df : Nat) (h : (if vExt w = 0 then some 0 else if vExt w = 6 then some 6 else none) = some df) :
      Cluster.fitsRegister df := by
    split at h
    · exact Option.some.inj h ▸ tyFmt_fits 0
    · obtain ⟨-, ⟨⟩⟩ := Option.ite_none_right_eq_some.1 h
      exact tyFmt_fits 1
  have hB : ∀ df, srcB w = some df → Cluster.fitsRegister df := fun _ => srcB_fits
  have hB32 : ∀ df, srcB32 w = some df → Cluster.fitsRegister df := fun _ => srcB32_fits
  simp only [elementwiseRows, List.forall_mem_cons]
  exact ⟨fun _ => cvtOp_dst_fits, hB, hB, hB, hB, hB, hB, hB, hB, hB, hB, hB, hB, hB32, hB32, hB32, hB32, hB32, hcvti, hicvt,
    fun _ h => nomatch h⟩

/-- An elementwise instruction in register form leaves what its lanes leave, and goes on to the next. -/
theorem elementwise_run {o : VOp} {c : Nat} {s : State} (h : VecIssues s c o.op w) (hT : vT w = false) (hrm : vRm w ≤ 4)
    (hext : o.ext w = true) {sf df : Nat} (hsf : o.src w = some sf) (hdf : o.dst w = some df) (hd : regOk df (vD w) = true)
    (hr : ∀ r ∈ srcsOf o.arity w, regOk sf r = true) :
    let k' := (regForm o sf df w (vecVl s c) (s.cluster c)).1
    let t := ((elementwise c o w).run s).2
    vecState t c = 1 ∧ ∃ n, t.cluster c =
      { k' with vpc := k'.vpc + 8, vchunk := 0, vrow := [], vagain := false, vwait := none, sampled := n } := by
  have hlegal : elemOk o w (s.cluster c) = true := by
    simp only [elemOk, hrm, decide_true, hext, Bool.and_self, hsf, hdf, hT, Bool.false_eq_true, if_false, hd, Bool.true_and,
      List.all_eq_true]
    exact hr
  dsimp only
  rw [elementwise, vissue_run h hlegal]
  simp only [hsf, hdf, hT, Bool.false_eq_true, if_false, run_all_cons, run_all_nil, run_modCl, vecFetch_vecVl]
  generalize regForm o sf df w (vecVl s c) (s.cluster c) = r
  generalize hm : ((vecFlags c r.2).run _).2 = m
  have hcl : m.cluster c = r.1 := by
    rw [← hm, (vecFlags_within c _).same .cl (by decide), cluster_setCl, if_pos rfl]
  have hst : vecState m c = 1 := by
    rw [← hm, (vecFlags_within c _).vecState (by decide), vecState_setCl, vecFetch_vecState, h.runs]
  refine ⟨?_, ?_⟩
  · rw [(showVec_within c).vecState (by decide), vecDone_vecState, hst]
  · rw [(showVec_within c).same .cl (by decide), ← hcl]
    exact vecDone_cluster c 0 0 m

end Rows

/-- Settles O12: the register form is its lanes one after another, of which none reads what another has written. -/
theorem elementwiseRegisterForm : Obligations.ElementwiseRegisterForm := by
  intro c w s i o hio h hT hrm hext sf df hsf hdf hd hr k
  have hdone := regForm_done o sf df w hrm (elementwise_dst_fits c _ hio df hdf) (Nat.min_le_right _ _ : vecVl s c ≤ 256) k
  obtain ⟨hst, n, hn⟩ := elementwise_run h hT (hrm.trans (by decide)) hext hsf hdf hd hr
  refine Completes.of_next (exec_elementwise c w hT s _ hio) ?_
  obtain ⟨hvpc, hresult, hlane, hreg⟩ := hdone
  rw [hn]
  refine ⟨congrArg (· + 8) hvpc, hst, fun l hl => ?_, hreg⟩
  split
  · next hact => exact hresult l (mem_activeLanes.2 hact)
  · next hact => exact Cluster.operand_congr (fun r => hlane r l hl fun hm => hact (mem_activeLanes.1 hm)) df (vD w)

end Sys2Proof.Machine

/-! ### What a program keeps of a cluster and of its registers -/

namespace Sys2Proof.Machine
open Prog

@[simp] theorem rdF_setCl (s : State) (c : Nat) (v : Cluster) (r : RegName) (f : Field) (i j : Nat) :
    ((Eff.setCl c v).apply s).rdF r f i j = s.rdF r f i j := rfl

section Keeping
variable {α β γ ε : Type} {l : List Part} {n : List RegName} {g : State → β}

@[simp] theorem Prog.Keeps.bindE {p : Prog (Except ε α)} {f : α → Prog (Except ε γ)} (hp : p.Keeps g) (hf : ∀ a, (f a).Keeps g) :
    (p.bindE f).Keeps g := hp.bind fun x => by
  cases x with
  | error e => exact .ret _
  | ok a => exact hf a

@[simp] theorem Prog.Keeps.mapM {xs : List α} {f : α → Prog γ} (h : ∀ a, (f a).Keeps g) : (Prog.mapM xs f).Keeps g := by
  induction xs with
  | nil => exact .ret _
  | cons a xs ih => exact (h a).bind fun _ => ih.bind fun _ => .ret _

@[simp] theorem Prog.Keeps.mapE {xs : List α} {f : α → Prog (Except ε γ)} (h : ∀ a, (f a).Keeps g) :
    (Prog.mapE xs f).Keeps g := by
  induction xs with
  | nil => exact .ret _
  | cons a xs ih =>
    refine (h a).bind fun x => ?_
    cases x with
    | error e => exact .ret _
    | ok b =>
      refine ih.bind fun y => ?_
      cases y <;> exact .ret _

/-- A program that leaves the clusters leaves what is read of one. -/
theorem Prog.Within.keeps_cluster {p : Prog α} (h : p.Within l n) (hc : Part.cl ∉ l) (F : Cluster → β) (c : Nat) :
    p.Keeps fun s => F (s.cluster c) := fun s => congrArg F (h.same .cl hc s c)

theorem modCl_keeps {F : Cluster → β} {c a : Nat} {f : Cluster → Cluster} (h : ∀ k, F (f k) = F k) :
    (modCl a f).Keeps fun s => F (s.cluster c) := fun s => by
  rw [run_modCl]
  dsimp only
  rw [cluster_setCl]
  split
  · next e => rw [e, h]
  · rfl

/-- A field written leaves a field of the register apart from it. -/
theorem wrF_keeps_apart {r : RegName} {f f' : Field} (hf : fieldFits f r = true) (hf' : fieldFits f' r = true)
    (hd : fieldsApart f f' = true) (x i j a b : Nat) : (wrF r f x i j).Keeps fun s => s.rdF r f' a b := fun s =>
  s.rdF_setReg_apart hf hf' hd i j x a b

/-- A register written leaves a field of another. -/
theorem wrF_keeps_other {r q : RegName} (h : q ≠ r) (f f' : Field) (x i j a b : Nat) :
    (wrF r f x i j).Keeps fun s => s.rdF q f' a b := fun s => s.rdF_setReg_name_ne h _ f' i j a b

/-- A program that leaves BND_CLMASK leaves each cluster with its owner. -/
theorem Prog.Within.ownerCl {p : Prog α} (h : p.Within l n) (hn : RegName.BND_CLMASK ∉ n) (s : State) (c : Nat) :
    (p.run s).2.ownerCl c = s.ownerCl c := by
  unfold State.ownerCl
  simp only [h.rd _ hn]

/-- A program that leaves BND_CLMASK leaves a sequencer's unit as it is. -/
theorem Prog.Within.seqUnit {p : Prog α} (h : p.Within l n) (hn : RegName.BND_CLMASK ∉ n) (s : State) (c : Nat) :
    Machine.seqUnit (p.run s).2 c = Machine.seqUnit s c := by
  rw [Machine.seqUnit, Machine.seqUnit, h.ownerCl hn]

/-- A program that leaves BND_CLMASK leaves a vector engine's unit as it is. -/
theorem Prog.Within.vecUnit {p : Prog α} (h : p.Within l n) (hn : RegName.BND_CLMASK ∉ n) (s : State) (c : Nat) :
    Machine.vecUnit (p.run s).2 c = Machine.vecUnit s c := by
  rw [Machine.vecUnit, Machine.vecUnit, h.ownerCl hn]

/-- A program that leaves the lending registers leaves each cluster lent as it is. -/
theorem Prog.Within.lent {p : Prog α} (h : p.Within l n) (hlu : RegName.LND_LENT ∉ n) (hsu : RegName.SLV_LENT ∉ n) (s : State)
    (c : Nat) : (p.run s).2.lentLu c = s.lentLu c ∧ (p.run s).2.lentSu c = s.lentSu c := by
  unfold State.lentLu State.lentSu State.rdF
  simp only [h.rd _ hlu, h.rd _ hsu, and_self]

end Keeping

/-! ### What ARY_STATUS and ARY_PC show (R108) -/

section Show
variable (c : Nat)

@[simp] theorem showSeq_cluster (s : State) (a : Nat) : ((showSeq c).run s).2.cluster a = s.cluster a :=
  (showSeq_within c).same .cl (by decide) s a

@[simp] theorem showSeq_byte (s : State) (a : Nat) : ((showSeq c).run s).2.byte a = s.byte a :=
  (showSeq_within c).same .mem (by decide) s a

@[simp] theorem showSeq_out (s : State) : ((showSeq c).run s).2.out = s.out := (showSeq_within c).same .out (by decide) s

theorem showSeq_rd {r : RegName} (h : r ≠ .ARY_STATUS) (h' : r ≠ .ARY_PC) (i j : Nat) (s : State) :
    ((showSeq c).run s).2.rd r i j = s.rd r i j := (showSeq_within c).rd r (by simp [h, h']) i j s

@[simp] theorem showSeq_tokenCount (s : State) (a x : Nat) : tokenCount ((showSeq c).run s).2 a x = tokenCount s a x :=
  (showSeq_within c).tokenCount (by decide) s a x

/-- What is shown leaves every field of ARY_STATUS but the four that show depth, decisions and slipway. -/
theorem showSeq_rdF {g : Field} (hg : fieldFits g .ARY_STATUS = true)
    (ha : [Fld.ARY_STATUS_DEPTH, Fld.ARY_STATUS_PEND, Fld.ARY_STATUS_SLIPFREE, Fld.ARY_STATUS_SLIPTILES].all
      (fieldsApart · g) = true) (s : State) (i : Nat) :
    ((showSeq c).run s).2.rdF .ARY_STATUS g i = s.rdF .ARY_STATUS g i := by
  simp only [List.all_cons, List.all_nil, Bool.and_true, Bool.and_eq_true] at ha
  obtain ⟨hdepth, hpend, hfree, htiles⟩ := ha
  have hkeeps : (showSeq c).Keeps fun s => s.rdF .ARY_STATUS g i := by
    unfold showSeq
    exact .get fun s => .all_cons (wrF_keeps_apart (by decide) hg hdepth _ _ _ _ _) (.all_cons
      (wrF_keeps_apart (by decide) hg hpend _ _ _ _ _) (.all_cons (wrF_keeps_apart (by decide) hg hfree _ _ _ _ _) (.all_cons
      (wrF_keeps_apart (by decide) hg htiles _ _ _ _ _) (.all_cons (wrF_keeps_other (by decide) _ _ _ _ _ _ _) .all_nil))))
  exact hkeeps s

@[simp] theorem showSeq_seqState (s : State) (a : Nat) : seqState ((showSeq c).run s).2 a = seqState s a :=
  showSeq_rdF c (by decide) (by decide) s a

end Show

/-! ### The state of a sequencer, and its tokens (R83, R108) -/

section States
variable (s : State) (c : Nat)

theorem setSeq_within (x : Nat) : (setSeq c x).Within [.reg] [.ARY_STATUS] := by
  simp [setSeq]

@[simp] theorem setSeq_cluster (x a : Nat) : ((setSeq c x).run s).2.cluster a = s.cluster a :=
  (setSeq_within c x).same .cl (by decide) s a

@[simp] theorem setSeq_tokenCount (x a y : Nat) : tokenCount ((setSeq c x).run s).2 a y = tokenCount s a y :=
  (setSeq_within c x).tokenCount (by decide) s a y

@[simp] theorem setSeq_seqState (x : Nat) : seqState ((setSeq c x).run s).2 c = x % 2 ^ 3 :=
  s.rdF_setReg_field (by decide) c 0 x

theorem tokenTake_within (x n : Nat) (nocon : Bool) : (tokenTake c x n nocon).Within [.reg] [.ARY_TOKEN] := by
  simp (maxDischargeDepth := 30) [tokenTake]

/-- A wait whose token falls short changes nothing (R82, R83). -/
theorem tokenTake_run_short {x n : Nat} (nocon : Bool) (h : ¬ n ≤ tokenCount s c x) :
    (tokenTake c x n nocon).run s = (false, s) := by
  simp [tokenTake, Nat.lt_of_not_le h]

/-- A wait whose token suffices ends, and takes COUNT from it unless NOCON (R82, R83). -/
theorem tokenTake_ends {x n : Nat} (nocon : Bool) (h : n ≤ tokenCount s c x) :
    ((tokenTake c x n nocon).run s).1 = true ∧ tokenCount ((tokenTake c x n nocon).run s).2 c x =
      if nocon then tokenCount s c x else (tokenCount s c x - n) % 65536 := by
  have hmask (v : Nat) : (BitVec.ofNat 64 v &&& regMask .ARY_TOKEN).toNat = v % 65536 := by
    have : (regMask .ARY_TOKEN).toNat = 2 ^ 16 - 1 := rfl
    rw [BitVec.toNat_and, this, Nat.and_two_pow_sub_one_eq_mod, BitVec.toNat_ofNat]
    omega
  simp only [tokenTake, run_get, if_neg (Nat.not_lt.2 h), run_seq, run_when, run_ret, true_and]
  cases nocon with
  | true => rfl
  | false =>
    simp only [Bool.not_false, if_true, run_wr, Bool.false_eq_true, if_false]
    rw [tokenCount, State.rd_setReg_same _ _ _ _ _ (by decide), hmask]

end States

/-! ### What a sequencer that goes on leaves (R75, R86) -/

section GoesOn
variable {s : State} {c : Nat} {w : BitVec 128}

/-- A program that leaves the clusters and ARY_STATUS leaves a sequencer able to go on. -/
theorem GoesOn.of_within {α : Type} {p : Prog α} {l : List Part} {n : List RegName} (h : GoesOn s c) (hp : p.Within l n)
    (hl : Part.cl ∉ l) (hn : RegName.ARY_STATUS ∉ n) : GoesOn (p.run s).2 c :=
  h.of_same (hp.same .cl hl s c) rfl rfl (hp.seqState hn s c)

/-- A change of the cluster that leaves the decisions and what waits to leave. -/
theorem GoesOn.setCl (h : GoesOn s c) {k : Cluster} (hd : k.decs = (s.cluster c).decs) (ho : k.out = (s.cluster c).out) :
    GoesOn ((Eff.setCl c k).apply s) c :=
  h.of_same (by rw [cluster_setCl, if_pos rfl]) hd ho rfl

theorem SeqIssues.fetched_goesOn {op : Nat} (h : SeqIssues s c op w) : GoesOn (seqFetch s c).2 c :=
  h.goesOn.of_within (vget_within _ _ _ _) (by decide) (by decide)

theorem fetch_tokenCount (s : State) (c a x : Nat) : tokenCount (seqFetch s c).2 a x = tokenCount s a x :=
  (vget_within _ _ _ _).tokenCount (by decide) s a x

theorem fetch_seqUnit (s : State) (c a : Nat) : seqUnit (seqFetch s c).2 a = seqUnit s a :=
  (vget_within _ _ _ _).seqUnit (by decide) s a

/-- An advance: the word in the log and the sequencer at the next word, and every register but those of sampling,
counting and the memory path. -/
theorem GoesOn.advance (h : GoesOn s c) (w : BitVec 128) (a : BitVec 48) :
    (∃ n, ((Machine.advance c w a).run s).2.cluster c = { (s.cluster c).issued w a with sampled := n }) ∧
      ∀ q, q ∉ RegName.SMP_HEAD :: .SMP_LOST :: memNames → ∀ i j, ((Machine.advance c w a).run s).2.rd q i j = s.rd q i j :=
  advance_run c w a s h.decs h.out h.noWait h.noFault

/-- A change of the cluster and an advance after it. -/
theorem GoesOn.modCl_advance_cluster {f : Cluster → Cluster} (h : GoesOn s c) (hd : ∀ k, (f k).decs = k.decs)
    (ho : ∀ k, (f k).out = k.out) (w : BitVec 128) (a : BitVec 48) :
    (((modCl c f).seq (Machine.advance c w a)).run s).2.cluster c = { (f (s.cluster c)).issued w a with
      sampled := ((((modCl c f).seq (Machine.advance c w a)).run s).2.cluster c).sampled } := by
  obtain ⟨n, hk⟩ := ((h.setCl (hd _) (ho _)).advance w a).1
  rw [cluster_setCl, if_pos rfl] at hk
  rw [run_seq, run_modCl, hk]

theorem GoesOn.advance_seqState (h : GoesOn s c) (w : BitVec 128) (a : BitVec 48) :
    seqState ((Machine.advance c w a).run s).2 c = seqState s c :=
  congrArg (getF _) ((h.advance w a).2 .ARY_STATUS (by decide) c 0)

theorem GoesOn.advance_tokenCount (h : GoesOn s c) (w : BitVec 128) (a : BitVec 48) (x : Nat) :
    tokenCount ((Machine.advance c w a).run s).2 c x = tokenCount s c x :=
  congrArg BitVec.toNat ((h.advance w a).2 .ARY_TOKEN (by decide) c x)

end GoesOn

end Sys2Proof.Machine

/-! ### A schedule word completes (R75 to R77, R86) -/

namespace Sys2Proof.Machine
open Prog

section Words
variable {c : Fin 32} {w : BitVec 128} {s : State}

theorem SeqIssues.no_twait {op : Nat} (h : SeqIssues s c op w) : (s.cluster c).twait = none := by
  have hr := h.ready
  simp only [seqReady, Bool.and_eq_true, Option.isNone_iff_eq_none] at hr
  exact hr.1.1.2

/-- A row that is the issue of its opcode completes as the word's own effect leaves the state after the fetch, once the
registers show it. -/
theorem SeqIssues.completes {i : Instr} {op : Nat} {spec : Bool} {legal : State → Cluster → Bool}
    {body : State → Cluster → Prog Unit} {P : State → Prop} (h : SeqIssues s c op w)
    (he : exec i s = (issue c op spec w legal body).next s) (hl : legal (seqFetch s c).2 (s.cluster c) = true)
    (hP : P ((showSeq c).run ((body (seqFetch s c).2 (s.cluster c)).run (seqFetch s c).2).2).2) : Completes i s P :=
  .of_next he (by rw [issue_run _ h hl]; exact hP)

theorem nop_completes (h : SeqIssues s c opNop w) (hz : wf 121 0 w = 0) : Completes (.nop c w) s fun t =>
    (t.cluster c).ipc = (s.cluster c).ipc + 16 ∧ (t.cluster c).log = ⟨(s.cluster c).ipc, w⟩ :: (s.cluster c).log := by
  refine h.completes rfl (by simp [hz]) ?_
  obtain ⟨n, hk⟩ := (h.fetched_goesOn.advance w ((s.cluster c).ipc + 16)).1
  rw [showSeq_cluster, hk, fetch_cluster]
  exact ⟨rfl, rfl⟩

theorem tsig_completes (h : SeqIssues s c opTsig w) (hz : wf 99 0 w = 0) (hn : wCount w ≠ 0) : Completes (.tsig c w) s fun t =>
    (t.cluster c).ipc = (s.cluster c).ipc + 16 ∧ tokenCount t c (wF6 w) = min (tokenCount s c (wF6 w) + wCount w) 65535 := by
  refine h.completes rfl (by simp [hz, hn]) ?_
  have hgo := h.fetched_goesOn
  obtain ⟨hcl, hst, htok⟩ := hgo.signal (wF6 w) (wCount w)
  have hgo' := hgo.of_same hcl rfl rfl hst
  obtain ⟨n, hk⟩ := (hgo'.advance w ((s.cluster c).ipc + 16)).1
  rw [run_seq, showSeq_cluster, showSeq_tokenCount, hk, hgo'.advance_tokenCount, htok, fetch_tokenCount]
  exact ⟨rfl, rfl⟩

theorem twait_completes (h : SeqIssues s c opTwait w) (hz : wf 98 0 w = 0) : Completes (.twait c w) s fun t =>
    if wCount w ≤ tokenCount s c (wF6 w) then
      (t.cluster c).ipc = (s.cluster c).ipc + 16 ∧ (t.cluster c).twait = none ∧
      tokenCount t c (wF6 w) =
        (if wNocon w then tokenCount s c (wF6 w) else (tokenCount s c (wF6 w) - wCount w) % 65536)
    else
      (t.cluster c).ipc = (s.cluster c).ipc ∧ (t.cluster c).twait = some w ∧
      tokenCount t c (wF6 w) = tokenCount s c (wF6 w) ∧ (seqState s c = 1 → seqState t c = 2) := by
  refine h.completes rfl (by simp [hz]) ?_
  rw [run_bind, ← fetch_tokenCount s c c]
  split
  · next hn =>
    have hw := tokenTake_within c (wF6 w) (wCount w) (wNocon w)
    have hgo := h.fetched_goesOn.of_within hw (by decide) (by decide)
    obtain ⟨htrue, htok⟩ := tokenTake_ends (seqFetch s c).2 c (wNocon w) hn
    obtain ⟨n, hk⟩ := (hgo.advance w ((s.cluster c).ipc + 16)).1
    rw [htrue, if_pos rfl, showSeq_cluster, showSeq_tokenCount, hk, hgo.advance_tokenCount, htok,
      hw.same .cl (by decide), fetch_cluster]
    exact ⟨rfl, h.no_twait, rfl⟩
  · next hn =>
    rw [tokenTake_run_short _ _ _ hn]
    simp only [Bool.false_eq_true, if_false, run_seq, run_modCl, run_when, fetch_cluster, fetch_seqState]
    by_cases hs : seqState s c = 1
    · simp [hs, fetch_tokenCount]
    · simp [hs, fetch_tokenCount]

/-- The state once a SEG has put its number and its phase in ARY_STATUS and raised its event (R82). -/
def segShown (w : BitVec 128) (c : Nat) (s : State) : State := ((Prog.all [
  wrF .ARY_STATUS Fld.ARY_STATUS_LASTSEG (wf 121 106 w) c, wrF .ARY_STATUS Fld.ARY_STATUS_PHASE (wf 105 103 w) c,
  Prog.when (wf 101 101 w == 1) (.one (.emit (.segment c (wf 121 106 w))))]).run s).2

theorem bits_lt (hi lo x : Nat) : bits hi lo x < 2 ^ (hi + 1 - lo) := by
  unfold bits
  exact Nat.mod_lt _ (Nat.two_pow_pos _)

theorem segShown_status (s : State) (c : Nat) :
    (segShown w c s).rdF .ARY_STATUS Fld.ARY_STATUS_LASTSEG c = wf 121 106 w ∧
      (segShown w c s).rdF .ARY_STATUS Fld.ARY_STATUS_PHASE c = wf 105 103 w ∧
      seqState (segShown w c s) c = seqState s c ∧ (segShown w c s).cluster c = s.cluster c ∧
      (wf 101 101 w = 1 → Out.segment c (wf 121 106 w) ∈ (segShown w c s).out) := by
  have hseg : wf 121 106 w % 2 ^ 16 = wf 121 106 w := Nat.mod_eq_of_lt (bits_lt 121 106 _)
  have hphase : wf 105 103 w % 2 ^ 3 = wf 105 103 w := Nat.mod_eq_of_lt (bits_lt 105 103 _)
  have hw : (Prog.when (wf 101 101 w == 1) (.one (.emit (.segment c (wf 121 106 w))))).Within [.out] [] := by simp
  simp only [segShown, run_all_cons, run_all_nil]
  refine ⟨?_, ?_, ?_, ?_, fun h1 => ?_⟩
  · rw [State.rdF, hw.rd _ (by simp)]
    exact (wrF_keeps_apart (by decide) (by decide) (by decide) _ _ _ _ _ _).trans
      ((s.rdF_setReg_field (by decide) c 0 _).trans hseg)
  · rw [State.rdF, hw.rd _ (by simp)]
    exact (State.rdF_setReg_field _ (by decide) c 0 _).trans hphase
  · rw [hw.seqState (by simp)]
    exact (wrF_keeps_apart (by decide) (by decide) (by decide) _ _ _ _ _ _).trans
      (wrF_keeps_apart (by decide) (by decide) (by decide) _ _ _ _ _ s)
  · rw [hw.same .cl (by decide)]
    simp
  · simp [h1, Prog.when, Eff.apply]

theorem exec_seg (h : SeqIssues s c opSeg w) (hz : wf 100 0 w = 0) :
    exec (.seg c w) s = .next ((showSeq c).run ((modCl c fun k => { k with dead := wf 102 102 w == 1 }).run
      ((advance c w ((s.cluster c).ipc + 16)).run (segShown w c (seqFetch s c).2)).2).2).2 := by
  change execSeg c w s = _
  rw [execSeg, next_eq, issue_run _ h (by simp [hz])]
  simp only [segShown, run_all_cons, run_all_nil]

theorem seg_completes (h : SeqIssues s c opSeg w) (hz : wf 100 0 w = 0) : Completes (.seg c w) s fun t =>
    (t.cluster c).ipc = (s.cluster c).ipc + 16 ∧ t.rdF .ARY_STATUS Fld.ARY_STATUS_LASTSEG c = wf 121 106 w ∧
      t.rdF .ARY_STATUS Fld.ARY_STATUS_PHASE c = wf 105 103 w ∧ (t.cluster c).dead = (wf 102 102 w == 1) ∧
      (wf 101 101 w = 1 → Out.segment c (wf 121 106 w) ∈ t.out) := by
  obtain ⟨hseg, hphase, hst, hcl, hout⟩ := segShown_status (w := w) (seqFetch s c).2 c
  have hgo := h.fetched_goesOn.of_same hcl rfl rfl hst
  obtain ⟨⟨n, hk⟩, hrd⟩ := hgo.advance w ((s.cluster c).ipc + 16)
  have hfield (g : Field) : State.rdF _ .ARY_STATUS g c 0 = State.rdF (segShown w c (seqFetch s c).2) .ARY_STATUS g c 0 :=
    congrArg (getF g) (hrd .ARY_STATUS (by decide) c 0)
  refine ⟨_, exec_seg h hz, ?_, ?_, ?_, ?_, fun h1 => ?_⟩
  · rw [showSeq_cluster, run_modCl, cluster_setCl, if_pos rfl, hk, hcl, fetch_cluster]
    rfl
  · rw [showSeq_rdF c (by decide) (by decide), run_modCl, rdF_setCl, hfield, hseg]
  · rw [showSeq_rdF c (by decide) (by decide), run_modCl, rdF_setCl, hfield, hphase]
  · rw [showSeq_cluster, run_modCl, cluster_setCl, if_pos rfl]
  · rw [showSeq_out]
    exact run_out_mem _ (run_out_mem _ (hout h1))

theorem lset_completes (h : SeqIssues s c opLset w) (hz : wf 121 114 w = 0) (hz' : wf 79 0 w = 0) :
    Completes (.lset c w) s fun t =>
      (t.cluster c).ipc = (s.cluster c).ipc + 16 ∧ (t.cluster c).loop (wf 113 112 w) = BitVec.ofNat 32 (wf 111 80 w) := by
  refine h.completes rfl (by simp [hz, hz']) ?_
  rw [showSeq_cluster, h.fetched_goesOn.modCl_advance_cluster, fetch_cluster]
  · exact ⟨rfl, Tab.at_upd_same _ _ _⟩
  · exact fun _ => rfl
  · exact fun _ => rfl

theorem endWord_completes (h : SeqIssues s c opEnd w) (hz : wf 121 0 w = 0) : Completes (.endWord c w) s fun t =>
    (t.cluster c).ipc = (s.cluster c).ipc + 16 ∧ (seqState s c = 1 → seqState t c = 0) ∧
      (seqState s c = 7 → seqState t c = 7 ∧ (t.cluster c).lentRun = false) := by
  refine h.completes rfl (by simp [hz]) ?_
  obtain ⟨n, hk⟩ := (h.fetched_goesOn.advance w ((s.cluster c).ipc + 16)).1
  have hst := h.fetched_goesOn.advance_seqState w ((s.cluster c).ipc + 16)
  rw [fetch_cluster] at hk
  rw [fetch_seqState] at hst
  rw [run_seq, fetch_seqState]
  split
  · next h7 =>
    have h7 : seqState s c = 7 := by simpa using h7
    simp only [run_modCl, showSeq_cluster, cluster_setCl, if_true, showSeq_seqState, seqState_setCl, hk, hst, h7]
    exact ⟨rfl, by decide, fun _ => ⟨trivial, trivial⟩⟩
  · next h7 =>
    simp only [showSeq_cluster, setSeq_cluster, showSeq_seqState, setSeq_seqState, hk]
    exact ⟨rfl, fun _ => rfl, fun h => absurd h (by simpa using h7)⟩

theorem dload_completes (h : SeqIssues s c opDload w) (hz : wf 91 0 w = 0) {d : List Byte}
    (hd : ((vget (seqUnit s c) (((s.rd .ARY_DTAB_BASE c).toNat + 64 * wIndex w) % 2 ^ 48) 64).run (seqFetch s c).2).1 = .ok d) :
    Completes (.dload c w) s fun t => (t.cluster c).ipc = (s.cluster c).ipc + 16 ∧
      Tab.at none (t.cluster c).slots (wF6 w) =
        (if descOk (BitVec.ofNat 512 (leNat d)) then some (BitVec.ofNat 512 (leNat d)) else none) := by
  refine h.completes rfl (by simp [hz]) ?_
  have hw := vget_within (seqUnit s c) (((s.rd .ARY_DTAB_BASE c).toNat + 64 * wIndex w) % 2 ^ 48) 64 .read
  have hgo := h.fetched_goesOn.of_within hw (by decide) (by decide)
  rw [fetch_seqUnit, fetch_rd s c _ (by decide), run_bind, hd]
  rw [showSeq_cluster, hgo.modCl_advance_cluster, hw.same .cl (by decide), fetch_cluster]
  · exact ⟨rfl, Tab.at_upd_same _ _ _⟩
  · exact fun _ => rfl
  · exact fun _ => rfl

end Words

/-- Settles O5, word by word. -/
theorem plainScheduleWords : Obligations.PlainScheduleWords := fun _ _ _ =>
  ⟨nop_completes, tsig_completes, twait_completes, seg_completes, lset_completes, endWord_completes,
    fun h hz _ => dload_completes h hz⟩

end Sys2Proof.Machine

/-! ### BRF (R82, R85) -/

namespace Sys2Proof.Machine
open Prog

section Branch
variable {c : Fin 32} {w : BitVec 128} {s : State}

/-- A state in which a sequencer goes on at an address, with no decision open and every token as before. -/
structure Branches (s : State) (c : Nat) (a : BitVec 48) (t : State) : Prop where
  ipc    : (t.cluster c).ipc = a
  decs   : (t.cluster c).decs = []
  tokens : ∀ x, tokenCount t c x = tokenCount s c x

theorem SeqIssues.branches {op : Nat} (h : SeqIssues s c op w) (a : BitVec 48) :
    Branches s c a ((showSeq c).run ((advance c w a).run (seqFetch s c).2).2).2 := by
  obtain ⟨n, hk⟩ := (h.fetched_goesOn.advance w a).1
  refine ⟨?_, ?_, fun x => ?_⟩
  · rw [showSeq_cluster, hk]
    rfl
  · rw [showSeq_cluster, hk, fetch_cluster]
    exact h.sure
  · rw [showSeq_tokenCount, h.fetched_goesOn.advance_tokenCount, fetch_tokenCount]

/-- A branch on a loop counter counts it down, and falls through once it has reached 0. -/
theorem brf_loop (h : SeqIssues s c opBrf w) (x : Nat) (a : BitVec 48) :
    let n := (s.cluster c).loop x - 1
    let t := ((showSeq c).run (((advance c w a).seq (modCl c fun k => { k with loops := Tab.upd 0 k.loops x n })).run
      (seqFetch s c).2).2).2
    (t.cluster c).loop x = n ∧ (t.cluster c).decs = [] ∧ (t.cluster c).ipc = a := by
  obtain ⟨n, hk⟩ := (h.fetched_goesOn.advance w a).1
  dsimp only
  rw [showSeq_cluster, run_seq, run_modCl, cluster_setCl, if_pos rfl, hk, fetch_cluster]
  exact ⟨Tab.at_upd_same _ _ _, h.sure, rfl⟩

theorem brf_completes (h : SeqIssues s c opBrf w) (hok : brfOk w = true) :
    let k := s.cluster c
    Completes (.brf c w) s fun t =>
      (wCond w = 0 → (t.cluster c).ipc = branchTo k w ∧ (t.cluster c).decs = []) ∧
      (wCond w = 1 → (t.cluster c).loop (wArg w) = k.loop (wArg w) - 1 ∧ (t.cluster c).decs = [] ∧
        (t.cluster c).ipc = (if k.loop (wArg w) = 1 then k.ipc + 16 else branchTo k w)) ∧
      (wCond w = 2 → (t.cluster c).decs = [] ∧ tokenCount t c (wArg w) = tokenCount s c (wArg w) ∧
        (t.cluster c).ipc = (if wImm w ≤ tokenCount s c (wArg w) then branchTo k w else k.ipc + 16)) ∧
      (wCond w = 3 → (t.cluster c).ipc = branchTo k w ∧ ∃ d, (t.cluster c).decs = [d] ∧ d.addr = k.ipc ∧
        d.kind = .step (s.binding ((s.ownerCl c).getD 0)).step none) := by
  refine h.completes rfl hok ?_
  have hcond : wCond w ≤ 3 := by
    simp only [brfOk, Bool.and_eq_true, decide_eq_true_eq] at hok
    exact hok.1.1.2
  obtain hc | hc | hc | hc : wCond w = 0 ∨ wCond w = 1 ∨ wCond w = 2 ∨ wCond w = 3 := by omega
  case inl =>
    obtain ⟨hipc, hdecs, -⟩ := h.branches (branchTo (s.cluster c) w)
    simp only [hc]
    exact ⟨fun _ => ⟨hipc, hdecs⟩, by simp⟩
  case inr.inl =>
    obtain ⟨hloop, hdecs, hipc⟩ := brf_loop h (wArg w)
      (if (s.cluster c).loop (wArg w) - 1 = 0 then (s.cluster c).ipc + 16 else branchTo (s.cluster c) w)
    simp only [hc]
    refine ⟨by simp, fun _ => ⟨hloop, hdecs, hipc.trans ?_⟩, by simp⟩
    simp only [sub_eq_zero]
  case inr.inr.inl =>
    obtain ⟨hipc, hdecs, htok⟩ := h.branches
      (if wImm w ≤ tokenCount s c (wArg w) then branchTo (s.cluster c) w else (s.cluster c).ipc + 16)
    simp only [hc, fetch_tokenCount]
    exact ⟨by simp, by simp, fun _ => ⟨hdecs, htok _, hipc⟩, by simp⟩
  case inr.inr.inr =>
    have hbnd : (seqFetch s c).2.binding = s.binding := funext ((vget_within _ _ _ _).same .bnd (by decide) s)
    have howner : (seqFetch s c).2.ownerCl c = s.ownerCl c := (vget_within _ _ _ _).ownerCl (by decide) s c
    simp only [hc, h.sure, List.length_nil, List.filter_nil, hbnd, howner, if_neg (show ¬ 4 ≤ 0 by decide), run_modCl,
      showSeq_cluster, cluster_setCl, if_true, fetch_cluster]
    exact ⟨by simp, by simp, by simp, fun _ => ⟨rfl, _, rfl, rfl, rfl⟩⟩

end Branch

/-- Settles O6, condition by condition. -/
theorem branchFollowsItsCondition : Obligations.BranchFollowsItsCondition := fun _ _ _ => brf_completes

end Sys2Proof.Machine

/-! ### Reserved operation codes (R76, R77, R94, R98) -/

namespace Sys2Proof.Machine
open Prog

section Illegal
variable {c : Fin 32} {s : State}

/-- A word of a reserved opcode comes to the halt of its sequencer, whichever row sends it. -/
theorem issue_run_reserved {op : Nat} {w : BitVec 128} (spec : Bool) (legal : State → Cluster → Bool)
    (body : State → Cluster → Prog Unit) (h : SeqIssues s c (wOp w) w) (hw : opcodes.contains (wOp w) = false)
    (hop : opcodes.contains op = true) :
    ((issue c op spec w legal body).run s).2 = ((illegalWord c).run (seqFetch s c).2).2 := by
  obtain ⟨d, hd⟩ := h.fetch
  have e : (vget (seqUnit s c) (s.cluster c).ipc.toNat 16 .exec).run s = (.ok d, (seqFetch s c).2) := Prod.ext hd rfl
  have hne : wOp w ≠ op := fun he => by rw [← he, hw] at hop; cases hop
  unfold issue
  simp only [run_get, h.ready, Bool.not_true, Bool.false_eq_true, if_false, hw, and_false, run_bind, e, fetch_cluster, h.sure,
    Cluster.watched', List.map_nil, List.foldl_nil]
  simp [hne]

/-- How a halt is reported: the cluster error event, the failure of the device, and the unit it is lent to (R77, R98). -/
def haltReported (c : Nat) : Prog Unit := Prog.all [errEvent (.clusterError c), selfFailure 3, lentError c]

/-- The report of a halt, where the cluster is not lent, leaves every register but GLB_EVT, and its event is raised. -/
theorem haltReported_leaves (hlu : s.lentLu c = none) (hsu : s.lentSu c = none) :
    let t := ((haltReported c).run s).2
    (∀ r, r ≠ .GLB_EVT → ∀ i j, t.rd r i j = s.rd r i j) ∧ Out.clusterError c ∈ t.out := by
  have hevent : (errEvent (.clusterError c)).Within [.out, .reg] [.GLB_EVT] := by
    simp (maxDischargeDepth := 30) [errEvent, glbEvent]
  have hself : (selfFailure 3).Within [.out, .fw] [] := by simp (maxDischargeDepth := 30) [selfFailure, modFw_within]
  have hout : Out.clusterError c ∈ ((errEvent (.clusterError c)).run s).2.out :=
    run_out_mem (glbEvent 1) (s := (Eff.emit (.clusterError c)).apply s) (List.mem_cons_self)
  have hl := hevent.lent (by decide) (by decide) s c
  have hl' := hself.lent (by decide) (by decide) ((errEvent (.clusterError c)).run s).2 c
  have hfree : (haltReported c).run s = (selfFailure 3).run ((errEvent (.clusterError c)).run s).2 := by
    simp only [haltReported, run_all_cons, run_all_nil, lentError, run_get, hl'.1, hl'.2, hl.1, hl.2, hlu, hsu, run_skip]
  dsimp only
  rw [hfree]
  refine ⟨fun r hr i j => ?_, run_out_mem _ hout⟩
  rw [hself.rd r (by simp), hevent.rd r (by simpa using hr)]

/-- A halt: STATE 6, the address of the word or instruction, ILLEGAL, and the report (R77, R98). -/
def halt (c : Nat) (status addr err : RegName) (state illegal : Field) (v : Word) : Prog Unit :=
  (Prog.all [wrF status state 6 c, wr addr v c, setF err illegal c]).seq (haltReported c)

theorem halt_leaves {status addr err : RegName} {state illegal : Field} (hs : fieldFits state status = true)
    (he : fieldFits illegal err = true)
    (hn : [status, addr, err, RegName.GLB_ID, .GLB_EVT, .LND_LENT, .SLV_LENT].Nodup) (v : Word) (hlu : s.lentLu c = none)
    (hsu : s.lentSu c = none) :
    let t := ((halt c status addr err state illegal v).run s).2
    t.rdF status state c = 6 % 2 ^ state.w ∧ t.rdF err illegal c = 1 % 2 ^ illegal.w ∧ t.rd addr c = v &&& regMask addr ∧
      Out.clusterError c ∈ t.out := by
  simp only [List.nodup_cons, List.mem_cons, not_or, List.not_mem_nil, not_false_eq_true, and_true] at hn
  obtain ⟨⟨hsa, hse, -, hsv, hslu, hssu⟩, ⟨hae, hai, hav, halu, hasu⟩, ⟨-, hev, helu, hesu⟩, -⟩ := hn
  let regs : Prog Unit := Prog.all [wrF status state 6 c, wr addr v c, setF err illegal c]
  have hregs : regs.Within [.reg] [status, addr, err] := by simp (maxDischargeDepth := 30) [regs]
  obtain ⟨hlu', hsu'⟩ := hregs.lent (by simp [Ne.symm hslu, Ne.symm halu, Ne.symm helu])
    (by simp [Ne.symm hssu, Ne.symm hasu, Ne.symm hesu]) s c
  obtain ⟨hrd, hout⟩ := haltReported_leaves (hlu'.trans hlu) (hsu'.trans hsu)
  refine ⟨(congrArg (getF _) (hrd status hsv c 0)).trans ?_, (congrArg (getF _) (hrd err hev c 0)).trans ?_,
    (hrd addr hav c 0).trans ?_, hout⟩
  · change State.rdF _ status state c 0 = _
    simp only [regs, run_all_cons, run_all_nil, run_setF, run_wr, run_wrF]
    rw [State.rdF_setReg_name_ne _ hse, State.rdF_setReg_name_ne _ hsa, State.rdF_setReg_field _ hs]
  · exact State.rdF_setReg_field _ he c 0 1
  · simp only [regs, run_all_cons, run_all_nil, run_setF, run_wr]
    rw [State.rd_setReg_name_ne _ hae, State.rd_setReg_same _ _ _ _ _ hai]

/-- A sequencer with nothing speculative that is not lent halts at an illegal word (R77). -/
theorem illegalWord_halts (hdecs : (s.cluster c).decs = []) (hlu : s.lentLu c = none) (hsu : s.lentSu c = none) :
    let t := ((illegalWord c).run s).2
    seqState t c = 6 ∧ t.rdF .ARY_ERR Fld.ARY_ERR_ILLEGAL c = 1 ∧
      t.rd .ARY_ERRADDR c = (s.cluster c).ipc.zeroExtend 64 &&& regMask .ARY_ERRADDR ∧ Out.clusterError c ∈ t.out := by
  have hrun : (illegalWord c).run s = (halt c .ARY_STATUS .ARY_ERRADDR .ARY_ERR Fld.ARY_STATUS_STATE Fld.ARY_ERR_ILLEGAL
      ((s.cluster c).ipc.zeroExtend 64)).run s := by
    simp only [illegalWord, run_get, hdecs, List.isEmpty_nil, if_true, halt, haltReported, setSeq, run_seq,
      run_all_cons, run_all_nil]
  rw [hrun]
  exact halt_leaves (by decide) (by decide) (by decide) _ hlu hsu

/-- An engine that is not lent halts at an illegal instruction (R98). -/
theorem illegalVec_halts (hlu : s.lentLu c = none) (hsu : s.lentSu c = none) :
    let t := ((illegalVec c).run s).2
    vecState t c = 6 ∧ t.rdF .VEC_ERR Fld.VEC_ERR_ILLEGAL c = 1 ∧
      t.rd .VEC_ERRADDR c = (s.cluster c).vpc.zeroExtend 64 &&& regMask .VEC_ERRADDR ∧ Out.clusterError c ∈ t.out := by
  have hrun : (illegalVec c).run s = (halt c .VEC_STATUS .VEC_ERRADDR .VEC_ERR Fld.VEC_STATUS_STATE Fld.VEC_ERR_ILLEGAL
      ((s.cluster c).vpc.zeroExtend 64)).run s := by
    simp only [illegalVec, run_get, halt, haltReported, setVecSt, run_seq, run_all_cons, run_all_nil]
  rw [hrun]
  exact halt_leaves (by decide) (by decide) (by decide) _ hlu hsu

theorem fetch_lent (s : State) (c : Nat) :
    (seqFetch s c).2.lentLu c = s.lentLu c ∧ (seqFetch s c).2.lentSu c = s.lentSu c :=
  (vget_within _ _ _ _).lent (by decide) (by decide) s c

theorem vecFetch_lent (s : State) (c : Nat) :
    (vecFetch s c).2.lentLu c = s.lentLu c ∧ (vecFetch s c).2.lentSu c = s.lentSu c :=
  (vget_within _ _ _ _).lent (by decide) (by decide) s c

/-- A row of the sequencer halts it at a word of a reserved opcode. -/
theorem reserved_word_halts {w : BitVec 128} (h : SeqIssues s c (wOp w) w) (hw : opcodes.contains (wOp w) = false)
    (hlu : s.lentLu c = none) (hsu : s.lentSu c = none) {i : Instr}
    (hi : ∃ op spec legal body, exec i s = (issue c op spec w legal body).next s ∧ opcodes.contains op = true) :
    Completes i s fun t => seqState t c = 6 ∧ t.rdF .ARY_ERR Fld.ARY_ERR_ILLEGAL c = 1 ∧
      t.rd .ARY_ERRADDR c = (s.cluster c).ipc.zeroExtend 64 &&& regMask .ARY_ERRADDR ∧ Out.clusterError c ∈ t.out := by
  obtain ⟨op, spec, legal, body, he, hop⟩ := hi
  refine .of_next he ?_
  obtain ⟨hlu', hsu'⟩ := fetch_lent s c
  rw [issue_run_reserved spec legal body h hw hop, ← fetch_cluster s c c]
  exact illegalWord_halts (by rw [fetch_cluster, h.sure]) (hlu'.trans hlu) (hsu'.trans hsu)

/-- A row of the vector engine halts it at an instruction of a reserved code. -/
theorem reserved_instr_halts {w : BitVec 64} (h : VecIssues s c (vOp w) w) (hw : vopcodes.contains (vOp w) = false)
    (hlu : s.lentLu c = none) (hsu : s.lentSu c = none) {i : Instr}
    (hi : ∃ op legal body, exec i s = (vissue c op w legal body).next s ∧ vopcodes.contains op = true) :
    Completes i s fun t => vecState t c = 6 ∧ t.rdF .VEC_ERR Fld.VEC_ERR_ILLEGAL c = 1 ∧
      t.rd .VEC_ERRADDR c = (s.cluster c).vpc.zeroExtend 64 &&& regMask .VEC_ERRADDR ∧ Out.clusterError c ∈ t.out := by
  obtain ⟨op, legal, body, he, hop⟩ := hi
  obtain ⟨d, hd⟩ := h.fetch
  have e : (vget (vecUnit s c) (s.cluster c).vpc.toNat 8 .exec).run s = (.ok d, (vecFetch s c).2) := Prod.ext hd rfl
  have hne : vOp w ≠ op := fun he => by rw [← he, hw] at hop; cases hop
  have hrun : ((vissue c op w legal body).run s).2 = ((showVec c).run ((illegalVec c).run (vecFetch s c).2).2).2 := by
    unfold vissue
    simp only [run_get, h.ready, Bool.not_true, Bool.false_eq_true, if_false, hw, and_false, run_bind, e]
    simp [hne]
  obtain ⟨hlu', hsu'⟩ := vecFetch_lent s c
  obtain ⟨hst, herr, haddr, hout⟩ := illegalVec_halts (hlu'.trans hlu) (hsu'.trans hsu)
  rw [vecFetch_cluster] at haddr
  refine .of_next he ?_
  rw [hrun]
  exact ⟨((showVec_within c).vecState (by decide) _ c).trans hst,
    (congrArg (getF _) ((showVec_within c).rd .VEC_ERR (by decide) c 0 _)).trans herr,
    ((showVec_within c).rd .VEC_ERRADDR (by decide) c 0 _).trans haddr, run_out_mem _ hout⟩

/-- A reduction is the issue of its operation. -/
theorem reduction_issues (c op : Nat) (rounds : Bool) (zero : Fmt → Nat) (f : Fmt → Rm → Nat → Nat → Nat × Flags)
    (w : BitVec 64) : ∃ legal body, reduction c op rounds zero f w = vissue c op w legal body := by
  unfold reduction
  exact ⟨_, _, rfl⟩

end Illegal

/-- Settles O11: every row listed is the issue of a code that has a row, and a word of a reserved code is no such row's. -/
theorem reservedOpcodesHalt : Obligations.ReservedOpcodesHalt := by
  refine ⟨fun c w s h hw hlu hsu i hi => reserved_word_halts h hw hlu hsu ?_,
    fun c w s h hw hlu hsu i hi => reserved_instr_halts h hw hlu hsu ?_⟩
  · revert i
    simp only [List.forall_mem_cons]
    refine ⟨?_, ?_, ?_, ?_, ?_, ?_, ?_, ?_, ?_, ?_, ?_, ?_, ?_, ?_, fun _ h => nomatch h⟩ <;> exact ⟨_, _, _, _, rfl, rfl⟩
  · obtain ⟨legal, body, hsum⟩ := reduction_issues c 0x28 true (fun _ => 0) (fun f rm a b => f.add rm a b) w
    revert i
    simp only [List.forall_mem_cons]
    refine ⟨?_, ?_, ?_, ?_, ?_, ?_, ⟨_, legal, body, congrArg (Prog.next · s) hsum, rfl⟩, ?_, ?_, ?_, ?_, ?_, ?_, ?_, ?_, ?_, ?_,
      ?_, ?_, ?_, ?_, ?_, fun _ h => nomatch h⟩ <;> exact ⟨_, _, _, rfl, rfl⟩

end Sys2Proof.Machine

/-! ### What leaves once it is no longer speculative (R88, R91) -/

namespace Sys2Proof.Machine
open Prog

section Release
variable {c : Nat} {s : State}

/-- Where nothing waits to leave, a wait for granules ends (R91). -/
theorem release_run_nothing (hout : (s.cluster c).out = []) (fuel : Nat) :
    (release c (fuel + 1)).run s = (Prog.when (seqState s c == 3) (setSeq c 1)).run s := by
  rw [release]
  simp only [run_get, hout]

/-- Where nothing waits to leave and no granules are waited for, a release changes nothing. -/
theorem releaseAll_run_nothing (hout : (s.cluster c).out = []) (h3 : seqState s c ≠ 3) : (releaseAll c).run s = ((), s) := by
  rw [releaseAll, run_get]
  split
  · rfl
  · rw [release_run_nothing hout, run_when, if_neg (by simpa using h3)]

/-- Where no decision is open, none resolves. -/
theorem settle_run_nothing (hdecs : (s.cluster c).decs = []) (fuel : Nat) : (settle c fuel).run s = ((), s) := by
  cases fuel with
  | zero => rfl
  | succ fuel => simp [settle, hdecs]

/-- The entry of the slipway that a tile becomes (R91). -/
def slipEntryOf (c : Nat) (x : Tile) : SlipEntry :=
  ⟨8 * c + x.array, BitVec.ofNat 16 (wTag x.word), wOfmt x.word, x.sat, x.codes, 0⟩

/-- A tile of a TEMIT leaves its output stage for the slipway (R71, R91). -/
def emitTile (c : Nat) (x : Tile) (r : List Held) : Prog Unit :=
  (modCl c fun k => { k with out := r }).seq ((slipPush c x).seq (tileLeft c x))

theorem tileLeft_within (x : Tile) : (tileLeft c x).Within [.reg] [.ARY_FLAGS, .ARY_TOKEN, .ARY_ERR] := by
  have h := (tokenAdd_within (c := c) (wTok x.word) 1).mono (l' := [.reg]) (n' := [.ARY_FLAGS, .ARY_TOKEN, .ARY_ERR])
    (by decide) (by decide)
  simp (maxDischargeDepth := 30) [tileLeft, h]

theorem slipPush_cluster (x : Tile) (s : State) :
    ((slipPush c x).run s).2.cluster c = { s.cluster c with slip := (s.cluster c).slip ++ [slipEntryOf c x] } := by
  have hw : (Prog.when x.sat (count (setCluster c) 0x18)).Within readParts memNames := Within.when (count_within _ _ _ _)
  rw [slipPush, run_seq, hw.same .cl (by decide), run_modCl, cluster_setCl, if_pos rfl]
  rfl

theorem slipPush_seqState (x : Tile) (s : State) : seqState ((slipPush c x).run s).2 c = seqState s c := by
  have hw : (Prog.when x.sat (count (setCluster c) 0x18)).Within readParts memNames := Within.when (count_within _ _ _ _)
  rw [slipPush, run_seq, hw.seqState (by decide), run_modCl, seqState_setCl]

theorem emitTile_cluster (x : Tile) (r : List Held) (s : State) : ((emitTile c x r).run s).2.cluster c =
    { s.cluster c with out := r, slip := (s.cluster c).slip ++ [slipEntryOf c x] } := by
  rw [emitTile, run_seq, run_seq, (tileLeft_within x).same .cl (by decide), slipPush_cluster, run_modCl, cluster_setCl,
    if_pos rfl]

theorem emitTile_seqState (x : Tile) (r : List Held) (s : State) : seqState ((emitTile c x r).run s).2 c = seqState s c := by
  rw [emitTile, run_seq, run_seq, (tileLeft_within x).seqState (by decide), slipPush_seqState, run_modCl, seqState_setCl]

/-- A release whose first tile is a TEMIT's and has its granules free puts it in the slipway, and goes on. -/
theorem release_run_emit {x : Tile} {r : List Held} (fuel : Nat) (hout : (s.cluster c).out = .tile x :: r)
    (hop : wOp x.word = opTemit) (hfree : granules (wOfmt x.word) ≤ (s.cluster c).slipFree) :
    (release c (fuel + 1)).run s = (release c fuel).run ((emitTile c x r).run s).2 := by
  rw [release]
  simp only [run_get, hout, hop, if_true, hfree, run_seq, emitTile]

/-- A release whose first tile is a TEMIT's and lacks granules waits for them (R91). -/
theorem release_run_wait {x : Tile} {r : List Held} (fuel : Nat) (hout : (s.cluster c).out = .tile x :: r)
    (hop : wOp x.word = opTemit) (hfree : ¬ granules (wOfmt x.word) ≤ (s.cluster c).slipFree) :
    (release c (fuel + 1)).run s = (Prog.when (seqState s c == 1) (setSeq c 3)).run s := by
  rw [release]
  simp only [run_get, hout, hop, if_true, hfree, if_false]

end Release

/-! ### The commands of a sequencer (R83, R89, R108) -/

section Commands
variable (c : Fin 32) (s : State)

theorem aryIgnored_leaves : let t := ((aryIgnored c).run s).2
    t.rdF .ARY_ERR Fld.ARY_ERR_CMDIGN c = 1 ∧ seqState t c = seqState s c ∧ t.cluster c = s.cluster c :=
  ⟨s.rdF_setReg_field (by decide) c 0 1, s.rdF_setReg_name_ne (by decide) _ _ _ _ _ _, cluster_setReg _ _ _ _⟩

theorem aryStart_completes : Completes (.aryStart c) s fun t =>
    if seqState s c = 0 ∧ (s.ownerCl c).isSome then
      seqState t c = 1 ∧ (t.cluster c).ipc = (s.rd .ARY_SCHED_BASE c).truncate 48 ∧ (t.cluster c).log = [] ∧
      (t.cluster c).decs = [] ∧ t.rd .ARY_ERR c = s.rd .ARY_ERR c
    else t.rdF .ARY_ERR Fld.ARY_ERR_CMDIGN c = 1 ∧ seqState t c = seqState s c ∧ t.cluster c = s.cluster c := by
  refine .of_next (p := aryStartDo c) rfl ?_
  simp only [aryStartDo, run_get, Bool.and_eq_true, beq_iff_eq]
  split
  · have hrd (m : State) : ((showSeq c).run ((setSeq c 1).run m).2).2.rd .ARY_ERR c = m.rd .ARY_ERR c := by
      rw [showSeq_rd c (by decide) (by decide), (setSeq_within c 1).rd _ (by decide)]
    simp [startAt, hrd]
  · exact aryIgnored_leaves c s

theorem squashStep_keeps_drain (d : Dec) (next : BitVec 48) : (squashStep c d next).Keeps fun s => (s.cluster c).drain := by
  have hcount (n : Nat) : (countSquash c n).Within readParts memNames := Within.seq (count_within _ _ _ _)
    (Within.when (count_within _ _ _ _))
  unfold squashStep
  exact .get fun s => .all_cons (Prog.Within.keeps_cluster (hcount _) (by decide) Cluster.drain c)
    (.all_cons (modCl_keeps (F := Cluster.drain) fun _ => rfl) .all_nil)

theorem aryStop_completes : Completes (.aryStop c) s fun t =>
    if seqState s c = 1 ∨ seqState s c = 2 ∨ seqState s c = 3 then (t.cluster c).drain = true else t = s := by
  refine .of_next (p := aryStopDo c) rfl ?_
  simp only [aryStopDo, run_get, Bool.or_eq_true, beq_iff_eq, or_assoc]
  split
  · simp only [drainSeq, run_get, run_all_cons, run_all_nil, showSeq_cluster]
    split
    · exact (squashStep_keeps_drain c _ _ _).trans (by simp)
    · rw [run_skip, run_modCl, cluster_setCl, if_pos rfl]
  · rfl

theorem sequencerDrained_completes : Completes (.sequencerDrained c) s fun t =>
    if (s.cluster c).drain ∧ (s.cluster c).decs = [] ∧ (seqState s c = 1 ∨ seqState s c = 2 ∨ seqState s c = 3) then
      seqState t c = 4 ∧ (t.cluster c).drain = false ∧ (t.cluster c).twait = none
    else t = s := by
  refine .of_next rfl ?_
  simp only [run_get, Bool.and_eq_true, Bool.or_eq_true, beq_iff_eq, List.isEmpty_iff, and_assoc, or_assoc]
  split
  · simp
  · rfl

theorem aryResume_completes (hout : (s.cluster c).out = []) (hdecs : (s.cluster c).decs = []) :
    Completes (.aryResume c) s fun t =>
      if seqState s c = 4 ∨ seqState s c = 5 then seqState t c = 1 ∧ t.cluster c = s.cluster c
      else t.rdF .ARY_ERR Fld.ARY_ERR_CMDIGN c = 1 ∧ seqState t c = seqState s c := by
  refine .of_next (p := aryResumeDo c) rfl ?_
  simp only [aryResumeDo, run_get, Bool.or_eq_true, beq_iff_eq]
  split
  · have hrel := releaseAll_run_nothing (c := c) (s := ((setSeq c 1).run s).2) (by rwa [setSeq_cluster])
      (by rw [setSeq_seqState]; decide)
    simp only [run_all_cons, run_all_nil, hrel, run_get]
    rw [settle_run_nothing (by rwa [setSeq_cluster])]
    simp
  · obtain ⟨hign, hst, -⟩ := aryIgnored_leaves c s
    exact ⟨hign, hst⟩

/-- A token that would pass 65535 records it (R83). -/
theorem tokenAdd_overflows {x n : Nat} (h : 65535 < tokenCount s c x + n) :
    ((tokenAdd c x n).run s).2.rdF .ARY_ERR Fld.ARY_ERR_TOKOVF c = 1 := by
  simp only [tokenAdd, run_get, run_seq, h, decide_true, run_when, if_true]
  exact State.rdF_setReg_field _ (by decide) c 0 1

theorem twaitRelease_completes {w : BitVec 128} (hw : (s.cluster c).twait = some w) (hout : (s.cluster c).out = [])
    (hdecs : (s.cluster c).decs = []) (hst : seqState s c = 2) : Completes (.twaitRelease c) s fun t =>
      if wCount w ≤ tokenCount s c (wF6 w) then
        seqState t c = 1 ∧ (t.cluster c).twait = none ∧ (t.cluster c).ipc = (s.cluster c).ipc + 16 ∧
        tokenCount t c (wF6 w) =
          (if wNocon w then tokenCount s c (wF6 w) else (tokenCount s c (wF6 w) - wCount w) % 65536)
      else t = s := by
  refine .of_next rfl ?_
  simp only [run_get, hw, hst, beq_self_eq_true, Bool.true_or, Bool.not_true, Bool.false_eq_true, if_false, run_bind]
  split
  · next hn =>
    obtain ⟨htrue, htok⟩ := tokenTake_ends s c (wNocon w) hn
    have htake := tokenTake_within c (wF6 w) (wCount w) (wNocon w)
    rw [htrue, if_pos rfl]
    generalize hm : ((tokenTake c (wF6 w) (wCount w) (wNocon w)).run s).2 = m at htok
    have hcl : m.cluster c = s.cluster c := hm ▸ htake.same .cl (by decide) s c
    have hgo : GoesOn ((setSeq c 1).run ((Eff.setCl c { s.cluster c with twait := none }).apply m)).2 c :=
      ⟨by simpa using hdecs, by simpa using hout, by simp, by simp⟩
    obtain ⟨n, hk⟩ := (hgo.advance w ((s.cluster c).ipc + 16)).1
    have hst'' := hgo.advance_seqState w ((s.cluster c).ipc + 16)
    have htok' := hgo.advance_tokenCount w ((s.cluster c).ipc + 16)
    simp only [run_all_cons, run_all_nil, run_modCl, hcl, run_when, if_true,
      showSeq_seqState, showSeq_cluster, showSeq_tokenCount, hk, hst'', htok', setSeq_seqState, setSeq_cluster, cluster_setCl,
      setSeq_tokenCount, tokenCount_setCl, htok]
    exact ⟨by decide, rfl, rfl, trivial⟩
  · next hn =>
    rw [tokenTake_run_short _ _ _ hn]
    rfl

theorem temitSlipRelease_completes {x : Tile} (hout : (s.cluster c).out = [.tile x]) (hop : wOp x.word = opTemit)
    (hst : seqState s c = 3) : Completes (.temitSlipRelease c) s fun t =>
      if granules (wOfmt x.word) ≤ (s.cluster c).slipFree then
        seqState t c = 1 ∧ (t.cluster c).out = [] ∧ (t.cluster c).slip = (s.cluster c).slip ++
          [⟨8 * c + x.array, BitVec.ofNat 16 (wTag x.word), wOfmt x.word, x.sat, x.codes, 0⟩]
      else seqState t c = 3 ∧ (t.cluster c).slip = (s.cluster c).slip ∧ (t.cluster c).out = (s.cluster c).out := by
  refine .of_next rfl ?_
  simp only [run_get, hst, beq_self_eq_true, Bool.true_or, if_true, run_seq, releaseAll, hout, List.length_cons, List.length_nil,
    show ((3 : Nat) == 5) = false from rfl, Bool.false_eq_true, if_false]
  split
  · next hfree =>
    rw [release_run_emit _ hout hop hfree, release_run_nothing (by rw [emitTile_cluster])]
    simp [emitTile_cluster, emitTile_seqState, hst, slipEntryOf]
  · next hfree =>
    rw [release_run_wait _ hout hop hfree]
    simp [hst, hout]

end Commands

/-! ### The commands of a vector engine (R83, R109) -/

section VecCommands
variable (c : Fin 32) (s : State)

theorem setVecSt_within (c x : Nat) : (setVecSt c x).Within [.reg] [.VEC_STATUS] := by
  simp [setVecSt]

@[simp] theorem setVecSt_cluster (c x : Nat) (s : State) (a : Nat) : ((setVecSt c x).run s).2.cluster a = s.cluster a :=
  (setVecSt_within c x).same .cl (by decide) s a

@[simp] theorem setVecSt_tokenCount (c x : Nat) (s : State) (a y : Nat) :
    tokenCount ((setVecSt c x).run s).2 a y = tokenCount s a y := (setVecSt_within c x).tokenCount (by decide) s a y

@[simp] theorem setVecSt_vecState (c x : Nat) (s : State) : vecState ((setVecSt c x).run s).2 c = x % 2 ^ 3 :=
  s.rdF_setReg_field (by decide) c 0 x

@[simp] theorem showVec_cluster (c : Nat) (s : State) (a : Nat) : ((showVec c).run s).2.cluster a = s.cluster a :=
  (showVec_within c).same .cl (by decide) s a

@[simp] theorem showVec_vecState (c : Nat) (s : State) (a : Nat) : vecState ((showVec c).run s).2 a = vecState s a :=
  (showVec_within c).vecState (by decide) s a

@[simp] theorem showVec_tokenCount (c : Nat) (s : State) (a x : Nat) :
    tokenCount ((showVec c).run s).2 a x = tokenCount s a x := (showVec_within c).tokenCount (by decide) s a x

@[simp] theorem showVec_byte (c : Nat) (s : State) (a : Nat) : ((showVec c).run s).2.byte a = s.byte a :=
  (showVec_within c).same .mem (by decide) s a

theorem vecIgnored_leaves : let t := ((setF .VEC_ERR Fld.VEC_ERR_CMDIGN c).run s).2
    t.rdF .VEC_ERR Fld.VEC_ERR_CMDIGN c = 1 ∧ vecState t c = vecState s c ∧ t.cluster c = s.cluster c :=
  ⟨s.rdF_setReg_field (by decide) c 0 1, s.rdF_setReg_name_ne (by decide) _ _ _ _ _ _, cluster_setReg _ _ _ _⟩

theorem vecStart_completes : Completes (.vecStart c) s fun t =>
    if vecState s c = 0 ∧ (s.ownerCl c).isSome then
      vecState t c = 1 ∧ (t.cluster c).vpc = (s.rd .VEC_PROG_BASE c).truncate 48 ∧ (t.cluster c).vwait = none
    else t.rdF .VEC_ERR Fld.VEC_ERR_CMDIGN c = 1 ∧ vecState t c = vecState s c ∧ t.cluster c = s.cluster c := by
  refine .of_next (p := vecStartDo c) rfl ?_
  simp only [vecStartDo, run_get, Bool.and_eq_true, beq_iff_eq]
  split
  · simp
  · exact vecIgnored_leaves c s

theorem vecStop_completes : Completes (.vecStop c) s fun t =>
    if vecState s c = 1 ∨ vecState s c = 2 ∨ vecState s c = 3 then
      vecState t c = 4 ∧ (t.cluster c).vwait = none ∧ (t.cluster c).vpc = (s.cluster c).vpc
    else t = s := by
  refine .of_next (p := vecStopDo c) rfl ?_
  simp only [vecStopDo, run_get, Bool.or_eq_true, beq_iff_eq, or_assoc]
  split
  · simp
  · rfl

theorem vecResume_completes : Completes (.vecResume c) s fun t =>
    if vecState s c = 4 ∨ vecState s c = 5 then vecState t c = 1 ∧ t.cluster c = s.cluster c
    else t.rdF .VEC_ERR Fld.VEC_ERR_CMDIGN c = 1 ∧ vecState t c = vecState s c := by
  refine .of_next (p := vecResumeDo c) rfl ?_
  simp only [vecResumeDo, run_get, Bool.or_eq_true, beq_iff_eq]
  split
  · simp
  · obtain ⟨hign, hst, -⟩ := vecIgnored_leaves c s
    exact ⟨hign, hst⟩

end VecCommands

/-! ### An instruction completes (R98, R410) -/

section Completion
variable {c : Nat}

/-- The cluster at its next instruction, the wait and the resumption of the last forgotten. -/
def Cluster.nextInstr (k : Cluster) (a : BitVec 48) (sampled : Nat) : Cluster :=
  { k with vpc := a, vchunk := 0, vrow := [], vagain := false, vwait := none, sampled := sampled }

section Fields
variable (k : Cluster) (a : BitVec 48) (n : Nat)

@[simp] theorem Cluster.nextInstr_vpc : (k.nextInstr a n).vpc = a := rfl
@[simp] theorem Cluster.nextInstr_vwait : (k.nextInstr a n).vwait = none := rfl
@[simp] theorem Cluster.nextInstr_slip : (k.nextInstr a n).slip = k.slip := rfl
@[simp] theorem Cluster.nextInstr_lane (r l : Nat) : (k.nextInstr a n).lane r l = k.lane r l := rfl
@[simp] theorem Cluster.nextInstr_operand (f r l : Nat) : (k.nextInstr a n).operand f r l = k.operand f r l := rfl

end Fields

/-- The registers that an instruction changes as it completes. -/
def doneNames : List RegName := .VEC_PC :: .SMP_HEAD :: .SMP_LOST :: memNames

/-- An instruction that completes leaves its cluster at the next address, and every register but those of VEC_PC,
sampling, counting and the memory path. -/
theorem vecNext_cluster (cls daddr : Nat) (a : BitVec 48) (s : State) :
    ∃ n, ((vecNext c cls daddr a).run s).2.cluster c = (s.cluster c).nextInstr a n := by
  simp only [vecNext, run_get, run_seq, run_modCl]
  rw [retire_cluster, cluster_setCl, if_pos rfl]
  exact ⟨_, rfl⟩

theorem vecNext_rd (cls daddr : Nat) (a : BitVec 48) {r : RegName} (hr : r ∉ doneNames) (s : State) (i j : Nat) :
    ((vecNext c cls daddr a).run s).2.rd r i j = s.rd r i j := by
  rw [doneNames, List.mem_cons, not_or] at hr
  simp only [vecNext, run_get, run_seq, run_modCl]
  rw [(retire_within _ _).rd r hr.2, rd_setCl]

/-- A retirement writes no memory where sampling is off (R410). -/
theorem retire_byte {s : State} (h : flagF Fld.SMP_CTRL_EN (s.rd .SMP_CTRL c) = false) (r : Retire) (a : Nat) :
    ((retire c r).run s).2.byte a = s.byte a := by
  unfold retire
  simp only [run_get, run_seq, h, Bool.false_and, Bool.false_eq_true, if_false, run_skip]
  split <;> exact (count_within _ _ _ _).same .mem (by decide) s a

/-- What a completed instruction leaves once VEC_PC shows it. -/
structure InstrDone (c : Nat) (a : BitVec 48) (s t : State) : Prop where
  cluster : ∃ n, t.cluster c = (s.cluster c).nextInstr a n
  rd      : ∀ r, r ∉ doneNames → ∀ i j, t.rd r i j = s.rd r i j
  byte    : flagF Fld.SMP_CTRL_EN (s.rd .SMP_CTRL c) = false → ∀ a, t.byte a = s.byte a

theorem vecNext_done (cls daddr : Nat) (a : BitVec 48) (s : State) :
    InstrDone c a s ((showVec c).run ((vecNext c cls daddr a).run s).2).2 := by
  refine ⟨?_, fun r hr i j => ?_, fun hoff b => ?_⟩
  · rw [showVec_cluster]
    exact vecNext_cluster cls daddr a s
  · rw [(showVec_within c).rd r (by simp only [doneNames, List.mem_cons, not_or] at hr; simpa using hr.1), vecNext_rd _ _ _ hr]
  · rw [showVec_byte]
    simp only [vecNext, run_get, run_seq, run_modCl]
    exact retire_byte (s := (Eff.setCl c _).apply s) (by rwa [rd_setCl]) _ b

theorem vecDone_done (cls daddr : Nat) (s : State) :
    InstrDone c ((s.cluster c).vpc + 8) s ((showVec c).run ((vecDone c cls daddr).run s).2).2 := vecNext_done cls daddr _ s

namespace InstrDone
variable {a : BitVec 48} {s t : State} (h : InstrDone c a s t)
include h

theorem vecState : vecState t c = Machine.vecState s c := congrArg (getF _) (h.rd .VEC_STATUS (by decide) c 0)

theorem vecVl : vecVl t c = Machine.vecVl s c :=
  congrArg (fun x => min (getF Fld.VEC_STATUS_VL x) 256) (h.rd .VEC_STATUS (by decide) c 0)

theorem tokenCount (x : Nat) : tokenCount t c x = Machine.tokenCount s c x :=
  congrArg BitVec.toNat (h.rd .ARY_TOKEN (by decide) c x)

end InstrDone

end Completion

section Wait
variable (c : Fin 32) (s : State)

theorem vwaitRelease_completes {w : BitVec 64} (hw : (s.cluster c).vwait = some w) (hst : vecState s c = 2) :
    Completes (.vwaitRelease c) s fun t =>
      if vf 21 6 w ≤ tokenCount s c (vf 5 0 w) then
        vecState t c = 1 ∧ (t.cluster c).vwait = none ∧ (t.cluster c).vpc = (s.cluster c).vpc + 8 ∧
        tokenCount t c (vf 5 0 w) = (if vf 22 22 w = 1 then tokenCount s c (vf 5 0 w)
          else (tokenCount s c (vf 5 0 w) - vf 21 6 w) % 65536)
      else t = s := by
  refine .of_next rfl ?_
  simp only [run_get, hw, hst, bne_self_eq_false, Bool.false_eq_true, if_false, run_bind, vwaitTake]
  split
  · next hn =>
    obtain ⟨htrue, htok⟩ := tokenTake_ends s c (vf 22 22 w == 1) hn
    rw [htrue, if_pos rfl]
    generalize hm : ((tokenTake c (vf 5 0 w) (vf 21 6 w) (vf 22 22 w == 1)).run s).2 = m at htok
    have hcl : m.cluster c = s.cluster c := hm ▸ (tokenTake_within c _ _ _).same .cl (by decide) s c
    have hdone := vecDone_done 8 0 ((setVecSt c 1).run m).2 (c := c)
    obtain ⟨n, hk⟩ := hdone.cluster
    simp only [run_all_cons, run_all_nil]
    rw [hdone.vecState, hdone.tokenCount, hk, setVecSt_vecState, setVecSt_cluster, setVecSt_tokenCount, hcl, htok]
    exact ⟨rfl, rfl, rfl, by simp⟩
  · next hn =>
    rw [tokenTake_run_short _ _ _ hn]
    rfl

end Wait

/-- Settles O10, command by command. -/
theorem clusterCommands : Obligations.ClusterCommands := by
  refine ⟨fun c s => ⟨aryStart_completes c s, aryStop_completes c s, sequencerDrained_completes c s, aryResume_completes c s,
    fun x => .of_next (p := toksigIncDo c x) rfl ⟨tokenAdd_tokenCount _ _ s, tokenAdd_overflows c s⟩,
    fun w => twaitRelease_completes c s, fun x => temitSlipRelease_completes c s⟩,
    fun c s => ⟨vecStart_completes c s, vecStop_completes c s, vecResume_completes c s, fun w => vwaitRelease_completes c s⟩⟩

end Sys2Proof.Machine

/-! ### The control instructions of the vector engine (R83, R97) -/

namespace Sys2Proof.Machine
open Prog

section Vector
variable {c : Fin 32} {w : BitVec 64} {s : State}

/-- A row that is the issue of its code completes as the instruction's own effect leaves the state after the fetch, once
VEC_PC shows it. -/
theorem VecIssues.completes {i : Instr} {op : Nat} {legal : State → Cluster → Bool} {body : State → Cluster → Prog Unit}
    {P : State → Prop} (h : VecIssues s c op w) (he : exec i s = (vissue c op w legal body).next s)
    (hl : legal (vecFetch s c).2 (s.cluster c) = true)
    (hP : P ((showVec c).run ((body (vecFetch s c).2 (s.cluster c)).run (vecFetch s c).2).2).2) : Completes i s P :=
  .of_next he (by rw [vissue_run h hl]; exact hP)

/-- One whose effect ends with the instruction complete, after a state `m`. -/
theorem VecIssues.completes_done {i : Instr} {op cls daddr : Nat} {legal : State → Cluster → Bool}
    {body : State → Cluster → Prog Unit} {P : State → Prop} {m : State} (h : VecIssues s c op w)
    (he : exec i s = (vissue c op w legal body).next s) (hl : legal (vecFetch s c).2 (s.cluster c) = true)
    (hb : ((body (vecFetch s c).2 (s.cluster c)).run (vecFetch s c).2).2 = ((vecDone c cls daddr).run m).2)
    (hP : ∀ t, InstrDone c ((m.cluster c).vpc + 8) m t → P t) : Completes i s P :=
  h.completes he hl (hP _ (by rw [hb]; exact vecDone_done cls daddr m))

theorem vecFetch_tokenCount (s : State) (c a x : Nat) : tokenCount (vecFetch s c).2 a x = tokenCount s a x :=
  (vget_within _ _ _ _).tokenCount (by decide) s a x

theorem vecFetch_rd (s : State) (c : Nat) (n : RegName) (h : n ∉ memNames) (i j : Nat) :
    (vecFetch s c).2.rd n i j = s.rd n i j := (vget_within _ _ _ _).rd n h i j s

theorem vecFetch_vecUnit (s : State) (c a : Nat) : vecUnit (vecFetch s c).2 a = vecUnit s a :=
  (vget_within _ _ _ _).vecUnit (by decide) s a

theorem setvl_completes (h : VecIssues s c 0x70 w) (h₁ : vf 56 48 w = 0) (h₂ : vf 38 0 w = 0) (hlo : 1 ≤ vf 47 39 w)
    (hhi : vf 47 39 w ≤ 256) : Completes (.setvl c w) s fun t =>
      (t.cluster c).vpc = (s.cluster c).vpc + 8 ∧ vecVl t c = vf 47 39 w := by
  refine h.completes_done rfl (by simp [h₁, h₂, hlo, hhi]) (by rw [run_seq]) fun t ht => ?_
  obtain ⟨n, hk⟩ := ht.cluster
  have hvl : State.rdF _ .VEC_STATUS Fld.VEC_STATUS_VL c 0 = vf 47 39 w % 2 ^ 9 :=
    (vecFetch s c).2.rdF_setReg_field (by decide) c 0 (vf 47 39 w)
  rw [hk, ht.vecVl, vecVl, run_wrF, hvl, cluster_setReg, vecFetch_cluster]
  exact ⟨rfl, by omega⟩

theorem setf_completes (h : VecIssues s c 0x71 w) (h₁ : vf 56 50 w = 0) (h₂ : vf 47 42 w = 0) (h₃ : vf 35 0 w = 0)
    (hty : vTy w ≤ 2) (hr : regOk (tyFmt (vTy w)) (vA w) = true) : Completes (.setf c w) s fun t =>
      (t.cluster c).vpc = (s.cluster c).vpc + 8 ∧
        t.rd .VEC_FILL c = BitVec.ofNat 64 ((s.cluster c).operand (tyFmt (vTy w)) (vA w) 0) := by
  refine h.completes_done rfl (by simp [h₁, h₂, h₃, hty, hr]) (by rw [run_seq]) fun t ht => ?_
  obtain ⟨n, hk⟩ := ht.cluster
  have hall : regMask .VEC_FILL = BitVec.allOnes 64 := rfl
  rw [hk, ht.rd .VEC_FILL (by decide), run_wr, State.rd_setReg_same _ _ _ _ _ (by decide), hall, BitVec.and_allOnes,
    cluster_setReg, vecFetch_cluster]
  exact ⟨rfl, rfl⟩

theorem vsig_completes (h : VecIssues s c 0x73 w) (h₁ : vf 56 22 w = 0) (hn : vf 21 6 w ≠ 0) : Completes (.vsig c w) s fun t =>
    (t.cluster c).vpc = (s.cluster c).vpc + 8 ∧
      tokenCount t c (vf 5 0 w) = min (tokenCount s c (vf 5 0 w) + vf 21 6 w) 65535 := by
  refine h.completes_done rfl (by simp [h₁, hn]) (by rw [run_seq]) fun t ht => ?_
  obtain ⟨n, hk⟩ := ht.cluster
  rw [hk, ht.tokenCount, tokenAdd_tokenCount, vecFetch_tokenCount, (tokenAdd_within _ _).same .cl (by decide), vecFetch_cluster]
  exact ⟨rfl, rfl⟩

theorem vwait_completes (h : VecIssues s c 0x74 w) (h₁ : vf 56 23 w = 0) : Completes (.vwait c w) s fun t =>
    if vf 21 6 w ≤ tokenCount s c (vf 5 0 w) then
      (t.cluster c).vpc = (s.cluster c).vpc + 8 ∧ vecState t c = 1 ∧ tokenCount t c (vf 5 0 w) =
        (if vf 22 22 w = 1 then tokenCount s c (vf 5 0 w) else (tokenCount s c (vf 5 0 w) - vf 21 6 w) % 65536)
    else (t.cluster c).vpc = (s.cluster c).vpc ∧ (t.cluster c).vwait = some w ∧ vecState t c = 2 ∧
      tokenCount t c (vf 5 0 w) = tokenCount s c (vf 5 0 w) := by
  by_cases hn : vf 21 6 w ≤ tokenCount s c (vf 5 0 w)
  · simp only [if_pos hn]
    have htake := tokenTake_within c (vf 5 0 w) (vf 21 6 w) (vf 22 22 w == 1)
    obtain ⟨htrue, htok⟩ := tokenTake_ends (vecFetch s c).2 c (vf 22 22 w == 1) (x := vf 5 0 w) (n := vf 21 6 w)
      (by rwa [vecFetch_tokenCount])
    refine h.completes_done rfl (by simp [h₁]) (by rw [run_bind, vwaitTake, htrue, if_pos rfl]) fun t ht => ?_
    obtain ⟨n, hk⟩ := ht.cluster
    rw [hk, ht.vecState, ht.tokenCount, htok, htake.vecState (by decide), htake.same .cl (by decide), vecFetch_cluster,
      vecFetch_vecState, vecFetch_tokenCount]
    exact ⟨rfl, h.runs, by simp⟩
  · simp only [if_neg hn]
    refine h.completes rfl (by simp [h₁]) ?_
    rw [run_bind, vwaitTake, tokenTake_run_short _ _ _ (by rwa [vecFetch_tokenCount])]
    simp [vecFetch_cluster, vecFetch_tokenCount]

theorem vbr_completes (h : VecIssues s c 0x75 w) (h₁ : vf 56 52 w = 0) :
    let k := s.cluster c
    let go := k.vpc + BitVec.ofInt 48 (8 * signedOf 26 (vf 25 0 w))
    let arg := vf 47 42 w
    (vf 51 48 w = 0 → vf 41 26 w = 0 → arg = 0 → Completes (.vbr c w) s fun t => (t.cluster c).vpc = go) ∧
    (vf 51 48 w = 1 → vf 41 26 w = 0 → arg ≤ 3 → Completes (.vbr c w) s fun t =>
      Tab.at 0 (t.cluster c).vloops arg = Tab.at 0 k.vloops arg - 1 ∧
      (t.cluster c).vpc = if Tab.at 0 k.vloops arg = 1 then k.vpc + 8 else go) ∧
    (vf 51 48 w = 2 → Completes (.vbr c w) s fun t =>
      tokenCount t c arg = tokenCount s c arg ∧
      (t.cluster c).vpc = if vf 41 26 w ≤ tokenCount s c arg then go else k.vpc + 8) := by
  refine ⟨fun hc hi ha => h.completes rfl (by simp [h₁, hc, hi, ha]) ?_,
    fun hc hi ha => h.completes rfl (by simp [h₁, hc, hi, ha]) ?_, fun hc => h.completes rfl (by simp [h₁, hc]) ?_⟩
  · simp only [hc]
    obtain ⟨n, hk⟩ := (vecNext_done 0 0 _ (vecFetch s c).2).cluster
    rw [hk]
    rfl
  · simp only [hc]
    rw [run_seq]
    obtain ⟨n, hk⟩ := (vecNext_done 0 0 _ _).cluster
    rw [hk, run_modCl, cluster_setCl, if_pos rfl, vecFetch_cluster]
    refine ⟨Tab.at_upd_same _ _ _, ?_⟩
    simp only [sub_eq_zero, Cluster.nextInstr_vpc]
  · simp only [hc]
    have hdone := vecNext_done 0 0 (if vf 41 26 w ≤ tokenCount (vecFetch s c).2 c (vf 47 42 w) then
      (s.cluster c).vpc + BitVec.ofInt 48 (8 * signedOf 26 (vf 25 0 w)) else (s.cluster c).vpc + 8) (vecFetch s c).2 (c := c)
    obtain ⟨n, hk⟩ := hdone.cluster
    exact ⟨(hdone.tokenCount _).trans (vecFetch_tokenCount _ _ _ _), by rw [hk, vecFetch_tokenCount]; rfl⟩

theorem vlset_completes (h : VecIssues s c 0x76 w) (h₁ : vf 56 50 w = 0) (h₂ : vf 47 32 w = 0) : Completes (.vlset c w) s fun t =>
    (t.cluster c).vpc = (s.cluster c).vpc + 8 ∧ Tab.at 0 (t.cluster c).vloops (vTy w) = BitVec.ofNat 32 (vf 31 0 w) := by
  refine h.completes_done rfl (by simp [h₁, h₂]) (by rw [run_seq]) fun t ht => ?_
  obtain ⟨n, hk⟩ := ht.cluster
  rw [hk, run_modCl, cluster_setCl, if_pos rfl, vecFetch_cluster]
  exact ⟨rfl, Tab.at_upd_same _ _ _⟩

theorem vend_completes (h : VecIssues s c 0x7F w) (h₁ : vf 56 0 w = 0) : Completes (.vend c w) s fun t =>
    (t.cluster c).vpc = (s.cluster c).vpc + 8 ∧ vecState t c = 0 := by
  refine h.completes rfl (by simp [h₁]) ?_
  obtain ⟨n, hk⟩ := vecNext_cluster 0 0 (((vecFetch s c).2.cluster c).vpc + 8) (vecFetch s c).2 (c := c)
  change ((vecDone c 0 0).run (vecFetch s c).2).2.cluster c = _ at hk
  rw [run_seq, showVec_cluster, setVecSt_cluster, hk, vecFetch_cluster, showVec_vecState, setVecSt_vecState]
  exact ⟨rfl, rfl⟩

end Vector

/-- Settles O17, instruction by instruction. -/
theorem vectorControlInstructions : Obligations.VectorControlInstructions := fun _ _ _ =>
  ⟨setvl_completes, setf_completes, vsig_completes, vwait_completes, vbr_completes, vlset_completes, vend_completes⟩

end Sys2Proof.Machine

/-! ### Lanes written one after another (R93, R96) -/

namespace Sys2Proof.Machine
open Prog

/-- Places of a table written one after another: each holds what was written to it, and every other place what it
held. -/
theorem at_foldl_upd {α β : Type} [DecidableEq β] {d : β} {key : α → Nat} (val : α → β) {xs : List α}
    (hnd : (xs.map key).Nodup) (m : Tab β) :
    (∀ x ∈ xs, Tab.at d (xs.foldl (fun m x => Tab.upd d m (key x) (val x)) m) (key x) = val x) ∧
      ∀ j, (∀ x ∈ xs, key x ≠ j) → Tab.at d (xs.foldl (fun m x => Tab.upd d m (key x) (val x)) m) j = Tab.at d m j := by
  induction xs generalizing m with
  | nil => exact ⟨fun _ h => (nomatch h), fun _ _ => rfl⟩
  | cons a xs ih =>
    rw [List.map_cons, List.nodup_cons] at hnd
    obtain ⟨hset, hkept⟩ := ih hnd.2 (Tab.upd d m (key a) (val a))
    have ha : ∀ x ∈ xs, key x ≠ key a := fun x hx he => hnd.1 (List.mem_map.2 ⟨x, hx, he⟩)
    refine ⟨fun x hx => ?_, fun j hj => ?_⟩
    · rcases List.mem_cons.1 hx with rfl | hx
      · rw [List.foldl_cons, hkept _ ha, Tab.at_upd_same]
      · exact hset x hx
    · rw [List.forall_mem_cons] at hj
      rw [List.foldl_cons, hkept j hj.2, Tab.at_upd_ne _ _ hj.1.symm]

/-- A destination's lanes written: each lane listed holds its value, cut to the format, and every other lane of every
register what it held. -/
structure OperandsSet {α : Type} (f r : Nat) (lane val : α → Nat) (xs : List α) (k k' : Cluster) : Prop where
  frame : ∃ v, k' = { k with vregs := v }
  set   : ∀ x ∈ xs, k'.operand f r (lane x) = val x % 2 ^ (8 * (fmtUnit f).2)
  kept  : ∀ q l, l < 256 → (∀ x ∈ xs, lane x ≠ l) → k'.lane q l = k.lane q l

theorem foldl_setOperand_set {α : Type} {f r : Nat} (hf : Cluster.fitsRegister f) {lane : α → Nat} (val : α → Nat)
    {xs : List α} (hnd : (xs.map lane).Nodup) (hlt : ∀ x ∈ xs, lane x < 256) (k : Cluster) :
    OperandsSet f r lane val xs k (xs.foldl (fun k x => k.setOperand f r (lane x) (val x)) k) := by
  induction xs generalizing k with
  | nil => exact ⟨⟨_, rfl⟩, fun _ h => (nomatch h), fun _ _ _ _ => rfl⟩
  | cons a xs ih =>
    rw [List.map_cons, List.nodup_cons] at hnd
    obtain ⟨halt, hlt⟩ := List.forall_mem_cons.1 hlt
    obtain ⟨⟨v, hv⟩, hset, hkept⟩ := ih hnd.2 hlt (k.setOperand f r (lane a) (val a))
    have ha : ∀ x ∈ xs, lane x ≠ lane a := fun x hx he => hnd.1 (List.mem_map.2 ⟨x, hx, he⟩)
    refine ⟨⟨v, ?_⟩, fun x hx => ?_, fun q l hl hn => ?_⟩
    · rw [List.foldl_cons, hv, Cluster.setOperand]
      split <;> rfl
    · rcases List.mem_cons.1 hx with rfl | hx
      · rw [List.foldl_cons, Cluster.operand_congr fun q => hkept q _ halt ha, Cluster.operand_setOperand_same _ hf halt]
      · exact hset x hx
    · rw [List.forall_mem_cons] at hn
      rw [List.foldl_cons, hkept q l hl hn.2, Cluster.lane_setOperand_ne _ halt hl (.inl hn.1.symm)]

/-- A lane is an operand of binary32, as it stands. -/
theorem Cluster.operand_zero (k : Cluster) (r l : Nat) : k.operand 0 r l = k.lane r l :=
  Nat.mod_eq_of_lt (Tab.at 0 k.vregs (256 * r + l)).isLt

/-- Lanes of a register written: each lane listed holds its value, and every other lane what it held. -/
theorem foldl_setLane_set {α : Type} {r : Nat} {lane : α → Nat} (val : α → Nat) {xs : List α} (hnd : (xs.map lane).Nodup)
    (hlt : ∀ x ∈ xs, lane x < 256) (k : Cluster) :
    let k' := xs.foldl (fun k x => k.setLane r (lane x) (val x)) k
    (∃ v, k' = { k with vregs := v }) ∧ (∀ x ∈ xs, k'.lane r (lane x) = val x % 2 ^ 32) ∧
      ∀ q l, l < 256 → (∀ x ∈ xs, lane x ≠ l) → k'.lane q l = k.lane q l := by
  obtain ⟨hframe, hset, hkept⟩ := foldl_setOperand_set (f := 0) (r := r) (.inr (by decide)) val hnd hlt k
  exact ⟨hframe, fun x hx => (Cluster.operand_zero _ _ _).symm.trans (hset x hx), hkept⟩

/-- An operand fits its format. -/
theorem Cluster.operand_lt (k : Cluster) (f r l : Nat) : k.operand f r l < 2 ^ (8 * (fmtUnit f).2) := by
  unfold Cluster.operand
  split
  · next h =>
    subst h
    have h₀ : k.lane r l < 2 ^ 32 := (Tab.at 0 k.vregs (256 * r + l)).isLt
    have h₁ : k.lane (r + 1) l < 2 ^ 32 := (Tab.at 0 k.vregs (256 * (r + 1) + l)).isLt
    simp only [fmtUnit]
    omega
  · exact Nat.mod_lt _ (Nat.two_pow_pos _)

theorem vecVl_le (s : State) (c : Nat) : vecVl s c ≤ 256 := Nat.min_le_right _ _

theorem nodup_activeLanes (k : Cluster) (vl m : Nat) : (activeLanes k vl m).Nodup := List.nodup_range.filter _

theorem activeLanes_lt {k : Cluster} {s : State} {c m : Nat} : ∀ l ∈ activeLanes k (vecVl s c) m, l < 256 := fun _ hl =>
  (mem_activeLanes.1 hl).1.trans_le (vecVl_le s c)

/-! ### What vector instructions keep of their engine as they work -/

/-- Of an engine: its instruction's address, its status, and whether it is sampled. -/
def vecKept (c : Nat) (s : State) : BitVec 48 × Word × Word := ((s.cluster c).vpc, s.rd .VEC_STATUS c, s.rd .SMP_CTRL c)

section Kept
variable {α : Type} {c : Nat}

theorem Prog.Within.vecKept {p : Prog α} {l : List Part} {n : List RegName} (h : p.Within l n) (hl : Part.cl ∉ l)
    (hs : RegName.VEC_STATUS ∉ n) (hc : RegName.SMP_CTRL ∉ n) : p.Keeps (vecKept c) := fun s => by
  rw [Machine.vecKept, Machine.vecKept, h.same .cl hl, h.rd _ hs, h.rd _ hc]

theorem modCl_keeps_vecKept {f : Cluster → Cluster} (h : ∀ k, (f k).vpc = k.vpc) : (modCl c f).Keeps (vecKept c) := fun s => by
  simp only [vecKept, run_modCl, cluster_setCl, if_true, rd_setCl, h]

theorem memParts_keeps_vecKept {p : Prog α} (h : p.Within memParts memNames) : p.Keeps (vecKept c) :=
  h.vecKept (by decide) (by decide) (by decide)

theorem readParts_keeps_vecKept {p : Prog α} (h : p.Within readParts memNames) : p.Keeps (vecKept c) :=
  memParts_keeps_vecKept h.toMem

theorem draw_vpc (k : Cluster) (rounds : Bool) (rm l : Nat) : (k.draw rounds rm l).2.vpc = k.vpc := by
  unfold Cluster.draw
  split
  · rfl
  · split <;> rfl

theorem drawLane_keeps (rounds : Bool) (rm l : Nat) : (drawLane c rounds rm l).Keeps (vecKept c) := fun s => by
  simp only [drawLane, run_get, run_seq, run_modCl, run_ret, vecKept, cluster_setCl, if_true, rd_setCl, draw_vpc]

theorem vecFlags_keeps (f : Flags) : (vecFlags c f).Keeps (vecKept c) :=
  (vecFlags_within c f).vecKept (by decide) (by decide) (by decide)

theorem readElem_within (u : Unit') (d : Desc) (idx : List Nat) : (readElem u d idx).Within readParts memNames := by
  unfold readElem
  dsimp only
  split <;> simp (maxDischargeDepth := 30) [vget_within]

theorem scatterP_within (u : Unit') (l : List WPiece) : (scatterP u l).Within memParts memNames := by
  induction l with
  | nil => exact .ret _
  | cons p r ih =>
    refine .bind (vput_within _ _ _) fun x => ?_
    cases x with
    | error f => exact .ret _
    | ok _ => exact ih

theorem scatter_within (u : Unit') (runs : List (Nat × Nat)) (d : List Byte) : (scatter u runs d).Within memParts memNames := by
  unfold scatter
  refine .bind (scatterP_within _ _) fun r => ?_
  cases r <;> exact .ret _

/-- What is kept gives the instruction's address, the engine's state and whether it is sampled. -/
theorem vecKept_fields {s t : State} (h : vecKept c t = vecKept c s) :
    (t.cluster c).vpc = (s.cluster c).vpc ∧ vecState t c = vecState s c ∧ t.rd .SMP_CTRL c = s.rd .SMP_CTRL c := by
  simp only [vecKept, Prod.mk.injEq] at h
  exact ⟨h.1, congrArg (getF _) h.2.1, h.2.2⟩

theorem vecFetch_kept (s : State) (c : Nat) : vecKept c (vecFetch s c).2 = vecKept c s :=
  readParts_keeps_vecKept (vget_within _ _ _ _) s

end Kept

end Sys2Proof.Machine

/-! ### Data between the vector registers and memory or the slipway (R92, R95 to R97) -/

namespace Sys2Proof.Machine
open Prog

section Move
variable {c : Fin 32} {w : BitVec 64} {s : State}

theorem length_mapE {α β ε : Type} {xs : List α} {f : α → Prog (Except ε β)} {s t : State} {l : List β}
    (h : Reads (Prog.mapE xs f) s l t) : l.length = xs.length := by
  induction xs generalizing s l t with
  | nil =>
    obtain ⟨hl, -⟩ := reads_ret.1 h
    cases hl
    rfl
  | cons a xs ih =>
    rw [mapE_cons] at h
    obtain ⟨b, m, -, h⟩ := reads_bindE.1 h
    obtain ⟨bs, m', hs, h⟩ := reads_bindE.1 h
    obtain ⟨hl, -⟩ := reads_ret.1 h
    cases hl
    rw [List.length_cons, List.length_cons, ih hs]

theorem ldLanes_nodup (k : Cluster) (vl : Nat) (d : Desc) : (ldLanes k vl w d).Nodup := (nodup_activeLanes _ _ _).filter _

theorem ldLanes_lt {k : Cluster} {d : Desc} : ∀ l ∈ ldLanes k (vecVl s c) w d, l < 256 := fun l hl =>
  activeLanes_lt l (List.mem_filter.1 hl).1

theorem vld_completes {a : Desc} {l : List (Nat × Flags)} (h : VecIssues s c 0x40 w) (hT : vT w = false) (hrm : vRm w ≤ 4)
    (hty : vTy w ≤ 2) (hd : regOk (tyFmt (vTy w)) (vD w) = true) (ha : (s.cluster c).vslot (vA w) = some a)
    (hfmt : ldFmt (vTy w) a.fmt = true)
    (hl : ((Prog.mapE (ldLanes (s.cluster c) (vecVl s c) w a) (vldLane c w a)).run (vecFetch s c).2).1 = .ok l) :
    Completes (.vld c w) s fun t => (t.cluster c).vpc = (s.cluster c).vpc + 8 ∧
      ∀ p ∈ (ldLanes (s.cluster c) (vecVl s c) w a).zip l, (t.cluster c).operand (tyFmt (vTy w)) (vD w) p.1 =
        p.2.1 % 2 ^ (8 * (fmtUnit (tyFmt (vTy w))).2) := by
  have hread : (Prog.mapE (ldLanes (s.cluster c) (vecVl s c) w a) (vldLane c w a)).Within readParts memNames :=
    .mapE fun _ => .get fun _ => .bindE (readElem_within _ _ _) fun _ => .ret _
  have hlen : l.length = (ldLanes (s.cluster c) (vecVl s c) w a).length := length_mapE (t := _) (Prod.ext hl rfl)
  have hfst := List.map_fst_zip hlen.ge
  obtain ⟨⟨v, hv⟩, hset, -⟩ := foldl_setOperand_set (tyFmt_fits (vTy w)) (r := vD w) (lane := Prod.fst)
    (fun p : Nat × Nat × Flags => p.2.1) (xs := (ldLanes (s.cluster c) (vecVl s c) w a).zip l)
    (by rw [hfst]; exact ldLanes_nodup _ _ _) (fun p hp => ldLanes_lt p.1 (List.of_mem_zip hp).1) (s.cluster c)
  refine h.completes_done rfl (by simp [hT, hrm, hty, hd, ha, hfmt])
    (by simp only [ha, vecFetch_vecVl, run_bind, hl, run_all_cons, run_all_nil]; rfl) fun t ht => ?_
  obtain ⟨n, hk⟩ := ht.cluster
  rw [hk, (vecFlags_within _ _).same .cl (by decide), run_modCl, cluster_setCl, if_pos rfl, hread.same .cl (by decide),
    vecFetch_cluster]
  refine ⟨?_, hset⟩
  rw [hv]
  rfl

theorem vstLane_keeps (d : Desc) (k : Cluster) (l : Nat) : (vstLane c w d k l).Keeps (vecKept c) := by
  unfold vstLane
  exact .ite (.ret _) (.bind (drawLane_keeps _ _ _) fun _ => .seq (vecFlags_keeps _) (.ret _))

theorem vst_completes {d : Desc} (h : VecIssues s c 0x41 w) (hT : vT w = false) (hrm : vRm w ≤ 4) (hty : vTy w ≤ 2)
    (hr : regOk (tyFmt (vTy w)) (vA w) = true) (hd : (s.cluster c).vslot (vD w) = some d)
    (hfmt : ldFmt (vTy w) d.fmt = true ∨ vTy w = 0 ∧ d.fmt = 6) (hoff : flagF Fld.SMP_CTRL_EN (s.rd .SMP_CTRL c) = false)
    {l : List (Nat × Nat) × State} {x : State} {u : Unit}
    (hl : (Prog.mapM (ldLanes (s.cluster c) (vecVl s c) w d) (vstLane c w d (s.cluster c))).run (vecFetch s c).2 = l)
    (hx : (scatter (vecUnit s c) (joinRuns (l.1.map fun p => (d.addr (d.off (vExt w + p.1)), elemBytes d.fmt)))
      (l.1.flatMap fun p => leBytes (elemBytes d.fmt) p.2)).run l.2 = (.ok u, x)) :
    Completes (.vst c w) s fun t => (t.cluster c).vpc = (s.cluster c).vpc + 8 ∧ ∀ a, t.byte a = x.byte a := by
  have hcodes : vecKept c l.2 = vecKept c s := by
    rw [← hl, Prog.Keeps.mapM fun a => vstLane_keeps d (s.cluster c) a]
    exact vecFetch_kept s c
  have hkept : vecKept c x = vecKept c l.2 := by
    have := memParts_keeps_vecKept (c := c) (scatter_within (vecUnit s c) (joinRuns (l.1.map fun p =>
      (d.addr (d.off (vExt w + p.1)), elemBytes d.fmt))) (l.1.flatMap fun p => leBytes (elemBytes d.fmt) p.2)) l.2
    rwa [hx] at this
  obtain ⟨hvpc, -, hsmp⟩ := vecKept_fields (hkept.trans hcodes)
  refine h.completes_done (m := x) (cls := 6) (daddr := ldAddr d w) rfl (by simpa [hT, hrm, hty, hr, hd] using hfmt)
    (by simp only [hd, vecFetch_vecVl, vecFetch_vecUnit, run_bind, hl, hx]) fun t ht => ?_
  obtain ⟨n, hk⟩ := ht.cluster
  rw [hk]
  exact ⟨congrArg (· + 8) hvpc, ht.byte (by rwa [hsmp])⟩

/-- What SLPOP leaves of a head entry: four rows of it in every lane, and one pop more, the sixteenth of which frees the
entry (R92). -/
def Popped (c : Nat) (w : BitVec 64) (e : SlipEntry) (r : List SlipEntry) (t : State) : Prop :=
  (∀ l < 256, (t.cluster c).lane (vD w) l =
    (b32.conv false .rne (((fmtOf e.fmt).getD b32).dec (e.codes.getD (256 * e.pops + l) 0))).1 % 2 ^ 32) ∧
  (t.cluster c).slip = (if e.pops = 15 then r else { e with pops := e.pops + 1 } :: r)

/-- What SLTAG leaves: the slipway, and under its mask the head entry's tag and array in lane 0 (R92). -/
def Tagged (c : Nat) (w : BitVec 64) (k : Cluster) (e : SlipEntry) (t : State) : Prop :=
  (t.cluster c).slip = k.slip ∧ (k.mask (vMsel w) 0 = true → (t.cluster c).lane (vD w) 0 = e.tag.toNat + e.array % 8 * 2 ^ 16)

/-- A slipway instruction that finds its entry has taken it and is complete. -/
structure SlipTaken (c : Nat) (w : BitVec 64) (s t : State) : Prop where
  vpc   : (t.cluster c).vpc = (s.cluster c).vpc + 8
  vwait : (t.cluster c).vwait = none
  state : vecState t c = vecState s c

/-- Four rows of an entry taken into a register (R92). -/
def Cluster.popRows (k : Cluster) (r : Nat) (e : SlipEntry) : Cluster :=
  (List.range 256).foldl (fun x l =>
    x.setLane r l (b32.conv false .rne (((fmtOf e.fmt).getD b32).dec (e.codes.getD (256 * e.pops + l) 0))).1) k

theorem Cluster.popRows_rows (k : Cluster) (r : Nat) (e : SlipEntry) : (∃ v, k.popRows r e = { k with vregs := v }) ∧
    ∀ l < 256, (k.popRows r e).lane r l =
      (b32.conv false .rne (((fmtOf e.fmt).getD b32).dec (e.codes.getD (256 * e.pops + l) 0))).1 % 2 ^ 32 := by
  obtain ⟨hframe, hset, -⟩ := foldl_setLane_set (r := r) (lane := fun l => l)
    (fun l => (b32.conv false .rne (((fmtOf e.fmt).getD b32).dec (e.codes.getD (256 * e.pops + l) 0))).1)
    (xs := List.range 256) (by rw [List.map_id']; exact List.nodup_range) (fun l hl => List.mem_range.1 hl) k
  exact ⟨hframe, fun l hl => hset l (List.mem_range.2 hl)⟩

/-- The cluster with four rows of its head entry taken into a register, and the pop counted. -/
def Cluster.popSlip (k : Cluster) (r : Nat) (e : SlipEntry) : Cluster :=
  { k.popRows r e with
    slip := if e.pops = 15 then (k.popRows r e).slip.drop 1 else { e with pops := e.pops + 1 } :: (k.popRows r e).slip.drop 1 }

theorem Cluster.popSlip_fields (k : Cluster) (r : Nat) (e : SlipEntry) : ∃ v, k.popSlip r e =
    { k with vregs := v, slip := if e.pops = 15 then k.slip.drop 1 else { e with pops := e.pops + 1 } :: k.slip.drop 1 } := by
  obtain ⟨⟨v, hv⟩, -⟩ := k.popRows_rows r e
  exact ⟨v, by rw [Cluster.popSlip, hv]⟩

theorem Cluster.lane_setSlip (k : Cluster) (x : List SlipEntry) (r l : Nat) : { k with slip := x }.lane r l = k.lane r l := rfl

theorem popSlip_run (c : Nat) (e : SlipEntry) (s : State) : (popSlip c w e).run s =
    (vecDone c 7 0).run ((showSeq c).run ((Eff.setCl c ((s.cluster c).popSlip (vD w) e)).apply s)).2 := by
  rw [popSlip, run_all_cons, run_all_cons, run_all_cons, run_all_nil]
  rfl

theorem popSlip_pops {e : SlipEntry} {r : List SlipEntry} (c : Nat) {s : State} (hs : (s.cluster c).slip = e :: r) :
    let t := ((showVec c).run ((popSlip c w e).run s).2).2
    SlipTaken c w s t ∧ Popped c w e r t := by
  obtain ⟨v, hv⟩ := (s.cluster c).popSlip_fields (vD w) e
  have hdone := vecDone_done 7 0 ((showSeq c).run ((Eff.setCl c ((s.cluster c).popSlip (vD w) e)).apply s)).2 (c := c)
  obtain ⟨n, hk⟩ := hdone.cluster
  have hst := hdone.vecState
  rw [(showSeq_within c).vecState (by decide), vecState_setCl] at hst
  rw [showSeq_cluster, cluster_setCl, if_pos rfl] at hk
  dsimp only
  rw [popSlip_run]
  refine ⟨⟨by rw [hk, hv, Cluster.nextInstr_vpc], by rw [hk, Cluster.nextInstr_vwait], hst⟩, fun l hl => ?_, ?_⟩
  · rw [hk, Cluster.nextInstr_lane, Cluster.popSlip, Cluster.lane_setSlip]
    exact ((s.cluster c).popRows_rows (vD w) e).2 l hl
  · rw [hk, Cluster.nextInstr_slip, hv, hs, List.drop_one, List.tail_cons]

theorem tagSlip_tags {e : SlipEntry} (c : Nat) (s : State) :
    let t := ((showVec c).run ((tagSlip c w e).run s).2).2
    SlipTaken c w s t ∧ Tagged c w (s.cluster c) e t := by
  have hlt : e.tag.toNat + e.array % 8 * 2 ^ 16 < 2 ^ 32 := by
    have := e.tag.isLt
    omega
  rw [tagSlip, run_seq, run_modCl]
  generalize hk' : (if (s.cluster c).mask (vMsel w) 0 then _ else _ : Cluster) = k'
  have hdone := vecDone_done 0 0 ((Eff.setCl c k').apply s) (c := c)
  obtain ⟨n, hk⟩ := hdone.cluster
  have hst := hdone.vecState
  rw [cluster_setCl, if_pos rfl] at hk
  refine ⟨⟨?_, ?_, hst⟩, ?_, fun hm => ?_⟩
  · rw [hk, ← hk']
    split <;> rfl
  · rw [hk, Cluster.nextInstr_vwait]
  · rw [hk, ← hk']
    split <;> rfl
  · rw [hk, ← hk', if_pos hm, Cluster.nextInstr_lane, Cluster.lane_setLane_same, Nat.mod_eq_of_lt hlt]

/-- A slipway instruction that finds no entry waits for one. -/
theorem slipOp_waits (c : Nat) {s : State} (hs : (s.cluster c).slip = []) :
    let t := ((showVec c).run ((slipOp c w).run s).2).2
    (t.cluster c).vpc = (s.cluster c).vpc ∧ (t.cluster c).vwait = some w ∧ vecState t c = 3 := by
  simp [slipOp, hs]

theorem slpop_completes (h : VecIssues s c 0x48 w) (hT : vT w = false) (hrm : vRm w ≤ 4) (hty : vTy w = 0) (hext : vExt w = 0) :
    Completes (.slpop c w) s fun t =>
      match (s.cluster c).slip with
      | e :: r => (t.cluster c).vpc = (s.cluster c).vpc + 8 ∧ Popped c w e r t
      | [] => (t.cluster c).vpc = (s.cluster c).vpc ∧ (t.cluster c).vwait = some w ∧ vecState t c = 3 := by
  refine h.completes rfl (by simp [hT, hrm, hty, hext, extNone]) ?_
  rw [← vecFetch_cluster s c c]
  split
  · next e r hs =>
    obtain ⟨htaken, hpop⟩ := popSlip_pops (w := w) c hs
    rw [slipOp, run_get, hs]
    simp only [h.code, if_true]
    exact ⟨htaken.vpc, hpop⟩
  · next hs => exact slipOp_waits c hs

theorem sltag_completes (h : VecIssues s c 0x49 w) (hT : vT w = false) (hrm : vRm w ≤ 4) (hty : vTy w = 2) (hext : vExt w = 0) :
    Completes (.sltag c w) s fun t =>
      match (s.cluster c).slip with
      | e :: _ => (t.cluster c).vpc = (s.cluster c).vpc + 8 ∧ Tagged c w (s.cluster c) e t
      | [] => (t.cluster c).vpc = (s.cluster c).vpc ∧ (t.cluster c).vwait = some w ∧ vecState t c = 3 := by
  refine h.completes rfl (by simp [hT, hrm, hty, hext, extNone]) ?_
  rw [← vecFetch_cluster s c c]
  split
  · next e r hs =>
    obtain ⟨htaken, htag⟩ := tagSlip_tags (w := w) (e := e) c (vecFetch s c).2
    rw [slipOp, run_get, hs]
    simp only [h.code, if_neg (show ¬ 0x49 = 0x48 by decide)]
    exact ⟨htaken.vpc, htag⟩
  · next hs => exact slipOp_waits c hs

theorem slpopWaitEnd_completes {e : SlipEntry} {r : List SlipEntry} (hw : (s.cluster c).vwait = some w)
    (hs : (s.cluster c).slip = e :: r) (hst : vecState s c = 3) : Completes (.slpopWaitEnd c) s fun t =>
      vecState t c = 1 ∧ (t.cluster c).vwait = none ∧ (t.cluster c).vpc = (s.cluster c).vpc + 8 ∧
      if vOp w = 0x48 then Popped c w e r t else Tagged c w (s.cluster c) e t := by
  refine .of_next rfl ?_
  have hcl := setVecSt_cluster c 1 s c
  simp only [run_get, hw, hs, hst, beq_self_eq_true, if_true, run_all_cons, run_all_nil]
  split
  · obtain ⟨⟨hvpc, hwait, hst'⟩, hpop⟩ := popSlip_pops (w := w) c (by rw [hcl, hs])
    exact ⟨hst'.trans (setVecSt_vecState c 1 s), hwait, by rw [hvpc, hcl], hpop⟩
  · obtain ⟨⟨hvpc, hwait, hst'⟩, htag⟩ := tagSlip_tags (w := w) (e := e) c ((setVecSt c 1).run s).2
    exact ⟨hst'.trans (setVecSt_vecState c 1 s), hwait, by rw [hvpc, hcl], by rwa [hcl] at htag⟩

theorem dld_completes {d : List Byte} (h : VecIssues s c 0x72 w) (h₁ : vf 56 48 w = 0) (h₂ : vf 41 24 w = 0)
    (hd : ((vget (vecUnit s c) (((s.rd .VEC_DTAB_BASE c).toNat + 64 * vExt w) % 2 ^ 48) 64).run (vecFetch s c).2).1 = .ok d) :
    Completes (.dld c w) s fun t => (t.cluster c).vpc = (s.cluster c).vpc + 8 ∧ Tab.at none (t.cluster c).vslots (vD w) =
      (if descOk (BitVec.ofNat 512 (leNat d)) then some (BitVec.ofNat 512 (leNat d)) else none) := by
  refine h.completes_done rfl (by simp [h₁, h₂])
    (by rw [vecFetch_vecUnit, vecFetch_rd _ _ _ (by decide), run_bind, hd]; exact congrArg Prod.snd (run_seq _ _ _)) fun t ht => ?_
  obtain ⟨n, hk⟩ := ht.cluster
  rw [hk, run_modCl, cluster_setCl, if_pos rfl, (vget_within _ _ _ _).same .cl (by decide), vecFetch_cluster]
  exact ⟨rfl, Tab.at_upd_same _ _ _⟩

end Move

/-- Settles O16, instruction by instruction. -/
theorem vectorLoadsStoresAndSlipway : Obligations.VectorLoadsStoresAndSlipway := by
  intro c w s
  refine ⟨fun a l h hT hrm hty hd ha hf hl => vld_completes h hT hrm hty hd ha hf hl, fun d h hT hrm hty hr hd hf hoff => ?_,
    slpop_completes, sltag_completes, fun e r => slpopWaitEnd_completes, fun h h₁ h₂ d => dld_completes h h₁ h₂⟩
  rintro l x ⟨u, hu⟩
  exact vst_completes h hT hrm hty hr hd hf hoff rfl (u := u) (Prod.ext hu rfl)

end Sys2Proof.Machine

/-! ### Comparison, selection, copies and permutation in registers (R69, R95, R96, R106) -/

namespace Sys2Proof.Machine
open Prog

theorem Completes.imp {i : Instr} {s : State} {P Q : State → Prop} (h : Completes i s P) (hPQ : ∀ t, P t → Q t) :
    Completes i s Q := Exists.imp (fun t => And.imp_right (hPQ t)) h

/-- A lane that no value was written to keeps its operand. -/
theorem OperandsSet.operand_kept {α : Type} {f r : Nat} {lane val : α → Nat} {xs : List α} {k k' : Cluster}
    (h : OperandsSet f r lane val xs k k') {l : Nat} (hl : l < 256) (hn : ∀ x ∈ xs, lane x ≠ l) (g q : Nat) :
    k'.operand g q l = k.operand g q l := Cluster.operand_congr (fun q => h.kept q l hl hn) g q

/-- What CMP leaves in a lane of its mask register (R69, R95). -/
def cmpBit (w : BitVec 64) (k : Cluster) (l : Nat) : Bool := (predOf (vExt w % 16)
  (compareTy (vTy w) (k.operand (tyFmt (vTy w)) (vA w) l) (k.operand (tyFmt (vTy w)) (vB w) l)).1).getD false

theorem foldl_cmpStep (w : BitVec 64) (src : Cluster) (xs : List Nat) (x : Cluster × Flags) :
    (xs.foldl (cmpStep w src) x).1 =
      { x.1 with masks := xs.foldl (fun m l => Tab.upd true m (256 * vD w + l) (cmpBit w src l)) x.1.masks } := by
  induction xs generalizing x with
  | nil => rfl
  | cons l xs ih => exact ih (cmpStep w src x l)

/-- A mask register other than M0 is its table's. -/
theorem Cluster.mask_of_pos (k : Cluster) {m : Nat} (h : 1 ≤ m) (l : Nat) : k.mask m l = Tab.at true k.masks (256 * m + l) := by
  rw [Cluster.mask, beq_eq_false_iff_ne.2 (by omega), Bool.false_or]

section Register
variable {c : Fin 32} {w : BitVec 64} {s : State}

/-- A register form is complete in the cluster that its effect leaves. -/
theorem VecIssues.completes_cluster {i : Instr} {op cls daddr : Nat} {legal : State → Cluster → Bool}
    {body : State → Cluster → Prog Unit} {P : State → Prop} {k' : Cluster} {m : State} (h : VecIssues s c op w)
    (he : exec i s = (vissue c op w legal body).next s) (hl : legal (vecFetch s c).2 (s.cluster c) = true)
    (hm : m.cluster c = k')
    (hb : ((body (vecFetch s c).2 (s.cluster c)).run (vecFetch s c).2).2 = ((vecDone c cls daddr).run m).2)
    (hP : ∀ t n, InstrDone c (k'.vpc + 8) m t → t.cluster c = k'.nextInstr (k'.vpc + 8) n → P t) : Completes i s P := by
  subst hm
  refine h.completes_done he hl hb fun t ht => ?_
  obtain ⟨n, hk⟩ := ht.cluster
  exact hP t n ht hk

theorem cmp_completes (hT : vT w = false) (hrm : vRm w ≤ 4) (h : VecIssues s c 0x18 w) (hty : vTy w ≤ 2) (hext : vExt w ≤ 6)
    (hlo : 1 ≤ vD w) (hhi : vD w ≤ 7) (ha : regOk (tyFmt (vTy w)) (vA w) = true) (hb : regOk (tyFmt (vTy w)) (vB w) = true) :
    Completes (.cmp c w) s fun t => (t.cluster c).vpc = (s.cluster c).vpc + 8 ∧ ∀ l < 256,
      (l < vecVl s c ∧ (s.cluster c).mask (vMsel w) l = true → (t.cluster c).mask (vD w) l = (predOf (vExt w) (compareTy (vTy w)
        ((s.cluster c).operand (tyFmt (vTy w)) (vA w) l) ((s.cluster c).operand (tyFmt (vTy w)) (vB w) l)).1).getD false) ∧
      (¬ (l < vecVl s c ∧ (s.cluster c).mask (vMsel w) l = true) → (t.cluster c).mask (vD w) l = (s.cluster c).mask (vD w) l) := by
  have hext' : vExt w % 16 = vExt w := Nat.mod_eq_of_lt (by omega)
  have hnd : ((activeLanes (s.cluster c) (vecVl s c) (vMsel w)).map (256 * vD w + ·)).Nodup :=
    (nodup_activeLanes _ _ _).map fun _ _ => Nat.add_left_cancel
  obtain ⟨hset, hkept⟩ := at_foldl_upd (d := true) (cmpBit w (s.cluster c)) hnd (s.cluster c).masks
  refine h.completes_cluster rfl (by simp [hT, hrm, hty, hext, hlo, hhi, ha, hb]; omega) (cls := 0) (daddr := 0)
    (k' := ((activeLanes (s.cluster c) (vecVl s c) (vMsel w)).foldl (cmpStep w (s.cluster c)) (s.cluster c, Flags.none)).1)
    ?_ (by simp only [vecFetch_vecVl, run_all_cons, run_all_nil]; rfl) fun t n ht hk => ?_
  · rw [(vecFlags_within _ _).same .cl (by decide), run_modCl, cluster_setCl, if_pos rfl]
  · rw [hk, foldl_cmpStep]
    refine ⟨rfl, fun l hl => ?_⟩
    simp only [Cluster.mask_of_pos _ hlo]
    refine ⟨fun hact => ?_, fun hina => ?_⟩
    · exact (hset l (mem_activeLanes.2 hact)).trans (by rw [cmpBit, hext'])
    · exact hkept _ fun x hx he => hina (by rw [← Nat.add_left_cancel he]; exact mem_activeLanes.1 hx)

/-- What a register form does that writes an operand to lanes of its destination (R96). -/
theorem operands_complete {i : Instr} {op : Nat} {legal : State → Cluster → Bool} {body : State → Cluster → Prog Unit}
    {f : Nat} (hf : Cluster.fitsRegister f) {val : Nat → Nat} {xs : List Nat} (hnd : xs.Nodup) (hlt : ∀ l ∈ xs, l < 256)
    (h : VecIssues s c op w) (he : exec i s = (vissue c op w legal body).next s) (hl : legal (vecFetch s c).2 (s.cluster c) = true)
    {m : State} (hm : m.cluster c = xs.foldl (fun k l => k.setOperand f (vD w) l (val l)) (s.cluster c))
    (hb : ((body (vecFetch s c).2 (s.cluster c)).run (vecFetch s c).2).2 = ((vecDone c 0 0).run m).2) :
    Completes i s fun t => (t.cluster c).vpc = (s.cluster c).vpc + 8 ∧
      (∀ l < 256, (l ∈ xs → (t.cluster c).operand f (vD w) l = val l % 2 ^ (8 * (fmtUnit f).2)) ∧
        (l ∉ xs → (t.cluster c).operand f (vD w) l = (s.cluster c).operand f (vD w) l)) ∧
      ∀ r, r ∉ doneNames → ∀ a b, t.rd r a b = m.rd r a b := by
  have hset := foldl_setOperand_set hf (r := vD w) (lane := fun l => l) val (xs := xs) (by rwa [List.map_id']) hlt (s.cluster c)
  refine h.completes_cluster he hl hm hb fun t n ht hk => ?_
  rw [hk]
  obtain ⟨v, hv⟩ := hset.frame
  refine ⟨by rw [hv]; rfl, fun l hl => ⟨fun hx => ?_, fun hx => ?_⟩, ht.rd⟩
  · rw [Cluster.nextInstr_operand, hset.set l hx]
  · rw [Cluster.nextInstr_operand, hset.operand_kept hl fun x hx' he => hx (he ▸ hx')]

theorem sel_completes (hT : vT w = false) (hrm : vRm w ≤ 4) (h : VecIssues s c 0x19 w) (hty : vTy w ≤ 2) (hext : vExt w = 0)
    (hd : regOk (tyFmt (vTy w)) (vD w) = true) (ha : regOk (tyFmt (vTy w)) (vA w) = true)
    (hb : regOk (tyFmt (vTy w)) (vB w) = true) :
    Completes (.sel c w) s fun t => (t.cluster c).vpc = (s.cluster c).vpc + 8 ∧ ∀ l < 256,
      (t.cluster c).operand (tyFmt (vTy w)) (vD w) l = if l < vecVl s c then
        (s.cluster c).operand (tyFmt (vTy w)) (if (s.cluster c).mask (vMsel w) l then vA w else vB w) l
        else (s.cluster c).operand (tyFmt (vTy w)) (vD w) l := by
  refine (operands_complete (tyFmt_fits (vTy w)) (val := fun l =>
    (s.cluster c).operand (tyFmt (vTy w)) (if (s.cluster c).mask (vMsel w) l then vA w else vB w) l)
    (List.nodup_range (n := vecVl s c)) (fun l hl => (List.mem_range.1 hl).trans_le (vecVl_le s c)) h rfl
    (by simp [hT, hrm, hty, hext, hd, ha, hb, extNone]) (m := ((modCl c fun _ => _).run (vecFetch s c).2).2)
    (by rw [run_modCl, cluster_setCl, if_pos rfl])
    (by simp only [vecFetch_vecVl, run_seq])).imp fun t ht => ?_
  obtain ⟨hvpc, hl, -⟩ := ht
  refine ⟨hvpc, fun l hlt => ?_⟩
  split
  · next hlt' => rw [(hl l hlt).1 (List.mem_range.2 hlt'), Nat.mod_eq_of_lt (Cluster.operand_lt _ _ _ _)]
  · next hlt' => exact (hl l hlt).2 fun hx => hlt' (List.mem_range.1 hx)

/-- What MOV writes to a lane of its destination (R95). -/
def movVal (k : Cluster) (f a l : Nat) : Nat := if f = 6 then k.operand 6 a l else k.lane a l

theorem movVal_mod (k : Cluster) (f a l : Nat) : movVal k f a l % 2 ^ (8 * (fmtUnit f).2) = k.operand f a l := by
  unfold movVal
  split
  · next hf =>
    subst hf
    exact Nat.mod_eq_of_lt (Cluster.operand_lt _ _ _ _)
  · next hf => rw [Cluster.operand, if_neg hf]

theorem setOperand_movVal (k x : Cluster) (f d a l : Nat) : x.setOperand f d l (movVal k f a l) =
    if f = 6 then x.setOperand 6 d l (k.operand 6 a l) else x.setLane d l (k.lane a l) := by
  unfold movVal
  split
  · next hf => rw [hf]
  · next hf => rw [Cluster.setOperand, if_neg hf]

theorem mov_completes (hT : vT w = false) (hrm : vRm w ≤ 4) (h : VecIssues s c 0x38 w) (hty : vTy w ≤ 2) (hext : vExt w = 0)
    (hd : regOk (tyFmt (vTy w)) (vD w) = true) (ha : regOk (tyFmt (vTy w)) (vA w) = true) :
    Completes (.mov c w) s fun t => (t.cluster c).vpc = (s.cluster c).vpc + 8 ∧ ∀ l < 256,
      (l < vecVl s c ∧ (s.cluster c).mask (vMsel w) l = true →
        (t.cluster c).operand (tyFmt (vTy w)) (vD w) l = (s.cluster c).operand (tyFmt (vTy w)) (vA w) l) ∧
      (¬ (l < vecVl s c ∧ (s.cluster c).mask (vMsel w) l = true) →
        (t.cluster c).operand (tyFmt (vTy w)) (vD w) l = (s.cluster c).operand (tyFmt (vTy w)) (vD w) l) := by
  refine (operands_complete (tyFmt_fits (vTy w)) (val := movVal (s.cluster c) (tyFmt (vTy w)) (vA w))
    (nodup_activeLanes (s.cluster c) (vecVl s c) (vMsel w)) activeLanes_lt h rfl (by simp [hT, hrm, hty, hext, hd, ha, extNone])
    (m := ((modCl c fun _ => _).run (vecFetch s c).2).2) (by rw [run_modCl, cluster_setCl, if_pos rfl])
    (by simp only [vecFetch_vecVl, hT, Bool.false_eq_true, if_false, run_seq, setOperand_movVal])).imp fun t ht => ?_
  obtain ⟨hvpc, hl, -⟩ := ht
  simp only [mem_activeLanes, movVal_mod] at hl
  exact ⟨hvpc, hl⟩

/-- What PERM writes to a lane of its destination (R106). -/
def permVal (s : State) (c : Nat) (w : BitVec 64) (l : Nat) : Nat :=
  if (s.cluster c).lane (vB w) l < vecVl s c then (s.cluster c).operand (tyFmt (vTy w)) (vA w) ((s.cluster c).lane (vB w) l)
  else fillOf s c (tyFmt (vTy w))

theorem permVal_mod (h : vTy w ≤ 1) (l : Nat) : permVal s c w l % 2 ^ (8 * (fmtUnit (tyFmt (vTy w))).2) = permVal s c w l := by
  refine Nat.mod_eq_of_lt ?_
  unfold permVal
  split
  · exact Cluster.operand_lt _ _ _ _
  · have := (s.rd .VEC_FILL c).isLt
    obtain hty | hty : vTy w = 0 ∨ vTy w = 1 := by omega
    · rw [hty]
      exact Nat.mod_lt _ (by decide)
    · rw [hty]
      exact this

theorem fillOf_vecFetch (s : State) (c f : Nat) : fillOf (vecFetch s c).2 c f = fillOf s c f := by
  rw [fillOf, fillOf, vecFetch_rd _ _ _ (by decide)]

/-- PERM records in VEC_EVT that a lane named one at VL or beyond, and counts the lanes that did (R106). -/
theorem permEvents_leave (c n : Nat) (t : Tags) (s : State) :
    let m := ((Prog.when (n != 0) ((setF .VEC_EVT Fld.VEC_EVT_PERM_RANGE c).seq (count (setVec c) 0x24 n t))).run s).2
    m.cluster c = s.cluster c ∧ (n ≠ 0 → m.rdF .VEC_EVT Fld.VEC_EVT_PERM_RANGE c = 1) ∧
      (n = 0 → m.rd .VEC_EVT c = s.rd .VEC_EVT c) := by
  by_cases hn : n = 0
  · subst hn
    exact ⟨rfl, fun h => absurd rfl h, fun _ => rfl⟩
  · simp only [Prog.when, bne_iff_ne, ne_eq, hn, not_false_eq_true, if_true, run_seq]
    refine ⟨?_, fun _ => ?_, fun h => h.elim⟩
    · rw [count_cluster, run_setF, cluster_setReg]
    · rw [State.rdF, (count_within _ _ _ _).rd .VEC_EVT (by decide), run_setF]
      exact s.rdF_setReg_field (by decide) c 0 1

/-- The lanes of a PERM that name a lane at VL or beyond (R106). -/
def permOut (s : State) (c : Nat) (w : BitVec 64) : Nat := ((activeLanes (s.cluster c) (vecVl s c) (vMsel w)).filter fun l =>
  decide (vecVl s c ≤ (s.cluster c).lane (vB w) l)).length

theorem permOut_eq_zero : permOut s c w = 0 ↔
    ∀ l, l < vecVl s c ∧ (s.cluster c).mask (vMsel w) l = true → (s.cluster c).lane (vB w) l < vecVl s c := by
  simp only [permOut, List.length_eq_zero_iff, List.filter_eq_nil_iff, mem_activeLanes, decide_eq_true_eq, not_le]

theorem perm_completes (hT : vT w = false) (hrm : vRm w ≤ 4) (h : VecIssues s c 0x30 w) (hty : vTy w ≤ 1) (hext : vExt w = 0)
    (hd : regOk (tyFmt (vTy w)) (vD w) = true) (ha : regOk (tyFmt (vTy w)) (vA w) = true) :
    Completes (.perm c w) s fun t => (t.cluster c).vpc = (s.cluster c).vpc + 8 ∧
      (∀ l < 256, (l < vecVl s c ∧ (s.cluster c).mask (vMsel w) l = true →
          (t.cluster c).operand (tyFmt (vTy w)) (vD w) l = permVal s c w l) ∧
        (¬ (l < vecVl s c ∧ (s.cluster c).mask (vMsel w) l = true) →
          (t.cluster c).operand (tyFmt (vTy w)) (vD w) l = (s.cluster c).operand (tyFmt (vTy w)) (vD w) l)) ∧
      (permOut s c w ≠ 0 → t.rdF .VEC_EVT Fld.VEC_EVT_PERM_RANGE c = 1) ∧
      (permOut s c w = 0 → t.rd .VEC_EVT c = s.rd .VEC_EVT c) := by
  have hev := permEvents_leave c (permOut s c w) { ltag := vecTag (vecFetch s c).2 c }
    ((modCl c fun _ => (activeLanes (s.cluster c) (vecVl s c) (vMsel w)).foldl (fun k l =>
      k.setOperand (tyFmt (vTy w)) (vD w) l (permVal s c w l)) (s.cluster c)).run (vecFetch s c).2).2
  generalize hm : Prod.snd _ = m at hev
  obtain ⟨hcl, hone, hzero⟩ := hev
  rw [run_modCl, cluster_setCl, if_pos rfl] at hcl
  rw [run_modCl, rd_setCl, vecFetch_rd _ _ _ (by decide)] at hzero
  refine (operands_complete (tyFmt_fits (vTy w)) (val := permVal s c w) (nodup_activeLanes _ _ _) activeLanes_lt h rfl
    (by simp [hT, hrm, hty, hext, hd, ha, extNone]) hcl
    (by simp only [vecFetch_vecVl, fillOf_vecFetch, run_all_cons, run_all_nil, ← hm]; rfl)).imp fun t ht => ?_
  obtain ⟨hvpc, hl, hrd⟩ := ht
  simp only [mem_activeLanes, permVal_mod hty] at hl
  refine ⟨hvpc, hl, fun hn => ?_, fun hn => ?_⟩
  · rw [State.rdF, hrd _ (by decide)]
    exact hone hn
  · rw [hrd _ (by decide), hzero hn]

end Register

/-- Settles O14, instruction by instruction. -/
theorem compareSelectMovePermute : Obligations.CompareSelectMovePermute := by
  intro c w s k f active hT hrm
  refine ⟨cmp_completes hT hrm, sel_completes hT hrm, mov_completes hT hrm, fun h hty hext hd ha => ?_⟩
  refine (perm_completes hT hrm h hty hext hd ha).imp fun t ht => ?_
  obtain ⟨hvpc, hl, hone, hzero⟩ := ht
  refine ⟨hvpc, hl, fun hout => hone fun hn => ?_, fun hall => hzero (permOut_eq_zero.2 fun l hact => ?_)⟩
  · obtain ⟨l, -, hact, hle⟩ := hout
    exact absurd (permOut_eq_zero.1 hn l hact) (not_lt.2 hle)
  · exact hall l (hact.1.trans_le (vecVl_le s c)) hact

end Sys2Proof.Machine

/-! ### Reductions and SMAX in registers (R104, R107) -/

namespace Sys2Proof.Machine
open Prog

section Tree
variable {β : Type} {g : State → β} {f : Nat → Nat → Prog Nat}

theorem treeLevel_keeps (hf : ∀ a b, (f a b).Keeps g) : ∀ l : List Nat, (treeLevel f l).Keeps g
  | [] => .ret _
  | [_] => .ret _
  | a :: b :: r => (hf a b).bind fun _ => (treeLevel_keeps hf r).bind fun _ => .ret _

theorem tree_keeps (hf : ∀ a b, (f a b).Keeps g) (n : Nat) (l : List Nat) : (tree f n l).Keeps g := by
  induction n generalizing l with
  | zero => exact .ret _
  | succ n ih =>
    unfold tree
    split
    · exact .ret _
    · exact .ret _
    · exact (treeLevel_keeps hf _).bind fun _ => ih _

end Tree

section Row
variable {c : Nat} {w : BitVec 64}

theorem combine_keeps (rounds : Bool) (f : Fmt → Rm → Nat → Nat → Nat × Flags) (a b : Nat) :
    (combine c w rounds f a b).Keeps (vecKept c) := (drawLane_keeps _ _ _).bind fun _ => .seq (vecFlags_keeps _) (.ret _)

theorem freeVal_keeps : freeVal.Keeps (vecKept c) := fun _ => rfl

theorem softmaxRow_keeps (lane : Nat → Nat) (row : List (Option Val)) : (softmaxRow c w lane row).Keeps (vecKept c) := by
  unfold softmaxRow
  refine .mapM fun x => ?_
  split
  · exact .ret _
  · exact (drawLane_keeps _ _ _).bind fun _ => freeVal_keeps.bind fun _ => .ret _

theorem setF_event_keeps (f : Field) : (setF .VEC_EVT f c).Keeps (vecKept c) := fun s => by
  simp only [vecKept, run_setF, cluster_setReg, State.rd_setReg_name_ne _ (show RegName.VEC_STATUS ≠ .VEC_EVT by decide),
    State.rd_setReg_name_ne _ (show RegName.SMP_CTRL ≠ .VEC_EVT by decide)]

theorem smaxRow_keeps (lane : Nat → Nat) (row : List (Option Nat)) : (smaxRow c w lane row).Keeps (vecKept c) := by
  unfold smaxRow
  refine .ite (.seq (vecFlags_keeps _) (.ret _)) (.ite (.seq (setF_event_keeps _) (.ret _)) (.ite (.mapM fun v => ?_)
    (softmaxRow_keeps _ _)))
  exact .ite ((drawLane_keeps _ _ _).bind fun _ => .ret _) (.ret _)

theorem length_mapM {α β : Type} {xs : List α} {f : α → Prog β} (s : State) :
    ((Prog.mapM xs f).run s).1.length = xs.length := by
  induction xs generalizing s with
  | nil => rfl
  | cons a xs ih =>
    simp only [Prog.mapM, run_bind, run_ret, List.length_cons, ih]

theorem smaxRow_length (lane : Nat → Nat) (row : List (Option Nat)) (s : State) :
    ((smaxRow c w lane row).run s).1.length = row.length := by
  unfold smaxRow
  dsimp only
  split
  · rw [run_seq, run_ret, List.length_map]
  · split
    · rw [run_seq, run_ret, List.length_map]
    · split
      · rw [length_mapM, List.length_zipIdx, List.length_map]
      · rw [softmaxRow, length_mapM]
        simp

end Row

section Register
variable {c : Fin 32} {w : BitVec 64} {s : State}

/-- The value of a reduction over the active lanes of a register (R104). -/
def reduced (c : Nat) (w : BitVec 64) (rounds : Bool) (g : Fmt → Rm → Nat → Nat → Nat × Flags) (s : State) : Prog (Option Nat) :=
  tree (combine c w rounds g) 32 ((activeLanes (s.cluster c) (vecVl s c) (vMsel w)).map fun l =>
    (s.cluster c).operand (tyFmt (vTy w)) (vA w) l)

theorem reduction_completes {i : Instr} {op : Nat} {rounds : Bool} {zero : Fmt → Nat}
    {g : Fmt → Rm → Nat → Nat → Nat × Flags} (he : exec i s = (reduction c op rounds zero g w).next s) (hT : vT w = false)
    (hrm : vRm w ≤ 4) (hext : vExt w = 0) (h : VecIssues s c op w) (hty : vTy w ≤ 1)
    (hd : regOk (tyFmt (vTy w)) (vD w) = true) (ha : regOk (tyFmt (vTy w)) (vA w) = true) :
    Completes i s fun t => (t.cluster c).vpc = (s.cluster c).vpc + 8 ∧ (t.cluster c).operand (tyFmt (vTy w)) (vD w) 0 =
      (((reduced c w rounds g s).run (vecFetch s c).2).1.getD (zero (fmtTy w))) % 2 ^ (8 * (fmtUnit (tyFmt (vTy w))).2) := by
  unfold reduction at he
  generalize hr : (reduced c w rounds g s).run (vecFetch s c).2 = r
  have hkept : vecKept c r.2 = vecKept c s := by
    rw [← hr, reduced, tree_keeps (combine_keeps rounds g)]
    exact vecFetch_kept s c
  obtain ⟨hvpc, -, -⟩ := vecKept_fields hkept
  rw [reduced] at hr
  refine h.completes_done he (by simp [hT, hrm, hty, hext, hd, ha, extNone])
    (by simp only [vecFetch_vecVl, hT, Bool.false_eq_true, if_false, run_bind, hr, run_seq]; rfl) fun t ht => ?_
  obtain ⟨n, hk⟩ := ht.cluster
  rw [hk, run_modCl, cluster_setCl, if_pos rfl, Cluster.nextInstr_operand,
    Cluster.operand_setOperand_same _ (tyFmt_fits _) (by decide)]
  refine ⟨?_, rfl⟩
  rw [← hvpc, Cluster.nextInstr_vpc, Cluster.setOperand]
  split <;> rfl

/-- The values of a row's entries that are not masked (R107). -/
def openVals (row : List (Option Nat)) : List Val := (row.map fun x => x.map b32.dec).filterMap id

theorem smaxRow_of_nan {row : List (Option Nat)} (h : (openVals row).any Val.isNan = true) (lane : Nat → Nat) (s : State) :
    ((smaxRow c w lane row).run s).1 = row.map fun _ => b32.nan := by
  unfold openVals at h
  rw [smaxRow, if_pos h, run_seq, run_ret]

theorem smaxRow_of_empty {row : List (Option Nat)} (h : (openVals row).all (Val.isInf true) = true) (lane : Nat → Nat)
    (s : State) : (smaxRow c w lane row).run s =
      (row.map fun _ => 0, ((setF .VEC_EVT Fld.VEC_EVT_SMX_EMPTY c).run s).2) := by
  have hnan : ¬ (openVals row).any Val.isNan = true := by
    rw [List.any_eq_true]
    rintro ⟨v, hv, hn⟩
    have := List.all_eq_true.1 h v hv
    cases v <;> simp [Val.isInf, Val.isNan] at this hn
  unfold openVals at h hnan
  rw [smaxRow, if_neg hnan, if_pos h, run_seq, run_ret]

theorem openVals_map_filterMap (row : List (Option Nat)) : (row.filterMap id).map b32.dec = openVals row := by
  simp [openVals, List.map_filterMap, List.filterMap_map]

/-- The lanes below VL of a register, with those that a mask leaves out. -/
def maskedRow (k : Cluster) (vl m a : Nat) : List (Option Nat) :=
  (List.range vl).map fun l => if k.mask m l then some (k.lane a l) else none

theorem getD_map_const {α : Type} (xs : List α) (x : Nat) {l : Nat} (h : l < xs.length) : (xs.map fun _ => x).getD l 0 = x := by
  rw [List.getD_eq_getElem _ _ (by rwa [List.length_map]), List.getElem_map]

/-- A list written to the lanes of a register, each entry to the lane of its place. -/
theorem foldl_setLane_zipIdx (o : List Nat) (r : Nat) (h : o.length ≤ 256) (k : Cluster) :
    let k' := o.zipIdx.foldl (fun x p => x.setLane r p.2 p.1) k
    k'.vpc = k.vpc ∧ ∀ l < o.length, k'.lane r l = o.getD l 0 % 2 ^ 32 := by
  obtain ⟨⟨v, hv⟩, hset, -⟩ := foldl_setLane_set (r := r) (lane := Prod.snd) (fun p : Nat × Nat => p.1) (xs := o.zipIdx)
    (List.nodup_zipIdx_map_snd o) (fun p hp => (List.snd_lt_of_mem_zipIdx hp).trans_le (by omega)) k
  refine ⟨(congrArg Cluster.vpc hv).trans rfl, fun l hl => ?_⟩
  have := hset (o[l], l) (List.mk_mem_zipIdx_iff_getElem?.2 (List.getElem?_eq_getElem hl))
  rwa [List.getD_eq_getElem _ _ hl]

theorem smax_completes (hT : vT w = false) (hrm : vRm w ≤ 4) (hext : vExt w = 0) (h : VecIssues s c 0x31 w) (hty : vTy w = 0)
    {row : List (Option Nat)} (hrow : row = maskedRow (s.cluster c) (vecVl s c) (vMsel w) (vA w)) :
    Completes (.smax c w) s fun t => (t.cluster c).vpc = (s.cluster c).vpc + 8 ∧
      (∀ l < vecVl s c, (t.cluster c).lane (vD w) l = ((smaxRow c w id row).run (vecFetch s c).2).1.getD l 0 % 2 ^ 32) ∧
      t.rd .VEC_EVT c = ((smaxRow c w id row).run (vecFetch s c).2).2.rd .VEC_EVT c := by
  have hlen : ((smaxRow c w id row).run (vecFetch s c).2).1.length = vecVl s c := by
    rw [smaxRow_length, hrow, maskedRow, List.length_map, List.length_range]
  obtain ⟨hvpc, -, -⟩ := vecKept_fields ((smaxRow_keeps (c := c) (w := w) id row _).trans (vecFetch_kept s c))
  generalize hr : (smaxRow c w id row).run (vecFetch s c).2 = r at hlen hvpc
  obtain ⟨hpc, hlane⟩ := foldl_setLane_zipIdx r.1 (vD w) (hlen.trans_le (vecVl_le s c)) (r.2.cluster c)
  rw [hrow] at hr
  refine h.completes_done (m := ((modCl c fun k => r.1.zipIdx.foldl (fun x p => x.setLane (vD w) p.2 p.1) k).run r.2).2) rfl
    (by simp [hT, hrm, hty, hext, extNone])
    (by simp only [vecFetch_vecVl, hT, Bool.false_eq_true, if_false, run_bind, run_seq]; rw [← hr]; rfl) fun t ht => ?_
  obtain ⟨n, hk⟩ := ht.cluster
  rw [hk, ht.rd .VEC_EVT (by decide), run_modCl, cluster_setCl, if_pos rfl, rd_setCl, Cluster.nextInstr_vpc, hpc, hvpc]
  exact ⟨rfl, fun l hl => hlane l (hl.trans_eq hlen.symm), rfl⟩

end Register

/-- Settles O15: each reduction is its tree, and SMAX is its row. -/
theorem reductionsAndSoftmax : Obligations.ReductionsAndSoftmax := by
  intro c w s k s₁ f hT hrm hext
  refine ⟨fun i op rounds zero g hi => ?_, fun h hty => ?_⟩
  · simp only [List.mem_cons, Prod.mk.injEq, List.not_mem_nil, or_false] at hi
    obtain ⟨rfl, rfl, rfl, rfl, rfl⟩ | ⟨rfl, rfl, rfl, rfl, rfl⟩ | ⟨rfl, rfl, rfl, rfl, rfl⟩ := hi
    · exact reduction_completes (i := .rsum c w) (s := s) rfl hT hrm hext
    · exact reduction_completes (i := .rmax c w) (s := s) rfl hT hrm hext
    · exact reduction_completes (i := .rmin c w) (s := s) rfl hT hrm hext
  · intro row open'
    have hopen : open' = openVals row := openVals_map_filterMap row
    have hrow : row.length = vecVl s c := by simp [row]
    refine (smax_completes hT hrm hext h hty (row := row) rfl).imp fun t ht => ?_
    obtain ⟨hvpc, hlane, hevt⟩ := ht
    refine ⟨hvpc, hlane, fun hnan l hl => ?_, fun hinf => ⟨?_, fun l hl => ?_⟩⟩
    · rw [hlane l hl, smaxRow_of_nan (hopen ▸ hnan), getD_map_const _ _ (hrow ▸ hl)]
      decide
    · rw [State.rdF, hevt, smaxRow_of_empty (hopen ▸ hinf)]
      exact (vecFetch s c).2.rdF_setReg_field (by decide) c 0 1
    · rw [hlane l hl, smaxRow_of_empty (hopen ▸ hinf), getD_map_const _ _ (hrow ▸ hl), Nat.zero_mod]

end Sys2Proof.Machine

/-! ### Tensor forms (R98 to R105) -/

namespace Sys2Proof.Machine
open Prog

section TensorKept
variable {β : Type} {g : State → β} {c : Nat} {w : BitVec 64}

theorem calcAll_keeps {per : Nat} {each : Nat → Prog (Except Flt Nat)} (he : ∀ lin, (each lin).Keeps g) (n lin : Nat)
    (acc : List Nat) : (calcAll per each n lin acc).Keeps g := by
  induction n generalizing lin acc with
  | zero => exact .ret _
  | succ n ih =>
    refine (he lin).bind fun x => ?_
    cases x with
    | error f => exact .ret _
    | ok v => exact ih _ _

theorem writeOuts_keeps (u : Unit') (n : Nat) (os : List TOut) : (writeOuts u n os).Keeps (vecKept c) := by
  refine (memParts_keeps_vecKept (scatterP_within _ _)).bind fun r => ?_
  split <;> exact .ret _

theorem runPart_keeps {per : Nat} {each : Nat → Prog (Except Flt Nat)} {out : Nat → List Nat → Prog (List TOut)}
    (he : ∀ lin, (each lin).Keeps (vecKept c)) (ho : ∀ lin codes, (out lin codes).Keeps (vecKept c)) (u : Unit') (lin n : Nat) :
    (runPart u per each out lin n).Keeps (vecKept c) := by
  refine (calcAll_keeps he _ _ _).bind fun r => ?_
  split
  · exact .ret _
  · exact (ho _ _).bind fun os => writeOuts_keeps _ _ _

theorem readElem_keeps (u : Unit') (d : Desc) (idx : List Nat) : (readElem u d idx).Keeps (vecKept c) :=
  readParts_keeps_vecKept (readElem_within _ _ _)

theorem elemCalc_keeps (o : VOp) (sf df : Nat) (d : Desc) (l : List Desc) (lin : Nat) :
    (elemCalc c o sf df w d l lin).Keeps (vecKept c) :=
  .get fun _ => .bindE (.mapE fun _ => readElem_keeps _ _ _) fun _ => (drawLane_keeps _ _ _).bind fun _ =>
    .seq (vecFlags_keeps _) (.ret _)

theorem cvtCalc_keeps (d a : Desc) (lin : Nat) : (cvtCalc c w d a lin).Keeps (vecKept c) :=
  .get fun _ => .bindE (readElem_keeps _ _ _) fun _ => .ite ((drawLane_keeps _ _ _).bind fun _ => .seq (vecFlags_keeps _) (.ret _))
    (.seq (vecFlags_keeps _) (.ret _))

theorem copyCalc_keeps (d a : Desc) (lin : Nat) : (copyCalc c d a lin).Keeps (vecKept c) :=
  .get fun _ => .bindE (readElem_keeps _ _ _) fun _ => .ret _

theorem vget_keeps (u : Unit') (va n : Nat) (acc : Acc) : (vget u va n acc).Keeps (vecKept c) :=
  readParts_keeps_vecKept (vget_within _ _ _ _)

theorem blockCalc_keeps (d a : Desc) (lin : Nat) : (blockCalc c d a lin).Keeps (vecKept c) :=
  .get fun _ => .bindE (vget_keeps _ _ _ _) fun _ => .ite (.bindE (vget_keeps _ _ _ _) fun _ => .ret _) (.ret _)

theorem mxOut_keeps (d : Desc) (lin : Nat) (codes : List Nat) : (mxOut c w d lin codes).Keeps (vecKept c) :=
  .bind (.mapM fun _ => .bind (.mapM fun _ => (drawLane_keeps _ _ _).bind fun _ => .ret _) fun _ =>
    .seq (vecFlags_keeps _) (.ret _)) fun _ => .ret _

theorem xOut_keeps (d : Desc) (lin : Nat) (codes : List Nat) : (xOut c d lin codes).Keeps (vecKept c) :=
  .seq (vecFlags_keeps _) (.ret _)

theorem cvtOut_keeps (d : Desc) (lin : Nat) (codes : List Nat) : (cvtOut c w d lin codes).Keeps (vecKept c) :=
  .ite (mxOut_keeps _ _ _) (.ite ((xOut_keeps _ _ _).bind fun _ => .ret _) (.ret _))

theorem residOut_keeps (d : Desc) (r : Option Desc) (lin : Nat) (codes : List Nat) :
    (residOut c w d r lin codes).Keeps (vecKept c) := by
  unfold residOut
  exact .ite ((mxOut_keeps _ _ _).bind fun _ => .ret _) ((xOut_keeps _ _ _).bind fun _ => .ret _)

theorem smaxRowAt_keeps (d a : Desc) (m : Option Desc) (lin : Nat) : (smaxRowAt c w d a m lin).Keeps (vecKept c) := by
  unfold smaxRowAt
  refine .get fun s => ?_
  dsimp only
  refine .bindE (.mapE fun i => .bindE ?_ fun b => .ite (.ret _) (.bindE (readElem_keeps _ _ _) fun _ => .ret _)) fun row => ?_
  · cases m with
    | none => exact .ret _
    | some m => exact readElem_keeps _ _ _
  · exact (smaxRow_keeps _ _).bind fun o => .seq (modCl_keeps_vecKept fun _ => rfl) (.ret _)

theorem smaxFrom_keeps (d a : Desc) (m : Option Desc) (n0 fuel lin n : Nat) (acc : List Nat) :
    (smaxFrom c w d a m n0 fuel lin n acc).Keeps (vecKept c) := by
  induction fuel generalizing lin n acc with
  | zero => exact .ret _
  | succ fuel ih =>
    refine .get fun s => .ite (.ret _) (.bind (.ite (smaxRowAt_keeps _ _ _ _) (.ret _)) fun r => ?_)
    cases r with
    | error f => exact .ret _
    | ok row => exact ih _ _ _

theorem smaxPart_keeps (d a : Desc) (m : Option Desc) (lin n : Nat) : (smaxPart c w d a m lin n).Keeps (vecKept c) := by
  refine .get fun s => (smaxFrom_keeps _ _ _ _ _ _ _ _).bind fun r => ?_
  split
  · exact .ret _
  · exact writeOuts_keeps _ _ _

/-- One element of a reduction: the tree of its row (R104). -/
def redCalc (c : Nat) (w : BitVec 64) (rounds : Bool) (zero : Fmt → Nat) (f : Fmt → Rm → Nat → Nat → Nat × Flags) (d a : Desc)
    (lin : Nat) : Prog (Except Flt Nat) :=
  .get fun s => (Prog.mapE (List.range (a.sizes.headD 0)) fun n =>
    readElem (vecUnit s c) a (n :: (unlin d.sizes lin).drop 1)).bindE fun l =>
      (tree (combine c w rounds f) 32 (l.map (·.1))).bind fun r => .ret (.ok (r.getD (zero (fmtTy w))))

theorem redCalc_keeps (rounds : Bool) (zero : Fmt → Nat) (f : Fmt → Rm → Nat → Nat → Nat × Flags) (d a : Desc) (lin : Nat) :
    (redCalc c w rounds zero f d a lin).Keeps (vecKept c) :=
  .get fun _ => .bindE (.mapE fun _ => readElem_keeps _ _ _) fun _ => (tree_keeps (combine_keeps _ _) _ _).bind fun _ => .ret _

end TensorKept

section Tensor
variable {c : Fin 32} {w : BitVec 64} {s : State}

@[simp] theorem run_dry {α : Type} (p : Prog α) (s : State) : p.dry.run s = ((p.run s).1, s) := rfl

/-- A tensor form that starts at its first chunk and meets no fault is its elements, written. -/
theorem tensorRun_done {c : Nat} {d : Desc} {run : Nat → Nat → Prog TEnd} {s x : State} (h₀ : (s.cluster c).vchunk = 0)
    (hx : (run 0 d.count).run s = (.done, x)) (done : Prog Unit) : (tensorRun c d run done).run s = done.run x := by
  rw [tensorRun, run_get]
  simp only [h₀, Nat.mul_zero, Nat.sub_zero, run_bind, run_dry, hx]

/-- An instruction that works through a destination from its first chunk, and meets no fault, is complete with memory as
its writes leave it, where no sampling is on. -/
theorem tensor_completes {i : Instr} {op : Nat} {legal : State → Cluster → Bool} {body : State → Cluster → Prog Unit}
    {d : Desc} {part : Nat → Nat → Prog TEnd} (h : VecIssues s c op w) (he : exec i s = (vissue c op w legal body).next s)
    (hl : legal (vecFetch s c).2 (s.cluster c) = true)
    (hb : (body (vecFetch s c).2 (s.cluster c)).run (vecFetch s c).2 =
      (tensorRun c d part (vecDone c 5 d.base)).run (vecFetch s c).2)
    (hkeep : (part 0 d.count).Keeps (vecKept c)) (h₀ : (s.cluster c).vchunk = 0)
    (hoff : flagF Fld.SMP_CTRL_EN (s.rd .SMP_CTRL c) = false) {x : State}
    (hx : (part 0 d.count).run (vecFetch s c).2 = (.done, x)) : Completes i s fun t =>
      (t.cluster c).vpc = (s.cluster c).vpc + 8 ∧ vecState t c = 1 ∧ ∀ a, t.byte a = x.byte a := by
  have hkept := hkeep (vecFetch s c).2
  rw [hx] at hkept
  obtain ⟨hvpc, hst, hsmp⟩ := vecKept_fields (hkept.trans (vecFetch_kept s c))
  refine h.completes_done he hl (by rw [hb, tensorRun_done (by rwa [vecFetch_cluster]) hx]) fun t ht => ?_
  obtain ⟨n, hk⟩ := ht.cluster
  rw [hk, ht.vecState, hst, Cluster.nextInstr_vpc, hvpc]
  exact ⟨rfl, h.runs, ht.byte (by rwa [hsmp])⟩

theorem exec_elementwiseRows (s : State) : ∀ p ∈ elementwiseRows c w, exec p.1 s = (elementwise c p.2 w).next s := by
  simp only [elementwiseRows, List.forall_mem_cons]
  exact ⟨rfl, rfl, rfl, rfl, rfl, rfl, rfl, rfl, rfl, rfl, rfl, rfl, rfl, rfl, rfl, rfl, rfl, rfl, rfl, fun _ h => nomatch h⟩

/-- What the tensor form of an instruction leaves that is complete. -/
def TensorWritten (c : Nat) (s x t : State) : Prop :=
  (t.cluster c).vpc = (s.cluster c).vpc + 8 ∧ vecState t c = 1 ∧ ∀ a, t.byte a = x.byte a

/-- An instruction that works on a tensor from its first chunk on, with no sampling on, and what its part then leaves. -/
structure TensorIssues (c : Nat) (w : BitVec 64) (d : Desc) (part : Nat → Nat → Prog TEnd) (s x : State) : Prop where
  tensor : vT w = true
  dest   : (s.cluster c).vslot (vD w) = some d
  first  : (s.cluster c).vchunk = 0
  off    : flagF Fld.SMP_CTRL_EN (s.rd .SMP_CTRL c) = false
  part   : (part 0 d.count).run (vecFetch s c).2 = (.done, x)

section Rows
variable {d : Desc} {part : Nat → Nat → Prog TEnd} {x : State}

/-- A legal elementwise operation in tensor form has its destination's format (R102). -/
theorem elemOk_dst {o : VOp} {k : Cluster} {sf : Nat} (h : elemOk o w k = true) (hT : vT w = true) (hsf : o.src w = some sf)
    (hd : k.vslot (vD w) = some d) : o.dst w = some d.fmt := by
  unfold elemOk at h
  rw [hsf] at h
  cases hdf : o.dst w with
  | none => simp [hdf] at h
  | some df =>
    simp only [hdf, hT, if_true, tensorOk, hd, Bool.and_eq_true] at h
    obtain ⟨-, -, h⟩ := h
    split at h
    · next d' l hd' hl =>
      cases hd'
      simp only [Bool.and_eq_true, beq_iff_eq] at h
      rw [h.1.1]
    · exact absurd h (by decide)

theorem elementwise_tensor {i : Instr} {o : VOp} {sf : Nat} {l : List Desc} (hio : (i, o) ∈ elementwiseRows c w)
    (hok : elemOk o w (s.cluster c) = true) (hsf : o.src w = some sf) (hl : vslots (s.cluster c) (srcsOf o.arity w) = some l)
    (hpart : part = runPart (vecUnit (vecFetch s c).2 c) 1 (elemCalc c o sf d.fmt w d l)
      fun lin codes => .ret [plainOut d lin codes])
    (h : VecIssues s c o.op w) (ht : TensorIssues c w d part s x) : Completes i s (TensorWritten c s x) := by
  subst hpart
  obtain ⟨hT, hd, h₀, hoff, hx⟩ := ht
  have hdf := elemOk_dst hok hT hsf hd
  refine tensor_completes h (exec_elementwiseRows s _ hio) hok ?_
    (runPart_keeps (elemCalc_keeps _ _ _ _ _) (fun _ _ => .ret _) _ _ _) h₀ hoff hx
  simp only [hsf, hdf, hT, if_true, hd, hl]
  rfl

theorem cvt_tensor {a : Desc} (hrm : vRm w ≤ 4) (hty : vTy w ≤ 1) (hext : vExt w < 32) (hdst : cvtDst (cvtFmt w) = true)
    (hok : cvtTensorOk (cvtFmt w) w (s.cluster c) = true) (ha : (s.cluster c).vslot (vA w) = some a)
    (hpart : part = runPart (vecUnit (vecFetch s c).2 c) 1 (cvtCalc c w d a) (cvtOut c w d)) (h : VecIssues s c 0x20 w)
    (ht : TensorIssues c w d part s x) : Completes (.cvt c w) s (TensorWritten c s x) := by
  subst hpart
  obtain ⟨hT, hd, h₀, hoff, hx⟩ := ht
  refine tensor_completes h (by change execCvt c w s = _; rw [execCvt, if_pos hT])
    (by simp [hrm, hty, hdst, hok, Nat.div_eq_of_lt hext]) ?_ (runPart_keeps (cvtCalc_keeps _ _) (cvtOut_keeps _) _ _ _) h₀ hoff hx
  simp only [hd, ha]
  rfl

theorem qnt_tensor {a : Desc} (hok : qntOk w (s.cluster c) = true) (ha : (s.cluster c).vslot (vA w) = some a)
    (hpart : part = runPart (vecUnit (vecFetch s c).2 c) 1 (copyCalc c d a)
      (residOut c w d (if vExt w = 32 then (s.cluster c).vslot (vC w) else none)))
    (h : VecIssues s c 0x21 w) (ht : TensorIssues c w d part s x) : Completes (.qnt c w) s (TensorWritten c s x) := by
  subst hpart
  obtain ⟨hT, hd, h₀, hoff, hx⟩ := ht
  refine tensor_completes h rfl hok ?_ (runPart_keeps (copyCalc_keeps _ _) (residOut_keeps _ _) _ _ _) h₀ hoff hx
  simp only [hd, ha]
  rfl

theorem mov_tensor {a : Desc} (hrm : vRm w ≤ 4) (hty : vTy w ≤ 2) (hext : vExt w = 0) (hm : vMsel w = 0)
    (ha : (s.cluster c).vslot (vA w) = some a) (hfmt : d.fmt = a.fmt) (hfit : dstFits d = true) (hsrc : srcOk d a = true)
    (hpart : if plainFmt d.fmt then part = runPart (vecUnit (vecFetch s c).2 c) 1 (copyCalc c d a)
        fun lin codes => .ret [plainOut d lin codes]
      else part = runPart (vecUnit (vecFetch s c).2 c) (fmtUnit d.fmt).1 (blockCalc c d a)
        fun lin codes => .ret (blockOut d lin codes))
    (h : VecIssues s c 0x38 w) (ht : TensorIssues c w d part s x) : Completes (.mov c w) s (TensorWritten c s x) := by
  obtain ⟨hT, hd, h₀, hoff, hx⟩ := ht
  refine tensor_completes h rfl (by simp [hrm, hty, hext, hT, hm, hd, ha, hfmt, hfit, hsrc, extNone]) ?_ ?_ h₀ hoff hx
  · simp only [hT, if_true, hd, ha]
    split at hpart
    · next hp => rw [if_pos hp, hpart]; rfl
    · next hp => rw [if_neg hp, hpart]; rfl
  · split at hpart <;> rw [hpart]
    · exact runPart_keeps (copyCalc_keeps _ _) (fun _ _ => .ret _) _ _ _
    · exact runPart_keeps (blockCalc_keeps _ _) (fun _ _ => .ret _) _ _ _

theorem smax_tensor {a : Desc} (hrm : vRm w ≤ 4) (hty : vTy w = 0) (hok : smaxOk w (s.cluster c) = true)
    (ha : (s.cluster c).vslot (vA w) = some a)
    (hpart : part = smaxPart c w d a (if vExt w = 1 then (s.cluster c).vslot (vB w) else none))
    (h : VecIssues s c 0x31 w) (ht : TensorIssues c w d part s x) : Completes (.smax c w) s (TensorWritten c s x) := by
  subst hpart
  obtain ⟨hT, hd, h₀, hoff, hx⟩ := ht
  refine tensor_completes h rfl (by simp [hrm, hty, hT, hok]) ?_ (smaxPart_keeps _ _ _ _ _) h₀ hoff hx
  simp only [hT, if_true, hd, ha]

theorem reduction_tensor {i : Instr} {op : Nat} {rounds : Bool} {zero : Fmt → Nat} {g : Fmt → Rm → Nat → Nat → Nat × Flags}
    {a : Desc} (he : exec i s = (reduction c op rounds zero g w).next s) (hrm : vRm w ≤ 4) (hty : vTy w ≤ 1) (hext : vExt w = 0)
    (hm : vMsel w = 0) (ha : (s.cluster c).vslot (vA w) = some a) (hdf : d.fmt = tyFmt (vTy w)) (haf : a.fmt = tyFmt (vTy w))
    (hfit : dstFits d = true) (hone : d.sizes.headD 0 = 1) (hdrop : d.sizes.drop 1 = a.sizes.drop 1) (hapart : d.apart a = true)
    (hpart : part = runPart (vecUnit (vecFetch s c).2 c) 1 (redCalc c w rounds zero g d a)
      fun lin codes => .ret [plainOut d lin codes])
    (h : VecIssues s c op w) (ht : TensorIssues c w d part s x) : Completes i s (TensorWritten c s x) := by
  subst hpart
  obtain ⟨hT, hd, h₀, hoff, hx⟩ := ht
  unfold reduction at he
  refine tensor_completes h he (by simp only [hrm, hty, hext, hT, hm, hd, ha, hdf, haf, hfit, hone, hdrop, hapart, extNone,
    beq_self_eq_true, decide_true, Bool.and_self, if_true]) ?_
    (runPart_keeps (redCalc_keeps _ _ _ _ _) (fun _ _ => .ret _) _ _ _) h₀ hoff hx
  simp only [hT, if_true, hd, ha]
  rfl

end Rows

end Tensor

/-- Settles O13, form by form. -/
theorem tensorFormWritesEveryElement : Obligations.TensorFormWritesEveryElement := by
  intro c w s i op d part k s₁ form plain red hrow h hT hd h₀ hoff x hx
  have ht : TensorIssues c w d part s x := ⟨hT, hd, h₀, hoff, hx⟩
  obtain ⟨o, sf, l, hio, rfl, hok, hsf, hl, hpart⟩ | ⟨a, rfl, rfl, hrm, hty, hext, hdst, hok, ha, hpart⟩ |
    ⟨a, rfl, rfl, hok, ha, hpart⟩ | ⟨a, rfl, rfl, hrm, hty, hext, hm, ha, hfmt, hfit, hsrc, hpart⟩ |
    ⟨a, rfl, rfl, hrm, hty, hok, ha, hpart⟩ | ⟨a, hrm, hty, hext, hm, ha, hdf, haf, hfit, hone, hdrop, hapart, hred⟩ := hrow
  · exact elementwise_tensor hio hok hsf hl hpart h ht
  · exact cvt_tensor hrm hty hext hdst hok ha hpart h ht
  · exact qnt_tensor hok ha hpart h ht
  · exact mov_tensor hrm hty hext hm ha hfmt hfit hsrc hpart h ht
  · exact smax_tensor hrm hty hok ha hpart h ht
  · obtain ⟨rfl, rfl, hpart⟩ | ⟨rfl, rfl, hpart⟩ | ⟨rfl, rfl, hpart⟩ := hred <;>
      exact reduction_tensor rfl hrm hty hext hm ha hdf haf hfit hone hdrop hapart hpart h ht

end Sys2Proof.Machine

/-! ### Stores and emits (R81, R85, R86, R90, R91) -/

namespace Sys2Proof.Machine
open Prog

/-- What a tile carries of its word, and whether the fallback saturated it (R81, R187). -/
structure TileOf (w : BitVec 128) (sat : Bool) (x : Tile) : Prop where
  word : x.word = w
  sat  : x.sat = sat

section Tiles
variable (k : Cluster) (w : BitVec 128) (addr : BitVec 48) (r : Nat) (fall : Bool) (desc : BitVec 512)

theorem outTile_spec (a place : Nat) : TileOf w (fall && wOp w == opTemit) (outTile k w addr a place r fall desc).1 ∧
    ∃ l, (outTile k w addr a place r fall desc).2 = { k with lfsr := l } := by
  refine ⟨⟨rfl, rfl⟩, ?_⟩
  unfold outTile
  dsimp only
  split <;> exact ⟨_, rfl⟩

theorem outTiles_foldl_spec (xs : List (Nat × Nat)) (p : List Tile × Cluster)
    (hp : (∀ x ∈ p.1, TileOf w (fall && wOp w == opTemit) x) ∧ ∃ l, p.2 = { k with lfsr := l }) :
    let q := xs.foldl (fun p a =>
      let t := outTile p.2 w addr a.1 a.2 r fall desc
      (p.1 ++ [t.1], t.2)) p
    (∀ x ∈ q.1, TileOf w (fall && wOp w == opTemit) x) ∧ ∃ l, q.2 = { k with lfsr := l } := by
  induction xs generalizing p with
  | nil => exact hp
  | cons a xs ih =>
    obtain ⟨hx, l, hl⟩ := hp
    obtain ⟨htile, l', hl'⟩ := outTile_spec p.2 w addr r fall desc a.1 a.2
    refine ih _ ⟨fun x hx' => ?_, l', hl'.trans (by rw [hl])⟩
    rcases List.mem_append.1 hx' with hx' | hx'
    · exact hx x hx'
    · rw [List.mem_singleton.1 hx']
      exact htile

/-- The tiles of a store or emit are its word's, and converting them changes the shift registers alone (R51, R81). -/
theorem outTiles_spec : (∀ x ∈ (outTiles k w addr r fall desc).1, TileOf w (fall && wOp w == opTemit) x) ∧
    ∃ l, (outTiles k w addr r fall desc).2 = { k with lfsr := l } :=
  outTiles_foldl_spec k w addr r fall desc _ _ ⟨fun _ h => (nomatch h), k.lfsr, rfl⟩

end Tiles

section Words
variable {c : Fin 32} {w : BitVec 128} {s : State}

theorem rangeWords_within (u : Unit') (log : List Issued) (l : List (BitVec 48)) :
    (rangeWords u log l).Within readParts memNames := by
  refine .mapE fun a => ?_
  split
  · exact .ret _
  · exact .bindE (vget_within _ _ _ _) fun _ => .ret _

theorem tileStore_within (c : Nat) (x : Tile) : (tileStore c x).Within memParts memNames := .get fun _ => scatter_within _ _ _

/-- The words of a store's retry range, as the sequencer finds them after the fetch (R90). -/
def rangeRead (c : Nat) (w : BitVec 128) (s : State) : Except Flt (List Issued) × State :=
  (rangeWords (seqUnit (seqFetch s c).2 c) (s.cluster c).log
    ((rangeAddrs (s.cluster c).start (s.cluster c).ipc w).getD [])).run (seqFetch s c).2

theorem rangeRead_goesOn {op : Nat} (h : SeqIssues s c op w) : GoesOn (rangeRead c w s).2 c :=
  h.fetched_goesOn.of_within (rangeWords_within _ _ _) (by decide) (by decide)

theorem rangeRead_cluster : (rangeRead c w s).2.cluster c = s.cluster c :=
  ((rangeWords_within _ _ _).same .cl (by decide) _ c).trans (fetch_cluster s c c)

theorem rangeRead_byte (a : Nat) : (rangeRead c w s).2.byte a = s.byte a :=
  ((rangeWords_within _ _ _).same .mem (by decide) _ a).trans ((vget_within _ _ _ _).same .mem (by decide) s a)

theorem rangeRead_rd {r : RegName} (h : r ∉ memNames) (i j : Nat) : (rangeRead c w s).2.rd r i j = s.rd r i j :=
  ((rangeWords_within _ _ _).rd r h i j _).trans ((vget_within _ _ _ _).rd r h i j s)

/-- A legal store or emit of no open decision is its body, over its range. -/
theorem SeqIssues.store_completes {i : Instr} {op : Nat} {range : List Issued} {P : State → Prop} (h : SeqIssues s c op w)
    (he : exec i s = (storeWord c op w).next s) (hok : storeOk w (s.cluster c) = true) (hr : (rangeRead c w s).1 = .ok range)
    (hrange : ∀ i ∈ range, rangeWord i.word = true)
    (hP : P ((showSeq c).run ((storeBody c op w range).run (rangeRead c w s).2).2).2) : Completes i s P := by
  refine h.completes he hok ?_
  have hrun : rangeRead c w s = (.ok range, (rangeRead c w s).2) := Prod.ext hr rfl
  rw [rangeRead] at hrun
  rw [run_bind, hrun]
  simp only [List.all_eq_true.2 hrange, if_true]
  exact hP

/-- Nothing held, no output stage is full (R86). -/
theorem heldTiles_free {k : Cluster} (hd : k.decs = []) (ho : k.out = []) (l : List Nat) :
    (l.any fun a => decide (5 ≤ heldTiles k a)) = false := by
  simp [heldTiles, hd, ho]

/-- The tiles of a store or emit as it issues, and the cluster that their conversion leaves (R81). -/
def storeTiles (k : Cluster) (w : BitVec 128) : List Tile × Cluster :=
  outTiles k w k.ipc 0 false ((Tab.at none k.slots (wDslot w)).getD 0)

theorem storeTiles_spec (k : Cluster) (w : BitVec 128) :
    (∀ x ∈ (storeTiles k w).1, TileOf w false x) ∧ ∃ l, (storeTiles k w).2 = { k with lfsr := l } := outTiles_spec ..

/-- A store or emit that is checked opens its decision, which holds its tiles (R85). -/
theorem storeBody_opens (op : Nat) (range : List Issued) (hgo : GoesOn s c) (hn : wNochk w = false) :
    ∃ d k', (storeBody c op w range).run s = ((), (Eff.setCl c k').apply s) ∧ k'.ipc = (s.cluster c).ipc + 16 ∧
      k'.slip = (s.cluster c).slip ∧ k'.decs = [d] ∧ d.kind = .overflow 0 ∧ d.addr = (s.cluster c).ipc ∧ d.word = w ∧
      d.range = range ∧
      d.held = (storeTiles (s.cluster c) w).1.map Held.tile ++ [.retire (retireOf (s.cluster c) w)] := by
  obtain ⟨-, l, hl⟩ := storeTiles_spec (s.cluster c) w
  have hslip : (storeTiles (s.cluster c) w).2.slip = (s.cluster c).slip := by rw [hl]
  rw [storeBody]
  simp only [run_get, heldTiles_free hgo.decs hgo.out, hn, hgo.decs, List.length_nil, Bool.false_eq_true, if_false,
    List.nil_append]
  exact ⟨_, _, rfl, rfl, hslip, rfl, rfl, rfl, rfl, rfl, rfl⟩

/-- A store or emit that is checked holds its tiles behind its decision, and nothing of it leaves (R85). -/
theorem store_opens {i : Instr} {op : Nat} {range : List Issued} (h : SeqIssues s c op w)
    (he : exec i s = (storeWord c op w).next s) (hok : storeOk w (s.cluster c) = true) (hr : (rangeRead c w s).1 = .ok range)
    (hrange : ∀ i ∈ range, rangeWord i.word = true) (hn : wNochk w = false) : Completes i s fun t =>
      (t.cluster c).ipc = (s.cluster c).ipc + 16 ∧ (∀ a, t.byte a = s.byte a) ∧ (t.cluster c).slip = (s.cluster c).slip ∧
      ∃ d, (t.cluster c).decs = [d] ∧ d.kind = .overflow 0 ∧ d.addr = (s.cluster c).ipc ∧ d.word = w ∧
        .ok d.range = (rangeRead c w s).1 ∧
        d.held = (storeTiles (s.cluster c) w).1.map Held.tile ++ [.retire (retireOf (s.cluster c) w)] := by
  refine h.store_completes he hok hr hrange ?_
  obtain ⟨d, k', hrun, hipc, hslip, hdecs, hkind, haddr, hword, hran, hheld⟩ :=
    storeBody_opens op range (rangeRead_goesOn (w := w) h) hn
  rw [rangeRead_cluster] at hipc hslip haddr hheld
  rw [hrun, showSeq_cluster, cluster_setCl, if_pos rfl]
  refine ⟨hipc, fun a => ?_, hslip, d, hdecs, hkind, haddr, hword, by rw [hran, hr], hheld⟩
  rw [showSeq_byte]
  exact rangeRead_byte a

theorem tileLeft_each_within (l : List Tile) :
    (Prog.each l fun x => tileLeft c x).Within [.reg] [.ARY_FLAGS, .ARY_TOKEN, .ARY_ERR] :=
  .each fun x => tileLeft_within x

/-- A TSTORE that is not checked writes its tiles, and retires (R81, R88). -/
theorem storeBody_writes {range : List Issued} {r : List Unit} (hgo : GoesOn s c) (hn : wNochk w = true)
    (hr : ((Prog.mapE (storeTiles (s.cluster c) w).1 fun x => tileStore c x).run s).1 = .ok r) :
    ((storeBody c opTstore w range).run s).2 = ((Prog.all [modCl c fun _ =>
      (storeTiles (s.cluster c) w).2.issued w ((s.cluster c).ipc + 16),
      Prog.each (storeTiles (s.cluster c) w).1 fun x => tileLeft c x, retire c (retireOf (s.cluster c) w)]).run
      ((Prog.mapE (storeTiles (s.cluster c) w).1 fun x => tileStore c x).run s).2).2 := by
  rw [storeBody]
  simp only [run_get, heldTiles_free hgo.decs hgo.out, hn, hgo.decs, Bool.false_eq_true, if_false, Bool.not_true,
    Bool.false_and, if_true, List.isEmpty_nil, beq_self_eq_true, Bool.and_self, run_bind]
  rw [storeTiles] at hr
  rw [hr]
  rfl

theorem tstore_writes {range : List Issued} {r : List Unit} (h : SeqIssues s c opTstore w)
    (hok : storeOk w (s.cluster c) = true) (hran : (rangeRead c w s).1 = .ok range)
    (hrange : ∀ i ∈ range, rangeWord i.word = true) (hn : wNochk w = true)
    (hoff : flagF Fld.SMP_CTRL_EN (s.rd .SMP_CTRL c) = false)
    (hr : ((Prog.mapE (storeTiles (s.cluster c) w).1 fun x => tileStore c x).run (rangeRead c w s).2).1 = .ok r) :
    Completes (.tstore c w) s fun t => (t.cluster c).ipc = (s.cluster c).ipc + 16 ∧ (t.cluster c).decs = [] ∧
      ∀ a, t.byte a =
        ((Prog.mapE (storeTiles (s.cluster c) w).1 fun x => tileStore c x).run (rangeRead c w s).2).2.byte a := by
  obtain ⟨-, l, hl⟩ := storeTiles_spec (s.cluster c) w
  have hdecs : (storeTiles (s.cluster c) w).2.decs = [] := by
    rw [hl]
    exact h.sure
  refine h.store_completes rfl hok hran hrange ?_
  have hwrites := storeBody_writes (range := range) (rangeRead_goesOn (w := w) h) hn (by rwa [rangeRead_cluster])
  rw [rangeRead_cluster] at hwrites
  have hw : (Prog.mapE (storeTiles (s.cluster c) w).1 fun x => tileStore c x).Within memParts memNames :=
    .mapE fun x => tileStore_within c x
  have hsmp := (hw.rd .SMP_CTRL (by decide) c 0 _).trans (rangeRead_rd (w := w) (s := s) (c := c) (by decide) c 0)
  generalize ((Prog.mapE (storeTiles (s.cluster c) w).1 fun x => tileStore c x).run (rangeRead c w s).2).2 = m at hwrites hsmp ⊢
  have hleft := tileLeft_each_within (c := c) (storeTiles (s.cluster c) w).1
  rw [hwrites]
  simp only [run_all_cons, run_all_nil, run_modCl, showSeq_cluster, showSeq_byte]
  rw [retire_cluster, hleft.same .cl (by decide), cluster_setCl, if_pos rfl]
  refine ⟨rfl, hdecs, fun a => ?_⟩
  rw [retire_byte (by rw [hleft.rd _ (by decide), rd_setCl, hsmp, hoff]), hleft.same .mem (by decide)]
  rfl

/-- An entry that joins a slipway takes its granules (R73, R91). -/
theorem slipFree_push (k : Cluster) (e : SlipEntry) (o : List Held) :
    ({ k with out := o, slip := k.slip ++ [e] } : Cluster).slipFree = k.slipFree - granules e.fmt := by
  simp only [Cluster.slipFree, List.map_append, List.map_cons, List.map_nil, List.foldl_append, List.foldl_cons, List.foldl_nil]
  omega

/-- What waits to leave of a TEMIT, its granules free, leaves: its tiles for the slipway, and its retirement (R88, R91). -/
theorem release_emits {c : Nat} {x : Retire} {ts : List Tile} (hop : wOp w = opTemit) (hts : ∀ t ∈ ts, t.word = w) {s : State}
    (hout : (s.cluster c).out = ts.map Held.tile ++ [.retire x]) (h3 : seqState s c ≠ 3)
    (hfree : granules (wOfmt w) * ts.length ≤ (s.cluster c).slipFree) :
    ∃ n, ((release c (ts.length + 2)).run s).2.cluster c =
      { s.cluster c with out := [], slip := (s.cluster c).slip ++ ts.map (slipEntryOf c), sampled := n } := by
  induction ts generalizing s with
  | nil =>
    have hret (m : State) (hm : (m.cluster c).out = []) (h3 : seqState m c ≠ 3) : (release c 1).run m = ((), m) := by
      rw [release_run_nothing hm, run_when, if_neg (by simpa using h3)]
    rw [List.length_nil, release]
    simp only [run_get, hout, List.map_nil, List.nil_append, run_seq, run_modCl]
    rw [hret, retire_cluster, cluster_setCl, if_pos rfl, List.append_nil]
    · exact ⟨_, rfl⟩
    · rw [retire_cluster, cluster_setCl, if_pos rfl]
    · rwa [(retire_within _ _).seqState (by decide), seqState_setCl]
  | cons t ts ih =>
    obtain ⟨ht, hts⟩ := List.forall_mem_cons.1 hts
    have hout' : (s.cluster c).out = .tile t :: (ts.map Held.tile ++ [.retire x]) := hout
    have hg : granules (slipEntryOf c t).fmt = granules (wOfmt w) := by rw [slipEntryOf, ht]
    have hcl := emitTile_cluster (c := c) t (ts.map Held.tile ++ [.retire x]) s
    rw [List.length_cons, Nat.mul_succ] at hfree
    obtain ⟨n, hn⟩ := ih hts (s := ((emitTile c t (ts.map Held.tile ++ [.retire x])).run s).2) (by rw [hcl])
      (by rwa [emitTile_seqState]) (by rw [hcl, slipFree_push, hg]; omega)
    rw [List.length_cons, release_run_emit _ hout' (by rw [ht, hop]) (by rw [ht]; omega), hn, hcl]
    exact ⟨n, by rw [List.map_cons, List.append_assoc, List.singleton_append]⟩

/-- What is held with no decision open leaves at once (R86). -/
theorem hold_run_sure {c : Nat} {s : State} (hd : (s.cluster c).decs = []) (h5 : seqState s c ≠ 5) (l : List Held) :
    (hold c l).run s = (release c (((s.cluster c).out ++ l).length + 1)).run
      ((Eff.setCl c { s.cluster c with out := (s.cluster c).out ++ l }).apply s) := by
  rw [hold]
  simp only [run_get, hd, List.reverse_nil, run_seq, run_modCl, releaseAll, seqState_setCl, beq_iff_eq, h5, if_false,
    cluster_setCl, if_true]

/-- A TEMIT's tiles held with no decision open join the slipway, where their granules are free (R91). -/
theorem hold_emits {c : Nat} {s : State} {x : Retire} {ts : List Tile} (hgo : GoesOn s c) (hop : wOp w = opTemit)
    (hts : ∀ t ∈ ts, t.word = w) (hfree : granules (wOfmt w) * ts.length ≤ (s.cluster c).slipFree) :
    ∃ n, ((hold c (ts.map Held.tile ++ [.retire x])).run s).2.cluster c =
      { s.cluster c with out := [], slip := (s.cluster c).slip ++ ts.map (slipEntryOf c), sampled := n } := by
  have hlen : (([] : List Held) ++ (ts.map Held.tile ++ [Held.retire x])).length + 1 = ts.length + 2 := by simp
  rw [hold_run_sure hgo.decs hgo.noFault, hgo.out, hlen]
  obtain ⟨n, hk⟩ := release_emits (c := c) (x := x) hop hts
    (s := (Eff.setCl c { s.cluster c with out := [] ++ (ts.map Held.tile ++ [.retire x]) }).apply s)
    (by rw [cluster_setCl, if_pos rfl, List.nil_append]) hgo.noWait (by rw [cluster_setCl, if_pos rfl]; exact hfree)
  rw [hk, cluster_setCl, if_pos rfl]
  exact ⟨n, rfl⟩

/-- A TEMIT that is not checked holds its tiles and its retirement (R86). -/
theorem storeBody_holds (range : List Issued) (hgo : GoesOn s c) (hn : wNochk w = true) :
    ((storeBody c opTemit w range).run s).2 =
      ((hold c ((storeTiles (s.cluster c) w).1.map Held.tile ++ [.retire (retireOf (s.cluster c) w)])).run
        ((Eff.setCl c ((storeTiles (s.cluster c) w).2.issued w ((s.cluster c).ipc + 16))).apply s)).2 := by
  have hne : (opTemit == opTstore) = false := by decide
  rw [storeBody]
  simp only [run_get, heldTiles_free hgo.decs hgo.out, hn, Bool.false_eq_true, if_false, Bool.not_true, Bool.false_and, if_true,
    hne, Bool.and_false]
  rfl

theorem temit_emits {range : List Issued} (h : SeqIssues s c opTemit w) (hok : storeOk w (s.cluster c) = true)
    (hran : (rangeRead c w s).1 = .ok range) (hrange : ∀ i ∈ range, rangeWord i.word = true) (hn : wNochk w = true)
    (hfree : granules (wOfmt w) * (storeTiles (s.cluster c) w).1.length ≤ (s.cluster c).slipFree) :
    Completes (.temit c w) s fun t => (t.cluster c).ipc = (s.cluster c).ipc + 16 ∧ (t.cluster c).decs = [] ∧
      (t.cluster c).slip = (s.cluster c).slip ++ (storeTiles (s.cluster c) w).1.map (slipEntryOf c) := by
  obtain ⟨hts, l, hl⟩ := storeTiles_spec (s.cluster c) w
  have hslip : (storeTiles (s.cluster c) w).2.slip = (s.cluster c).slip := by rw [hl]
  have hdecs : (storeTiles (s.cluster c) w).2.decs = (s.cluster c).decs := by rw [hl]
  have hout : (storeTiles (s.cluster c) w).2.out = (s.cluster c).out := by rw [hl]
  have hgo := rangeRead_goesOn (w := w) h
  refine h.store_completes rfl hok hran hrange ?_
  rw [storeBody_holds range hgo hn, rangeRead_cluster, showSeq_cluster]
  have hgo' := hgo.setCl (k := (storeTiles (s.cluster c) w).2.issued w ((s.cluster c).ipc + 16))
    (by rw [rangeRead_cluster]; exact hdecs) (by rw [rangeRead_cluster]; exact hout)
  obtain ⟨n, hk⟩ := hold_emits (x := retireOf (s.cluster c) w) hgo' h.code (fun t ht => (hts t ht).word)
    (by rw [cluster_setCl, if_pos rfl, Cluster.slipFree, Cluster.issued, hslip]; exact hfree)
  rw [hk, cluster_setCl, if_pos rfl]
  exact ⟨rfl, hdecs.trans h.sure, by rw [Cluster.issued, hslip]⟩

end Words

/-- Settles O8: a checked store or emit is held; one that is not leaves. -/
theorem storeAndEmitWords : Obligations.StoreAndEmitWords := by
  intro c w s k s₁ tiles words s₂ issues
  refine ⟨fun i op hi ⟨h, hok, range, hr, hrange⟩ hn => ?_, fun ⟨h, hok, range, hr, hrange⟩ hn hoff r hw => ?_,
    fun ⟨h, hok, range, hr, hrange⟩ hn hfree => ?_⟩
  · have he : exec i s = (storeWord c op w).next s := by
      simp only [List.mem_cons, Prod.mk.injEq, List.not_mem_nil, or_false] at hi
      obtain ⟨rfl, rfl⟩ | ⟨rfl, rfl⟩ := hi <;> rfl
    exact store_opens h he hok hr hrange hn
  · exact tstore_writes h hok hr hrange hn hoff hw
  · refine (temit_emits h hok hr hrange hn hfree).imp fun t ht => ?_
    obtain ⟨hipc, hdecs, hslip⟩ := ht
    refine ⟨hipc, hdecs, hslip.trans (congrArg _ (List.map_congr_left fun x hx => ?_))⟩
    obtain ⟨hword, hsat⟩ := (storeTiles_spec k w).1 x hx
    rw [slipEntryOf, hword, hsat]

end Sys2Proof.Machine

/-! ### What leaves a sequencer with no decision open (R85, R88) -/

namespace Sys2Proof.Machine
open Prog

/-- A program that leaves a sequencer with no decision open, where none was. -/
def Prog.StaysSure {α : Type} (p : Prog α) (c : Nat) : Prop :=
  ∀ s, (s.cluster c).decs = [] → ((p.run s).2.cluster c).decs = []

namespace Prog.StaysSure
variable {α β : Type} {c : Nat}

theorem ret (a : α) : (Prog.ret a).StaysSure c := fun _ h => h

theorem get {k : State → Prog α} (h : ∀ s, (k s).StaysSure c) : (Prog.get k).StaysSure c := fun s => h s s

theorem bind {p : Prog α} {f : α → Prog β} (hp : p.StaysSure c) (hf : ∀ a, (f a).StaysSure c) : (p.bind f).StaysSure c :=
  fun s h => by
    rw [run_bind]
    exact hf _ _ (hp s h)

theorem seq {p : Prog Unit} {q : Prog β} (hp : p.StaysSure c) (hq : q.StaysSure c) : (p.seq q).StaysSure c :=
  hp.bind fun _ => hq

theorem ite {b : Prop} [Decidable b] {p q : Prog α} (hp : p.StaysSure c) (hq : q.StaysSure c) :
    (if b then p else q).StaysSure c := by
  split <;> assumption

theorem when {b : Bool} {p : Prog Unit} (hp : p.StaysSure c) : (Prog.when b p).StaysSure c := ite hp (ret ())

theorem all {l : List (Prog Unit)} (h : ∀ p ∈ l, p.StaysSure c) : (Prog.all l).StaysSure c := by
  induction l with
  | nil => exact ret ()
  | cons p r ih =>
    obtain ⟨hp, hr⟩ := List.forall_mem_cons.1 h
    exact hp.seq (ih hr)

theorem each {l : List α} {f : α → Prog Unit} (h : ∀ a, (f a).StaysSure c) : (Prog.each l f).StaysSure c := by
  induction l with
  | nil => exact ret ()
  | cons a l ih => exact (h a).seq ih

end Prog.StaysSure

theorem Prog.Within.staysSure {α : Type} {p : Prog α} {l : List Part} {n : List RegName} {c : Nat} (h : p.Within l n)
    (hl : Part.cl ∉ l) : p.StaysSure c := fun s hs => by
  rwa [h.same .cl hl]

theorem modCl_staysSure {c a : Nat} {f : Cluster → Cluster} (h : ∀ k, k.decs = [] → (f k).decs = []) :
    (modCl a f).StaysSure c := fun s hs => by
  rw [run_modCl]
  dsimp only
  rw [cluster_setCl]
  split
  · next e => exact h _ (e ▸ hs)
  · exact hs

section Stops
variable {c : Nat}

/-- The registers that the outcome of a solver's block changes, and its parts. -/
def outcomeNames : List RegName :=
  [.SLV_ERR, .SLV_ACCEPTCNT, .SLV_STALECNT, .SLV_ABANDONCNT, .SLV_FAILCNT, .SLV_EVT, .SLV_STATUS] ++ ferryNames

theorem suEntryMod_within (u i : Nat) (f : Nat → Nat) : (suEntryMod u i f).Within (.su :: ferryParts) outcomeNames := by
  refine .get fun s => .bind (.bindE ((vget_within _ _ _ _).mono (by decide) (by decide)) fun _ =>
    (vput_within _ _ _).mono (by decide) (by decide)) fun r => ?_
  cases r with
  | ok _ => exact .ret _
  | error e => exact .seq (by simp [outcomeNames]) ((logFault_within _ _).mono (by decide) (by decide))

theorem suOutcome_within (u code : Nat) : (suOutcome u code).Within (.su :: ferryParts) outcomeNames := by
  have hfree : (suFree u).Within (.su :: ferryParts) outcomeNames :=
    .get fun _ => .when (.wrF (by decide) (by decide))
  have hcount : (suCount u code).Within (.su :: ferryParts) outcomeNames := by
    simp (maxDischargeDepth := 30) [suCount, outcomeNames, ferryParts]
  have hmod (f : Su → Su) : (modSu u f).Within (.su :: ferryParts) outcomeNames := fun _ => Within.setSu (by decide)
  unfold suOutcome
  refine .get fun s => ?_
  split
  · exact .ret _
  · exact .all_cons (suEntryMod_within _ _ _) (.all_cons hcount (.all_cons (hmod _) (.all_cons hfree .all_nil)))

theorem stopLent_staysSure (u : Nat) : (stopLent u).StaysSure c :=
  .get fun _ => .each fun a => .when (.all (by
    simp only [List.forall_mem_cons]
    refine ⟨modCl_staysSure fun _ _ => rfl, ?_, ?_, fun _ h => nomatch h⟩
    · exact Prog.Within.staysSure (l := [.reg]) (n := [.VEC_STATUS]) (by simp) (by decide)
    · exact (showSeq_within a).staysSure (by decide)))

theorem luCause_staysSure (u : Nat) (x : Cause) (entry idx : Nat) : (luCause u x entry idx).StaysSure c :=
  (luCause_within u x entry idx).staysSure (by decide)

theorem lentError_staysSure (a : Nat) : (lentError a).StaysSure c := by
  have hdrop : (Prog.all [modCl a fun k => Cluster.init k.epoch, wrF .ARY_STATUS Fld.ARY_STATUS_STATE 7 a,
      wrF .VEC_STATUS Fld.VEC_STATUS_STATE 0 a, showSeq a]).StaysSure c := .all (by
    simp only [List.forall_mem_cons]
    refine ⟨modCl_staysSure fun _ _ => rfl, ?_, ?_, (showSeq_within a).staysSure (by decide), fun _ h => nomatch h⟩
    · exact Prog.Within.staysSure (l := [.reg]) (n := [.ARY_STATUS]) (by simp) (by decide)
    · exact Prog.Within.staysSure (l := [.reg]) (n := [.VEC_STATUS]) (by simp) (by decide))
  refine .get fun s => ?_
  dsimp only
  split
  · refine hdrop.seq ((luCause_staysSure _ _ _ _).seq ?_)
    exact Prog.Within.staysSure (l := [.lu]) (n := []) (by simp) (by decide)
  · split
    · refine .all ?_
      simp only [List.forall_mem_cons]
      refine ⟨hdrop, ?_, .when ((stopLent_staysSure _).seq ((suOutcome_within _ _).staysSure (by decide))), fun _ h => nomatch h⟩
      exact Prog.Within.staysSure (l := [.reg]) (n := [.SLV_ERR]) (by simp) (by decide)
    · exact .ret _

theorem lentFault_staysSure (a : Nat) (f : Flt) : (lentFault a f).StaysSure c := by
  refine .get fun s => .seq ?_ (lentError_staysSure a)
  split
  · exact luCause_staysSure _ _ _ _
  · exact .ret _

theorem seqFault_staysSure (a : Nat) (addr : BitVec 48) (f : Flt) : (seqFault a addr f).StaysSure c := by
  refine .get fun s => .all ?_
  simp only [List.forall_mem_cons]
  refine ⟨(setSeq_within a 5).staysSure (by decide), ?_, ?_, (logFault_within _ _).staysSure (by decide),
    modCl_staysSure fun _ h => h, lentFault_staysSure a f, fun _ h => nomatch h⟩
  · exact Prog.Within.staysSure (l := [.reg]) (n := [.ARY_ERR]) (by simp) (by decide)
  · exact Prog.Within.staysSure (l := [.reg]) (n := [.ARY_ERRADDR]) (by simp) (by decide)

theorem nonfiniteVote_staysSure (a tag : Nat) : (nonfiniteVote a tag).StaysSure c := by
  refine .get fun s => .seq (modCl_staysSure fun _ h => h) (.seq ((count_within _ _ _ _).staysSure (by decide)) (.ite (.ret _) ?_))
  exact modCl_staysSure fun _ h => h

theorem retire_staysSure (a : Nat) (x : Retire) : (retire a x).StaysSure c := fun s h => by
  rw [retire_cluster]
  exact h

theorem slipPush_staysSure (a : Nat) (x : Tile) : (slipPush a x).StaysSure c :=
  .seq (modCl_staysSure fun _ h => h) (.when ((count_within _ _ _ _).staysSure (by decide)))

theorem tileLeft_staysSure (a : Nat) (x : Tile) : (tileLeft a x).StaysSure c := (tileLeft_within x).staysSure (by decide)

/-- What waits to leave leaves no decision behind it. -/
theorem release_staysSure (fuel : Nat) : (release c fuel).StaysSure c := by
  induction fuel with
  | zero => exact .ret _
  | succ fuel ih =>
    have hpop (r : List Held) : (modCl c fun k => { k with out := r }).StaysSure c := modCl_staysSure fun _ h => h
    have hset (x : Nat) (b : Bool) : (Prog.when b (setSeq c x)).StaysSure c := .when ((setSeq_within c x).staysSure (by decide))
    rw [release]
    refine .get fun s => ?_
    dsimp only
    split
    · exact hset _ _
    · next h r _ =>
      cases h with
      | signal x n => exact (hpop r).seq (((tokenAdd_within x n).staysSure (by decide)).seq ih)
      | vote tag => exact (hpop r).seq ((nonfiniteVote_staysSure c tag).seq ih)
      | retire x => exact (hpop r).seq ((retire_staysSure c x).seq ih)
      | tile x =>
        refine .ite (.ite ((hpop r).seq ((slipPush_staysSure c x).seq ((tileLeft_staysSure c x).seq ih))) (hset _ _)) ?_
        refine ((tileStore_within c x).staysSure (by decide)).bind fun y => ?_
        cases y with
        | ok _ => exact (hpop r).seq ((tileLeft_staysSure c x).seq ih)
        | error f => exact .ite (.ret _) (seqFault_staysSure c x.addr f)

theorem releaseAll_staysSure : (releaseAll c).StaysSure c := .get fun _ => .ite (.ret _) (release_staysSure _)

end Stops

end Sys2Proof.Machine

/-! ### Decisions of stores and emits (R85, R88, R184 to R192) -/

namespace Sys2Proof.Machine
open Prog

section Decisions
variable {c : Fin 32} {s : State} {d : Dec}

/-- The oldest decision, alone, proceeds: none is left open (R88). -/
theorem proceed_decs (hd : (s.cluster c).decs = [d]) : (((proceed c).run s).2.cluster c).decs = [] := by
  rw [proceed]
  simp only [run_get, hd, run_all_cons, run_all_nil, List.length_nil, settle, run_skip, showSeq_cluster, run_modCl]
  refine releaseAll_staysSure _ ?_
  rw [cluster_setCl, if_pos rfl]

/-- It leaves the watch records, where nothing waits to leave and it held nothing back. -/
theorem proceed_counts (hd : (s.cluster c).decs = [d]) (ho : (s.cluster c).out = []) (hheld : d.held = []) :
    (((proceed c).run s).2.cluster c).counts = (s.cluster c).counts := by
  have hrel (m : State) (hm : (m.cluster c).out = []) : ((releaseAll c).run m).2.cluster c = m.cluster c := by
    rw [releaseAll, run_get]
    split
    · rfl
    · rw [release_run_nothing hm, run_when]
      split
      · exact setSeq_cluster m c 1 c
      · rfl
  rw [proceed]
  simp only [run_get, hd, run_all_cons, run_all_nil, List.length_nil, settle, run_skip, showSeq_cluster, run_modCl]
  rw [hrel _ (by rw [cluster_setCl, if_pos rfl, ho, hheld]; rfl), cluster_setCl, if_pos rfl]

theorem addFlags_cluster (n : RegName) (x i : Nat) (s : State) (a : Nat) :
    ((addFlags n x i).run s).2.cluster a = s.cluster a := cluster_setReg _ _ _ _

/-- The wide accumulators of a recomputation, none where it met a fault (R191). -/
def wideOf (y : Except (Flt × BitVec 48) (Cluster × Flags)) : Option (Tab Cell) := match y with
  | .ok x => some x.1.acc
  | .error _ => none

/-- A recomputation that no block holds up makes the decision a watch decision, its words counted in the run-ahead
depth (R191). -/
theorem watchRecompute_decs (hd : (s.cluster c).decs = [d]) {y : Except (Flt × BitVec 48) (Cluster × Flags)}
    (hy : ((reissueAll s c (some 3) 0 d.range (s.cluster c, Flags.none)).run s).1 = y)
    (hw : ∀ f a, y = .error (f, a) → f.isWait = false) :
    (((watchRecompute c d).run s).2.cluster c).decs = [{ d with
      kind := .watch (wideOf y), depth := d.depth + (d.range.filter fun i => isAcc i.word).length }] := by
  rw [watchRecompute]
  simp only [run_get, hd, run_bind, hy]
  cases y with
  | ok x => simp only [run_seq, run_modCl, addFlags_cluster, cluster_setCl, if_true]; rfl
  | error f => simp only [hw f.1 f.2 rfl, Bool.false_eq_true, if_false, run_modCl, cluster_setCl, if_true]; rfl

/-- A retry whose range issues again without a fault opens the decision again, one retry further, with the sequencer at
the word after it (R87, R185). -/
theorem overflowRetry_reopens {r : Nat} {x : Cluster × Flags}
    (hx : ((reissueAll s c none (r + 1) d.range ((s.cluster c).restore d, Flags.none)).run s).1 = .ok x) :
    let k := ((overflowRetry c d r).run s).2.cluster c
    k.ipc = d.addr + 16 ∧ ∃ d', k.decs = [d'] ∧ d'.kind = .overflow (r + 1) ∧ d'.addr = d.addr ∧ d'.word = d.word := by
  rw [overflowRetry]
  simp only [run_get, run_bind, hx, run_all_cons, run_all_nil, count_cluster, modRec, run_modCl, cluster_setCl, if_true,
    addFlags_cluster]
  exact ⟨trivial, _, rfl, rfl, rfl, rfl⟩

/-- Whether one of a decision's own tiles has overflowed (R184). -/
def ownOverflows (d : Dec) : Bool := (d.held.take (maskArrays (wAmask d.word)).length).any fun h => match h with
  | .tile x => x.ovf
  | _ => false

/-- The oldest decision, of a store or emit, is judged where nothing waits to leave (R184). -/
theorem overflowDecision_completes {r : Nat} {P : State → Prop} (hd : (s.cluster c).decs = [d]) (ho : (s.cluster c).out = [])
    (hres : canResolve s c = true) (hkind : d.kind = .overflow r)
    (hP : P ((showSeq c).run ((if ownOverflows d then overflowRetry c d r else if d.watch then watchRecompute c d
      else proceed c).run s).2).2) : Completes (.overflowDecision c) s P := by
  refine .of_next rfl ?_
  simp only [run_get, hd, hkind, hres, ho, Bool.not_true, List.isEmpty_nil, Bool.or_self, Bool.false_eq_true, if_false, run_seq]
  exact hP

/-- A tile's comparison leaves the decisions, and what waits to leave. -/
theorem watchTile_keeps (tag : Nat) (addr : BitVec 48) (delta : Option Nat) :
    (watchTile c tag addr delta).Keeps fun s => ((s.cluster c).decs, (s.cluster c).out) := by
  have hmod (f : Cluster → Cluster) (h : ∀ k, ((f k).decs, (f k).out) = (k.decs, k.out)) :
      (modCl c f).Keeps fun s => ((s.cluster c).decs, (s.cluster c).out) := modCl_keeps (F := fun k => (k.decs, k.out)) h
  have hcount (ev n : Nat) (t : Tags) : (count (setCluster c) ev n t).Keeps fun s => ((s.cluster c).decs, (s.cluster c).out) :=
    (count_within _ _ _ _).keeps_cluster (by decide) (fun k => (k.decs, k.out)) c
  refine .get fun s => ?_
  cases delta with
  | none => exact hmod _ fun _ => rfl
  | some x =>
    refine .seq (hmod _ fun _ => rfl) (.seq (hcount _ _ _) (.ite ?_ .skip))
    exact .all_cons (hmod _ fun _ => rfl) (.all_cons (hcount _ _ _) (.all_cons (.when (.one fun _ => rfl))
      (.all_cons (hmod _ fun _ => rfl) .all_nil)))

/-- A comparison of no result counts as inconclusive in its tag's record (R192). -/
theorem watchTile_inconclusive (tag : Nat) (addr : BitVec 48) : (Tab.at WatchRec.zero
    (((watchTile c tag addr none).run s).2.cluster c).counts tag).inconc =
      satAdd 16 (Tab.at WatchRec.zero (s.cluster c).counts tag).inconc 1 := by
  rw [watchTile]
  simp only [run_get, modRec, run_modCl, cluster_setCl, if_true, Tab.at_upd_same]

/-- The comparison of the oldest decision, of a watched word, ends, and it proceeds (R191, R192). -/
theorem watchCompare_completes {wide : Option (Tab Cell)} {P : State → Prop} (hd : (s.cluster c).decs = [d])
    (ho : (s.cluster c).out = []) (hres : canResolve s c = true) (hkind : d.kind = .watch wide)
    (hP : P ((proceed c).run ((Prog.each (maskArrays (wAmask d.word)) fun a => watchTile c (rangeTag d.range) d.addr
      (wide.bind fun x => tileDelta (arrayCells (s.cluster c).acc a) (arrayCells x a))).run s).2).2) :
    Completes (.watchCompare c) s P := by
  refine .of_next rfl ?_
  simp only [run_get, hd, hkind, hres, ho, Bool.not_true, List.isEmpty_nil, Bool.or_self, Bool.false_eq_true, if_false, run_seq]
  exact hP

end Decisions

/-- Settles O9: the oldest decision proceeds, is compared or opens again. -/
theorem overflowAndWatchDecisions : Obligations.OverflowAndWatchDecisions := by
  intro c s d k hd ho hres own ovf
  refine ⟨fun r hkind => overflowDecision_completes hd ho hres hkind ⟨fun (hovf : ownOverflows d = false) hwatch => ?_,
    fun (hovf : ownOverflows d = false) hwatch y hy hw => ?_, fun (hovf : ownOverflows d = true) ⟨x, hx⟩ => ?_⟩,
    fun wide hkind => watchCompare_completes hd ho hres hkind ?_⟩
  · rw [showSeq_cluster, if_neg (Bool.eq_false_iff.1 hovf), hwatch]
    exact proceed_decs hd
  · rw [showSeq_cluster, if_neg (Bool.eq_false_iff.1 hovf), if_pos hwatch]
    exact watchRecompute_decs hd hy hw
  · rw [showSeq_cluster, if_pos hovf]
    exact overflowRetry_reopens hx
  · have hkeeps := Keeps.each (xs := maskArrays (wAmask d.word)) (fun a => watchTile_keeps (c := c) (rangeTag d.range) d.addr
      (wide.bind fun x => tileDelta (arrayCells (s.cluster c).acc a) (arrayCells x a))) s
    obtain ⟨hdecs, hout⟩ := Prod.mk.inj hkeeps
    refine ⟨proceed_decs (hdecs.trans hd), fun a hwide harr hheld tag htag => ?_⟩
    rw [proceed_counts (hdecs.trans hd) (hout.trans ho) hheld, harr, hwide, htag]
    exact watchTile_inconclusive (rangeTag d.range) d.addr

end Sys2Proof.Machine

/-! ### The parts and the registers of the fabric's sending side (R248, R255 to R258) -/

namespace Sys2Proof.Machine
open Prog

/-- The registers that the fault log and a failure that firmware finds change (R238, R325, R400). -/
def faultNames : List RegName := [.XLT_FLOG_HEAD, .XLT_FLOG_LOST, .XLT_ERR, .GLB_EVT] ++ memNames

/-- The parts that they change. -/
def faultParts : List Part := [.fseq, .fw] ++ memParts

@[simp] theorem mem_faultNames (n : RegName) : n ∈ faultNames ↔
    n = .XLT_FLOG_HEAD ∨ n = .XLT_FLOG_LOST ∨ n = .XLT_ERR ∨ n = .GLB_EVT ∨ n ∈ memNames := by simp [faultNames]

@[simp] theorem mem_faultParts (p : Part) : p ∈ faultParts ↔ p = .fseq ∨ p = .fw ∨ p ∈ memParts := by simp [faultParts]

theorem selfFailure_within_fault (why : Nat) : (selfFailure why).Within faultParts faultNames := by
  simp (maxDischargeDepth := 30) [selfFailure, modFw_within]

theorem errEvent_within_fault (o : Out) : (errEvent o).Within faultParts faultNames := by
  simp (maxDischargeDepth := 30) [errEvent, glbEvent]

theorem logFault_within_fault (u : Unit') (f : Flt) : (logFault u f).Within faultParts faultNames := by
  simp (maxDischargeDepth := 30) [logFault, errEvent_within_fault, selfFailure_within_fault,
    (physPut_within _ _).mono (l' := faultParts) (n' := faultNames) (by decide) (by decide)]

/-- The parts that a packet sent changes. -/
def sendParts : List Part := [.port, .draws] ++ readParts

/-- The registers that a packet sent changes. -/
def sendNames : List RegName :=
  [.FAB_PERR, .FAB_DROPCNT, .FAB_SRCDROPCNT, .FAB_HORN_ERR, .FAB_HORN_STATUS, .FAB_HORNRES] ++ memNames

@[simp] theorem mem_sendNames (n : RegName) : n ∈ sendNames ↔ n = .FAB_PERR ∨ n = .FAB_DROPCNT ∨ n = .FAB_SRCDROPCNT ∨
    n = .FAB_HORN_ERR ∨ n = .FAB_HORN_STATUS ∨ n = .FAB_HORNRES ∨ n ∈ memNames := by
  simp (maxDischargeDepth := 30) [sendNames]

@[simp] theorem mem_sendParts (p : Part) : p ∈ sendParts ↔ p = .port ∨ p = .draws ∨ p ∈ readParts := by simp [sendParts]

section Send
variable {l : List Part} {n : List RegName}

@[simp] theorem modPort_within {q : Nat} {f : Port → Port} (h : Part.port ∈ l) : (modPort q f).Within l n :=
  fun _ => Within.setPort h

@[simp] theorem creditBack_within (p : Packet) (k : Nat) (h : Part.out ∈ l) : (creditBack p k).Within l n := by
  unfold creditBack
  split
  · exact .emit h
  · exact .skip

theorem freeVal_within (h : Part.draws ∈ l) : freeVal.Within l n := fun _ => ⟨⟨h, trivial⟩, trivial⟩

theorem count_within_send (set ev k : Nat) (t : Tags) : (count set ev k t).Within sendParts sendNames :=
  (count_within _ _ _ _).mono (by decide) (by decide)

theorem sendFlit_within (q : Nat) (f : EgressFlit) (turn : Nat × Nat) : (sendFlit q f turn).Within sendParts sendNames := by
  simp (maxDischargeDepth := 30) [sendFlit, hornResidence, count_within_send, freeVal_within]

theorem pump_within (q fuel : Nat) : (pump q fuel).Within sendParts sendNames := by
  induction fuel with
  | zero => exact .skip
  | succ fuel ih =>
    refine .get fun s => .ite .skip ?_
    split
    · exact .skip
    · exact .seq (sendFlit_within _ _ _) ih

theorem pushPacket_within (q : Nat) (came p : Packet) : (pushPacket q came p).Within sendParts sendNames := by
  simp (maxDischargeDepth := 30) [pushPacket, pushFlits, pumpPort, pump_within]

theorem choosePort_within (p : Packet) (h : Hop) : (choosePort p h).Within sendParts sendNames := by
  refine .get fun s => .ite (.ret _) ?_
  split
  · exact .ret _
  · exact .bind (freeVal_within (by decide)) fun _ => .ret _

theorem routePacket_within (p : Packet) (own : Bool) : (routePacket p own).Within sendParts sendNames := by
  have hdrop (h : Hop) (f : Field) : (dropAt h f).Within sendParts sendNames :=
    .get fun _ => .seq (.setF (by decide) (by decide)) (.bumpF (by decide) (by decide))
  refine .get fun s => ?_
  split
  · simp
  · simp [hdrop]
  · simp [hdrop]
  · exact .bind (choosePort_within _ _) fun _ => .seq (pushPacket_within _ _ _) (.when (count_within_send _ _ _ _))

/-- What a packet sent changes. -/
theorem sendPacket_within (p : Packet) : (sendPacket p).Within sendParts sendNames := by
  simp (maxDischargeDepth := 30) [sendPacket, routePacket_within]

end Send
end Sys2Proof.Machine
/-! ### The parts and the registers of a collective engine (R266 to R271) -/

namespace Sys2Proof.Machine
open Prog

/-- The parts that a tile's arrival at a Landing Unit changes. -/
def tileParts : List Part := .lu :: faultParts

/-- The parts that a collective engine's work changes. -/
def ceParts : List Part := [.ce, .port, .draws] ++ tileParts

/-- The registers that a collective engine's work changes, but for the tokens it signals. -/
def ceNames : List RegName := [.FAB_CE_FLAGS, .FAB_CE_ERR, .FAB_CE_ERRADDR, .FAB_CE_STATUS, .FAB_CE_LATECNT, .LND_LATECNT] ++
  causeNames ++ sendNames ++ faultNames

section Within
variable {α : Type} {l : List Part} {ns : List RegName} (n : Nat)

theorem Prog.Within.tileToCe {p : Prog α} (h : p.Within tileParts ceNames) : p.Within ceParts ceNames :=
  h.mono (by decide) (by decide)

theorem Prog.Within.faultToTile {p : Prog α} (h : p.Within faultParts faultNames) : p.Within tileParts ceNames :=
  h.mono (by decide) (by decide)

theorem Prog.Within.memToTile {p : Prog α} (h : p.Within memParts memNames) : p.Within tileParts ceNames :=
  h.mono (by decide) (by decide)

theorem Prog.Within.memToCe {p : Prog α} (h : p.Within memParts memNames) : p.Within ceParts ceNames :=
  h.mono (by decide) (by decide)

theorem Prog.Within.sendToCe {p : Prog α} (h : p.Within sendParts sendNames) : p.Within ceParts ceNames :=
  h.mono (by decide) (by decide)

@[simp] theorem modCe_within {f : Ce → Ce} (h : Part.ce ∈ l) : (modCe n f).Within l ns := fun _ => Within.setCe h

theorem vget_within_ce (u : Unit') (a k : Nat) (acc : Acc) : (vget u a k acc).Within ceParts ceNames :=
  (vget_within _ _ _ _).toMem.memToCe

theorem vput_within_ce (u : Unit') (a : Nat) (d : List Byte) : (vput u a d).Within ceParts ceNames :=
  (vput_within _ _ _).memToCe

theorem ceShow_within : (ceShow n).Within [.reg] [.FAB_CE_STATUS] := by
  simp (maxDischargeDepth := 30) [ceShow]

theorem ceFault_within (rec' : Nat) (f : Flt) : (ceFault n rec' f).Within tileParts ceNames :=
  .get fun s => .ite .skip (.all_cons (.wrF (by decide) (by decide)) (.all_cons (.wrF (by decide) (by decide))
    (.all_cons (.wr (by decide) (by decide)) (.all_cons (logFault_within_fault _ _).faultToTile .all_nil))))

theorem sumFault_within (kind opid rec' : Nat) (f : Flt) : (sumFault n kind opid rec' f).Within ceParts ceNames :=
  .all_cons (ceFault_within _ _ _).tileToCe (.all_cons (.when (modCe_within _ (by decide))) .all_nil)

theorem holdPacket_within (p : Packet) : (holdPacket n p).Within ceParts ceNames := modCe_within _ (by decide)

theorem putSum_within (x : Sum) (y : Option Sum) : (putSum n x y).Within [.ce] [] := modCe_within _ (by decide)

/-- The search for a record reads alone. -/
theorem findOp_within (b kind opid : Nat) : (findOp n b kind opid).Within readParts memNames := by
  refine .get fun s => ?_
  dsimp only
  generalize ((List.range 4).filter _).flatMap _ = places
  induction places with
  | nil => exact .ret _
  | cons a r ih =>
    refine .bind (vget_within _ _ _ _) fun d => ?_
    cases d with
    | error f => exact .ret _
    | ok d => exact .ite (.ret _) ih

theorem luStop_within (u entry : Nat) (e : LuStop) : (luStop u entry e).Within tileParts ceNames := by
  have hcause (c : Cause) (entry idx : Nat) : (luCause u c entry idx).Within tileParts ceNames :=
    (luCause_within _ _ _ _).mono (by decide) (by decide)
  cases e with
  | cause c idx => exact hcause _ _ _
  | causes l => exact .each fun x => hcause _ _ _
  | flt f idx keep =>
    exact .ite .skip (.seq (.when (.seq (errEvent_within_fault _).faultToTile (selfFailure_within_fault _).faultToTile))
      (.get fun _ => .seq (logFault_within_fault _ _).faultToTile (hcause _ _ _)))

theorem tileArrive_within (u : Nat) (t : LandTile) : (tileArrive u t).Within tileParts ceNames := by
  have hread {β : Type} {p : LuProg β} (h : p.Within readParts memNames) : p.Within tileParts ceNames := h.toMem.memToTile
  have hok (x : LayerEntry) : (entryOk u x).Within tileParts ceNames := hread (.get fun _ => .ite (.ret _)
    (.ite (.bindE (readXHdr_within _ _) fun _ => .ret _) (.ret _)))
  have hmod {i : Nat} {f : LuEntry → LuEntry} : (modEntry u i f).Within tileParts ceNames := modLu_within (by decide)
  refine .get fun s => .ite .skip (.ite (.bumpF (by decide) (by decide)) (.ite (modLu_within (by decide)) (.ite
    ((luCause_within _ _ _ _).mono (by decide) (by decide)) (.bind (.bindE (hread (readEntry_within _ _)) fun x =>
      .ite (.ret _) (.get fun s => .ite (.ret _) (.seq hmod (.ite (.ret _) (.bindE (hok x) fun ok =>
        .ite (.ret _) (.seq (modLu_within (by decide)) (.ret _))))))) fun r => ?_))))
  cases r with
  | ok _ => exact .skip
  | error e => exact luStop_within _ _ _

theorem tilePresent_within (u : Nat) (t : LandTile) : (tilePresent u t).Within tileParts ceNames :=
  .seq (tileArrive_within _ _) ((luShow_within _).mono (by decide) (by decide))

theorem applyTile_within (b : Nat) (r : BitVec 512) (t : Sum) : (applyTile n b r t).Within ceParts ceNames := by
  have hflags (x : Nat) : (addFlags .FAB_CE_FLAGS x n).Within ceParts ceNames := .addFlags (by decide) (by decide)
  have hmod (f : Ce → Ce) : (modCe n f).Within ceParts ceNames := modCe_within _ (by decide)
  simp (maxDischargeDepth := 30) only [applyTile, Within.get, Within.bindE, Within.ite, Within.ret, Within.seq, hflags, hmod,
    vget_within_ce, vput_within_ce, implies_true]

theorem applyReady_within (xs : List Sum) : (applyReady n xs).Within ceParts ceNames := by
  induction xs with
  | nil => exact .skip
  | cons t r ih =>
    rw [applyReady]
    refine .get fun s => ?_
    split
    · exact .skip
    · refine .bind (findOp_within _ _ _ _).toMem.memToCe fun x => ?_
      split
      · exact .seq (sumFault_within _ _ _ _ _) ih
      · exact ih
      · refine .get fun s => .ite ih (.bind (applyTile_within _ _ _ _) fun y => ?_)
        split
        · exact .seq (sumFault_within _ _ _ _ _) ih
        · exact .all_cons ((putSum_within _ _ _).mono (by decide) (by decide))
            (.all_cons (count_within _ _ _ _).toMem.memToCe (.all_cons ih .all_nil))

theorem statAdd_within (r : BitVec 512) (p : Packet) (t : Sum) : (statAdd n r p t).Within memParts memNames := by
  simp (maxDischargeDepth := 30) only [statAdd, Within.get, Within.bindE, Within.ite, Within.ret, (vget_within _ _ _ _).toMem,
    vput_within, implies_true]

end Within
end Sys2Proof.Machine
/-! ### What contributions leave of the engines (R268 to R271) -/

namespace Sys2Proof.Machine
open Prog

section Engine
variable (s : State)

@[simp] theorem engine_setCe (a : Nat) (v : Ce) (n : Nat) :
    ((Eff.setCe a v).apply s).engine n = if n = a then v else s.engine n := by
  unfold State.engine; rw [Eff.setCe_ce, Tab.at_upd]

@[simp] theorem engine_setReg (k : RegKey) (v : Word) (n : Nat) : ((Eff.setReg k v).apply s).engine n = s.engine n := by
  unfold State.engine; rw [Eff.setReg_ce]

@[simp] theorem run_modCe (n : Nat) (f : Ce → Ce) :
    (modCe n f).run s = ((), (Eff.setCe n (f (s.engine n))).apply s) := rfl

@[simp] theorem ceState_setCe (a : Nat) (v : Ce) (n : Nat) : ceState ((Eff.setCe a v).apply s) n = ceState s n := rfl

@[simp] theorem tokenCount_setCe (a : Nat) (v : Ce) (c x : Nat) :
    tokenCount ((Eff.setCe a v).apply s) c x = tokenCount s c x := rfl

end Engine

section Keeping
variable {α β : Type} {l : List Part} {ns : List RegName} {m : Nat}

/-- A program that leaves the engines leaves what is read of one. -/
theorem Prog.Within.keeps_engine {p : Prog α} (h : p.Within l ns) (hc : Part.ce ∉ l) (F : Ce → β) :
    p.Keeps fun s => F (s.engine m) := fun s => congrArg F (h.same .ce hc s m)

theorem modCe_keeps {F : Ce → β} {a : Nat} {f : Ce → Ce} (h : ∀ k, F (f k) = F k) :
    (modCe a f).Keeps fun s => F (s.engine m) := fun s => by
  rw [run_modCe]
  dsimp only
  rw [engine_setCe]
  split
  · next e => rw [e, h]
  · rfl

/-- What contributions never change of an engine: the records started, the operations under way, and a drain asked for. -/
def Ce.lasting (k : Ce) : List (Nat × Nat) × List CeOp × Bool := (k.started, k.ops, k.drain)

variable (n : Nat)

theorem sumFault_keeps {F : Ce → β} (hF : ∀ k x, F { k with stopped := x } = F k) (kind opid rec' : Nat) (f : Flt) :
    (sumFault n kind opid rec' f).Keeps fun s => F (s.engine m) :=
  .all_cons ((ceFault_within _ _ _).keeps_engine (by decide) _) (.all_cons (.when (modCe_keeps fun k => hF k _)) .all_nil)

theorem holdPacket_keeps (p : Packet) : (holdPacket n p).Keeps fun s => (s.engine m).lasting := modCe_keeps fun _ => rfl

theorem putSum_keeps {F : Ce → β} (hF : ∀ k xs, F { k with sums := xs } = F k) (x : Sum) (y : Option Sum) :
    (putSum n x y).Keeps fun s => F (s.engine m) := modCe_keeps fun k => hF k _

/-- The landing-buffer's and the memory's programs leave the engines. -/
theorem readParts_keep_engine {p : Prog α} (h : p.Within readParts memNames) (F : Ce → β) :
    p.Keeps fun s => F (s.engine m) := h.keeps_engine (by decide) F

theorem contribLand_keeps (p : Packet) : (contribLand n p).Keeps fun s => (s.engine m).lasting := by
  refine .get fun s => ?_
  split
  · exact .skip
  · refine .ite .skip (.ite (Within.keeps_engine (l := [.reg]) (ns := [.FAB_CE_LATECNT]) (by simp) (by decide) _)
      (.ite (holdPacket_keeps _ _) (.ite (holdPacket_keeps _ _)
        (.bind (readParts_keep_engine (findOp_within _ _ _ _) _) fun r => ?_))))
    split
    · exact .seq (holdPacket_keeps _ _) (sumFault_keeps n (fun _ _ => rfl) _ _ _ _)
    · exact .skip
    · have hreg (b : Bool) : (Prog.when b (setF .FAB_CE_ERR Fld.FAB_CE_ERR_POISON n)).Within [.reg] [.FAB_CE_ERR] := by simp
      have hflags (x : Nat) : (addFlags .FAB_CE_FLAGS x n).Within [.reg] [.FAB_CE_FLAGS] := by simp
      exact .all_cons ((hflags _).keeps_engine (by decide) _) (.all_cons (readParts_keep_engine (count_within _ _ _ _) _)
        (.all_cons ((hreg _).keeps_engine (by decide) _) (.all_cons (putSum_keeps n (fun _ _ => rfl) _ _) (.all_cons
          (.when (.seq (readParts_keep_engine (count_within _ _ _ _) _) ((tilePresent_within _ _).keeps_engine (by decide) _)))
          .all_nil))))

/-- A tile's application changes the decays of its engine alone. -/
theorem applyTile_keeps {F : Ce → β} (hF : ∀ k d, F { k with decays := d } = F k) (b : Nat) (r : BitVec 512) (t : Sum) :
    (applyTile n b r t).Keeps fun s => F (s.engine m) := by
  have hflags (x : Nat) : (addFlags .FAB_CE_FLAGS x n).Keeps fun s => F (s.engine m) :=
    Within.keeps_engine (l := [.reg]) (ns := [.FAB_CE_FLAGS]) (by simp) (by decide) _
  have hmod (g : Ce → List Decay) : (modCe n fun k => { k with decays := g k }).Keeps fun s => F (s.engine m) :=
    modCe_keeps fun k => hF k _
  have hget (u : Unit') (a k : Nat) : (vget u a k).Keeps fun s => F (s.engine m) :=
    readParts_keep_engine (vget_within _ _ _ _) _
  have hput (u : Unit') (a : Nat) (d : List Byte) : (vput u a d).Keeps fun s => F (s.engine m) :=
    (vput_within _ _ _).keeps_engine (by decide) _
  simp (maxDischargeDepth := 30) only [applyTile, Keeps.get, Keeps.bindE, Keeps.ite, Keeps.ret, Keeps.seq, hflags, hmod, hget,
    hput, implies_true]

/-- The complete sums' application changes an engine's sums, decays and stopped operations alone. -/
theorem applyReady_keeps {F : Ce → β} (hsums : ∀ k x, F { k with sums := x } = F k)
    (hdecays : ∀ k x, F { k with decays := x } = F k) (hstopped : ∀ k x, F { k with stopped := x } = F k) (xs : List Sum) : (applyReady n xs).Keeps fun s => F (s.engine m) := by
  induction xs with
  | nil => exact .skip
  | cons t r ih =>
    rw [applyReady]
    refine .get fun s => ?_
    split
    · exact .skip
    · refine .bind (readParts_keep_engine (findOp_within _ _ _ _) _) fun x => ?_
      split
      · exact .seq (sumFault_keeps n hstopped _ _ _ _) ih
      · exact ih
      · refine .get fun s => .ite ih (.bind (applyTile_keeps n hdecays _ _ _) fun y => ?_)
        split
        · exact .seq (sumFault_keeps n hstopped _ _ _ _) ih
        · exact .all_cons (putSum_keeps n hsums _ _)
            (.all_cons (readParts_keep_engine (count_within _ _ _ _) _) (.all_cons ih .all_nil))

theorem contribStat_keeps (p : Packet) : (contribStat n p).Keeps fun s => (s.engine m).lasting := by
  refine .get fun s => ?_
  split
  · exact .skip
  · refine .ite .skip (.ite (holdPacket_keeps _ _) (.bind (readParts_keep_engine (findOp_within _ _ _ _) _) fun r => ?_))
    split
    · exact .seq (holdPacket_keeps _ _) (sumFault_keeps n (fun _ _ => rfl) _ _ _ _)
    · exact .skip
    · refine .get fun s => .bind ((statAdd_within _ _ _ _).keeps_engine (by decide) _) fun w => ?_
      split
      · exact .seq (holdPacket_keeps _ _) (sumFault_keeps n (fun _ _ => rfl) _ _ _ _)
      · have hreg (b : Bool) : (Prog.when b (setF .FAB_CE_ERR Fld.FAB_CE_ERR_POISON n)).Within [.reg] [.FAB_CE_ERR] := by simp
        have hflags (x : Nat) : (addFlags .FAB_CE_FLAGS x n).Within [.reg] [.FAB_CE_FLAGS] := by simp
        exact .all_cons ((hflags _).keeps_engine (by decide) _) (.all_cons (readParts_keep_engine (count_within _ _ _ _) _)
          (.all_cons ((hreg _).keeps_engine (by decide) _) (.all_cons (putSum_keeps n (fun _ _ => rfl) _ _) (.all_cons
            (.get fun s => applyReady_keeps n (fun _ _ => rfl) (fun _ _ => rfl) (fun _ _ => rfl) _)
            (.all_cons ((ceShow_within _).keeps_engine (by decide) _) .all_nil)))))

end Keeping

/-! ### Contributions offered, and offered again -/

section Offers
variable (n : Nat) {m : Nat}

theorem contribute_keeps (p : Packet) : (contribute n p).Keeps fun s => (s.engine m).lasting :=
  .get fun _ => .seq (.ite (contribLand_keeps _ _) (contribStat_keeps _ _))
    (.get fun _ => .when ((creditBack_within (l := [.out]) (n := []) _ _ (by decide)).keeps_engine (by decide) _))

theorem offerHeld_keeps (fuel : Nat) : (offerHeld n fuel).Keeps fun s => (s.engine m).lasting := by
  induction fuel with
  | zero => exact .skip
  | succ fuel ih =>
    exact .get fun s => .ite .skip (.seq (modCe_keeps fun _ => rfl) (.seq (.each fun p => contribute_keeps n p)
      (.get fun s => .ite ih .skip)))

theorem ceRetry_keeps : (ceRetry n).Keeps fun s => (s.engine m).lasting := .get fun _ => offerHeld_keeps _ _

theorem contribArrive_keeps (p : Packet) : (contribArrive n p).Keeps fun s => (s.engine m).lasting :=
  .seq (contribute_keeps _ _) (ceRetry_keeps _)

theorem contribLand_within (p : Packet) : (contribLand n p).Within ceParts ceNames := by
  refine .get fun s => ?_
  split
  · exact .skip
  · refine .ite .skip (.ite (.bumpF (by decide) (by decide)) (.ite (holdPacket_within _ _) (.ite (holdPacket_within _ _)
      (.bind (findOp_within _ _ _ _).toMem.memToCe fun r => ?_))))
    split
    · exact .seq (holdPacket_within _ _) (sumFault_within _ _ _ _ _)
    · exact .skip
    · exact .all_cons (.addFlags (by decide) (by decide)) (.all_cons (count_within _ _ _ _).toMem.memToCe
        (.all_cons (.when (.setF (by decide) (by decide))) (.all_cons ((putSum_within _ _ _).mono (by decide) (by decide))
          (.all_cons (.when (.seq (count_within _ _ _ _).toMem.memToCe (tilePresent_within _ _).tileToCe)) .all_nil))))

theorem contribStat_within (p : Packet) : (contribStat n p).Within ceParts ceNames := by
  refine .get fun s => ?_
  split
  · exact .skip
  · refine .ite .skip (.ite (holdPacket_within _ _) (.bind (findOp_within _ _ _ _).toMem.memToCe fun r => ?_))
    split
    · exact .seq (holdPacket_within _ _) (sumFault_within _ _ _ _ _)
    · exact .skip
    · refine .get fun s => .bind (statAdd_within _ _ _ _).memToCe fun w => ?_
      split
      · exact .seq (holdPacket_within _ _) (sumFault_within _ _ _ _ _)
      · exact .all_cons (.addFlags (by decide) (by decide)) (.all_cons (count_within _ _ _ _).toMem.memToCe
          (.all_cons (.when (.setF (by decide) (by decide))) (.all_cons ((putSum_within _ _ _).mono (by decide) (by decide))
            (.all_cons (.get fun s => applyReady_within _ _)
              (.all_cons ((ceShow_within _).mono (by decide) (by decide)) .all_nil)))))

theorem contribute_within (p : Packet) : (contribute n p).Within ceParts ceNames :=
  .get fun _ => .seq (.ite (contribLand_within _ _) (contribStat_within _ _))
    (.get fun _ => .when (creditBack_within _ _ (by decide)))

theorem offerHeld_within (fuel : Nat) : (offerHeld n fuel).Within ceParts ceNames := by
  induction fuel with
  | zero => exact .skip
  | succ fuel ih =>
    exact .get fun s => .ite .skip (.seq (modCe_within _ (by decide)) (.seq (.each fun p => contribute_within n p)
      (.get fun s => .ite ih .skip)))

theorem ceRetry_within : (ceRetry n).Within ceParts ceNames := .get fun _ => offerHeld_within _ _

theorem contribArrive_within (p : Packet) : (contribArrive n p).Within ceParts ceNames :=
  .seq (contribute_within _ _) (ceRetry_within _)

end Offers
end Sys2Proof.Machine
/-! ### Operations under way (R266 to R268) -/

namespace Sys2Proof.Machine
open Prog

/-- An operation is under way: some of its tiles are to be sent. -/
def Ce.runs (k : Ce) (o : CeOp) : Prop := ∃ x ∈ k.ops, x.idx = o.idx ∧ x.rcd = o.rcd ∧ x.step = o.step

/-- What has become of an operation between two states: it is under way, or it has sent all its tiles and signalled its
token once (R268). -/
def OpEnded (n : Nat) (o : CeOp) (s t : State) : Prop :=
  (t.engine n).runs o ∨ (∀ x ∈ (t.engine n).ops, x.idx ≠ o.idx) ∧
    tokenCount t (opTcl o.rcd) (opDtok o.rcd) = min (tokenCount s (opTcl o.rcd) (opDtok o.rcd) + 1) 65535

/-- What operations never change of an engine: the records started, and a drain asked for. -/
def Ce.kept (k : Ce) : List (Nat × Nat) × Bool := (k.started, k.drain)

section Operations
variable {n b : Nat} {s t : State} {o : CeOp}

theorem Ce.runs_congr {k k' : Ce} (h : k'.lasting = k.lasting) : k'.runs o ↔ k.runs o := by
  rw [Ce.runs, Ce.runs, show k'.ops = k.ops from congrArg (fun x => x.2.1) h]

theorem Ce.runs_sent (k : Ce) (i : Nat) : k.runs { o with sent := i } ↔ k.runs o := Iff.rfl

/-- A program that leaves the lists of the engines and the tokens leaves what follows it to end the operation. -/
theorem OpEnded.after {s₁ : State} (h : OpEnded n o s₁ t)
    (hs : ∀ c x, tokenCount s₁ c x = tokenCount s c x) : OpEnded n o s t := by
  unfold OpEnded at h ⊢
  rwa [hs] at h

/-- An operation's entry that is replaced by one of the same record is under way still. -/
theorem runs_map (k : Ce) (h : k.runs o) :
    ({ k with ops := k.ops.map fun y => if y.idx = o.idx then o else y } : Ce).runs o := by
  obtain ⟨x, hx, hidx, -⟩ := h
  exact ⟨o, List.mem_map.2 ⟨x, hx, if_pos hidx⟩, rfl, rfl, rfl⟩

/-- Reading a tile of the staged tensor leaves the engines and the tokens. -/
theorem stagedTile_leaves (u : Unit') (d : Desc) (j m c x : Nat) (s : State) : let t := ((stagedTile u d j).run s).2
    t.engine m = s.engine m ∧ tokenCount t c x = tokenCount s c x := by
  unfold stagedTile
  dsimp only
  generalize joinRuns _ = runs
  have h : ((Prog.mapE runs fun p => vread u p.1 p.2).bindE fun l => .ret (.ok l.flatten)).Within readParts memNames :=
    .bindE (.mapE fun _ => vread_within _ _ _ _) fun _ => .ret _
  exact ⟨h.same .ce (by decide) s m, h.tokenCount (by decide) s c x⟩

section Tile
variable (home : Prop) [Decidable home] (lu : Nat) (q : Packet → Packet) (pk : List Packet)

/-- A tile's packets, summed at home or sent. -/
def tileLeaves : Prog Unit := Prog.each pk fun p => if home then contribArrive lu p else sendPacket (q p)

theorem tileLeaves_within : (tileLeaves home lu q pk).Within ceParts ceNames :=
  .each fun _ => .ite (contribArrive_within _ _) (sendPacket_within _).sendToCe

theorem tileLeaves_keeps {m : Nat} : (tileLeaves home lu q pk).Keeps fun s => (s.engine m).lasting :=
  .each fun _ => .ite (contribArrive_keeps _ _) ((sendPacket_within _).keeps_engine (by decide) _)

end Tile

/-- Sending an operation's tiles, as far as it goes, leaves it under way or ends it (R268, R270). -/
theorem opSend_ends (d : Desc) (group : List Nat) (fuel : Nat) {o : CeOp} {s : State} (h : (s.engine n).runs o) :
    OpEnded n o s ((opSend n b d group fuel o).run s).2 := by
  induction fuel generalizing o s with
  | zero => exact .inl h
  | succ fuel ih =>
    rw [opSend, run_get]
    dsimp only
    split
    · refine .inr ⟨fun x hx => ?_, ?_⟩
      · rw [run_seq, run_modCe, (tokenAdd_within _ _).same .ce (by decide), engine_setCe, if_pos rfl] at hx
        simpa using (List.mem_filter.1 hx).2
      · rw [run_seq, tokenAdd_tokenCount]
        rfl
    · have hst (m c x : Nat) := stagedTile_leaves (ceUnit s n) d o.sent m c x s
      rw [run_bind]
      split
      · refine .inl ?_
        rw [run_seq, (ceFault_within _ _ _).same .ce (by decide), run_modCe, engine_setCe, if_pos rfl]
        refine runs_map _ ?_
        rwa [(hst n 0 0).1]
      · rw [run_seq]
        change OpEnded n o s ((opSend n b d group fuel { o with sent := o.sent + 1 }).run
          ((tileLeaves _ _ (fun p => { p with dst := _ }) _).run _).2).2
        refine OpEnded.after (ih ?_) fun c x => ?_
        · rw [Ce.runs_sent, Ce.runs_congr (tileLeaves_keeps _ _ _ _ _), (hst n 0 0).1]
          exact h
        · rw [(tileLeaves_within _ _ _ _).tokenCount (by decide), (hst n c x).2]

theorem opSend_keeps (d : Desc) (group : List Nat) (fuel : Nat) (o : CeOp) {m : Nat} :
    (opSend n b d group fuel o).Keeps fun s => (s.engine m).kept := by
  induction fuel generalizing o with
  | zero => exact .skip
  | succ fuel ih =>
    rw [opSend]
    refine .get fun s => .ite (.seq (modCe_keeps (F := Ce.kept) fun _ => rfl)
      ((tokenAdd_within _ _).keeps_engine (by decide) Ce.kept))
      (.bind (fun s => congrArg Ce.kept (stagedTile_leaves _ _ _ m 0 0 s).1) fun x => ?_)
    split
    · exact .seq (modCe_keeps (F := Ce.kept) fun _ => rfl) ((ceFault_within _ _ _).keeps_engine (by decide) Ce.kept)
    · exact .seq ((tileLeaves_keeps _ _ (fun p => { p with dst := _ }) _).comp fun x => (x.1, x.2.2)) (ih _)

theorem opRun_keeps {m : Nat} : (opRun n b o).Keeps fun s => (s.engine m).kept := by
  refine .get fun s => .bind (Within.keeps_engine (.bindE (vget_within _ _ _ _) fun _ => .bindE (vget_within _ _ _ _) fun _ =>
    .ret _) (by decide) Ce.kept) fun x => ?_
  split
  · exact (ceFault_within _ _ _).keeps_engine (by decide) Ce.kept
  · exact opSend_keeps _ _ _ _

/-- A run of an operation leaves it under way or ends it (R240, R268). -/
theorem opRun_ends (h : (s.engine n).runs o) : OpEnded n o s ((opRun n b o).run s).2 := by
  have hread : ((vget (ceUnit s n) (opStage o.rcd) 64).bindE fun dd => (vget (ceUnit s n) (opGroup o.rcd) (2 * opG o.rcd)).bindE
      fun g => Prog.ret (.ok (dd, g))).Within readParts memNames :=
    .bindE (vget_within _ _ _ _) fun _ => .bindE (vget_within _ _ _ _) fun _ => .ret _
  have hkept := hread.same .ce (by decide) s n
  rw [opRun, run_get]
  dsimp only
  rw [run_bind]
  split
  · refine .inl ?_
    rwa [(ceFault_within _ _ _).same .ce (by decide), hkept]
  · refine OpEnded.after (opSend_ends _ _ _ ?_) fun c x => hread.tokenCount (by decide) s c x
    rwa [hkept]

end Operations
end Sys2Proof.Machine
/-! ### A record of a collective engine starts (R120, R266, R267) -/

namespace Sys2Proof.Machine
open Prog

/-- The state once a record's token has been taken and the record counts as started for the step (R266). -/
def ceStarted (n idx step : Nat) (r : BitVec 512) (s : State) : State :=
  (((tokenTake (opTcl r) (opStok r) 1 false).bind fun _ => modCe n fun k =>
    { k with started := k.started.filter (fun x => x.2 == step) ++ [(idx, step)] }).run s).2

/-- A record that has started, read at an address: it is checked against the descriptor of its tensor, and runs (R267). -/
def opFirst (u : Unit') (n b a : Nat) (o : CeOp) : Prog Unit := (vget u (opStage o.rcd) 64).bind fun y => match y with
  | .error f => (modCe n fun k => { k with ops := k.ops ++ [o] }).seq (ceFault n a f)
  | .ok dd =>
    if !opOk o.rcd (BitVec.ofNat 512 (leNat dd)) then
      Prog.all [setF .FAB_CE_ERR Fld.FAB_CE_ERR_ILLEGAL n, wr .FAB_CE_ERRADDR (BitVec.ofNat 64 a) n, errEvent (.ceError n),
        selfFailure 10]
    else (modCe n fun k => { k with ops := k.ops ++ [o] }).seq (opRun n b o)

/-- An operation of the table whose turn has come (R120, R266, R271). -/
structure OpDue (s : State) (n b idx kind : Nat) : Prop where
  owner : s.ceOwner n = some b
  works : ceState s n ≤ 2
  last  : kind = 2 → (s.binding b).step % max 1 (bits 14 8 (s.binding b).params.toNat) = 0
  kinds : kind = 1 ∨ kind = 2
  runs  : (s.engine n).drain = false
  inTab : idx < s.rdF .FAB_CE_OPCOUNT Fld.FAB_CE_OPCOUNT_COUNT n
  fresh : (idx, (s.binding b).step) ∉ (s.engine n).started
  room  : (s.engine n).ops.length < 4096

section Start
variable {n b idx kind : Nat} {s s₁ : State} {rd : List Byte} {r : BitVec 512}

/-- An operation whose turn has come and whose record is of its kind waits for its token, or takes it and starts. -/
theorem opStart_run (h : OpDue s n b idx kind) (hrd : Reads (vget (ceUnit s n) (s.opAddr n idx) 64) s rd s₁)
    (hr : BitVec.ofNat 512 (leNat rd) = r) (hkind : opKind r = kind) :
    (opStart n idx kind).run s = if tokenCount s₁ (opTcl r) (opStok r) = 0 then ((), s₁)
      else (opFirst (ceUnit s n) n b (s.opAddr n idx) ⟨idx, r, (s.binding b).step, 0⟩).run
        (ceStarted n idx (s.binding b).step r s₁) := by
  obtain ⟨howner, hworks, hlast, hkinds, hruns, htab, hfresh, hroom⟩ := h
  have hdue : decide (kind = 1) || decide ((s.binding b).step % max 1 (bits 14 8 (s.binding b).params.toNat) = 0) := by
    rcases hkinds with h | h
    · simp [h]
    · simp [hlast h]
  rw [opStart, run_get, howner]
  dsimp only
  rw [if_neg (by simp [hruns, hdue, hfresh, Nat.not_lt.2 hworks, Nat.not_le.2 htab, Nat.not_le.2 hroom]), run_bind, hrd.run_eq]
  dsimp only
  rw [hr, if_neg (by simp [hkind]), run_bind]
  by_cases hz : tokenCount s₁ (opTcl r) (opStok r) = 0
  · rw [if_pos hz, tokenTake_run_short s₁ (opTcl r) false (by omega)]
    rfl
  · obtain ⟨htake, -⟩ := tokenTake_ends s₁ (opTcl r) (x := opStok r) (n := 1) false (by omega)
    have hstarted : ceStarted n idx (s.binding b).step r s₁ = _ := congrArg Prod.snd (run_bind _ _ s₁)
    rw [if_neg hz, htake, if_neg (by decide), run_seq, hstarted]
    rfl

/-- A record that starts consumes one of its token, and no other token changes (R83, R266). -/
theorem ceStarted_token (h : tokenCount s (opTcl r) (opStok r) ≠ 0) (step x : Nat) :
    tokenCount (ceStarted n idx step r s) (opTcl r) x =
      if x = opStok r then (tokenCount s (opTcl r) (opStok r) - 1) % 65536 else tokenCount s (opTcl r) x := by
  rw [ceStarted, run_bind, run_modCe, tokenCount_setCe]
  split
  · next hx =>
    rw [hx]
    exact (tokenTake_ends s (opTcl r) false (by omega)).2
  · next hx =>
    rw [tokenTake, run_get, if_neg (by omega), run_seq, run_when, if_pos (by rfl), run_wr, run_ret]
    exact congrArg BitVec.toNat (s.rd_setReg_ne _ _ _ _ _ (by simpa using hx))

theorem ceStarted_engine (step : Nat) : (ceStarted n idx step r s).engine n = { s.engine n with
    started := (s.engine n).started.filter (fun x => x.2 == step) ++ [(idx, step)] } := by
  rw [ceStarted, run_bind, run_modCe, engine_setCe, if_pos rfl, (tokenTake_within _ _ _ _).same .ce (by decide)]

section First
variable {u : Unit'} {a : Nat} {o : CeOp} {t : State}

/-- The check and the run of a record leave it started. -/
theorem opFirst_kept {m : Nat} : (opFirst u n b a o).Keeps fun s => (s.engine m).kept := by
  refine .bind ((vget_within _ _ _ _).keeps_engine (by decide) Ce.kept) fun y => ?_
  have hreg : (Prog.all [setF .FAB_CE_ERR Fld.FAB_CE_ERR_ILLEGAL n, wr .FAB_CE_ERRADDR (BitVec.ofNat 64 a) n,
      errEvent (.ceError n), selfFailure 10]).Within tileParts ceNames :=
    .all_cons (.setF (by decide) (by decide)) (.all_cons (.wr (by decide) (by decide))
      (.all_cons (errEvent_within_fault _).faultToTile (.all_cons (selfFailure_within_fault _).faultToTile .all_nil)))
  split
  · exact .seq (modCe_keeps (F := Ce.kept) fun _ => rfl) ((ceFault_within _ _ _).keeps_engine (by decide) Ce.kept)
  · exact .ite (hreg.keeps_engine (by decide) Ce.kept) (.seq (modCe_keeps (F := Ce.kept) fun _ => rfl) opRun_keeps)

/-- An illegal record sets ILLEGAL and its address, and no operation starts (R267, R273). -/
theorem opFirst_illegal {dd : List Byte} (hd : Reads (vget u (opStage o.rcd) 64) s dd t)
    (hok : opOk o.rcd (BitVec.ofNat 512 (leNat dd)) = false) : let x := ((opFirst u n b a o).run s).2
    x.rdF .FAB_CE_ERR Fld.FAB_CE_ERR_ILLEGAL n = 1 ∧ (x.engine n).ops = (s.engine n).ops ∧
      (x.rd .FAB_CE_ERRADDR n).toNat = a % 2 ^ 48 ∧ ∀ c i, tokenCount x c i = tokenCount s c i := by
  have hrep : ((errEvent (.ceError n)).seq ((selfFailure 10).seq .skip)).Within faultParts faultNames :=
    .seq (errEvent_within_fault _) (.seq (selfFailure_within_fault _) .skip)
  have hrun : ((opFirst u n b a o).run s).2 = (((errEvent (.ceError n)).seq ((selfFailure 10).seq .skip)).run
      ((Eff.setReg ⟨.FAB_CE_ERRADDR, n, 0⟩ (BitVec.ofNat 64 a)).apply
        ((Eff.setReg ⟨.FAB_CE_ERR, n, 0⟩ (putF Fld.FAB_CE_ERR_ILLEGAL (t.rd .FAB_CE_ERR n) 1)).apply t))).2 := by
    rw [opFirst, run_bind, hd.run_eq]
    dsimp only
    rw [if_pos (by rw [hok]; rfl)]
    rfl
  have hmask : (BitVec.ofNat 64 a &&& regMask .FAB_CE_ERRADDR).toNat = a % 2 ^ 48 := by
    have : (regMask .FAB_CE_ERRADDR).toNat = 2 ^ 48 - 1 := rfl
    rw [BitVec.toNat_and, this, Nat.and_two_pow_sub_one_eq_mod, BitVec.toNat_ofNat]
    omega
  have htok (c i : Nat) := Within.tokenCount (vget_within u (opStage o.rcd) 64 .read) (by decide) s c i
  rw [hd.run_eq] at htok
  intro x
  rw [show x = _ from hrun]
  refine ⟨?_, ?_, ?_, fun c i => ?_⟩
  · rw [State.rdF, hrep.rd _ (by decide)]
    exact (State.rdF_setReg_name_ne _ (by decide) _ _ _ _ _ _).trans (State.rdF_setReg_field _ (by decide) _ _ _)
  · rw [hrep.same .ce (by decide), engine_setReg, engine_setReg, hd.same (vget_within _ _ _ _) .ce (by decide)]
  · rw [hrep.rd _ (by decide), State.rd_setReg_same _ _ _ _ _ (by decide), hmask]
  · rw [hrep.tokenCount (by decide), ← htok]
    exact congrArg BitVec.toNat ((State.rd_setReg_name_ne _ (by decide) _ _ _ _ _).trans
      (State.rd_setReg_name_ne _ (by decide) _ _ _ _ _))

/-- A legal record is under way, or has sent all its tiles and signalled its token (R268). -/
theorem opFirst_ends {dd : List Byte} (hd : Reads (vget u (opStage o.rcd) 64) s dd t)
    (hok : opOk o.rcd (BitVec.ofNat 512 (leNat dd)) = true) : OpEnded n o s ((opFirst u n b a o).run s).2 := by
  have htok (c i : Nat) := Within.tokenCount (vget_within u (opStage o.rcd) 64 .read) (by decide) s c i
  rw [hd.run_eq] at htok
  rw [opFirst, run_bind, hd.run_eq]
  dsimp only
  rw [if_neg (by rw [hok]; decide), run_seq, run_modCe]
  refine OpEnded.after (opRun_ends ?_) htok
  rw [engine_setCe, if_pos rfl]
  exact ⟨o, List.mem_append_right _ (List.mem_singleton_self _), rfl, rfl, rfl⟩

end First
end Start

section Commands
variable {n : Fin 4} {s : State}

/-- The status shown leaves the engines and the tokens. -/
theorem ceShow_leaves (k m c x : Nat) (s : State) : ((ceShow k).run s).2.engine m = s.engine m ∧
    tokenCount ((ceShow k).run s).2 c x = tokenCount s c x :=
  ⟨(ceShow_within k).same .ce (by decide) s m, (ceShow_within k).tokenCount (by decide) s c x⟩

/-- What the status shown says of an engine that works or is idle (R273). -/
theorem ceShow_state (n : Nat) (s : State) (h : ceState s n ≤ 1) : ceState ((ceShow n).run s).2 n =
    if ((s.engine n).drain && (s.engine n).decays.isEmpty) = true then 3
    else if (s.engine n).ops.isEmpty = true then 0 else 1 := by
  rw [ceShow, run_get]
  simp only [run_all_cons, run_all_nil, run_wrF, if_pos h]
  split
  · exact State.rdF_setReg_field _ (by decide) _ _ _
  · rw [run_wrF]
    refine (State.rdF_setReg_field _ (by decide) _ _ _).trans ?_
    split <;> rfl

/-- CE_STOP drains an engine that works (R271). -/
theorem ceStop_completes : Completes (.ceStop n) s fun t => if 1 < ceState s n then t = s
    else (t.engine n).drain = true ∧ (t.engine n).ops = (s.engine n).ops ∧
      ((s.engine n).decays = [] → ceState t n = 3) := by
  refine .of_next (p := drainCe n) rfl ?_
  rw [drainCe, run_get]
  split
  · rfl
  · next h =>
    simp only [run_seq, run_modCe, (ceShow_leaves n n 0 0 _).1, engine_setCe, if_true, true_and]
    intro hd
    refine (ceShow_state _ ((Eff.setCe n _).apply s) (Nat.not_lt.1 h)).trans ?_
    rw [engine_setCe, if_pos rfl, if_pos (by simp [hd])]

/-- CE_RESUME lets a stopped or faulted engine go on, and is refused otherwise (R271). -/
theorem ceResume_completes : Completes (.ceResume n) s fun t => if ceState s n = 2 ∨ ceState s n = 3 then
      (t.engine n).drain = false ∧ ((s.engine n).ops = [] → (s.engine n).held = [] → (∀ x ∈ (s.engine n).sums, x.mem = false) →
        ceState t n = 0)
    else t.rdF .FAB_CE_ERR Fld.FAB_CE_ERR_CMDIGN n = 1 ∧ t.engine n = s.engine n := by
  refine .of_next (p := ceResumeDo n) rfl ?_
  rw [ceResumeDo, run_get]
  by_cases h : ceState s n = 2 ∨ ceState s n = 3
  · rw [if_pos h, if_pos (by simpa using h)]
    simp only [run_all_cons, run_all_nil, run_wrF, run_modCe, run_get]
    generalize hs : (Eff.setCe (n : Nat) _).apply _ = s₁
    have he : s₁.engine n = { s.engine n with drain := false, stopped := [] } := by
      rw [← hs, engine_setCe, if_pos rfl, engine_setReg]
    have hst : ceState s₁ n = 1 := by
      rw [← hs, ceState_setCe]
      exact State.rdF_setReg_field _ (by decide) _ _ _
    refine ⟨?_, fun hops hheld hsums => ?_⟩
    · have hruns (b : Nat) (os : List CeOp) : (Prog.each os fun o => opRun n b o).Keeps fun s => (s.engine n).kept :=
        .each fun _ => opRun_keeps
      have hsum (xs : List Sum) := applyReady_keeps (m := n) n (F := Ce.drain) (fun _ _ => rfl) (fun _ _ => rfl) (fun _ _ => rfl) xs
      have hretry := (ceRetry_keeps (m := n) n).comp fun x => x.2.2
      rw [(ceShow_leaves n n 0 0 _).1]
      exact (congrArg Prod.snd (hruns _ _ _)).trans ((hretry _).trans ((hsum _ _).trans (congrArg Ce.drain he)))
    · have hnone : ((s₁.engine n).sums.filter (·.mem)) = [] := by
        rw [he]
        exact List.filter_eq_nil_iff.2 fun x hx => by simp [hsums x hx]
      have hnil : (s₁.engine n).held = [] := by rw [he]; exact hheld
      rw [hnone, applyReady, run_skip, ceRetry_run hnil]
      simp only [hops, run_each_nil]
      rw [ceShow_state _ _ (Nat.le_of_eq hst), he]
      simp [hops]
  · rw [if_neg h, if_neg (by simpa using h), run_setF]
    exact ⟨State.rdF_setReg_field _ (by decide) _ _ _, engine_setReg _ _ _ _⟩

end Commands
end Sys2Proof.Machine
/-! ### The start of a collective engine's operation (R120, R266, R267) -/

namespace Sys2Proof.Machine
open Prog

section Started
variable {n b idx kind : Nat} {s s₁ : State} {rd : List Byte}

/-- The program of RS_LAND and RS_MEM. -/
def opStartShow (n idx kind : Nat) : Prog Unit := (opStart n idx kind).seq (ceShow n)

/-- Without the token nothing starts (R266). -/
theorem opStartShow_waits (h : OpDue s n b idx kind) (hrd : Reads (vget (ceUnit s n) (s.opAddr n idx) 64) s rd s₁)
    (hkind : opKind (BitVec.ofNat 512 (leNat rd)) = kind) :
    let r := BitVec.ofNat 512 (leNat rd)
    let t := ((opStartShow n idx kind).run s).2
    tokenCount s (opTcl r) (opStok r) = 0 →
      (t.engine n).started = (s.engine n).started ∧ (t.engine n).ops = (s.engine n).ops ∧ tokenCount t (opTcl r) (opStok r) = 0 := by
  intro r t hz
  have hread := vget_within (ceUnit s n) (s.opAddr n idx) 64 .read
  have he : s₁.engine n = s.engine n := hrd.same hread .ce (by decide) n
  have htok := hread.tokenCount (by decide) s (opTcl r) (opStok r)
  rw [hrd.run_eq] at htok
  have ht : t = ((ceShow n).run s₁).2 := by
    simp only [t, opStartShow, run_seq, opStart_run h hrd rfl hkind]
    rw [if_pos (htok.trans hz)]
  rw [ht, (ceShow_leaves n n (opTcl r) (opStok r) s₁).1, (ceShow_leaves n n (opTcl r) (opStok r) s₁).2, he]
  exact ⟨rfl, rfl, htok.trans hz⟩

/-- With its token an operation is started for the step: an illegal record is refused, and a legal one is under way, or has
sent all its tiles and signalled its token (R266 to R268). -/
theorem opStartShow_starts (h : OpDue s n b idx kind) (hrd : Reads (vget (ceUnit s n) (s.opAddr n idx) 64) s rd s₁)
    (hkind : opKind (BitVec.ofNat 512 (leNat rd)) = kind) :
    let r := BitVec.ofNat 512 (leNat rd)
    let had := tokenCount s (opTcl r) (opStok r)
    let rest (tok : Nat) : Nat := if tok = opStok r then (had - 1) % 65536 else tokenCount s (opTcl r) tok
    let t := ((opStartShow n idx kind).run s).2
    had ≠ 0 → (idx, (s.binding b).step) ∈ (t.engine n).started ∧
      ∀ dd s₂, Reads (vget (ceUnit s n) (opStage r) 64) (ceStarted n idx (s.binding b).step r s₁) dd s₂ →
        if opOk r (BitVec.ofNat 512 (leNat dd)) = false then
          t.rdF .FAB_CE_ERR Fld.FAB_CE_ERR_ILLEGAL n = 1 ∧ (t.engine n).ops = (s.engine n).ops ∧
          (t.rd .FAB_CE_ERRADDR n).toNat = s.opAddr n idx % 2 ^ 48 ∧ tokenCount t (opTcl r) (opStok r) = rest (opStok r)
        else (∃ o ∈ (t.engine n).ops, o.idx = idx ∧ o.rcd = r ∧ o.step = (s.binding b).step) ∨
          ((∀ o ∈ (t.engine n).ops, o.idx ≠ idx) ∧
            tokenCount t (opTcl r) (opDtok r) = min (rest (opDtok r) + 1) 65535) := by
  intro r had rest t hz
  have hread := vget_within (ceUnit s n) (s.opAddr n idx) 64 .read
  have he : s₁.engine n = s.engine n := hrd.same hread .ce (by decide) n
  have htok (c x : Nat) : tokenCount s₁ c x = tokenCount s c x := by
    have := hread.tokenCount (by decide) s c x
    rwa [hrd.run_eq] at this
  have hz₁ : tokenCount s₁ (opTcl r) (opStok r) ≠ 0 := by rwa [htok]
  have hrest (x : Nat) : tokenCount (ceStarted n idx (s.binding b).step r s₁) (opTcl r) x = rest x := by
    rw [ceStarted_token hz₁, htok, htok]
  have hst : (ceStarted n idx (s.binding b).step r s₁).engine n = _ := ceStarted_engine _
  obtain ⟨t₁, ht₁⟩ : ∃ t₁, t₁ = ((opFirst (ceUnit s n) n b (s.opAddr n idx) ⟨idx, r, (s.binding b).step, 0⟩).run
    (ceStarted n idx (s.binding b).step r s₁)).2 := ⟨_, rfl⟩
  have ht : t = ((ceShow n).run t₁).2 := by
    simp only [t, opStartShow, run_seq, opStart_run h hrd rfl hkind, ht₁]
    rw [if_neg hz₁]
  have hshow (c x : Nat) := ceShow_leaves n n c x t₁
  have hreg (q : RegName) (hq : q ≠ .FAB_CE_STATUS) : t.rd q n = t₁.rd q n := by
    rw [ht]; exact (ceShow_within n).rd q (by simpa using hq) n 0 t₁
  rw [ht, (hshow 0 0).1, ← ht]
  have hkept : (t₁.engine n).started = ((s.engine n).started.filter fun x => x.2 == (s.binding b).step) ++
      [(idx, (s.binding b).step)] := by
    rw [ht₁, ← he]
    exact (congrArg Prod.fst (opFirst_kept (m := n) _)).trans (congrArg Ce.started hst)
  refine ⟨by simp [hkept], fun dd s₂ hdd => ?_⟩
  split
  · next hok =>
    obtain ⟨hill, hops, haddr, hsame⟩ := opFirst_illegal (n := n) (b := b) (a := s.opAddr n idx)
      (o := ⟨idx, r, (s.binding b).step, 0⟩) hdd hok
    rw [← ht₁] at hill hops haddr hsame
    refine ⟨?_, ?_, ?_, ?_⟩
    · rw [State.rdF, hreg _ (by decide)]; exact hill
    · rw [hops, hst, he]
    · rw [hreg _ (by decide)]; exact haddr
    · rw [ht, (hshow _ _).2, hsame, hrest]
  · next hok =>
    have hends := opFirst_ends (n := n) (b := b) (a := s.opAddr n idx) (o := ⟨idx, r, (s.binding b).step, 0⟩) hdd
      (by simpa using hok)
    rw [← ht₁, OpEnded, hrest, ← (hshow (opTcl r) (opDtok r)).2, ← ht] at hends
    exact hends

end Started
end Sys2Proof.Machine
/-! ### Contributions that wait, and contributions taken (R268 to R270) -/

namespace Sys2Proof.Machine
open Prog

section Arrival
variable {p : Packet} {s : State} {typ : Nat}

/-- A packet that is no message of the horn comes in a class above 0 (R253). -/
theorem Arrives.cls_ne (h : Arrives p typ) (htyp : 0x0A < typ) : p.cls ≠ 0 := by
  intro h0
  have hlegal := h.legal
  rw [h0, h.kind] at hlegal
  simp [typeOk] at hlegal
  omega

/-- A packet that arrives whole in a class above 0 is taken as it stands. -/
theorem arriveHeld_run (h : Arrives p typ) (htyp : 0x0A < typ) (f : Packet → Prog Unit) :
    (arriveHeld p typ f).run s = (f p).run s := by
  have hcls : (p.cls == 0) = false := beq_eq_false_iff_ne.2 (h.cls_ne htyp)
  obtain ⟨hlegal, hkind, hshort, hwhole⟩ := h
  have hreport : (hornReport p true).run s = ((), s) := by
    unfold hornReport
    split
    · rw [run_when, hcls]
      rfl
    · rfl
  rw [arriveHeld, if_neg (by simp [hlegal]), if_neg (by simp [hkind, hshort]), if_pos hwhole, run_seq, hreport]

end Arrival

section Owner
variable {α : Type} {l : List Part} {ns : List RegName} (n : Nat) (s : State)

/-- The owner of a unit is read from the binding's registers alone. -/
theorem ownerUnit_of_rd {s t : State} (h : ∀ b, t.rd .BND_UNITS b = s.rd .BND_UNITS b) (i : Nat) :
    t.ownerUnit i = s.ownerUnit i := by
  unfold State.ownerUnit State.hasUnit
  simp only [h]

theorem Prog.Within.ceOwner {p : Prog α} (h : p.Within l ns) (hn : RegName.BND_UNITS ∉ ns) :
    (p.run s).2.ceOwner n = s.ceOwner n := ownerUnit_of_rd (fun b => h.rd _ hn b 0 s) _

end Owner

section Waits
variable {n b : Nat} {p : Packet} {s : State}

/-- A contribution that waits at an engine: a CONTRIB of a later step, or one of an operation that is held; a STATCONTRIB
of an operation that is held (R268, R271). -/
structure WaitsAt (n b : Nat) (p : Packet) (s : State) : Prop where
  owner : s.ceOwner n = some b
  bid   : s.rdF .BND_JOB Fld.BND_JOB_BID b = p.bid.toNat
  waits : if p.typ = 0x10 then (s.binding b).step < p.step.toNat ∨
      p.step.toNat = (s.binding b).step ∧ sumHeld s n 1 p.opid.toNat = true
    else sumHeld s n 2 p.opid.toNat = true

/-- What is held depends on the engine's stopped operations. -/
theorem sumHeld_setCe {v : Ce} (h : v.stopped = (s.engine n).stopped) (kind opid : Nat) :
    sumHeld ((Eff.setCe n v).apply s) n kind opid = sumHeld s n kind opid := by
  rw [sumHeld, sumHeld, ceState_setCe, engine_setCe, if_pos rfl, h]

theorem WaitsAt.setCe (h : WaitsAt n b p s) {v : Ce} (hv : v.stopped = (s.engine n).stopped) :
    WaitsAt n b p ((Eff.setCe n v).apply s) := by
  obtain ⟨howner, hbid, hwaits⟩ := h
  refine ⟨howner, hbid, ?_⟩
  rw [sumHeld_setCe hv, sumHeld_setCe hv]
  exact hwaits

/-- A contribution that waits is put behind those that wait (R268). -/
theorem WaitsAt.run (h : WaitsAt n b p s) : (contribute n p).run s =
    ((), (Eff.setCe n { s.engine n with held := (s.engine n).held ++ [p] }).apply s) := by
  obtain ⟨howner, hbid, hwaits⟩ := h
  have hbody : (if p.typ = 0x10 then contribLand n p else contribStat n p).run s =
      ((), (Eff.setCe n { s.engine n with held := (s.engine n).held ++ [p] }).apply s) := by
    split
    · next ht =>
      rw [if_pos ht] at hwaits
      have hlate : ¬ p.step.toNat < (s.binding b).step := by omega
      have hheld : (decide ((s.binding b).step < p.step.toNat) || sumHeld s n 1 p.opid.toNat) = true := by
        rcases hwaits with h | ⟨-, h⟩
        · simp [h]
        · simp [h]
      rw [contribLand, run_get, howner]
      dsimp only
      rw [if_neg (not_not.2 hbid), if_neg hlate, if_pos hheld]
      rfl
    · next ht =>
      rw [if_neg ht] at hwaits
      rw [contribStat, run_get, howner]
      dsimp only
      rw [if_neg (not_not.2 hbid), if_pos hwaits]
      rfl
  rw [contribute, run_get]
  dsimp only
  rw [run_seq, hbody, run_get, run_when, engine_setCe, if_pos rfl, if_neg (by simp)]

/-- A contribution that waits where none waited is the one that waits: offered again, it waits again. -/
theorem WaitsAt.arrive (h : WaitsAt n b p s) (hnil : (s.engine n).held = []) : let t := ((contribArrive n p).run s).2
    t.engine n = { s.engine n with held := [p] } ∧ t.out = s.out := by
  intro t
  have hrun : t = ((ceRetry n).run ((Eff.setCe n { s.engine n with held := [p] }).apply s)).2 := by
    simp only [t, contribArrive, run_seq, h.run, hnil, List.nil_append]
  generalize hs₁ : (Eff.setCe n { s.engine n with held := [p] }).apply s = s₁ at hrun
  have he : s₁.engine n = { s.engine n with held := [p] } := by rw [← hs₁, engine_setCe, if_pos rfl]
  have hw : WaitsAt n b p s₁ := by rw [← hs₁]; exact h.setCe rfl
  have hw₂ : WaitsAt n b p ((Eff.setCe n { s₁.engine n with held := [] }).apply s₁) := hw.setCe rfl
  rw [hrun, ceRetry, run_get, he]
  simp only [List.length_singleton, offerHeld, run_get, he, List.isEmpty_cons, Bool.false_eq_true, if_false, run_seq, run_modCe,
    run_each_cons, run_each_nil]
  rw [he] at hw₂
  rw [hw₂.run]
  dsimp only
  simp only [engine_setCe, if_true, List.nil_append, List.length_singleton, Nat.lt_irrefl, if_false, run_skip, true_and]
  rw [← hs₁]
  rfl

/-- A contribution that leaves none waiting where none waited gives its credits back, and none is offered again (R248). -/
theorem contribArrive_taken {s' : State} (h : (if p.typ = 0x10 then contribLand n p else contribStat n p).run s = ((), s'))
    (hnil : (s.engine n).held = []) (hnil' : (s'.engine n).held = []) :
    (contribArrive n p).run s = (creditBack p (flitsOf p)).run s' := by
  have hcredit : ((contribute n p).run s) = (creditBack p (flitsOf p)).run s' := by
    rw [contribute, run_get]
    dsimp only
    rw [run_seq, h, run_get, run_when, if_pos (by simp [hnil, hnil'])]
  have hkept := (creditBack_within (l := [.out]) (n := []) p (flitsOf p) (by decide)).same .ce (by decide) s' n
  rw [contribArrive, run_seq, hcredit, ceRetry_run (by rw [hkept]; exact hnil')]

end Waits

section Land
variable {n b : Nat} {p : Packet} {s s₁ : State} {rec' : BitVec 512} {a : Nat}

/-- A CONTRIB of an ended step is counted late (R268). -/
theorem contribLand_late (howner : s.ceOwner n = some b) (hbid : s.rdF .BND_JOB Fld.BND_JOB_BID b = p.bid.toNat)
    (h : p.step.toNat < (s.binding b).step) :
    (contribLand n p).run s = (bumpF .FAB_CE_LATECNT Fld.FAB_CE_LATECNT_COUNT 1 n).run s := by
  rw [contribLand, run_get, howner]
  dsimp only
  rw [if_neg (not_not.2 hbid), if_pos h]

/-- The registers that a contribution summed at the landing buffer changes first: its flags, its count, its poison. -/
def landNotes (n : Nat) (p : Packet) (fl : Nat) : Prog Unit := Prog.all [addFlags .FAB_CE_FLAGS fl n, count (setCe n) 0x78,
  Prog.when (!contribGood p) (setF .FAB_CE_ERR Fld.FAB_CE_ERR_POISON n)]

/-- A CONTRIB is summed into its tile; a complete tile leaves its slot for the Landing Unit (R268, R269). -/
def landSum (n : Nat) (p : Packet) (x : Sum) (full : Bool) : Prog Unit :=
  let y := countIn p x
  Prog.seq (landNotes n p y.2.toNat) (Prog.seq (putSum n x (if full then none else some y.1))
    (Prog.when full ((count (setCe n) 0x79).seq (tilePresent n ⟨y.1.step, y.1.entry, y.1.tile, y.1.data, y.1.poison⟩))))

theorem landNotes_within (fl : Nat) : (landNotes n p fl).Within readParts (.FAB_CE_FLAGS :: .FAB_CE_ERR :: memNames) :=
  .all_cons (.addFlags (by decide) (by decide)) (.all_cons ((count_within _ _ _ _).mono (by decide) (by decide))
    (.all_cons (.when (.setF (by decide) (by decide))) .all_nil))

/-- The sum of a CONTRIB of the step in progress, whose operation is not held and whose tile has a slot. -/
theorem contribLand_sums (howner : s.ceOwner n = some b) (hbid : s.rdF .BND_JOB Fld.BND_JOB_BID b = p.bid.toNat)
    (hstep : p.step.toNat = (s.binding b).step) (hheld : sumHeld s n 1 p.opid.toNat = false)
    (hroom : ((s.engine n).sums.find? fun x => x.is false p).isSome ∨
      ((s.engine n).sums.filter fun x => !x.mem).length + (s.landing n).buf.length < 512)
    (hop : Reads (findOp n b 1 p.opid.toNat) s (some (rec', a)) s₁) :
    let x := (((s.engine n).sums.find? fun x => x.is false p).getD (Sum.init false p))
    (contribLand n p).run s = (landSum n p x ((countIn p x).1.got.all fun q => decide (opG rec' ≤ q))).run s₁ := by
  have hslot : ¬ (((s.engine n).sums.find? fun x => x.is false p).isNone &&
      decide (512 ≤ ((s.engine n).sums.filter fun x => !x.mem).length + (s.landing n).buf.length)) = true := by
    rcases hroom with h | h
    · simp [Option.isNone_eq_false_iff.2 h]
    · simp [Nat.not_le.2 h]
  intro x
  rw [contribLand, run_get, howner]
  dsimp only
  rw [if_neg (not_not.2 hbid), if_neg (by omega), if_neg (by simp [hstep, hheld]), if_neg hslot, run_bind, hop.run_eq]
  dsimp only
  simp only [landSum, landNotes, run_all_cons, run_all_nil, run_seq, x]

/-- A CONTRIB summed puts its tile in the place of the tile before, and an incomplete one is not presented. -/
theorem landSum_sums (x : Sum) (full : Bool) (t : State) : let t' := ((landSum n p x full).run t).2
    (t'.engine n).held = (t.engine n).held ∧
      (full = false → (t'.engine n).sums = (t.engine n).sums.filter (· != x) ++ [(countIn p x).1] ∧ t'.landing n = t.landing n) := by
  intro t'
  have hnotes := (landNotes_within (n := n) (p := p) (countIn p x).2.toNat)
  have hshown : ((count (setCe n) 0x79).seq (tilePresent n ⟨(countIn p x).1.step, (countIn p x).1.entry, (countIn p x).1.tile,
      (countIn p x).1.data, (countIn p x).1.poison⟩)).Within tileParts ceNames :=
    .seq (count_within _ _ _ _).toMem.memToTile (tilePresent_within _ _)
  refine ⟨?_, ?_⟩
  · exact Keeps.seq (hnotes.keeps_engine (by decide) Ce.held) (.seq (putSum_keeps n (F := Ce.held) (fun _ _ => rfl) _ _)
      (.when (hshown.keeps_engine (by decide) Ce.held))) t
  · rintro rfl
    have hce : ((landNotes n p (countIn p x).2.toNat).run t).2.engine n = t.engine n := hnotes.same .ce (by decide) t n
    simp only [t', landSum, run_seq, run_when, Bool.false_eq_true, if_false, putSum, run_modCe, engine_setCe, if_true, hce]
    exact ⟨rfl, hnotes.same .lu (by decide) t n⟩

end Land
end Sys2Proof.Machine
/-! ### Contributions to factor blocks (R270) -/

namespace Sys2Proof.Machine
open Prog

section Stat
variable {n b : Nat} {p : Packet} {s s₁ s₂ s₄ : State} {r r' : BitVec 512 × Nat} {fl : Flags} {y : Sum}

/-- The sum of the contribution to SUMBUF, noted, counted and kept (R270). -/
def statSum (n : Nat) (p : Packet) (x : Sum) (fl : Flags) : Prog Unit :=
  Prog.all [addFlags .FAB_CE_FLAGS fl.toNat n, count (setCe n) 0x78,
    Prog.when (!contribGood p) (setF .FAB_CE_ERR Fld.FAB_CE_ERR_POISON n), putSum n x (some (countIn p x).1)]

theorem statSum_run (x : Sum) (t : State) : (statSum n p x fl).run t =
    (putSum n x (some (countIn p x).1)).run ((landNotes n p fl.toNat).run t).2 := by
  simp only [statSum, landNotes, run_all_cons, run_all_nil]

theorem statSum_within (x : Sum) : (statSum n p x fl).Within ceParts ceNames :=
  .all_cons (.addFlags (by decide) (by decide)) (.all_cons (count_within _ _ _ _).toMem.memToCe
    (.all_cons (.when (.setF (by decide) (by decide))) (.all_cons ((putSum_within _ _ _).mono (by decide) (by decide)) .all_nil)))

/-- A STATCONTRIB's tiles are applied where they are complete, and the engine shows its state. -/
def statApply (n : Nat) (p : Packet) : Prog Unit :=
  (Prog.get fun s => applyReady n ((s.engine n).sums.filter fun x => x.is true p)).seq (ceShow n)

/-- The sum that a STATCONTRIB belongs to, or the one that it begins. -/
def statOld (s : State) (n : Nat) (p : Packet) : Sum :=
  ((s.engine n).sums.find? fun x => x.is true p).getD (Sum.init true p)

/-- A STATCONTRIB whose operation is not held is added to SUMBUF and counted, and what is complete is applied. -/
theorem contribStat_sums (howner : s.ceOwner n = some b) (hbid : s.rdF .BND_JOB Fld.BND_JOB_BID b = p.bid.toNat)
    (hheld : sumHeld s n 2 p.opid.toNat = false) (hop : Reads (findOp n b 2 p.opid.toNat) s (some r) s₁)
    (hadd : Reads (statAdd n r.1 p (statOld s n p)) s₁ fl s₂) :
    (contribStat n p).run s = (statApply n p).run ((statSum n p (statOld s n p) fl).run s₂).2 := by
  have he : statOld s₁ n p = statOld s n p := by
    rw [statOld, hop.same (findOp_within _ _ _ _) .ce (by decide) n]
    rfl
  rw [← he] at hadd ⊢
  obtain ⟨r, a⟩ := r
  rw [contribStat, run_get, howner]
  dsimp only
  rw [if_neg (not_not.2 hbid), if_neg (by simp [hheld]), run_bind, hop.run_eq]
  dsimp only
  rw [run_get]
  change (((statAdd n r p (statOld s₁ n p)).bind _).run s₁) = _
  rw [run_bind, hadd.run_eq]
  simp only [run_all_cons, run_all_nil, run_seq, run_get, statApply, statSum, statOld]

theorem statSum_sums (x : Sum) (t : State) : (((statSum n p x fl).run t).2.engine n) =
    { t.engine n with sums := (t.engine n).sums.filter (· != x) ++ [(countIn p x).1] } := by
  have hce : ((landNotes n p fl.toNat).run t).2.engine n = t.engine n :=
    (landNotes_within (n := n) (p := p) fl.toNat).same .ce (by decide) t n
  rw [statSum_run, putSum, run_modCe, engine_setCe, if_pos rfl, hce]
  rfl

/-- An incomplete tile, or one whose decay may not begin, waits in SUMBUF (R122, R270). -/
theorem applyReady_waits (howner : s.ceOwner n = some b) (hop : Reads (findOp n b 2 y.opid) s (some r) s₁)
    (h : ¬ ((∀ q ∈ y.got, opG r.1 ≤ q) ∧ mayApply s₁ n r.1 y = true)) : (applyReady n [y]).run s = ((), s₁) := by
  have hwaits : (!y.got.all (fun x => decide (opG r.1 ≤ x)) || !mayApply s₁ n r.1 y) = true := by
    by_contra hno
    refine h ⟨?_, ?_⟩ <;> simp_all
  obtain ⟨r, a⟩ := r
  rw [applyReady, run_get, howner]
  dsimp only
  rw [run_bind, hop.run_eq]
  dsimp only
  rw [run_get, if_pos hwaits]
  rfl

/-- A complete tile is applied to its block and leaves SUMBUF (R270). -/
theorem applyReady_applies (howner : s.ceOwner n = some b) (hop : Reads (findOp n b 2 y.opid) s (some r) s₁)
    (hfull : ∀ q ∈ y.got, opG r.1 ≤ q) (hmay : mayApply s₁ n r.1 y = true) (hap : Reads (applyTile n b r.1 y) s₁ () s₂) :
    (applyReady n [y]).run s = ((putSum n y none).seq (count (setCe n) 0x79)).run s₂ := by
  have hgo : (!y.got.all (fun x => decide (opG r.1 ≤ x)) || !mayApply s₁ n r.1 y) = false := by simpa [hmay] using hfull
  obtain ⟨r, a⟩ := r
  rw [applyReady, run_get, howner]
  dsimp only
  rw [run_bind, hop.run_eq]
  dsimp only
  rw [run_get, if_neg (by rw [hgo]; decide), run_bind, hap.run_eq]
  simp only [run_all_cons, run_all_nil, run_seq, applyReady, run_skip]

/-- The one tile of a contribution, once summed: it is applied and leaves SUMBUF, or it waits there. -/
theorem statApply_ends (howner : s.ceOwner n = some b) (hone : ((s.engine n).sums.filter fun z => z.is true p) = [y])
    (hop : Reads (findOp n b 2 y.opid) s (some r) s₁) : let t := ((statApply n p).run s).2
    if (∀ q ∈ y.got, opG r.1 ≤ q) ∧ mayApply s₁ n r.1 y = true then
      ∀ s₂, Reads (applyTile n b r.1 y) s₁ () s₂ → y ∉ (t.engine n).sums ∧ ∀ a, t.byte a = s₂.byte a
    else y ∈ (t.engine n).sums ∧ ∀ a, t.byte a = s₁.byte a := by
  have hshow := ceShow_within n
  intro t
  have ht : t = ((ceShow n).run ((applyReady n [y]).run s).2).2 := by
    simp only [t, statApply, run_seq, run_get, hone]
  split
  · next h =>
    intro s₂ hap
    rw [applyReady_applies howner hop h.1 h.2 hap] at ht
    have hcount : ((count (setCe n) 0x79).seq (ceShow n)).Within readParts (.FAB_CE_STATUS :: memNames) :=
      .seq ((count_within _ _ _ _).mono (by decide) (by decide)) (hshow.mono (by decide) (by decide))
    rw [run_seq, ← run_seq (count _ _) (ceShow n)] at ht
    refine ⟨?_, fun a => ?_⟩
    · rw [ht, hcount.same .ce (by decide), putSum, run_modCe, engine_setCe, if_pos rfl]
      simp
    · rw [ht, hcount.same .mem (by decide), putSum_within n y none |>.same .mem (by decide)]
  · next h =>
    rw [applyReady_waits howner hop h] at ht
    refine ⟨?_, fun a => ?_⟩
    · rw [ht, hshow.same .ce (by decide), hop.same (findOp_within _ _ _ _) .ce (by decide)]
      exact List.mem_of_mem_filter (hone ▸ List.mem_singleton_self y)
    · rw [ht, hshow.same .mem (by decide)]

/-- The application of complete tiles takes no contribution that waits. -/
theorem statApply_keeps : (statApply n p).Keeps fun s => (s.engine n).held :=
  .seq (.get fun _ => applyReady_keeps n (F := Ce.held) (fun _ _ => rfl) (fun _ _ => rfl) (fun _ _ => rfl) _)
    ((ceShow_within _).keeps_engine (by decide) Ce.held)

end Stat
end Sys2Proof.Machine
/-! ### Collective engines (O38) -/

namespace Sys2Proof.Machine
open Prog

section Clauses
variable {n : Fin 4} {b : Nat} {p : Packet} {s : State}

/-- The operations of the table (R120, R266, R267). -/
theorem operation_completes {i : Instr} {kind idx : Nat} (hi : (i, kind) ∈ [(Instr.rsLand n idx, 1), (.rsMem n idx, 2)])
    {P : State → Prop} (hP : P ((opStartShow n idx kind).run s).2) : Completes i s P := by
  rcases List.mem_pair.1 hi with h | h
  · obtain ⟨rfl, rfl⟩ := Prod.mk.injEq _ _ _ _ ▸ h
    exact .of_next rfl hP
  · obtain ⟨rfl, rfl⟩ := Prod.mk.injEq _ _ _ _ ▸ h
    exact .of_next rfl hP

/-- A contribution of either kind that arrives whole reaches its engine. -/
theorem contribution_completes {i : Instr} {typ : Nat} (hi : (i, typ) ∈ [(Instr.contrib n p, 0x10), (.statcontrib n p, 0x18)])
    (hp : Arrives p typ) (hlu : p.lu = n) {P : State → Prop} (hP : P ((contribArrive n p).run s).2) : Completes i s P := by
  have hrun (typ : Nat) (htyp : 0x0A < typ) (hp : Arrives p typ) :
      (arriveHeld p typ fun p => Prog.when (p.lu == n) (contribArrive n p)).run s = (contribArrive n p).run s := by
    rw [arriveHeld_run hp htyp, run_when, if_pos (by simp [hlu])]
  rcases List.mem_pair.1 hi with h | h
  · obtain ⟨rfl, rfl⟩ := Prod.mk.injEq _ _ _ _ ▸ h
    exact .of_next rfl (by rw [hrun _ (by decide) hp]; exact hP)
  · obtain ⟨rfl, rfl⟩ := Prod.mk.injEq _ _ _ _ ▸ h
    exact .of_next rfl (by rw [hrun _ (by decide) hp]; exact hP)

/-- A CONTRIB that arrives whole is of the CONTRIB's type. -/
theorem Arrives.typ_eq (h : Arrives p 0x10) : p.typ = 0x10 := BitVec.eq_of_toNat_eq h.kind

theorem Arrives.typ_ne (h : Arrives p 0x18) : p.typ ≠ 0x10 := fun he => by
  have := h.kind
  rw [he] at this
  exact absurd this (by decide)

section Contribution
variable (howner : s.ceOwner n = some b) (hbid : s.rdF .BND_JOB Fld.BND_JOB_BID b = p.bid.toNat)
  (hnil : (s.engine n).held = [])
include howner hbid hnil

/-- A CONTRIB of an ended step is counted late (R268). -/
theorem contrib_late (hp : Arrives p 0x10) (hlate : p.step.toNat < (s.binding b).step) : let t := ((contribArrive n p).run s).2
    t.engine n = s.engine n ∧ t.rdF .FAB_CE_LATECNT Fld.FAB_CE_LATECNT_COUNT n =
      satAdd 32 (s.rdF .FAB_CE_LATECNT Fld.FAB_CE_LATECNT_COUNT n) 1 := by
  intro t
  have hback := creditBack_within (l := [.out]) (n := []) p (flitsOf p) (by decide)
  have hlater := (contribLand_late howner hbid hlate).trans (run_bumpF ..)
  generalize hs' : (Eff.setReg _ _).apply s = s' at hlater
  have he : s'.engine n = s.engine n := by rw [← hs', engine_setReg]
  have ht : t = ((creditBack p (flitsOf p)).run s').2 := congrArg Prod.snd
    (contribArrive_taken (by rw [if_pos hp.typ_eq]; exact hlater) hnil (by rw [he]; exact hnil))
  refine ⟨by rw [ht, hback.same .ce (by decide), he], ?_⟩
  rw [State.rdF, ht, hback.rd _ (by decide), ← hs']
  exact (State.rdF_setReg_field _ (by decide) _ _ _).trans
    (Nat.mod_eq_of_lt (Nat.lt_of_le_of_lt (Nat.min_le_right _ _) (by decide)))

/-- A CONTRIB of the step in progress is summed into its tile, and a complete tile is presented (R268, R269). -/
theorem contrib_sums (hp : Arrives p 0x10) (hstep : p.step.toNat = (s.binding b).step)
    (hheld : sumHeld s n 1 p.opid.toNat = false) : let t := ((contribArrive n p).run s).2
    let old := (s.engine n).sums.find? fun x => x.is false p
    let x := old.getD (Sum.init false p)
    let y := countIn p x
    old.isSome ∨ ((s.engine n).sums.filter fun x => !x.mem).length + (s.landing n).buf.length < 512 → ∀ r s₁,
      Reads (findOp n b 1 p.opid.toNat) s (some r) s₁ →
      if ∀ q ∈ y.1.got, opG r.1 ≤ q then
        t = ((Prog.all [addFlags .FAB_CE_FLAGS y.2.toNat n, count (setCe n) 0x78,
          Prog.when (!contribGood p) (setF .FAB_CE_ERR Fld.FAB_CE_ERR_POISON n), putSum n x none,
          count (setCe n) 0x79, tilePresent n ⟨y.1.step, y.1.entry, y.1.tile, y.1.data, y.1.poison⟩,
          creditBack p (flitsOf p)]).run s₁).2
      else (t.engine n).sums = (s.engine n).sums.filter (· != x) ++ [y.1] ∧ t.landing n = s.landing n := by
  intro t old x y hroom r s₁ hop
  have hback := creditBack_within (l := [.out]) (n := []) p (flitsOf p) (by decide)
  have hfind := findOp_within n b 1 p.opid.toNat
  have he : s₁.engine n = s.engine n := hop.same hfind .ce (by decide) n
  have hlu : s₁.landing n = s.landing n := hop.same hfind .lu (by decide) n
  obtain ⟨hkept, hopen⟩ := landSum_sums (n := n) (p := p) x (y.1.got.all fun q => decide (opG r.1 ≤ q)) s₁
  have ht : t = ((creditBack p (flitsOf p)).run ((landSum n p x (y.1.got.all fun q => decide (opG r.1 ≤ q))).run s₁).2).2 :=
    congrArg Prod.snd (contribArrive_taken (by rw [if_pos hp.typ_eq]; exact contribLand_sums howner hbid hstep hheld hroom hop) hnil
      (by rw [hkept, he, hnil]))
  split
  · next hfull =>
    rw [ht, show (y.1.got.all fun q => decide (opG r.1 ≤ q)) = true by simpa using hfull]
    simp only [landSum, landNotes, run_all_cons, run_all_nil, run_seq, run_when, if_true, y]
  · next hfull =>
    have hopen := hopen (by simpa using hfull)
    rw [ht, hback.same .ce (by decide), hback.same .lu (by decide), ← he, ← hlu]
    exact hopen

/-- A STATCONTRIB is added to SUMBUF, and its tile is applied to its block once it is complete (R270). -/
theorem statcontrib_sums (hp : Arrives p 0x18) (hheld : sumHeld s n 2 p.opid.toNat = false) :
    let t := ((contribArrive n p).run s).2
    ∀ r s₁, Reads (findOp n b 2 p.opid.toNat) s (some r) s₁ →
      let x := statOld s n p
      ∀ fl s₂, Reads (statAdd n r.1 p x) s₁ fl s₂ →
        let s₃ := ((statSum n p x fl).run s₂).2
        (s₃.engine n).sums = (s.engine n).sums.filter (· != x) ++ [(countIn p x).1] ∧ ∀ y r' s₄,
          ((s₃.engine n).sums.filter fun z => z.is true p) = [y] → Reads (findOp n b 2 y.opid) s₃ (some r') s₄ →
          if (∀ q ∈ y.got, opG r'.1 ≤ q) ∧ mayApply s₄ n r'.1 y = true then
            ∀ s₅, Reads (applyTile n b r'.1 y) s₄ () s₅ → y ∉ (t.engine n).sums ∧ ∀ a, t.byte a = s₅.byte a
          else y ∈ (t.engine n).sums ∧ ∀ a, t.byte a = s₄.byte a := by
  intro t r s₁ hop x fl s₂ hadd s₃
  have hback := creditBack_within (l := [.out]) (n := []) p (flitsOf p) (by decide)
  have hfind := findOp_within n b 2 p.opid.toNat
  have hput := statAdd_within n r.1 p x
  have hsum : (statSum n p x fl).Within ceParts ceNames := statSum_within x
  have he : s₂.engine n = s.engine n := (hadd.same hput .ce (by decide) n).trans (hop.same hfind .ce (by decide) n)
  have hsums : s₃.engine n = { s.engine n with sums := (s.engine n).sums.filter (· != x) ++ [(countIn p x).1] } := by
    rw [← he]
    exact statSum_sums x s₂
  have hown : s₃.ceOwner n = some b := by
    have h₁ := hfind.ceOwner n s (by decide)
    have h₂ := hput.ceOwner n s₁ (by decide)
    rw [hop.run_eq] at h₁
    rw [hadd.run_eq] at h₂
    rw [← howner, hsum.ceOwner n s₂ (by decide), ← h₁]
    exact h₂
  have ht : t = ((creditBack p (flitsOf p)).run ((statApply n p).run s₃).2).2 := congrArg Prod.snd
    (contribArrive_taken (by rw [if_neg hp.typ_ne]; exact contribStat_sums howner hbid hheld hop hadd) hnil
      ((statApply_keeps s₃).trans ((congrArg Ce.held hsums).trans hnil)))
  refine ⟨by rw [hsums], fun y r' s₄ hone hop' => ?_⟩
  rw [ht, hback.same .ce (by decide)]
  simp only [hback.same .mem (by decide) _ _]
  exact statApply_ends hown hone hop'

end Contribution
end Clauses

/-- Settles O38, clause by clause: the operations of the table, the commands, and the two contributions. -/
theorem collectiveEngines : Obligations.CollectiveEngines := by
  unfold Obligations.CollectiveEngines
  refine ⟨fun n s => ⟨?_, ceStop_completes, ceResume_completes⟩, fun n p s b hlu howner hbid => ⟨?_, ?_⟩⟩
  · intro i kind b idx rd s₁ hi howner hworks hlast hruns htab hfresh hroom hrd hkind
    have hkinds : kind = 1 ∨ kind = 2 := by
      rcases List.mem_pair.1 hi with h | h
      · exact .inl (congrArg Prod.snd h)
      · exact .inr (congrArg Prod.snd h)
    have hdue : OpDue s n b idx kind := ⟨howner, hworks, hlast, hkinds, hruns, htab, hfresh, hroom⟩
    refine operation_completes hi ?_
    intro r had rest
    split
    · next hz => exact opStartShow_waits hdue hrd hkind hz
    · next hz => exact opStartShow_starts hdue hrd hkind hz
  · intro hp
    refine contribution_completes (List.mem_cons_self ..) hp hlu fun hnil => ⟨contrib_late howner hbid hnil hp, fun hwait => ?_,
      contrib_sums howner hbid hnil hp⟩
    obtain ⟨he, hout⟩ := WaitsAt.arrive ⟨howner, hbid, by rw [if_pos hp.typ_eq]; exact hwait⟩ hnil
    exact ⟨by rw [he], by rw [he], hout⟩
  · intro hp
    refine contribution_completes (List.mem_cons_of_mem _ (List.mem_cons_self ..)) hp hlu fun hnil => ?_
    split
    · next hheld =>
      obtain ⟨he, hout⟩ := WaitsAt.arrive ⟨howner, hbid, by rw [if_neg hp.typ_ne]; exact hheld⟩ hnil
      exact ⟨by rw [he], hout⟩
    · next hheld => exact statcontrib_sums howner hbid hnil hp (by simpa using hheld)

end Sys2Proof.Machine

/-! ### Programs that leave the bindings alone -/

namespace Sys2Proof.Machine
open Prog

/-- Every part of the state but the bindings. -/
def restParts : List Part :=
  [.reg, .pend, .mem, .mmeta, .err, .pilotSecs, .cl, .codec, .xlt, .invAll, .mov, .lu, .su, .port, .vote, .ce, .store,
   .hornWait, .chan, .keys, .jnl, .flash, .await, .load, .rb, .saves, .hq, .turns, .boot, .pins, .sec, .tel, .fw, .digests,
   .fseq, .lseq, .unread, .epochs, .draws, .out, .pending]

/-- Every register but a binding's state. -/
def restNames : List RegName := RegName.all.filter (· ≠ .BND_STATE)

theorem RegName.mem_all (n : RegName) : n ∈ RegName.all := by
  cases n <;> decide

@[simp] theorem mem_restNames (n : RegName) : n ∈ restNames ↔ n ≠ .BND_STATE := by
  simp [restNames, RegName.mem_all]

@[simp] theorem mem_restParts (p : Part) : p ∈ restParts ↔ p ≠ .bnd := by
  cases p <;> decide

/-- A program that leaves the bindings and their states alone. -/
abbrev Prog.Apart {α : Type} (p : Prog α) : Prop := p.Within restParts restNames

theorem Prog.Within.apart {α : Type} {p : Prog α} {l : List Part} {n : List RegName} (h : p.Within l n)
    (hl : Part.bnd ∉ l) (hn : RegName.BND_STATE ∉ n) : p.Apart :=
  h.mono (fun q hq => (mem_restParts q).2 fun e => hl (e ▸ hq)) (fun q hq => (mem_restNames q).2 fun e => hn (e ▸ hq))

end Sys2Proof.Machine
/-! ### Starting a unit leaves the bindings alone -/

namespace Sys2Proof.Machine
open Prog

section Shared

@[simp] theorem count_apart (set ev k : Nat) (t : Tags) : (count set ev k t).Apart :=
  (count_within _ _ _ _).apart (by decide) (by decide)

@[simp] theorem vget_apart (u : Unit') (a k : Nat) (acc : Acc) : (vget u a k acc).Apart :=
  (vget_within _ _ _ _).apart (by decide) (by decide)

@[simp] theorem vput_apart (u : Unit') (a : Nat) (d : List Byte) : (vput u a d).Apart :=
  (vput_within _ _ _).apart (by decide) (by decide)

@[simp] theorem logFault_apart (u : Unit') (f : Flt) : (logFault u f).Apart :=
  (logFault_within _ _).apart (by decide) (by decide)

@[simp] theorem selfFailure_apart (why : Nat) : (selfFailure why).Apart :=
  (selfFailure_within _).apart (by decide) (by decide)

@[simp] theorem errEvent_apart (o : Out) : (errEvent o).Apart := (errEvent_within_fault _).apart (by decide) (by decide)

@[simp] theorem sendPacket_apart (p : Packet) : (sendPacket p).Apart := (sendPacket_within _).apart (by decide) (by decide)

@[simp] theorem tokenAdd_apart (c x n : Nat) : (tokenAdd c x n).Apart := (tokenAdd_within _ _).apart (by decide) (by decide)

@[simp] theorem freeVal_apart : freeVal.Apart := freeVal_within (by decide)

@[simp] theorem modCl_apart (c : Nat) (f : Cluster → Cluster) : (modCl c f).Apart := fun _ => Within.setCl (by decide)

@[simp] theorem modSu_apart (u : Nat) (f : Su → Su) : (modSu u f).Apart := fun _ => Within.setSu (by decide)

@[simp] theorem modVote_apart (b : Nat) (f : Vote → Vote) : (modVote b f).Apart := fun _ => Within.setVote (by decide)

@[simp] theorem modMov_apart (m : Nat) (f : Mover → Mover) : (modMov m f).Apart := fun _ => Within.setMov (by decide)

@[simp] theorem modHq_apart (q : Nat) (f : HQueue → HQueue) : (modHq q f).Apart := fun _ => Within.setHq (by decide)

@[simp] theorem glbEvent_apart (b : Nat) : (glbEvent b).Apart := by
  simp (maxDischargeDepth := 30) [glbEvent]

end Shared

/-! #### Clusters (R88, R108, R109) -/

section Clusters
variable (c : Nat)

@[simp] theorem showSeq_apart : (showSeq c).Apart := (showSeq_within c).apart (by decide) (by decide)

@[simp] theorem setSeq_apart (x : Nat) : (setSeq c x).Apart := (setSeq_within c x).apart (by decide) (by decide)

@[simp] theorem setVecSt_apart (x : Nat) : (setVecSt c x).Apart := (setVecSt_within c x).apart (by decide) (by decide)

@[simp] theorem showVec_apart : (showVec c).Apart := (showVec_within c).apart (by decide) (by decide)

@[simp] theorem startAt_apart (a : BitVec 48) : (startAt c a).Apart := modCl_apart _ _

@[simp] theorem luCause_apart (u : Nat) (x : Cause) (entry idx : Nat) : (luCause u x entry idx).Apart :=
  (luCause_within _ _ _ _).apart (by decide) (by decide)

@[simp] theorem suOutcome_apart (u code : Nat) : (suOutcome u code).Apart :=
  (suOutcome_within _ _).apart (by decide) (by decide)

@[simp] theorem stopLent_apart (u : Nat) : (stopLent u).Apart := by
  simp (maxDischargeDepth := 30) [stopLent]

theorem lentError_apart : (lentError c).Apart := by
  refine .get fun s => ?_
  dsimp only
  split
  · simp (maxDischargeDepth := 30)
  · split
    · simp (maxDischargeDepth := 30)
    · exact .skip

theorem lentFault_apart (f : Flt) : (lentFault c f).Apart := by
  refine .get fun s => .seq ?_ (lentError_apart c)
  split
  · exact luCause_apart _ _ _ _
  · exact .skip

theorem seqFault_apart (a : BitVec 48) (f : Flt) : (seqFault c a f).Apart := by
  simp (maxDischargeDepth := 30) [seqFault, lentFault_apart]

theorem nonfiniteVote_apart (tag : Nat) : (nonfiniteVote c tag).Apart := by
  simp (maxDischargeDepth := 30) [nonfiniteVote, modRec]

theorem slipPush_apart (x : Tile) : (slipPush c x).Apart := by
  simp (maxDischargeDepth := 30) [slipPush]

/-- What leaves a sequencer touches no binding (R88, R91). -/
theorem release_apart (fuel : Nat) : (release c fuel).Apart := by
  induction fuel with
  | zero => exact .skip
  | succ fuel ih =>
    have hleft (x : Tile) : (tileLeft c x).Apart := (tileLeft_within x).apart (by decide) (by decide)
    rw [release]
    refine .get fun s => ?_
    dsimp only
    split
    · exact .when (setSeq_apart _ _)
    · next h r _ =>
      cases h with
      | signal x n => exact .seq (modCl_apart _ _) (.seq (tokenAdd_apart _ _ _) ih)
      | vote tag => exact .seq (modCl_apart _ _) (.seq (nonfiniteVote_apart _ _) ih)
      | retire x => exact .seq (modCl_apart _ _) (.seq ((retire_within _ _).apart (by decide) (by decide)) ih)
      | tile x =>
        refine .ite (.ite (.seq (modCl_apart _ _) (.seq (slipPush_apart _ _) (.seq (hleft x) ih))) (.when (setSeq_apart _ _))) ?_
        refine .bind ((tileStore_within c x).apart (by decide) (by decide)) fun y => ?_
        cases y with
        | ok _ => exact .seq (modCl_apart _ _) (.seq (hleft x) ih)
        | error f => exact .ite .skip (seqFault_apart _ _ _)

theorem releaseAll_apart : (releaseAll c).Apart := .get fun _ => .ite .skip (release_apart _ _)

theorem squashStep_apart (d : Dec) (a : BitVec 48) : (squashStep c d a).Apart := by
  simp (maxDischargeDepth := 30) [squashStep, countSquash]

theorem settle_apart (fuel : Nat) : (settle c fuel).Apart := by
  induction fuel with
  | zero => exact .skip
  | succ fuel ih =>
    refine .get fun s => ?_
    split
    · split
      · exact .all_cons (modCl_apart _ _) (.all_cons (releaseAll_apart c) (.all_cons ih .all_nil))
      · exact squashStep_apart _ _ _
      · exact .skip
    · exact .skip

variable (k : Fin 32)

theorem aryStartDo_apart : (aryStartDo k).Apart := by
  simp (maxDischargeDepth := 30) [aryStartDo, aryIgnored]

theorem aryResumeDo_apart : (aryResumeDo k).Apart := by
  simp (maxDischargeDepth := 30) [aryResumeDo, aryIgnored, releaseAll_apart, settle_apart]

theorem vecStartDo_apart : (vecStartDo k).Apart := by
  simp (maxDischargeDepth := 30) [vecStartDo]

theorem vecResumeDo_apart : (vecResumeDo k).Apart := by
  simp (maxDischargeDepth := 30) [vecResumeDo]

end Clusters

/-! #### Solver units (R163 to R182) -/

section Solver
variable (u : Nat)

@[simp] theorem setSuState_apart (x : Nat) : (setSuState u x).Apart := .wrF (by decide) (by decide)

@[simp] theorem suWork_apart (x : Nat) : (suWork u x).Apart := by
  simp (maxDischargeDepth := 30) [suWork]

@[simp] theorem suGet_apart (a n : Nat) : (suGet u a n).Apart := by
  simp (maxDischargeDepth := 30) [suGet]

@[simp] theorem suList_apart (a w n : Nat) : (suList u a w n).Apart := by
  simp (maxDischargeDepth := 30) [suList]

@[simp] theorem suPut_apart (a : Nat) (d : List Byte) : (suPut u a d).Apart := by
  simp (maxDischargeDepth := 30) [suPut]

@[simp] theorem suReport_apart (f : Flt) : (suReport u f).Apart := by
  simp (maxDischargeDepth := 30) [suReport]

@[simp] theorem suFaultStop_apart (f : Flt) : (suFaultStop u f).Apart := by
  simp (maxDischargeDepth := 30) [suFaultStop]

theorem suDo_apart {p : Prog (Except Flt Unit)} {f : Flt → Prog Unit} (hp : p.Apart) (hf : ∀ x, (f x).Apart) : (suDo p f).Apart := by
  refine .bind hp fun r => ?_
  cases r with
  | ok _ => exact .skip
  | error x => exact hf x

@[simp] theorem suFlags_apart (f : Flags) : (suFlags u f).Apart := by
  simp (maxDischargeDepth := 30) [suFlags]

@[simp] theorem suEvent_apart (f : Field) : (suEvent u f).Apart := by
  simp (maxDischargeDepth := 30) [suEvent]

@[simp] theorem suFree_apart : (suFree u).Apart := by
  simp (maxDischargeDepth := 30) [suFree]

@[simp] theorem modRound_apart (f : Round → Round) : (modRound u f).Apart := modSu_apart _ _

@[simp] theorem modJob_apart (f : Job → Job) : (modJob u f).Apart := modSu_apart _ _

@[simp] theorem startLent_apart (a : Nat) : (startLent u a).Apart := by
  simp (maxDischargeDepth := 30) [startLent]

theorem newtonStart_apart (x : RootEntry) (r : Round) (c : FacCopy) : (newtonStart u x r c).Apart := by
  simp (maxDischargeDepth := 30) [newtonStart]

theorem newtonGo_apart : (newtonGo u).Apart := by
  refine .get fun s => ?_
  split
  · split
    · exact suDo_apart (.bindE (suGet_apart _ _ _) fun _ => newtonStart_apart _ _ _ _) (suFaultStop_apart _)
    · exact .skip
  · exact .skip

@[simp] theorem statMod_apart (a : Nat) (f : Nat → Nat) : (statMod u a f).Apart := by
  simp (maxDischargeDepth := 30) [statMod]

@[simp] theorem jobEnd_apart (a code : Nat) : (jobEnd u a code).Apart := by
  simp (maxDischargeDepth := 30) [jobEnd, suDo_apart]

theorem readCsr_apart (t : Struct) : (readCsr u t).Apart := by
  simp (maxDischargeDepth := 30) [readCsr]

theorem loadRun_apart (d : JobDesc) : (loadRun u d).Apart := by
  simp (maxDischargeDepth := 30) [loadRun]

theorem requestEval_apart (d : JobDesc) : (requestEval u d).Apart := by
  simp (maxDischargeDepth := 30) [requestEval]

theorem setupRun_apart (d : JobDesc) : (setupRun u d).Apart := by
  simp (maxDischargeDepth := 30) [setupRun, jobIllegal, readCsr_apart, requestEval_apart]

theorem jobGo_apart : (jobGo u).Apart := by
  refine .get fun s => ?_
  split
  · exact .skip
  · dsimp only
    split
    · exact suDo_apart (loadRun_apart _ _) (suFaultStop_apart _)
    · exact suDo_apart (setupRun_apart _ _) (suFaultStop_apart _)
    · exact suDo_apart (requestEval_apart _ _) (suFaultStop_apart _)
    · exact .skip
    · exact .skip

theorem slvResumeDo_apart (n : Fin 2) : (slvResumeDo n).Apart := by
  refine .get fun s => .ite (.setF (by decide) (by decide)) (.seq (.ite (suWork_apart _ _) (setSuState_apart _ _)) ?_)
  split
  · exact .when (jobGo_apart _)
  · refine .ite .skip (.ite (newtonGo_apart _) (suDo_apart (.bindE (suGet_apart _ _ _) fun _ => ?_) (suFaultStop_apart _)))
    exact .seq (startLent_apart _ _) (.ret _)
  · exact .skip

end Solver
end Sys2Proof.Machine
/-! ### Starting an engine, a mover or a channel leaves the bindings alone -/

namespace Sys2Proof.Machine
open Prog

/-! #### Collective engines (R266 to R271) -/

section Engines
variable (n : Nat)

@[simp] theorem modCe_apart (f : Ce → Ce) : (modCe n f).Apart := modCe_within n (by decide)

@[simp] theorem ceShow_apart : (ceShow n).Apart := (ceShow_within n).apart (by decide) (by decide)

@[simp] theorem ceFault_apart (a : Nat) (f : Flt) : (ceFault n a f).Apart := (ceFault_within n a f).apart (by decide) (by decide)

theorem contribArrive_apart (p : Packet) : (contribArrive n p).Apart := (contribArrive_within n p).apart (by decide) (by decide)

theorem stagedTile_apart {u : Unit'} {d : Desc} {j : Nat} {p : Prog (Except Flt (List (Byte × Bool)))}
    (h : stagedTile u d j = p) : p.Apart := by
  rw [← h]
  unfold stagedTile
  dsimp only
  generalize joinRuns _ = runs
  exact .bindE (.mapE fun _ => (vread_within _ _ _ _).apart (by decide) (by decide)) fun _ => .ret _

theorem opSend_apart (b : Nat) (d : Desc) (group : List Nat) (fuel : Nat) (o : CeOp) : (opSend n b d group fuel o).Apart := by
  induction fuel generalizing o with
  | zero => exact .skip
  | succ fuel ih =>
    rw [opSend]
    refine .get fun s => ?_
    generalize htile : stagedTile (ceUnit s n) d o.sent = tile
    refine .ite (.seq (modCe_apart _ _) (tokenAdd_apart _ _ _)) (.bind (stagedTile_apart htile) fun x => ?_)
    split
    · exact .seq (modCe_apart _ _) (ceFault_apart _ _ _)
    · exact .seq (.each fun p => .ite (contribArrive_apart _ _) (sendPacket_apart _)) (ih _)

theorem opRun_apart (b : Nat) (o : CeOp) : (opRun n b o).Apart := by
  refine .get fun s => .bind (.bindE (vget_apart _ _ _ _) fun _ => .bindE (vget_apart _ _ _ _) fun _ => .ret _) fun x => ?_
  split
  · exact ceFault_apart _ _ _
  · exact opSend_apart _ _ _ _ _ _

theorem ceRetry_apart : (ceRetry n).Apart := (ceRetry_within n).apart (by decide) (by decide)

theorem ceResumeDo_apart (n : Fin 4) : (ceResumeDo n).Apart := by
  have hready (xs : List Sum) : (applyReady n xs).Apart := (applyReady_within n xs).apart (by decide) (by decide)
  simp (maxDischargeDepth := 30) [ceResumeDo, hready, ceRetry_apart, opRun_apart]

theorem ceNewStep_apart (step : Nat) : (ceNewStep n step).Apart := .seq (modCe_apart _ _) (ceRetry_apart n)

end Engines

/-! #### Movers (R229 to R235) -/

section Movers
variable (m : Nat)

@[simp] theorem movShow_apart : (movShow m).Apart := by
  simp (maxDischargeDepth := 30) [movShow, setMovState]

theorem putStatus_apart (idx w st : Nat) {ok : Prog Unit} (h : ok.Apart) : (putStatus m idx w st ok).Apart := by
  refine .get fun s => .bind (vput_apart _ _ _) fun r => ?_
  cases r with
  | ok _ => exact h
  | error f => simp (maxDischargeDepth := 30) [modFlight]

theorem illegalDesc_apart (idx : Nat) : (illegalDesc m idx).Apart := by
  simp (maxDischargeDepth := 30) [illegalDesc, dropFlight, putStatus_apart]

theorem badDest_apart (u : Unit') (d : BitVec 512) : (badDest u d).Apart := by
  have hon (a : Nat) : (onCompressed u a).Apart := by
    refine .bind ((translate_within _ _ _).apart (by decide) (by decide)) fun r => ?_
    cases r <;> exact .ret _
  simp (maxDischargeDepth := 30) [badDest, badElement, hon]

theorem startReady_apart (fs before : List Flight) : (startReady m fs before).Apart := by
  induction fs generalizing before with
  | nil => exact .skip
  | cons f r ih =>
    simp (maxDischargeDepth := 30) [startReady, ih, badDest_apart, illegalDesc_apart, modFlight]

theorem movResumeDo_apart : (movResumeDo m).Apart := by
  simp (maxDischargeDepth := 30) [movResumeDo, setMovState, movStart, startReady_apart]

end Movers

/-! #### Channels (R291, R295, R296) -/

section Channels
variable (ch num : Nat) (map : List MapRec)

@[simp] theorem modCh_apart (f : Chan → Chan) : (modCh ch f).Apart := modCh_within (by decide)

@[simp] theorem modRx_apart (f : RxStream → RxStream) : (modRx ch num f).Apart := modCh_apart _ _

@[simp] theorem sendCtl_apart (typ stream group : Nat) (body : List Byte) : (sendCtl ch typ stream group body).Apart :=
  (sendCtl_within ch typ stream group body).apart (by decide) (by decide)

theorem remeasure_apart : (remeasure ch).Apart := by
  simp (maxDischargeDepth := 30) [remeasure, setChState]

theorem sendCross_apart (r : MapRec) (index opid fmt : Nat) (d : List Byte) : (sendCross ch r index opid fmt d).Apart :=
  .get fun _ => sendPacket_apart _

theorem giveSegment_apart (seg : Nat) (d : List Byte) : (giveSegment ch num map seg d).Apart := by
  refine .get fun s => ?_
  split
  · simp (maxDischargeDepth := 30) [sendCross_apart]
  · simp (maxDischargeDepth := 30)
  · exact .skip

theorem wakeRecords_apart (tid : Nat) (t : BitVec 1024) : (wakeRecords ch num map tid t).Apart := by
  refine .get fun s => ?_
  split
  · exact .skip
  · refine .each fun w => ?_
    split
    · exact .seq (modRx_apart _ _ _) (giveSegment_apart _ _ _ _ _)
    · exact .skip

theorem takeRecord_apart (hd : Nat) (body : List Byte) : (takeRecord ch num map hd body).Apart := by
  refine .get fun s => ?_
  dsimp only
  split
  · exact .skip
  · refine .ite (.seq (modRx_apart _ _ _) (wakeRecords_apart _ _ _ _ _)) (.ite (giveSegment_apart _ _ _ _ _)
      (.ite (.seq (modRx_apart _ _ _) (giveSegment_apart _ _ _ _ _)) ?_))
    split
    · exact giveSegment_apart _ _ _ _ _
    · exact modRx_apart _ _ _

theorem takeRecords_apart (fuel : Nat) : (takeRecords ch num map fuel).Apart := by
  induction fuel with
  | zero => exact .skip
  | succ fuel ih =>
    refine .get fun s => ?_
    split
    · exact .skip
    · exact .ite .skip (.all_cons (modRx_apart _ _ _) (.all_cons (takeRecord_apart _ _ _ _ _) (.all_cons ih .all_nil)))

theorem closeStream_apart : (closeStream ch num).Apart := by
  refine .get fun s => ?_
  split
  · exact .skip
  · exact .seq (modCh_apart _ _) (sendCtl_apart _ _ _ _ _)

theorem joinFinish_apart (m : Nat) : (joinFinish ch m).Apart := by
  simp (maxDischargeDepth := 30) [joinFinish, setChState]

theorem checkWhole_apart : (checkWhole ch num map).Apart := by
  refine .get fun s => ?_
  split
  · exact .skip
  · simp (maxDischargeDepth := 30) [sendNack, closeStream_apart, joinFinish_apart]

theorem retireStreams_apart : (retireStreams ch).Apart := by
  have hjournal (b : Nat) : (journalBerth b).Apart := by
    simp (maxDischargeDepth := 30) [journalBerth, jnlHand]
  refine .get fun s => ?_
  split
  · refine .when (.get fun s => ?_)
    split
    · exact .skip
    · simp (maxDischargeDepth := 30) [holdBerth, hjournal]
  · exact .skip

theorem landBytes_apart : (landBytes ch num).Apart := by
  have hput (ring : RegName) (idx off : Nat) (d : List Byte) : (putDesc ring ch idx off d).Apart :=
    (putDesc_within ch ring idx off d).apart (by decide) (by decide)
  have hsignal (d : BitVec 512) : (fdSignal d).Apart := (fdSignal_within d).apart (by decide) (by decide)
  refine .get fun s => ?_
  split
  · exact .skip
  · refine .bind (.ite (.ret _) (vput_apart _ _ _)) fun x => ?_
    cases x with
    | error f => exact .seq ((chanFault_within ch f).apart (by decide) (by decide)) (hput _ _ _ _)
    | ok _ => simp (maxDischargeDepth := 30) [hput, hsignal, closeStream_apart, retireStreams_apart]

theorem deliverRx_apart : (deliverRx ch num).Apart := by
  refine .get fun s => .ite (.bind ((readMap_within _).apart (by decide) (by decide)) fun m => ?_) (landBytes_apart _ _)
  cases m with
  | error f => exact (chanFault_within ch f).apart (by decide) (by decide)
  | ok map => exact .seq (takeRecords_apart _ _ _ _) (checkWhole_apart _ _ _)

theorem chResumeDo_apart : (chResumeDo ch).Apart := by
  simp (maxDischargeDepth := 30) [chResumeDo, remeasure_apart, deliverRx_apart]

end Channels

/-! #### A binding's units, and its step (R24, R397) -/

section Units

theorem fryShow_apart : fryShow.Apart := by
  simp (maxDischargeDepth := 30) [fryShow]

/-- A resource started or resumed touches no binding. -/
theorem startUnit_apart (i : Nat) : (startUnit i).Apart := by
  simp (maxDischargeDepth := 30) [startUnit, aryStartDo_apart, aryResumeDo_apart, vecStartDo_apart, vecResumeDo_apart,
    slvResumeDo_apart, ceResumeDo_apart, movResumeDo_apart, fryShow_apart, chResumeDo_apart]

theorem luNewStep_apart (u step : Nat) (outer : Bool) : (luNewStep u step outer).Apart := by
  have htile (t : LandTile) : (tileArrive u t).Apart := (tileArrive_within u t).apart (by decide) (by decide)
  have hshow : (luShow u).Apart := (luShow_within u).apart (by decide) (by decide)
  simp (maxDischargeDepth := 30) [luNewStep, htile, hshow]

theorem hornNewStep_apart (b step : Nat) : (hornNewStep b step).Apart := by
  simp (maxDischargeDepth := 30) [hornNewStep]

theorem beginStep_apart (b step : Nat) : (beginStep b step).Apart := by
  simp (maxDischargeDepth := 30) [beginStep, luNewStep_apart, ceNewStep_apart, hornNewStep_apart]

theorem showCounts_apart : showCounts.Apart := by
  simp (maxDischargeDepth := 30) [showCounts]

/-- A command of a queue that completes touches no binding (R394, R396). -/
theorem complete_apart (q status detail result : Nat) : (complete q status detail result).Apart := by
  have hput (a : Nat) (d : List Byte) : (physPut a d).Apart := (physPut_within a d).apart (by decide) (by decide)
  refine .get fun s => ?_
  dsimp only
  split
  · exact .skip
  · simp (maxDischargeDepth := 30) [writeCompletion, setQstate, hput]

theorem showDevice_apart : showDevice.Apart := by
  simp (maxDischargeDepth := 30) [showDevice, abortCommands, complete_apart]

end Units
end Sys2Proof.Machine
/-! ### A binding starts (R338, R397) -/

namespace Sys2Proof.Machine
open Prog

section Bindings
variable {α : Type} (s : State) (b : Nat)

@[simp] theorem run_modBnd (f : Binding → Binding) : (modBnd b f).run s = ((), (Eff.setBnd b (f (s.binding b))).apply s) := rfl

@[simp] theorem binding_setBnd (v : Binding) (x : Nat) :
    ((Eff.setBnd b v).apply s).binding x = if x = b then v else s.binding x := by
  unfold State.binding; rw [Eff.setBnd_bnd, Tab.at_upd]

/-- A binding and its state. -/
def State.standing : Nat × Binding := (s.bstate b, s.binding b)

variable {b}

theorem Prog.Within.keeps_standing {p : Prog α} (h : p.Apart) : p.Keeps fun s => s.standing b := fun s =>
  Prod.ext (congrArg (getF Fld.BND_STATE_STATE) (h.rd .BND_STATE (by simp) b 0 s)) (h.same .bnd (by simp) s b)

end Bindings

section Starts
variable {s : State} {a b st : Nat}

/-- What shows the change of a binding's state (R400). -/
theorem stateShown_apart : ((glbEvent 2).seq showDevice).Apart := .seq (glbEvent_apart _) showDevice_apart

/-- A binding takes a state, and keeps what else it holds (R324). -/
theorem setBstate_standing (hst : st < 8) : ((setBstate b st).run s).2.standing b = (st, s.binding b) := by
  rw [setBstate, run_get]
  by_cases h : s.bstate b = st
  · rw [if_pos h, run_skip, State.standing, h]
  · rw [if_neg h, run_all_cons, run_wrF, run_all_cons, run_all_cons, run_all_nil, ← run_seq]
    refine (stateShown_apart.keeps_standing _).trans (Prod.ext ?_ rfl)
    exact (State.rdF_setReg_field _ (by decide) b 0 st).trans (Nat.mod_eq_of_lt hst)

/-- Another binding stands as it did. -/
theorem setBstate_keeps (h : a ≠ b) : (setBstate b st).Keeps fun s => s.standing a := by
  refine .get fun s => .ite .skip (.all_cons (fun s => ?_) (.all_cons (glbEvent_apart _).keeps_standing
    (.all_cons showDevice_apart.keeps_standing .all_nil)))
  have hrd := State.rd_setReg_ne s ⟨.BND_STATE, b, 0⟩ (putF Fld.BND_STATE_STATE (s.rd .BND_STATE b) st) .BND_STATE a 0 (by simp [h])
  exact Prod.ext (congrArg (getF Fld.BND_STATE_STATE) hrd) rfl

/-- Resources start, and a binding becomes STEPPING and begins a step (R397). -/
def unitsStart (l : List Nat) (b step : Nat) : Prog Unit := Prog.all [Prog.each l startUnit,
  modBnd b fun k => { k with halted := false }, setBstate b 3, showCounts, beginStep b step]

theorem startBinding_eq : startBinding b = .get fun s => unitsStart (resList (s.owned b)) b (s.binding b).step := rfl

theorem startUnits_keep (l : List Nat) : (Prog.each l startUnit).Keeps fun s => s.standing a :=
  .each fun i => (startUnit_apart i).keeps_standing

/-- A binding's start leaves every other binding. -/
theorem startBinding_keeps (h : a ≠ b) : (startBinding b).Keeps fun s => s.standing a := by
  have hmod (f : Binding → Binding) : (modBnd b f).Keeps fun s => s.standing a := fun s =>
    Prod.ext rfl ((binding_setBnd _ _ _ _).trans (if_neg h))
  rw [startBinding_eq]
  exact .get fun s => .all_cons (startUnits_keep _) (.all_cons (hmod _) (.all_cons (setBstate_keeps h)
    (.all_cons showCounts_apart.keeps_standing (.all_cons (beginStep_apart _ _).keeps_standing .all_nil))))

theorem unitsStart_standing (l : List Nat) (n : Nat) :
    ((unitsStart l b n).run s).2.standing b = (3, { s.binding b with halted := false }) := by
  have hunits : ((Prog.each l startUnit).run s).2.binding b = s.binding b := congrArg Prod.snd (startUnits_keep l s)
  have hafter : (showCounts.seq (beginStep b n)).Apart := .seq showCounts_apart (beginStep_apart _ _)
  simp only [unitsStart, run_all_cons, run_all_nil]
  rw [← run_seq showCounts]
  refine (hafter.keeps_standing _).trans ((setBstate_standing (by decide)).trans ?_)
  rw [run_modBnd, binding_setBnd, if_pos rfl, hunits]

/-- A binding that starts is STEPPING, and holds what it held (R397). -/
theorem startBinding_standing : ((startBinding b).run s).2.standing b = (3, { s.binding b with halted := false }) := by
  rw [startBinding_eq, run_get]
  exact unitsStart_standing _ _

end Starts
end Sys2Proof.Machine

/-! ### Takeovers (R337, R338) -/

namespace Sys2Proof.Machine
open Prog

/-- What the program of one element establishes and no other's undoes holds once all have run. -/
theorem each_establishes {α : Type} {P : State → Prop} {f : α → Prog Unit} {b : α} (hown : ∀ s, P ((f b).run s).2)
    (hkeep : ∀ a s, P s → P ((f a).run s).2) {xs : List α} (hb : b ∈ xs) (s : State) : P ((Prog.each xs f).run s).2 := by
  have hkeeps (ys : List α) (s : State) (h : P s) : P ((Prog.each ys f).run s).2 := by
    induction ys generalizing s with
    | nil => exact h
    | cons a ys ih =>
      rw [run_each_cons]
      exact ih _ (hkeep a s h)
  induction xs generalizing s with
  | nil => exact absurd hb (List.not_mem_nil)
  | cons a xs ih =>
    rw [run_each_cons]
    rcases List.mem_cons.1 hb with rfl | hb
    · exact hkeeps xs _ (hown s)
    · exact ih hb _

section Terms
variable {s : State} {term : Nat} {p : Prog Unit}

@[simp] theorem run_modFw (f : Fw → Fw) (s : State) : (modFw f).run s = ((), (Eff.setFw (f s.fw)).apply s) := rfl

/-- The state once a message's term stands (R327). -/
def State.inTerm (s : State) (term : Nat) : State :=
  (Eff.setFw { s.fw with term := term, office := s.fw.office && term == s.fw.term }).apply s

/-- A message of a lower term is discarded; any other sets the term and is acted on (R327). -/
theorem ofTerm_run : (ofTerm term p).run s = if term < s.fw.term then ((), s) else p.run (s.inTerm term) := by
  rw [ofTerm, run_get]
  split
  · rfl
  · rw [run_seq, run_modFw]
    rfl

end Terms

section Prepare
variable {s : State} {term : Nat} {log relief : BitVec 15}

/-- PREPARE is answered for every stepping binding (R338). -/
theorem prepare_completes : Completes (.prepare term log relief) s fun t =>
    if term < s.fw.term then t = s
    else t.fw.term = term ∧ ∀ b ∈ s.jobs,
      let num (x : Option Nat) : List Byte := (match x with | some g => 1 :: leBytes 4 g | none => 0 :: leBytes 4 0)
      Out.firmware 0x06 (some s.fw.warden) (4 :: leBytes 2 log.toNat ++ leBytes 2 relief.toNat ++
        leBytes 2 (s.rdF .BND_JOB Fld.BND_JOB_BID b) ++ num (s.binding b).gen ++ num (s.binding b).rewound) ∈ t.out := by
  refine .of_next rfl ?_
  rw [ofTerm_run]
  split
  · rfl
  · refine ⟨?_, fun b hb => ?_⟩
    · exact Keeps.each (g := fun s => s.fw.term) (fun _ => .one fun _ => rfl) _
    · refine each_establishes (P := fun t => _ ∈ t.out) (fun s => ?_) (fun a s h => ?_) hb _
      · exact List.mem_cons_self ..
      · exact List.mem_cons_of_mem _ h

end Prepare

section Go
variable {s : State} {term gen : Nat} {log relief : BitVec 15} {dead : List (BitVec 16 × BitVec 16)}

/-- What a posted write of the horn engine's blocks changes. -/
theorem fabRemapDo_within (l : Fin 32768) (v : BitVec 64) :
    (fabRemapDo l v).Within readParts ([.FAB_HORN_STATUS, .FAB_HORN_ERR, .FAB_REMAP] ++ memNames) := by
  have hcount : (count (setPort 0) 0x03).Within readParts ([.FAB_HORN_STATUS, .FAB_HORN_ERR, .FAB_REMAP] ++ memNames) :=
    (count_within _ _ _ _).mono (by decide) (by decide)
  refine .get fun s => .ite (.seq (.setF (by decide) (by decide)) hcount) ?_
  exact .seq (.wrF (by decide) (by decide)) (.wr (by decide) (by decide))

/-- A remap entry written while no posted write is in progress takes effect at once (R251). -/
theorem fabRemapDo_rd (l : Fin 32768) (v : BitVec 64) (h : s.wbusy .horn = false) :
    ((fabRemapDo l v).run s).2.rd .FAB_REMAP l = v &&& regMask .FAB_REMAP := by
  rw [fabRemapDo, posted, run_get, if_neg (by simp [h]), run_seq, run_wr, State.rd_setReg_same _ _ _ _ _ (by decide)]

/-- A pending value replaced reads as what replaced it, in its implemented bits (R306). -/
theorem pendWrite_pending (k : RegKey) (v : Word) : ((pendWrite k v).run s).2.pending' k = v &&& regMask k.name := by
  rw [pendWrite, run_get, run_one, State.pending', Eff.setPend_pend, SMap.get_put_same]
  split
  · next h => exact h.symm
  · rfl

/-- A field just set reads as what was set, cut to its width. -/
theorem getF_putF (f : Field) (v : Word) (x : Nat) (h : f.lo + f.w ≤ 64) : getF f (putF f v x) = x % 2 ^ f.w := by
  simpa only [BitVec.and_allOnes] using getF_putF_mask f v (BitVec.allOnes 64) x h BitVec.and_allOnes

/-- The relief device keeps the keys it may not sign under, takes the coordinate, and asks for the area (R338, R339). -/
def takeCoordinate (s : State) (gen : Nat) (log : BitVec 15) (dead : List (BitVec 16 × BitVec 16)) : Prog Unit :=
  (modFw fun f => { f with dead := dead.map fun e => (e.1.toNat, e.2.toNat) }).seq <|
    (pendWrite ⟨.FAB_COORD, 0, 0⟩ (putF Fld.FAB_COORD_LVALID (putF Fld.FAB_COORD_LOG (s.pending' ⟨.FAB_COORD, 0, 0⟩) log.toNat) 1)).seq
      (.one (.emit (.getArea (s.neighbour log.toNat 0 true) gen)))

/-- Every other device begins its rewind (R338). -/
def beginRewinds (s : State) (gen : Nat) : Prog Unit := Prog.each s.jobs fun b => modBnd b fun k => { k with rewound := some gen }

theorem takeCoordinate_within : (takeCoordinate s gen log dead).Within [.fw, .pend, .out] [] := by
  refine .seq (modFw_within (by decide)) (.seq (.get fun s => .setPend (by decide)) (.emit (by decide)))

theorem beginRewinds_within : (beginRewinds s gen).Within [.bnd] [] := .each fun _ _ => Within.setBnd (by decide)

/-- The coordinate that a relief device takes is pending, with its area asked for (R338). -/
theorem takeCoordinate_takes (m : State) : let t := ((takeCoordinate s gen log dead).run m).2
    t.fw.term = m.fw.term ∧ t.fw.dead = dead.map (fun e => (e.1.toNat, e.2.toNat)) ∧
    getF Fld.FAB_COORD_LOG (t.pending' ⟨.FAB_COORD, 0, 0⟩) = log.toNat ∧
    getF Fld.FAB_COORD_LVALID (t.pending' ⟨.FAB_COORD, 0, 0⟩) = 1 ∧
    Out.getArea (s.neighbour log.toNat 0 true) gen ∈ t.out := by
  intro t
  have hpend : t.pending' ⟨.FAB_COORD, 0, 0⟩ = _ := pendWrite_pending ⟨.FAB_COORD, 0, 0⟩
    (putF Fld.FAB_COORD_LVALID (putF Fld.FAB_COORD_LOG (s.pending' ⟨.FAB_COORD, 0, 0⟩) log.toNat) 1)
      (s := (Eff.setFw { m.fw with dead := dead.map fun e => (e.1.toNat, e.2.toNat) }).apply m)
  refine ⟨rfl, rfl, ?_, ?_, List.mem_cons_self ..⟩
  · rw [hpend, getF_mask _ _ _ (by decide) (by decide), getF_putF_ne _ _ _ _ (by decide) (by decide),
      getF_putF _ _ _ (by decide)]
    exact Nat.mod_eq_of_lt log.isLt
  · rw [hpend, getF_putF_mask _ _ _ _ (by decide) (by decide)]
    rfl

/-- GO moves the failed coordinate, which the relief device takes and for which every other rewinds (R338). -/
theorem go_completes : Completes (.go term gen log relief dead) s fun t =>
    if term < s.fw.term then t = s
    else t.fw.term = term ∧
      (s.wbusy .horn = false → t.rd .FAB_REMAP log.toNat = BitVec.ofNat 64 (relief.toNat + 2 ^ 15)) ∧
      if relief.toNat = s.ownPhys then
        t.fw.dead = dead.map (fun e => (e.1.toNat, e.2.toNat)) ∧
        getF Fld.FAB_COORD_LOG (t.pending' ⟨.FAB_COORD, 0, 0⟩) = log.toNat ∧
        getF Fld.FAB_COORD_LVALID (t.pending' ⟨.FAB_COORD, 0, 0⟩) = 1 ∧
        Out.getArea (s.neighbour log.toNat 0 true) gen ∈ t.out
      else ∀ b ∈ s.jobs, (t.binding b).rewound = some gen := by
  refine .of_next (p := ofTerm term ((fabRemapDo (finOf 32768 (by decide) log.toNat) (BitVec.ofNat 64 (relief.toNat + 2 ^ 15))).seq
    (if relief.toNat = s.ownPhys then takeCoordinate s gen log dead else beginRewinds s gen))) rfl ?_
  rw [ofTerm_run]
  split
  · rfl
  · rw [run_seq]
    generalize hm : ((fabRemapDo _ _).run (s.inTerm term)).2 = m
    have hterm : m.fw.term = term := by
      rw [← hm, (fabRemapDo_within _ _).same .fw (by decide)]
      rfl
    have hremap (h : s.wbusy .horn = false) : m.rd .FAB_REMAP log.toNat = BitVec.ofNat 64 (relief.toNat + 2 ^ 15) := by
      have hl : (finOf 32768 (by decide) log.toNat : Nat) = log.toNat := Nat.mod_eq_of_lt log.isLt
      have hrd := fabRemapDo_rd (s := s.inTerm term) (finOf 32768 (by decide) log.toNat) (BitVec.ofNat 64 (relief.toNat + 2 ^ 15)) h
      rw [hm, hl] at hrd
      refine hrd.trans (BitVec.eq_of_toNat_eq ?_)
      have hmask : (regMask .FAB_REMAP).toNat = 2 ^ 16 - 1 := rfl
      have := relief.isLt
      rw [BitVec.toNat_and, hmask, Nat.and_two_pow_sub_one_eq_mod, BitVec.toNat_ofNat]
      omega
    split
    · obtain ⟨hsame, htakes⟩ := takeCoordinate_takes (s := s) (gen := gen) (log := log) (dead := dead) m
      exact ⟨hsame.trans hterm, fun h => (takeCoordinate_within.rd _ (by decide) _ _ m).trans (hremap h), htakes⟩
    · refine ⟨?_, fun h => (beginRewinds_within.rd _ (by decide) _ _ m).trans (hremap h), fun b hb => ?_⟩
      · rw [beginRewinds_within.same .fw (by decide), hterm]
      · refine each_establishes (P := fun t => (t.binding b).rewound = some gen) (fun s => ?_) (fun a s h => ?_) hb m
        · rw [run_modBnd, binding_setBnd, if_pos rfl]
        · rw [run_modBnd, binding_setBnd]
          split
          · rfl
          · exact h

end Go

section Run
variable {s : State} {term : Nat}

/-- RUN starts the rewound bindings that are idle (R338). -/
theorem run_completes : Completes (.run term) s fun t =>
    if term < s.fw.term then t = s
    else ∀ b ∈ s.jobs, (s.binding b).rewound.isSome → s.bstate b = 2 → (t.binding b).rewound = none ∧ t.bstate b = 3 := by
  refine .of_next rfl ?_
  rw [run_when]
  by_cases h : term < s.fw.term
  · rw [if_pos h, if_neg (by simpa using h)]
  · rw [if_neg h, if_pos (by simpa using h)]
    intro b hb hrewound hidle
    have hown (m : State) : ((modBnd b fun k => { k with rewound := none }).seq (startBinding b)).run m =
        (startBinding b).run ((Eff.setBnd b { m.binding b with rewound := none }).apply m) := run_seq ..
    have hjob (a : Nat) (hab : b ≠ a) : ((modBnd a fun k => { k with rewound := none }).seq (startBinding a)).Keeps
        fun s => s.standing b :=
      .seq (fun m => Prod.ext rfl (by rw [run_modBnd]; exact (binding_setBnd _ _ _ _).trans (if_neg hab))) (startBinding_keeps hab)
    have hstands (m : State) : let t := (((modBnd b fun k => { k with rewound := none }).seq (startBinding b)).run m).2
        (t.binding b).rewound = none ∧ t.bstate b = 3 := by
      have h := startBinding_standing (s := (Eff.setBnd b { m.binding b with rewound := none }).apply m) (b := b)
      rw [binding_setBnd, if_pos rfl] at h
      rw [hown]
      exact ⟨congrArg (fun x => x.2.rewound) h, congrArg Prod.fst h⟩
    refine each_establishes (P := fun t => (t.binding b).rewound = none ∧ t.bstate b = 3) (fun m => ?_) (fun a m h => ?_) hb s
    · rw [run_when, if_pos (by simp [hrewound, hidle])]
      exact hstands m
    · rw [run_when]
      split
      · by_cases hab : b = a
        · exact hab ▸ hstands m
        · have hk := hjob a hab m
          exact ⟨(congrArg (fun x => x.2.rewound) hk).trans h.1, (congrArg Prod.fst hk).trans h.2⟩
      · exact h

end Run
end Sys2Proof.Machine
/-! ### Generations (R330 to R335) -/

namespace Sys2Proof.Machine
open Prog

/-- The number of a binding's next generation (R330). -/
def Binding.next (k : Binding) : Nat := match k.gen with
  | some n => n + 1
  | none => 0

section Generations
variable {b : Fin 8} {s : State}

/-- The condition under which a generation is begun: a stepping binding whose last step was committed, and reached `g` × *K*
(R330, R333). -/
structure CaptureDue (b : Fin 8) (cap : Capture) (s : State) : Prop where
  steps   : s.bstate b = 3
  idle    : (s.binding b).genRun = none
  commit  : ((s.votes b).decided ((s.binding b).step - 1)).any (fun d => d.dec) = true
  reached : (s.binding b).next * (s.binding b).ckpt ≤ (s.binding b).step - 1
  mover   : s.hasUnit b (10 + cap.mover) = true

theorem captureDue_iff {cap : Capture} : CaptureDue b cap s ↔ s.bstate b = 3 ∧ (s.binding b).genRun = none ∧
    ((s.votes b).decided ((s.binding b).step - 1)).any (fun d => d.dec) = true ∧
    (s.binding b).next * (s.binding b).ckpt ≤ (s.binding b).step - 1 ∧ s.hasUnit b (10 + cap.mover) = true :=
  ⟨fun ⟨hsteps, hidle, hcommit, hreached, hmover⟩ => ⟨hsteps, hidle, hcommit, hreached, hmover⟩,
    fun ⟨hsteps, hidle, hcommit, hreached, hmover⟩ => ⟨hsteps, hidle, hcommit, hreached, hmover⟩⟩

/-- A fault of a copy is logged, and begins no generation. -/
def captureStops (u : Unit') (f : Flt) : Prog Unit := if f.isWait then .skip else logFault u f

/-- The copy of a generation's pieces and its manifest (R331, R334). -/
def captureRun (b : Fin 8) (cap : Capture) (s : State) : Prog Unit :=
  (captureAll b cap (manifestHeader s b (s.binding b).next cap.pieces.length)).bind fun r => match r with
    | .error f => captureStops (movUnit s cap.mover) f
    | .ok _ => modBnd b fun k => { k with genRun := some ⟨(s.binding b).next, 1, BitVec.ofNat 512 (leNat
        ((manifestBytes (manifestHeader s b (s.binding b).next cap.pieces.length) cap.pieces).take 64))⟩ }

/-- The copy of a generation, where no factor block is in a decay (R127, R330). -/
def captureBegin (b : Fin 8) (cap : Capture) (s : State) : Prog Unit :=
  (factorsEven (movUnit s cap.mover) cap).bind fun e => match e with
    | .error f => captureStops (movUnit s cap.mover) f
    | .ok even => Prog.when even (captureRun b cap s)

/-- What begins a generation, step by step. -/
theorem exec_checkpointGeneration (cap : Capture) : exec (.checkpointGeneration b cap) s =
    (if s.bstate b ≠ 3 || (s.binding b).genRun.isSome ||
        !(((s.votes b).decided ((s.binding b).step - 1)).any fun (d : Decided) => d.dec) ||
        decide ((s.binding b).step - 1 < (s.binding b).next * (s.binding b).ckpt) || !s.hasUnit b (10 + cap.mover) then Prog.skip
     else if s.storing b && (s.binding b).store == some ((s.binding b).next - 2) && decide (2 ≤ (s.binding b).next) then
       modBnd b fun k => { k with defers := k.defers + 1 }
     else captureBegin b cap s).next s := rfl

/-- A generation that is not due is not begun. -/
theorem checkpointGeneration_waits {cap : Capture} (h : ¬ CaptureDue b cap s) :
    Completes (.checkpointGeneration b cap) s fun t => t = s := by
  refine .of_next (exec_checkpointGeneration cap) ?_
  rw [if_pos]
  · rfl
  · by_contra hno
    simp only [Bool.or_eq_true, not_or, Bool.not_eq_true, decide_eq_false_iff_not, Bool.not_eq_false', not_not] at hno
    obtain ⟨⟨⟨⟨hsteps, hidle⟩, hcommit⟩, hreached⟩, hmover⟩ := hno
    exact h ⟨hsteps, by simpa using hidle, hcommit, Nat.not_lt.1 hreached, hmover⟩

/-- A generation that is due is deferred, or copied. -/
theorem checkpointGeneration_due {cap : Capture} (h : CaptureDue b cap s) {P : State → Prop}
    (hdefer : s.storing b = true ∧ 2 ≤ (s.binding b).next ∧ (s.binding b).store = some ((s.binding b).next - 2) →
      P ((modBnd b fun k => { k with defers := k.defers + 1 }).run s).2)
    (hcopy : ¬ (s.storing b = true ∧ 2 ≤ (s.binding b).next ∧ (s.binding b).store = some ((s.binding b).next - 2)) →
      P ((captureBegin b cap s).run s).2) : Completes (.checkpointGeneration b cap) s P := by
  obtain ⟨hsteps, hidle, hcommit, hreached, hmover⟩ := h
  refine .of_next (exec_checkpointGeneration cap) ?_
  rw [if_neg (by simp [hsteps, hidle, hcommit, Nat.not_lt.2 hreached, hmover])]
  by_cases hold : s.storing b = true ∧ 2 ≤ (s.binding b).next ∧ (s.binding b).store = some ((s.binding b).next - 2)
  · obtain ⟨hstoring, hlater, hstore⟩ := id hold
    rw [if_pos (by simp [hstoring, hlater, hstore])]
    exact hdefer hold
  · rw [if_neg]
    · exact hcopy hold
    · intro hall
      simp only [Bool.and_eq_true, beq_iff_eq, decide_eq_true_eq] at hall
      exact hold ⟨hall.1.1, hall.2, hall.1.2⟩

/-- A factor block in a decay holds a generation up (R330). -/
theorem captureBegin_odd {cap : Capture} {s₁ : State} (h : Reads (factorsEven (movUnit s cap.mover) cap) s false s₁) :
    (captureBegin b cap s).run s = ((), s₁) := by
  rw [captureBegin, run_bind, h.run_eq]
  rfl

/-- A generation that is copied is under way: memory is as the copy leaves it (R331, R333). -/
theorem captureBegin_even {cap : Capture} {s₁ s₂ : State} (h : Reads (factorsEven (movUnit s cap.mover) cap) s true s₁)
    (hall : Reads (captureAll b cap (manifestHeader s b (s.binding b).next cap.pieces.length)) s₁ () s₂) :
    (captureBegin b cap s).run s = (modBnd b fun k => { k with genRun := some ⟨(s.binding b).next, 1, BitVec.ofNat 512 (leNat
      ((manifestBytes (manifestHeader s b (s.binding b).next cap.pieces.length) cap.pieces).take 64))⟩ }).run s₂ := by
  rw [captureBegin, run_bind, h.run_eq]
  dsimp only
  rw [run_when, if_pos rfl, captureRun, run_bind, hall.run_eq]

/-- A generation that is due is deferred where it would overwrite an area being stored, and else copied, where no factor
block is in a decay (R330, R331, R333, R335). -/
theorem checkpointGeneration_completes (cap : Capture) : Completes (.checkpointGeneration b cap) s fun t =>
    if s.bstate b = 3 ∧ (s.binding b).genRun = none ∧
        ((s.votes b).decided ((s.binding b).step - 1)).any (fun d => d.dec) = true ∧
        (s.binding b).next * (s.binding b).ckpt ≤ (s.binding b).step - 1 ∧ s.hasUnit b (10 + cap.mover) = true then
      if s.storing b = true ∧ 2 ≤ (s.binding b).next ∧ (s.binding b).store = some ((s.binding b).next - 2) then
        t.binding b = { s.binding b with defers := (s.binding b).defers + 1 }
      else ∀ even s₁, Reads (factorsEven (movUnit s cap.mover) cap) s even s₁ →
        if even = true then
          let hdr := manifestHeader s b (s.binding b).next cap.pieces.length
          ∀ s₂, Reads (captureAll b cap hdr) s₁ () s₂ → (∀ a, t.byte a = s₂.byte a) ∧
            (t.binding b).genRun =
              some ⟨(s.binding b).next, 1, BitVec.ofNat 512 (leNat ((manifestBytes hdr cap.pieces).take 64))⟩
        else t = s₁
    else t = s := by
  by_cases hdue : CaptureDue b cap s
  · have hcond := captureDue_iff.1 hdue
    refine checkpointGeneration_due hdue (fun hold => ?_) (fun hfree => ?_)
    · rw [if_pos hcond, if_pos hold, run_modBnd]
      exact (binding_setBnd _ _ _ _).trans (if_pos rfl)
    · rw [if_pos hcond, if_neg hfree]
      intro even s₁ heven
      cases even with
      | false => rw [if_neg (by decide), captureBegin_odd heven]
      | true =>
        intro s₂ hall
        rw [captureBegin_even heven hall, run_modBnd]
        exact ⟨fun _ => rfl, congrArg Binding.genRun ((binding_setBnd _ _ _ _).trans (if_pos rfl))⟩
  · refine (checkpointGeneration_waits hdue).imp fun t ht => ?_
    rw [if_neg (captureDue_iff.not.1 hdue)]
    exact ht

/-- A generation that is complete is reported to the warden (R333). -/
theorem generationComplete_completes {r : GenRun} (h : (s.binding b).genRun = some r) : Completes (.generationComplete b) s fun t =>
    if r.stage = 1 then t.binding b = { s.binding b with genRun := some { r with stage := 2 } } ∧
      Out.firmware 0x06 (some s.fw.warden) (5 :: leBytes 2 (s.rdF .BND_JOB Fld.BND_JOB_BID b) ++ leBytes 4 r.gen) ∈ t.out
    else t = s := by
  refine .of_next (p := if r.stage ≠ 1 then Prog.skip
      else (modBnd b fun k => { k with genRun := some { r with stage := 2 } }).seq
        (tell 0x06 s.fw.warden (5 :: leBytes 2 (s.rdF .BND_JOB Fld.BND_JOB_BID b) ++ leBytes 4 r.gen))) ?_ ?_
  · change execGenerationComplete b s = _
    rw [execGenerationComplete, h]
  · by_cases hst : r.stage = 1
    · rw [if_pos hst, if_neg (not_not.2 hst), run_seq, run_modBnd]
      exact ⟨(binding_setBnd _ _ _ _).trans (if_pos rfl), List.mem_cons_self ..⟩
    · rw [if_neg hst, if_pos hst, run_skip]

/-- A generation that every device has is done, and frees the next (R333, R382). -/
theorem gendone_completes {r : GenRun} (gen : Nat) (h : (s.binding b).genRun = some r) : Completes (.gendone b gen) s fun t =>
    if r.gen = gen ∧ r.stage = 2 then t.binding b = { s.binding b with gen := some gen, genRun := none } else t = s := by
  refine .of_next (p := if r.gen ≠ gen || r.stage ≠ 2 then Prog.skip
      else (modBnd b fun k => { k with gen := some gen, genRun := none }).seq
        (jnlHand ⟨6, s.rdF .BND_JOB Fld.BND_JOB_BID b, false, leBytes 64 r.hdr.toNat, false⟩)) ?_ ?_
  · change execGendone b gen s = _
    rw [execGendone, h]
  · have hhand (x : JReq) : (jnlHand x).Apart := by
      simp (maxDischargeDepth := 30) [jnlHand]
    by_cases hdone : r.gen = gen ∧ r.stage = 2
    · rw [if_pos hdone, if_neg (by simp [hdone]), run_seq, (hhand _).same .bnd (by simp), run_modBnd, binding_setBnd, if_pos rfl]
    · rw [if_neg hdone, if_pos (by simpa using not_and_or.1 hdone), run_skip]

/-- The area of the newest generation goes out every KSTORE steps (R335). -/
theorem checkpointStore_completes : Completes (.checkpointStore b) s fun t =>
    match (s.binding b).gen with
    | some g => if s.bound b = true ∧ s.storing b = false ∧
        g * (s.binding b).ckpt % (if (s.binding b).kstore = 0 then 500 else (s.binding b).kstore) = 0 then
          t.binding b = { s.binding b with store := some g } else t = s
    | none => t = s := by
  cases hg : (s.binding b).gen with
  | none =>
    refine .of_next (p := .skip) ?_ rfl
    change execCheckpointStore b s = _
    rw [execCheckpointStore]
    dsimp only
    rw [hg]
  | some g =>
    refine .of_next (p := if !s.bound b || s.storing b ||
        g * (s.binding b).ckpt % (if (s.binding b).kstore = 0 then 500 else (s.binding b).kstore) ≠ 0 then Prog.skip
      else modBnd b fun k => { k with store := some g }) ?_ ?_
    · change execCheckpointStore b s = _
      rw [execCheckpointStore]
      dsimp only
      rw [hg]
    · dsimp only
      generalize g * (s.binding b).ckpt % _ = left
      by_cases hdue : s.bound b = true ∧ s.storing b = false ∧ left = 0
      · rw [if_pos hdue, if_neg (by simp [hdue]), run_modBnd, binding_setBnd, if_pos rfl]
      · rw [if_neg hdue, if_pos, run_skip]
        by_contra hno
        simp only [Bool.or_eq_true, not_or, Bool.not_eq_true, decide_eq_false_iff_not, Bool.not_eq_false', not_not] at hno
        exact hdue ⟨hno.1.1, hno.1.2, hno.2⟩

end Generations

/-- Settles O37, clause by clause: the messages of a takeover, then a binding's generations. -/
theorem takeoversAndGenerations : Obligations.TakeoversAndGenerations := fun _ =>
  ⟨fun _ _ _ => prepare_completes, fun _ _ _ _ _ => go_completes, fun _ => run_completes, fun _ =>
    ⟨checkpointGeneration_completes, fun _ h => generationComplete_completes h, fun _ gen h => gendone_completes gen h,
      checkpointStore_completes⟩⟩

end Sys2Proof.Machine

/-! ### The vote of a device (R157, R188, R263 to R265, R319) -/

namespace Sys2Proof.Machine
open Prog

/-! #### The vote state and the binding after an effect -/

section Effects
variable {α β : Type} {l : List Part} {n : List RegName} (s : State) {a b : Nat}

@[simp] theorem votes_setVote (v : Vote) (x : Nat) :
    ((Eff.setVote b v).apply s).votes x = if x = b then v else s.votes x := by
  unfold State.votes; rw [Eff.setVote_vote, Tab.at_upd]

@[simp] theorem votes_setReg (k : RegKey) (v : Word) (x : Nat) : ((Eff.setReg k v).apply s).votes x = s.votes x := by
  unfold State.votes; rw [Eff.setReg_vote]

@[simp] theorem votes_setBnd (v : Binding) (x : Nat) : ((Eff.setBnd b v).apply s).votes x = s.votes x := by
  unfold State.votes; rw [Eff.setBnd_vote]

@[simp] theorem binding_setReg (k : RegKey) (v : Word) (x : Nat) : ((Eff.setReg k v).apply s).binding x = s.binding x := by
  unfold State.binding; rw [Eff.setReg_bnd]

@[simp] theorem binding_setVote (v : Vote) (x : Nat) : ((Eff.setVote b v).apply s).binding x = s.binding x := by
  unfold State.binding; rw [Eff.setVote_bnd]

@[simp] theorem run_modVote (f : Vote → Vote) :
    (modVote b f).run s = ((), (Eff.setVote b (f (s.votes b))).apply s) := rfl

theorem rdF_setBnd (v : Binding) (r : RegName) (f : Field) (i j : Nat) :
    ((Eff.setBnd b v).apply s).rdF r f i j = s.rdF r f i j := congrArg (getF f) (State.rd_congr (by simp) r i j)

theorem rdF_setVote (v : Vote) (r : RegName) (f : Field) (i j : Nat) :
    ((Eff.setVote b v).apply s).rdF r f i j = s.rdF r f i j := congrArg (getF f) (State.rd_congr (by simp) r i j)

/-- What a program leaves that touches no binding and no vote state. -/
theorem Prog.Within.keeps_voting {p : Prog α} (h : p.Within l n) (hb : Part.bnd ∉ l) (hv : Part.vote ∉ l)
    (F : Binding → Vote → β) : p.Keeps fun s => F (s.binding b) (s.votes b) := fun s => by
  dsimp only
  rw [h.same .bnd hb s b, h.same .vote hv s b]

theorem modVote_keeps_voting {F : Binding → Vote → β} {f : Vote → Vote} (h : ∀ x v, F x (f v) = F x v) :
    (modVote b f).Keeps fun s => F (s.binding b) (s.votes b) := fun s => by
  rw [run_modVote]
  exact (congrArg _ ((votes_setVote ..).trans (if_pos rfl))).trans (h _ _)

theorem modBnd_keeps_voting {F : Binding → Vote → β} {f : Binding → Binding} (h : ∀ x v, F (f x) v = F x v) :
    (modBnd b f).Keeps fun s => F (s.binding b) (s.votes b) := fun s => by
  rw [run_modBnd]
  exact (congrArg (F · _) ((binding_setBnd ..).trans (if_pos rfl))).trans (h _ _)

end Effects

/-! #### Decisions taken and votes combined -/

section Combine
variable {s : State} {b : Nat}

theorem sendVote_within (typ dst step : Nat) (d : List Byte) : (sendVote b typ dst step d).Within sendParts sendNames :=
  .get fun _ => sendPacket_within _

/-- What a decision writes before it is forwarded (R264, R319). -/
def decisionKept (b step : Nat) (dec : Bool) (ndev : Nat) : Prog Unit := Prog.all [
  modVote b fun v => { v with decs := (⟨step, dec, ndev⟩ :: v.decs).take 4 },
  wrF .FAB_VOTESTAT Fld.FAB_VOTESTAT_STEP step b,
  wrF .FAB_VOTESTAT Fld.FAB_VOTESTAT_DEC (if dec then 1 else 0) b,
  wrF .FAB_VOTESTAT Fld.FAB_VOTESTAT_WAIT 0 b,
  modBnd b fun k => { k with
    decision := some dec
    taken := k.armed.filter fun i => i.due (step + 1)
    armed := k.armed.filter fun i => !i.due (step + 1) }]

theorem takeDecision_run (dec : Bool) (ndev : Nat) : (takeDecision b dec ndev).run s =
    (Prog.each ((s.votes b).kidsAt (s.binding b).step) fun k => sendVote b 2 k.src (s.binding b).step (votePayload dec ndev)).run
      ((decisionKept b (s.binding b).step dec ndev).run s).2 := by
  simp only [takeDecision, decisionKept, run_get, run_all_cons, run_all_nil]

/-- A decision is delivered with the images that are due, shown and kept (R264, R319). -/
theorem takeDecision_takes (dec : Bool) (ndev : Nat) : let t := ((takeDecision b dec ndev).run s).2
    let step := (s.binding b).step
    t.binding b = { s.binding b with
      decision := some dec
      taken := (s.binding b).armed.filter fun i => i.due (step + 1)
      armed := (s.binding b).armed.filter fun i => !i.due (step + 1) } ∧
    t.votes b = { s.votes b with decs := (⟨step, dec, ndev⟩ :: (s.votes b).decs).take 4 } ∧
    t.rdF .FAB_VOTESTAT Fld.FAB_VOTESTAT_DEC b = if dec then 1 else 0 := by
  intro t step
  have hsend := Within.each (xs := (s.votes b).kidsAt step) fun k => sendVote_within (b := b) 2 k.src step (votePayload dec ndev)
  have ht : t = _ := congrArg Prod.snd (takeDecision_run dec ndev)
  refine ⟨?_, ?_, ?_⟩
  · rw [ht, hsend.same .bnd (by decide)]
    simp only [decisionKept, run_all_cons, run_all_nil, run_modVote, run_wrF, run_modBnd, binding_setBnd, binding_setReg,
      binding_setVote, if_true]
    rfl
  · rw [ht, hsend.same .vote (by decide)]
    simp only [decisionKept, run_all_cons, run_all_nil, run_modVote, run_wrF, run_modBnd, votes_setVote, votes_setReg,
      votes_setBnd, if_true]
    rfl
  · rw [ht, State.rdF, hsend.rd .FAB_VOTESTAT (by decide), ← State.rdF]
    simp only [decisionKept, run_all_cons, run_all_nil, run_modVote, run_wrF, run_modBnd]
    simp (disch := decide) only [rdF_setBnd, State.rdF_setReg_apart, State.rdF_setReg_field]
    cases dec <;> rfl

/-- The AND of a device's own vote and its children's, and the count (R263). -/
def Vote.combined (k : Vote) (step : Nat) (own : Bool) : Bool × Nat :=
  (own && (k.kidsAt step).all (·.v), 1 + ((k.kidsAt step).map (·.ndev)).sum)

/-- With every part in, the root decides, and any other device sends one VOTE (R263, R264). -/
theorem tryCombine_run {own : Bool} (hown : (s.votes b).own = some own) (hsent : (s.votes b).sent = none)
    (hdec : (s.votes b).decided (s.binding b).step = none)
    (hkids : ((s.votes b).kidsAt (s.binding b).step).length = s.rdF .FAB_VOTE Fld.FAB_VOTE_NCHILD b) :
    let x := (s.votes b).combined (s.binding b).step own
    (tryCombine b).run s = if s.rdF .FAB_VOTE Fld.FAB_VOTE_ROOT b = 1 then (rootDecide b x.1 x.2).run s
      else (Prog.all [modVote b fun y => { y with sent := some x }, wrF .FAB_VOTESTAT Fld.FAB_VOTESTAT_WAIT 1 b,
        sendVote b 1 (s.rdF .FAB_VOTE Fld.FAB_VOTE_PARENT b) (s.binding b).step (votePayload x.1 x.2)]).run s := by
  intro x
  simp only [tryCombine, run_get, hown, hsent, hdec, hkids, Option.isSome_none, bne_self_eq_false, Bool.or_false, Bool.false_eq_true, if_false]
  split <;> rfl

/-- A root decides commit where all say so and the count is the binding's (R264). -/
theorem rootDecide_decides (v : Bool) (ndev : Nat) : (((rootDecide b v ndev).run s).2.binding b).decision =
    some (v && ndev % 2 ^ 16 == s.rdF .FAB_VOTE Fld.FAB_VOTE_BNDDEV b) := by
  rw [rootDecide, run_get, run_seq, (takeDecision_takes _ _).1]

/-- What goes on as the parts come in leaves the device's own vote and its children's (R263). -/
theorem tryCombine_keeps : (tryCombine b).Keeps fun s => ((s.binding b).voted, (s.votes b).own, (s.votes b).kids) := by
  let F (x : Binding) (v : Vote) := (x.voted, v.own, v.kids)
  have hsend (typ dst step : Nat) (d : List Byte) : (sendVote b typ dst step d).Keeps fun s => F (s.binding b) (s.votes b) :=
    (sendVote_within _ _ _ _).keeps_voting (by decide) (by decide) F
  have hreg {p : Prog Unit} (h : p.Within [.reg] [.FAB_VOTESTAT, .FAB_HORN_ERR]) : p.Keeps fun s => F (s.binding b) (s.votes b) :=
    h.keeps_voting (by decide) (by decide) F
  have htake (dec : Bool) (ndev : Nat) : (takeDecision b dec ndev).Keeps fun s => F (s.binding b) (s.votes b) := fun s => by
    obtain ⟨hbnd, hvote, -⟩ := takeDecision_takes (s := s) (b := b) dec ndev
    dsimp only
    rw [hbnd, hvote]
  refine .get fun s => ?_
  dsimp only
  split
  · exact .skip
  · refine Keeps.ite (g := fun s => F (s.binding b) (s.votes b))  .skip (.ite (.get fun s => .seq (hreg (by simp)) (htake _ _)) ?_)
    exact .all_cons (modVote_keeps_voting fun _ _ => rfl) (.all_cons (hreg (by simp)) (.all_cons (hsend _ _ _ _) .all_nil))

/-- Any other device than the root shows that it waits for the decision on the VOTE it has sent (R263). -/
theorem voteSent_waits (x : Bool × Nat) (dst step : Nat) (d : List Byte) : let t := ((Prog.all [
      modVote b fun y => { y with sent := some x }, wrF .FAB_VOTESTAT Fld.FAB_VOTESTAT_WAIT 1 b, sendVote b 1 dst step d]).run s).2
    (t.votes b).sent = some x ∧ t.rdF .FAB_VOTESTAT Fld.FAB_VOTESTAT_WAIT b = 1 := by
  have hsend := sendVote_within (b := b) 1 dst step d
  simp only [run_all_cons, run_all_nil, run_modVote, run_wrF]
  constructor
  · rw [hsend.same .vote (by decide)]
    exact congrArg Vote.sent ((votes_setVote ..).trans (if_pos rfl))
  · rw [State.rdF, hsend.rd .FAB_VOTESTAT (by decide)]
    exact State.rdF_setReg_field _ (by decide) _ _ _

end Combine

/-! #### DEVICE_VOTE and VOTE_RETRY -/

section Device
variable {b : Fin 8} {s : State}

/-- Every Landing Unit of a stepping binding has voted, and the device votes for its step (R157, R263). -/
def State.votesNow (s : State) (b : Nat) : Bool :=
  s.steps b && s.hornOn && !(s.binding b).voted && (s.binding b).turning.isNone && !s.fw.self &&
    (s.lus b).all fun u => s.rdF .LND_STATUS Fld.LND_STATUS_VOTED u == 1

/-- The on-die AND of the units' votes and the clusters' (R157, R188). -/
def State.ownVote (s : State) (b : Nat) : Bool :=
  (s.lus b).all (fun u => s.rdF .LND_STATUS Fld.LND_STATUS_VOTE u == 1) && (s.clusters b).all fun c => !(s.cluster c).nfvote

/-- The state once the device's own vote stands. -/
def State.withOwnVote (s : State) (b : Nat) : State :=
  (Eff.setVote b { s.votes b with own := some (s.ownVote b) }).apply ((Eff.setBnd b { s.binding b with voted := true }).apply s)

theorem votes_withOwnVote : (s.withOwnVote b).votes b = { s.votes b with own := some (s.ownVote b) } := by
  rw [State.withOwnVote, votes_setVote, if_pos rfl]

theorem binding_withOwnVote : (s.withOwnVote b).binding b = { s.binding b with voted := true } := by
  rw [State.withOwnVote, binding_setVote, binding_setBnd, if_pos rfl]

theorem rdF_withOwnVote (r : RegName) (f : Field) (i j : Nat) : (s.withOwnVote b).rdF r f i j = s.rdF r f i j := by
  rw [State.withOwnVote, rdF_setVote, rdF_setBnd]

theorem exec_deviceVote : exec (.deviceVote b) s = .next (if s.votesNow b then ((tryCombine b).run (s.withOwnVote b)).2 else s) := by
  have hready : (!s.steps b || !s.hornOn || (s.binding b).voted || (s.binding b).turning.isSome || s.fw.self ||
      !(s.lus b).all fun u => s.rdF .LND_STATUS Fld.LND_STATUS_VOTED u == 1) = !s.votesNow b := by
    simp only [State.votesNow, Bool.not_and, Bool.not_not, Option.not_isNone]
  change execDeviceVote b s = _
  rw [execDeviceVote]
  dsimp only
  rw [hready, next_eq]
  cases s.votesNow b with
  | false => rfl
  | true =>
    simp only [Bool.not_true, Bool.false_eq_true, if_false, if_true, run_all_cons, run_all_nil, run_modBnd, run_modVote, votes_setBnd]
    rfl

/-- With every child in, the root decides and any other device sends its VOTE (R263, R264). -/
theorem withOwnVote_combines (hsent : (s.votes b).sent = none) (hdec : (s.votes b).decided (s.binding b).step = none)
    (hkids : ((s.votes b).kidsAt (s.binding b).step).length = s.rdF .FAB_VOTE Fld.FAB_VOTE_NCHILD b) :
    let x := (s.votes b).combined (s.binding b).step (s.ownVote b)
    let t := ((tryCombine b).run (s.withOwnVote b)).2
    if s.rdF .FAB_VOTE Fld.FAB_VOTE_ROOT b = 1 then
      (t.binding b).decision = some (x.1 && x.2 % 2 ^ 16 == s.rdF .FAB_VOTE Fld.FAB_VOTE_BNDDEV b)
    else (t.votes b).sent = some x ∧ t.rdF .FAB_VOTESTAT Fld.FAB_VOTESTAT_WAIT b = 1 := by
  intro x t
  have hx : ((s.withOwnVote b).votes b).combined ((s.withOwnVote b).binding b).step (s.ownVote b) = x := by
    rw [votes_withOwnVote, binding_withOwnVote]; rfl
  have hrun := tryCombine_run (s := s.withOwnVote b) (b := b) (own := s.ownVote b) (by rw [votes_withOwnVote])
    (by rw [votes_withOwnVote]; exact hsent) (by rw [votes_withOwnVote, binding_withOwnVote]; exact hdec)
    (by rw [votes_withOwnVote, binding_withOwnVote, rdF_withOwnVote]; exact hkids)
  dsimp only at hrun
  rw [hx, rdF_withOwnVote] at hrun
  have ht : t = _ := congrArg Prod.snd hrun
  rw [ht]
  split
  · rw [rootDecide_decides, rdF_withOwnVote]
  · exact voteSent_waits _ _ _ _

/-- Once every Landing Unit has voted, the device's own vote stands, and it is combined (R157, R188, R263). -/
theorem deviceVote_completes : Completes (.deviceVote b) s fun t =>
    if s.votesNow b = true then
      (t.binding b).voted = true ∧ (t.votes b).own = some (s.ownVote b) ∧
      ((s.votes b).sent = none → (s.votes b).decided (s.binding b).step = none →
        ((s.votes b).kidsAt (s.binding b).step).length = s.rdF .FAB_VOTE Fld.FAB_VOTE_NCHILD b →
        let x := (s.votes b).combined (s.binding b).step (s.ownVote b)
        if s.rdF .FAB_VOTE Fld.FAB_VOTE_ROOT b = 1 then
          (t.binding b).decision = some (x.1 && x.2 % 2 ^ 16 == s.rdF .FAB_VOTE Fld.FAB_VOTE_BNDDEV b)
        else (t.votes b).sent = some x ∧ t.rdF .FAB_VOTESTAT Fld.FAB_VOTESTAT_WAIT b = 1)
    else t = s := by
  refine ⟨_, exec_deviceVote, ?_⟩
  split
  · have hkeep := tryCombine_keeps (b := b) (s.withOwnVote b)
    dsimp only at hkeep
    rw [votes_withOwnVote, binding_withOwnVote, Prod.mk.injEq, Prod.mk.injEq] at hkeep
    obtain ⟨hvoted, hown, -⟩ := hkeep
    exact ⟨hvoted, hown, withOwnVote_combines⟩
  · rfl

/-- A device that has sent its VOTE and holds no decision repeats it and queries (R265). -/
theorem voteRetry_completes {v : Bool} {n : Nat} (h : (s.votes b).sent = some (v, n)) : Completes (.voteRetry b) s fun t =>
    let parent := s.rdF .FAB_VOTE Fld.FAB_VOTE_PARENT b
    let step := (s.binding b).step
    if s.bound b = true ∧ s.hornOn = true ∧ (s.votes b).decided step = none then
      t.out = (((sendVote b 1 parent step (votePayload v n)).seq (sendVote b 3
        (if s.isDown (s.rdF .FAB_REMAP Fld.FAB_REMAP_PHYS parent) then s.rdF .FAB_VOTEROOT Fld.FAB_VOTEROOT_ROOTC b
          else parent) step [])).run s).2.out
    else t = s := by
  refine ⟨_, rfl, ?_⟩
  dsimp only
  rw [h]
  dsimp only
  by_cases hq : s.bound b = true ∧ s.hornOn = true ∧ (s.votes b).decided (s.binding b).step = none
  · obtain ⟨hbound, hon, hdec⟩ := id hq
    rw [if_pos hq, if_neg (c := (_ || _) = true) (by simp only [hbound, hon, hdec]; decide)]
  · rw [if_neg hq, if_pos (c := (_ || _) = true), run_skip]
    rcases not_and_or.1 hq with hbound | hq
    · simp [hbound]
    rcases not_and_or.1 hq with hon | hdec
    · simp [hon]
    · simp [Option.isSome_iff_ne_none.2 hdec]

end Device

/-! #### The messages of the vote (R263 to R265) -/

section Messages
variable {p : Packet} {s : State} {typ : Nat}

/-- A message that arrives whole is taken, counted and acted on, and its credit goes back (R252, R260). -/
theorem hornArrive_taken (h : HornArrives s p typ) (g : Packet → Prog Unit) :
    (hornArrive p typ fun q => (count (setPort 0) 0x75).seq (g q)).run s =
      (creditBack p 1).run ((g p).run (hornTaken s p)).2 := by
  obtain ⟨hon, hsmall, hlegal, rfl, hshort, hwhole⟩ := h
  have hnoise : (!s.hornOn || decide (224 < p.payload.length)) = false := by simp [hon, hsmall]
  simp only [hornArrive, hornFirmware, arriveHeld, run_get, hnoise, hlegal, hwhole, Bool.not_true, Bool.false_eq_true,
    if_false, if_true, bne_self_eq_false, Bool.false_or, decide_eq_true_eq, Nat.not_lt.2 hshort, run_seq, hornTaken]

/-- Taking a message changes registers of the counters and the outputs alone. -/
theorem hornTaken_within (p : Packet) : ((hornReport p true).seq (count (setPort 0) 0x75)).Within readParts memNames := by
  refine .seq ?_ (count_within _ _ _ _)
  unfold hornReport
  split
  · exact .when (.emit (by decide))
  · exact .skip

theorem rdF_hornTaken {n : RegName} (h : n ∉ memNames) (f : Field) (i j : Nat) : (hornTaken s p).rdF n f i j = s.rdF n f i j :=
  congrArg (getF f) ((hornTaken_within p).rd n h i j s)

@[simp] theorem votes_hornTaken (b : Nat) : (hornTaken s p).votes b = s.votes b := (hornTaken_within p).same .vote (by decide) s b

@[simp] theorem binding_hornTaken (b : Nat) : (hornTaken s p).binding b = s.binding b :=
  (hornTaken_within p).same .bnd (by decide) s b

@[simp] theorem voteBinding_hornTaken (bid : Nat) : (hornTaken s p).voteBinding bid = s.voteBinding bid := by
  unfold State.voteBinding State.bound
  simp (disch := decide) only [rdF_hornTaken]

/-- A message of the vote completes with what is made of it once it is taken. -/
theorem voteMessage_completes {i : Instr} {g : Packet → Prog Unit} {P : State → Prop}
    (hi : exec i s = (hornArrive p typ fun q => (count (setPort 0) 0x75).seq (g q)).next s) (h : HornArrives s p typ)
    (hP : P ((creditBack p 1).run ((g p).run (hornTaken s p)).2).2) : Completes i s P :=
  .of_next hi ((congrArg (fun x => P x.2) (hornArrive_taken h g)).mpr hP)

/-- The credit that goes back is an output. -/
theorem creditBack_out_within (p : Packet) (k : Nat) : (creditBack p k).Within [.out] [] := creditBack_within p k (by decide)

@[simp] theorem rdF_creditBack (m : State) (n : RegName) (f : Field) (i j : Nat) :
    ((creditBack p 1).run m).2.rdF n f i j = m.rdF n f i j :=
  congrArg (getF f) ((creditBack_out_within p 1).rd n (by simp) i j m)

@[simp] theorem votes_creditBack (m : State) (b : Nat) : ((creditBack p 1).run m).2.votes b = m.votes b :=
  (creditBack_out_within p 1).same .vote (by decide) m b

@[simp] theorem binding_creditBack (m : State) (b : Nat) : ((creditBack p 1).run m).2.binding b = m.binding b :=
  (creditBack_out_within p 1).same .bnd (by decide) m b

/-- A message discarded for an error of the horn engine shows it, and leaves the votes and the bindings (R263, R264). -/
theorem hornError_noted {f : Field} (hf : fieldFits f .FAB_HORN_ERR = true) (hw : f.w = 1) (m : State) :
    let t := ((creditBack p 1).run ((setF .FAB_HORN_ERR f).run m).2).2
    t.rdF .FAB_HORN_ERR f = 1 ∧ (∀ b, t.votes b = m.votes b) ∧ ∀ b, t.binding b = m.binding b := by
  refine ⟨?_, fun b => ?_, fun b => ?_⟩
  · rw [rdF_creditBack, run_setF, State.rdF_setReg_field _ hf, hw]
    rfl
  · rw [votes_creditBack, run_setF, votes_setReg]
  · rw [binding_creditBack, run_setF, binding_setReg]

/-- A message of a binding that does not exist is stale (R263). -/
theorem voteMessage_stale (hnone : s.voteBinding p.bid.toNat = none) {i : Instr}
    (hi : (i, typ) ∈ [(Instr.vote p, 1), (.decision p, 2), (.dquery p, 3)]) (h : HornArrives s p typ) :
    Completes i s fun t => t.rdF .FAB_HORN_ERR Fld.FAB_HORN_ERR_STALEVOTE = 1 := by
  have hstale := (hornError_noted (p := p) (f := Fld.FAB_HORN_ERR_STALEVOTE) (by decide) rfl (hornTaken s p)).1
  simp only [List.mem_cons, List.not_mem_nil, or_false, Prod.mk.injEq] at hi
  obtain ⟨rfl, rfl⟩ | ⟨rfl, rfl⟩ | ⟨rfl, rfl⟩ := hi <;>
    exact voteMessage_completes rfl h (by simpa only [run_get, voteBinding_hornTaken, hnone] using hstale)

section Bound
variable {b : Nat} (hb : s.voteBinding p.bid.toNat = some b)
include hb

/-- A VOTE is recorded for its step, or discarded as stale, repeated or one too many (R263). -/
theorem vote_completes (h : HornArrives s p 1) : Completes (.vote p) s fun t =>
    let k := s.votes b
    let cur := (s.binding b).step
    let st := p.step.toNat
    if st < cur ∨ cur + 1 < st then t.rdF .FAB_HORN_ERR Fld.FAB_HORN_ERR_STALEVOTE = 1 ∧ t.votes b = k
    else if (k.kidsAt st).any (fun c => c.src == p.src.toNat) = true then t.votes b = k
    else if s.rdF .FAB_VOTE Fld.FAB_VOTE_NCHILD b ≤ (k.kidsAt st).length then
      t.rdF .FAB_HORN_ERR Fld.FAB_HORN_ERR_EXTRAVOTE = 1 ∧ t.votes b = k
    else (t.votes b).kids = k.kids ++ [⟨p.src.toNat, st, (voteOf p.payload).1, (voteOf p.payload).2⟩] := by
  refine voteMessage_completes rfl h ?_
  dsimp only
  simp only [run_get, voteBinding_hornTaken, hb, votes_hornTaken, binding_hornTaken, Bool.or_eq_true, decide_eq_true_eq,
    rdF_hornTaken (n := .FAB_VOTE) (by decide)]
  split
  · obtain ⟨herr, hvotes, -⟩ := hornError_noted (p := p) (f := Fld.FAB_HORN_ERR_STALEVOTE) (by decide) rfl (hornTaken s p)
    exact ⟨herr, (hvotes b).trans (votes_hornTaken b)⟩
  split
  · rw [votes_creditBack, run_skip, votes_hornTaken]
  split
  · obtain ⟨herr, hvotes, -⟩ := hornError_noted (p := p) (f := Fld.FAB_HORN_ERR_EXTRAVOTE) (by decide) rfl (hornTaken s p)
    exact ⟨herr, (hvotes b).trans (votes_hornTaken b)⟩
  · rw [votes_creditBack, run_seq, run_modVote]
    refine (congrArg (fun x => x.2.2) (tryCombine_keeps _)).trans ?_
    dsimp only
    rw [votes_setVote, if_pos rfl, votes_hornTaken]

/-- A DECISION of the step in progress is taken where none is held, and any other sets DUPDEC (R264, R265, R319). -/
theorem decision_completes (h : HornArrives s p 2) : Completes (.decision p) s fun t =>
    let k := s.votes b
    let cur := (s.binding b).step
    if p.step.toNat = cur ∧ k.decided cur = none then
      (t.binding b).decision = some (voteOf p.payload).1 ∧
      (t.votes b).decs = (⟨cur, (voteOf p.payload).1, (voteOf p.payload).2⟩ :: k.decs).take 4 ∧
      (t.binding b).taken = (s.binding b).armed.filter (fun i => i.due (cur + 1)) ∧
      t.rdF .FAB_VOTESTAT Fld.FAB_VOTESTAT_DEC b = (if (voteOf p.payload).1 then 1 else 0)
    else t.rdF .FAB_HORN_ERR Fld.FAB_HORN_ERR_DUPDEC = 1 ∧ t.binding b = s.binding b := by
  refine voteMessage_completes rfl h ?_
  dsimp only
  simp only [run_get, voteBinding_hornTaken, hb, votes_hornTaken, binding_hornTaken]
  by_cases hnew : p.step.toNat = (s.binding b).step ∧ (s.votes b).decided (s.binding b).step = none
  · rw [if_pos hnew, if_neg (by simp [hnew])]
    obtain ⟨hbnd, hvote, hdec⟩ := takeDecision_takes (s := hornTaken s p) (b := b) (voteOf p.payload).1 (voteOf p.payload).2
    rw [binding_hornTaken] at hbnd hvote
    rw [votes_hornTaken] at hvote
    rw [binding_creditBack, votes_creditBack, rdF_creditBack, hbnd, hvote]
    exact ⟨rfl, rfl, rfl, hdec⟩
  · rw [if_neg hnew, if_pos]
    · obtain ⟨herr, -, hbnd⟩ := hornError_noted (p := p) (f := Fld.FAB_HORN_ERR_DUPDEC) (by decide) rfl (hornTaken s p)
      exact ⟨herr, (hbnd b).trans (binding_hornTaken b)⟩
    · simpa [Option.isSome_iff_ne_none, imp_iff_not_or] using hnew

/-- A DQUERY is answered where the decision is held, and otherwise not (R265). -/
theorem dquery_completes (h : HornArrives s p 3) : Completes (.dquery p) s fun t =>
    match (s.votes b).decided p.step.toNat with
    | some d => t.out = (((sendVote b 2 p.src.toNat d.step (votePayload d.dec d.ndev)).seq (creditBack p 1)).run
        (hornTaken s p)).2.out
    | none => t.out = ((creditBack p 1).run (hornTaken s p)).2.out := by
  refine voteMessage_completes rfl h ?_
  simp only [run_get, voteBinding_hornTaken, hb, votes_hornTaken]
  cases (s.votes b).decided p.step.toNat with
  | none => rfl
  | some d =>
    dsimp only
    rw [run_seq]

end Bound
end Messages
/-- Settles O34: the device's own vote and its repetition, then each message of the vote by the binding it concerns. -/
theorem votesAndDecisions : Obligations.VotesAndDecisions :=
  ⟨fun _ _ => ⟨deviceVote_completes, fun _ _ h => voteRetry_completes h⟩, fun _ _ =>
    ⟨fun hnone => ⟨voteMessage_stale hnone (by simp), voteMessage_stale hnone (by simp), voteMessage_stale hnone (by simp)⟩,
      fun _ hb => ⟨vote_completes hb, decision_completes hb, dquery_completes hb⟩⟩⟩

end Sys2Proof.Machine

/-! ### The phases of an entry, held entries and outer updates (R145 to R149, R292) -/

namespace Sys2Proof.Machine
open Prog

section Phases
variable {α β : Type} {l : List Part} {n : List RegName} {u : Nat} {s t : State}

/-- Work of a unit that answers leaves what its program leaves. -/
theorem luDo_leaves {entry : Nat} {p : LuProg Unit} (h : Reads p s () t) : ((luDo u entry p).run s).2 = t := by
  rw [luDo, run_bind, h.run_eq]
  rfl

@[simp] theorem cluster_setLu (v : Lu) (c : Nat) : ((Eff.setLu u v).apply s).cluster c = s.cluster c := by
  unfold State.cluster; rw [Eff.setLu_cl]

/-- What a program leaves that touches no Landing Unit. -/
theorem Prog.Within.keeps_landing {p : Prog α} (h : p.Within l n) (hl : Part.lu ∉ l) (F : Lu → β) :
    p.Keeps fun s => F (s.landing u) := fun s => congrArg F (h.same .lu hl s u)

/-- What a unit shows rests on: whether it works on a step, whether it has voted, and its binding's step (R157, R158). -/
def State.luWork (s : State) (u : Nat) : Bool × Bool × Nat := (luActive s u, luVoted s u, luStep s u)

theorem Prog.Within.keeps_luWork {p : Prog α} (h : p.Within l n) (hs : RegName.LND_STATUS ∉ n) (hu : RegName.BND_UNITS ∉ n)
    (hb : RegName.BND_STATE ∉ n) (hl : Part.bnd ∉ l) : p.Keeps fun s => s.luWork u := fun s => by
  have howner := ownerUnit_of_rd (fun b => h.rd .BND_UNITS hu b 0 s) u
  simp only [State.luWork, luActive, luVoted, luStep, howner, State.rdF, h.rd .LND_STATUS hs, h.rd .BND_STATE hb]
  rw [h.same .bnd hl]

theorem luShow_shows (ha : luActive s u = true) (hv : luVoted s u = false) (hb : (s.landing u).phaseB.isSome = true) :
    ((luShow u).run s).2.rdF .LND_STATUS Fld.LND_STATUS_STATE u =
      if (s.landing u).buf.any fun t => t.step == luStep s u then 2 else 3 := by
  rw [luShow, run_get, if_neg (by simp [ha, hv]), run_wrF, State.rdF_setReg_field _ (by decide), hb]
  split <;> rfl

/-! #### Phase B (R145 to R147) -/

/-- What starts a lent cluster on an entry's schedule, before the unit shows it (R146, R147). -/
def phaseBBegins (u entry c rdtab : Nat) (a : BitVec 48) : Prog Unit := Prog.all [
  startAt c a, wr .ARY_DTAB_BASE (BitVec.ofNat 64 rdtab) c, modCl c fun k => { k with lentRun := true }, showSeq c,
  modLu u fun k => { k with phaseB := some entry, inHand := some entry }]

theorem phaseBBegins_within (u entry c rdtab : Nat) (a : BitVec 48) :
    (phaseBBegins u entry c rdtab a).Within [.cl, .reg, .lu] [.ARY_DTAB_BASE, .ARY_STATUS, .ARY_PC] := by
  have hmod (f : Cluster → Cluster) : (modCl c f).Within [.cl, .reg, .lu] [.ARY_DTAB_BASE, .ARY_STATUS, .ARY_PC] :=
    fun _ => Within.setCl (by decide)
  exact .all_cons (hmod _) (.all_cons (.wr (by decide) (by decide)) (.all_cons (hmod _)
    (.all_cons ((showSeq_within c).mono (by decide) (by decide)) (.all_cons (modLu_within (by decide)) .all_nil))))

/-- The lent cluster runs its schedule, with the root descriptors in force, and the unit has its entry in phase B. -/
theorem phaseBBegins_leaves (u entry c rdtab : Nat) (a : BitVec 48) (s : State) :
    let t := ((phaseBBegins u entry c rdtab a).run s).2
    t.landing u = { s.landing u with phaseB := some entry, inHand := some entry } ∧ (t.cluster c).lentRun = true ∧
    (t.cluster c).ipc = a ∧ t.rd .ARY_DTAB_BASE c = BitVec.ofNat 64 rdtab &&& regMask .ARY_DTAB_BASE := by
  simp only [phaseBBegins, run_all_cons, run_all_nil, run_modLu, startAt, run_modCl, run_wr, landing_setLu, if_true]
  refine ⟨?_, ?_, ?_, ?_⟩
  · rw [(showSeq_within c).same .lu (by decide)]
    simp only [State.landing, Eff.setCl_lu, Eff.setReg_lu]
  · simp only [cluster_setLu, showSeq_cluster, cluster_setCl, if_true]
  · simp only [cluster_setLu, showSeq_cluster, cluster_setCl, cluster_setReg, if_true]
  · rw [rd_setLu, showSeq_rd c (by decide) (by decide), rd_setCl, State.rd_setReg_same _ _ _ _ _ (by decide)]

/-- An OPT 2 entry whose tiles are through phase A may start the lent cluster (R145, R147). -/
structure PhaseBDue (u entry : Nat) (s : State) (x : LayerEntry) : Prop where
  lands : luLands s u = true
  begun : (s.luEntry u entry).begun = true
  undone : (s.luEntry u entry).done = false
  roots : (s.luEntry u entry).noroot = false
  free  : (s.landing u).phaseB = none
  lent  : s.rdF .LND_LENT Fld.LND_LENT_VALID u = 1
  idle  : (s.cluster (s.rdF .LND_LENT Fld.LND_LENT_CLUSTER u)).lentRun = false
  opt   : x.opt = 2
  tiles : x.tiles ≤ (s.luEntry u entry).landed.length

/-- A unit that lands works on a step, has not voted and has met no cause. -/
theorem luLands_iff (s : State) (u : Nat) :
    luLands s u = true ↔ luActive s u = true ∧ luVoted s u = false ∧ (s.landing u).caused = false := by
  simp [luLands, and_assoc]

/-! #### What the unit knows of an entry -/

theorem modEntry_within_lu (u i : Nat) (f : LuEntry → LuEntry) : (modEntry u i f).Within [.lu] [] := modLu_within (by decide)

theorem modEntry_keeps_landed {u i : Nat} {f : LuEntry → LuEntry} (h : ∀ e, (f e).landed = e.landed) :
    (modEntry u i f).Keeps fun s => (s.luEntry u i).landed := fun s => by
  dsimp only
  rw [run_modEntry_luEntry, if_pos rfl, h]

theorem Prog.Within.keeps_landed {α : Type} {p : Prog α} {l : List Part} {n : List RegName} {u i : Nat} (h : p.Within l n)
    (hl : Part.lu ∉ l) : p.Keeps fun s => (s.luEntry u i).landed := fun s =>
  congrArg LuEntry.landed (luEntry_of_landing_eq (h.same .lu hl s u) i)

/-- Phase C lands nothing anew (R145). -/
theorem phaseCTile_keeps_landed (u i : Nat) (x : LayerEntry) (d t : Nat) :
    (phaseCTile u i x d t).Keeps fun s => (s.luEntry u i).landed := by
  have helems (base size a n keep) : (luElems u base size a n keep).Keeps fun s => (s.luEntry u i).landed :=
    (luElems_within _ _ _ _ _ _).keeps_landed (by decide)
  have hflags (f : Nat) : (addFlags .LND_FLAGS f u).Keeps fun s => (s.luEntry u i).landed :=
    Within.keeps_landed (l := [.reg]) (n := [.LND_FLAGS]) (.addFlags (by decide) (by decide)) (by decide)
  refine .get fun s => ?_
  dsimp only
  refine .bindE (helems _ _ _ _ _) fun m1 => .bindE (helems _ _ _ _ _) fun m2 => .bindE (helems _ _ _ _ _) fun w =>
    .bindE (.ite (.ret _) (helems _ _ _ _ _)) fun dm => .bind (hflags _) fun _ => ?_
  split
  · exact .ret _
  split
  · exact .ret _
  refine .bind (hflags _) fun _ => ?_
  split
  · exact .ret _
  · exact .bindE ((luPut_within _ _ _ _ _).keeps_landed (by decide)) fun _ => .bind (modEntry_keeps_landed fun _ => rfl) fun _ =>
      .bind ((countLanded_within _ _ _).keeps_landed (by decide)) fun _ =>
        .ite ((emitGroup_within _ _ _ _ _).keeps_landed (by decide)) (.ret _)

/-- An entry whose every tile has landed is done once its header is written (R139). -/
theorem closeEntry_done {u i : Nat} {x : LayerEntry} {s t : State} (h : Reads (closeEntry u i x) s () t)
    (htiles : x.tiles ≤ (s.luEntry u i).landed.length) : (t.luEntry u i).done = true := by
  rw [closeEntry, reads_get] at h
  dsimp only at h
  rw [if_neg (Nat.not_lt.2 htiles)] at h
  obtain ⟨hdr, m, -, h⟩ := reads_bindE.1 h
  obtain ⟨_, m', -, h⟩ := reads_bindE.1 h
  rw [reads_seq, reads_ret] at h
  rw [h.2, run_modEntry_luEntry, if_pos rfl]

section Commands
variable {u : Fin 4} {entry : Nat} {s s₁ s₂ s₃ s₄ s₅ : State} {x : LayerEntry} {prec : Nat}
  (hentry : Reads (readEntry u entry) s x s₁)
include hentry

/-- PHASE_B_START starts the cluster, and then the unit shows what it waits for. -/
theorem exec_phaseBStart (h : PhaseBDue u entry s x) (hprec : Reads (luRecord u x.prec 64 false) s₁ prec s₂) :
    exec (.phaseBStart u entry) s = .next ((luShow u).run ((phaseBBegins u entry (s.rdF .LND_LENT Fld.LND_LENT_CLUSTER u)
      (s.luEntry u entry).rdtab (BitVec.ofNat 48 (if vptr s u = 1 then bits 47 0 prec else bits 95 48 prec))).run s₂).2).2 := by
  obtain ⟨hlands, hbegun, hdone, hroot, hfree, hlent, hidle, hopt, htiles⟩ := h
  refine congrArg Host.Outcome.next ?_
  rw [run_get]
  dsimp only
  rw [if_pos (by simp [hlands, hbegun, hdone, hroot, hfree, hlent, hidle])]
  refine luDo_leaves (reads_bindE.2 ⟨x, s₁, hentry, ?_⟩)
  rw [if_neg (by simp [hopt, htiles])]
  refine reads_bindE.2 ⟨prec, s₂, hprec, reads_seq.2 (reads_ret.2 ⟨rfl, ?_⟩)⟩
  simp only [phaseBBegins, run_all_cons, run_all_nil]

/-- The lent cluster runs the schedule of slot 1−v, and the unit shows LAND or PREC (R145 to R147, R157). -/
theorem phaseBStart_completes (h : PhaseBDue u entry s x) (hprec : Reads (luRecord u x.prec 64 false) s₁ prec s₂) :
    Completes (.phaseBStart u entry) s fun t =>
      let c := s.rdF .LND_LENT Fld.LND_LENT_CLUSTER u
      (t.landing u).phaseB = some entry ∧ (t.landing u).inHand = some entry ∧ (t.cluster c).lentRun = true ∧
      (t.cluster c).ipc = BitVec.ofNat 48 (if vptr s u = 1 then bits 47 0 prec else bits 95 48 prec) ∧
      t.rd .ARY_DTAB_BASE c = BitVec.ofNat 64 (s.luEntry u entry).rdtab &&& regMask .ARY_DTAB_BASE ∧
      t.rdF .LND_STATUS Fld.LND_STATUS_STATE u =
        (if (s.landing u).buf.any fun x => x.step == luStep s u then 2 else 3) := by
  refine ⟨_, exec_phaseBStart hentry h hprec, ?_⟩
  obtain ⟨hactive, hvoted, -⟩ := (luLands_iff _ _).1 h.lands
  have hread : ((readEntry u entry).bindE fun x => luRecord u x.prec 64 false).Within readParts memNames :=
    .bindE (readEntry_within _ _) fun _ => luRecord_within _ _ _ _
  have hs₂ : Reads ((readEntry u entry).bindE fun x => luRecord u x.prec 64 false) s prec s₂ :=
    reads_bindE.2 ⟨x, s₁, hentry, hprec⟩
  have hwork₂ := hread.keeps_luWork (u := u) (by decide) (by decide) (by decide) (by decide) s
  rw [hs₂.run_eq] at hwork₂
  dsimp only
  generalize s.rdF .LND_LENT Fld.LND_LENT_CLUSTER u = c
  generalize BitVec.ofNat 48 (if vptr s u = 1 then bits 47 0 prec else bits 95 48 prec) = a
  obtain ⟨hlu, hrun, hipc, htab⟩ := phaseBBegins_leaves u entry c (s.luEntry u entry).rdtab a s₂
  have hwork := (phaseBBegins_within u entry c (s.luEntry u entry).rdtab a).keeps_luWork (u := u)
    (by decide) (by decide) (by decide) (by decide) s₂
  generalize ((phaseBBegins u entry c (s.luEntry u entry).rdtab a).run s₂).2 = m at *
  rw [hs₂.same hread .lu (by decide)] at hlu
  obtain ⟨ha, hv, hstep⟩ : luActive m u = luActive s u ∧ luVoted m u = luVoted s u ∧ luStep m u = luStep s u := by
    simpa only [State.luWork, Prod.mk.injEq] using hwork.trans hwork₂
  have hstate := luShow_shows (ha.trans hactive) (hv.trans hvoted) (by rw [hlu]; rfl)
  rw [hlu, hstep] at hstate
  have hshow := luShow_within u
  rw [hshow.same .lu (by decide), hshow.same .cl (by decide), hshow.rd .ARY_DTAB_BASE (by decide), hlu]
  exact ⟨rfl, rfl, hrun, hipc, htab, hstate⟩

/-! #### Phase C (R145) -/

/-- PHASE_C_START takes every tile through phase C, closes the entry and frees the cluster. -/
theorem exec_phaseCStart {l : List Unit} (hlands : luLands s u = true) (hbegun : (s.luEntry u entry).begun = true)
    (hdone : (s.luEntry u entry).done = false)
    (hready : (s.luEntry u entry).noroot = true ∨
      (s.landing u).phaseB = some entry ∧ (s.cluster (s.rdF .LND_LENT Fld.LND_LENT_CLUSTER u)).lentRun = false)
    (hopt : x.opt = 2) (htiles : x.tiles ≤ (s.luEntry u entry).landed.length)
    (hprec : Reads (luRecord u x.prec 64 false) s₁ prec s₂)
    (hphase : Reads (Prog.mapE (List.range x.tiles) fun t => phaseCTile u entry x (bits 143 96 prec) t) s₂ l s₃)
    (hclose : Reads (closeEntry u entry x) s₃ () s₄) : exec (.phaseCStart u entry) s = .next ((luShow u).run
      ((modLu u fun k => { k with phaseB := if k.phaseB = some entry then none else k.phaseB }).run s₄).2).2 := by
  refine congrArg Host.Outcome.next ?_
  rw [run_get]
  dsimp only
  rw [if_pos (by simpa [hlands, hbegun, hdone] using hready), run_seq]
  refine congrArg (fun m => ((luShow u).run m).2) (luDo_leaves (reads_bindE.2 ⟨x, s₁, hentry, ?_⟩))
  rw [if_neg (by simp [hopt, htiles])]
  exact reads_bindE.2 ⟨prec, s₂, hprec, reads_bindE.2 ⟨l, s₃, hphase, reads_bindE.2 ⟨(), s₄, hclose,
    reads_seq.2 (reads_ret.2 ⟨rfl, rfl⟩)⟩⟩⟩

/-- Phase C completes the entry and frees the cluster, and memory is as its tiles and its header leave it (R145). -/
theorem phaseCStart_completes {l : List Unit} (hlands : luLands s u = true) (hbegun : (s.luEntry u entry).begun = true)
    (hdone : (s.luEntry u entry).done = false)
    (hready : (s.luEntry u entry).noroot = true ∨
      (s.landing u).phaseB = some entry ∧ (s.cluster (s.rdF .LND_LENT Fld.LND_LENT_CLUSTER u)).lentRun = false)
    (hopt : x.opt = 2) (htiles : x.tiles ≤ (s.luEntry u entry).landed.length)
    (hprec : Reads (luRecord u x.prec 64 false) s₁ prec s₂)
    (hphase : Reads (Prog.mapE (List.range x.tiles) fun t => phaseCTile u entry x (bits 143 96 prec) t) s₂ l s₃)
    (hclose : Reads (closeEntry u entry x) s₃ () s₄) : Completes (.phaseCStart u entry) s fun t =>
      (t.luEntry u entry).done = true ∧ (t.landing u).phaseB ≠ some entry ∧ ∀ a, t.byte a = s₄.byte a := by
  refine ⟨_, exec_phaseCStart hentry hlands hbegun hdone hready hopt htiles hprec hphase hclose, ?_⟩
  have hlanded : (s₃.luEntry u entry).landed = (s.luEntry u entry).landed := by
    have hkeep := Keeps.mapE (fun t => phaseCTile_keeps_landed u entry x (bits 143 96 prec) t) (xs := List.range x.tiles) s₂
    rw [hphase.run_eq] at hkeep
    have hlu := (hprec.same (luRecord_within _ _ _ _) .lu (by decide) u).trans (hentry.same (readEntry_within _ _) .lu (by decide) u)
    exact hkeep.trans (congrArg LuEntry.landed (luEntry_of_landing_eq hlu entry))
  have hdone₄ := closeEntry_done hclose (hlanded ▸ htiles)
  have hshow := luShow_within u
  have hmod : (modLu u fun k => { k with phaseB := if k.phaseB = some entry then none else k.phaseB }).Within [.lu] [] :=
    modLu_within (by decide)
  refine ⟨?_, ?_, fun a => (hshow.same .mem (by decide) _ a).trans (hmod.same .mem (by decide) s₄ a)⟩
  · rw [luEntry_of_landing_eq (hshow.same .lu (by decide) _ u), run_modLu, State.luEntry, landing_setLu, if_pos rfl]
    exact hdone₄
  · rw [hshow.same .lu (by decide), run_modLu, landing_setLu, if_pos rfl]
    dsimp only
    split
    · exact nofun
    · assumption

/-! #### Held entries (R148) -/

/-- A held entry is complete once its parts are copied and its header is written (R148). -/
theorem holdCopy_completes {hdr : Nat} {l : List Unit} (hlands : luLands s u = true) (hdone : (s.luEntry u entry).done = false)
    (hcount : entry < s.rdF .LND_LTAB_COUNT Fld.LND_LTAB_COUNT_COUNT u) (hhold : x.hold = true)
    (hok : Reads (entryOk u x) s₁ true s₂) (hhdr : Reads (readHeader u x) s₂ hdr s₃)
    (hcopy : Reads (Prog.mapE x.parts (copyPart u (x.slot (vptr s u)) (x.slot (1 - vptr s u)))) s₃ l s₄)
    (hput : Reads (luWrite u (x.slot (1 - vptr s u)) (leBytes 64 (headerWord (bits 127 0 hdr * 256 + 0x80) (hvalid hdr) (luStep s u) 0
      (decide (hvalid hdr < 16)) (outerDue s u x))) fun _ => noElement) s₄ () s₅) :
    Completes (.holdCopy u entry) s fun t => (t.luEntry u entry).done = true ∧ ∀ a, t.byte a = s₅.byte a := by
  have hexec : exec (.holdCopy u entry) s =
      .next ((modEntry u entry fun e => { e with done := true, wide := decide (hvalid hdr < 16) }).run s₅).2 := by
    refine congrArg Host.Outcome.next ?_
    rw [run_get, if_neg (by simp [hlands, hdone, hcount])]
    refine luDo_leaves (reads_bindE.2 ⟨x, s₁, hentry, ?_⟩)
    rw [if_neg (by simp [hhold])]
    refine reads_bindE.2 ⟨true, s₂, hok, ?_⟩
    rw [if_neg (by decide)]
    exact reads_bindE.2 ⟨hdr, s₃, hhdr, reads_bindE.2 ⟨l, s₄, hcopy, reads_bindE.2 ⟨(), s₅, hput, reads_seq.2 (reads_ret.2 ⟨rfl, rfl⟩)⟩⟩⟩
  refine ⟨_, hexec, ?_, (modEntry_within_lu _ _ _).same .mem (by decide) s₅⟩
  rw [run_modEntry_luEntry, if_pos rfl]

/-! #### Outer updates (R149, R292) -/

/-- An entry's outer update is recorded once its elements are updated from the differences taken (R149, R292). -/
theorem outerUpdate_completes {h : XHdr} {diffs : List (Nat × Nat)} {l : List Unit} (hlands : luLands s u = true)
    (hdone : (s.luEntry u entry).done = true) (hnew : (s.luEntry u entry).outer = false)
    (hdue : s.rdF .LND_STATUS Fld.LND_STATUS_OUTERDUE u = 1) (houter : x.outer = true) (hhdr : Reads (readXHdr u x.cbuf) s₁ h s₂)
    (hdiffs : Reads (takeDiffs u x h ((s.binding ((s.ownerUnit u).getD 0)).outer.headD 0)) s₂ diffs s₃)
    (hrange : Reads (Prog.mapE (List.range ((x.cnt + 4096 * x.group - 1) / (4096 * x.group))) fun q =>
      outerRange u x h (s.luEntry u entry).wide diffs (4096 * x.group * q) (min x.cnt (4096 * x.group * (q + 1)))) s₃ l s₄) :
    Completes (.outerUpdate u entry) s fun t => (t.luEntry u entry).outer = true ∧ ∀ a, t.byte a = s₄.byte a := by
  have hexec : exec (.outerUpdate u entry) s = .next ((modEntry u entry fun e => { e with outer := true }).run s₄).2 := by
    refine congrArg Host.Outcome.next ?_
    rw [run_get]
    dsimp only
    rw [if_pos (by simp [hlands, hdone, hnew, hdue])]
    refine luDo_leaves (reads_bindE.2 ⟨x, s₁, hentry, ?_⟩)
    rw [if_neg (by simp [houter])]
    exact reads_bindE.2 ⟨h, s₂, hhdr, reads_bindE.2 ⟨diffs, s₃, hdiffs, reads_bindE.2 ⟨l, s₄, hrange, reads_seq.2 (reads_ret.2 ⟨rfl, rfl⟩)⟩⟩⟩
  refine ⟨_, hexec, ?_, (modEntry_within_lu _ _ _).same .mem (by decide) s₄⟩
  rw [run_modEntry_luEntry, if_pos rfl]

end Commands
end Phases

/-- Settles O19, phase by phase: each is run to the state that its reads and writes leave, and what it records there. -/
theorem landingPhasesOfAnEntry : Obligations.LandingPhasesOfAnEntry := by
  intro u entry s x s₁ k e c old new hlands hentry
  refine ⟨fun prec s₂ hbegun hdone hroot hfree hlent hidle hopt htiles hprec => ?_,
    fun prec l s₂ s₃ s₄ hbegun hdone hready hopt htiles hprec hphase hclose => ?_,
    fun hdr l s₂ s₃ s₄ s₅ hdone hcount hhold hok hhdr hcopy hput => ?_,
    fun h diffs l s₂ s₃ s₄ hdone hnew hdue houter hhdr hdiffs hrange => ?_⟩
  · exact phaseBStart_completes hentry ⟨hlands, hbegun, hdone, hroot, hfree, hlent, hidle, hopt, htiles⟩ hprec
  · exact phaseCStart_completes hentry hlands hbegun hdone hready hopt htiles hprec hphase hclose
  · exact holdCopy_completes hentry hlands hdone hcount hhold hok hhdr hcopy hput
  · exact outerUpdate_completes hentry hlands hdone hnew hdue houter hhdr hdiffs hrange

end Sys2Proof.Machine

/-! ### Turnarounds (R12, R18, R23 to R27, R134)

What a turnaround does besides the pointers, from settling the areas to restarting joins, leaves the pointers, the
bindings and what each owns as they are: one facet of the state says so for every part of it. -/

namespace Sys2Proof.Machine
open Prog

/-! #### What a turnaround's work leaves -/

/-- The registers that say which binding owns a resource. -/
def ownNames : List RegName := [.BND_STATE, .BND_UNITS, .BND_CLMASK, .BND_CHMASK, .FRY_CH_CFG]

/-- What the registers of ownership read. -/
def State.owns (s : State) (n : RegName) (i j : Nat) : Word := if n ∈ ownNames then s.rd n i j else 0

/-- A Landing Unit's copies of the pointers, and its run of skips (R134, R195). -/
def State.pointers (s : State) (u : Nat) : Nat × Nat × Nat := (vptr s u, mptr s u, s.rdF .LND_SKIPRUN Fld.LND_SKIPRUN_COUNT u)

/-- What a turnaround's work leaves: what each binding owns, the bindings, and each Landing Unit's pointers. -/
def State.steady (s : State) : (RegName → Nat → Nat → Word) × (Nat → Binding) × (Nat → Nat × Nat × Nat) :=
  (s.owns, s.binding, s.pointers)

section Owners
variable {s t : State} (h : t.owns = s.owns)
include h

theorem rd_of_owns (n : RegName) (hn : n ∈ ownNames) (i j : Nat) : t.rd n i j = s.rd n i j := by
  simpa only [State.owns, hn, if_true] using congrFun (congrFun (congrFun h n) i) j

theorem bstate_of_owns (b : Nat) : t.bstate b = s.bstate b :=
  congrArg (getF Fld.BND_STATE_STATE) (rd_of_owns h .BND_STATE (by decide) b 0)

theorem hasUnit_of_owns (b i : Nat) : t.hasUnit b i = s.hasUnit b i :=
  congrArg (fun w => BitVec.toNat w |>.testBit i) (rd_of_owns h .BND_UNITS (by decide) b 0)

theorem lus_of_owns (b : Nat) : t.lus b = s.lus b := List.filter_congr fun _ _ => hasUnit_of_owns h b _

theorem owned_of_owns (b : Nat) : t.owned b = s.owned b := by
  simp only [State.owned, rd_of_owns h .BND_UNITS (by decide), rd_of_owns h .BND_CLMASK (by decide),
    rd_of_owns h .BND_CHMASK (by decide)]

theorem groupOwner_of_owns (g : Nat × Nat) : t.groupOwner g = s.groupOwner g := by
  have hunit (i : Nat) : t.ownerUnit i = s.ownerUnit i := by simp only [State.ownerUnit, hasUnit_of_owns h]
  have hcl (c : Nat) : t.ownerCl c = s.ownerCl c := by simp only [State.ownerCl, rd_of_owns h .BND_CLMASK (by decide)]
  have hch (c : Nat) : t.ownerCh c = s.ownerCh c := by simp only [State.ownerCh, rd_of_owns h .BND_CHMASK (by decide)]
  have hbind (c : Nat) : t.chBind c = s.chBind c := congrArg (getF Fld.FRY_CH_CFG_BIND) (rd_of_owns h .FRY_CH_CFG (by decide) c 0)
  have hbound (b : Nat) : t.bound b = s.bound b := congrArg (fun n => decide (2 ≤ n)) (bstate_of_owns h b)
  simp only [State.groupOwner, State.cdcOwner, hunit, hcl, hch, hbind, hbound]

theorem groupsOf_of_owns (b : Nat) : t.groupsOf b = s.groupsOf b := List.filter_congr fun g _ => by rw [groupOwner_of_owns h]

end Owners

/-- A program that leaves all of it. -/
abbrev Prog.Steady {α : Type} (p : Prog α) : Prop := p.Keeps State.steady

section Steady
variable {α : Type} {l : List Part} {ns : List RegName}

theorem Prog.Within.keeps_owns {p : Prog α} (h : p.Within l ns) (hn : ∀ n ∈ ownNames, n ∉ ns) : p.Keeps State.owns := fun s => by
  funext n i j
  unfold State.owns
  split
  · next hmem => exact h.rd n (hn n hmem) i j s
  · rfl

theorem Prog.Within.keeps_pointers {p : Prog α} (h : p.Within l ns) (hn : ∀ n ∈ [.LND_STATUS, .LND_SKIPRUN], n ∉ ns) :
    p.Keeps State.pointers := fun s => funext fun u => by
  have hrd (n : RegName) (hmem : n ∈ [.LND_STATUS, .LND_SKIPRUN]) (f : Field) : (p.run s).2.rdF n f u = s.rdF n f u :=
    congrArg (getF f) (h.rd n (hn n hmem) u 0 s)
  exact Prod.ext (hrd _ (by decide) _) (Prod.ext (hrd _ (by decide) _) (hrd _ (by decide) _))

theorem Prog.Within.steady {p : Prog α} (h : p.Within l ns) (hb : Part.bnd ∉ l)
    (hn : ∀ n ∈ .LND_STATUS :: .LND_SKIPRUN :: ownNames, n ∉ ns) : p.Steady := fun s =>
  Prod.ext (h.keeps_owns (fun n hmem => hn n (List.mem_cons_of_mem _ (List.mem_cons_of_mem _ hmem))) s)
    (Prod.ext (funext fun b => h.same .bnd hb s b) (h.keeps_pointers (fun n hmem => hn n (List.mem_of_mem_take (i := 2) hmem)) s))

/-- A field of LND_STATUS apart from the pointers may be written. -/
theorem status_steady {f : Field} (hf : fieldFits f .LND_STATUS = true) (hv : fieldsApart f Fld.LND_STATUS_VPTR = true)
    (hm : fieldsApart f Fld.LND_STATUS_MPTR = true) (x u : Nat) : (wrF .LND_STATUS f x u).Steady := fun s => by
  have hw : (wrF .LND_STATUS f x u).Within [.reg] [.LND_STATUS] := .wrF (by decide) (by decide)
  refine Prod.ext (hw.keeps_owns (by decide) s) (Prod.ext (funext fun b => hw.same .bnd (by decide) s b) (funext fun v => ?_))
  exact Prod.ext (wrF_keeps_apart hf (by decide) hv x u 0 v 0 s) (Prod.ext (wrF_keeps_apart hf (by decide) hm x u 0 v 0 s)
    (wrF_keeps_other (by decide) _ _ _ _ _ _ _ s))

theorem modCl_steady (c : Nat) (f : Cluster → Cluster) : (modCl c f).Steady :=
  Within.steady (l := [.cl]) (ns := []) (fun _ => Within.setCl (by decide)) (by decide) (by decide)

theorem modLu_steady (u : Nat) (f : Lu → Lu) : (modLu u f).Steady :=
  Within.steady (l := [.lu]) (ns := []) (modLu_within (by decide)) (by decide) (by decide)

theorem count_steady (set ev k : Nat) (t : Tags) : (count set ev k t).Steady :=
  (count_within _ _ _ _).steady (by decide) (by decide)

theorem logFault_steady (u : Unit') (f : Flt) : (logFault u f).Steady := (logFault_within_fault _ _).steady (by decide) (by decide)

theorem setSeq_steady (c x : Nat) : (setSeq c x).Steady := (setSeq_within c x).steady (by decide) (by decide)

theorem showSeq_steady (c : Nat) : (showSeq c).Steady := (showSeq_within c).steady (by decide) (by decide)

theorem tokenAdd_steady (c x n : Nat) : (tokenAdd c x n).Steady := (tokenAdd_within _ _).steady (by decide) (by decide)

end Steady

/-! #### Landing Units -/

section Landing
variable (u entry idx : Nat)

theorem voteSkip_steady : (voteSkip u).Steady := .get fun _ => .ite .skip <|
  .all_cons (status_steady (by decide) (by decide) (by decide) _ _) <|
  .all_cons (status_steady (by decide) (by decide) (by decide) _ _) <|
  .all_cons (status_steady (by decide) (by decide) (by decide) _ _) <|
  .all_cons (Within.steady (l := [.reg]) (ns := [.LND_SKIPCNT]) (.bumpF (by decide) (by decide)) (by decide) (by decide)) .all_nil

/-- A cause changes of LND_STATUS the vote and the state alone (R154). -/
theorem luCause_steady (c : Cause) : (luCause u c entry idx).Steady := by
  have hreg {p : Prog Unit} (h : p.Within [.reg] [.LND_ERR, .LND_ERRENT, .LND_ERRIDX]) : p.Steady := h.steady (by decide) (by decide)
  exact .get fun _ => .seq (hreg (.wr (by decide) (by decide))) (.ite .skip <| .all_cons (modLu_steady _ _) <|
    .all_cons (hreg (.wrF (by decide) (by decide))) <| .all_cons (hreg (.setF (by decide) (by decide))) <|
    .all_cons (hreg (.wr (by decide) (by decide))) <| .all_cons (voteSkip_steady u) .all_nil)

theorem luStop_steady (e : LuStop) : (luStop u entry e).Steady := by
  cases e with
  | cause c i => exact luCause_steady _ _ _ _
  | causes l => exact .each fun _ => luCause_steady _ _ _ _
  | flt f i keep => exact .ite .skip (.seq (.when (.seq ((errEvent_within_fault _).steady (by decide) (by decide))
      ((selfFailure_within_fault _).steady (by decide) (by decide)))) (.get fun _ => .seq (logFault_steady _ _) (luCause_steady _ _ _ _)))

theorem luDo_steady {p : LuProg Unit} (h : p.Steady) : (luDo u entry p).Steady := .bind h fun r => by
  cases r with
  | ok _ => exact .skip
  | error e => exact luStop_steady _ _ _

theorem putArea_within (a site st cross : Nat) : (putArea u a site st cross).Within memParts memNames :=
  .get fun _ => .bind (vput_within _ _ _) fun r => by cases r <;> exact .ret _

theorem readAreas_within (cbuf : Nat) (h : XHdr) : (readAreas u cbuf h).Within readParts memNames :=
  .mapE fun _ => .bindE (luRecord_within _ _ _ _) fun _ => .ret _

theorem settleAreas_steady (commit : Bool) : (settleAreas u commit).Steady := by
  have hread {β : Type} {p : LuProg β} (h : p.Within readParts memNames) : p.Steady := h.steady (by decide) (by decide)
  refine .get fun s => .ite .skip (.each fun i => luDo_steady _ _ (.bindE (hread (readEntry_within _ _)) fun x => .ite (.ret _) ?_))
  exact .bindE (hread (readXHdr_within _ _)) fun h => .bindE (hread (readAreas_within _ _ _)) fun areas => .bindE
    (.mapE fun _ => (putArea_within _ _ _ _ _).steady (by decide) (by decide)) fun _ => .ret _

end Landing

/-! #### Clusters -/

section Sequencers
variable (c : Nat)

theorem suOutcome_steady (u code : Nat) : (suOutcome u code).Steady := (suOutcome_within _ _).steady (by decide) (by decide)

theorem stopLent_steady (u : Nat) : (stopLent u).Steady :=
  .get fun _ => .each fun x => .when (.all_cons (modCl_steady _ _) (.all_cons
    (Within.steady (l := [.reg]) (ns := [.VEC_STATUS]) (.wrF (by decide) (by decide)) (by decide) (by decide))
    (.all_cons (showSeq_steady x) .all_nil)))

theorem lentError_steady : (lentError c).Steady := by
  have hreg {p : Prog Unit} (h : p.Within [.reg] [.ARY_STATUS, .VEC_STATUS, .SLV_ERR]) : p.Steady := h.steady (by decide) (by decide)
  have hwr {r : RegName} {f : Field} {x i : Nat} (h : r ∈ [.ARY_STATUS, .VEC_STATUS, .SLV_ERR]) : (wrF r f x i).Steady :=
    hreg (.wrF (by decide) h)
  refine .get fun s => ?_
  dsimp only
  have hdrop : (Prog.all [modCl c fun k => Cluster.init k.epoch, wrF .ARY_STATUS Fld.ARY_STATUS_STATE 7 c,
      wrF .VEC_STATUS Fld.VEC_STATUS_STATE 0 c, showSeq c]).Steady :=
    .all_cons (modCl_steady _ _) (.all_cons (hwr (by decide)) (.all_cons (hwr (by decide)) (.all_cons (showSeq_steady c) .all_nil)))
  split
  · exact .seq hdrop (.seq (luCause_steady _ _ _ _) (modLu_steady _ _))
  · split
    · exact .all_cons hdrop (.all_cons (hreg (.setF (by decide) (by decide)))
        (.all_cons (.when (.seq (stopLent_steady _) (suOutcome_steady _ _))) .all_nil))
    · exact .skip

theorem lentFault_steady (f : Flt) : (lentFault c f).Steady := by
  refine .get fun s => .seq ?_ (lentError_steady c)
  split
  · exact luCause_steady _ _ _ _
  · exact .skip

theorem seqFault_steady (a : BitVec 48) (f : Flt) : (seqFault c a f).Steady := by
  have hreg {p : Prog Unit} (h : p.Within [.reg] [.ARY_ERR, .ARY_ERRADDR]) : p.Steady := h.steady (by decide) (by decide)
  exact .get fun _ => .all_cons (setSeq_steady _ _) (.all_cons (hreg (.setF (by decide) (by decide))) (.all_cons
    (hreg (.wr (by decide) (by decide))) (.all_cons (logFault_steady _ _) (.all_cons (modCl_steady _ _) (.all_cons
    (lentFault_steady c f) .all_nil)))))

theorem nonfiniteVote_steady (tag : Nat) : (nonfiniteVote c tag).Steady :=
  .get fun _ => .seq (modCl_steady _ _) (.seq (count_steady _ _ _ _) (.ite .skip (modCl_steady _ _)))

theorem slipPush_steady (x : Tile) : (slipPush c x).Steady := .seq (modCl_steady _ _) (.when (count_steady _ _ _ _))

theorem tileLeft_steady (x : Tile) : (tileLeft c x).Steady := (tileLeft_within x).steady (by decide) (by decide)

theorem release_steady (fuel : Nat) : (release c fuel).Steady := by
  induction fuel with
  | zero => exact .skip
  | succ fuel ih =>
    rw [release]
    refine .get fun s => ?_
    dsimp only
    split
    · exact .when (setSeq_steady _ _)
    · next h r _ =>
      cases h with
      | signal x n => exact .seq (modCl_steady _ _) (.seq (tokenAdd_steady _ _ _) ih)
      | vote tag => exact .seq (modCl_steady _ _) (.seq (nonfiniteVote_steady _ _) ih)
      | retire x => exact .seq (modCl_steady _ _) (.seq ((retire_within _ _).steady (by decide) (by decide)) ih)
      | tile x =>
        refine .ite (.ite (.seq (modCl_steady _ _) (.seq (slipPush_steady _ _) (.seq (tileLeft_steady _ _) ih)))
          (.when (setSeq_steady _ _))) (.bind ((tileStore_within c x).steady (by decide) (by decide)) fun y => ?_)
        cases y with
        | ok _ => exact .seq (modCl_steady _ _) (.seq (tileLeft_steady _ _) ih)
        | error f => exact .ite .skip (seqFault_steady _ _ _)

theorem releaseAll_steady : (releaseAll c).Steady := .get fun _ => .ite .skip (release_steady _ _)

theorem squashStep_steady (d : Dec) (a : BitVec 48) : (squashStep c d a).Steady :=
  .get fun _ => .all_cons (.seq (count_steady _ _ _ _) (.when (count_steady _ _ _ _))) (.all_cons (modCl_steady _ _) .all_nil)

theorem settle_steady (fuel : Nat) : (settle c fuel).Steady := by
  induction fuel with
  | zero => exact .skip
  | succ fuel ih =>
    refine .get fun s => ?_
    split
    · split
      · exact .all_cons (modCl_steady _ _) (.all_cons (releaseAll_steady c) (.all_cons ih .all_nil))
      · exact squashStep_steady _ _ _
      · exact .skip
    · exact .skip

theorem resolveSteps_steady (b k : Nat) (commit : Bool) : (resolveSteps b k commit).Steady :=
  .get fun _ => .each fun x => .get fun _ => .all_cons (modCl_steady _ _) (.all_cons (settle_steady x _) (.all_cons (showSeq_steady x) .all_nil))

end Sequencers

/-! #### Joins and crossings -/

section Ferry
variable (b : Nat)

theorem fryMoored_steady (m : Nat) : (fryMoored b m).Steady := by
  refine .get fun s => .each fun ch => .bind ((readMap_within _).steady (by decide) (by decide)) fun r => ?_
  cases r with
  | error f => exact (chanFault_within _ f).steady (by decide) (by decide)
  | ok map => exact .seq ((sendCtl_within _ _ _ _ _).steady (by decide) (by decide)) (.get fun _ => .seq
      (Within.steady (l := [.chan]) (ns := []) (modCh_within (by decide)) (by decide) (by decide))
      (Within.steady (l := [.reg]) (ns := [.FRY_CH_STATUS]) (.wrF (by decide) (by decide)) (by decide) (by decide)))

theorem entryArrived_within (u i n : Nat) : (entryArrived b u i n).Within readParts memNames :=
  .get fun _ => .bindE (readEntry_within _ _) fun _ => .ite (.ret _) (.bindE (readXHdr_within _ _) fun _ =>
    .bindE (readAreas_within _ _ _) fun _ => .ret _)

theorem arrivedAll_steady (n : Nat) : (arrivedAll b n).Steady :=
  .get fun _ => .bind (.mapM fun _ => (entryArrived_within _ _ _ _).steady (by decide) (by decide)) fun _ => .ret _

end Ferry

/-! #### The pointers (R18, R134, R195) -/

/-- A Landing Unit's pointers and its run of skips after a turnaround's action on them (R18, R195). -/
def turned (commit moor : Bool) (x : Nat × Nat × Nat) : Nat × Nat × Nat :=
  if commit then (1 - x.1, if moor then 1 - x.2.1 else x.2.1, 0) else (x.1, x.2.1, satAdd Fld.LND_SKIPRUN_COUNT.w x.2.2 1)

section Pointers
variable {s : State} (u : Nat) (commit moor : Bool)

/-- A field written, read back at every index. -/
theorem rdF_setReg_at {n : RegName} {f : Field} (h : fieldFits f n = true) (x v : Nat) :
    ((Eff.setReg ⟨n, u, 0⟩ (putF f (s.rd n u) x)).apply s).rdF n f v = if v = u then x % 2 ^ f.w else s.rdF n f v := by
  split
  · next e => rw [e, State.rdF_setReg_field _ h]
  · next e => exact congrArg (getF f) (State.rd_setReg_ne s ⟨n, u, 0⟩ _ n v 0 (by simp [e]))

/-- What the action writes into the pointers. -/
def pointersTurn (v m : Nat) : Prog Unit :=
  if commit then Prog.all [
    wrF .LND_STATUS Fld.LND_STATUS_VPTR (1 - v) u,
    Prog.when moor (wrF .LND_STATUS Fld.LND_STATUS_MPTR (1 - m) u),
    wrF .LND_SKIPRUN Fld.LND_SKIPRUN_COUNT 0 u]
  else bumpF .LND_SKIPRUN Fld.LND_SKIPRUN_COUNT 1 u

theorem pointersTurn_turns (v : Nat) : ((pointersTurn u commit moor (vptr s u) (mptr s u)).run s).2.pointers v =
    if v = u then turned commit moor (s.pointers v) else s.pointers v := by
  have hskip (x : Nat) : satAdd 16 x 1 < 65536 := by unfold satAdd; omega
  have hflip (x : Nat) : (1 - x) % 2 = 1 - x := by omega
  by_cases hv : v = u
  · subst hv
    cases commit with
    | false => simp (disch := decide) [pointersTurn, State.pointers, turned, vptr, mptr, rdF_setReg_at, State.rdF_setReg_name_ne, hskip]
    | true => cases moor <;> simp (disch := decide) [pointersTurn, State.pointers, turned, vptr, mptr, rdF_setReg_at,
        State.rdF_setReg_apart, State.rdF_setReg_name_ne, hflip]
  · cases commit with
    | false => simp (disch := decide) [pointersTurn, State.pointers, vptr, mptr, rdF_setReg_at, State.rdF_setReg_name_ne, hv]
    | true => cases moor <;> simp (disch := decide) [pointersTurn, State.pointers, vptr, mptr, rdF_setReg_at,
        State.rdF_setReg_apart, State.rdF_setReg_name_ne, hv]

theorem pointerAction_run : (pointerAction u commit moor).run s = (wrF .LND_STATUS Fld.LND_STATUS_PENDMOOR 0 u).run
    ((pointersTurn u commit moor (vptr s u) (mptr s u)).run ((settleAreas u commit).run s).2).2 := by
  simp only [pointerAction, pointersTurn, run_get, run_all_cons, run_all_nil]

/-- The action turns its own unit's pointers alone. -/
theorem pointerAction_turns (v : Nat) : ((pointerAction u commit moor).run s).2.pointers v =
    if v = u then turned commit moor (s.pointers v) else s.pointers v := by
  have hsettle : ((settleAreas u commit).run s).2.pointers = s.pointers := congrArg (·.2.2) (settleAreas_steady u commit s)
  obtain ⟨hv, hm, -⟩ : vptr _ u = vptr s u ∧ mptr _ u = mptr s u ∧ _ := by
    simpa only [State.pointers, Prod.mk.injEq] using congrFun hsettle u
  have hmoor := congrArg (·.2.2) (status_steady (f := Fld.LND_STATUS_PENDMOOR) (by decide) (by decide) (by decide) 0 u
    ((pointersTurn u commit moor (vptr s u) (mptr s u)).run ((settleAreas u commit).run s).2).2)
  rw [pointerAction_run, ← hsettle, ← pointersTurn_turns, hv, hm]
  exact congrFun hmoor v

theorem pointerAction_keeps : (pointerAction u commit moor).Keeps fun s => (s.owns, s.binding) := by
  have hreg {p : Prog Unit} (h : p.Within [.reg] [.LND_STATUS, .LND_SKIPRUN]) : p.Keeps fun s => (s.owns, s.binding) := fun s =>
    Prod.ext (h.keeps_owns (by decide) s) (funext fun b => h.same .bnd (by decide) s b)
  refine .get fun s => .all_cons ((settleAreas_steady u commit).comp fun x => (x.1, x.2.1)) (.all_cons (hreg ?_)
    (.all_cons (hreg (.wrF (by decide) (by decide))) .all_nil))
  simp (maxDischargeDepth := 30)

theorem pointerActions_turn {l : List Nat} (hl : l.Nodup) (v : Nat) :
    (((Prog.each l fun u => pointerAction u commit moor).run s).2.pointers v) =
      if v ∈ l then turned commit moor (s.pointers v) else s.pointers v := by
  induction l generalizing s with
  | nil => rfl
  | cons u l ih =>
    obtain ⟨hu, hl⟩ := List.nodup_cons.1 hl
    rw [run_each_cons, ih hl, pointerAction_turns]
    by_cases hv : v = u
    · rw [if_neg (hv ▸ hu), if_pos hv, if_pos (List.mem_cons.2 (.inl hv))]
    · simp only [hv, if_false, List.mem_cons, false_or]

end Pointers

/-! #### The turnaround (R18, R25, R305) -/

theorem run_all_one (p : Prog Unit) (s : State) : ((Prog.all [p]).run s).2 = (p.run s).2 := by
  rw [run_all_cons, run_all_nil]

theorem run_all_append (l l' : List (Prog Unit)) (s : State) :
    ((Prog.all (l ++ l')).run s).2 = ((Prog.all l').run ((Prog.all l).run s).2).2 := by
  induction l generalizing s with
  | nil => rw [List.nil_append, run_all_nil]
  | cons p l ih => rw [List.cons_append, run_all_cons, ih, run_all_cons]

section Turnaround
variable (b : Nat)

/-- What a change of a binding leaves, with what it leaves of the binding. -/
theorem modBnd_keeps_turning {β : Type} {F : Binding → β} {f : Binding → Binding} (h : ∀ k, F (f k) = F k) :
    (modBnd b f).Keeps fun s => (s.owns, F (s.binding b), s.pointers) := fun s => by
  have hw : (modBnd b f).Within [.bnd] [] := fun _ => Within.setBnd (by decide)
  have hF : F (((modBnd b f).run s).2.binding b) = F (s.binding b) := by rw [run_modBnd, binding_setBnd, if_pos rfl, h]
  exact Prod.ext (hw.keeps_owns (by decide) s) (Prod.ext hF (hw.keeps_pointers (by decide) s))

theorem Prog.Keeps.turning {α β : Type} {p : Prog α} (h : p.Steady) (F : Binding → β) :
    p.Keeps fun s => (s.owns, F (s.binding b), s.pointers) := h.comp fun x => (x.1, F (x.2.1 b), x.2.2)

/-- The lead shows TURN, and no pointer moves (R158). -/
theorem showTurn_steady : (showTurn b).Steady := by
  refine .get fun s => ?_
  split
  · exact .skip
  · exact .seq (modLu_steady _ _) (status_steady (by decide) (by decide) (by decide) _ _)

theorem showTurn_shows {s : State} {u : Nat} (h : leadOf (s.owned b) = some u) :
    ((showTurn b).run s).2.rdF .LND_STATUS Fld.LND_STATUS_STATE u = 5 := by
  rw [showTurn, run_get, h]
  exact State.rdF_setReg_field _ (by decide) _ _ _

/-- A turnaround begins (R18). -/
def turnBegin (b : Nat) (d : Option Bool) : Prog Unit := modBnd b fun k => { k with turning := some d, decision := none }

/-- The strobe waits for every group of the binding (R307). -/
def turnAwait (b : Nat) : Prog Unit := .get fun s => modBnd b fun k => { k with await := s.groupsOf b }

/-- With no image to take, a program has the rest to do. -/
theorem run_without_images (p q r : Prog Unit) (f g : Image → Prog Unit) (s : State) :
    ((Prog.all [p, q, Prog.each [] f, Prog.each [] g, r]).run s).2 = (r.run (q.run (p.run s).2).2).2 := by
  simp only [run_all_cons, run_all_nil, run_each_nil]

theorem raiseStrobe_run {s : State} (d : Option Bool) (h : (s.binding b).taken = []) :
    ((raiseStrobe b d).run s).2 = ((turnAwait b).run ((showTurn b).run ((turnBegin b d).run s).2).2).2 := by
  rw [raiseStrobe, run_get, h]
  exact run_without_images ..

/-- Where no image is taken, the strobe is raised for every group of the binding (R158, R305). -/
theorem raiseStrobe_raises {s : State} (d : Option Bool) (h : (s.binding b).taken = []) : let t := ((raiseStrobe b d).run s).2
    t.owns = s.owns ∧ t.pointers = s.pointers ∧
    t.binding b = { s.binding b with turning := some d, decision := none, await := s.groupsOf b } ∧
    ∀ u, leadOf (s.owned b) = some u → t.rdF .LND_STATUS Fld.LND_STATUS_STATE u = 5 := by
  intro t
  have ht : t = _ := raiseStrobe_run b d h
  have hbegin := modBnd_keeps_turning b (F := fun _ => ()) (f := fun k => { k with turning := some d, decision := none }) (fun _ => rfl) s
  have hbnd : ((turnBegin b d).run s).2.binding b = { s.binding b with turning := some d, decision := none } := by
    rw [turnBegin, run_modBnd, binding_setBnd, if_pos rfl]
  rw [← turnBegin] at hbegin
  generalize ((turnBegin b d).run s).2 = m at *
  have hshow := showTurn_steady b m
  have hlead (u : Nat) := showTurn_shows b (s := m) (u := u)
  generalize ((showTurn b).run m).2 = m' at *
  have hwait := modBnd_keeps_turning b (F := fun _ => ()) (f := fun k => { k with await := m'.groupsOf b }) (fun _ => rfl) m'
  simp only [State.steady, Prod.mk.injEq, true_and] at hbegin hshow hwait
  obtain ⟨hown, hptr⟩ := hbegin
  obtain ⟨hown', hbnd', hptr'⟩ := hshow
  rw [turnAwait, run_get] at ht
  rw [← ht] at hwait
  refine ⟨hwait.1.trans (hown'.trans hown), hwait.2.trans (hptr'.trans hptr), ?_, fun u hu => ?_⟩
  · rw [ht, run_modBnd, binding_setBnd, if_pos rfl, hbnd', hbnd, groupsOf_of_owns (hown'.trans hown)]
  · rw [ht, run_modBnd, rdF_setBnd]
    exact hlead u ((congrArg leadOf (owned_of_owns hown b)).trans hu)

/-- A crossing that closes leaves the images taken and the commit counter (R25). -/
theorem crossingClose_keeps (k n : Nat) :
    (crossingClose b k n).Keeps fun s => (s.owns, ((s.binding b).taken, (s.binding b).commit), s.pointers) :=
  .get fun _ => .bind ((arrivedAll_steady b n).turning b fun k => (k.taken, k.commit)) fun _ => .when
    (modBnd_keeps_turning b (F := fun k => (k.taken, k.commit)) fun _ => rfl)

/-- The counters of a turnaround (R18, R25). -/
def turnCount (b : Nat) (d moor outer : Bool) (n : Nat) : Prog Unit := modBnd b fun k => { k with
  commit := if d then k.commit + 1 else k.commit
  moored := if moor then n else k.moored
  outer := if outer then k.outer.drop 1 else k.outer }

/-- The step of a binding wrote a pending mooring (R134). -/
def State.moors (s : State) (b : Nat) : Bool := (s.lus b).any fun u => s.rdF .LND_STATUS Fld.LND_STATUS_PENDMOOR u == 1

/-- A binding's step did an outer update (R149). -/
def State.updates (s : State) (b : Nat) : Bool := (s.lus b).any fun u => s.rdF .LND_STATUS Fld.LND_STATUS_OUTERDUE u == 1

/-- What a turnaround does before it raises the strobe. -/
def turnWork (s : State) (b : Nat) (d : Bool) : Prog Unit := Prog.all [
  Prog.each (s.lus b) fun u => pointerAction u d (d && s.moors b),
  turnCount b d (d && s.moors b) (d && s.updates b) ((s.binding b).outer.headD 0),
  Prog.when (d && s.moors b) (fryMoored b ((s.binding b).outer.headD 0)),
  resolveSteps b (s.binding b).step d,
  Prog.each (s.binding b).xopen (crossingClose b (s.binding b).step)]

theorem exec_turnaround {b : Fin 8} {s : State} {d : Bool} (hdec : (s.binding b).decision = some d)
    (hturn : (s.binding b).turning = none) (hst : s.bstate b = 3) :
    exec (.turnaround b) s = .next ((raiseStrobe b (some d)).run ((turnWork s b d).run s).2).2 := by
  refine congrArg Host.Outcome.next (Eq.trans ?_ ((run_all_append [_, _, _, _, _] [raiseStrobe b (some d)] s).trans (run_all_one ..)))
  rw [hdec, hturn]
  dsimp only
  rw [if_neg (not_not.2 hst), turnCount, State.moors, State.updates]
  rfl

/-- What follows the pointers and the counters leaves them. -/
theorem turnRest_keeps (s : State) (d : Bool) : (Prog.all [
      Prog.when (d && s.moors b) (fryMoored b ((s.binding b).outer.headD 0)),
      resolveSteps b (s.binding b).step d,
      Prog.each (s.binding b).xopen (crossingClose b (s.binding b).step)]).Keeps
    fun s => (s.owns, ((s.binding b).taken, (s.binding b).commit), s.pointers) :=
  .all_cons (.when ((fryMoored_steady b _).turning b fun k => (k.taken, k.commit)))
    (.all_cons ((resolveSteps_steady b _ d).turning b fun k => (k.taken, k.commit)) (.all_cons (.each (crossingClose_keeps b _)) .all_nil))

theorem turnCount_counts (s : State) (d moor outer : Bool) (n : Nat) : let t := ((turnCount b d moor outer n).run s).2
    t.owns = s.owns ∧ t.pointers = s.pointers ∧ (t.binding b).taken = (s.binding b).taken ∧
    (t.binding b).commit = if d then (s.binding b).commit + 1 else (s.binding b).commit := by
  intro t
  have hkeep := modBnd_keeps_turning b (F := fun k => k.taken) (f := fun k => { k with
    commit := if d then k.commit + 1 else k.commit
    moored := if moor then n else k.moored
    outer := if outer then k.outer.drop 1 else k.outer }) (fun _ => rfl) s
  rw [← turnCount] at hkeep
  simp only [Prod.mk.injEq] at hkeep
  obtain ⟨hown, htaken, hptr⟩ := hkeep
  refine ⟨hown, hptr, htaken, ?_⟩
  simp only [t, turnCount, run_modBnd, binding_setBnd, if_true]

theorem turnWork_leaves (s : State) (d : Bool) : let t := ((turnWork s b d).run s).2
    t.owns = s.owns ∧ (t.binding b).taken = (s.binding b).taken ∧
    (t.binding b).commit = (if d then (s.binding b).commit + 1 else (s.binding b).commit) ∧
    ∀ u ∈ s.lus b, t.pointers u = turned d (d && s.moors b) (s.pointers u) := by
  intro t
  have hturn := fun u => pointerActions_turn d (d && s.moors b) (l := s.lus b) (s := s) (List.nodup_range.filter _) u
  have hkeep := Keeps.each (fun u => pointerAction_keeps u d (d && s.moors b)) (xs := s.lus b) s
  have ht : t = _ := congrArg Prod.snd ((run_all_cons ..).trans (run_all_cons ..))
  generalize ((Prog.each (s.lus b) fun u => pointerAction u d (d && s.moors b)).run s).2 = m at *
  obtain ⟨hown, hptr, htaken, hcommit⟩ := turnCount_counts b m d (d && s.moors b) (d && s.updates b) ((s.binding b).outer.headD 0)
  generalize ((turnCount b d (d && s.moors b) (d && s.updates b) ((s.binding b).outer.headD 0)).run m).2 = m' at *
  have hrest := turnRest_keeps b s d m'
  rw [← ht] at hrest
  simp only [Prod.mk.injEq] at hkeep hrest
  obtain ⟨hown', ⟨htaken', hcommit'⟩, hptr'⟩ := hrest
  refine ⟨hown'.trans (hown.trans hkeep.1), ?_, ?_, fun u hu => ?_⟩
  · rw [htaken', htaken, hkeep.2]
  · rw [hcommit', hcommit, hkeep.2]
  · rw [hptr', hptr, hturn, if_pos hu]

/-- A turnaround executes the decision (R18, R134, R158, R195, R305). -/
theorem turnaround_completes {b : Fin 8} {s : State} {d : Bool} (hdec : (s.binding b).decision = some d)
    (hturn : (s.binding b).turning = none) (hst : s.bstate b = 3) (htaken : (s.binding b).taken = []) :
    Completes (.turnaround b) s fun t => (t.binding b).turning = some (some d) ∧ (t.binding b).decision = none ∧
      (t.binding b).await = s.groupsOf b ∧
      (t.binding b).commit = (if d then (s.binding b).commit + 1 else (s.binding b).commit) ∧
      (∀ u, leadOf (s.owned b) = some u → t.rdF .LND_STATUS Fld.LND_STATUS_STATE u = 5) ∧
      ∀ u ∈ s.lus b, t.pointers u = turned d (d && s.moors b) (s.pointers u) := by
  refine ⟨_, exec_turnaround hdec hturn hst, ?_⟩
  obtain ⟨hown, htaken', hcommit, hptr⟩ := turnWork_leaves b s d
  generalize ((turnWork s b d).run s).2 = m at *
  obtain ⟨-, hptr', hbnd, hlead⟩ := raiseStrobe_raises b (some d) (htaken'.trans htaken)
  rw [hbnd, hptr']
  exact ⟨rfl, rfl, groupsOf_of_owns hown b, hcommit, fun u hu => hlead u ((congrArg leadOf (owned_of_owns hown b)).trans hu), hptr⟩

/-- Without a decision, in a turnaround or out of a step nothing happens. -/
theorem turnaround_idle {b : Fin 8} {s : State}
    (h : (s.binding b).decision = none ∨ (s.binding b).turning.isSome ∨ s.bstate b ≠ 3) :
    Completes (.turnaround b) s fun t => t = s := by
  refine ⟨s, congrArg Host.Outcome.next ?_, rfl⟩
  split
  · next d hdec hturn =>
    rw [if_pos (by simpa [hdec, hturn] using h), run_skip]
  · rw [run_skip]

end Turnaround
end Sys2Proof.Machine

/-! ### The end of a turnaround (R12, R18, R24 to R26)

What a strobe's acknowledgement sets in motion leaves the bindings, their states and their units alone, but for what
it says of them itself. -/

namespace Sys2Proof.Machine
open Prog

/-! #### What leaves the bindings, their units and the units' steps -/

/-- Every register but a binding's state and units, and the step of a Landing Unit. -/
def turnNames : List RegName := RegName.all.filter (· ∉ [.BND_STATE, .BND_UNITS, .LND_STEP])

@[simp] theorem mem_turnNames (n : RegName) : n ∈ turnNames ↔ n ≠ .BND_STATE ∧ n ≠ .BND_UNITS ∧ n ≠ .LND_STEP := by
  simp [turnNames, RegName.mem_all]

/-- A program that leaves the bindings, their states and units, and the units' steps alone. -/
abbrev Prog.Spares {α : Type} (p : Prog α) : Prop := p.Within restParts turnNames

/-- A binding's state, the binding, and its Landing Units. -/
def State.placed (s : State) (b : Nat) : Nat × Binding × List Nat := (s.bstate b, s.binding b, s.lus b)

section Spares
variable {α : Type} {l : List Part} {ns : List RegName} {p : Prog α}

theorem Prog.Within.spares (h : p.Within l ns) (hl : Part.bnd ∉ l) (hn : ∀ n ∈ [.BND_STATE, .BND_UNITS, .LND_STEP], n ∉ ns) :
    p.Spares :=
  h.mono (fun q hq => (mem_restParts q).2 fun e => hl (e ▸ hq)) fun q hq => (mem_turnNames q).2
    ⟨fun e => hn _ (by decide) (e ▸ hq), fun e => hn _ (by decide) (e ▸ hq), fun e => hn _ (by decide) (e ▸ hq)⟩

theorem lus_congr {s t : State} {b : Nat} (h : t.rd .BND_UNITS b = s.rd .BND_UNITS b) : t.lus b = s.lus b := by
  unfold State.lus State.hasUnit
  rw [h]

theorem Prog.Within.leaves_placed (h : p.Within l ns) (hl : Part.bnd ∉ l) (hn : ∀ n ∈ [.BND_STATE, .BND_UNITS], n ∉ ns) (b : Nat) :
    p.Keeps fun s => s.placed b := fun s =>
  Prod.ext (congrArg (getF Fld.BND_STATE_STATE) (h.rd .BND_STATE (hn _ (by decide)) b 0 s))
    (Prod.ext (h.same .bnd hl s b) (lus_congr (h.rd .BND_UNITS (hn _ (by decide)) b 0 s)))

theorem Prog.Within.keeps_placed (h : p.Spares) (b : Nat) : p.Keeps fun s => s.placed b :=
  h.leaves_placed (by simp) (by simp) b

theorem Prog.Within.keeps_luStep (h : p.Spares) (u : Nat) : p.Keeps fun s => s.rdF .LND_STEP Fld.LND_STEP_STEP u := fun s =>
  congrArg (getF Fld.LND_STEP_STEP) (h.rd .LND_STEP (by simp) u 0 s)

end Spares

section Units
variable (i : Nat)

@[simp] theorem modCl_spares (f : Cluster → Cluster) : (modCl i f).Spares := fun _ => Within.setCl (by decide)

@[simp] theorem modLu_spares (f : Lu → Lu) : (modLu i f).Spares := modLu_within (by decide)

@[simp] theorem modHq_spares (f : HQueue → HQueue) : (modHq i f).Spares := fun _ => Within.setHq (by decide)

@[simp] theorem modMov_spares (f : Mover → Mover) : (modMov i f).Spares := fun _ => Within.setMov (by decide)

@[simp] theorem modCodec_spares (f : Codec → Codec) : (modCodec i f).Spares := fun _ => Within.setCodec (by decide)

@[simp] theorem count_spares (set ev k : Nat) (t : Tags) : (count set ev k t).Spares :=
  (count_within _ _ _ _).spares (by decide) (by decide)

@[simp] theorem showSeq_spares : (showSeq i).Spares := (showSeq_within i).spares (by decide) (by decide)

@[simp] theorem setVecSt_spares (x : Nat) : (setVecSt i x).Spares := (setVecSt_within i x).spares (by decide) (by decide)

@[simp] theorem luCause_spares (c : Cause) (entry idx : Nat) : (luCause i c entry idx).Spares :=
  (luCause_within _ _ _ _).spares (by decide) (by decide)

@[simp] theorem ceShow_spares : (ceShow i).Spares := (ceShow_within i).spares (by decide) (by decide)

@[simp] theorem freeVal_spares : freeVal.Spares := freeVal_within (by decide)

@[simp] theorem glbEvent_spares : (glbEvent i).Spares := by
  simp (maxDischargeDepth := 30) [glbEvent]

@[simp] theorem logFault_spares (u : Unit') (f : Flt) : (logFault u f).Spares := (logFault_within_fault _ _).spares (by decide) (by decide)

@[simp] theorem stopLent_spares : (stopLent i).Spares := by
  simp (maxDischargeDepth := 30) [stopLent]

@[simp] theorem movShow_spares : (movShow i).Spares := by
  simp (maxDischargeDepth := 30) [movShow, setMovState]

@[simp] theorem setChState_spares (x : Nat) : (setChState i x).Spares := (setChState_within i x).spares (by decide) (by decide)

@[simp] theorem chStopDo_spares : (chStopDo i).Spares := by
  simp (maxDischargeDepth := 30) [chStopDo]

theorem drainSeq_spares : (drainSeq i).Spares := by
  have hsquash (d : Dec) (a : BitVec 48) : (squashStep i d a).Spares := by
    simp (maxDischargeDepth := 30) [squashStep, countSquash]
  refine .get fun s => .all_cons (modCl_spares _ _) (.all_cons ?_ (.all_cons (showSeq_spares i) .all_nil))
  split
  · exact hsquash _ _
  · exact .skip

theorem drainMov_spares : (drainMov i).Spares := by
  have hput (idx w st : Nat) : (putStatus i idx w st .skip).Spares := by
    refine .get fun s => .bind ((vput_within _ _ _).spares (by decide) (by decide)) fun r => ?_
    cases r with
    | ok _ => exact .skip
    | error f => simp (maxDischargeDepth := 30) [modFlight]
  simp (maxDischargeDepth := 30) [drainMov, modFlight, setMovState, hput]

/-- A resource that drains touches no binding (R155, R242, R397). -/
theorem drainUnit_spares : (drainUnit i).Spares := by
  simp (maxDischargeDepth := 30) [drainUnit, drainSeq_spares, vecStopDo, drainLu, stopSu, setSuState, drainCe, drainMov_spares]

end Units

/-! #### Channels and codecs as the step ends (R24, R216, R291) -/

section Channels
variable (ch : Nat)

@[simp] theorem modCh_spares (f : Chan → Chan) : (modCh ch f).Spares := modCh_within (by decide)

@[simp] theorem sendCtl_spares (typ stream group : Nat) (body : List Byte) : (sendCtl ch typ stream group body).Spares :=
  (sendCtl_within ch typ stream group body).spares (by decide) (by decide)

theorem retireOld_spares : (retireOld ch).Spares := by
  refine .get fun s => ?_
  split
  · exact .skip
  · simp (maxDischargeDepth := 30) [holdBerth, journalBerth, jnlHand]

theorem dropAreas_spares (u n : Nat) (pairs : List (Nat × Nat)) : (dropAreas u n pairs).Spares := by
  have hread {β : Type} {p : LuProg β} (h : p.Within readParts memNames) : p.Spares := h.spares (by decide) (by decide)
  have hput (a site st cross : Nat) : (putArea u a site st cross).Spares := (putArea_within _ _ _ _ _).spares (by decide) (by decide)
  refine .get fun s => .each fun i => .bind (.bindE (hread (readEntry_within _ _)) fun x => .ite (.ret _) (.bindE
    (hread (readXHdr_within _ _)) fun h => .bindE (hread (readAreas_within _ _ _)) fun areas => .bindE (.mapE fun _ => hput _ _ _ _)
    fun _ => .ret _)) fun r => ?_
  cases r with
  | ok _ => exact .skip
  | error e => exact (luStop_within _ _ _).spares (by decide) (by decide)

theorem fryCrossing_spares (b : Nat) : (fryCrossing b).Spares := by
  have hlast (m : Nat) (c : Nat) (s : State) : (match (s.ch m).new with
      | some n => Prog.when ((s.ch m).old.isSome && decide (n.from' + 2 ≤ c)) (retireOld m)
      | none => .skip).Spares := by
    split
    · exact .when (retireOld_spares m)
    · exact .skip
  refine .get fun s => ?_
  dsimp only
  exact .all_cons (.each fun p => .all_cons (modCh_spares _ _) (.all_cons (.bumpF (by simp) (by simp))
      (.all_cons (sendCtl_spares _ _ _ _ _) .all_nil)))
    (.all_cons (.each fun u => .when (dropAreas_spares _ _ _))
    (.all_cons (.each fun m => (releaseHeld_within _ _).spares (by decide) (by decide))
    (.all_cons (.each fun m => hlast _ _ _) .all_nil)))

theorem switchBank_spares (e : Nat) : (switchBank e).Spares := by
  simp (maxDischargeDepth := 30) [switchBank, othState]

theorem cdcTurn_spares (e n : Nat) : (cdcTurn e n).Spares := by
  simp (maxDischargeDepth := 30) [cdcTurn, switchBank_spares]

theorem cdcLate_spares (e : Nat) : (cdcLate e).Spares := by
  simp (maxDischargeDepth := 30) [cdcLate, switchBank_spares]

end Channels

/-! #### What shows the end of a turnaround (R158, R319, R324, R396) -/

section Shows
variable (b : Nat)

theorem complete_spares (q status detail result : Nat) : (complete q status detail result).Spares := by
  have hput (a : Nat) (d : List Byte) : (physPut a d).Spares := (physPut_within a d).spares (by decide) (by decide)
  refine .get fun s => ?_
  dsimp only
  split
  · exact .skip
  · simp (maxDischargeDepth := 30) [writeCompletion, setQstate, hput]

theorem endTurn_spares : (endTurn b).Spares := by
  simp (maxDischargeDepth := 30) [endTurn]

theorem showCounters_spares : (showCounters b).Spares := by
  simp (maxDischargeDepth := 30) [showCounters]

theorem showCounts_spares : showCounts.Spares := by
  simp (maxDischargeDepth := 30) [showCounts]

theorem showArmed_spares : (showArmed b).Spares := by
  simp (maxDischargeDepth := 30) [showArmed]

theorem rebindLater_spares : (rebindLater b).Spares := by
  refine .get fun s => ?_
  split
  · exact .when (.seq (.setRb (by simp)) (.each fun i => drainUnit_spares i))
  · exact .skip

theorem suDue_spares (u k : Nat) : (suDue u k).Spares := by
  have hmod (f : Su → Su) : (modSu u f).Spares := fun _ => Within.setSu (by decide)
  simp (maxDischargeDepth := 30) [suDue, hmod]

theorem ceNewStep_spares (n step : Nat) : (ceNewStep n step).Spares :=
  .seq (modCe_within _ (by decide)) ((ceRetry_within n).spares (by decide) (by decide))

theorem hornNewStep_spares (step : Nat) : (hornNewStep b step).Spares := by
  have hmod (f : Vote → Vote) : (modVote b f).Spares := fun _ => Within.setVote (by decide)
  simp (maxDischargeDepth := 30) [hornNewStep, hmod]

end Shows

end Sys2Proof.Machine

/-! ### The strobe acknowledged (R12, R18, R24, R397) -/

namespace Sys2Proof.Machine
open Prog

/-! #### Programs that change what is read of a state by a function -/

section Makes
variable {β : Type} {g : State → β} {p q : Prog Unit} {f f' : β → β}

/-- A program that changes what `g` reads by `f`. -/
def Prog.Makes (p : Prog Unit) (g : State → β) (f : β → β) : Prop := ∀ s, g (p.run s).2 = f (g s)

theorem Prog.Keeps.makes (h : p.Keeps g) : p.Makes g id := h

theorem Prog.Makes.seq (hp : p.Makes g f) (hq : q.Makes g f') : (p.seq q).Makes g fun x => f' (f x) := fun s => by
  rw [run_seq, hq, hp]

theorem Prog.Makes.all_nil : (Prog.all []).Makes g id := fun _ => rfl

theorem Prog.Makes.all_cons {r : List (Prog Unit)} (hp : p.Makes g f) (hr : (Prog.all r).Makes g f') :
    (Prog.all (p :: r)).Makes g fun x => f' (f x) := hp.seq hr

end Makes

/-! #### The step counter and the crossings (R18, R24) -/

/-- A binding after `n` crossings more have opened (R24). -/
def Binding.opened (k : Binding) (n : Nat) : Binding :=
  { k with xopen := k.xopen ++ (List.range n).map (fun i => k.cross + 1 + i), cross := k.cross + n }

theorem Binding.opened_succ (k : Binding) (n : Nat) :
    ({ k with xopen := k.xopen ++ [k.cross + 1], cross := k.cross + 1 } : Binding).opened n = k.opened (n + 1) := by
  simp only [opened, List.range_succ_eq_map, List.map_cons, List.map_map, List.append_assoc, List.cons_append, List.nil_append,
    Function.comp_def, Nat.succ_eq_add_one, Nat.add_assoc, Nat.add_comm 1]

section Steps
variable (b : Nat)

/-- A program that changes binding `b` by `f`, and neither its state nor its units. -/
abbrev Prog.Places (p : Prog Unit) (f : Binding → Binding) : Prop := p.Makes (fun s => s.placed b) fun x => (x.1, f x.2.1, x.2.2)

variable {b}

theorem Prog.Within.places {p : Prog Unit} (h : p.Spares) : p.Places b id := h.keeps_placed b

theorem modBnd_places (f : Binding → Binding) : (modBnd b f).Places b f := fun s => by
  have hw : (modBnd b f).Within [.bnd] [] := fun _ => Within.setBnd (by decide)
  have hbnd : ((modBnd b f).run s).2.binding b = f (s.binding b) := by rw [run_modBnd, binding_setBnd, if_pos rfl]
  exact Prod.ext (congrArg (getF Fld.BND_STATE_STATE) (hw.rd .BND_STATE (by simp) b 0 s))
    (Prod.ext hbnd (lus_congr (hw.rd .BND_UNITS (by simp) b 0 s)))

theorem crossingOpens_places {α : Type} (l : List α) : (Prog.each l fun _ => crossingOpen b).Places b fun k => k.opened l.length := by
  induction l with
  | nil => exact fun s => by simp [State.placed, Binding.opened]
  | cons a l ih =>
    have hopen : (crossingOpen b).Places b fun z => { z with xopen := z.xopen ++ [z.cross + 1], cross := z.cross + 1 } :=
      (modBnd_places _).seq (fryCrossing_spares b).places
    exact fun s => (hopen.seq ih s).trans (congrArg (fun k => (s.bstate b, k, s.lus b)) (Binding.opened_succ _ _))

/-- How many crossings open as step `n` ends: at a commit of a binding with Landing Units those whose time has come (R24). -/
def State.opens (s : State) (b n : Nat) (commit : Bool) : Nat :=
  if !(s.lus b).isEmpty && (commit && (s.binding b).h != 0) then n / (s.binding b).h - (s.binding b).cross else 0

/-- A binding past step `n` (R12). -/
def Binding.past (k : Binding) (n : Nat) : Binding := { k with step := n + 1, voted := false }

theorem crossings_placed (n : Nat) (commit : Bool) (s : State) :
    ((Prog.when (!(s.lus b).isEmpty) (crossings b n commit)).run s).2.placed b =
      (s.bstate b, (s.binding b).opened (s.opens b n commit), s.lus b) := by
  have hnone : s.placed b = (s.bstate b, (s.binding b).opened 0, s.lus b) := by
    simp [State.placed, Binding.opened]
  rw [State.opens]
  cases hl : (s.lus b).isEmpty
  · simp only [Bool.not_false, Bool.true_and, Prog.when, if_true, crossings, run_get]
    split
    · next hc => exact (crossingOpens_places _ s).trans (by rw [List.length_range]; rfl)
    · exact hnone
  · exact hnone

/-- The step counter is past the step, and the crossings whose time has come are open (R12, R24). -/
theorem stepPast_placed (n : Nat) (commit : Bool) (s : State) : ((stepPast b n commit).run s).2.placed b =
    (s.bstate b, ((s.binding b).past n).opened (s.opens b n commit), s.lus b) := by
  have hstep (u : Nat) : (wrF .LND_STEP Fld.LND_STEP_STEP (n + 1) u).Keeps fun s => s.placed b :=
    Within.leaves_placed (l := [.reg]) (ns := [.LND_STEP]) (.wrF (by decide) (by decide)) (by decide) (by decide) b
  have hpast := modBnd_places (b := b) (fun x => { x with step := n + 1, voted := false }) s
  rw [stepPast, run_get, run_all_cons, run_all_cons]
  refine (Keeps.all_cons (.each hstep) (.all_cons (.each fun e => (cdcTurn_spares e _).keeps_placed b) (.all_cons
    (.each fun c => .all_cons ((modCl_spares _ _).keeps_placed b) .all_nil)
    (.all_cons (.each fun u => (suDue_spares u n).keeps_placed b) .all_nil))) _).trans ?_
  generalize ((modBnd b fun x => { x with step := n + 1, voted := false }).run s).2 = m at *
  simp only [State.placed, Prod.mk.injEq] at hpast
  obtain ⟨hst, hbnd, hlus⟩ := hpast
  have hopens : m.opens b n commit = s.opens b n commit := by rw [State.opens, State.opens, hbnd, hlus]
  rw [← hlus]
  refine (crossings_placed n commit m).trans ?_
  rw [hst, hbnd, hlus, hopens, Binding.past]

/-- With the images taken applied, none is left (R319). -/
theorem imagesDone_places : (imagesDone b).Places b fun k => { k with taken := [] } := fun s => by
  have hphase (p : Nat) : (setPhase p).Spares := by
    simp (maxDischargeDepth := 30) [setPhase]
  rw [imagesDone, run_get]
  dsimp only
  split
  · next he =>
    rw [run_skip, ← List.isEmpty_iff.1 he]
    rfl
  · refine (Prog.Makes.all_cons (Within.places (.wrF (by simp) (by simp))) (.all_cons (glbEvent_spares 2).places
      (.all_cons (Within.places ?_) (.all_cons (modBnd_places _) (.all_cons (showArmed_spares b).places .all_nil))))) s
    split
    · next r _ =>
      refine .when (.all_cons (hphase 5) (.all_cons (.setRb (by simp)) (.all_cons ?_ .all_nil)))
      split
      · exact complete_spares _ _ _ _
      · exact .skip
    · exact .skip

end Steps

/-! #### The next step, or a stop (R157, R397) -/

section Next
variable {b : Nat} {s : State}

/-- A unit that begins a step shows it (R158); another unit's LND_STEP stays. -/
theorem luNewStep_luStep (u v n : Nat) (outer : Bool) : ((luNewStep u n outer).run s).2.rdF .LND_STEP Fld.LND_STEP_STEP v =
    if v = u then n % 2 ^ 48 else s.rdF .LND_STEP Fld.LND_STEP_STEP v := by
  let F (s : State) := s.rdF .LND_STEP Fld.LND_STEP_STEP v
  have hkeep {p : Prog Unit} (h : p.Spares) : p.Makes F id := h.keeps_luStep v
  have hstatus (f : Field) (x : Nat) : (wrF .LND_STATUS f x u).Makes F id := hkeep (.wrF (by simp) (by simp))
  have hstep : (wrF .LND_STEP Fld.LND_STEP_STEP n u).Makes F fun x => if v = u then n % 2 ^ 48 else x := fun s =>
    rdF_setReg_at u (by decide) n v
  rw [luNewStep, run_get]
  exact (Prog.Makes.all_cons (hkeep (modLu_spares _ _)) (.all_cons (hstatus _ _) (.all_cons (hstatus _ _) (.all_cons (hstatus _ _)
    (.all_cons (hstatus _ _) (.all_cons (hstatus _ _) (.all_cons hstep (.all_cons
      (hkeep (.each fun t => (tileArrive_within u t).spares (by decide) (by decide)))
      (.all_cons (hkeep ((luShow_within u).spares (by decide) (by decide))) .all_nil))))))))) s

/-- Every Landing Unit of a binding that begins a step shows it. -/
theorem beginStep_luStep (n : Nat) {u : Nat} (hu : u ∈ s.lus b) :
    ((beginStep b n).run s).2.rdF .LND_STEP Fld.LND_STEP_STEP u = n % 2 ^ 48 := by
  have hrest (l : List Nat) : (Prog.all [Prog.each l fun n' => ceNewStep n' n, hornNewStep b n]).Spares :=
    .all_cons (.each fun x => ceNewStep_spares x n) (.all_cons (hornNewStep_spares b n) .all_nil)
  rw [beginStep, run_get, run_all_cons]
  refine ((hrest _).keeps_luStep u _).trans (each_establishes (P := fun s => s.rdF .LND_STEP Fld.LND_STEP_STEP u = n % 2 ^ 48)
    (fun s => ?_) (fun a s h => ?_) hu s)
  · rw [luNewStep_luStep, if_pos rfl]
  · rw [luNewStep_luStep, h, ite_self]

/-- A STOP of the binding is due (R397). -/
def Binding.stopsNow (k : Binding) : Bool :=
  match k.stop with
  | some n => n == 0 || decide (n ≤ k.step)
  | none => false

/-- Where a STOP is due the binding becomes IDLE; any other stepping binding begins its next step. -/
def strobeNext (b : Nat) (stop : List Nat) : Prog Unit := .get fun s =>
  if s.bstate b = 3 && (s.binding b).stopsNow then
    (stopBinding b).seq (Prog.each stop fun q => complete q hcOk 0 (s.binding b).step)
  else Prog.when (s.bstate b == 3) (beginStep b (s.binding b).step)

/-- A binding that stops is IDLE, and its STOP is done (R397). -/
theorem stopBinding_standing : ((stopBinding b).run s).2.standing b = (2, { s.binding b with stop := none, halted := true }) := by
  have hdrain := Keeps.each (xs := resList (s.owned b)) (fun i => (drainUnit_spares i).keeps_placed b) s
  simp only [State.placed, Prod.mk.injEq] at hdrain
  obtain ⟨-, hbnd, -⟩ := hdrain
  rw [stopBinding, run_get, run_all_cons, run_all_cons, run_all_one]
  generalize ((Prog.each (resList (s.owned b)) drainUnit).run s).2 = m at *
  refine (setBstate_standing (by decide)).trans ?_
  rw [run_modBnd, binding_setBnd, if_pos rfl, hbnd]

theorem strobeNext_stops (stop : List Nat) (hst : s.bstate b = 3) (h : (s.binding b).stopsNow = true) :
    ((strobeNext b stop).run s).2.standing b = (2, { s.binding b with stop := none, halted := true }) := by
  rw [strobeNext, run_get, if_pos (by simp [hst, h]), run_seq]
  exact (Within.keeps_standing (.each fun q => complete_apart q _ _ _) _).trans stopBinding_standing

theorem strobeNext_begins (stop : List Nat) (h : ¬(s.bstate b = 3 ∧ (s.binding b).stopsNow = true)) :
    (strobeNext b stop).run s = (Prog.when (s.bstate b == 3) (beginStep b (s.binding b).step)).run s := by
  rw [strobeNext, run_get, if_neg (by simpa using h)]

end Next

/-! #### STROBE_ACKNOWLEDGED -/

section Acknowledged
variable {b : Nat} {s : State}

/-- What an acknowledged strobe does first: where it ends a step, the step counter advances; where it does not, codecs
that are late switch alone (R12, R216). -/
def strobeStep (s : State) (b : Nat) (d : Option Bool) : Prog Unit :=
  match s.ending b with
  | some k => stepPast b k (d.getD false)
  | none => Prog.each ((List.range 40).filter fun e => s.cdcOwner e == some b) cdcLate

/-- The binding once its step counter has advanced. -/
def State.stepped (s : State) (b : Nat) (d : Option Bool) : Binding :=
  match s.ending b with
  | some k => ((s.binding b).past k).opened (s.opens b k (d.getD false))
  | none => s.binding b

theorem strobeStep_placed (d : Option Bool) : ((strobeStep s b d).run s).2.placed b = (s.bstate b, s.stepped b d, s.lus b) := by
  rw [strobeStep, State.stepped]
  cases s.ending b with
  | some k => exact stepPast_placed k _ s
  | none => exact Keeps.each (fun e => (cdcLate_spares e).keeps_placed b) s

/-- What an acknowledged strobe does before the next step begins. -/
def strobeEnds (s : State) (b : Nat) (d : Option Bool) : List (Prog Unit) :=
  [strobeStep s b d, endTurn b, modBnd b fun x => { x with turning := none }, showCounters b, imagesDone b, rebindLater b]

theorem strobeEnds_placed (d : Option Bool) : ((Prog.all (strobeEnds s b d)).run s).2.placed b =
    (s.bstate b, { s.stepped b d with turning := none, taken := [] }, s.lus b) := by
  have hstep := strobeStep_placed (s := s) (b := b) d
  rw [strobeEnds, run_all_cons]
  generalize ((strobeStep s b d).run s).2 = m at *
  refine ((endTurn_spares b).places.all_cons ((modBnd_places fun x => { x with turning := none }).all_cons
    ((showCounters_spares b).places.all_cons (imagesDone_places.all_cons ((rebindLater_spares b).places.all_cons .all_nil)))) m).trans ?_
  rw [hstep]
  rfl

/-- What an acknowledged strobe does after that. -/
def strobeRest (b : Nat) (stop force : List Nat) : List (Prog Unit) :=
  [strobeNext b stop, Prog.get fun s => Prog.each force fun q => complete q hcOk 0 (s.binding b).step, showCounts]

/-- The completions that end it touch no binding. -/
theorem completions_spares (force : List Nat) :
    (Prog.all [Prog.get fun s => Prog.each force fun q => complete q hcOk 0 (s.binding b).step, showCounts]).Spares :=
  .all_cons (.get fun _ => .each fun q => complete_spares q _ _ _) (.all_cons showCounts_spares .all_nil)

theorem exec_strobeAcknowledged {b : Fin 8} {d : Option Bool} (hturn : (s.binding b).turning = some d)
    (hawait : (s.binding b).await = []) : ∃ stop force, exec (.strobeAcknowledged b) s =
      .next ((Prog.all (strobeRest b stop force)).run ((Prog.all (strobeEnds s b d)).run s).2).2 := by
  refine ⟨s.queuesWith fun c => c.begun && c.op == 0x13 && c.bind' == b, s.queuesWith fun c => c.begun && c.op == 0x14 && c.bind' == b,
    congrArg Host.Outcome.next (Eq.trans ?_ (run_all_append (strobeEnds s b d) (strobeRest b _ _) s))⟩
  rw [hturn]
  dsimp only
  rw [hawait, if_neg (by decide)]
  rfl

theorem stepped_step (d : Option Bool) : (s.stepped b d).step = (match s.ending b with
    | some e => e + 1
    | none => (s.binding b).step) := by
  rw [State.stepped]
  cases s.ending b <;> rfl

theorem stepped_stop (d : Option Bool) : (s.stepped b d).stop = (s.binding b).stop := by
  rw [State.stepped]
  cases s.ending b <;> rfl

/-- At a commit every crossing whose time has come opens, the lowest first (R24). -/
theorem stepped_crossings (hturn : (s.binding b).turning = some (some true)) (hlus : s.lus b ≠ []) (hh : (s.binding b).h ≠ 0) :
    let k := s.binding b
    let k' := s.stepped b (some true)
    k'.xopen = k.xopen ++ (List.range (k.step / k.h - k.cross)).map (fun i => k.cross + 1 + i) ∧
    k'.cross = max k.cross (k.step / k.h) := by
  have hend : s.ending b = some (s.binding b).step := by rw [State.ending, hturn]
  have hopens : s.opens b (s.binding b).step true = (s.binding b).step / (s.binding b).h - (s.binding b).cross := by
    simp [State.opens, hlus, hh]
  dsimp only
  rw [State.stepped, hend]
  dsimp only [Option.getD_some]
  rw [hopens]
  exact ⟨rfl, by simp only [Binding.opened, Binding.past]; omega⟩

/-- What an acknowledged strobe leaves of the binding as its next step begins, or as it stops. -/
theorem strobeNext_keeps (stop : List Nat) : let t := ((strobeNext b stop).run s).2
    (t.binding b).turning = (s.binding b).turning ∧ (t.binding b).step = (s.binding b).step ∧
    (t.binding b).taken = (s.binding b).taken ∧ (t.binding b).xopen = (s.binding b).xopen ∧ (t.binding b).cross = (s.binding b).cross := by
  intro t
  by_cases h : s.bstate b = 3 ∧ (s.binding b).stopsNow = true
  · have hbnd : t.binding b = _ := congrArg Prod.snd (strobeNext_stops stop h.1 h.2)
    rw [hbnd]
    exact ⟨rfl, rfl, rfl, rfl, rfl⟩
  · have hbegin : (Prog.when (s.bstate b == 3) (beginStep b (s.binding b).step)).Apart := .when (beginStep_apart _ _)
    have hbnd : t.binding b = s.binding b := by
      simp only [t, strobeNext_begins stop h]
      exact hbegin.same .bnd (by simp) s b
    rw [hbnd]
    exact ⟨rfl, rfl, rfl, rfl, rfl⟩

/-- Where no STOP is asked for, every Landing Unit of a stepping binding shows the step that begins. -/
theorem strobeNext_shows (stop : List Nat) (hst : s.bstate b = 3) (hnone : (s.binding b).stop = none) {u : Nat} (hu : u ∈ s.lus b) :
    ((strobeNext b stop).run s).2.rdF .LND_STEP Fld.LND_STEP_STEP u = (s.binding b).step % 2 ^ 48 := by
  rw [strobeNext_begins stop (by simp [Binding.stopsNow, hnone]), hst]
  exact beginStep_luStep _ hu

/-- Once every group has acknowledged, the turnaround ends (R12, R18, R24, R397). -/
theorem strobeAcknowledged_completes {b : Fin 8} {s : State} {d : Option Bool} (hturn : (s.binding b).turning = some d)
    (hawait : (s.binding b).await = []) : Completes (.strobeAcknowledged b) s fun t =>
      let k := s.binding b
      let n := (match s.ending b with
        | some e => e + 1
        | none => k.step)
      (t.binding b).turning = none ∧ (t.binding b).step = n ∧ (t.binding b).taken = [] ∧
      (s.bstate b = 3 → k.stop = none → ∀ u ∈ s.lus b, t.rdF .LND_STEP Fld.LND_STEP_STEP u = n % 2 ^ 48) ∧
      (s.bstate b = 3 → k.stop = some 0 → t.bstate b = 2 ∧ (t.binding b).stop = none ∧ (t.binding b).halted = true) ∧
      (d = some true → s.lus b ≠ [] → k.h ≠ 0 →
        (t.binding b).xopen = k.xopen ++ (List.range (k.step / k.h - k.cross)).map (fun i => k.cross + 1 + i) ∧
        (t.binding b).cross = max k.cross (k.step / k.h)) := by
  obtain ⟨stop, force, hexec⟩ := exec_strobeAcknowledged hturn hawait
  refine ⟨_, hexec, ?_⟩
  have hends := strobeEnds_placed (s := s) (b := b) d
  rw [strobeRest, run_all_cons]
  generalize ((Prog.all (strobeEnds s b d)).run s).2 = m at *
  simp only [State.placed, Prod.mk.injEq] at hends
  obtain ⟨hst, hbnd, hlus⟩ := hends
  have hstep := stepped_step (s := s) (b := b) d
  have hstop := stepped_stop (s := s) (b := b) d
  obtain ⟨hturn', hstep', htaken', hxopen, hcross⟩ := strobeNext_keeps (s := m) (b := b) stop
  have hshows := fun hst hnone u => strobeNext_shows (s := m) (b := b) (u := u) stop hst hnone
  have hstops := strobeNext_stops (s := m) (b := b) stop
  generalize ((strobeNext b stop).run m).2 = m' at *
  have hkeep := (completions_spares (b := b) force).keeps_placed b m'
  have hluStep := fun u => (completions_spares (b := b) force).keeps_luStep u m'
  dsimp only at hkeep hluStep
  generalize ((Prog.all [Prog.get fun s => Prog.each force fun q => complete q hcOk 0 (s.binding b).step, showCounts]).run m').2 = t at *
  simp only [State.placed, Prod.mk.injEq] at hkeep
  obtain ⟨hst', hbnd', -⟩ := hkeep
  have hmstep : (m.binding b).step = _ := (congrArg Binding.step hbnd).trans hstep
  have hmstop : (m.binding b).stop = _ := (congrArg Binding.stop hbnd).trans hstop
  dsimp only
  rw [hbnd', hst', hturn', hstep', htaken', hxopen, hcross, hmstep]
  refine ⟨congrArg Binding.turning hbnd, rfl, congrArg Binding.taken hbnd, fun hst3 hnone u hu => ?_, fun hst3 hzero => ?_,
    fun hd hne hh => ?_⟩
  · rw [hluStep, hshows (hst.trans hst3) (hmstop.trans hnone) u (hlus ▸ hu), hmstep]
  · have h := hstops (hst.trans hst3) (by simp [Binding.stopsNow, hmstop, hzero])
    simp only [State.standing, Prod.mk.injEq] at h
    rw [h.1, h.2]
    exact ⟨rfl, rfl, rfl⟩
  · subst hd
    obtain ⟨hx, hc⟩ := stepped_crossings hturn hne hh
    rw [hbnd]
    exact ⟨hx, hc⟩

/-- Without a turnaround, or while a group has yet to acknowledge, nothing happens. -/
theorem strobeAcknowledged_idle {b : Fin 8} {s : State} (h : (s.binding b).turning = none ∨ (s.binding b).await ≠ []) :
    Completes (.strobeAcknowledged b) s fun t => t = s := by
  refine ⟨s, congrArg Host.Outcome.next ?_, rfl⟩
  split
  · rw [run_skip]
  · next d hturn =>
    rw [if_pos (by simpa [hturn] using h), run_skip]

end Acknowledged

/-- Settles O24: a turnaround's work leaves the pointers and the bindings alone but for what its action writes, and an
acknowledged strobe leaves the bindings alone but for the counters, the crossings and the next step. -/
theorem turnaroundsFollowTheDecision : Obligations.TurnaroundsFollowTheDecision := by
  intro b s k
  refine ⟨fun d hdec hturn hst htaken => ?_, turnaround_idle, strobeAcknowledged_idle,
    fun d hturn hawait => strobeAcknowledged_completes hturn hawait⟩
  obtain ⟨t, hexec, hturning, hdecision, hawait, hcommit, hlead, hptr⟩ := turnaround_completes hdec hturn hst htaken
  refine ⟨t, hexec, hturning, hdecision, hawait, hcommit, hlead, fun u hu => ?_⟩
  have h := hptr u hu
  cases d <;> simpa [State.pointers, turned, State.moors] using h

end Sys2Proof.Machine

/-! ### Solver units: their state, their accesses and their reports (R159 to R182) -/

namespace Sys2Proof.Machine
open Prog

/-! #### A solver unit after an effect -/

section Effects
variable (s : State)

@[simp] theorem solver_setSu (u : Nat) (v : Su) (a : Nat) :
    ((Eff.setSu u v).apply s).solver a = if a = u then v else s.solver a := by
  unfold State.solver; rw [Eff.setSu_su, Tab.at_upd]

@[simp] theorem solver_setReg (k : RegKey) (v : Word) (a : Nat) : ((Eff.setReg k v).apply s).solver a = s.solver a := by
  unfold State.solver; rw [Eff.setReg_su]

@[simp] theorem rd_setSu (u : Nat) (v : Su) (n : RegName) (i j : Nat) : ((Eff.setSu u v).apply s).rd n i j = s.rd n i j := rfl

@[simp] theorem rdF_setSu (u : Nat) (v : Su) (n : RegName) (f : Field) (i j : Nat) :
    ((Eff.setSu u v).apply s).rdF n f i j = s.rdF n f i j := rfl

@[simp] theorem run_modSu (u : Nat) (f : Su → Su) : (modSu u f).run s = ((), (Eff.setSu u (f (s.solver u))).apply s) := rfl

end Effects

/-! #### What a program leaves of the units -/

section Keeping
variable {α β ε : Type} {l : List Part} {n : List RegName} {u : Nat} {s t : State}

@[simp] theorem modSu_within {f : Su → Su} (h : Part.su ∈ l) : (modSu u f).Within l n := fun _ => Within.setSu h

theorem Prog.Within.keeps_solver {p : Prog α} (h : p.Within l n) (hs : Part.su ∉ l) (F : Su → β) (u : Nat) :
    p.Keeps fun s => F (s.solver u) := fun s => congrArg F (h.same .su hs s u)

theorem modSu_keeps {F : Su → β} {a : Nat} {f : Su → Su} (h : ∀ k, F (f k) = F k) :
    (modSu a f).Keeps fun s => F (s.solver u) := fun s => by
  rw [run_modSu]
  dsimp only
  rw [solver_setSu]
  split
  · next e => rw [e, h]
  · rfl

theorem Prog.Within.keeps_rdF {p : Prog α} (h : p.Within l n) {r : RegName} (hr : r ∉ n) (f : Field) (i j : Nat) :
    p.Keeps fun s => s.rdF r f i j := fun s => congrArg (getF f) (h.rd r hr i j s)

/-- What a program that answers keeps. -/
theorem Reads.keeps {p : Prog (Except ε α)} {x : α} {g : State → β} (h : Reads p s x t) (hp : p.Keeps g) : g t = g s := by
  have := hp s
  rwa [h.run_eq] at this

/-- The registers that a program that answers leaves alone. -/
theorem Reads.rd {p : Prog (Except ε α)} {x : α} (h : Reads p s x t) (hp : p.Within l n) (r : RegName) (hr : r ∉ n) (i j : Nat) :
    t.rd r i j = s.rd r i j := h.keeps (g := fun s => s.rd r i j) (hp.rd r hr i j)

/-- A program that goes on from a result that is known. -/
theorem Reads.bindE {γ : Type} {p : Prog (Except ε α)} {f : α → Prog (Except ε γ)} {x : α} {b : γ} {m : State}
    (h : Reads p s x m) : Reads (p.bindE f) s b t ↔ Reads (f x) m b t := by
  refine ⟨fun hr => ?_, fun hf => reads_bindE.2 ⟨x, m, h, hf⟩⟩
  obtain ⟨y, m', hp, hf⟩ := reads_bindE.1 hr
  cases h.symm.trans hp
  exact hf

/-- Work of a unit that answers leaves what its program leaves. -/
theorem suDo_leaves {p : Prog (Except Flt Unit)} {f : Flt → Prog Unit} (h : Reads p s () t) : ((suDo p f).run s).2 = t := by
  rw [suDo, run_bind, h.run_eq]
  rfl

theorem suDo_within {p : Prog (Except Flt Unit)} {f : Flt → Prog Unit} (hp : p.Within l n) (hf : ∀ x, (f x).Within l n) :
    (suDo p f).Within l n := .bind hp fun r => by
  cases r with
  | ok _ => exact .skip
  | error x => exact hf x

theorem suDo_keeps {g : State → β} {p : Prog (Except Flt Unit)} {f : Flt → Prog Unit} (hp : p.Keeps g)
    (hf : ∀ x, (f x).Keeps g) : (suDo p f).Keeps g := .bind hp fun r => by
  cases r with
  | ok _ => exact .skip
  | error x => exact hf x

end Keeping

/-! #### Accesses (R162, R228) -/

/-- The registers that a unit's accesses and the flags of its work change. -/
def accessNames : List RegName := .SLV_FLAGS :: memNames

/-- A unit's accesses to memory and its flags: no unit changes. -/
abbrev Prog.Accesses {α : Type} (p : Prog α) : Prop := p.Within (.draws :: memParts) accessNames

section Accesses
variable {α : Type} (u : Nat)

theorem Prog.Within.accesses {p : Prog α} (h : p.Within memParts memNames) : p.Accesses := h.mono (by decide) (by decide)

theorem suGet_accesses (a n : Nat) : (suGet u a n).Accesses :=
  .get fun _ => .bindE (vget_within _ _ _ _).toMem.accesses fun _ => .ret _

theorem suList_accesses (a w n : Nat) : (suList u a w n).Accesses :=
  .get fun _ => .bindE (vget_within _ _ _ _).toMem.accesses fun _ => .ret _

theorem suPut_accesses (a : Nat) (d : List Byte) : (suPut u a d).Accesses := .get fun _ => (vput_within _ _ _).accesses

theorem suFlags_accesses (f : Flags) : (suFlags u f).Accesses :=
  .bind (freeVal_within (by decide)) fun _ => .addFlags (by decide) (by decide)

theorem count_accesses (set ev k : Nat) (t : Tags) : (count set ev k t).Accesses := (count_within _ _ _ _).toMem.accesses

theorem statMod_accesses (a : Nat) (f : Nat → Nat) : (statMod u a f).Accesses :=
  .bindE (suGet_accesses _ _ _) fun _ => suPut_accesses _ _ _

theorem readCsr_accesses (t : Struct) : (readCsr u t).Accesses :=
  .bindE (suList_accesses _ _ _ _) fun _ => .bindE (suList_accesses _ _ _ _) fun _ =>
    .bindE (suList_accesses _ _ _ _) fun _ => .ret _

end Accesses

/-- Two states whose units agree, and whose registers do but for those that accesses change. -/
structure State.SameUnits (s t : State) : Prop where
  solver : ∀ u, t.solver u = s.solver u
  rd     : ∀ r, r ∉ accessNames → ∀ i j, t.rd r i j = s.rd r i j

namespace State.SameUnits
variable {α ε : Type} {s t m : State}

theorem trans (h : s.SameUnits m) (h' : m.SameUnits t) : s.SameUnits t :=
  ⟨fun u => (h'.solver u).trans (h.solver u), fun r hr i j => (h'.rd r hr i j).trans (h.rd r hr i j)⟩

theorem of_accesses {p : Prog α} (h : p.Accesses) (s : State) : s.SameUnits (p.run s).2 :=
  ⟨h.same .su (by decide) s, fun r hr i j => h.rd r hr i j s⟩

theorem of_reads {p : Prog (Except ε α)} {x : α} (h : Reads p s x t) (hp : p.Accesses) : s.SameUnits t := by
  have := of_accesses hp s
  rwa [h.run_eq] at this

theorem rdF (h : s.SameUnits t) {r : RegName} (hr : r ∉ accessNames) (f : Field) (i j : Nat) : t.rdF r f i j = s.rdF r f i j :=
  congrArg (getF f) (h.rd r hr i j)

theorem tokenCount (h : s.SameUnits t) (c x : Nat) : tokenCount t c x = Machine.tokenCount s c x :=
  congrArg BitVec.toNat (h.rd .ARY_TOKEN (by decide) c x)

end State.SameUnits

/-! #### STATE, reports and events (R174, R182) -/

section States
variable (u : Nat) (s : State)

theorem setSuState_within (x : Nat) : (setSuState u x).Within [.reg] [.SLV_STATUS] := .wrF (by decide) (by decide)

theorem suState_setSuState {x : Nat} (h : x < 16) : suState ((setSuState u x).run s).2 u = x :=
  (s.rdF_setReg_field (n := .SLV_STATUS) (f := Fld.SLV_STATUS_STATE) (by decide) u 0 x).trans (Nat.mod_eq_of_lt h)

theorem setSuState_keeps {f : Field} (hf : fieldFits f .SLV_STATUS = true) (hd : fieldsApart Fld.SLV_STATUS_STATE f = true)
    (x : Nat) : (setSuState u x).Keeps fun s => s.rdF .SLV_STATUS f u := wrF_keeps_apart (by decide) hf hd _ _ _ _ _

theorem suFree_within : (suFree u).Within [.reg] [.SLV_STATUS] := .get fun _ => .when (.wrF (by decide) (by decide))

theorem suFree_keeps {f : Field} (hf : fieldFits f .SLV_STATUS = true) (hd : fieldsApart Fld.SLV_STATUS_STATE f = true) :
    (suFree u).Keeps fun s => s.rdF .SLV_STATUS f u := .get fun _ => .when (setSuState_keeps u hf hd _)

/-- A unit that begins work holds its store and shows what it does (R159, R182, R221). -/
theorem suWork_leaves {x : Nat} (h : x < 16) : let t := ((suWork u x).run s).2
    t.solver u = { s.solver u with works := s.draws + 1, spoilt := false } ∧ suState t u = x := by
  simp only [suWork, run_get, run_all_cons, run_all_nil, run_one]
  refine ⟨?_, suState_setSuState u _ h⟩
  rw [(setSuState_within u x).same .su (by decide), solver_setSu, if_pos rfl]

theorem suWork_within (x : Nat) : (suWork u x).Within [.draws, .store, .su, .reg] [.SLV_STATUS] :=
  .get fun _ => .all_cons (.setDraws (by decide)) (.all_cons (.clearStore (by decide)) (.all_cons (.setSu (by decide))
    (.all_cons ((setSuState_within _ _).mono (by decide) (by decide)) .all_nil)))

/-- The registers that a report of a fault changes. -/
def reportNames : List RegName := .SLV_ERR :: faultNames

theorem suReport_within (f : Flt) : (suReport u f).Within faultParts reportNames :=
  .get fun _ => .seq (.setF (by decide) (by decide)) ((logFault_within_fault _ _).mono (List.Subset.refl _) (by decide))

/-- A report sets FAULT alone of SLV_ERR. -/
theorem suReport_keeps {f : Field} (hf : fieldFits f .SLV_ERR = true) (hd : fieldsApart Fld.SLV_ERR_FAULT f = true) (x : Flt) :
    (suReport u x).Keeps fun s => s.rdF .SLV_ERR f u :=
  .get fun _ => .seq (wrF_keeps_apart (by decide) hf hd _ _ _ _ _) ((logFault_within_fault _ _).keeps_rdF (by decide) _ _ _)

/-- A command that is ignored sets CMDIGN and leaves the unit (R182). -/
theorem suIgnored_leaves : let t := ((setF .SLV_ERR Fld.SLV_ERR_CMDIGN u).run s).2
    t.rdF .SLV_ERR Fld.SLV_ERR_CMDIGN u = 1 ∧ t.solver u = s.solver u ∧ suState t u = suState s u :=
  ⟨s.rdF_setReg_field (by decide) u 0 1, solver_setReg s _ _ u, s.rdF_setReg_name_ne (by decide) _ _ _ _ _ _⟩

theorem suEvent_within (f : Field) : (suEvent u f).Within [.reg, .out] [.SLV_EVT] :=
  .seq (.setF (by decide) (by decide)) (.emit (by decide))

/-- An event sets its bit, and is an output (R182). -/
theorem suEvent_raises {f : Field} (hf : fieldFits f .SLV_EVT = true) : let t := ((suEvent u f).run s).2
    t.rdF .SLV_EVT f u = 1 % 2 ^ f.w ∧ Out.solver u ∈ t.out :=
  ⟨s.rdF_setReg_field hf u 0 1, List.mem_cons_self ..⟩

/-- What closes the work in hand: the unit changes, a bit of STATUS is 0, and the event is raised (R182). -/
def suClose (f : Su → Su) (shown event : Field) : Prog Unit :=
  Prog.all [modSu u f, wrF .SLV_STATUS shown 0 u, suEvent u event, suFree u]

theorem suClose_within (f : Su → Su) (shown event : Field) :
    (suClose u f shown event).Within [.su, .reg, .out] [.SLV_STATUS, .SLV_EVT] :=
  .all_cons (modSu_within (by decide)) (.all_cons (.wrF (by decide) (by decide)) (.all_cons
    ((suEvent_within _ _).mono (by decide) (by decide)) (.all_cons ((suFree_within _).mono (by decide) (by decide)) .all_nil)))

theorem suClose_leaves (f : Su → Su) {shown event : Field} (hshown : fieldFits shown .SLV_STATUS = true)
    (hapart : fieldsApart Fld.SLV_STATUS_STATE shown = true) (hevent : fieldFits event .SLV_EVT = true) :
    let t := ((suClose u f shown event).run s).2
    t.solver u = f (s.solver u) ∧ t.rdF .SLV_STATUS shown u = 0 ∧ t.rdF .SLV_EVT event u = 1 % 2 ^ event.w ∧
    Out.solver u ∈ t.out := by
  simp only [suClose, run_all_cons, run_all_nil, run_modSu, run_wrF]
  have hfree := suFree_within u
  have hraise := suEvent_within u event
  refine ⟨?_, ?_, ?_, run_out_mem _ (suEvent_raises u _ hevent).2⟩
  · rw [hfree.same .su (by decide), hraise.same .su (by decide), solver_setReg, solver_setSu, if_pos rfl]
  · exact (suFree_keeps u hshown hapart _).trans ((hraise.keeps_rdF (by decide) _ _ _ _).trans
      ((State.rdF_setReg_field _ hshown u 0 0).trans (Nat.zero_mod _)))
  · exact (hfree.keeps_rdF (by decide) _ _ _ _).trans (suEvent_raises u _ hevent).1

theorem suCount_within (code : Nat) : (suCount u code).Within [.reg]
    [.SLV_ACCEPTCNT, .SLV_STALECNT, .SLV_ABANDONCNT, .SLV_FAILCNT, .SLV_EVT] := by
  simp (maxDischargeDepth := 30) [suCount]

end States

end Sys2Proof.Machine

/-! ### Jobs: their taking, their requests and their end (R161, R178, R181, R182) -/

namespace Sys2Proof.Machine
open Prog

/-! #### A job ends -/

section Ends
variable (u stat code : Nat) (s : State)

/-- What the end of a job writes of it: its code and its cycles, or the report of that write's fault (R174, R181). -/
def jobRecord : Prog Unit := freeVal.bind fun cyc =>
  suDo (statMod u stat fun x => putBits 303 272 (putBits 67 64 x code) cyc.toNat) (suReport u)

/-- The unit has no job any more, and says so (R182). -/
def jobClose : Prog Unit := suClose u (fun k => { k with job := none }) Fld.SLV_STATUS_JOB Fld.SLV_EVT_JOBDONE

theorem jobEnd_run : (jobEnd u stat code).run s = (jobClose u).run ((jobRecord u stat code).run s).2 := by
  rw [jobEnd, jobRecord, run_bind, run_all_cons, run_bind, jobClose, suClose]

theorem jobRecord_within : (jobRecord u stat code).Within (.draws :: faultParts) (.SLV_FLAGS :: reportNames) :=
  .bind (freeVal_within (by decide)) fun _ => suDo_within ((statMod_accesses _ _ _).mono (by decide) (by decide)) fun _ =>
    (suReport_within _ _).mono (by decide) (by decide)

theorem jobRecord_keeps {f : Field} (hf : fieldFits f .SLV_ERR = true) (hd : fieldsApart Fld.SLV_ERR_FAULT f = true) :
    (jobRecord u stat code).Keeps fun s => s.rdF .SLV_ERR f u :=
  .bind ((freeVal_within (l := [.draws]) (n := []) (by decide)).keeps_rdF (by decide) _ _ _) fun _ =>
    suDo_keeps ((statMod_accesses _ _ _).keeps_rdF (by decide) _ _ _) fun _ => suReport_keeps u hf hd _

theorem jobClose_within : (jobClose u).Within [.su, .reg, .out] [.SLV_STATUS, .SLV_EVT] := suClose_within _ _ _ _

/-- A unit has ended its job: it says so, raises the event and is otherwise as before (R182). -/
structure JobEnded (s t : State) : Prop where
  solver : t.solver u = { s.solver u with job := none }
  shown  : t.rdF .SLV_STATUS Fld.SLV_STATUS_JOB u = 0
  event  : t.rdF .SLV_EVT Fld.SLV_EVT_JOBDONE u = 1
  out    : Out.solver u ∈ t.out

theorem jobEnd_ends : JobEnded u s ((jobEnd u stat code).run s).2 := by
  rw [jobEnd_run]
  obtain ⟨hsolver, hshown, hevent, hout⟩ := suClose_leaves u ((jobRecord u stat code).run s).2 (fun k => { k with job := none })
    (shown := Fld.SLV_STATUS_JOB) (event := Fld.SLV_EVT_JOBDONE) (by decide) (by decide) (by decide)
  exact ⟨hsolver.trans (by rw [(jobRecord_within u stat code).same .su (by decide)]), hshown, hevent, hout⟩

/-- The registers that the end of a job changes. -/
def endNames : List RegName := .SLV_STATUS :: .SLV_EVT :: .SLV_FLAGS :: reportNames

theorem jobEnd_within : (jobEnd u stat code).Within (.su :: .draws :: faultParts) endNames :=
  .bind (freeVal_within (by decide)) fun _ => .all_cons (suDo_within ((statMod_accesses _ _ _).mono (by decide) (by decide))
    fun _ => (suReport_within _ _).mono (by decide) (by decide)) ((jobClose_within u).mono (by decide) (by decide))

theorem jobEnd_keeps {f : Field} (hf : fieldFits f .SLV_ERR = true) (hd : fieldsApart Fld.SLV_ERR_FAULT f = true) :
    (jobEnd u stat code).Keeps fun s => s.rdF .SLV_ERR f u := fun s => by
  rw [jobEnd_run]
  exact ((jobClose_within u).keeps_rdF (by decide) _ _ _ _).trans (jobRecord_keeps u stat code hf hd s)

/-- An illegal job ends, and ILLEGAL says why (R177). -/
theorem jobIllegal_ends : let t := ((jobIllegal u stat).run s).2
    JobEnded u s t ∧ t.rdF .SLV_ERR Fld.SLV_ERR_ILLEGAL u = 1 := by
  dsimp only
  rw [jobIllegal, run_seq, run_setF]
  obtain ⟨hsolver, hshown, hevent, hout⟩ := jobEnd_ends u stat 0xA
    ((Eff.setReg ⟨.SLV_ERR, u, 0⟩ (putF Fld.SLV_ERR_ILLEGAL (s.rd .SLV_ERR u) 1)).apply s)
  refine ⟨⟨hsolver.trans (by rw [solver_setReg]), hshown, hevent, hout⟩, ?_⟩
  exact (jobEnd_keeps u stat 0xA (by decide) (by decide) _).trans (s.rdF_setReg_field (by decide) u 0 1)

end Ends

/-! #### An evaluation is requested (R178, R181) -/

section Requests
variable {u : Nat} {d : JobDesc} {s t : State}

/-- A unit has requested an evaluation and waits for it; its token has a signal more. -/
structure EvalRequested (u : Nat) (d : JobDesc) (s t : State) : Prop where
  solver : t.solver u = { s.solver u with
    evseq := (s.solver u).evseq + 1, job := (s.solver u).job.map fun j => { j with phase := .waiting } }
  state  : suState t u = 5
  token  : tokenCount t d.evcl d.evtok = min (tokenCount s d.evcl d.evtok + 1) 65535

/-- What a request signals and shows, once its number stands in the status record. -/
def evalSignal (u : Nat) (d : JobDesc) (n : Nat) : Prog Unit := Prog.all [modSu u fun k => { k with evseq := n },
  modJob u fun j => { j with phase := .waiting }, tokenAdd d.evcl d.evtok 1, setSuState u 5]

theorem evalSignal_within (n : Nat) : (evalSignal u d n).Within [.su, .reg] [.SLV_STATUS, .ARY_TOKEN, .ARY_ERR] :=
  .all_cons (modSu_within (by decide)) (.all_cons (modSu_within (by decide)) (.all_cons
    ((tokenAdd_within _ _).mono (by decide) (by decide)) (.all_cons ((setSuState_within _ _).mono (by decide) (by decide)) .all_nil)))

theorem evalSignal_keeps {f : Field} (hf : fieldFits f .SLV_STATUS = true) (hd : fieldsApart Fld.SLV_STATUS_STATE f = true)
    (n : Nat) : (evalSignal u d n).Keeps fun s => s.rdF .SLV_STATUS f u := by
  have hmod (f' : Su → Su) : (modSu u f').Keeps fun s => s.rdF .SLV_STATUS f u := fun _ => rfl
  exact .all_cons (hmod _) (.all_cons (hmod _) (.all_cons ((tokenAdd_within _ _).keeps_rdF (by decide) _ _ _)
    (.all_cons (setSuState_keeps u hf hd 5) .all_nil)))

theorem evalSignal_requests : EvalRequested u d s ((evalSignal u d ((s.solver u).evseq + 1)).run s).2 := by
  simp only [evalSignal, run_all_cons, run_all_nil, modJob, run_modSu]
  have hstate := setSuState_within u 5
  have htoken := tokenAdd_within (c := d.evcl) d.evtok 1
  refine ⟨?_, suState_setSuState u _ (by decide), ?_⟩
  · rw [hstate.same .su (by decide), htoken.same .su (by decide)]
    simp only [solver_setSu, if_true]
  · rw [hstate.tokenCount (by decide), tokenAdd_tokenCount]
    rfl

theorem requestEval_within : (requestEval u d).Within (.su :: .draws :: memParts)
    (.SLV_STATUS :: .ARY_TOKEN :: .ARY_ERR :: accessNames) :=
  .get fun _ => .bindE ((statMod_accesses _ _ _).mono (by decide) (by decide)) fun _ =>
    .seq ((evalSignal_within _).mono (by decide) (by decide)) (.ret _)

theorem requestEval_keeps {f : Field} (hf : fieldFits f .SLV_STATUS = true) (hd : fieldsApart Fld.SLV_STATUS_STATE f = true) :
    (requestEval u d).Keeps fun s => s.rdF .SLV_STATUS f u :=
  .get fun _ => .bindE ((statMod_accesses _ _ _).keeps_rdF (by decide) _ _ _) fun _ => .seq (evalSignal_keeps hf hd _) (.ret _)

theorem requestEval_requests (h : Reads (requestEval u d) s () t) : EvalRequested u d s t := by
  rw [requestEval, reads_get] at h
  obtain ⟨_, m, hstat, h⟩ := reads_bindE.1 h
  have hm := State.SameUnits.of_reads hstat (statMod_accesses _ _ _)
  obtain rfl : t = ((evalSignal u d ((s.solver u).evseq + 1)).run m).2 := (reads_ret.1 (reads_seq.1 h)).2
  rw [← hm.solver]
  obtain ⟨hsolver, hstate, htoken⟩ := evalSignal_requests (u := u) (d := d) (s := m)
  exact ⟨by rw [hsolver, hm.solver], hstate, by rw [htoken, hm.tokenCount]⟩

end Requests

end Sys2Proof.Machine

/-! ### Solver commands and budgets (R163, R170 to R174, R182) -/

namespace Sys2Proof.Machine
open Prog

/-! #### Lent clusters stop (R172, R174) -/

section Each
variable {α : Type} {P : State → Prop} {f : α → Prog Unit} (hkeep : ∀ b s, P s → P ((f b).run s).2)
include hkeep

/-- What every program of a list keeps, the list keeps. -/
theorem run_each_keeps (l : List α) {s : State} (h : P s) : P ((Prog.each l f).run s).2 := by
  induction l generalizing s with
  | nil => exact h
  | cons b l ih => exact (run_each_cons b l f s).symm ▸ ih (hkeep b s h)

/-- What the program of one element makes true, and every program keeps, holds after the list. -/
theorem run_each_of_mem {a : α} {l : List α} (ha : a ∈ l) (hest : ∀ s, P ((f a).run s).2) (s : State) :
    P ((Prog.each l f).run s).2 := by
  induction l generalizing s with
  | nil => cases ha
  | cons b l ih =>
    rw [run_each_cons]
    obtain rfl | ha := List.mem_cons.1 ha
    · exact run_each_keeps hkeep l (hest s)
    · exact ih ha _

end Each

section Lent
variable (u : Nat) (s : State)

/-- A lent cluster stops: what it runs is discarded. -/
def stopRun (c : Nat) : Prog Unit := Prog.all [
  modCl c fun k => { k with
    lentRun := false, decs := [], out := [], log := [], twait := none, vwait := none, vchunk := 0, vrow := [] },
  wrF .VEC_STATUS Fld.VEC_STATUS_STATE 0 c, showSeq c]

theorem stopRun_cluster (c a : Nat) (t : State) : ((stopRun c).run t).2.cluster a =
    if a = c then { t.cluster c with
      lentRun := false, decs := [], out := [], log := [], twait := none, vwait := none, vchunk := 0, vrow := [] }
    else t.cluster a := by
  simp only [stopRun, run_all_cons, run_all_nil, run_modCl, run_wrF, showSeq_cluster, cluster_setReg, cluster_setCl]

theorem stopLent_within : (stopLent u).Within [.cl, .reg] [.VEC_STATUS, .ARY_STATUS, .ARY_PC] :=
  .get fun _ => .each fun c => .when (.all_cons (fun _ => Within.setCl (by decide)) (.all_cons (.wrF (by decide) (by decide))
    (.all_cons ((showSeq_within c).mono (by decide) (by decide)) .all_nil)))

/-- No lent cluster runs once they are stopped. -/
theorem stopLent_stops {c : Nat} (hc : c ∈ lentOf s u) : (((stopLent u).run s).2.cluster c).lentRun = false := by
  rw [stopLent, run_get]
  have hkeep (a : Nat) (t : State) (h : (t.cluster c).lentRun = false) :
      (((Prog.when (s.cluster a).lentRun (stopRun a)).run t).2.cluster c).lentRun = false := by
    rw [run_when]
    split
    · rw [stopRun_cluster]
      split
      · rfl
      · exact h
    · exact h
  cases hrun : (s.cluster c).lentRun with
  | false => exact run_each_keeps hkeep _ hrun
  | true =>
    refine run_each_of_mem hkeep hc (fun t => ?_) s
    rw [hrun]
    exact congrArg Cluster.lentRun ((stopRun_cluster c c t).trans (if_pos rfl))

/-- STOP leaves a unit that works in STOPPED, and any other as it is (R174). -/
theorem stopSu_leaves : let t := ((stopSu u).run s).2
    if 1 ≤ suState s u ∧ suState s u ≤ 5 then suState t u = 6 ∧ ∀ c ∈ lentOf s u, (t.cluster c).lentRun = false
    else t = s := by
  dsimp only
  rw [stopSu, run_get]
  dsimp only
  split
  · next h =>
    rw [if_pos (by simpa using h), run_seq]
    refine ⟨suState_setSuState u _ (by decide), fun c hc => ?_⟩
    rw [(setSuState_within u 6).same .cl (by decide)]
    exact stopLent_stops u s hc
  · next h => rw [if_neg (by simpa using h), run_skip]

end Lent

/-! #### Work is taken up again (R174, R182) -/

section Resumes
variable (u : Nat) (s : State)

/-- The unit shows its work in hand, which holds its store where it computes (R182, R221). -/
def suShows (u : Nat) (k : Su) : Prog Unit :=
  if 2 ≤ k.shown && k.shown ≤ 4 then suWork u k.shown else setSuState u k.shown

theorem Su.shown_le (k : Su) : k.shown ≤ 5 := by
  unfold Su.shown
  split
  · split <;> decide
  · split
    · decide
    · split <;> decide
  · decide

theorem suShows_leaves : let t := ((suShows u (s.solver u)).run s).2
    suState t u = (s.solver u).shown ∧ (t.solver u).job = (s.solver u).job := by
  have hlt : (s.solver u).shown < 16 := Nat.lt_of_le_of_lt (Su.shown_le _) (by decide)
  dsimp only
  unfold suShows
  split
  · obtain ⟨hsolver, hstate⟩ := suWork_leaves u s hlt
    exact ⟨hstate, by rw [hsolver]⟩
  · have hsolver := (setSuState_within u (s.solver u).shown).same .su (by decide) s u
    exact ⟨suState_setSuState u s hlt, congrArg Su.job hsolver⟩

variable {u s}

/-- A job that waits or solves goes on by itself. -/
theorem jobGo_run_idle {j : Job} (hjob : (s.solver u).job = some j) (hphase : j.phase = .waiting ∨ j.phase = .inner) :
    (jobGo u).run s = ((), s) := by
  rw [jobGo, run_get]
  obtain hphase | hphase := hphase <;> simp only [hjob, hphase, run_skip]

/-- The work in hand of a unit, begun again (R174, R182). -/
def resumeWork (u : Fin 2) (s : State) : Prog Unit :=
  match (s.solver u).job, (s.solver u).round with
  | some j, _ => Prog.when j.fixed.isNone (jobGo u)
  | none, some r =>
    if r.stage ≠ 2 then .skip
    else if !r.formed then newtonGo u
    else suDo ((suGet u (rtabAddr s u r.cur) 128).bindE fun (x : RootEntry) =>
      (startLent u x.nsched).seq (.ret (.ok ()))) (suFaultStop u)
  | none, none => .skip

/-- A stopped or faulted unit shows its work and goes on with it. -/
theorem slvResumeDo_run {u : Fin 2} (h : suState s u = 6 ∨ suState s u = 7) :
    (slvResumeDo u).run s = (resumeWork u s).run ((suShows u (s.solver u)).run s).2 := by
  rw [slvResumeDo, run_get]
  dsimp only
  rw [if_neg (by omega), run_seq]
  rfl

/-- What RESUME leaves of the state: it shows the work in hand, or is ignored (R174, R182). -/
theorem slvResume_completes (u : Fin 2) (s : State) : Completes (.slvResume u) s fun t =>
    if suState s u = 6 ∨ suState s u = 7 then
      (∀ j, (s.solver u).job = some j → (j.phase = .waiting → suState t u = 5) ∧ (j.phase = .inner → suState t u = 4)) ∧
      ((s.solver u).job = none → (s.solver u).round = none → suState t u = 1) ∧
      (∀ r, (s.solver u).job = none → (s.solver u).round = some r →
        (r.stage = 0 → suState t u = 1) ∧ (r.stage = 1 → suState t u = 2))
    else t.rdF .SLV_ERR Fld.SLV_ERR_CMDIGN u = 1 ∧ suState t u = suState s u := by
  refine Completes.of_next (p := slvResumeDo u) rfl ?_
  split
  · next hst =>
    rw [slvResumeDo_run hst, resumeWork]
    obtain ⟨hstate, hjob'⟩ := suShows_leaves u s
    generalize ((suShows u (s.solver u)).run s).2 = m at *
    refine ⟨fun j hjob => ?_, fun hjob hround => ?_, fun r hjob hround => ?_⟩
    · have hidle (hphase : j.phase = .waiting ∨ j.phase = .inner) : (Prog.when j.fixed.isNone (jobGo u)).run m = ((), m) := by
        rw [run_when, jobGo_run_idle (hjob'.trans hjob) hphase, ite_self]
      simp only [hjob]
      refine ⟨fun hphase => ?_, fun hphase => ?_⟩
      · rw [hidle (.inl hphase), hstate, Su.shown, hjob]
        exact if_pos hphase
      · rw [hidle (.inr hphase), hstate, Su.shown, hjob]
        exact if_neg (by simp [hphase])
    · simp only [hjob, hround, run_skip]
      rw [hstate, Su.shown, hjob, hround]
    · simp only [hjob, hround]
      refine ⟨fun hstage => ?_, fun hstage => ?_⟩
      all_goals
        rw [if_pos (by simp [hstage]), run_skip, hstate, Su.shown, hjob, hround]
        simp [hstage]
  · next hst =>
    have hrun : (slvResumeDo u).run s = (setF .SLV_ERR Fld.SLV_ERR_CMDIGN u).run s := by
      rw [slvResumeDo, run_get]
      dsimp only
      rw [if_pos (by omega)]
    obtain ⟨herr, -, hstate⟩ := suIgnored_leaves u s
    rw [hrun]
    exact ⟨herr, hstate⟩

end Resumes

/-! #### Jobs and rounds are aborted (R170, R173) -/

section Aborts
variable (u : Nat) {s : State}

/-- ABORTJOB ends the job in hand. -/
theorem abortjob_completes (u : Fin 2) (s : State) : Completes (.abortjob u) s fun t =>
    if (s.solver u).job.isSome then JobEnded u s t else t.rdF .SLV_ERR Fld.SLV_ERR_CMDIGN u = 1 ∧ t.solver u = s.solver u := by
  refine Completes.of_next (p := abortjobDo u) rfl ?_
  rw [abortjobDo, run_get]
  split
  · next hsome =>
    obtain ⟨j, hj⟩ := Option.isSome_iff_exists.1 hsome
    rw [abortJob, run_get]
    simp only [hj]
    exact jobEnd_ends _ _ _ _
  · obtain ⟨herr, hsolver, -⟩ := suIgnored_leaves u s
    exact ⟨herr, hsolver⟩

/-- What a root entry's change, and its report, change (R162, R174). -/
theorem suEntryMod_reports (i : Nat) (f : Nat → Nat) : (suEntryMod u i f).Within faultParts reportNames :=
  .get fun _ => .bind (.bindE ((vget_within _ _ _ _).mono (by decide) (by decide)) fun _ =>
    (vput_within _ _ _).mono (by decide) (by decide)) fun r => by
      cases r with
      | ok _ => exact .skip
      | error e => exact .seq (.setF (by decide) (by decide)) ((logFault_within_fault _ _).mono (List.Subset.refl _) (by decide))

/-- The round once a block has its outcome (R163, R170). -/
def Round.closed (r : Round) (code : Nat) : Round :=
  { r with
    blocks := Tab.upd SuBlock.init r.blocks r.cur { Tab.at SuBlock.init r.blocks r.cur with outcome := some code }
    cur := r.cur + 1, stage := 0, iters := 0, warm := false, formed := false, reading := none, copy := none }

theorem suOutcome_solver {r : Round} (hround : (s.solver u).round = some r) (code : Nat) :
    ((suOutcome u code).run s).2.solver u = { s.solver u with round := some (r.closed code) } := by
  rw [suOutcome, run_get]
  simp only [hround, run_all_cons, run_all_nil, run_modSu]
  rw [(suFree_within u).same .su (by decide), solver_setSu, if_pos rfl, (suCount_within u code).same .su (by decide),
    (suEntryMod_reports u _ _).same .su (by decide), hround]
  rfl

/-- The outcome of an entry in the round in progress. -/
def State.outcomeAt (s : State) (u i : Nat) : Option (Option Nat) :=
  (s.solver u).round.map fun r => (Tab.at SuBlock.init r.blocks i).outcome

theorem Prog.Within.keeps_outcomeAt {α : Type} {p : Prog α} {l : List Part} {n : List RegName} (h : p.Within l n)
    (hs : Part.su ∉ l) (u i : Nat) : p.Keeps fun s => s.outcomeAt u i :=
  h.keeps_solver hs (fun k => k.round.map fun r : Round => (Tab.at SuBlock.init r.blocks i).outcome) u

theorem modRound_keeps_outcomeAt {u i : Nat} {f : Round → Round}
    (h : ∀ r, (Tab.at SuBlock.init (f r).blocks i).outcome = (Tab.at SuBlock.init r.blocks i).outcome) :
    (modRound u f).Keeps fun s => s.outcomeAt u i := fun s => by
  simp only [modRound, run_modSu, State.outcomeAt, solver_setSu, if_true, Option.map_map, Function.comp_def, h]

/-- The entries not reached end with NONE, and those before them keep their outcomes (R170, R172). -/
theorem suUnreached_outcomeAt {r : Round} (hround : (s.solver u).round = some r) {i : Nat} (hi : i < r.cur) (stale : Bool) :
    ((suUnreached u stale).run s).2.outcomeAt u i = s.outcomeAt u i := by
  rw [suUnreached, run_get]
  simp only [hround]
  refine Keeps.each_mem (g := fun s => s.outcomeAt u i) (fun a ha => ?_) s
  have hne : i ≠ a := by
    rintro rfl
    obtain ⟨n, hn, rfl⟩ := List.mem_drop_iff_getElem.1 ha
    rw [List.getElem_range] at hi
    omega
  exact .all_cons ((suEntryMod_reports u _ _).keeps_outcomeAt (by decide) u i) (.all_cons (.when
    ((suCount_within u 0).keeps_outcomeAt (by decide) u i)) (.all_cons (modRound_keeps_outcomeAt fun r => by
      rw [Tab.at_upd, if_neg hne]) .all_nil))

/-- A round in progress goes on, whichever entries have ended. -/
theorem suUnreached_keeps_round (stale : Bool) : (suUnreached u stale).Keeps fun s => (s.solver u).round.isSome := by
  refine .get fun s => ?_
  split
  · exact .skip
  · exact .each fun _ => .all_cons ((suEntryMod_reports u _ _).keeps_solver (by decide) (fun k => k.round.isSome) u)
      (.all_cons (.when ((suCount_within u 0).keeps_solver (by decide) (fun k => k.round.isSome) u))
      (.all_cons (modSu_keeps (F := fun k => k.round.isSome) fun k => Option.isSome_map) .all_nil))

/-- A unit has ended its round: it says so and raises the event (R182). -/
structure RoundEnded (u : Nat) (t : State) : Prop where
  round : (t.solver u).round = none
  shown : t.rdF .SLV_STATUS Fld.SLV_STATUS_ROUND u = 0
  event : t.rdF .SLV_EVT Fld.SLV_EVT_ROUNDDONE u = 1
  out   : Out.solver u ∈ t.out

theorem suRoundEnd_ends (hround : (s.solver u).round.isSome = true) : RoundEnded u ((suRoundEnd u).run s).2 := by
  obtain ⟨r, hr⟩ := Option.isSome_iff_exists.1 hround
  rw [suRoundEnd, run_get]
  simp only [hr]
  rw [run_all_cons]
  obtain ⟨hsolver, hshown, hevent, hout⟩ := suClose_leaves u _ (fun k => { k with round := none })
    (shown := Fld.SLV_STATUS_ROUND) (event := Fld.SLV_EVT_ROUNDDONE) (by decide) (by decide) (by decide)
  exact ⟨by rw [← suClose, hsolver], hshown, hevent, hout⟩

/-- ABORTRND ends the round in progress. -/
theorem abortrnd_completes (u : Fin 2) (s : State) : Completes (.abortrnd u) s fun t =>
    if (s.solver u).round.isSome then RoundEnded u t
    else t.rdF .SLV_ERR Fld.SLV_ERR_CMDIGN u = 1 ∧ t.solver u = s.solver u := by
  refine Completes.of_next (p := abortrndDo u) rfl ?_
  rw [abortrndDo, run_get]
  split
  · next hsome =>
    obtain ⟨r, hr⟩ := Option.isSome_iff_exists.1 hsome
    rw [abortRound, run_get]
    simp only [hr, run_all_cons, run_all_nil]
    refine suRoundEnd_ends u ((suUnreached_keeps_round u false _).trans ?_)
    have hround : (((stopLent u).run s).2.solver u).round = some r := by rw [(stopLent_within u).same .su (by decide), hr]
    rw [run_when]
    split
    · exact congrArg (fun k : Su => k.round.isSome) (suOutcome_solver u hround 9)
    · exact congrArg Option.isSome hround
  · obtain ⟨herr, hsolver, -⟩ := suIgnored_leaves u s
    exact ⟨herr, hsolver⟩

end Aborts

/-! #### Posted tails, rounds that are due, and spent budgets (R163, R172, R310) -/

section Budgets
variable (u : Fin 2) (s : State)

/-- SLV_JQ_TAIL is a posted write (R310). -/
theorem slvJqTail_completes (val : BitVec 64) : Completes (.slvJqTail u val) s fun t =>
    if s.wbusy (.slv u) = true then
      t.rdF .SLV_ERR Fld.SLV_ERR_WLOST u = 1 ∧ t.rd .SLV_JQ_TAIL u = s.rd .SLV_JQ_TAIL u
    else t.wbusy (.slv u) = true ∧ t.rd .SLV_JQ_TAIL u = val &&& regMask .SLV_JQ_TAIL := by
  refine Completes.of_next (p := slvJqTailDo u val) rfl ?_
  rw [slvJqTailDo, posted, run_get]
  split
  · have hdrop : dropWrite (.slv u) = (setF .SLV_ERR Fld.SLV_ERR_WLOST u).seq (count (setSu u) 0x03) := rfl
    rw [hdrop, run_seq, run_setF]
    refine ⟨((count_within _ _ _ _).keeps_rdF (by decide) _ _ _ _).trans (State.rdF_setReg_field s (by decide) u 0 1), ?_⟩
    exact ((count_within _ _ _ _).rd .SLV_JQ_TAIL (by decide) _ _ _).trans (State.rd_setReg_name_ne s (by decide) _ _ _ _ _)
  · have hset : setBusy (.slv u) true = wrF .SLV_STATUS Fld.SLV_STATUS_WBUSY 1 u := rfl
    have hbusy (t : State) : t.wbusy (.slv u) = (t.rdF .SLV_STATUS Fld.SLV_STATUS_WBUSY u == 1) := rfl
    rw [run_seq, run_wr, hset, run_wrF, hbusy, State.rdF_setReg_name_ne _ (by decide),
      State.rdF_setReg_field (f := Fld.SLV_STATUS_WBUSY) _ (by decide), State.rd_setReg_same _ _ _ _ _ (by decide)]
    exact ⟨rfl, rfl⟩

/-- A round that is due begins where the unit is free (R161, R163). -/
theorem rootRoundStart_completes : Completes (.rootRoundStart u) s fun t =>
    if (s.solver u).round.isNone ∧ (s.solver u).job.isNone ∧ suState s u = 1 then
      ∀ n d r, (s.solver u).due = (n, d) :: r → (t.solver u).due = r ∧ t.rdF .SLV_STATUS Fld.SLV_STATUS_ROUND u = 1 ∧
        t.rdF .SLV_STATUS Fld.SLV_STATUS_ROUNDNO u = n % 2 ^ 32 ∧ (t.solver u).round = some (Round.start n d)
    else t = s := by
  refine ⟨_, rfl, ?_⟩
  rw [run_get]
  split
  · next hfree =>
    intro n d r hdue
    simp only [hdue]
    rw [if_pos (by simpa [and_assoc] using hfree)]
    simp only [run_all_cons, run_all_nil, run_modSu, run_setF, run_wrF, solver_setReg, solver_setSu, if_true]
    refine ⟨trivial, ?_, State.rdF_setReg_field _ (by decide) u 0 n, trivial⟩
    exact (State.rdF_setReg_apart _ (by decide) (by decide) (by decide) _ _ _ _ _).trans
      (State.rdF_setReg_field _ (by decide) u 0 1)
  · next hbusy =>
    dsimp only
    split
    · rfl
    · rw [if_neg (by simpa [and_assoc] using hbusy), run_skip]

/-- A spent budget fixes a job's outcome by its last measured outer iterate (R172, R181). -/
theorem cycleBudgetExpiry_job {j : Job} (hof : s.jobOf u = some j) (hbudget : JobDesc.cycbud j.desc.toNat ≠ 0) :
    Completes (.cycleBudgetExpiry u) s fun t =>
      (t.solver u).job = some { j with fixed := some (if j.ready then 4 else 5) } := by
  refine ⟨_, rfl, ?_⟩
  rw [run_get]
  simp only [hof]
  rw [if_neg hbudget, run_seq, run_modSu, solver_setSu, if_pos rfl]
  rfl

/-- A spent budget ends the block in work (R172). -/
theorem cycleBudgetExpiry_round {r : Round} (hof : s.jobOf u = none) (hround : (s.solver u).round = some r)
    (hbudget : s.rdF .SLV_CADENCE Fld.SLV_CADENCE_CYCBUD u ≠ 0) (hstage : r.stage = 1 ∨ r.stage = 2) :
    Completes (.cycleBudgetExpiry u) s fun t => t.outcomeAt u r.cur =
      some (some (if r.stage = 1 then 6 else if (Tab.at SuBlock.init r.blocks r.cur).ready then 4 else 5)) := by
  refine ⟨_, rfl, ?_⟩
  rw [run_get]
  simp only [hof]
  rw [if_pos (by simp [hround, hbudget]), suCut, run_get]
  simp only [hround, run_seq]
  have hcut {m : State} (hm : (m.solver u).round = some r) (code : Nat) :
      ((suUnreached u true).run ((suOutcome u code).run m).2).2.outcomeAt u r.cur = some (some code) := by
    have hclosed := suOutcome_solver u hm code
    rw [suUnreached_outcomeAt u (congrArg Su.round hclosed) (Nat.lt_succ_self r.cur), State.outcomeAt, hclosed, Option.map_some,
      Round.closed, Tab.at_upd, if_pos rfl]
  obtain hstage | hstage := hstage
  · simp only [hstage, run_when, decide_true, if_true, Nat.reduceEqDiff, decide_false, Bool.false_eq_true, if_false]
    exact hcut hround 6
  · simp only [hstage, run_when, decide_true, if_true, OfNat.ofNat_ne_one, decide_false, Bool.false_eq_true, if_false, run_seq]
    exact hcut (m := ((stopLent u).run s).2) (by rw [(stopLent_within u).same .su (by decide), hround]) _

end Budgets

/-- Settles O20, command by command. -/
theorem solverCommandsAndBudgets : Obligations.SolverCommandsAndBudgets := by
  intro u s k st
  refine ⟨Completes.of_next (p := stopSu u) rfl (stopSu_leaves u s), slvResume_completes u s,
    (abortjob_completes u s).imp fun t h => ?_, (abortrnd_completes u s).imp fun t h => ?_, slvJqTail_completes u s,
    rootRoundStart_completes u s, fun j => cycleBudgetExpiry_job u s, fun r hof hround hbudget hstage => ?_⟩
  · split at h
    · next hjob => exact (if_pos hjob).mpr ⟨congrArg Su.job h.solver, h.shown, h.event, h.out⟩
    · next hjob => exact (if_neg hjob).mpr h
  · split at h
    · next hround => exact (if_pos hround).mpr ⟨h.round, h.shown, h.event, h.out⟩
    · next hround => exact (if_neg hround).mpr h
  · refine (cycleBudgetExpiry_round u s hof hround hbudget hstage).imp fun t h => ?_
    obtain ⟨r', hr', ho⟩ := Option.map_eq_some_iff.1 h
    exact ⟨r', hr', ho⟩

end Sys2Proof.Machine

/-! ### The job queue (R161, R176 to R182) -/

namespace Sys2Proof.Machine
open Prog

/-! #### Descriptors -/

theorem leNat_lt (l : List Byte) : leNat l < 256 ^ l.length := by
  induction l with
  | nil => exact Nat.one_pos
  | cons b l ih =>
    have hb := b.isLt
    rw [leNat, List.length_cons, Nat.pow_succ]
    omega

/-- A number that a unit reads has no more bytes than it asked for. -/
theorem suGet_lt {u a n x : Nat} {s t : State} (h : Reads (suGet u a n) s x t) : x < 256 ^ n := by
  obtain ⟨l, m, hl, h⟩ := reads_bindE.1 (reads_get.1 h)
  obtain ⟨hx, -⟩ := reads_ret.1 h
  cases hx
  exact (leNat_lt l).trans_le (Nat.pow_le_pow_right (by decide) (vget_atMost _ _ _ _ hl))

theorem toNat_ofNat_bytes {n w x : Nat} (hw : w = 8 * n) (h : x < 256 ^ n) : (BitVec.ofNat w x).toNat = x := by
  rw [BitVec.toNat_ofNat, hw, Nat.pow_mul]
  exact Nat.mod_eq_of_lt h

/-- A job keeps the descriptor that was read. -/
theorem jobStart_desc {a u b : Nat} {d : JobDesc} {s t : State} (h : Reads (suGet u b 128) s d t) :
    (Job.start a d).desc.toNat = d := toNat_ofNat_bytes (n := 128) rfl (suGet_lt h)

/-! #### A descriptor is taken -/

/-- What a unit shows of its queue: the head, and the job in hand (R182). -/
def State.queueShown (s : State) (u : Nat) : Nat × Nat :=
  (s.rdF .SLV_JQ_HEAD Fld.SLV_JQ_HEAD_HEAD u, s.rdF .SLV_CURJOB Fld.SLV_CURJOB_ADDR u)

theorem Prog.Within.keeps_queueShown {α : Type} {p : Prog α} {l : List Part} {n : List RegName} (h : p.Within l n)
    (hhead : RegName.SLV_JQ_HEAD ∉ n) (hjob : RegName.SLV_CURJOB ∉ n) (u : Nat) : p.Keeps fun s => s.queueShown u := fun s =>
  Prod.ext (h.keeps_rdF hhead _ _ _ s) (h.keeps_rdF hjob _ _ _ s)

section Takes
variable {u size head a : Nat} {d : JobDesc} {s s₁ : State}

/-- A unit that has taken a descriptor has its job and shows it (R161, R182). -/
theorem jobTake_leaves (u size head a : Nat) (d : JobDesc) (s : State) : let t := ((jobTake u size head a d).run s).2
    t.solver u = { s.solver u with job := some (Job.start a d) } ∧ t.rdF .SLV_STATUS Fld.SLV_STATUS_JOB u = 1 ∧
    t.queueShown u = ((head + 1) % size % 2 ^ 8, a % 2 ^ 48) := by
  simp only [jobTake, run_all_cons, run_all_nil, run_modSu, run_wrF, run_setF]
  refine ⟨?_, (suFree_keeps u (by decide) (by decide) _).trans (State.rdF_setReg_field _ (by decide) u 0 1),
    ((suFree_within u).keeps_queueShown (by decide) (by decide) u _).trans (Prod.ext ?_ ?_)⟩
  · rw [(suFree_within u).same .su (by decide), solver_setReg, solver_setSu, if_pos rfl, solver_setReg, solver_setReg]
  · simp (disch := decide) only [State.queueShown, State.rdF_setReg_name_ne, rdF_setSu, State.rdF_setReg_field]
  · simp (disch := decide) only [State.queueShown, State.rdF_setReg_name_ne, rdF_setSu, State.rdF_setReg_field]

/-- What the taking of a descriptor changes. -/
theorem jobTake_within (u size head a : Nat) (d : JobDesc) :
    (jobTake u size head a d).Within [.su, .reg] [.SLV_JQ_HEAD, .SLV_CURJOB, .SLV_STATUS] :=
  .all_cons (.wrF (by decide) (by decide)) (.all_cons (.wrF (by decide) (by decide)) (.all_cons (modSu_within (by decide))
    (.all_cons (.setF (by decide) (by decide)) (.all_cons ((suFree_within u).mono (by decide) (by decide)) .all_nil))))

/-- A free unit with a descriptor at the head of its queue, which it reads. -/
structure HeadRead (u size head a : Nat) (d : JobDesc) (s s₁ : State) : Prop where
  free  : suState s u = 1
  round : (s.solver u).round = none
  job   : (s.solver u).job = none
  next  : s.jobNext u = some (size, head, a)
  read  : Reads (suGet u a 128) s d s₁

/-- The queue's head is past a descriptor, and CURJOB names it (R182). -/
def HeadTaken (u size head a : Nat) (t : State) : Prop :=
  t.rdF .SLV_JQ_HEAD Fld.SLV_JQ_HEAD_HEAD u = (head + 1) % size ∧ t.rdF .SLV_CURJOB Fld.SLV_CURJOB_ADDR u = a % 2 ^ 48

/-- The head shown is the next of the ring, whose size its register bounds. -/
theorem State.jobNext_head (h : s.jobNext u = some (size, head, a)) : (head + 1) % size % 2 ^ 8 = (head + 1) % size := by
  unfold State.jobNext at h
  dsimp only at h
  split at h
  · cases h
  · next hsize =>
    cases h
    have hpos : s.rdF .SLV_JQ_CTRL Fld.SLV_JQ_CTRL_SIZE u ≠ 0 := fun h => hsize (by simp [h])
    have hlt : s.rdF .SLV_JQ_CTRL Fld.SLV_JQ_CTRL_SIZE u < 2 ^ 8 := Nat.mod_lt _ (by decide)
    exact Nat.mod_eq_of_lt ((Nat.mod_lt _ (Nat.pos_of_ne_zero hpos)).trans hlt)

namespace HeadRead
variable (h : HeadRead u size head a d s s₁)
include h

theorem jobHead_run (kind : Nat) : (jobHead u kind).run s =
    (if !JobDesc.ok d then (jobTake u size head a d).seq (jobIllegal u (JobDesc.stat d))
     else if JobDesc.kind d ≠ kind then .skip else (jobTake u size head a d).seq (jobGo u)).run s₁ := by
  rw [jobHead, run_get]
  simp only [h.next]
  rw [if_neg (by simp [h.free, h.round, h.job]), run_bind, h.read.run_eq]

theorem jobHead_run_illegal (hok : JobDesc.ok d = false) (kind : Nat) : (jobHead u kind).run s =
    (jobIllegal u (JobDesc.stat d)).run ((jobTake u size head a d).run s₁).2 := by
  rw [h.jobHead_run, if_pos (by simp [hok]), run_seq]

theorem jobHead_run_go (hok : JobDesc.ok d = true) :
    (jobHead u (JobDesc.kind d)).run s = (jobGo u).run ((jobTake u size head a d).run s₁).2 := by
  rw [h.jobHead_run, if_neg (by simp [hok]), if_neg (by simp), run_seq]

theorem units : s.SameUnits s₁ := .of_reads h.read (suGet_accesses _ _ _)

/-- What stays of the queue is what the taking of the descriptor shows. -/
theorem queueShown {α : Type} {p : Prog α} {l : List Part} {n : List RegName} (hp : p.Within l n)
    (hhead : RegName.SLV_JQ_HEAD ∉ n) (hjob : RegName.SLV_CURJOB ∉ n) :
    HeadTaken u size head a (p.run ((jobTake u size head a d).run s₁).2).2 := by
  obtain ⟨-, -, hshown⟩ := jobTake_leaves u size head a d s₁
  exact Prod.mk.inj ((hp.keeps_queueShown hhead hjob u _).trans (hshown.trans (by rw [State.jobNext_head h.next])))

end HeadRead
end Takes

/-! #### A job's first work (R176, R178, R180) -/

section Work
variable {u a : Nat} {d : JobDesc} {s t : State}

/-- A LOAD begins with its check. -/
theorem jobGo_leaves_load (hjob : (s.solver u).job = some (Job.start a d)) (hdesc : (Job.start a d).desc.toNat = d)
    (hkind : JobDesc.kind d = 1) (h : Reads (loadRun u d) s () t) : ((jobGo u).run s).2 = t := by
  have hphase : (Job.start a d).phase = .load := if_pos hkind
  rw [jobGo, run_get]
  simp only [hjob, hphase, hdesc]
  exact suDo_leaves h

/-- A SOLVE begins with its set-up. -/
theorem jobGo_leaves_setup (hjob : (s.solver u).job = some (Job.start a d)) (hdesc : (Job.start a d).desc.toNat = d)
    (hkind : JobDesc.kind d ≠ 1) (h : Reads (setupRun u d) s () t) : ((jobGo u).run s).2 = t := by
  have hphase : (Job.start a d).phase = .setup := if_neg hkind
  rw [jobGo, run_get]
  simp only [hjob, hphase, hdesc]
  exact suDo_leaves h

/-- The preconditioner built afresh in WORK, with the structure's fingerprint beside it (R180). -/
def precondBuilt (u : Nat) (d : JobDesc) (z : Struct) : Prog (Except Flt Unit) := (readCsr u z).bindE fun j =>
  let p := Config.precondition (BitVec.ofNat 1024 d) j.rows j.cols j.vals
  (suPut u (jobWorkAt d z 2) (p.flatMap fun y => leBytes 8 y.toNat)).bindE fun _ =>
  (suPut u (jobWorkAt d z 0) (leBytes 8 z.fprint)).bindE fun _ =>
  ((suFlags u Flags.none).seq (Prog.when d.warm (setF .SLV_EVT Fld.SLV_EVT_WARM_REJECT u))).seq (.ret (.ok ()))

theorem precondBuilt_within (z : Struct) : (precondBuilt u d z).Within (.draws :: memParts) (.SLV_EVT :: accessNames) := by
  have haccess {α : Type} {p : Prog α} (h : p.Accesses) : p.Within (.draws :: memParts) (.SLV_EVT :: accessNames) :=
    h.mono (by decide) (by decide)
  exact .bindE (haccess (readCsr_accesses _ _)) fun _ => .bindE (haccess (suPut_accesses _ _ _)) fun _ =>
    .bindE (haccess (suPut_accesses _ _ _)) fun _ => .seq (.seq (haccess (suFlags_accesses _ _))
      (.when (.setF (by decide) (by decide)))) (.ret _)

/-- A job that asked for a warm start and gets none is told (R180). -/
theorem precondBuilt_rejects {z : Struct} (hwarm : d.warm = true) (h : Reads (precondBuilt u d z) s () t) :
    t.rdF .SLV_EVT Fld.SLV_EVT_WARM_REJECT u = 1 := by
  obtain ⟨_, _, -, h⟩ := reads_bindE.1 h
  obtain ⟨_, _, -, h⟩ := reads_bindE.1 h
  obtain ⟨_, m, -, h⟩ := reads_bindE.1 h
  obtain ⟨-, rfl⟩ := reads_ret.1 (reads_seq.1 h)
  rw [run_seq, run_when, if_pos hwarm, run_setF]
  exact State.rdF_setReg_field _ (by decide) u 0 1

/-- What a SOLVE of a loaded structure leaves as it requests its first evaluation (R178, R180). -/
structure SetUp (u : Nat) (d : JobDesc) (warm : Bool) (s t : State) : Prop where
  evseq  : (t.solver u).evseq = (s.solver u).evseq + 1
  job    : (t.solver u).job = (s.solver u).job.map fun j => { j with warm := warm, phase := .waiting }
  state  : suState t u = 5
  shown  : t.rdF .SLV_STATUS Fld.SLV_STATUS_JOB u = s.rdF .SLV_STATUS Fld.SLV_STATUS_JOB u
  token  : tokenCount t d.evcl d.evtok = min (tokenCount s d.evcl d.evtok + 1) 65535
  reject : d.warm = true → warm = false → t.rdF .SLV_EVT Fld.SLV_EVT_WARM_REJECT u = 1

theorem setupRun_setsUp {x fp : Nat} {s₁ s₂ : State} (hx : Reads (suGet u (JobDesc.struct' d) 64) s x s₁)
    (hloaded : (structOf x).loaded = true) (hfp : Reads (suGet u (jobWorkAt d (structOf x) 0) 8) s₁ fp s₂)
    (h : Reads (setupRun u d) s () t) : SetUp u d (d.warm && fp == (structOf x).fprint) s t := by
  generalize hw : (d.warm && fp == (structOf x).fprint) = warm
  have hrest := hx.bindE.1 h
  rw [if_neg (by simp [hloaded])] at hrest
  have hrest := hfp.bindE.1 hrest
  rw [hw] at hrest
  obtain ⟨_, m₁, hbuilt, hrest⟩ := reads_bindE.1 hrest
  obtain ⟨_, m₂, hstat, hrest⟩ := reads_bindE.1 hrest
  have hreq := reads_bind.1 hrest
  have hbuilt : Reads (if warm then Prog.ret (.ok ()) else precondBuilt u d (structOf x)) s₂ () m₁ := hbuilt
  have hwithin : (if warm then Prog.ret (.ok ()) else precondBuilt u d (structOf x)).Within (.draws :: memParts)
    (.SLV_EVT :: accessNames) := .ite (.ret _) (precondBuilt_within _)
  have hread := (State.SameUnits.of_reads hx (suGet_accesses _ _ _)).trans (.of_reads hfp (suGet_accesses _ _ _))
  have hnoted := State.SameUnits.of_reads hstat (statMod_accesses _ _ _)
  have hunit : m₂.solver u = s.solver u := by
    rw [hnoted.solver, hbuilt.same hwithin .su (by decide), hread.solver]
  obtain ⟨hsolver, hstate, htoken⟩ := requestEval_requests hreq
  rw [modJob, run_modSu, solver_setSu, if_pos rfl, hunit] at hsolver
  refine ⟨by rw [hsolver], by rw [hsolver]; exact Option.map_map .., hstate, ?_, ?_, fun hask hno => ?_⟩
  · exact (hreq.keeps (requestEval_keeps (by decide) (by decide))).trans <| (hnoted.rdF (by decide) _ _ _).trans <|
      (hbuilt.keeps (hwithin.keeps_rdF (by decide) _ _ _)).trans (hread.rdF (by decide) _ _ _)
  · rw [htoken, ← hread.tokenCount]
    exact congrArg (fun n => min (n + 1) 65535) ((hnoted.tokenCount _ _).trans
      (congrArg BitVec.toNat (hbuilt.rd hwithin .ARY_TOKEN (by decide) _ _)))
  · rw [hno] at hbuilt
    exact (hreq.keeps (requestEval_within.keeps_rdF (by decide) _ _ _)).trans
      ((hnoted.rdF (by decide) _ _ _).trans (precondBuilt_rejects hask hbuilt))

end Work

/-! #### What the first work of a job changes -/

section Changes
variable (u : Nat) (d : JobDesc)

/-- The parts that the first work of a job changes. -/
def workParts : List Part := .su :: .draws :: faultParts

/-- The registers that it changes. -/
def workNames : List RegName := .ARY_TOKEN :: .ARY_ERR :: endNames

theorem Prog.Within.works {α : Type} {p : Prog α} (h : p.Accesses) : p.Within workParts workNames :=
  h.mono (by decide) (by decide)

theorem jobEnd_works (stat code : Nat) : (jobEnd u stat code).Within workParts workNames :=
  (jobEnd_within u stat code).mono (by decide) (by decide)

theorem jobIllegal_works (stat : Nat) : (jobIllegal u stat).Within workParts workNames :=
  .seq (.setF (by decide) (by decide)) (jobEnd_works _ _ _)

theorem loadRun_works : (loadRun u d).Within workParts workNames :=
  have hget (un : Unit') (a n : Nat) : (vget un a n).Within workParts workNames := (vget_within _ _ _ _).toMem.accesses.works
  .get fun _ => .bindE (suGet_accesses _ _ _).works fun _ => .bindE (hget _ _ _) fun _ => .bindE (hget _ _ _) fun _ =>
    .ite (.bindE (suPut_accesses _ _ _).works fun _ => .seq (jobEnd_works _ _ _) (.ret _))
      (.bindE (suPut_accesses _ _ _).works fun _ => .seq (jobEnd_works _ _ _) (.ret _))

theorem requestEval_works : (requestEval u d).Within workParts workNames := requestEval_within.mono (by decide) (by decide)

theorem setupRun_works : (setupRun u d).Within workParts workNames :=
  .bindE (suGet_accesses _ _ _).works fun _ => .ite (.seq (jobIllegal_works _ _) (.ret _)) <|
    .bindE (suGet_accesses _ _ _).works fun _ =>
    .bindE (.ite (.ret _) ((precondBuilt_within _).mono (by decide) (by decide))) fun _ =>
    .bindE (statMod_accesses _ _ _).works fun _ => .bind (modSu_within (by decide)) fun _ => requestEval_works _ _

theorem suFaultStop_works (f : Flt) : (suFaultStop u f).Within workParts workNames :=
  .ite .skip (.seq ((suReport_within _ _).mono (by decide) (by decide)) ((setSuState_within _ _).mono (by decide) (by decide)))

theorem jobGo_works : (jobGo u).Within workParts workNames := by
  refine .get fun s => ?_
  split
  · exact .skip
  · dsimp only
    split
    · exact suDo_within (loadRun_works _ _) (suFaultStop_works _)
    · exact suDo_within (setupRun_works _ _) (suFaultStop_works _)
    · exact suDo_within (requestEval_works _ _) (suFaultStop_works _)
    · exact .skip
    · exact .skip

end Changes

namespace HeadRead
variable {u size head a : Nat} {d : JobDesc} {s s₁ t : State} (h : HeadRead u size head a d s s₁) {i : Instr}
include h

/-- A descriptor that breaks R177 is taken and ends at once, whichever command finds it. -/
theorem completes_illegal {kind : Nat} (hexec : exec i s = (jobHead u kind).next s) (hok : JobDesc.ok d = false) :
    Completes i s fun t => HeadTaken u size head a t ∧ (∃ m, JobEnded u m t) ∧ t.rdF .SLV_ERR Fld.SLV_ERR_ILLEGAL u = 1 := by
  refine Completes.of_next hexec ?_
  rw [h.jobHead_run_illegal hok]
  obtain ⟨hend, herr⟩ := jobIllegal_ends u (JobDesc.stat d) ((jobTake u size head a d).run s₁).2
  exact ⟨h.queueShown (jobIllegal_works u _) (by decide) (by decide), ⟨_, hend⟩, herr⟩

/-- A good descriptor is taken, and its job's first work decides what is left. -/
theorem completes_work {P : State → Prop} (hexec : exec i s = (jobHead u (JobDesc.kind d)).next s) (hok : JobDesc.ok d = true)
    (hleaves : ((jobGo u).run ((jobTake u size head a d).run s₁).2).2 = t) (hP : P t) :
    Completes i s fun t => HeadTaken u size head a t ∧ P t := by
  refine Completes.of_next hexec ?_
  rw [h.jobHead_run_go hok]
  exact ⟨h.queueShown (jobGo_works u) (by decide) (by decide), hleaves.symm ▸ hP⟩

end HeadRead

/-- Settles O22: the head is taken, and then the job is run to its end or to its first request. -/
theorem solverTakesJobs : Obligations.SolverTakesJobs := by
  intro u s d size head a s₁ s₂ taken ended hfree hround hnojob hnext hread
  have hhead : HeadRead u size head a d s s₁ := ⟨hfree, hround, hnojob, hnext, hread⟩
  have hdesc : (Job.start a d).desc.toNat = d := jobStart_desc hread
  obtain ⟨hunit, hshown, -⟩ := jobTake_leaves u size head a d s₁
  have hjob : (s₂.solver u).job = some (Job.start a d) := congrArg Su.job hunit
  have hended {m t : State} (h : JobEnded u m t) : ended t := ⟨congrArg Su.job h.solver, h.event, h.out⟩
  refine ⟨fun i hi hok => ?_, fun x rb cb s₃ s₄ s₅ hok hkind hx => ?_, fun x s₃ hok hkind hx => ?_⟩
  · obtain ⟨kind, hexec⟩ : ∃ kind, exec i s = (jobHead u kind).next s := by
      obtain rfl | rfl : i = .loadJob u ∨ i = .solveJob u := by simpa using hi
      · exact ⟨1, rfl⟩
      · exact ⟨2, rfl⟩
    exact (hhead.completes_illegal hexec hok).imp fun t ⟨htaken, ⟨_, hend⟩, herr⟩ => ⟨htaken, hended hend, herr⟩
  · intro z fp good hrows hcols
    have hexec : exec (.loadJob u) s = (jobHead u (JobDesc.kind d)).next s := by rw [hkind]; rfl
    refine ⟨fun s₆ hbad hput => ?_, fun s₆ hgood hput => ?_⟩
    · refine hhead.completes_work hexec hok (jobGo_leaves_load hjob hdesc hkind ?_) ⟨hended (jobEnd_ends u _ 7 s₆), fun _ => rfl⟩
      rw [loadRun, reads_get]
      refine hx.bindE.2 (hrows.bindE.2 (hcols.bindE.2 ?_))
      rw [if_pos (by simpa [good] using hbad)]
      exact hput.bindE.2 (reads_seq.2 (reads_ret.2 ⟨rfl, rfl⟩))
    · refine hhead.completes_work hexec hok (jobGo_leaves_load hjob hdesc hkind ?_) ⟨hended (jobEnd_ends u _ 0xB s₆), fun _ => rfl⟩
      rw [loadRun, reads_get]
      refine hx.bindE.2 (hrows.bindE.2 (hcols.bindE.2 ?_))
      rw [if_neg (by simpa [good] using hgood)]
      exact hput.bindE.2 (reads_seq.2 (reads_ret.2 ⟨rfl, rfl⟩))
  · have hexec : exec (.solveJob u) s = (jobHead u (JobDesc.kind d)).next s := by rw [hkind]; rfl
    have hleaves {t : State} (hsetup : Reads (setupRun u d) s₂ () t) : ((jobGo u).run s₂).2 = t :=
      jobGo_leaves_setup hjob hdesc (by simp [hkind]) hsetup
    refine ⟨fun hloaded => ?_, fun fp s₄ s₅ hloaded hfp hsetup => ?_⟩
    · obtain ⟨hend, herr⟩ := jobIllegal_ends u (JobDesc.stat d) s₃
      refine hhead.completes_work hexec hok (hleaves (hx.bindE.2 ?_)) ⟨hended hend, herr⟩
      rw [if_pos (by simp [hloaded])]
      exact reads_seq.2 (reads_ret.2 ⟨rfl, rfl⟩)
    · obtain ⟨hseq, hnow, hstate, hkept, htoken, hreject⟩ := setupRun_setsUp hx hloaded hfp hsetup
      refine hhead.completes_work hexec hok (hleaves hsetup) ⟨?_, hstate, hkept.trans hshown, hreject, ?_, ?_⟩
      · rw [hseq, hunit, hhead.units.solver]
      · rw [htoken, (jobTake_within u size head a d).tokenCount (by decide), hhead.units.tokenCount]
      · rw [hnow, hjob]
        rfl

end Sys2Proof.Machine

/-! ### Outer iterates (R178 to R181) -/

namespace Sys2Proof.Machine
open Prog

section Iterates
variable {u : Nat} {s t m : State} {j : Job}

theorem jobOf_eq_some : s.jobOf u = some j ↔ (s.solver u).job = some j ∧ j.fixed = none := by
  simp [State.jobOf, Option.filter_eq_some_iff]

/-- Work that no mover has spoilt has the result that the library gives (R221). -/
theorem unlessSpoilt_run {α : Type} (h : (s.solver u).spoilt = false) (x : α) (n : Nat) (f : List (BitVec 64) → α) :
    (unlessSpoilt u x n f).run s = (x, s) := by
  rw [unlessSpoilt, run_get, if_neg (by simp [h]), run_ret]

/-! #### The inner solve ends -/

/-- What an inner solve of `n` iterations leaves of its unit besides memory, before the next evaluation (R178, R405). -/
def iterateTaken (u n : Nat) (f : Flags) : Prog Unit := Prog.all [suFlags u f, count (setSu u) 0x41 n,
  modJob u fun j => { j with k := j.k + 1, phase := .request }]

theorem iterateTaken_leaves (n : Nat) (f : Flags) (s : State) : let t := ((iterateTaken u n f).run s).2
    t.solver u = { s.solver u with job := (s.solver u).job.map fun j => { j with k := j.k + 1, phase := .request } } ∧
    ∀ c x, tokenCount t c x = tokenCount s c x := by
  simp only [iterateTaken, run_all_cons, run_all_nil, modJob, run_modSu, solver_setSu, if_true]
  have hm := (State.SameUnits.of_accesses (suFlags_accesses u f) s).trans (.of_accesses (count_accesses (setSu u) 0x41 n {}) _)
  exact ⟨by rw [hm.solver], hm.tokenCount⟩

/-- The evaluation that follows an inner solve is the next, and the unit waits for it. -/
theorem iterateTaken_requests {n : Nat} {f : Flags} {d : JobDesc} (hm : s.SameUnits m) (hjob : (s.solver u).job = some j)
    (h : Reads (requestEval u d) ((iterateTaken u n f).run m).2 () t) :
    (t.solver u).evseq = (s.solver u).evseq + 1 ∧ suState t u = 5 ∧
    (t.solver u).job = some { j with k := j.k + 1, phase := .waiting } ∧
    tokenCount t d.evcl d.evtok = min (tokenCount s d.evcl d.evtok + 1) 65535 := by
  obtain ⟨hsolver, hstate, htoken⟩ := requestEval_requests h
  obtain ⟨hunit, htokens⟩ := iterateTaken_leaves (u := u) n f m
  rw [hunit, hm.solver, hjob] at hsolver
  exact ⟨by rw [hsolver], hstate, by rw [hsolver]; rfl, by rw [htoken, htokens, hm.tokenCount]⟩

/-! #### A change list is complete -/

/-- The end of a job that publishes leaves its half to publish (R181). -/
theorem jobEndPublish_ends (stat code : Nat) (rho : BitVec 64) (s : State) :
    let t := ((jobEndPublish u stat code rho).run s).2
    JobEnded u ((modSu u fun k => { k with publish := k.publish ++ [⟨stat, rho⟩] }).run s).2 t ∧
    (⟨stat, rho⟩ : Published) ∈ (t.solver u).publish := by
  dsimp only
  rw [jobEndPublish, run_seq]
  have h := jobEnd_ends u stat code ((modSu u fun k => { k with publish := k.publish ++ [⟨stat, rho⟩] }).run s).2
  exact ⟨h, by rw [h.solver, run_modSu, solver_setSu, if_pos rfl]; exact List.mem_append_right _ (List.mem_singleton_self _)⟩

/-- A sequel of an outer iterate's ρ: the job ends, with its result or without, or goes on to an inner solve (R178). -/
def iterateSequel (u : Nat) (j : Job) (rho : Nat) (ready : Bool) : Prog Unit :=
  let d : JobDesc := j.desc.toNat
  if fle b64 rho d.tol then jobEndPublish u d.stat 1 (BitVec.ofNat 64 rho)
  else if j.k = d.outmax then
    (if ready then jobEndPublish u d.stat 2 (BitVec.ofNat 64 rho) else jobEnd u d.stat 3)
  else suWork u 4

variable {rho : Nat} {ready : Bool}

/-- A job with ρ within TOL, or at OUTMAX, ends; its result is published where it may be used (R178, R181). -/
theorem iterateSequel_ends (h : fle b64 rho (JobDesc.tol j.desc.toNat) = true ∨ j.k = JobDesc.outmax j.desc.toNat) (s : State) :
    let t := ((iterateSequel u j rho ready).run s).2
    (∃ m, JobEnded u m t) ∧ ((fle b64 rho (JobDesc.tol j.desc.toNat) = true ∨ ready = true) →
      (⟨JobDesc.stat j.desc.toNat, BitVec.ofNat 64 rho⟩ : Published) ∈ (t.solver u).publish) := by
  dsimp only
  rw [iterateSequel]
  by_cases htol : fle b64 rho (JobDesc.tol j.desc.toNat) = true
  · rw [if_pos htol]
    obtain ⟨hend, hpub⟩ := jobEndPublish_ends (u := u) (JobDesc.stat j.desc.toNat) 1 (BitVec.ofNat 64 rho) s
    exact ⟨⟨_, hend⟩, fun _ => hpub⟩
  · rw [if_neg htol, if_pos (h.resolve_left htol)]
    cases ready with
    | true =>
      obtain ⟨hend, hpub⟩ := jobEndPublish_ends (u := u) (JobDesc.stat j.desc.toNat) 2 (BitVec.ofNat 64 rho) s
      exact ⟨⟨_, hend⟩, fun _ => hpub⟩
    | false => exact ⟨⟨_, jobEnd_ends u _ 3 s⟩, fun h => absurd h (by simp [htol])⟩

/-- A job that is judged goes on to an inner solve otherwise (R178). -/
theorem iterateSequel_goes_on (htol : ¬ fle b64 rho (JobDesc.tol j.desc.toNat) = true)
    (hmax : j.k ≠ JobDesc.outmax j.desc.toNat) (s : State) : let t := ((iterateSequel u j rho ready).run s).2
    (t.solver u).job = (s.solver u).job ∧ suState t u = 4 := by
  dsimp only
  rw [iterateSequel, if_neg htol, if_neg hmax]
  obtain ⟨hsolver, hstate⟩ := suWork_leaves u s (x := 4) (by decide)
  exact ⟨by rw [hsolver], hstate⟩

section Judged
variable {x : Struct} {skips : Nat} (h : Reads (judgeIterate u j x rho skips) s () t)
include h

/-- A job whose ρ is no number ends (R178). -/
theorem judgeIterate_nonfinite (hrho : b64.nonfinite rho = true) : ∃ m, JobEnded u m t := by
  rw [judgeIterate, if_pos hrho] at h
  obtain ⟨_, m, -, h⟩ := reads_bindE.1 h
  obtain ⟨-, rfl⟩ := reads_ret.1 (reads_seq.1 h)
  exact ⟨m, jobEnd_ends u _ 8 m⟩

/-- A job whose ρ is a number keeps it, and then its sequel decides (R178, R179). -/
theorem judgeIterate_finite (hrho : b64.nonfinite rho = false) : let ready := fle b64 rho (JobDesc.accept j.desc.toNat)
    ∃ m, (m.solver u).job = some { j with rho := BitVec.ofNat 64 rho, ready := ready, phase := .inner } ∧
      t = ((iterateSequel u j rho ready).run m).2 := by
  rw [judgeIterate, if_neg (by simp [hrho])] at h
  obtain ⟨_, m₁, -, h⟩ := reads_bindE.1 h
  obtain ⟨_, m₂, -, h⟩ := reads_bindE.1 h
  obtain ⟨-, rfl⟩ := reads_ret.1 (reads_seq.1 h)
  refine ⟨_, ?_, by rw [run_all_cons, run_all_cons, run_all_cons, run_all_nil]; rfl⟩
  rw [run_modSu, solver_setSu, if_pos rfl]

end Judged

theorem jobEndPublish_keeps {f : Field} (hf : fieldFits f .SLV_ERR = true) (hd : fieldsApart Fld.SLV_ERR_FAULT f = true)
    (stat code : Nat) (rho : BitVec 64) : (jobEndPublish u stat code rho).Keeps fun s => s.rdF .SLV_ERR f u :=
  .seq (fun _ => rfl) (jobEnd_keeps u _ _ hf hd)

/-- What is judged sets FAULT alone of SLV_ERR (R174). -/
theorem judgeIterate_keeps {f : Field} (hf : fieldFits f .SLV_ERR = true) (hd : fieldsApart Fld.SLV_ERR_FAULT f = true)
    (j : Job) (x : Struct) (rho skips : Nat) : (judgeIterate u j x rho skips).Keeps fun s => s.rdF .SLV_ERR f u := by
  have haccess {α : Type} {p : Prog α} (h : p.Accesses) : p.Keeps fun s => s.rdF .SLV_ERR f u := h.keeps_rdF (by decide) _ _ _
  have hstat (a : Nat) (g : Nat → Nat) : (statMod u a g).Keeps fun s => s.rdF .SLV_ERR f u := haccess (statMod_accesses _ _ _)
  have hend (a c : Nat) : (jobEnd u a c).Keeps fun s => s.rdF .SLV_ERR f u := jobEnd_keeps u a c hf hd
  have hpublish (a c : Nat) (v : BitVec 64) := jobEndPublish_keeps (u := u) hf hd a c v
  refine .ite (.bindE (hstat _ _) fun _ => .seq (hend _ _) (.ret _)) (.bindE ?_ fun _ => .bindE (hstat _ _) fun _ =>
    .seq (.all_cons (haccess (count_accesses _ _ _ _)) (.all_cons (fun _ => rfl) (.all_cons ?_ .all_nil))) (.ret _))
  · exact .ite (.bindE (haccess (suGet_accesses _ _ _)) fun _ => .get fun _ =>
      .bindE (haccess (vget_within _ _ _ _).toMem.accesses) fun _ => haccess (suPut_accesses _ _ _)) (.ret _)
  · exact .ite (hpublish _ _ _) (.ite (.ite (hpublish _ _ _) (hend _ _)) ((suWork_within u 4).keeps_rdF (by decide) _ _ _))

end Iterates
end Sys2Proof.Machine

/-! #### The commands of outer iterates -/

namespace Sys2Proof.Machine
open Prog

/-- What a unit does with a change list whose header it has read (R178, R179). -/
def listWork (u : Nat) (j : Job) (seq h : Nat) : Prog (Except Flt Unit) :=
  if bits 63 0 h ≠ seq then .ret (.ok ())
  else (suGet u (JobDesc.struct' j.desc.toNat) 64).bindE fun x =>
    if bits 167 104 h ≠ (structOf x).fprint then (jobEnd u (JobDesc.stat j.desc.toNat) 6).seq (.ret (.ok ()))
    else measure u j (structOf x) h

section Lists
variable {u : Fin 2} {s s₁ s₂ t : State} {j : Job} {h x : Nat}

theorem exec_changeListComplete (hof : s.jobOf u = some j) (hphase : j.phase = .waiting) (hstate : suState s u = 5)
    (hread : Reads (suGet u (JobDesc.clbase j.desc.toNat) 64) s h s₁)
    (hwork : Reads (listWork u j (s.solver u).evseq h) s₁ () t) : exec (.changeListComplete u) s = .next t := by
  refine congrArg Host.Outcome.next ?_
  rw [run_get]
  simp only [hof]
  rw [if_neg (by simp [hphase, hstate])]
  exact suDo_leaves (hread.bindE.2 hwork)

theorem listWork_of_struct {seq : Nat} (hseq : bits 63 0 h = seq)
    (hx : Reads (suGet u (JobDesc.struct' j.desc.toNat) 64) s₁ x s₂) : Reads (listWork u j seq h) s₁ () t ↔
    Reads (if bits 167 104 h ≠ (structOf x).fprint then (jobEnd u (JobDesc.stat j.desc.toNat) 6).seq (.ret (.ok ()))
      else measure u j (structOf x) h) s₂ () t := by
  rw [listWork, if_neg (by simp [hseq])]
  exact hx.bindE

/-- What the judgement of ρ leaves of a job: it ends, with its result to publish where it may be used, or it goes on to an
inner solve with its ρ noted (R178, R179, R181). -/
theorem judgeIterate_decides {z : Struct} {rho skips : Nat} (hread : Reads (judgeIterate u j z rho skips) s () t) :
    let ready := fle b64 rho (JobDesc.accept j.desc.toNat)
    if b64.nonfinite rho ∨ fle b64 rho (JobDesc.tol j.desc.toNat) = true ∨ j.k = JobDesc.outmax j.desc.toNat then
      (∃ m, JobEnded u m t) ∧ (b64.nonfinite rho = false → (fle b64 rho (JobDesc.tol j.desc.toNat) = true ∨ ready = true) →
        (⟨JobDesc.stat j.desc.toNat, BitVec.ofNat 64 rho⟩ : Published) ∈ (t.solver u).publish)
    else (t.solver u).job = some { j with rho := BitVec.ofNat 64 rho, ready := ready, phase := .inner } ∧ suState t u = 4 := by
  dsimp only
  cases hrho : b64.nonfinite rho with
  | true => exact ⟨judgeIterate_nonfinite hread hrho, nofun⟩
  | false =>
    obtain ⟨m, hjob, rfl⟩ := judgeIterate_finite hread hrho
    simp only [Bool.false_eq_true, false_or]
    split
    · next hends =>
      obtain ⟨hend, hpub⟩ := iterateSequel_ends (u := u) hends m
      exact ⟨hend, fun _ => hpub⟩
    · next hgoes =>
      obtain ⟨htol, hmax⟩ := not_or.1 hgoes
      obtain ⟨hkept, hstate⟩ := iterateSequel_goes_on (u := u) htol hmax m
      exact ⟨hkept.trans hjob, hstate⟩

end Lists

/-- Settles O23: the inner solve's end is run to the request that it makes, and a change list to what its ρ decides. -/
theorem solverOuterIterates : Obligations.SolverOuterIterates := by
  intro u s j d seq ended hof
  obtain ⟨hjob, -⟩ := jobOf_eq_some.1 hof
  refine ⟨?_, ?_⟩
  · intro y a r x p d0 s₁ s₂ s₃ s₄ s₅ s₆ s₇ s₈ s₉ s₁₀ hphase hstate hspoilt t args n delta next hy ha hr hx hp hd0 hdelta hstat
      hnext heval
    have hread : s.SameUnits s₆ := (State.SameUnits.of_reads hy (suGet_accesses _ _ _)).trans <|
      (State.SameUnits.of_reads ha (readCsr_accesses _ _)).trans <|
      (State.SameUnits.of_reads hr (suList_accesses _ _ _ _)).trans <|
      (State.SameUnits.of_reads hx (suList_accesses _ _ _ _)).trans <|
      (State.SameUnits.of_reads hp (suList_accesses _ _ _ _)).trans <|
      .of_reads hd0 (.ite (suList_accesses _ _ _ _) (.ret _))
    have hwritten : s.SameUnits s₉ := hread.trans <| (State.SameUnits.of_reads hdelta (suPut_accesses _ _ _)).trans <|
      (State.SameUnits.of_reads hstat (statMod_accesses _ _ _)).trans (.of_reads hnext (suPut_accesses _ _ _))
    obtain ⟨hseq, hwaits, hnow, htoken⟩ := iterateTaken_requests hwritten hjob heval
    refine ⟨s₁₀, congrArg Host.Outcome.next ?_, hseq, hwaits, hnow, fun _ => rfl, htoken⟩
    rw [run_get]
    simp only [hof]
    rw [if_neg (by simp [hphase, hstate])]
    refine suDo_leaves ?_
    refine hy.bindE.2 (ha.bindE.2 (hr.bindE.2 (hx.bindE.2 (hp.bindE.2 (hd0.bindE.2 (reads_bind.2 ?_))))))
    rw [unlessSpoilt_run (by rw [hread.solver, hspoilt])]
    exact hdelta.bindE.2 (hstat.bindE.2 (hnext.bindE.2 (reads_bind.2 heval)))
  · intro h s₁ hphase hstate hh
    refine ⟨fun hother => ⟨s₁, exec_changeListComplete hof hphase hstate hh ?_, rfl⟩, fun x s₂ hseq hx => ⟨fun hother => ?_, ?_⟩⟩
    · rw [listWork, if_pos hother]
      exact reads_ret.2 ⟨rfl, rfl⟩
    · obtain ⟨hsolver, -, hevent, hout⟩ := jobEnd_ends u d.stat 6 s₂
      refine ⟨_, exec_changeListComplete hof hphase hstate hh ((listWork_of_struct hseq hx).2 ?_), by rw [hsolver], hevent, hout⟩
      rw [if_pos hother]
      exact reads_seq.2 (reads_ret.2 ⟨rfl, rfl⟩)
    · intro es skips a r s₃ s₄ s₆ s₇ s₉ hprint hes hskips s₅ ha hr g j₀ rho ready hjudge
      have hdesc : j₀.desc = j.desc := by dsimp only [j₀]; split <;> rfl
      have hk : j₀.k = j.k := by dsimp only [j₀]; split <;> rfl
      have hdecides := judgeIterate_decides hjudge
      rw [hdesc, hk] at hdecides
      refine ⟨s₉, exec_changeListComplete hof hphase hstate hh ((listWork_of_struct hseq hx).2 ?_), fun hskip => ?_, ?_⟩
      · rw [if_neg (by simp [hprint])]
        exact hes.bindE.2 (hskips.bindE.2 (reads_bind.2 (ha.bindE.2 (hr.bindE.2 (reads_bind.2 hjudge)))))
      · have hset : s₅.rdF .SLV_ERR Fld.SLV_ERR_CLRANGE u = 1 := by
          dsimp only [s₅]
          rw [run_when, if_pos (by simpa using hskip), run_setF]
          exact s₄.rdF_setReg_field (by decide) u 0 1
        have hunits : s₅.SameUnits ((suFlags u rho.2).run s₇).2 := (State.SameUnits.of_reads ha (readCsr_accesses _ _)).trans <|
          (State.SameUnits.of_reads hr (suList_accesses _ _ _ _)).trans (.of_accesses (suFlags_accesses _ _) _)
        exact (hjudge.keeps (judgeIterate_keeps (by decide) (by decide) _ _ _ _)).trans ((hunits.rdF (by decide) _ _ _).trans hset)
      · split at hdecides
        · next hends =>
          rw [if_pos hends]
          obtain ⟨⟨m, hsolver, -, hevent, hout⟩, hpub⟩ := hdecides
          exact ⟨⟨by rw [hsolver], hevent, hout⟩, hpub⟩
        · next hgoes =>
          rw [if_neg hgoes]
          obtain ⟨hnow, hinner⟩ := hdecides
          exact ⟨_, hnow, rfl, rfl, rfl, rfl, rfl, hinner⟩

end Sys2Proof.Machine

/-! ### Firmware's answers to the watch and to runs of skips (R194, R195) -/

namespace Sys2Proof.Machine
open Prog

/-! #### Lists of programs of which one acts on what is read -/

section Makes
variable {α β : Type} {g : State → β} {f : α → Prog Unit}

/-- The programs of a list, each with its own change, make their changes in order. -/
theorem Prog.Makes.each {F : α → β → β} {l : List α} (h : ∀ a ∈ l, (f a).Makes g (F a)) :
    (Prog.each l f).Makes g fun x => l.foldl (fun x a => F a x) x := by
  induction l with
  | nil => exact fun _ => rfl
  | cons a l ih => exact (h a List.mem_cons_self).seq (ih fun b hb => h b (List.mem_cons_of_mem a hb))

/-- Where one program of a list acts and the others keep, the list acts as that one. -/
theorem Prog.Makes.each_once {F : β → β} {l : List α} {a : α} (hl : l.Nodup) (ha : a ∈ l) (hact : (f a).Makes g F)
    (hkeep : ∀ b, b ≠ a → (f b).Keeps g) : (Prog.each l f).Makes g F := by
  induction l with
  | nil => cases ha
  | cons b l ih =>
    obtain ⟨hb, hl⟩ := List.nodup_cons.1 hl
    by_cases hba : b = a
    · subst hba
      exact hact.seq (Keeps.each_mem fun x hx => hkeep x fun h => hb (h ▸ hx)).makes
    · exact (hkeep b hba).makes.seq (ih hl ((List.mem_cons.1 ha).resolve_left (Ne.symm hba)))

theorem each_map {γ : Type} (l : List γ) (h : γ → α) : Prog.each (l.map h) f = Prog.each l fun c => f (h c) := by
  induction l with
  | nil => rfl
  | cons c l ih => exact congrArg (f (h c)).seq ih

end Makes

/-! #### Pending values (R306) -/

theorem Prog.Within.keeps_pending {α : Type} {p : Prog α} {l : List Part} {ns : List RegName} (h : p.Within l ns)
    (hpend : Part.pend ∉ l) {k : RegKey} (hk : k.name ∉ ns) : p.Keeps fun s => s.pending' k := fun s => by
  have hsame : (p.run s).2.pend = s.pend := h.same .pend hpend s
  simp only [State.pending', hsame, h.rd k.name hk]

theorem pendWrite_within (k : RegKey) (v : Word) : (pendWrite k v).Within [.pend] [] :=
  .get fun _ => .setPend (by decide)

theorem pendWrite_keeps_other {k k' : RegKey} (h : k' ≠ k) (v : Word) :
    (pendWrite k v).Keeps fun s => s.pending' k' := fun s => by
  simp only [pendWrite, run_get, run_one, State.pending', Eff.setPend_pend, SMap.get_put_ne _ _ h]
  rfl

/-! #### What firmware keeps of a tag -/

section Tags
variable {b τ t : Nat}

theorem modTag_within (f : TagPolicy → TagPolicy) : (modTag b t f).Within [.bnd] [] := fun _ => Within.setBnd (by decide)

theorem modTag_makes (f : TagPolicy → TagPolicy) : (modTag b τ f).Makes (fun s => s.tagPol b τ) f := fun s => by
  simp only [modTag, run_modBnd, State.tagPol, binding_setBnd, if_true, Tab.at_upd_same]

theorem modTag_keeps_other (h : t ≠ τ) (f : TagPolicy → TagPolicy) : (modTag b t f).Keeps fun s => s.tagPol b τ := fun s => by
  simp only [modTag, run_modBnd, State.tagPol, binding_setBnd, if_true, Tab.at_upd_ne _ _ (Ne.symm h)]

/-- A change to every tag changes each by its own. -/
theorem each_modTag_makes (f : Nat → TagPolicy → TagPolicy) (hτ : τ < 256) :
    (Prog.each (List.range 256) fun t => modTag b t (f t)).Makes (fun s => s.tagPol b τ) (f τ) :=
  .each_once List.nodup_range (List.mem_range.2 hτ) (modTag_makes _) fun _ h => modTag_keeps_other h _

/-- The count of commits toward the restoration of the scales (R195). -/
def State.restoring (s : State) (b : Nat) : Nat := (s.binding b).pol.commits

theorem modTag_keeps_restoring (f : TagPolicy → TagPolicy) : (modTag b t f).Keeps fun s => s.restoring b := fun s => by
  simp only [modTag, run_modBnd, State.restoring, binding_setBnd, if_true]

theorem Prog.Within.keeps_policy {α : Type} {p : Prog α} {l : List Part} {ns : List RegName} (h : p.Within l ns)
    (hbnd : Part.bnd ∉ l) (b : Nat) : p.Keeps fun s => (s.binding b).pol := fun s => congrArg Binding.pol (h.same .bnd hbnd s b)

theorem modPol_makes (f : Policy → Policy) : (modPol b f).Makes (fun s => (s.binding b).pol) f := fun s => by
  simp only [modPol, run_modBnd, binding_setBnd, if_true]

theorem tagCounts_at {s : State} {c : Nat} (hc : c ∈ s.clusters b) :
    Tab.at (0, 0) (tagCounts s b τ) c = areaCounts s b c τ := by
  unfold tagCounts
  generalize s.clusters b = l at hc ⊢
  induction l with
  | nil => cases hc
  | cons d l ih =>
    by_cases h : c = d
    · simp [Tab.at, SMap.get, h]
    · simpa [Tab.at, SMap.get, h] using ih ((List.mem_cons.1 hc).resolve_left h)

end Tags

/-! #### Floors written (R194) -/

/-- The place of a tag's floor in its word of ARY_PASSFLOOR (R108). -/
abbrev floorField (τ : Nat) : Field := ⟨2 * (τ % 32), 2⟩

/-- A tag's floor in a cluster as it will apply. -/
def State.pendFloor (s : State) (c τ : Nat) : Nat := getF (floorField τ) (s.pending' ⟨.ARY_PASSFLOOR, c, τ / 32⟩)

/-- Firmware writes a tag's floor in one cluster. -/
def floorIn (t x c : Nat) : Prog Unit := .get fun s =>
  pendWrite ⟨.ARY_PASSFLOOR, c, t / 32⟩ (putF (floorField t) (s.pending' ⟨.ARY_PASSFLOOR, c, t / 32⟩) x)

section Floors
variable {b τ t c c' x : Nat}

theorem floorField_fits (τ : Nat) : (floorField τ).lo + (floorField τ).w ≤ 64 := by
  dsimp only [floorField]; omega

/-- Every bit of ARY_PASSFLOOR is implemented. -/
theorem passFloor_mask (v : Word) : v &&& regMask .ARY_PASSFLOOR = v := BitVec.and_allOnes

theorem floorIn_pendFloor (s : State) : ((floorIn τ x c).run s).2.pendFloor c τ = x % 4 := by
  rw [floorIn, run_get, State.pendFloor, pendWrite_pending, passFloor_mask]
  exact getF_putF _ _ _ (floorField_fits τ)

theorem floorIn_keeps_cluster (h : c' ≠ c) : (floorIn t x c).Keeps fun s => s.pendFloor c' τ :=
  .comp (.get fun _ => pendWrite_keeps_other (fun hk => h (congrArg RegKey.i hk)) _) (getF (floorField τ))

theorem floorIn_keeps_tag (h : t ≠ τ) : (floorIn t x c).Keeps fun s => s.pendFloor c' τ := fun s => by
  by_cases hk : (⟨.ARY_PASSFLOOR, c', τ / 32⟩ : RegKey) = ⟨.ARY_PASSFLOOR, c, t / 32⟩
  · have hword : τ / 32 = t / 32 := congrArg RegKey.j hk
    have happart : 2 * (t % 32) + 2 ≤ 2 * (τ % 32) ∨ 2 * (τ % 32) + 2 ≤ 2 * (t % 32) := by omega
    simp only [State.pendFloor, hk]
    rw [floorIn, run_get, pendWrite_pending, passFloor_mask, getF_putF_ne _ _ _ _ (floorField_fits t) happart]
  · exact congrArg (getF (floorField τ)) (pendWrite_keeps_other hk _ s)

theorem writeFloor_within : (writeFloor b t x).Within [.pend] [] := .get fun _ => .each fun _ => .get fun _ => pendWrite_within _ _

theorem writeFloor_keeps_tag (h : t ≠ τ) : (writeFloor b t x).Keeps fun s => s.pendFloor c τ :=
  .get fun _ => .each fun _ => floorIn_keeps_tag h

/-- Once written, a floor stands in every cluster of the binding, and no other cluster's is written. -/
theorem writeFloor_pendFloor (s : State) : ((writeFloor b τ x).run s).2.pendFloor c τ =
    if c ∈ s.clusters b then x % 4 else s.pendFloor c τ := by
  split
  · next hc =>
    refine run_each_of_mem (P := fun m => m.pendFloor c τ = x % 4) (fun d m hm => ?_) hc floorIn_pendFloor s
    by_cases hd : c = d
    · exact hd ▸ floorIn_pendFloor m
    · exact (floorIn_keeps_cluster hd m).trans hm
  · next hc => exact Keeps.each_mem (fun d hd => floorIn_keeps_cluster fun h : c = d => hc (h ▸ hd)) s

end Floors

/-! #### The policy of one tag (R194) -/

/-- What the pass policy goes by for one tag, and its floor as every cluster will have it. -/
structure TagView where
  tag      : TagPolicy
  shown    : Nat → Nat
  clusters : List Nat
  commit   : Nat
  raise    : Nat
  hold     : Nat

/-- A state's view of a tag of a binding. -/
def State.tagView (b τ : Nat) (s : State) : TagView :=
  { tag := s.tagPol b τ, shown := fun c => s.pendFloor c τ, clusters := s.clusters b, commit := (s.binding b).commit,
    raise := (s.binding b).pol.raise, hold := (s.binding b).pol.hold }

namespace TagView

/-- The floor changes, and is written in the binding's clusters. -/
def setFloor (x : Nat) (v : TagView) : TagView :=
  { v with tag := { v.tag with floor := x, raised := v.commit }, shown := fun c => if c ∈ v.clusters then x % 4 else v.shown c }

/-- The policy for one cluster: its counts now and WIN steps ago. -/
def rule (now old : Nat × Nat) (v : TagView) : TagView :=
  if (v.raise ≤ now.1 - old.1 ∨ 1 ≤ now.2 - old.2) ∧ v.tag.floor < 3 then v.setFloor (if v.tag.floor ≤ 1 then 2 else 3)
  else if 2 ≤ v.tag.floor ∧ v.hold ≤ v.commit - v.tag.raised then v.setFloor (if v.tag.floor = 3 then 2 else 0)
  else v

/-- The same policy on a floor and the commit counter when it was set, as R194 gives it. -/
def ruleFloor (v : TagView) (now old : Nat × Nat) (x : Nat × Nat) : Nat × Nat :=
  if (v.raise ≤ now.1 - old.1 ∨ 1 ≤ now.2 - old.2) ∧ x.1 < 3 then (if x.1 ≤ 1 then 2 else 3, v.commit)
  else if 2 ≤ x.1 ∧ v.hold ≤ v.commit - x.2 then (if x.1 = 3 then 2 else 0, v.commit)
  else x

/-- A view that the policy has reached from `v₀`: the floor and the counter when it was set are `y`, and a floor that is
no longer the first stands in every cluster. -/
structure From (v₀ v : TagView) (y : Nat × Nat) : Prop where
  tag     : v.tag = { v₀.tag with floor := y.1, raised := y.2 }
  terms   : (v.clusters, v.commit, v.raise, v.hold) = (v₀.clusters, v₀.commit, v₀.raise, v₀.hold)
  written : y.1 ≠ v₀.tag.floor → ∀ c ∈ v₀.clusters, v.shown c = y.1

variable {v₀ v : TagView} {y : Nat × Nat}

theorem From.refl (v : TagView) : v.From v (v.tag.floor, v.tag.raised) := ⟨rfl, rfl, fun h => absurd rfl h⟩

theorem From.setFloor (h : v₀.From v y) {x : Nat} (hx : x < 4) : v₀.From (v.setFloor x) (x, v₀.commit) := by
  obtain ⟨htag, hterms, -⟩ := h
  simp only [Prod.mk.injEq] at hterms
  obtain ⟨hcl, hcommit, hraise, hhold⟩ := hterms
  refine ⟨by simp [TagView.setFloor, htag, hcommit], by simp [TagView.setFloor, hcl, hcommit, hraise, hhold], fun _ c hc => ?_⟩
  rw [TagView.setFloor]
  exact (if_pos (hcl ▸ hc)).trans (Nat.mod_eq_of_lt hx)

theorem From.rule (h : v₀.From v y) (now old : Nat × Nat) : v₀.From (v.rule now old) (v₀.ruleFloor now old y) := by
  have ⟨htag, hterms, _⟩ := h
  simp only [Prod.mk.injEq] at hterms
  obtain ⟨-, hcommit, hraise, hhold⟩ := hterms
  have hfloor : v.tag.floor = y.1 := by rw [htag]
  have hraised : v.tag.raised = y.2 := by rw [htag]
  rw [TagView.rule, ruleFloor, hcommit, hraise, hhold, hfloor, hraised]
  split
  · exact h.setFloor (by split <;> decide)
  · split
    · exact h.setFloor (by split <;> decide)
    · exact h

theorem From.foldl_rule (now old : Nat → Nat × Nat) (l : List Nat) (h : v₀.From v y) :
    v₀.From (l.foldl (fun v c => v.rule (now c) (old c)) v) (l.foldl (fun x c => v₀.ruleFloor (now c) (old c) x) y) := by
  induction l generalizing v y with
  | nil => exact h
  | cons c l ih => exact ih (h.rule (now c) (old c))

end TagView

section Policy
variable {b τ t x : Nat} {s : State}

theorem Prog.Within.keeps_clusters {α : Type} {p : Prog α} {l : List Part} {ns : List RegName} (h : p.Within l ns)
    (hn : RegName.BND_CLMASK ∉ ns) (b : Nat) : p.Keeps fun s => s.clusters b := fun s => by
  simp only [State.clusters, h.rd .BND_CLMASK hn]

theorem modTag_keeps_pendFloor (f : TagPolicy → TagPolicy) (c : Nat) : (modTag b t f).Keeps fun s => s.pendFloor c τ :=
  ((modTag_within f).keeps_pending (by decide) List.not_mem_nil).comp (getF (floorField τ))

theorem modTag_keeps_clusters (f : TagPolicy → TagPolicy) : (modTag b t f).Keeps fun s => s.clusters b :=
  (modTag_within f).keeps_clusters (by decide) b

theorem modTag_tagView (f : TagPolicy → TagPolicy) (s : State) : ((modTag b t f).run s).2.tagView b τ =
    { s.tagView b τ with tag := ((modTag b t f).run s).2.tagPol b τ } := by
  have hshown (c : Nat) : ((modTag b t f).run s).2.pendFloor c τ = s.pendFloor c τ := modTag_keeps_pendFloor f c s
  have hclusters : ((modTag b t f).run s).2.clusters b = s.clusters b := modTag_keeps_clusters f s
  simp only [State.tagView, hshown, hclusters]
  simp only [modTag, run_modBnd, binding_setBnd, if_true]

theorem writeFloor_tagView (s : State) : ((writeFloor b t x).run s).2.tagView b τ =
    { s.tagView b τ with shown := fun c => ((writeFloor b t x).run s).2.pendFloor c τ } := by
  have hbnd : ((writeFloor b t x).run s).2.binding b = s.binding b := writeFloor_within.same .bnd (by decide) s b
  have hclusters : ((writeFloor b t x).run s).2.clusters b = s.clusters b := writeFloor_within.keeps_clusters (by decide) b s
  simp only [State.tagView, State.tagPol, hbnd, hclusters]

theorem setFloor_makes : (setFloor b τ x).Makes (State.tagView b τ) (TagView.setFloor x) := fun s => by
  rw [setFloor, run_get, run_seq, writeFloor_tagView, modTag_tagView, TagView.setFloor]
  refine congrArg₂ (fun p g => { s.tagView b τ with tag := p, shown := g }) (modTag_makes _ s) (funext fun c => ?_)
  rw [writeFloor_pendFloor]
  exact ite_congr (congrArg (c ∈ ·) (modTag_keeps_clusters _ s)) (fun _ => rfl) fun _ => modTag_keeps_pendFloor _ c s

theorem setFloor_keeps_other (h : t ≠ τ) : (setFloor b t x).Keeps (State.tagView b τ) := .get fun _ => .seq
  (fun s => (modTag_tagView _ s).trans (congrArg (fun p => { s.tagView b τ with tag := p }) (modTag_keeps_other h _ s)))
  (fun s => (writeFloor_tagView s).trans
    (congrArg (fun g => { s.tagView b τ with shown := g }) (funext fun _ => writeFloor_keeps_tag h s)))

theorem policyTag_makes (now old : Nat × Nat) :
    (policyTag b τ now old).Makes (State.tagView b τ) (TagView.rule now old) := fun s => by
  rw [policyTag, run_get, TagView.rule]
  simp only [Bool.and_eq_true, Bool.or_eq_true, decide_eq_true_eq]
  split
  · next h => exact (setFloor_makes s).trans (if_pos h).symm
  · next h =>
    split
    · next h' => exact (setFloor_makes s).trans ((if_neg h).trans (if_pos h')).symm
    · next h' => exact ((if_neg h).trans (if_neg h')).symm

theorem policyTag_keeps_other (h : t ≠ τ) (now old : Nat × Nat) : (policyTag b t now old).Keeps (State.tagView b τ) :=
  .get fun _ => .ite (setFloor_keeps_other h) (.ite (setFloor_keeps_other h) .skip)

end Policy

/-! #### PASS_POLICY (R194) -/

/-- A cluster's counts of a tag WIN steps ago. -/
def oldCounts (s : State) (b τ c : Nat) : Nat × Nat :=
  Tab.at (0, 0) ((s.tagPol b τ).hist.getD (max 1 (s.binding b).pol.win - 1) []) c

/-- The counts of every tag of a binding. -/
def allCounts (s : State) (b : Nat) : List (Tab (Nat × Nat)) := (List.range 256).map fun t => tagCounts s b t

/-- The policy of every tag in every cluster of a binding, by what `s` says. -/
def floorsPass (b : Nat) (s : State) : Prog Unit := Prog.each (s.clusters b) fun c => Prog.each (List.range 256) fun t =>
  policyTag b t (Tab.at (0, 0) ((allCounts s b).getD t []) c) (oldCounts s b t c)

/-- The counts that `s` says are kept of every tag. -/
def countsKept (b : Nat) (s : State) : Prog Unit := Prog.each (List.range 256) fun t =>
  modTag b t fun p => { p with hist := ((allCounts s b).getD t [] :: p.hist).take (max 1 (s.binding b).pol.win) }

section Pass
variable {b τ : Nat} {s : State}

theorem allCounts_getD (hτ : τ < 256) : (allCounts s b).getD τ [] = tagCounts s b τ := by
  simp [allCounts, hτ]

theorem floorsPass_makes (hτ : τ < 256) : (floorsPass b s).Makes (State.tagView b τ) fun v =>
    (s.clusters b).foldl (fun v c => v.rule (areaCounts s b c τ) (oldCounts s b τ c)) v :=
  .each fun c hc => by
    refine .each_once List.nodup_range (List.mem_range.2 hτ) ?_ fun t ht => policyTag_keeps_other ht _ _
    rw [allCounts_getD hτ, tagCounts_at hc]
    exact policyTag_makes _ _

/-- The floor and the counter that the clusters' counts lead to. -/
def State.ruledFloor (s : State) (b τ : Nat) : Nat × Nat := (s.clusters b).foldl
  (fun x c => (s.tagView b τ).ruleFloor (areaCounts s b c τ) (oldCounts s b τ c) x)
  ((s.tagPol b τ).floor, (s.tagPol b τ).raised)

theorem floorsPass_from (hτ : τ < 256) :
    (s.tagView b τ).From (((floorsPass b s).run s).2.tagView b τ) (s.ruledFloor b τ) := by
  rw [floorsPass_makes hτ s]
  exact (TagView.From.refl _).foldl_rule _ _ _

theorem execPassPolicy_of_bound {b : Fin 8} (h : s.bound b = true) :
    exec (.passPolicy b) s = .next ((countsKept b s).run ((floorsPass b s).run s).2).2 := by
  change execPassPolicy b s = _
  rw [execPassPolicy, if_neg (by simp [h]), Prog.next_eq, run_seq]
  rfl

theorem countsKept_makes (hτ : τ < 256) : (countsKept b s).Makes (fun m => m.tagPol b τ) fun p =>
    { p with hist := (tagCounts s b τ :: p.hist).take (max 1 (s.binding b).pol.win) } := by
  rw [← allCounts_getD hτ]
  exact each_modTag_makes
    (fun t p => { p with hist := ((allCounts s b).getD t [] :: p.hist).take (max 1 (s.binding b).pol.win) }) hτ

theorem passPolicy_tag (hτ : τ < 256) : ((countsKept b s).run ((floorsPass b s).run s).2).2.tagPol b τ =
    { s.tagPol b τ with floor := (s.ruledFloor b τ).1, raised := (s.ruledFloor b τ).2,
                        hist := (tagCounts s b τ :: (s.tagPol b τ).hist).take (max 1 (s.binding b).pol.win) } := by
  have htag : ((floorsPass b s).run s).2.tagPol b τ =
    { s.tagPol b τ with floor := (s.ruledFloor b τ).1, raised := (s.ruledFloor b τ).2 } := (floorsPass_from hτ).tag
  exact (countsKept_makes hτ _).trans (by simp only [htag])

theorem passPolicy_pendFloor (hτ : τ < 256) (hmoved : (s.ruledFloor b τ).1 ≠ (s.tagPol b τ).floor) {c : Nat}
    (hc : c ∈ s.clusters b) : ((countsKept b s).run ((floorsPass b s).run s).2).2.pendFloor c τ = (s.ruledFloor b τ).1 := by
  have hkept : (countsKept b s).Within [.bnd] [] := .each fun t => modTag_within _
  exact (congrArg (getF (floorField τ)) (hkept.keeps_pending (by decide) List.not_mem_nil _)).trans
    ((floorsPass_from hτ).written hmoved c hc)

theorem passPolicy_of_unbound {b : Fin 8} (h : s.bound b = false) : exec (.passPolicy b) s = .next s := by
  change execPassPolicy b s = _
  rw [execPassPolicy, if_pos (by simp [h])]
  rfl

end Pass

/-! #### SKIP_RUN_RESPONSE: what it runs (R195) -/

/-- Whether a tag's counts have moved during a run of skips. -/
def tagMoved (s : State) (b t : Nat) : Bool := (tagCounts s b t).any fun e =>
  let o := Tab.at (0, 0) (s.tagPol b t).base e.1
  decide (o.1 < e.2.1) || decide (o.2 < e.2.2)

/-- The floor of every tag whose counts have moved is raised to 3. -/
def raiseMoved (b : Nat) (s : State) : Prog Unit :=
  Prog.each (List.range 256) fun t => Prog.when (tagMoved s b t) (setFloor b t 3)

/-- The scales of a binding's Landing Units. -/
def scalesOf (s : State) (b : Nat) : List (Nat × Word) := (s.lus b).map fun u => (u, s.rd .LND_LRSCALE u)

/-- Half a scale, in binary32. -/
def halfScale (w : Word) : Word := BitVec.ofNat 64 (b32.mul .rne (w.toNat % 2 ^ 32) 0x3F000000).1

/-- Whether one commit more makes the scales due to be restored. -/
def State.scalesDue (s : State) (b : Nat) : Bool :=
  decide ((s.binding b).pol.commits + 1 = 1000) && !(s.binding b).pol.saved.isEmpty

/-- A binding's policy after one commit more. -/
def Policy.committed (back : Bool) (p : Policy) : Policy :=
  { p with commits := p.commits + 1, saved := if back then [] else p.saved }

theorem Policy.committed_tags (back : Bool) (p : Policy) : (p.committed back).tags = p.tags := rfl

/-- The counts that `s` says are kept of every tag, as those before a run of skips. -/
def basesKept (b : Nat) (s : State) : Prog Unit := Prog.each (List.range 256) fun t =>
  modTag b t fun k => { k with base := tagCounts s b t }

/-- Firmware's answer to a commit. -/
def commitAnswer (b : Nat) (s : State) : Prog Unit := Prog.all [
  basesKept b s,
  Prog.when (s.scalesDue b) (writeScales (s.binding b).pol.saved),
  modPol b (Policy.committed (s.scalesDue b))]

/-- Every scale is halved, and what it was before the first halving is kept. -/
def halveScales (b : Nat) (s : State) : Prog Unit :=
  (modPol b fun p => { p with saved := if p.saved.isEmpty then scalesOf s b else p.saved }).seq
    (writeScales ((scalesOf s b).map fun e => (e.1, halfScale e.2)))

/-- A numerical failure is reported, and a rewind asked for. -/
def reportFailure (b : Nat) : Prog Unit := (Prog.one (.emit (.numericalFailure b))).seq (.one (.emit (.rewindWanted b)))

/-- Firmware's answer to a skip that makes its run `run`. -/
def skipAnswer (b run : Nat) (s : State) : Prog Unit := Prog.all [
  modPol b fun p => { p with commits := 0 },
  Prog.when (run == 4) (raiseMoved b s),
  Prog.when (run == 8) (halveScales b s),
  Prog.when (run == 16) (reportFailure b)]

section Runs
variable {b τ : Nat} {s : State}

theorem skipRunResponse_idle {b : Fin 8} (h : s.lus b = [] ∨ s.bound b = false) : exec (.skipRunResponse b) s = .next s := by
  change execSkipRunResponse b s = _
  rw [execSkipRunResponse]
  cases hl : s.lus b with
  | nil => rfl
  | cons u l =>
    have hb : s.bound b = false := h.resolve_left (by simp [hl])
    simp [hb, Prog.next_eq]

theorem skipRunResponse_commit {b : Fin 8} {lead : Nat} {l : List Nat} (hl : s.lus b = lead :: l) (hb : s.bound b = true)
    (hrun : s.rdF .LND_SKIPRUN Fld.LND_SKIPRUN_COUNT lead = 0) :
    exec (.skipRunResponse b) s = .next ((commitAnswer b s).run s).2 := by
  change execSkipRunResponse b s = _
  have hlead : (s.lus b).head? = some lead := by rw [hl, List.head?_cons]
  simp only [execSkipRunResponse, hlead, hb, Bool.not_true, Bool.false_eq_true, if_false, hrun, if_true]
  rfl

theorem skipRunResponse_skip {b : Fin 8} {lead run : Nat} {l : List Nat} (hl : s.lus b = lead :: l) (hb : s.bound b = true)
    (hrun : s.rdF .LND_SKIPRUN Fld.LND_SKIPRUN_COUNT lead = run) (hskip : run ≠ 0) :
    exec (.skipRunResponse b) s = .next ((skipAnswer b run s).run s).2 := by
  change execSkipRunResponse b s = _
  have hlead : (s.lus b).head? = some lead := by rw [hl, List.head?_cons]
  simp only [execSkipRunResponse, hlead, hb, Bool.not_true, Bool.false_eq_true, if_false, hrun, hskip]
  rfl

/-! #### What each answer changes -/

theorem setFloor_keeps_restoring (t x : Nat) : (setFloor b t x).Keeps fun s => s.restoring b :=
  .get fun _ => .seq (modTag_keeps_restoring _) ((writeFloor_within.keeps_policy (by decide) b).comp Policy.commits)

theorem writeScales_within (l : List (Nat × Word)) : (writeScales l).Within [.pend] [] := .each fun _ => pendWrite_within _ _

theorem modPol_keeps_restoring {f : Policy → Policy} (h : ∀ p, (f p).commits = p.commits) :
    (modPol b f).Keeps fun s => s.restoring b := fun s => (congrArg Policy.commits (modPol_makes f s)).trans (h _)

theorem commitAnswer_policy (m : State) : (((commitAnswer b s).run m).2.binding b).pol =
    Policy.committed (s.scalesDue b) (((basesKept b s).run m).2.binding b).pol := by
  have hscales := ((writeScales_within (s.binding b).pol.saved).when (c := s.scalesDue b)).keeps_policy (by decide) b
  rw [commitAnswer, run_all_cons, run_all_cons, run_all_one]
  exact (modPol_makes _ _).trans (congrArg _ (hscales _))

theorem commitAnswer_restoring (m : State) : ((commitAnswer b s).run m).2.restoring b = m.restoring b + 1 := by
  have hkept : (basesKept b s).Keeps fun s => s.restoring b := .each fun t => modTag_keeps_restoring _
  exact (congrArg Policy.commits (commitAnswer_policy m)).trans (congrArg (· + 1) (hkept m))

theorem basesKept_makes (hτ : τ < 256) :
    (basesKept b s).Makes (fun m => m.tagPol b τ) fun k => { k with base := tagCounts s b τ } :=
  each_modTag_makes (fun t k => { k with base := tagCounts s b t }) hτ

theorem basesKept_base (hτ : τ < 256) (m : State) : (((basesKept b s).run m).2.tagPol b τ).base = tagCounts s b τ := by
  rw [show ((basesKept b s).run m).2.tagPol b τ = _ from basesKept_makes hτ m]

theorem commitAnswer_base (hτ : τ < 256) (m : State) : (((commitAnswer b s).run m).2.tagPol b τ).base = tagCounts s b τ := by
  rw [State.tagPol, commitAnswer_policy, Policy.committed_tags]
  exact basesKept_base hτ m

theorem raiseMoved_keeps_restoring : (raiseMoved b s).Keeps fun s => s.restoring b :=
  .each fun t => .when (setFloor_keeps_restoring t 3)

theorem halveScales_keeps_restoring : (halveScales b s).Keeps fun s => s.restoring b :=
  .seq (modPol_keeps_restoring fun _ => rfl) (((writeScales_within _).keeps_policy (by decide) b).comp Policy.commits)

theorem reportFailure_keeps_restoring : (reportFailure b).Keeps fun s => s.restoring b := fun _ => rfl

theorem skipAnswer_restoring (run : Nat) (m : State) : ((skipAnswer b run s).run m).2.restoring b = 0 := by
  rw [skipAnswer, run_all_cons]
  exact (Keeps.all_cons (.when raiseMoved_keeps_restoring) (.all_cons (.when halveScales_keeps_restoring)
    (.all_cons (.when reportFailure_keeps_restoring) .all_nil)) _).trans (congrArg Policy.commits (modPol_makes _ m))

/-- A moved tag's floor is raised, whichever others' are. -/
theorem raiseMoved_floor (hτ : τ < 256) (hmoved : tagMoved s b τ = true) (m : State) :
    (((raiseMoved b s).run m).2.tagPol b τ).floor = 3 := by
  have hraise : (raiseMoved b s).Makes (State.tagView b τ) (TagView.setFloor 3) := by
    refine .each_once List.nodup_range (List.mem_range.2 hτ) ?_ fun t ht => .when (setFloor_keeps_other ht)
    rw [hmoved]
    exact setFloor_makes
  exact congrArg (fun v => v.tag.floor) (hraise m)

theorem halveScales_pending {u : Nat} (hu : u ∈ s.lus b) (m : State) :
    ((halveScales b s).run m).2.pending' ⟨.LND_LRSCALE, u, 0⟩ = halfScale (s.rd .LND_LRSCALE u) &&& regMask .LND_LRSCALE := by
  rw [halveScales, run_seq, writeScales, scalesOf, List.map_map, each_map]
  refine run_each_of_mem (P := fun m => m.pending' ⟨.LND_LRSCALE, u, 0⟩ = _) (fun v m hm => ?_) hu
    (fun _ => pendWrite_pending _ _) _
  by_cases huv : u = v
  · exact huv ▸ pendWrite_pending _ _
  · exact (pendWrite_keeps_other (fun hk => huv (congrArg RegKey.i hk)) _ m).trans hm

theorem reportFailure_out (m : State) : Out.numericalFailure b ∈ ((reportFailure b).run m).2.out ∧
    Out.rewindWanted b ∈ ((reportFailure b).run m).2.out := by
  simp [reportFailure]

/-- At the lengths of a run that have an answer a skip gives that answer, after it has ended the count of commits. -/
theorem skipAnswer_run (run : Nat) (m : State) : ∃ m',
    (run = 4 → ((skipAnswer b run s).run m).2 = ((raiseMoved b s).run m').2) ∧
    (run = 8 → ((skipAnswer b run s).run m).2 = ((halveScales b s).run m').2) ∧
    (run = 16 → ((skipAnswer b run s).run m).2 = ((reportFailure b).run m').2) := by
  refine ⟨((modPol b fun p => { p with commits := 0 }).run m).2, ?_, ?_, ?_⟩ <;> rintro rfl <;> simp [skipAnswer]

end Runs

/-- Settles O26: each answer is run on what firmware keeps of one tag, which no other tag's answer changes. -/
theorem firmwareFollowsCountsAndSkips : Obligations.FirmwareFollowsCountsAndSkips := by
  intro b s
  refine ⟨fun hb => ⟨s, passPolicy_of_unbound hb, rfl⟩, fun hb => ⟨_, execPassPolicy_of_bound hb, fun τ hτ => ?_⟩,
    fun h => ⟨s, skipRunResponse_idle h, rfl⟩, fun lead l hl hb => ?_⟩
  · have htag := passPolicy_tag (b := b) (s := s) hτ
    exact ⟨congrArg TagPolicy.hist htag, congrArg TagPolicy.floor htag, congrArg TagPolicy.raised htag,
      fun hmoved c hc => passPolicy_pendFloor hτ hmoved hc⟩
  · dsimp only
    generalize hrun : s.rdF .LND_SKIPRUN Fld.LND_SKIPRUN_COUNT lead = run
    by_cases hzero : run = 0
    · subst hzero
      exact ⟨_, skipRunResponse_commit hl hb hrun, commitAnswer_restoring s, fun _ τ hτ => commitAnswer_base hτ s,
        nofun, nofun, nofun⟩
    · obtain ⟨m, hraise, hhalve, hreport⟩ := skipAnswer_run (b := b) (s := s) run s
      refine ⟨_, skipRunResponse_skip hl hb hrun hzero, (skipAnswer_restoring run s).trans (if_neg hzero).symm,
        fun h => absurd h hzero, fun h τ hτ hmoved => ?_, fun h u hu => ?_, fun h => ?_⟩
      · exact hraise h ▸ raiseMoved_floor hτ hmoved m
      · exact hhalve h ▸ halveScales_pending hu m
      · exact hreport h ▸ reportFailure_out m

end Sys2Proof.Machine

/-! ### Posted writes of any block (R310) -/

namespace Sys2Proof.Machine
open Prog

/-- A register field written leaves every whole register of another name. -/
theorem wrF_keeps_rd {r q : RegName} (h : q ≠ r) (f : Field) (x i j a b : Nat) : (wrF r f x i j).Keeps fun s => s.rd q a b :=
  fun s => s.rd_setReg_name_ne h _ _ _ _ _

/-- A field written reads as what was written, cut to its width. -/
theorem wrF_makes {r : RegName} {f : Field} (h : fieldFits f r = true) (x i j : Nat) :
    (wrF r f x i j).Makes (fun s => s.rdF r f i j) fun _ => x % 2 ^ f.w := fun s => s.rdF_setReg_field h i j x

/-- A count goes up in its field, and stops at the field's largest value (R219). -/
theorem bumpF_makes {r : RegName} {f : Field} (h : fieldFits f r = true) (n i j : Nat) :
    (bumpF r f n i j).Makes (fun s => s.rdF r f i j) fun x => satAdd f.w x n := fun s =>
  (wrF_makes h _ i j s).trans (Nat.mod_eq_of_lt
    ((Nat.min_le_right _ _).trans_lt (Nat.sub_lt (Nat.two_pow_pos _) Nat.one_pos)))

/-- A program under a condition makes its change where the condition holds. -/
theorem Prog.Makes.when {β : Type} {g : State → β} {F : β → β} {p : Prog Unit} (h : p.Makes g F) (c : Bool) :
    (Prog.when c p).Makes g fun x => if c then F x else x := fun s => by
  rw [run_when]
  split
  · exact h s
  · rfl

/-- An occurrence counted changes the counters' registers alone (R405). -/
theorem count_within_counters (set ev k : Nat) (t : Tags) : (count set ev k t).Within [.reg] [.CNT_VAL, .CNT_OVF] :=
  .each fun _ => .get fun _ => .ite (.seq (.wr (by simp) (by simp)) (.when (.wr (by simp) (by simp)))) .skip

section Posted
variable {s : State} {b : PwBlock}

theorem busyBit_fits (b : PwBlock) : fieldFits (busyBit b).fld (busyBit b).reg = true := by
  cases b <;> dsimp only [busyBit] <;> decide

theorem lostBit_fits (b : PwBlock) : fieldFits (lostBit b).fld (lostBit b).reg = true := by
  cases b <;> dsimp only [lostBit] <;> decide

theorem lostBit_not_counter (b : PwBlock) : (lostBit b).reg ∉ [RegName.CNT_VAL, .CNT_OVF] := by cases b <;> simp [lostBit]

theorem setBusy_wbusy (b : PwBlock) (on : Bool) : (setBusy b on).Makes (fun s => s.wbusy b) fun _ => on := fun s => by
  have hset : ((setBusy b on).run s).2.rdF (busyBit b).reg (busyBit b).fld (busyBit b).idx = _ :=
    s.rdF_setReg_field (busyBit_fits b) (busyBit b).idx 0 (if on then 1 else 0)
  simp only [State.wbusy, hset]
  cases b <;> cases on <;> rfl

/-- A dropped write changes the register of its WLOST bit and the counters. -/
theorem dropWrite_within (b : PwBlock) : (dropWrite b).Within [.reg] [(lostBit b).reg, .CNT_VAL, .CNT_OVF] := by
  refine .seq (.setF (by simp) (by simp)) ?_
  split
  · exact (count_within_counters _ _ _ _).mono (List.Subset.refl _) (List.subset_cons_self _ _)
  · exact .skip

theorem dropWrite_lost (b : PwBlock) (s : State) : WriteLost b ((dropWrite b).run s).2 := by
  have hset := s.rdF_setReg_field (lostBit_fits b) (lostBit b).idx 0 1
  have hone : 1 % 2 ^ (lostBit b).fld.w = 1 := by cases b <;> rfl
  rw [hone] at hset
  unfold WriteLost dropWrite
  rw [run_seq]
  split
  · exact ((count_within_counters _ _ _ _).keeps_rdF (lostBit_not_counter b) _ _ _ _).trans hset
  · exact hset

/-- A posted write is dropped while another is in progress, and otherwise takes its effect with WBUSY at 1. -/
theorem Completes.posted {i : Instr} {accept : Prog Unit} {lost taken : State → Prop}
    (hexec : exec i s = (posted b accept).next s) (hlost : s.wbusy b = true → lost ((dropWrite b).run s).2)
    (htaken : s.wbusy b = false → taken (accept.run ((setBusy b true).run s).2).2) :
    Completes i s fun t => if s.wbusy b = true then lost t else taken t := by
  refine .of_next hexec ?_
  rw [Machine.posted, run_get]
  by_cases h : s.wbusy b = true
  · rw [if_pos h, if_pos h]
    exact hlost h
  · rw [if_neg h, if_neg h, run_seq]
    exact htaken (Bool.not_eq_true _ ▸ h)

theorem Prog.Within.keeps_busy {p : Prog Unit} {l : List Part} {n : List RegName} (h : p.Within l n)
    (hn : (busyBit b).reg ∉ n) : p.Keeps fun s => s.wbusy b := (h.keeps_rdF hn _ _ _).comp (· == 1)

/-- What an accepted write leaves of WBUSY stays 1 until it has taken effect. -/
theorem Prog.Keeps.wbusy_of_busy {accept : Prog Unit} (h : accept.Keeps fun s => s.wbusy b) (s : State) :
    (accept.run ((setBusy b true).run s).2).2.wbusy b = true := (h _).trans (setBusy_wbusy b true s)

end Posted

end Sys2Proof.Machine

/-! ### The sectors of the vaults (R201 to R203) -/

namespace Sys2Proof.Machine
open Prog

/-! #### Bytes, metadata and error patterns after an effect -/

section Effects
variable (s : State)

theorem byte_memByte (a : Nat) (v : Byte) (x : Nat) :
    ((Eff.memByte a v).apply s).byte x = if x = a ∧ a < stackSize then v else s.byte x := by
  unfold State.byte
  rw [Eff.memByte_mem]
  by_cases ha : a < stackSize
  · rw [if_pos ha, Tab.at_upd]
    simp only [ha, and_true]
  · rw [if_neg ha, if_neg fun h => ha h.2]

@[simp] theorem errOf_setErr (a : Nat) (v : List (Nat × Byte)) (x : Nat) :
    ((Eff.setErr a v).apply s).errOf x = if x = a then v else s.errOf x := by
  unfold State.errOf; rw [Eff.setErr_err, Tab.at_upd]

@[simp] theorem metaOf_setMeta (a : Nat) (v : BitVec 32) (x : Nat) :
    ((Eff.setMeta a v).apply s).metaOf x = if x = a then v else s.metaOf x := by
  unfold State.metaOf; rw [Eff.setMeta_mmeta, Tab.at_upd]

@[simp] theorem errOf_setMeta (a : Nat) (v : BitVec 32) (x : Nat) : ((Eff.setMeta a v).apply s).errOf x = s.errOf x := rfl

@[simp] theorem metaOf_setErr (a : Nat) (v : List (Nat × Byte)) (x : Nat) : ((Eff.setErr a v).apply s).metaOf x = s.metaOf x := rfl

/-- Bytes written within the stack stand from the first address on, and every other byte as it was. -/
theorem wrBytes_byte (a : Nat) (d : List Byte) (h : a + d.length ≤ stackSize) (x : Nat) :
    ((wrBytes a d).run s).2.byte x = if a ≤ x ∧ x < a + d.length then d.getD (x - a) 0 else s.byte x := by
  induction d generalizing a s with
  | nil => exact (if_neg (by simp)).symm
  | cons v d ih =>
    rw [List.length_cons] at h
    rw [wrBytes, run_eff, ih _ _ (by omega), byte_memByte]
    by_cases hx : x = a
    · subst hx
      rw [if_neg (by omega), if_pos ⟨rfl, by omega⟩, if_pos ⟨le_rfl, by simp⟩, Nat.sub_self]
      rfl
    · rw [if_neg (c := x = a ∧ _) fun h => hx h.1, List.length_cons]
      by_cases hin : a + 1 ≤ x ∧ x < a + 1 + d.length
      · rw [if_pos hin, if_pos (by omega), show x - a = x - (a + 1) + 1 by omega, List.getD_cons_succ]
      · rw [if_neg hin, if_neg (by omega)]

end Effects

section Keeping
variable {α : Type} {p : Prog α} {l : List Part} {n : List RegName}

theorem Prog.Within.keeps_errOf (h : p.Within l n) (hp : Part.err ∉ l) (sec : Nat) : p.Keeps fun s => s.errOf sec := fun s =>
  congrArg (Tab.at [] · sec) (h.same .err hp s)

theorem Prog.Within.keeps_metaOf (h : p.Within l n) (hp : Part.mmeta ∉ l) (sec : Nat) : p.Keeps fun s => s.metaOf sec :=
  fun s => congrArg (Tab.at 0 · sec) (h.same .mmeta hp s)

theorem Prog.Within.keeps_byte (h : p.Within l n) (hp : Part.mem ∉ l) (a : Nat) : p.Keeps fun s => s.byte a :=
  fun s => h.same .mem hp s a

/-- The mapping in force is told by MEM_STATUS (R198). -/
theorem Prog.Within.keeps_vaultOf (h : p.Within l n) (hn : RegName.MEM_STATUS ∉ n) (a : Nat) : p.Keeps fun s => s.vaultOf a :=
  fun s => by
  have hmap : (p.run s).2.fullMap = s.fullMap := congrArg (· == 3) (h.keeps_rdF hn Fld.MEM_STATUS_STATE 0 0 s)
  simp only [State.vaultOf, hmap]

end Keeping

/-! #### A sector read (R203) -/

/-- A sector as a reader gets it under an error pattern; `bad` says that the code cannot correct it. -/
def State.sectorUnder (s : State) (sec : Nat) (e : List (Nat × Byte)) (bad : Bool) : SecRead :=
  ⟨s.storedData sec e, s.storedMeta sec e, bad || (s.storedMeta sec e).testBit 31⟩

theorem State.sectorUnder_congr {s t : State} {sec : Nat} (hbyte : ∀ a, t.byte a = s.byte a) (hmeta : t.metaOf sec = s.metaOf sec)
    (e : List (Nat × Byte)) (bad : Bool) : t.sectorUnder sec e bad = s.sectorUnder sec e bad := by
  simp only [sectorUnder, storedData, storedMeta, hbyte, hmeta]

section Reads
variable {s : State} {sec : Nat} {scrub : Bool}

/-- The state once a vault has counted a read of its sector. -/
def State.readCounted (s : State) (sec : Nat) : State := ((count (setVault (s.vaultOf (64 * sec))) 0x50).run s).2

theorem State.readCounted_within (s : State) (sec : Nat) :
    (count (setVault (s.vaultOf (64 * sec))) 0x50).Within [.reg] [.CNT_VAL, .CNT_OVF] := count_within_counters _ _ _ _

theorem readCounted_errOf : (s.readCounted sec).errOf sec = s.errOf sec := (s.readCounted_within sec).keeps_errOf (by decide) _ _

theorem readCounted_vaultOf : (s.readCounted sec).vaultOf (64 * sec) = s.vaultOf (64 * sec) :=
  (s.readCounted_within sec).keeps_vaultOf (by decide) _ _

theorem readCounted_sectorUnder (e : List (Nat × Byte)) (bad : Bool) :
    (s.readCounted sec).sectorUnder sec e bad = s.sectorUnder sec e bad :=
  State.sectorUnder_congr (fun a => (s.readCounted_within sec).keeps_byte (by decide) a s)
    ((s.readCounted_within sec).keeps_metaOf (by decide) _ _) e bad

/-- One symbol's error is corrected where the sector is stored (R203). -/
def correctSymbol (sec v i : Nat) (e : List (Nat × Byte)) : Prog Unit := Prog.all [bumpF .MEM_CECNT Fld.MEM_CECNT_COUNT 1 v,
  wrF .MEM_ERRINFO Fld.MEM_ERRINFO_SYM i v, .one (.setErr sec e)]

/-- An error that the code cannot correct is reported (R203, R219). -/
def reportUncorrected (sec v layer src : Nat) : Prog Unit := Prog.all [bumpF .MEM_UECNT Fld.MEM_UECNT_COUNT 1 v,
  wrF .MEM_ERRADDR Fld.MEM_ERRADDR_ADDR (64 * sec) v, wrF .MEM_ERRINFO Fld.MEM_ERRINFO_LAYER layer v,
  wrF .MEM_ERRINFO Fld.MEM_ERRINFO_SRC src v, setF .MEM_ERR Fld.MEM_ERR_UE v]

theorem correctSymbol_leaves (v i : Nat) (e : List (Nat × Byte)) (s : State) : let t := ((correctSymbol sec v i e).run s).2
    t.errOf sec = e ∧ t.rdF .MEM_CECNT Fld.MEM_CECNT_COUNT v =
      satAdd Fld.MEM_CECNT_COUNT.w (s.rdF .MEM_CECNT Fld.MEM_CECNT_COUNT v) 1 := by
  have hcount : (correctSymbol sec v i e).Makes (fun s => s.rdF .MEM_CECNT Fld.MEM_CECNT_COUNT v) _ :=
    .all_cons (bumpF_makes (by decide) 1 v 0) (Keeps.all_cons (wrF_keeps_other (by decide) _ _ _ _ _ _ _)
      (.all_cons (.one fun _ => rfl) .all_nil)).makes
  exact ⟨(errOf_setErr _ sec e sec).trans (if_pos rfl), hcount s⟩

theorem reportUncorrected_within (sec v layer src : Nat) :
    (reportUncorrected sec v layer src).Within [.reg] [.MEM_UECNT, .MEM_ERRADDR, .MEM_ERRINFO, .MEM_ERR] := by
  simp (maxDischargeDepth := 30) [reportUncorrected]

theorem reportUncorrected_leaves (v layer src : Nat) (s : State) : let t := ((reportUncorrected sec v layer src).run s).2
    t.errOf sec = s.errOf sec ∧ t.rdF .MEM_ERR Fld.MEM_ERR_UE v = 1 ∧
    t.rdF .MEM_ERRADDR Fld.MEM_ERRADDR_ADDR v = 64 * sec % 2 ^ 40 := by
  have hrest : (Prog.all [wrF .MEM_ERRINFO Fld.MEM_ERRINFO_LAYER layer v, wrF .MEM_ERRINFO Fld.MEM_ERRINFO_SRC src v,
      setF .MEM_ERR Fld.MEM_ERR_UE v]).Within [.reg] [.MEM_ERRINFO, .MEM_ERR] := by
    simp (maxDischargeDepth := 30)
  refine ⟨(reportUncorrected_within _ _ _ _).keeps_errOf (by decide) sec s, ?_, ?_⟩
  · simp only [reportUncorrected, run_all_cons, run_all_nil]
    exact wrF_makes (by decide) 1 v 0 _
  · rw [reportUncorrected, run_all_cons, run_all_cons]
    exact (hrest.keeps_rdF (by decide) _ _ _ _).trans (wrF_makes (by decide) (64 * sec) v 0 _)

/-- A sector that decodes is read as it stands, and nothing but the count changes. -/
theorem secRead_run_intact (h : rsDecode (s.errOf sec) = .intact) :
    (secRead sec scrub).run s = (s.sectorUnder sec (s.errOf sec) false, s.readCounted sec) := by
  rw [← readCounted_errOf] at h
  rw [← readCounted_sectorUnder, ← readCounted_errOf]
  unfold State.readCounted at h
  simp only [secRead, run_get, run_bind, h]
  rfl

/-- One symbol's error is corrected where the sector is stored, and counted. -/
theorem secRead_run_one {i : Nat} {x : Byte} (h : rsDecode (s.errOf sec) = .one i x) : (secRead sec scrub).run s =
    (s.sectorUnder sec (errAdd (s.errOf sec) i x) false,
      ((correctSymbol sec (s.vaultOf (64 * sec)) i (errAdd (s.errOf sec) i x)).run (s.readCounted sec)).2) := by
  rw [← readCounted_errOf] at h
  rw [← readCounted_sectorUnder, ← readCounted_errOf, ← readCounted_vaultOf]
  unfold State.readCounted at h
  simp only [secRead, run_get, run_bind, h]
  rfl

/-- An error that the code cannot correct is reported, and the sector reads as poisoned. -/
theorem secRead_run_bad (h : rsDecode (s.errOf sec) = .bad) : (secRead sec scrub).run s =
    (s.sectorUnder sec (s.errOf sec) true, ((reportUncorrected sec (s.vaultOf (64 * sec))
      ((s.readCounted sec).layerOf (64 * sec)) (if scrub then 1 else 0)).run (s.readCounted sec)).2) := by
  rw [← readCounted_errOf] at h
  rw [← readCounted_sectorUnder, ← readCounted_errOf, ← readCounted_vaultOf]
  unfold State.readCounted at h
  simp only [secRead, run_get, run_bind, h]
  rfl

end Reads

/-! #### A sector written (R202, R219) -/

section Writes
variable {s : State} {sec : Nat}

/-- An injection is armed for the next write of a sector (R219). -/
def State.armedFor (s : State) (sec : Nat) : Bool :=
  flagF Fld.MEM_INJ_ARM (s.rd .MEM_INJ (s.vaultOf (64 * sec))) && getF Fld.MEM_INJ_SECTOR (s.rd .MEM_INJ (s.vaultOf (64 * sec))) == sec

theorem Prog.Within.keeps_armedFor {α : Type} {p : Prog α} {l : List Part} {n : List RegName} (h : p.Within l n)
    (hst : RegName.MEM_STATUS ∉ n) (hinj : RegName.MEM_INJ ∉ n) (sec : Nat) : p.Keeps fun s => s.armedFor sec := fun s => by
  have hv : (p.run s).2.vaultOf (64 * sec) = s.vaultOf (64 * sec) := h.keeps_vaultOf hst _ s
  simp only [State.armedFor, hv, h.rd _ hinj]

theorem inject_within (sec : Nat) : (inject sec).Within [.reg, .err] [.MEM_INJ, .MEM_ERR] := by
  simp (maxDischargeDepth := 30) [inject]

theorem inject_run_unarmed (h : s.armedFor sec = false) : (inject sec).run s = ((), (Eff.setErr sec []).apply s) := by
  unfold State.armedFor at h
  simp only [inject, run_get, h, Bool.false_eq_true, if_false, run_one]

/-- What a vault notes of a write before it stores the sector (R198, R405). -/
def noteWrite (s : State) (sec : Nat) : Prog Unit :=
  (Prog.when (!s.fullMap) (.one (.setPilot sec true))).seq (count (setVault (s.vaultOf (64 * sec))) 0x51)

theorem noteWrite_within (s : State) (sec : Nat) : (noteWrite s sec).Within [.pilotSecs, .reg] [.CNT_VAL, .CNT_OVF] :=
  .seq (.when (.setPilot (by simp))) ((count_within_counters _ _ _ _).mono (by simp) (List.Subset.refl _))

theorem secStore_run (d : List Byte) (m : Nat) : (secStore sec d m).run s = (inject sec).run
    ((Eff.setMeta sec (BitVec.ofNat 32 m)).apply ((wrBytes (64 * sec) d).run ((noteWrite s sec).run s).2).2) := by
  simp only [secStore, noteWrite, run_get, run_all_cons, run_all_nil, run_seq, run_one]

theorem wrBytes_within_mem (a : Nat) (d : List Byte) : (wrBytes a d).Within [.mem] [] := by
  induction d generalizing a with
  | nil => exact .skip
  | cons b d ih => exact .eff List.mem_cons_self trivial (ih _)

/-- Bytes stored in a sector from an offset on: they and the metadata are new, every other byte stands, and the sector has
no error unless an injection is armed for it. -/
structure Stored (sec off : Nat) (d : List Byte) (m : Nat) (s t : State) : Prop where
  byte  : ∀ a, t.byte a = if 64 * sec + off ≤ a ∧ a < 64 * sec + off + d.length then d.getD (a - (64 * sec + off)) 0 else s.byte a
  mta   : t.metaOf sec = BitVec.ofNat 32 m
  clean : s.armedFor sec = false → t.errOf sec = []

theorem secStore_stores {d : List Byte} (hd : d.length = 64) (hsec : 64 * sec + 64 ≤ stackSize) (m : Nat) (s : State) :
    Stored sec 0 d m s ((secStore sec d m).run s).2 := by
  rw [secStore_run]
  have hnote := noteWrite_within s sec
  generalize hu : ((wrBytes (64 * sec) d).run ((noteWrite s sec).run s).2).2 = u
  refine ⟨fun a => ?_, ?_, fun h => ?_⟩
  · have hbyte := wrBytes_byte ((noteWrite s sec).run s).2 (64 * sec) d (hd ▸ hsec) a
    rw [hu] at hbyte
    have hsame : ((noteWrite s sec).run s).2.byte a = s.byte a := hnote.keeps_byte (by decide) a s
    exact ((inject_within sec).keeps_byte (by decide) a _).trans (hsame ▸ hbyte)
  · exact ((inject_within sec).keeps_metaOf (by decide) sec _).trans ((metaOf_setMeta _ _ _ _).trans (if_pos rfl))
  · have harm : u.armedFor sec = s.armedFor sec := hu ▸ ((wrBytes_within_mem _ _).keeps_armedFor (by simp) (by simp) sec _).trans
      (hnote.keeps_armedFor (by decide) (by decide) sec s)
    rw [inject_run_unarmed (s := (Eff.setMeta sec (BitVec.ofNat 32 m)).apply u) (harm.trans h)]
    exact (errOf_setErr _ _ _ _).trans (if_pos rfl)

/-- Bytes laid over a part of a list. -/
theorem getD_overlay {α : Type} {l d : List α} {off : Nat} (h : off + d.length ≤ l.length) (i : Nat) (x : α) :
    (l.take off ++ d ++ l.drop (off + d.length)).getD i x =
      if off ≤ i ∧ i < off + d.length then d.getD (i - off) x else l.getD i x := by
  have htake : (l.take off).length = off := List.length_take_of_le (by omega)
  simp only [List.getD_eq_getElem?_getD, List.getElem?_append, List.length_append, htake, List.getElem?_take, List.getElem?_drop]
  split_ifs <;> grind

theorem errAt_nil (i : Nat) : errAt [] i = 0 := rfl

/-- A sector without error stands as it was written. -/
theorem sectorUnder_nil (s : State) (sec : Nat) : s.sectorUnder sec [] false =
    ⟨(List.range 64).map fun i => s.byte (64 * sec + i), (s.metaOf sec).toNat, (s.metaOf sec).getLsbD 31⟩ := by
  have hmeta : s.storedMeta sec [] = (s.metaOf sec).toNat := by
    have hlt := (s.metaOf sec).isLt
    simp only [State.storedMeta, errAt_nil, BitVec.ofNat_eq_ofNat, BitVec.xor_zero, List.range_succ, List.range_zero,
      List.nil_append, List.cons_append, List.map_cons, List.map_nil, leNat, BitVec.toNat_ofNat]
    omega
  simp only [State.sectorUnder, hmeta, State.storedData, errAt_nil, BitVec.ofNat_eq_ofNat, BitVec.xor_zero]
  rfl

/-- The bytes of a sector. -/
def State.sectorBytes (s : State) (sec : Nat) : List Byte := (List.range 64).map fun i => s.byte (64 * sec + i)

theorem sectorBytes_getD {i : Nat} (h : i < 64) : (s.sectorBytes sec).getD i 0 = s.byte (64 * sec + i) := by
  simp [State.sectorBytes, h]

/-- A whole sector is stored as it comes (R202). -/
theorem secWrite_run_whole {d : List Byte} (hd : d.length = 64) (p : Bool) :
    (secWrite sec 0 d p).run s = (secStore sec d (metaWord 0 p)).run s := by
  rw [secWrite, if_pos (by simp [hd])]

/-- A part is laid over the sector as read, and stored with the sector's tag and poison (R202). -/
theorem secWrite_run_part {off : Nat} {d : List Byte} (h : ¬ (off = 0 ∧ d.length = 64)) (herr : s.errOf sec = []) (p : Bool) :
    (secWrite sec off d p).run s = (secStore sec
      ((s.sectorBytes sec).take off ++ d ++ (s.sectorBytes sec).drop (off + d.length))
      (metaWord (s.metaOf sec).toNat ((s.metaOf sec).getLsbD 31 || p))).run (s.readCounted sec) := by
  have hread : (secRead sec).run s = (s.sectorUnder sec (s.errOf sec) false, s.readCounted sec) :=
    secRead_run_intact (by rw [herr]; rfl)
  rw [secWrite, if_neg (by simpa using h), run_bind, hread, herr, sectorUnder_nil]
  rfl

/-- The metadata word that a write of a sector leaves (R202). -/
def State.metaAfter (s : State) (sec : Nat) (whole p : Bool) : Nat :=
  if whole then metaWord 0 p else metaWord (s.metaOf sec).toNat ((s.metaOf sec).getLsbD 31 || p)

theorem secWrite_stores {off : Nat} {d : List Byte} (hfit : off + d.length ≤ 64) (hsec : 64 * sec + 64 ≤ stackSize)
    (herr : s.errOf sec = [] ∨ off = 0 ∧ d.length = 64) (p : Bool) :
    Stored sec off d (s.metaAfter sec (decide (off = 0 ∧ d.length = 64)) p) s ((secWrite sec off d p).run s).2 := by
  by_cases hwhole : off = 0 ∧ d.length = 64
  · obtain ⟨rfl, hd⟩ := hwhole
    rw [secWrite_run_whole hd, State.metaAfter, decide_eq_true ⟨rfl, hd⟩]
    exact secStore_stores hd hsec _ s
  · have hread := s.readCounted_within sec
    have hlen : (s.sectorBytes sec).length = 64 := by simp [State.sectorBytes]
    rw [secWrite_run_part hwhole (herr.resolve_right hwhole), State.metaAfter, decide_eq_false hwhole]
    generalize hdata : (s.sectorBytes sec).take off ++ d ++ (s.sectorBytes sec).drop (off + d.length) = data
    have hlay (i : Nat) := congrArg (List.getD · i 0) hdata
    simp only [getD_overlay (hlen ▸ hfit : off + d.length ≤ (s.sectorBytes sec).length)] at hlay
    have hlength : data.length = 64 := by
      rw [← hdata]
      simp only [List.length_append, List.length_take, List.length_drop, hlen]
      omega
    obtain ⟨hbyte, hmta, hclean⟩ := secStore_stores hlength hsec
      (metaWord (s.metaOf sec).toNat ((s.metaOf sec).getLsbD 31 || p)) (s.readCounted sec)
    refine ⟨fun a => ?_, hmta, fun h => hclean ((hread.keeps_armedFor (by decide) (by decide) sec s).trans h)⟩
    have hsame : (s.readCounted sec).byte a = s.byte a := hread.keeps_byte (by decide) a s
    rw [hbyte, hsame, hlength, Nat.add_zero, ← hlay]
    by_cases hin : 64 * sec ≤ a ∧ a < 64 * sec + 64
    · rw [if_pos hin, sectorBytes_getD (by omega), show 64 * sec + (a - 64 * sec) = a by omega,
        show a - (64 * sec + off) = a - 64 * sec - off by omega]
      exact if_congr (by omega) rfl rfl
    · rw [if_neg hin, if_neg (by omega)]

end Writes
end Sys2Proof.Machine

/-! ### The vaults' commands (R200, R202 to R204, R219) -/

namespace Sys2Proof.Machine
open Prog

/-! #### SECTOR_READ and SECTOR_WRITE (R202, R203) -/

section Sectors
variable {addr : BitVec 40} {s : State}

theorem sector_outside (h : s.stackEnd ≤ addr.toNat) (upset : List (Nat × Byte)) (off : Nat) (data : List Byte) (p : Bool) :
    exec (.sectorRead addr upset) s = .fault .noSuchAddress ∧ exec (.sectorWrite addr off data p) s = .fault .noSuchAddress :=
  ⟨if_pos h, if_pos h⟩

/-- A sector that begins within the mapping in force lies within the stack (R197, R198). -/
theorem sector_within_stack (h : addr.toNat < s.stackEnd) : 64 * (addr.toNat / 64) + 64 ≤ stackSize := by
  unfold State.stackEnd at h
  unfold stackSize
  split at h <;> omega

/-- The error pattern of a sector of which symbols change. -/
def upsetErr (e : List (Nat × Byte)) (upset : List (Nat × Byte)) : List (Nat × Byte) :=
  (upset.filter fun p : Nat × Byte => decide (p.1 < 72)).foldl (fun e p => errAdd e p.1 p.2) e

/-- The state as a vault finds its sector when it reads it. -/
def State.upset (s : State) (sec : Nat) (upset : List (Nat × Byte)) : State :=
  (Eff.setErr sec (upsetErr (s.errOf sec) upset)).apply s

theorem upset_errOf (sec : Nat) (upset : List (Nat × Byte)) : (s.upset sec upset).errOf sec = upsetErr (s.errOf sec) upset :=
  (errOf_setErr _ _ _ _).trans (if_pos rfl)

theorem upset_sectorUnder (sec : Nat) (upset e : List (Nat × Byte)) (bad : Bool) :
    (s.upset sec upset).sectorUnder sec e bad = s.sectorUnder sec e bad := rfl

/-- The state once a vault has answered a read of a sector of which symbols have changed (R203). -/
def State.answered (s : State) (sec : Nat) (upset : List (Nat × Byte)) : State :=
  let r := (secRead sec).run (s.upset sec upset)
  (Eff.emit (.sector (64 * sec) r.1.data r.1.mta r.1.poison)).apply r.2

theorem exec_sectorRead (h : addr.toNat < s.stackEnd) (upset : List (Nat × Byte)) :
    exec (.sectorRead addr upset) s = .next (s.answered (addr.toNat / 64) upset) := by
  refine (if_neg (Nat.not_le.2 h)).trans ?_
  rw [next_eq, run_seq, run_bind]
  rfl

theorem exec_sectorWrite (h : addr.toNat < s.stackEnd) (off : Nat) (data : List Byte) (p : Bool) :
    exec (.sectorWrite addr off data p) s = (if off < 64 ∧ data ≠ [] then secWrite (addr.toNat / 64) off (data.take (64 - off)) p
      else Prog.skip).next s := by
  refine (if_neg (Nat.not_le.2 h)).trans (congrArg (Prog.next · s) (if_congr ?_ rfl rfl))
  simp

@[simp] theorem errOf_emit (o : Out) (sec : Nat) : ((Eff.emit o).apply s).errOf sec = s.errOf sec := rfl

@[simp] theorem rdF_emit (o : Out) (n : RegName) (f : Field) (i j : Nat) : ((Eff.emit o).apply s).rdF n f i j = s.rdF n f i j := rfl

theorem answered_byte (sec : Nat) (upset : List (Nat × Byte)) (a : Nat) : (s.answered sec upset).byte a = s.byte a :=
  (secRead_within sec false).keeps_byte (by decide) a _

/-- The answer to a read that finds the sector under an error pattern. -/
theorem mem_out_answered {sec : Nat} {upset e : List (Nat × Byte)} {bad : Bool} {t : State}
    (h : (secRead sec).run (s.upset sec upset) = (s.sectorUnder sec e bad, t)) :
    Out.sector (64 * sec) (s.storedData sec e) (s.storedMeta sec e) (bad || (s.storedMeta sec e).testBit 31) ∈
      (s.answered sec upset).out := by
  rw [State.answered, h, Eff.emit_out]
  exact List.mem_cons_self

section Answers
variable {sec : Nat} {upset : List (Nat × Byte)} {e : List (Nat × Byte)} (he : upsetErr (s.errOf sec) upset = e)
include he

theorem answered_intact (h : rsDecode e = .intact) : (s.answered sec upset).errOf sec = e ∧
    Out.sector (64 * sec) (s.storedData sec e) (s.storedMeta sec e) ((s.storedMeta sec e).testBit 31) ∈ (s.answered sec upset).out := by
  have he' : (s.upset sec upset).errOf sec = e := (upset_errOf sec upset).trans he
  have hrun := secRead_run_intact (scrub := false) (he'.symm ▸ h)
  rw [he', upset_sectorUnder] at hrun
  refine ⟨?_, mem_out_answered hrun⟩
  rw [State.answered, hrun, errOf_emit, readCounted_errOf, he']

theorem answered_one {i : Nat} {x : Byte} (h : rsDecode e = .one i x) : let t := s.answered sec upset
    let v := s.vaultOf (64 * sec)
    let e' := errAdd e i x
    t.errOf sec = e' ∧ t.rdF .MEM_CECNT Fld.MEM_CECNT_COUNT v =
      satAdd Fld.MEM_CECNT_COUNT.w (s.rdF .MEM_CECNT Fld.MEM_CECNT_COUNT v) 1 ∧
    Out.sector (64 * sec) (s.storedData sec e') (s.storedMeta sec e') ((s.storedMeta sec e').testBit 31) ∈ t.out := by
  have he' : (s.upset sec upset).errOf sec = e := (upset_errOf sec upset).trans he
  have hrun := secRead_run_one (scrub := false) (he'.symm ▸ h)
  rw [he', upset_sectorUnder] at hrun
  have hsame := ((s.upset sec upset).readCounted_within sec).keeps_rdF (r := .MEM_CECNT) (by decide) Fld.MEM_CECNT_COUNT
    (s.vaultOf (64 * sec)) 0 (s.upset sec upset)
  obtain ⟨herr, hcount⟩ := correctSymbol_leaves (sec := sec) (s.vaultOf (64 * sec)) i (errAdd e i x)
    ((s.upset sec upset).readCounted sec)
  refine ⟨?_, ?_, mem_out_answered hrun⟩
  · rw [State.answered, hrun, errOf_emit]
    exact herr
  · rw [State.answered, hrun, rdF_emit]
    exact hcount.trans (congrArg (satAdd _ · 1) hsame)

theorem answered_bad (hlt : 64 * sec < 2 ^ 40) (h : rsDecode e = .bad) : let t := s.answered sec upset
    let v := s.vaultOf (64 * sec)
    t.errOf sec = e ∧ t.rdF .MEM_ERR Fld.MEM_ERR_UE v = 1 ∧ t.rdF .MEM_ERRADDR Fld.MEM_ERRADDR_ADDR v = 64 * sec ∧
    Out.sector (64 * sec) (s.storedData sec e) (s.storedMeta sec e) true ∈ t.out := by
  have he' : (s.upset sec upset).errOf sec = e := (upset_errOf sec upset).trans he
  have hrun := secRead_run_bad (scrub := false) (he'.symm ▸ h)
  rw [he', upset_sectorUnder] at hrun
  obtain ⟨herr, hue, haddr⟩ := reportUncorrected_leaves (sec := sec) (s.vaultOf (64 * sec))
    (((s.upset sec upset).readCounted sec).layerOf (64 * sec)) (if false then 1 else 0) ((s.upset sec upset).readCounted sec)
  refine ⟨?_, ?_, ?_, mem_out_answered hrun⟩
  · rw [State.answered, hrun, errOf_emit]
    exact herr.trans (readCounted_errOf.trans he')
  · rw [State.answered, hrun, rdF_emit]
    exact hue
  · rw [State.answered, hrun, rdF_emit]
    exact haddr.trans (Nat.mod_eq_of_lt hlt)

end Answers

/-- A write of a sector, whole or in part (R202). -/
theorem sectorWrite_completes (h : addr.toNat < s.stackEnd) {off : Nat} {data : List Byte} (p : Bool) (hdata : data ≠ [])
    (hoff : off < 64) (herr : s.errOf (addr.toNat / 64) = [] ∨ off = 0 ∧ 64 ≤ data.length) :
    let sec := addr.toNat / 64
    Completes (.sectorWrite addr off data p) s fun t =>
      let lo := 64 * sec + off
      (∀ a, t.byte a = if lo ≤ a ∧ a < lo + min data.length (64 - off) then data.getD (a - lo) 0 else s.byte a) ∧
      t.metaOf sec = BitVec.ofNat 32 (if off = 0 ∧ 64 ≤ data.length then metaWord 0 p
        else metaWord (s.metaOf sec).toNat ((s.metaOf sec).getLsbD 31 || p)) ∧
      (s.armedFor sec = false → t.errOf sec = []) := by
  intro sec
  have hlen : (data.take (64 - off)).length = min data.length (64 - off) := by rw [List.length_take, Nat.min_comm]
  have hwhole : off = 0 ∧ (data.take (64 - off)).length = 64 ↔ off = 0 ∧ 64 ≤ data.length := by omega
  obtain ⟨hbyte, hmta, hclean⟩ := secWrite_stores (d := data.take (64 - off)) (by omega) (sector_within_stack h)
    (herr.imp_right hwhole.2) p
  refine .of_next (exec_sectorWrite h off data p) ?_
  rw [if_pos ⟨hoff, hdata⟩]
  refine ⟨fun a => ?_, ?_, hclean⟩
  · rw [hbyte, hlen]
    split
    · next hin => rw [List.getD_eq_getElem?_getD, List.getElem?_take_of_lt (by omega), ← List.getD_eq_getElem?_getD]
    · rfl
  · simp only [State.metaAfter, hwhole, decide_eq_true_eq] at hmta
    exact hmta

theorem sectorWrite_nothing (h : addr.toNat < s.stackEnd) {off : Nat} {data : List Byte} (p : Bool) (hnone : data = [] ∨ 64 ≤ off) :
    Completes (.sectorWrite addr off data p) s fun t => t = s := by
  refine .of_next (exec_sectorWrite h off data p) ?_
  rw [if_neg fun hw => hnone.elim hw.2 (Nat.not_le.2 hw.1)]
  rfl

end Sectors

/-! #### MEM_INJ (R219, R310) -/

section Injections
variable (v : Fin 16) (s : State)

theorem setBusy_injOk (val : Word) : injOk ((setBusy (.mem v) true).run s).2 v val = injOk s v val := by
  have hkeep : (setBusy (.mem v) true).Keeps fun s => s.rdF .MEM_STATUS Fld.MEM_STATUS_STATE 0 :=
    wrF_keeps_apart (f := Fld.MEM_STATUS_WBUSY) (by decide) (by decide) (by decide) _ _ _ _ _
  have hmap : ((setBusy (.mem v) true).run s).2.fullMap = s.fullMap := congrArg (· == 3) (hkeep s)
  have hend : ((setBusy (.mem v) true).run s).2.stackEnd = s.stackEnd := by rw [State.stackEnd, hmap, State.stackEnd]
  have hvault (a : Nat) : ((setBusy (.mem v) true).run s).2.vaultOf a = s.vaultOf a := by rw [State.vaultOf, hmap, State.vaultOf]
  simp only [injOk, hend, hvault]

theorem memInj_completes (val : BitVec 64) : Completes (.memInj v val) s fun t =>
    if s.wbusy (.mem v) = true then t.rdF .MEM_ERR Fld.MEM_ERR_WLOST v = 1 ∧ t.rd .MEM_INJ v = s.rd .MEM_INJ v
    else t.wbusy (.mem v) = true ∧
      if flagF Fld.MEM_INJ_ARM val = true ∧ injOk s v val = false then
        t.rd .MEM_INJ v = putF Fld.MEM_INJ_ARM val 0 &&& regMask .MEM_INJ ∧ t.rdF .MEM_ERR Fld.MEM_ERR_INJBAD v = 1
      else t.rd .MEM_INJ v = val &&& regMask .MEM_INJ := by
  refine .posted rfl (fun _ => ⟨dropWrite_lost (.mem v) s, (dropWrite_within _).rd _ (by simp [lostBit]) _ _ _⟩) fun _ => ?_
  rw [run_get, setBusy_injOk]
  by_cases hbad : flagF Fld.MEM_INJ_ARM val = true ∧ injOk s v val = false
  · rw [if_pos hbad, if_pos (by simpa using hbad)]
    have hkeep : ((wr .MEM_INJ (putF Fld.MEM_INJ_ARM val 0) v).seq (setF .MEM_ERR Fld.MEM_ERR_INJBAD v)).Within
      [.reg] [.MEM_INJ, .MEM_ERR] := by simp
    refine ⟨(hkeep.keeps_busy (b := .mem v) (by simp [busyBit])).wbusy_of_busy s, ?_, ?_⟩
    · rw [run_seq]
      exact (wrF_keeps_rd (by decide) _ _ _ _ _ _ _).trans (State.rd_setReg_same _ _ _ _ _ (by decide))
    · rw [run_seq]
      exact wrF_makes (by decide) 1 v 0 _
  · rw [if_neg hbad, if_neg (by simpa using hbad)]
    have hkeep : (wr .MEM_INJ val v).Within [.reg] [.MEM_INJ] := by simp
    exact ⟨(hkeep.keeps_busy (b := .mem v) (by simp [busyBit])).wbusy_of_busy s,
      State.rd_setReg_same _ _ _ _ _ (by decide)⟩

end Injections

/-! #### The scrubber (R204) -/

/-- A list of programs leaves the same state whether or not their results are kept. -/
theorem run_mapM_snd {α β : Type} (l : List α) (f : α → Prog β) (s : State) :
    ((Prog.mapM l f).run s).2 = ((Prog.each l fun a => (f a).bind fun _ => .skip).run s).2 := by
  induction l generalizing s with
  | nil => rfl
  | cons a l ih =>
    simp only [Prog.mapM, run_bind, run_ret, run_each_cons, run_skip]
    exact ih _

section Scrub
variable {sec : Nat}

/-- What a scrub pass says of a sector: its error pattern, and whether its metadata says that it is poisoned. -/
def State.scrubView (s : State) (sec : Nat) : List (Nat × Byte) × Bool := (s.errOf sec, (s.metaOf sec).getLsbD 31)

/-- A scrubbed sector: corrected where one symbol was wrong, poisoned where the code cannot correct it (R204). -/
def scrubbed (x : List (Nat × Byte) × Bool) : List (Nat × Byte) × Bool :=
  match rsDecode x.1 with
  | .intact => x
  | .one i y => (errAdd x.1 i y, x.2)
  | .bad => ([], true)

theorem scrubbed_of_intact {x : List (Nat × Byte) × Bool} (h : rsDecode x.1 = .intact) : scrubbed x = x := by rw [scrubbed, h]
theorem scrubbed_of_one {x : List (Nat × Byte) × Bool} {i : Nat} {y : Byte} (h : rsDecode x.1 = .one i y) :
    scrubbed x = (errAdd x.1 i y, x.2) := by rw [scrubbed, h]
theorem scrubbed_of_bad {x : List (Nat × Byte) × Bool} (h : rsDecode x.1 = .bad) : scrubbed x = ([], true) := by rw [scrubbed, h]

theorem getLsbD_metaWord_poisoned (tag : Nat) : (BitVec.ofNat 32 (metaWord tag true)).getLsbD 31 = true := by
  rw [BitVec.getLsbD_ofNat, metaWord, if_pos rfl, Nat.add_comm, Nat.testBit_two_pow_add_eq, Nat.testBit_lt_two_pow]
  · rfl
  · omega

/-- What the scrubber writes back over a sector that it could not correct. -/
def poisonSector (sec : Nat) (d : List Byte) (m : BitVec 32) : Prog Unit :=
  Prog.all [wrBytes (64 * sec) d, .one (.setMeta sec m), .one (.setErr sec [])]

theorem poisonSector_scrubs (d : List Byte) (m : BitVec 32) (s : State) :
    ((poisonSector sec d m).run s).2.scrubView sec = ([], m.getLsbD 31) := by
  simp only [poisonSector, run_all_cons, run_all_nil, run_one, State.scrubView, errOf_setErr, metaOf_setErr, metaOf_setMeta,
    if_true]

theorem secRead_keeps_metaOf (sec : Nat) (scrub : Bool) (x : Nat) : (secRead sec scrub).Keeps fun s => s.metaOf x :=
  (secRead_within sec scrub).keeps_metaOf (by decide) x

/-- One sector scrubbed. -/
theorem scrubSector_scrubs (s : State) : ((scrubSector sec).run s).2.scrubView sec = scrubbed (s.scrubView sec) := by
  have hmeta : ((secRead sec true).run s).2.metaOf sec = s.metaOf sec := secRead_keeps_metaOf sec true sec s
  cases h : rsDecode (s.errOf sec) with
  | intact =>
    have hrun := secRead_run_intact (scrub := true) h
    rw [scrubbed_of_intact h]
    simp only [scrubSector, run_get, run_bind, h, run_ret, State.scrubView, hmeta]
    rw [hrun, readCounted_errOf]
  | one i x =>
    have hrun := secRead_run_one (scrub := true) h
    rw [scrubbed_of_one h]
    simp only [scrubSector, run_get, run_bind, h, run_ret, State.scrubView, hmeta]
    rw [hrun, (correctSymbol_leaves _ _ _ _).1]
  | bad =>
    rw [scrubbed_of_bad h]
    simp only [scrubSector, run_get, run_bind, h, run_seq, run_ret]
    exact (poisonSector_scrubs _ _ _).trans (congrArg _ (getLsbD_metaWord_poisoned _))

theorem secRead_keeps_other {x : Nat} (hx : x ≠ sec) (scrub : Bool) : (secRead sec scrub).Keeps fun s => s.errOf x := fun s => by
  have hcount : (s.readCounted sec).errOf x = s.errOf x := (s.readCounted_within sec).keeps_errOf (by decide) x s
  cases h : rsDecode (s.errOf sec) with
  | intact =>
    rw [secRead_run_intact h]
    exact hcount
  | one i y =>
    rw [secRead_run_one h]
    simp only [correctSymbol, run_all_cons, run_all_nil, run_one, errOf_setErr, if_neg hx]
    have hregs (v : Nat) : ((bumpF .MEM_CECNT Fld.MEM_CECNT_COUNT 1 v).seq (wrF .MEM_ERRINFO Fld.MEM_ERRINFO_SYM i v)).Within
      [.reg] [.MEM_CECNT, .MEM_ERRINFO] := by simp
    exact ((hregs _).keeps_errOf (by decide) x _).trans hcount
  | bad =>
    rw [secRead_run_bad h]
    exact ((reportUncorrected_within _ _ _ _).keeps_errOf (by decide) x _).trans hcount

theorem poisonSector_keeps_other {x : Nat} (hx : x ≠ sec) (d : List Byte) (m : BitVec 32) :
    (poisonSector sec d m).Keeps fun s => s.scrubView x := fun s => by
  have hbytes := wrBytes_within_mem (64 * sec) d
  have herr : ((wrBytes (64 * sec) d).run s).2.errOf x = s.errOf x := hbytes.keeps_errOf (by decide) x s
  have hmeta : ((wrBytes (64 * sec) d).run s).2.metaOf x = s.metaOf x := hbytes.keeps_metaOf (by decide) x s
  simp only [poisonSector, run_all_cons, run_all_nil, run_one, State.scrubView, errOf_setErr, errOf_setMeta, metaOf_setErr, metaOf_setMeta,
    if_neg hx, hmeta, herr]

/-- A sector scrubbed leaves every other. -/
theorem scrubSector_keeps_other {x : Nat} (hx : x ≠ sec) : (scrubSector sec).Keeps fun s => s.scrubView x := by
  have hread : (secRead sec true).Keeps fun s => s.scrubView x := fun s =>
    congrArg₂ (fun e m => (e, BitVec.getLsbD m 31)) (secRead_keeps_other hx true s) (secRead_keeps_metaOf sec true x s)
  refine .get fun s => .bind hread fun r => ?_
  split
  · exact .seq (poisonSector_keeps_other hx _ _) (.ret _)
  · exact .ret _
  · exact .ret _

/-- A pass scrubs each sector of a list that repeats none once. -/
theorem scrubSectors_scrub {l : List Nat} (hl : l.Nodup) (hsec : sec ∈ l) (s : State) :
    ((Prog.mapM l scrubSector).run s).2.scrubView sec = scrubbed (s.scrubView sec) := by
  rw [run_mapM_snd]
  refine Makes.each_once hl hsec (g := fun s => s.scrubView sec) (fun s => ?_) (fun x hx => ?_) s
  · rw [run_bind, run_skip]
    exact scrubSector_scrubs s
  · exact .bind (scrubSector_keeps_other hx.symm) fun _ => .skip

theorem Prog.Within.keeps_scrubView {α : Type} {p : Prog α} {l : List Part} {n : List RegName} (h : p.Within l n)
    (herr : Part.err ∉ l) (hmeta : Part.mmeta ∉ l) (sec : Nat) : p.Keeps fun s => s.scrubView sec := fun s =>
  congrArg₂ (fun e m => (e, BitVec.getLsbD m 31)) (h.keeps_errOf herr sec s) (h.keeps_metaOf hmeta sec s)

theorem exec_scrubPass_off (v : Fin 16) (s : State) (h : s.rdF .MEM_SCRUB Fld.MEM_SCRUB_HOURS v = 0) :
    exec (.scrubPass v) s = .next s := by
  change (ite _ _ _ : Prog Unit).next s = _
  rw [if_pos h]
  rfl

/-- A scrub pass of a vault (R204). -/
theorem scrubPass_completes (v : Fin 16) (s : State) (hon : s.rdF .MEM_SCRUB Fld.MEM_SCRUB_HOURS v ≠ 0)
    (hwork : (scrubWork s v).Nodup) : Completes (.scrubPass v) s fun t =>
      ∀ sec ∈ scrubWork s v, t.scrubView sec = scrubbed (s.scrubView sec) := by
  refine ⟨_, (congrArg (Prog.next · s) (if_neg hon)), fun sec hsec => ?_⟩
  have hcounts (a b : Nat) : (Prog.all [count (setVault v) 0x53 a, count (setVault v) 0x50 b]).Within [.reg] [.CNT_VAL, .CNT_OVF] :=
    .all_cons (count_within_counters _ _ _ _) (.all_cons (count_within_counters _ _ _ _) .all_nil)
  have hend (c : Bool) : (Prog.when c (setF .MEM_ERR Fld.MEM_ERR_CEHIGH v)).Within [.reg] [.MEM_ERR] := by simp
  rw [run_seq, run_bind]
  exact ((hend _).keeps_scrubView (by decide) (by decide) sec _).trans ((scrubSectors_scrub hwork hsec _).trans
    (congrArg scrubbed ((hcounts _ _).keeps_scrubView (by decide) (by decide) sec s)))

end Scrub

/-! #### Temperatures (R200) -/

section Temperatures
variable (v : Fin 16) (s : State)

theorem hottest_lt {t : List Byte} (ht : t.length ≤ 8) : (hottest t).1 < 2 ^ 8 ∧ (hottest t).2 < 2 ^ 3 := by
  have hstep : ∀ (l : List (Byte × Nat)) (a : Nat × Nat), (∀ p ∈ l, p.2 < 8) → a.1 < 2 ^ 8 ∧ a.2 < 2 ^ 3 →
      let h := l.foldl (fun (a : Nat × Nat) p => if a.1 < p.1.toNat then (p.1.toNat, p.2) else a) a
      h.1 < 2 ^ 8 ∧ h.2 < 2 ^ 3 := by
    intro l
    induction l with
    | nil => exact fun a _ ha => ha
    | cons p l ih =>
      intro a hl ha
      refine ih _ (fun q hq => hl q (List.mem_cons_of_mem _ hq)) ?_
      dsimp only
      split
      · exact ⟨p.1.isLt, hl p List.mem_cons_self⟩
      · exact ha
  refine hstep _ _ (fun p hp => ?_) (by decide)
  exact (List.snd_lt_of_mem_zipIdx hp).trans_le (by simpa using ht)

/-- A vault moves between its refresh rates, and reports a layer that is hot (R200, R219). -/
def refreshRate (v h : Nat) : Prog Unit := Prog.all [
  Prog.when (decide (85 < h)) ((wrF .MEM_STATUS Fld.MEM_STATUS_HOTREF 1 v).seq (setF .MEM_ERR Fld.MEM_ERR_HOT v)),
  Prog.when (decide (h ≤ 82)) (wrF .MEM_STATUS Fld.MEM_STATUS_HOTREF 0 v),
  Prog.when (decide (95 ≤ h)) (setF .MEM_ERR Fld.MEM_ERR_OVERTEMP v)]

theorem refreshRate_within (v h : Nat) : (refreshRate v h).Within [.reg] [.MEM_STATUS, .MEM_ERR] := by
  simp (maxDischargeDepth := 30) [refreshRate]

theorem refreshRate_hotref (v h : Nat) : (refreshRate v h).Makes (fun s => s.rdF .MEM_STATUS Fld.MEM_STATUS_HOTREF v) fun x =>
    if 85 < h then 1 else if h ≤ 82 then 0 else x := fun s => by
  have hrate (x : Nat) := wrF_makes (r := .MEM_STATUS) (f := Fld.MEM_STATUS_HOTREF) (by decide) x v 0
  have herr (f : Field) : (setF .MEM_ERR f v).Keeps fun s => s.rdF .MEM_STATUS Fld.MEM_STATUS_HOTREF v :=
    wrF_keeps_other (by decide) _ _ _ _ _ _ _
  refine (Makes.all_cons (((hrate 1).seq (herr _).makes).when _) (.all_cons ((hrate 0).when _)
    (Keeps.all_cons (.when (herr _)) .all_nil).makes) s).trans ?_
  simp only [decide_eq_true_eq, id]
  split_ifs <;> omega

theorem refreshRate_hot {h : Nat} (hh : 85 < h) (v : Nat) (s : State) :
    ((refreshRate v h).run s).2.rdF .MEM_ERR Fld.MEM_ERR_HOT v = 1 := by
  have hset : ((wrF .MEM_STATUS Fld.MEM_STATUS_HOTREF 1 v).seq (setF .MEM_ERR Fld.MEM_ERR_HOT v)).Makes
      (fun s => s.rdF .MEM_ERR Fld.MEM_ERR_HOT v) fun _ => 1 :=
    (wrF_keeps_other (by decide) _ _ _ _ _ _ _).makes.seq (wrF_makes (by decide) 1 v 0)
  refine (Makes.all_cons (hset.when _) (Keeps.all_cons (.when (wrF_keeps_other (by decide) _ _ _ _ _ _ _))
    (.all_cons (.when (wrF_keeps_apart (by decide) (by decide) (by decide) _ _ _ _ _)) .all_nil)).makes s).trans ?_
  simp only [hh, decide_true, if_true, id]

theorem refreshRate_overtemp {h : Nat} (hh : 95 ≤ h) (v : Nat) (s : State) :
    ((refreshRate v h).run s).2.rdF .MEM_ERR Fld.MEM_ERR_OVERTEMP v = 1 := by
  simp only [refreshRate, run_all_cons, run_all_nil]
  rw [run_when, if_pos (decide_eq_true hh)]
  exact wrF_makes (by decide) 1 v 0 _

/-- The readings of a vault's layers (R200). -/
theorem refreshRateChange_completes (temps : List Byte) : let h := hottest (temps.take 8)
    Completes (.refreshRateChange v temps) s fun t =>
      t.rdF .MEM_TEMP Fld.MEM_TEMP_DEGC v = h.1 ∧ t.rdF .MEM_TEMP Fld.MEM_TEMP_LAYER v = h.2 ∧
      t.rdF .MEM_STATUS Fld.MEM_STATUS_HOTREF v =
        (if 85 < h.1 then 1 else if h.1 ≤ 82 then 0 else s.rdF .MEM_STATUS Fld.MEM_STATUS_HOTREF v) ∧
      (85 < h.1 → t.rdF .MEM_ERR Fld.MEM_ERR_HOT v = 1) ∧ (95 ≤ h.1 → t.rdF .MEM_ERR Fld.MEM_ERR_OVERTEMP v = 1) := by
  intro h
  obtain ⟨hdeg, hlayer⟩ := hottest_lt (t := temps.take 8) (List.length_take_le _ _)
  have hrest := refreshRate_within v h.1
  have hshow : ((wrF .MEM_TEMP Fld.MEM_TEMP_DEGC h.1 v).seq (wrF .MEM_TEMP Fld.MEM_TEMP_LAYER h.2 v)).Within [.reg] [.MEM_TEMP] := by
    simp
  refine .of_next (p := (wrF .MEM_TEMP Fld.MEM_TEMP_DEGC h.1 v).seq ((wrF .MEM_TEMP Fld.MEM_TEMP_LAYER h.2 v).seq (refreshRate v h.1)))
    rfl ?_
  rw [run_seq, run_seq]
  refine ⟨?_, ?_, ?_, fun hh => refreshRate_hot hh v _, fun hh => refreshRate_overtemp hh v _⟩
  · exact (hrest.keeps_rdF (by decide) _ _ _ _).trans ((wrF_keeps_apart (by decide) (by decide) (by decide) _ _ _ _ _ _).trans
      ((wrF_makes (by decide) _ _ _ s).trans (Nat.mod_eq_of_lt hdeg)))
  · exact (hrest.keeps_rdF (by decide) _ _ _ _).trans ((wrF_makes (by decide) _ _ _ _).trans (Nat.mod_eq_of_lt hlayer))
  · refine (refreshRate_hotref v h.1 _).trans ?_
    rw [wrF_keeps_other (by decide), wrF_keeps_other (by decide)]

end Temperatures

theorem dramOvertemp_completes (v : Fin 16) (s : State) : Completes (.dramOvertemp v) s fun t =>
    t.rdF .MEM_ERR Fld.MEM_ERR_OVERTEMP v = 1 ∧ t.tel = { s.tel with hold := true } := by
  refine .of_next (p := (setF .MEM_ERR Fld.MEM_ERR_OVERTEMP v).seq (modTel fun t => { t with hold := true })) rfl ?_
  have htel := (Within.setF (r := .MEM_ERR) (f := Fld.MEM_ERR_OVERTEMP) (i := v) (j := 0) (l := [.reg]) (n := [.MEM_ERR]) (by simp)
    (by simp)).same .tel (by decide) s
  rw [run_seq]
  exact ⟨wrF_makes (f := Fld.MEM_ERR_OVERTEMP) (by decide) 1 v 0 s, congrArg (fun t : Tel => { t with hold := true }) htel⟩

/-- Settles O27: a read goes by what the decoder finds, a write by the bytes laid over the sector, and a scrub pass by its
work on one sector, since its work on every other leaves that one alone. -/
theorem sectorsAndVaults : Obligations.SectorsAndVaults := by
  refine ⟨fun addr s => ⟨fun h upset off data p => sector_outside h upset off data p, fun h => ⟨fun upset => ?_,
    fun off data p hdata hoff herr => sectorWrite_completes h p hdata hoff herr,
    fun off data p hnone => sectorWrite_nothing h p hnone⟩⟩,
    fun v s => ⟨memInj_completes v s, fun hwork => ?_, refreshRateChange_completes v s, dramOvertemp_completes v s⟩⟩
  · refine ⟨_, exec_sectorRead h upset, answered_byte _ _, ?_⟩
    have hlt := addr.isLt
    split
    · next hres => exact answered_intact rfl hres
    · next i x hres => exact answered_one rfl hres
    · next hres => exact answered_bad rfl (by omega) hres
  · by_cases hoff : s.rdF .MEM_SCRUB Fld.MEM_SCRUB_HOURS v = 0
    · exact ⟨s, exec_scrubPass_off v s hoff, by simp only [if_pos hoff]⟩
    · refine (scrubPass_completes v s hoff hwork).imp fun t ht => ?_
      rw [if_neg hoff]
      intro sec hsec
      have hview := ht sec hsec
      split
      · next hres => exact congrArg Prod.fst (hview.trans (scrubbed_of_intact hres))
      · next i x hres => exact congrArg Prod.fst (hview.trans (scrubbed_of_one hres))
      · next hres => exact Prod.mk.inj (hview.trans (scrubbed_of_bad hres))

end Sys2Proof.Machine

/-! ### Decode tables and their banks (R210, R216, R218) -/

namespace Sys2Proof.Machine
open Prog

/-! #### A codec after an effect -/

section Effects
variable (s : State)

@[simp] theorem cdc_setCodec (a : Nat) (v : Codec) (e : Nat) :
    ((Eff.setCodec a v).apply s).cdc e = if e = a then v else s.cdc e := by
  unfold State.cdc; rw [Eff.setCodec_codec, Tab.at_upd]

@[simp] theorem cdc_setReg (k : RegKey) (v : Word) (e : Nat) : ((Eff.setReg k v).apply s).cdc e = s.cdc e := by
  unfold State.cdc; rw [Eff.setReg_codec]

@[simp] theorem rdF_setCodec (a : Nat) (v : Codec) (n : RegName) (f : Field) (i j : Nat) :
    ((Eff.setCodec a v).apply s).rdF n f i j = s.rdF n f i j := rfl

@[simp] theorem run_modCodec (e : Nat) (f : Codec → Codec) :
    (modCodec e f).run s = ((), (Eff.setCodec e (f (s.cdc e))).apply s) := rfl

end Effects

/-! #### What MEM_CDC_STATUS and the codec say of a table's load -/

/-- The fields of MEM_CDC_STATUS that a load moves, the other bank's contents, and the load asked for. -/
structure TableView where
  busy    : Nat
  cur     : Nat
  oth     : Nat
  othTid  : Nat
  swStep  : Nat
  other   : Option Bank
  src     : Nat
  stid    : Nat
  waiting : Bool

/-- The bank that is not current (R216). -/
def State.otherBank (s : State) (e : Nat) : Option Bank :=
  if s.rdF .MEM_CDC_STATUS Fld.MEM_CDC_STATUS_CURBANK e = 0 then (s.cdc e).bank1 else (s.cdc e).bank0

def State.tableView (e : Nat) (s : State) : TableView where
  busy    := s.rdF .MEM_CDC_STATUS Fld.MEM_CDC_STATUS_WBUSY e
  cur     := s.rdF .MEM_CDC_STATUS Fld.MEM_CDC_STATUS_CURBANK e
  oth     := s.rdF .MEM_CDC_STATUS Fld.MEM_CDC_STATUS_OTHSTATE e
  othTid  := s.rdF .MEM_CDC_STATUS Fld.MEM_CDC_STATUS_OTHTID e
  swStep  := s.rdF .MEM_CDC_STATUS Fld.MEM_CDC_STATUS_SWSTEP e
  other   := s.otherBank e
  src     := (s.cdc e).src
  stid    := (s.cdc e).stid
  waiting := (s.cdc e).waiting

/-- A load started: the other bank is empty and loading, unless it still retires (R216). -/
def TableView.started (v : TableView) : TableView :=
  if v.oth = 3 then { v with waiting := true }
  else { v with other := none, oth := 1, othTid := v.stid % 2 ^ 4, waiting := false }

theorem TableView.started_busy (v : TableView) : v.started.busy = v.busy := by
  unfold started
  split <;> rfl

theorem wbusy_of_tableView {e : Fin 40} {s : State} (h : (s.tableView e).busy = 1) : s.wbusy (.cdc e) = true := beq_iff_eq.2 h

section Views
variable (e : Nat)

theorem wrF_othState_makes (x : Nat) : (wrF .MEM_CDC_STATUS cdcOth x e).Makes (State.tableView e) fun v =>
    { v with oth := x % 2 ^ 3 } := fun s => by
  simp (disch := decide) only [run_wrF, State.tableView, State.otherBank, cdc_setReg, State.rdF_setReg_field, State.rdF_setReg_apart]

theorem wrF_othTid_makes (x : Nat) : (wrF .MEM_CDC_STATUS Fld.MEM_CDC_STATUS_OTHTID x e).Makes (State.tableView e) fun v =>
    { v with othTid := x % 2 ^ 4 } := fun s => by
  simp (disch := decide) only [run_wrF, State.tableView, State.otherBank, cdc_setReg, State.rdF_setReg_field, State.rdF_setReg_apart]

theorem wrF_swStep_makes (x : Nat) : (wrF .MEM_CDC_STATUS Fld.MEM_CDC_STATUS_SWSTEP x e).Makes (State.tableView e) fun v =>
    { v with swStep := x % 2 ^ 48 } := fun s => by
  simp (disch := decide) only [run_wrF, State.tableView, State.otherBank, cdc_setReg, State.rdF_setReg_field, State.rdF_setReg_apart]

theorem setBusy_tableView (e : Fin 40) : (setBusy (.cdc e) true).Makes (State.tableView e) fun v => { v with busy := 1 } := fun s => by
  simp (disch := decide) only [setBusy, busyBit, if_true, run_wrF, State.tableView, State.otherBank, cdc_setReg,
    State.rdF_setReg_field, State.rdF_setReg_apart]
  rfl

theorem othState_makes (st tid : Nat) : (othState e st tid).Makes (State.tableView e) fun v =>
    { v with oth := st % 2 ^ 3, othTid := tid % 2 ^ 4 } := (wrF_othState_makes e st).seq (wrF_othTid_makes e tid)

theorem putOther_makes (b : Option Bank) : (putOther e b).Makes (State.tableView e) fun v => { v with other := b } := fun s => by
  rw [putOther, run_get]
  split
  · next h => simp only [run_modCodec, State.tableView, State.otherBank, cdc_setCodec, rdF_setCodec, h, if_true]
  · next h => simp only [run_modCodec, State.tableView, State.otherBank, cdc_setCodec, rdF_setCodec, h, if_true, if_false]

/-- A change of what a codec notes of its load leaves the banks and MEM_CDC_STATUS. -/
theorem modCodec_makes {f : Codec → Codec} (h0 : ∀ k, (f k).bank0 = k.bank0) (h1 : ∀ k, (f k).bank1 = k.bank1) (s : State) :
    ((modCodec e f).run s).2.tableView e = { s.tableView e with
      src := (f (s.cdc e)).src, stid := (f (s.cdc e)).stid, waiting := (f (s.cdc e)).waiting } := by
  simp only [run_modCodec, State.tableView, State.otherBank, cdc_setCodec, rdF_setCodec, if_true, h0, h1]

theorem setWaiting_makes (w : Bool) : (modCodec e fun k => { k with waiting := w }).Makes (State.tableView e) fun v =>
    { v with waiting := w } := modCodec_makes e (f := fun k => { k with waiting := w }) (fun _ => rfl) fun _ => rfl

theorem Prog.Within.keeps_tableView {α : Type} {p : Prog α} {n : List RegName} (h : p.Within [.reg] n)
    (hn : RegName.MEM_CDC_STATUS ∉ n) : p.Keeps (State.tableView e) := fun s => by
  have hcdc : (p.run s).2.cdc e = s.cdc e := h.same .codec (by decide) s e
  have hrd (f : Field) : (p.run s).2.rdF .MEM_CDC_STATUS f e = s.rdF .MEM_CDC_STATUS f e := h.keeps_rdF hn f e 0 s
  simp only [State.tableView, State.otherBank, hcdc, hrd]

theorem lateCheck_keeps : (lateCheck e).Keeps (State.tableView e) := .get fun s => by
  split
  · exact .skip
  · refine .ite (.seq ((Within.setF (n := [.MEM_CDC_ERR]) (by simp) (by simp)).keeps_tableView e (by decide)) ?_) .skip
    exact modCodec_makes e (fun _ => rfl) fun _ => rfl

theorem startLoad_makes : (startLoad e).Makes (State.tableView e) TableView.started := fun s => by
  rw [startLoad, run_get, TableView.started]
  have hoth : (s.tableView e).oth = s.rdF .MEM_CDC_STATUS cdcOth e := rfl
  rw [hoth]
  split
  · exact setWaiting_makes e true s
  · exact Makes.all_cons (putOther_makes e none) (.all_cons (othState_makes e 1 _) (.all_cons (setWaiting_makes e false) .all_nil)) s

end Views

/-- The contents of the bank that is not current, where the current bank is still the same. -/
theorem otherBank_of_cur {e : Nat} {s t : State} (h : (t.tableView e).cur = (s.tableView e).cur) : t.otherBank e =
    if s.rdF .MEM_CDC_STATUS Fld.MEM_CDC_STATUS_CURBANK e = 0 then (t.cdc e).bank1 else (t.cdc e).bank0 := by
  have hcur : t.rdF .MEM_CDC_STATUS Fld.MEM_CDC_STATUS_CURBANK e = s.rdF .MEM_CDC_STATUS Fld.MEM_CDC_STATUS_CURBANK e := h
  rw [State.otherBank, hcur]

/-! #### DTSTEP_LOAD (R216, R310) -/

section Orders
variable (e : Fin 40) (val : BitVec 64) (s : State)

/-- The table that MEM_CDC_DTADDR asks for. -/
abbrev State.askedTid (s : State) (e : Nat) : Nat := s.rdF .MEM_CDC_DTADDR Fld.MEM_CDC_DTADDR_TID e

/-- What a codec shows once a table has been asked for, before its load starts. -/
def State.ordered (s : State) (e : Nat) (val : Word) : TableView :=
  { s.tableView e with
    busy := 1, swStep := getF Fld.MEM_CDC_DTSTEP_STEP val % 2 ^ Fld.MEM_CDC_STATUS_SWSTEP.w,
    src := s.rdF .MEM_CDC_DTADDR Fld.MEM_CDC_DTADDR_ADDR e / 64 * 64, stid := s.askedTid e }

/-- A table is asked for, at an address and for a step. -/
def orderTable (e tid src step : Nat) : Prog Unit := Prog.all [wrF .MEM_CDC_STATUS Fld.MEM_CDC_STATUS_SWSTEP step e,
  modCodec e fun k => { k with src := src, stid := tid, late := false }, startLoad e, lateCheck e]

theorem orderTable_makes (e tid src step : Nat) : (orderTable e tid src step).Makes (State.tableView e) fun v =>
    ({ v with swStep := step % 2 ^ 48, src := src, stid := tid } : TableView).started :=
  have hload : (modCodec e fun k => { k with src := src, stid := tid, late := false }).Makes (State.tableView e) fun v =>
      { v with src := src, stid := tid } :=
    modCodec_makes e (f := fun k => { k with src := src, stid := tid, late := false }) (fun _ => rfl) fun _ => rfl
  fun s => Makes.all_cons (wrF_swStep_makes e step) (.all_cons hload (.all_cons (startLoad_makes e)
    (.all_cons (lateCheck_keeps e).makes .all_nil))) s

theorem setBusy_curTid : ((setBusy (.cdc e) true).run s).2.curTid e = s.curTid e := by
  have hkeep (g : Field) (hg : fieldFits g .MEM_CDC_STATUS = true) (hd : fieldsApart Fld.MEM_CDC_STATUS_WBUSY g = true) :
      (setBusy (.cdc e) true).Keeps fun s => s.rdF .MEM_CDC_STATUS g e := wrF_keeps_apart (by decide) hg hd _ _ _ _ _
  have hvalid := hkeep Fld.MEM_CDC_STATUS_CURVALID (by decide) (by decide) s
  have htid := hkeep Fld.MEM_CDC_STATUS_CURTID (by decide) (by decide) s
  dsimp only at hvalid htid
  rw [State.curTid, hvalid, htid, State.curTid]

/-- A posted write of DTSTEP sets DTBAD for the fixed table and for the table in force, and asks for any other. -/
theorem dtstepLoad_completes : Completes (.dtstepLoad e val) s fun t =>
    if s.wbusy (.cdc e) = true then t.rdF .MEM_CDC_ERR Fld.MEM_CDC_ERR_WLOST e = 1 ∧ t.cdc e = s.cdc e
    else t.wbusy (.cdc e) = true ∧
      if s.askedTid e = 15 ∨ s.curTid e = some (s.askedTid e) then
        t.rdF .MEM_CDC_ERR Fld.MEM_CDC_ERR_DTBAD e = 1 ∧ t.cdc e = s.cdc e
      else t.tableView e = (s.ordered e val).started := by
  refine .posted rfl (fun _ => ⟨dropWrite_lost (.cdc e) s, (dropWrite_within _).same .codec (by decide) s e⟩) fun _ => ?_
  have hstep : (wr .MEM_CDC_DTSTEP val e).Within [.reg] [.MEM_CDC_DTSTEP] := by simp
  have hset : (setBusy (.cdc e) true).Within [.reg] [.MEM_CDC_STATUS] := by simp [setBusy, busyBit]
  have hask (f : Field) : ((setBusy (.cdc e) true).run s).2.rdF .MEM_CDC_DTADDR f e = s.rdF .MEM_CDC_DTADDR f e :=
    hset.keeps_rdF (by decide) f e 0 s
  have hview : ((wr .MEM_CDC_DTSTEP val e).run ((setBusy (.cdc e) true).run s).2).2.tableView e =
      { s.tableView e with busy := 1 } := (hstep.keeps_tableView e (by decide) _).trans (setBusy_tableView e s)
  rw [run_get, hask, hask, setBusy_curTid, run_seq]
  by_cases hbad : s.askedTid e = 15 ∨ s.curTid e = some (s.askedTid e)
  · have herr : (setF .MEM_CDC_ERR Fld.MEM_CDC_ERR_DTBAD e).Within [.reg] [.MEM_CDC_ERR] := by simp
    rw [if_pos hbad, if_pos (by simpa using hbad)]
    refine ⟨wbusy_of_tableView ?_, wrF_makes (by decide) 1 e 0 _, ?_⟩
    · rw [herr.keeps_tableView e (by decide), hview]
    · exact (herr.same .codec (by decide) _ e).trans ((hstep.same .codec (by decide) _ e).trans (hset.same .codec (by decide) s e))
  · rw [if_neg hbad, if_neg (by simpa using hbad)]
    have horder := orderTable_makes e (s.askedTid e) (s.rdF .MEM_CDC_DTADDR Fld.MEM_CDC_DTADDR_ADDR e / 64 * 64)
      (getF Fld.MEM_CDC_DTSTEP_STEP val) ((wr .MEM_CDC_DTSTEP val e).run ((setBusy (.cdc e) true).run s).2).2
    rw [hview] at horder
    exact ⟨wbusy_of_tableView ((congrArg TableView.busy horder).trans (TableView.started_busy _)), horder⟩

end Orders

/-! #### TABLE_LOAD_DONE and BANK_RETIRE (R210, R216) -/

section Loads
variable (e : Fin 40) (val : BitVec 64) (s : State)

/-- A table rejected: DTBAD, and the other bank empty. -/
def rejectTable (e : Nat) : Prog Unit := Prog.all [setF .MEM_CDC_ERR Fld.MEM_CDC_ERR_DTBAD e, othState e 0 0]

/-- A table taken into the other bank. -/
def takeTable (e : Nat) (b : Bank) : Prog Unit := Prog.all [putOther e (some b), wrF .MEM_CDC_STATUS cdcOth 2 e, lateCheck e]

theorem rejectTable_leaves (e : Nat) (s : State) : let t := ((rejectTable e).run s).2
    t.rdF .MEM_CDC_ERR Fld.MEM_CDC_ERR_DTBAD e = 1 ∧ t.rdF .MEM_CDC_STATUS Fld.MEM_CDC_STATUS_OTHSTATE e = 0 := by
  have hoth : (othState e 0 0).Within [.reg] [.MEM_CDC_STATUS] := by simp [othState]
  simp only [rejectTable, run_all_cons, run_all_nil]
  exact ⟨(hoth.keeps_rdF (by decide) _ _ _ _).trans (wrF_makes (by decide) 1 e 0 s), congrArg TableView.oth (othState_makes e 0 0 _)⟩

theorem takeTable_makes (e : Nat) (b : Bank) : (takeTable e b).Makes (State.tableView e) fun v =>
    { v with other := some b, oth := 2 } :=
  fun s => Makes.all_cons (putOther_makes e (some b)) (.all_cons (wrF_othState_makes e 2)
    (.all_cons (lateCheck_keeps e).makes .all_nil)) s

/-- What a codec reads of the table that it loads (R210). -/
def tableRead (s : State) (e : Nat) : Except Flt (List Byte) × State :=
  (vget { cdcUnit s e with codec := none } (s.cdc e).src 128).run s

/-- Whether the other bank is loading (R216). -/
abbrev State.loading (s : State) (e : Nat) : Prop := s.rdF .MEM_CDC_STATUS Fld.MEM_CDC_STATUS_OTHSTATE e = 1

theorem tableLoadDone_idle (h : ¬ s.loading e) : exec (.tableLoadDone e) s = .next s :=
  congrArg (Prog.next · s) (if_pos h)

/-- What becomes of a table that has been read: one that is not valid, or could not be read, is rejected (R210). -/
def judgeTable (e tid : Nat) (u : Unit') : Except Flt (List Byte) → Prog Unit
  | .error f => (logFault u f).seq (rejectTable e)
  | .ok d => if !tabValid (BitVec.ofNat 1024 (leNat d)) then rejectTable e else takeTable e ⟨tid, BitVec.ofNat 1024 (leNat d)⟩

theorem exec_tableLoadDone (h : s.loading e) : exec (.tableLoadDone e) s = .next
    ((judgeTable e (s.rdF .MEM_CDC_STATUS Fld.MEM_CDC_STATUS_OTHTID e) (cdcUnit s e) (tableRead s e).1).run (tableRead s e).2).2 := by
  refine (congrArg (Prog.next · s) (if_neg (not_not.2 h))).trans ?_
  rw [next_eq, run_bind]
  rfl

/-- A bank that has retired is empty, and a load that waited for it starts. -/
def TableView.retired (v : TableView) : TableView :=
  if v.waiting then ({ v with other := none, oth := 0, othTid := 0 } : TableView).started
  else { v with other := none, oth := 0, othTid := 0 }

/-- Whether the other bank retires (R216). -/
abbrev State.retiring (s : State) (e : Nat) : Prop := s.rdF .MEM_CDC_STATUS Fld.MEM_CDC_STATUS_OTHSTATE e = 3

/-- A table that is asked for is loading into the other bank, or waits until that bank is empty (R216). -/
theorem shown_of_ordered {t : State} (h : t.tableView e = (s.ordered e val).started) :
    (t.cdc e).stid = s.askedTid e ∧ (t.cdc e).src = s.rdF .MEM_CDC_DTADDR Fld.MEM_CDC_DTADDR_ADDR e / 64 * 64 ∧
    t.rdF .MEM_CDC_STATUS Fld.MEM_CDC_STATUS_SWSTEP e = getF Fld.MEM_CDC_DTSTEP_STEP val % 2 ^ Fld.MEM_CDC_STATUS_SWSTEP.w ∧
    if s.retiring e then (t.cdc e).waiting = true ∧ t.rdF .MEM_CDC_STATUS Fld.MEM_CDC_STATUS_OTHSTATE e = 3
    else (t.cdc e).waiting = false ∧ t.rdF .MEM_CDC_STATUS Fld.MEM_CDC_STATUS_OTHSTATE e = 1 ∧
      t.rdF .MEM_CDC_STATUS Fld.MEM_CDC_STATUS_OTHTID e = s.askedTid e ∧
      (if s.rdF .MEM_CDC_STATUS Fld.MEM_CDC_STATUS_CURBANK e = 0 then (t.cdc e).bank1 else (t.cdc e).bank0) = none := by
  by_cases hret : s.retiring e
  · rw [TableView.started, if_pos (show (s.ordered e val).oth = 3 from hret)] at h
    rw [if_pos hret]
    exact ⟨congrArg TableView.stid h, congrArg TableView.src h, congrArg TableView.swStep h, congrArg TableView.waiting h,
      (congrArg TableView.oth h).trans hret⟩
  · rw [TableView.started, if_neg (show (s.ordered e val).oth ≠ 3 from hret)] at h
    rw [if_neg hret]
    have htid : s.askedTid e % 2 ^ 4 = s.askedTid e := Nat.mod_mod _ _
    have hcur : (t.tableView e).cur = (s.tableView e).cur := (congrArg TableView.cur h :)
    exact ⟨congrArg TableView.stid h, congrArg TableView.src h, congrArg TableView.swStep h, congrArg TableView.waiting h,
      congrArg TableView.oth h, (congrArg TableView.othTid h).trans htid,
      (otherBank_of_cur hcur).symm.trans (congrArg TableView.other h)⟩

/-- A table that is valid stands in the other bank, with the TID shown there. -/
theorem judgeTable_valid {e tid : Nat} {u : Unit'} {d : List Byte} (h : tabValid (BitVec.ofNat 1024 (leNat d)) = true) :
    (judgeTable e tid u (.ok d)).Makes (State.tableView e) fun v =>
      { v with other := some ⟨tid, BitVec.ofNat 1024 (leNat d)⟩, oth := 2 } := by
  rw [judgeTable, if_neg (by simp [h])]
  exact takeTable_makes _ _

theorem judgeTable_invalid {e tid : Nat} {u : Unit'} {d : List Byte} (h : ¬ tabValid (BitVec.ofNat 1024 (leNat d)) = true) :
    judgeTable e tid u (.ok d) = rejectTable e := by
  rw [judgeTable, if_pos (by simpa using h)]

theorem tableRead_cur : ((tableRead s e).2.tableView e).cur = (s.tableView e).cur := (vget_within _ _ _ _).keeps_rdF (by decide) _ _ _ s

/-- What a retired bank shows, with a load that waited for it. -/
theorem shown_of_retired {t : State} (h : t.tableView e = (s.tableView e).retired) :
    (if s.rdF .MEM_CDC_STATUS Fld.MEM_CDC_STATUS_CURBANK e = 0 then (t.cdc e).bank1 else (t.cdc e).bank0) = none ∧
    if (s.cdc e).waiting = true then t.rdF .MEM_CDC_STATUS Fld.MEM_CDC_STATUS_OTHSTATE e = 1 ∧
      t.rdF .MEM_CDC_STATUS Fld.MEM_CDC_STATUS_OTHTID e = (s.cdc e).stid % 16 ∧ (t.cdc e).waiting = false
    else t.rdF .MEM_CDC_STATUS Fld.MEM_CDC_STATUS_OTHSTATE e = 0 := by
  by_cases hwait : (s.cdc e).waiting = true
  · rw [TableView.retired, if_pos (show (s.tableView e).waiting = true from hwait), TableView.started, if_neg (show (0 : Nat) ≠ 3 by decide)] at h
    rw [if_pos hwait]
    have hcur : (t.tableView e).cur = (s.tableView e).cur := (congrArg TableView.cur h :)
    exact ⟨(otherBank_of_cur hcur).symm.trans (congrArg TableView.other h), congrArg TableView.oth h,
      congrArg TableView.othTid h, congrArg TableView.waiting h⟩
  · rw [TableView.retired, if_neg (show ¬ (s.tableView e).waiting = true from hwait)] at h
    rw [if_neg hwait]
    have hcur : (t.tableView e).cur = (s.tableView e).cur := (congrArg TableView.cur h :)
    exact ⟨(otherBank_of_cur hcur).symm.trans (congrArg TableView.other h), congrArg TableView.oth h⟩

theorem bankRetire_completes : Completes (.bankRetire e) s fun t =>
    if s.retiring e then t.tableView e = (s.tableView e).retired else t = s := by
  by_cases h : s.retiring e
  · refine ⟨_, congrArg (Prog.next · s) (if_neg (not_not.2 h)), ?_⟩
    simp only [if_pos h]
    exact Makes.all_cons (putOther_makes e none) (.all_cons (othState_makes e 0 0)
      (.all_cons ((startLoad_makes e).when (s.cdc e).waiting) .all_nil)) s
  · exact ⟨s, congrArg (Prog.next · s) (if_pos h), by simp only [if_neg h]⟩

end Loads

end Sys2Proof.Machine

/-! ### Invalidations and the fault log's read mark (R226, R238, R245, R310) -/

namespace Sys2Proof.Machine
open Prog

@[simp] theorem cache_setXlt (a : Nat) (v : List XEnt) (s : State) (x : Nat) :
    ((Eff.setXlt a v).apply s).cache x = if x = a then v else s.cache x := by
  unfold State.cache; rw [Eff.setXlt_xlt, Tab.at_upd]

@[simp] theorem cache_setReg (k : RegKey) (v : Word) (s : State) (x : Nat) : ((Eff.setReg k v).apply s).cache x = s.cache x := by
  unfold State.cache; rw [Eff.setReg_xlt]

section Dropping
variable (i : Inval) (x : Nat)

/-- The entries that an invalidation leaves in a cache (R226). -/
def Inval.leaves (l : List XEnt) : List XEnt := l.filter fun e => !i.covers e

theorem dropCovered_makes : (dropCovered i x).Makes (fun s => s.cache x) i.leaves := fun s => by
  simp only [dropCovered, showCached, run_get, run_seq, run_one, run_wrF, cache_setReg, cache_setXlt, if_true, Inval.leaves]

theorem dropCovered_keeps_other {y : Nat} (h : y ≠ x) : (dropCovered i x).Keeps fun s => s.cache y := fun s => by
  simp only [dropCovered, showCached, run_get, run_seq, run_one, run_wrF, cache_setReg, cache_setXlt, if_neg h]

theorem dropCovered_within : (dropCovered i x).Within [.reg, .xlt] [.XLT_STATUS] := by
  simp (maxDischargeDepth := 30) [dropCovered, showCached]

/-- The count of cached entries shown follows what is left. -/
theorem dropCovered_shown (s : State) : ((dropCovered i x).run s).2.rdF .XLT_STATUS Fld.XLT_STATUS_CACHED x =
    min (i.leaves (s.cache x)).length 4095 := by
  simp only [dropCovered, showCached, run_get, run_seq, run_one]
  refine (wrF_makes (by decide) _ _ _ _).trans (Nat.mod_eq_of_lt ?_)
  exact (Nat.min_le_right _ _).trans_lt (by decide)

/-- The count of cached entries stands beside WBUSY in XLT_STATUS (R245). -/
theorem dropCovered_keeps_busy (y : Fin 35) : (dropCovered i x).Keeps fun s => s.wbusy (.xlt y) := .get fun _ =>
  .seq (.one fun _ => rfl) ((wrF_keeps_apart (r := .XLT_STATUS) (f := Fld.XLT_STATUS_CACHED) (f' := Fld.XLT_STATUS_WBUSY)
    (by decide) (by decide) (by decide) _ _ _ _ _).comp (· == 1))

end Dropping

section Commands
variable (val : BitVec 64) (s : State)

theorem xltInv_completes (x : Fin 35) : Completes (.xltInv x val) s fun t =>
    if s.wbusy (.xlt x) = true then t.rdF .XLT_ERR Fld.XLT_ERR_WLOST x = 1 ∧ t.cache x = s.cache x
    else t.wbusy (.xlt x) = true ∧ t.cache x = (invalOf val).leaves (s.cache x) ∧
      t.rdF .XLT_STATUS Fld.XLT_STATUS_CACHED x = min ((invalOf val).leaves (s.cache x)).length 4095 := by
  have hwr : (wr .XLT_INV val x).Within [.reg] [.XLT_INV] := by simp
  have hset : (setBusy (.xlt x) true).Within [.reg] [.XLT_STATUS] := by simp [setBusy, busyBit]
  refine .posted rfl (fun _ => ⟨dropWrite_lost (.xlt x) s, (dropWrite_within _).same .xlt (by decide) s x⟩) fun _ => ?_
  have hcache : ((wr .XLT_INV val x).run ((setBusy (.xlt x) true).run s).2).2.cache x = s.cache x :=
    (hwr.same .xlt (by decide) _ x).trans (hset.same .xlt (by decide) s x)
  refine ⟨Keeps.wbusy_of_busy (.seq (hwr.keeps_busy (by simp [busyBit])) (dropCovered_keeps_busy _ x x)) s, ?_, ?_⟩
  · rw [run_seq]
    exact (dropCovered_makes _ _ _).trans (congrArg _ hcache)
  · rw [run_seq, dropCovered_shown, hcache]

/-- What every accepted write of the registers common to the units does first: WLOST of an earlier one is cleared (R245). -/
theorem postedGlobal_completes {i : Instr} {accept : Prog Unit} {l : List Part} {n : List RegName} {taken : State → Prop}
    (hexec : exec i s = (postedGlobal accept).next s) (haccept : accept.Within l n) (hn : RegName.XLT_GSTATUS ∉ n)
    {lost : State → Prop} (hlost : s.wbusy .xltAll = true → lost ((dropWrite .xltAll).run s).2)
    (htaken : ∀ m, (∀ x, m.cache x = s.cache x) → taken (accept.run m).2) : Completes i s fun t =>
      if s.wbusy .xltAll = true then lost t
      else t.wbusy .xltAll = true ∧ t.rdF .XLT_GSTATUS Fld.XLT_GSTATUS_WLOST = 0 ∧ taken t := by
  have hset : (setBusy .xltAll true).Within [.reg] [.XLT_GSTATUS] := by simp [setBusy, busyBit]
  have hclear : (wrF .XLT_GSTATUS Fld.XLT_GSTATUS_WLOST 0).Within [.reg] [.XLT_GSTATUS] := by simp
  have hkeep : (wrF .XLT_GSTATUS Fld.XLT_GSTATUS_WLOST 0).Keeps fun s => s.wbusy .xltAll :=
    (wrF_keeps_apart (f' := Fld.XLT_GSTATUS_WBUSY) (by decide) (by decide) (by decide) _ _ _ _ _).comp (· == 1)
  refine .posted hexec hlost fun _ => ⟨(hkeep.seq (haccept.keeps_busy hn)).wbusy_of_busy s, ?_, ?_⟩
  · rw [run_seq]
    exact (haccept.keeps_rdF hn _ _ _ _).trans (wrF_makes (by decide) 0 0 0 _)
  · rw [run_seq]
    exact htaken _ fun x => (hclear.same .xlt (by decide) _ x).trans (hset.same .xlt (by decide) s x)

/-- The invalidation that a posted write of XLT_INVALL starts at the units (R226). -/
def invalidateAll (val : Word) : Prog Unit := Prog.all [wr .XLT_INVALL val, .one (.setInvAll true),
  Prog.each (List.range 35) (dropCovered (invalOf val))]

theorem invalidateAll_within (val : Word) : (invalidateAll val).Within [.reg, .xlt, .invAll] [.XLT_INVALL, .XLT_STATUS] := by
  have hdrop (i : Inval) (x : Nat) := (dropCovered_within i x).mono (l' := [.reg, .xlt, .invAll]) (n' := [.XLT_INVALL, .XLT_STATUS])
    (by simp) (by simp)
  simp (maxDischargeDepth := 30) [invalidateAll, hdrop]

theorem invalidateAll_leaves (m : State) : let t := ((invalidateAll val).run m).2
    t.invAll = true ∧ ∀ x < 35, t.cache x = (invalOf val).leaves (m.cache x) := by
  have hdrop (i : Inval) (l : List Nat) : (Prog.each l (dropCovered i)).Within [.reg, .xlt] [.XLT_STATUS] :=
    .each fun x => dropCovered_within i x
  have hwr : (wr .XLT_INVALL val).Within [.reg] [.XLT_INVALL] := by simp
  simp only [invalidateAll, run_all_cons, run_all_nil, run_one]
  refine ⟨(hdrop _ _).same .invAll (by decide) _, fun x hx => ?_⟩
  refine (Makes.each_once List.nodup_range (List.mem_range.2 hx) (g := fun s => s.cache x) (dropCovered_makes _ x)
    (fun y hy => dropCovered_keeps_other _ y hy.symm) _).trans (congrArg _ ?_)
  exact hwr.same .xlt (by decide) m x

theorem xltInvall_completes : Completes (.xltInvall val) s fun t =>
    if s.wbusy .xltAll = true then
      t.rdF .XLT_GSTATUS Fld.XLT_GSTATUS_WLOST = 1 ∧ t.invAll = s.invAll ∧ ∀ x, t.cache x = s.cache x
    else t.wbusy .xltAll = true ∧ t.rdF .XLT_GSTATUS Fld.XLT_GSTATUS_WLOST = 0 ∧
      t.invAll = true ∧ ∀ x < 35, t.cache x = (invalOf val).leaves (s.cache x) := by
  refine postedGlobal_completes s (accept := invalidateAll val) rfl (invalidateAll_within val) (by decide)
    (fun _ => ⟨dropWrite_lost .xltAll s, (dropWrite_within _).same .invAll (by decide) s,
      (dropWrite_within _).same .xlt (by decide) s⟩) fun m hm => ?_
  obtain ⟨hall, hcache⟩ := invalidateAll_leaves val m
  exact ⟨hall, fun x hx => (hcache x hx).trans (congrArg _ (hm x))⟩

theorem flogRead_completes : Completes (.flogRead val) s fun t =>
    if s.wbusy .xltAll = true then
      t.rdF .XLT_GSTATUS Fld.XLT_GSTATUS_WLOST = 1 ∧ t.rd .XLT_FLOG_READ = s.rd .XLT_FLOG_READ
    else t.wbusy .xltAll = true ∧ t.rdF .XLT_GSTATUS Fld.XLT_GSTATUS_WLOST = 0 ∧ t.rd .XLT_FLOG_READ = val &&& regMask .XLT_FLOG_READ := by
  have hwr : (wr .XLT_FLOG_READ val).Within [.reg] [.XLT_FLOG_READ] := by simp
  exact postedGlobal_completes s rfl hwr (by decide)
    (fun _ => ⟨dropWrite_lost .xltAll s, (dropWrite_within _).rd _ (by decide) _ _ s⟩)
    fun m _ => State.rd_setReg_same m _ _ _ _ (by decide)

theorem invalidationDone_unit (i : Fin 35) : Completes (.invalidationDone (some i)) s fun t => t.wbusy (.xlt i) = false :=
  ⟨_, rfl, setBusy_wbusy (.xlt i) false s⟩

theorem invalidationDone_everywhere : Completes (.invalidationDone none) s fun t =>
    if s.invAll = true then t.wbusy .xltAll = false ∧ t.invAll = false else t = s := by
  refine .of_next (p := Prog.when s.invAll ((setBusy .xltAll false).seq (.one (.setInvAll false)))) rfl ?_
  rw [run_when]
  split
  · exact ⟨setBusy_wbusy .xltAll false s, rfl⟩
  · rfl

end Commands

/-- Settles O28: a table's load by what the codec shows of it after each of its programs, and an invalidation by what it leaves
of one unit's cache, which no other unit's changes. -/
theorem tablesAndTranslations : Obligations.TablesAndTranslations := by
  refine ⟨fun e s => ⟨fun val => ?_, fun h => ⟨s, tableLoadDone_idle e s h, rfl⟩, fun h => ?_, ?_⟩, fun val s =>
    ⟨fun x => xltInv_completes val s x, ?_, fun x => ?_, ?_⟩⟩
  · refine (dtstepLoad_completes e val s).imp fun t => ?_
    split
    · exact id
    · rintro ⟨hbusy, h⟩
      refine ⟨hbusy, ?_⟩
      by_cases hbad : s.askedTid e = 15 ∨ s.curTid e = some (s.askedTid e)
      · rw [if_pos hbad] at h
        rwa [if_pos hbad]
      · rw [if_neg hbad] at h
        rw [if_neg hbad]
        exact shown_of_ordered e val s h
  · refine ⟨_, exec_tableLoadDone e s h, ?_⟩
    split
    · next d hread =>
      change (tableRead s e).1 = .ok d at hread
      rw [hread]
      by_cases hvalid : tabValid (BitVec.ofNat 1024 (leNat d)) = true
      · have hview := judgeTable_valid (e := e) (tid := s.rdF .MEM_CDC_STATUS Fld.MEM_CDC_STATUS_OTHTID e) (u := cdcUnit s e) hvalid
          (tableRead s e).2
        have hcur := (congrArg TableView.cur hview).trans (tableRead_cur e s)
        rw [if_pos hvalid]
        exact ⟨congrArg TableView.oth hview, (otherBank_of_cur hcur).symm.trans (congrArg TableView.other hview)⟩
      · rw [if_neg hvalid, judgeTable_invalid hvalid]
        exact rejectTable_leaves e _
    · next f hread =>
      change (tableRead s e).1 = .error f at hread
      rw [hread, judgeTable, run_seq]
      exact rejectTable_leaves e _
  · refine (bankRetire_completes e s).imp fun t h => ?_
    by_cases hret : s.retiring e
    · rw [if_pos hret] at h
      rw [if_pos hret]
      exact shown_of_retired e s h
    · rw [if_neg hret] at h
      rwa [if_neg hret]
  · refine (xltInvall_completes val s).imp fun t => ?_
    split
    · exact id
    · exact fun ⟨hbusy, hlost, hall, hcache⟩ => ⟨hbusy, hall, hlost, hcache⟩
  · cases x with
    | some i => exact invalidationDone_unit s i
    | none => exact invalidationDone_everywhere s
  · refine (flogRead_completes val s).imp fun t => ?_
    split
    · exact id
    · exact fun ⟨hbusy, _, hread⟩ => ⟨hbusy, hread⟩

end Sys2Proof.Machine
